-- ==== Sys2Proof/Word.lean ====
section
/-!
DEFINITION. The word types of the SM4824 model and the canonical sparse map in which the block's numbered
objects (tiles, queues, frames, bytes of memory) are held as plain data.
-/
namespace Sys2Proof

/-- One byte. -/
abbrev Byte := BitVec 8
/-- A 16-bit field. -/
abbrev W16 := BitVec 16
/-- A 32-bit word: a vector lane, a register half. -/
abbrev W32 := BitVec 32
/-- A 64-bit word: a scalar register, a 64-bit register. -/
abbrev W64 := BitVec 64

/-- A sparse map from numbers, held as a list of (key, value) pairs. Canonical form: keys strictly rising. -/
abbrev NMap (α : Type) := List (Nat × α)

/-- The value at a key, if the map lists it. -/
def NMap.find? {α : Type} : NMap α → Nat → Option α
  | [], _ => none
  | (j, v) :: m, k => if j = k then some v else NMap.find? m k

/-- The value at a key, or the default that an unlisted key reads as. -/
def NMap.getD {α : Type} (m : NMap α) (k : Nat) (d : α) : α := (NMap.find? m k).getD d

/-- Lists a value at a key, in the key's place. -/
def NMap.insert {α : Type} : NMap α → Nat → α → NMap α
  | [], k, v => [(k, v)]
  | (j, w) :: m, k, v =>
    if k < j then (k, v) :: (j, w) :: m
    else if k = j then (k, v) :: m
    else (j, w) :: NMap.insert m k v

/-- Takes a key off the list. -/
def NMap.erase {α : Type} : NMap α → Nat → NMap α
  | [], _ => []
  | (j, w) :: m, k => if j = k then m else (j, w) :: NMap.erase m k

/-- Writes a value: the value an unlisted key reads as takes the entry off the list. -/
def NMap.setD {α : Type} [DecidableEq α] (m : NMap α) (d : α) (k : Nat) (v : α) : NMap α :=
  if v = d then NMap.erase m k else NMap.insert m k v

/-- The canonical form: every key of the list is below every key after it. -/
def NMap.sorted {α : Type} : NMap α → Bool
  | [] => true
  | [_] => true
  | (j, _) :: (k, w) :: m => decide (j < k) && NMap.sorted ((k, w) :: m)

/-- No entry holds the value that an unlisted key reads as. -/
def NMap.noDefault {α : Type} [DecidableEq α] (m : NMap α) (d : α) : Bool := m.all fun e => decide (e.2 ≠ d)

end Sys2Proof
end

