-- ==== Sys2Proof/Config.lean ====
section
/-!
DEFINITION. The values that the spec leaves open, as opaque constants: nothing in Lean can evaluate them, so a claim
about one holds for every value. Each names the rule that leaves it open and its entry in the assumption log.
-/
namespace Sys2Proof.Config

/-- The host physical address of a host address under a PASID: the host IOMMU translates it, outside the device (16 R352, log 110). -/
opaque hostAddr : Nat → Nat → Nat

/-- The next value that the spec leaves free, by the counter `State.freeN` that the step reads and advances (log 6). -/
opaque freeWord : Nat → W64

/-- A byte of a line of encrypted GDDR7 as it stands in memory: key of the slice, address of the line, its plaintext, index of the
byte (21 R473 names XTS and gives no cipher; log 30). -/
opaque cipherByte : List Byte → Nat → List Byte → Nat → Byte

/-- The bytes that a code engine writes where it encodes or decodes a polar code: OP, BG, ZC, ROWS, ITER, N, K, CRC and the input (13 R288).
The codes are those of 3GPP TS 38.212, which the spec does not restate, and for flash a code whose graph it does not give (log 31). -/
opaque codeOut : List Nat → List Byte → List Byte

/-- Bits 0 and 1 of OUTCOME for the same arguments: syndrome zero, CRC passed (13 R288; log 31). -/
opaque codeOutcome : List Nat → List Byte → Nat

/-- The circulants of an LDPC base graph, by OP 1 or 5, BG and ZC: row, column, shift. Those of TS 38.212 and that of flash are not given
(13 R288, 11 R248; log 31). -/
opaque baseGraph : Nat → Nat → Nat → List (Nat × Nat × Nat)

/-- The CRC24B of a code block passes, by its bits (13 R288; TS 38.212 gives it; log 31). -/
opaque crc24bOk : List Bool → Bool

/-- Bilmeiq's IANA private enterprise number, which the SP mask ROM holds and the spec does not give (16 R360; log 36). -/
opaque vendorIana : W32

/-- The root hash in mask ROM (21 R462 check 2), the SP ROM version (21 R466), and the item types of the measurement log by register and
place in its order (21 R466): constants that the spec names and does not give (log 42). -/
opaque rootHash : List Byte
opaque romVersion : List Byte
opaque itemType : Nat → Nat → Nat

/-- Verification of an ML-DSA-87 signature by key, message and signature (FIPS 204, which the spec names and does not restate; log 42). -/
opaque signatureOk : List Byte → List Byte → List Byte → Bool

/-- An ML-DSA-87 signature by private key and message (log 42). -/
opaque sign : List Byte → List Byte → List Byte

/-- The key pair (pk, sk) of the internal key generation of FIPS 204 on a seed (21 R458 step 5; log 42). -/
opaque keyPair : List Byte → List Byte × List Byte

/-- The 64 bytes of key material from the key region of the PUF and helper data, or a failure of the correction (21 R458 step 3; log 42). -/
opaque pufCorrect : List Byte → List Byte → Option (List Byte)

/-- The subject public key of a certificate in DER (21 R459; log 42). -/
opaque certKey : List Byte → List Byte

/-- The bytes of an SPDM 1.3 message by its code and content (21 R468 names SPDM and does not restate it; log 42). -/
opaque spdmFrame : Nat → List Byte → List Byte

/-- The SEC-DED check word of a GDDR7 line over its 64 bytes and its index in its channel; the spec gives no code (08 R166, log 85). -/
opaque checkWord : List Byte → Nat → BitVec 16
/-- The check word of a poisoned line (08 R167, log 85). -/
opaque poisonWord : BitVec 16
/-- The two bytes of a check line that hold no check word, by channel and physical line (08 R166, log 85). -/
opaque checkTail : Nat → Nat → BitVec 16

/-- The gust limiter's refined prediction of a floor's power in 0.1 W, by the prediction from the plan and the measured powers in mW of
the last ticks of equal floor, newest first (02 R33, log 90). -/
opaque refine : Nat → List Nat → Nat

/-- The function that a card profile assigns to GPIO0 to GPIO15, its direction and whether it keeps the pull-down, by profile and pin
(02 R43, log 91). -/
opaque gpioFunction : List Byte → Nat → BitVec 8
opaque gpioOutput : List Byte → Nat → Bool
opaque gpioPulled : List Byte → Nat → Bool

/-- The 16-bit significands that SKEWA and SKEWB write for a BF16 group that holds an infinity or a NaN; the spec gives only the group's
strip byte (06 R133, log 102). -/
opaque bfSpecial : List Nat → List Nat

/-- The bits of the TAP's IDCODE beside the part field (02 R42, log 102). -/
opaque idcodeRest : W32

/-! The radio functions that 3GPP TS 38.211 to 38.214, FAPI and the O-RAN CUS-plane specification define; the spec names those documents
and does not restate them, so each is a free function of the PDU's fields and its input (13 R273, R282 to R286; log 101). -/

/-- The soft bits of one PRB of a PUCCH of format 2 to 4, natural-log ratios as FP32: PDU, samples of every PRB, index of the PRB (13 R284). -/
opaque softBits : List Nat → List (List Int) → Nat → List W32
/-- The DMRS of a layer in a PRB of a symbol: a complex value as FP32 at each of the 12 REs that bears one of the layer (13 R282 step 1). -/
opaque dmrs : List Nat → Nat → Nat → Nat → List (Option (W32 × W32))
/-- The REs of a PRB of a symbol that carry data of a PUSCH, ascending. -/
opaque dataRes : List Nat → Nat → Nat → List Nat
/-- The point of a constellation of a number of bits that a label names (13 R282 step 3). -/
opaque constellation : Nat → Nat → W32 × W32
/-- Descrambling and de-rate-matching: LLRs of the code blocks, one after another. -/
opaque deRateMatch : List Nat → List Int → List Int
/-- The transport block of decoded code blocks: whether its CRC passes, and its bytes. -/
opaque transportBlock : List Nat → List (List Byte) → Bool × List Byte
/-- Transport-block CRC attachment and segmentation, or the payload of a polar code with its CRC: the inputs of the engines. -/
opaque segments : List Nat → List Byte → List (List Byte)
/-- Rate matching and bit interleaving of encoded blocks. -/
opaque rateMatch : List Nat → List (List Byte) → List Bool
/-- Scrambling and modulation: complex symbols as BF16 codes of I and Q. -/
opaque modulate : List Nat → List Bool → List (Nat × Nat)
/-- Layer mapping: the vector of layers at each resource element. -/
opaque layerMap : Nat → List (Nat × Nat) → List (List (Nat × Nat))
/-- The DMRS, PT-RS, CSI-RS and SSB sequences: complex symbols as BF16 codes of I and Q. -/
opaque sequence : List Nat → List (Nat × Nat)
/-- The sequence of PUCCH format 0 or 1 that carries a payload value, and the threshold of its detection in 1/256 of the energy received. -/
opaque pucchSequence : List Nat → Nat → List (Int × Int)
opaque pucchThreshold : List Nat → Nat
/-- Reed–Muller decoding of a UCI payload of a number of bits from its LLRs. -/
opaque reedMuller : Nat → List Int → List Nat
/-- Category B weights of a layer for 64 antennas, computed from the SRS estimates of the users, as BF16 codes of I and Q. -/
opaque srsWeights : List (Nat × List W32) → Nat → List (Nat × Nat)
/-- Section extension 1 with a layer's weights at the mantissa width given. -/
opaque extension1 : Nat → List (Nat × Nat) → List Byte
/-- The time-domain samples of a symbol of a stream before their conversion to 16 bits: IFFT and cyclic prefix, by numerology, symbol and
samples of the symbol (12 R267). -/
opaque ofdmSamples : Nat → Nat → Nat → List (Int × Int) → List (Int × Int)
/-- The FFT of a received symbol whose cyclic prefix has been removed: the I and Q of each subcarrier (12 R267). -/
opaque fft : Nat → List (W32 × W32) → List (Int × Int)
/-- The FP32 table value of a gain in 0.5 dB (12 R268). -/
opaque gainValue : Nat → W32
/-- The channel estimate of a user's SRS from the samples of its PRBs (13 R286). -/
opaque srsEstimate : List Nat → List (List Int) → List W32
/-- The power delay profile of a PRACH occasion against a root: the power at each position (13 R285). -/
opaque delayProfile : List Nat → Nat → List (List Int) → List Nat
/-- The cyclic-shift windows of a PRACH occasion: preamble index, root, first position, positions (13 R285). -/
opaque rachWindows : List Nat → List (Nat × Nat × Nat × Nat)
/-- What the twilight template sends in a slot: numerology, MIB, SFN and slot, SIB1 payload, SI payloads with their periodicity and window; a
symbol, stream and subcarrier with its I and Q (13 R298). -/
opaque templateRes : List Nat → List Byte → List (List Byte × Nat × Nat) → List (Nat × Nat × Nat × Int × Int)
/-- Bytes of the payload at a pointer of TWILIGHT_CFG (13 R298). -/
opaque sibLength : Nat → Nat
/-- Where the compiled template of a cell and slot stands in GDDR7, and where a cell's work lists do (13 R298, R300). -/
opaque templateAt : Nat → Nat → Nat
/-- The body of a message to layer 2 in the format of SCF222: message ID, cell, SFN, slot, error, arguments (13 R276). -/
opaque fapiBody : Nat → List Nat → List Byte
/-- Where in the message area the device writes a message, by PHY and entry (13 R277). -/
opaque indPlace : Nat → Nat → Nat
/-- The destination and source addresses of the frames of a port for an eAxC ID or flow, 12 bytes: the spec does not say where they come
from (12 R259). -/
opaque fhAddresses : Nat → Nat → Nat
/-- The section ID of a section of an eAxC ID, 12 bits: the spec does not say how they are given (12 R261). -/
opaque sectionId : Nat → Nat → Nat
/-- The subType byte of the native time-domain mapping of IEEE 1914.3 (12 R266). -/
opaque roeSubType : Nat

/-- The 120 parity bits and 8 bits of block alignment of a flit on its lane, 16 bytes: the code's generator and the alignment are not given
(14 R302; log 20). -/
opaque fecRest : List Byte → List Byte

/-- The 512 parity bytes of a NAND codeword, from its data and metadata: the rate and lift of the code are the spec's, its matrix is
not given (11 R248; log 106). -/
opaque flashParity : List Byte → List Byte

/-- What the components of a control processor write as their state records, by the counter of free values and the processor:
component, type, version and content of each; the content is the component's own (18 R411; log 103). -/
opaque stateRecords : Nat → Nat → List (Nat × Nat × Nat × List Byte)

/-- The alternate best master clock algorithm of ITU-T G.8275.1: the first data set is better than the second, at a port's localPriority
(15 R343 names the algorithm and does not restate it; log 40). -/
opaque betterMaster : Nat → List Nat → List Nat → Bool
/-- localPriority of a fronthaul port (15 R343; log 40). -/
opaque localPriority : Nat → Nat

end Sys2Proof.Config
end

