-- ==== Sys2Proof/Machine/Bytes.lean ====
section
/-!
DEFINITION. Little-endian fields (00 R4), bytes of the sparse memories, and the check codes and digests that the
spec computes: the CRC-64 of ECMA-182 (00 R502), the CRC-32C of RFC 3720 (14), SHA3-512 of FIPS 202 (18, 20, 21) and
Philox-4x32-10 (10 R228).
-/
namespace Sys2Proof.Machine

/-- The number that little-endian bytes hold (R4). -/
def leNat : List Byte → Nat
  | [] => 0
  | b :: bs => b.toNat + 256 * leNat bs

/-- The `n` little-endian bytes of a number, high bits dropped (R4). -/
def leBytes : Nat → Nat → List Byte
  | 0, _ => []
  | n + 1, v => BitVec.ofNat 8 v :: leBytes n (v / 256)

/-- The number that big-endian bytes hold. -/
def beNat (bs : List Byte) : Nat := leNat bs.reverse

/-- The `n` big-endian bytes of a number. -/
def beBytes (n v : Nat) : List Byte := (leBytes n v).reverse

/-- A little-endian field of a structure: `n` bytes at an offset; bytes beyond the end read as 0. -/
def fieldAt (bs : List Byte) (off n : Nat) : Nat := leNat ((bs.drop off).take n)

/-- A bit of a number. -/
def bitOf (v i : Nat) : Bool := v.testBit i

/-- Bits [hi:lo] of a number. -/
def bitsOf (v hi lo : Nat) : Nat := v / 2 ^ lo % 2 ^ (hi + 1 - lo)

/-- 1 or 0, as a field of one bit. -/
def bit1 (b : Bool) : Nat := if b then 1 else 0

/-- Bytes overlaid on a structure at an offset; the structure keeps its length. -/
def overlayAt (bs : List Byte) (off : Nat) (new : List Byte) : List Byte :=
  (bs.take off ++ new ++ bs.drop (off + new.length)).take bs.length

/-! ### Sparse memory -/

/-- One byte of a sparse memory; an unlisted address reads as 0x00 (log 1). -/
def Memory.read (m : List Host.Cell) (a : Nat) : Byte := NMap.getD m a 0

/-- Writes one byte and keeps the canonical form: 0x00 takes the entry off the list. -/
def Memory.write (m : List Host.Cell) (a : Nat) (v : Byte) : List Host.Cell := NMap.setD m 0 a v

/-- Reads `n` bytes from an address upward. -/
def Memory.readN (m : List Host.Cell) (a : Nat) : Nat → List Byte
  | 0 => []
  | n + 1 => Memory.read m a :: Memory.readN m (a + 1) n

/-- Writes bytes from an address upward. -/
def Memory.writeN (m : List Host.Cell) (a : Nat) : List Byte → List Host.Cell
  | [] => m
  | b :: bs => Memory.writeN (Memory.write m a b) (a + 1) bs

/-- The canonical form of a sparse memory: addresses strictly rising, no entry 0x00. -/
def Memory.wf (m : List Host.Cell) : Bool := NMap.sorted m && NMap.noDefault m 0

/-! ### Check codes -/

/-- One bit of the CRC-64 of R502. -/
def crc64Bit (c : BitVec 64) : BitVec 64 :=
  if c.msb then (c <<< (1 : Nat)) ^^^ 0x42F0E1EBA9EA3693#64 else c <<< (1 : Nat)

/-- `n` bits of a CRC. -/
def iter {α : Type} (f : α → α) : Nat → α → α
  | 0, x => x
  | n + 1, x => iter f n (f x)

/-- CRC-64 of R502: polynomial of ECMA-182, initial value 0, no reflection, no final XOR. -/
def crc64 (bs : List Byte) : W64 :=
  bs.foldl (fun c b => iter crc64Bit 8 (c ^^^ (BitVec.setWidth 64 b <<< (56 : Nat)))) 0

/-- One bit of the CRC-32C, reflected. -/
def crc32cBit (c : BitVec 32) : BitVec 32 :=
  if c.getLsbD 0 then (c >>> (1 : Nat)) ^^^ 0x82F63B78#32 else c >>> (1 : Nat)

/-- CRC-32C (Castagnoli), as the packets and frames that name it use. -/
def crc32c (bs : List Byte) : W32 :=
  ~~~(bs.foldl (fun c b => iter crc32cBit 8 (c ^^^ BitVec.setWidth 32 b)) 0xFFFFFFFF#32)

/-! ### SHA3-512 -/

/-- The Keccak state of FIPS 202: 25 lanes of 64 bits, lane (x, y) at x + 5 y. -/
abbrev Keccak := List W64

/-- A lane of the state. -/
def Keccak.lane (a : Keccak) (x y : Nat) : W64 := a.getD (x % 5 + 5 * (y % 5)) 0

/-- The state whose lane (x, y) is `f x y`. -/
def Keccak.build (f : Nat → Nat → W64) : Keccak :=
  (List.range 25).map fun i => f (i % 5) (i / 5)

/-- Rotation offsets of the rho step, lane x + 5 y. -/
def Keccak.rho : List Nat :=
  [0, 1, 62, 28, 27, 36, 44, 6, 55, 20, 3, 10, 43, 25, 39, 41, 45, 15, 21, 8, 18, 2, 61, 56, 14]

/-- Round constants of the iota step. -/
def Keccak.rc : List W64 :=
  [0x0000000000000001, 0x0000000000008082, 0x800000000000808A, 0x8000000080008000, 0x000000000000808B,
   0x0000000080000001, 0x8000000080008081, 0x8000000000008009, 0x000000000000008A, 0x0000000000000088,
   0x0000000080008009, 0x000000008000000A] ++
  [0x000000008000808B, 0x800000000000008B, 0x8000000000008089, 0x8000000000008003, 0x8000000000008002,
   0x8000000000000080, 0x000000000000800A, 0x800000008000000A, 0x8000000080008081, 0x8000000000008080,
   0x0000000080000001, 0x8000000080008008]

/-- One round of Keccak-f[1600]: theta, rho and pi, chi, iota. -/
def Keccak.round (a : Keccak) (rc : W64) : Keccak :=
  let col := fun x => a.lane x 0 ^^^ a.lane x 1 ^^^ a.lane x 2 ^^^ a.lane x 3 ^^^ a.lane x 4
  let cs := (List.range 5).map col
  let d := fun x => cs.getD ((x + 4) % 5) 0 ^^^ (cs.getD ((x + 1) % 5) 0).rotateLeft 1
  let t := Keccak.build fun x y => a.lane x y ^^^ d x
  -- pi: lane (y, 2x + 3y) takes lane (x, y); the source of lane (X, Y) is x = X + 3 Y, y = X
  let b := Keccak.build fun x y => (t.lane (x + 3 * y) x).rotateLeft (Keccak.rho.getD ((x + 3 * y) % 5 + 5 * (x % 5)) 0)
  let c := Keccak.build fun x y => b.lane x y ^^^ (~~~(b.lane (x + 1) y) &&& b.lane (x + 2) y)
  match c with
  | l :: ls => (l ^^^ rc) :: ls
  | [] => []

/-- Keccak-f[1600]. -/
def Keccak.permute (a : Keccak) : Keccak := Keccak.rc.foldl Keccak.round a

/-- XORs a block of 72 bytes into the state. -/
def Keccak.absorb (a : Keccak) (blk : List Byte) : Keccak :=
  Keccak.permute ((List.range 25).map fun i => a.getD i 0 ^^^ BitVec.ofNat 64 (fieldAt blk (8 * i) 8))

/-- Absorbs blocks of 72 bytes; the fuel is the number of blocks. -/
def Keccak.absorbAll : Nat → Keccak → List Byte → Keccak
  | 0, a, _ => a
  | n + 1, a, bs => Keccak.absorbAll n (a.absorb (bs.take 72)) (bs.drop 72)

/-- SHA3-512 of FIPS 202: rate 72 bytes, padding 0x06 … 0x80, 64 bytes out. -/
def sha3_512 (bs : List Byte) : List Byte :=
  let n := bs.length / 72 + 1
  let padLen := 72 * n - bs.length
  let pad : List Byte := if padLen = 1 then [0x86] else [0x06] ++ List.replicate (padLen - 2) 0 ++ [0x80]
  let a := Keccak.absorbAll n (List.replicate 25 0) (bs ++ pad)
  ((a.take 8).map fun l => leBytes 8 l.toNat).flatten

/-! ### Philox-4x32-10 -/

/-- One round of Philox-4x32. -/
def philoxRound (c : W32 × W32 × W32 × W32) (k0 k1 : W32) : W32 × W32 × W32 × W32 :=
  let p0 := 0xD2511F53 * c.1.toNat
  let p1 := 0xCD9E8D57 * c.2.2.1.toNat
  (BitVec.ofNat 32 (p1 / 2 ^ 32) ^^^ c.2.1 ^^^ k0, BitVec.ofNat 32 p1,
   BitVec.ofNat 32 (p0 / 2 ^ 32) ^^^ c.2.2.2 ^^^ k1, BitVec.ofNat 32 p0)

/-- `n` rounds of Philox-4x32; the key is bumped between rounds. -/
def philoxRounds : Nat → W32 × W32 × W32 × W32 → W32 → W32 → W32 × W32 × W32 × W32
  | 0, c, _, _ => c
  | n + 1, c, k0, k1 => philoxRounds n (philoxRound c k0 k1) (k0 + 0x9E3779B9) (k1 + 0xBB67AE85)

/-- Philox-4x32-10 (10 R228). -/
def philox (c0 c1 c2 c3 k0 k1 : W32) : W32 × W32 × W32 × W32 := philoxRounds 10 (c0, c1, c2, c3) k0 k1

end Sys2Proof.Machine
end

