-- ==== Sys2Proof/Machine/Data.lean ====
section
/-!
DEFINITION. The plain data that commands carry and State holds: plans, overcast words, kernel images, slot
operands, packets, frames, messages. Layout tables of the spec are named in each docstring.
-/
namespace Sys2Proof

/-- Operand b of the vector/signal slot, by BSEL (07 R145). -/
inductive OpB where
  | reg (n : Nat)          -- 0b00
  | sreg (n : Nat)         -- 0b01
  | imm (i : W16)          -- 0b10
deriving DecidableEq, Repr

/-- Fields of an X or Y slot (07 R153). -/
structure LsOp where
  slotY : Bool             -- false: the X slot; true: the Y slot
  r     : Nat              -- [26:22]
  an    : Nat              -- [21:18]
  pm    : Nat              -- [17:16]
  cvt   : Nat              -- [15:13]
  off   : BitVec 13        -- [12:0]
deriving DecidableEq, Repr

/-- Fields of an array slot (05 R97). -/
structure ArrOp where
  arr  : Nat               -- which array slot, 0 or 1
  fmt  : Nat
  sa   : Nat
  aoff : Nat
  sb   : Nat
  boff : Nat
  acc  : Nat
  clr  : Bool
  ld   : Bool
  msk  : Nat               -- MK: 0..15 a mask register; 31 every row present
deriving DecidableEq, Repr

/-- Fields of the DMA/skew slot (05 R106). -/
structure DmaOp where
  tag : Nat
  src : Nat
  dst : Nat
  prm : Nat
  imm : Byte
deriving DecidableEq, Repr

/-- Where an error strikes: in the column sum, in the residue path, or in one of the two anvil adds (05 R116 to R118). -/
inductive ErrPlace where
  | sum | path | anvil
deriving DecidableEq, Repr

/-- An error that strikes the computation of an output: its row and column, its place, and its value, in units of the window for
a column sum and modulo 127 for the residue path (05 R116 to R118). -/
structure ColErr where
  row : Nat
  col : Nat
  place : ErrPlace
  value : Int
deriving DecidableEq, Repr

/-- A LIN with what the check of the duplicated anvil add finds in it, if it finds a mismatch (05 R118). -/
structure LinOp where
  op  : ArrOp
  err : Option ColErr
deriving DecidableEq, Repr

/-- The input land and the bulk behind stage one, in mV, as the lid measures them (02 R19, R21). -/
structure InputLevels where
  vinMv  : Nat
  bulkMv : Nat
deriving DecidableEq, Repr

/-- A PTP message as it leaves or arrives (15 R343, 12 R270). -/
structure PtpMsg where
  domain  : Nat
  dest    : Nat                -- destination address, 48 bits
  source  : Nat                -- sourcePortIdentity, 80 bits
  dataset : List Nat           -- what an Announce says of its grandmaster: class, accuracy, variance, priorities, identity, steps removed
  ns      : Nat                -- nanoseconds from the beginning of the beat to its timestamp point, below 100
  offset  : Option Int         -- T - source of the measurement that it completes
deriving DecidableEq, Repr

/-- What the lid sees while it brings the rails up: the bulk in mV, and the steps whose rails have come into regulation (02 R25). -/
structure RailLevels where
  bulkMv : Nat
  regs   : Nat
deriving DecidableEq, Repr

/-- The operations of the sequencing slot as an image holds them (04 R66), for the checks of R69 and R70. -/
inductive SeqOp where
  | nop
  | br (target : Nat)
  | brz (n target : Nat)
  | brnz (n target : Nat)
  | loop (count : Nat)
  | endl
  | repeatN (n : Nat)
  | waitd (tag maxw : Nat)
  | syncp (ctr : Nat)
  | endK
  | other                  -- an OP value outside the table of R66, or a reserved operand bit that is not 0
deriving DecidableEq, Repr

/-- A resident kernel image as the die holds it (04 R67, R68). -/
structure Image where
  imageId   : Nat          -- IMAGE_ID
  length    : Nat          -- LENGTH_BEATS
  bundles   : List (BitVec 256)
  floor     : Bool         -- FLAGS.FLOOR
  verified  : Bool         -- length-verified under R69 and R70
  bound     : Nat          -- computed bound in cycles, 0 if unverified
  startable : Nat          -- tick index from whose seam the image is startable (R68)
deriving DecidableEq, Repr

/-- An action entry of an overcast word (04 R74). -/
inductive Act where
  | hold
  | start (kernel argset : Nat)
  | openA
  | sync (counter target : Nat)
deriving DecidableEq, Repr

/-- An overcast word: its beat and its entries, each a unit id and an action (04 R73 to R75). -/
structure OWord where
  beat    : Nat
  entries : List (Nat × Act)
deriving DecidableEq, Repr

/-- STATE of a plan header (03 "Plan header"). -/
inductive PlanState where
  | empty | building | sealed | running | retired | substituted
deriving DecidableEq, Repr

/-- A slot descriptor of an active cell (13 R300). -/
structure CellSlot where
  cell       : Nat
  twilight   : Bool        -- MODE 2
  mu         : Nat
  sfn        : Nat
  slot       : Nat
  tickInSlot : Nat
  rxSync     : Nat
  codeSync   : Nat
  late       : Bool        -- FLAGS[0]
  noData     : Bool        -- FLAGS[1]
  workPtr    : Nat
  dlPtr      : Nat
  ulPtr      : Nat
  statePtr   : Nat
  units      : List Nat    -- units on which its work list of this tick places work (13 R292)
deriving DecidableEq, Repr

/-- A code-job entry (13 R288). -/
structure CodeJob where
  op     : Nat             -- 1 LDPC_DEC 2 LDPC_ENC 3 POLAR_DEC 4 POLAR_ENC 5 FLASH_DEC 6 FLASH_ENC
  bg     : Nat
  zc     : Nat
  rows   : Nat
  iter   : Nat
  length : Nat             -- LENGTH_BEATS
  inp    : Nat             -- IN
  out    : Nat             -- OUT
  polarN : Nat
  polarK : Nat
  crc    : Nat
deriving DecidableEq, Repr

/-- A transfer-list entry (14 R314). -/
structure XferEntry where
  op      : Nat            -- 1 LOAD 2 STORE 3 ATOMIC 4 ACC_L 5 FENCE 6 MSG
  sub     : Nat            -- SUB[3:0]
  comb    : Bool           -- SUB[4]
  len     : Nat
  remote  : Nat
  local_  : Nat
  operand : W64
deriving DecidableEq, Repr

/-- What a DMA burst serves beyond its copy. -/
inductive BurstUse where
  | plain
  | attn (q seq chain : Nat)                          -- staging of an ATTN chain (09 R203)
  | radio (cell first rnti harq : Nat) (dl : Bool)    -- a floor burst of a PDU of a slot (13 R296)
  | move (idx : Nat)                                  -- a page of a move, or its token log (11 R236)
  | pfx (q seq : Nat)                                 -- a page of PREFIX_FETCH or PREFIX_PUBLISH (11 R246)
deriving DecidableEq, Repr

/-- A job of a plan for a non-tile unit, by its job index (04 R76). -/
inductive PlanJob where
  | code (listPtr : Nat)                              -- a code-job list in memory (13 R288)
  | dma (desc : Nat)                                  -- first descriptor of the chain
  | xfer (listPtr : Nat)                              -- a transfer list in memory (14 R314)
deriving DecidableEq, Repr

/-- A timed transfer scheduled by the overcast stream (04 R91, R92): per-cycle bytes on a port or a link, between addresses of the
tile stores at its ends (log 89). -/
structure TimedRes where
  srcTile : Nat            -- 0..159 a tile, 0xA0.. a horizon-die unit
  dstTile : Nat
  cycle   : Nat            -- cycle of the tick in which it is sent
  srcAddr : Nat
  dstAddr : Nat
  bytes   : Nat
deriving DecidableEq, Repr

/-- What a piece of radio work does (13 R292). -/
inductive WorkKind where
  /-- Work for a DL symbol of the slot (12 R263). -/
  | dl (y : Nat)
  /-- The C-plane messages of a slot. -/
  | cplane
  /-- Work for a UL PDU: its last symbol as 16 A + y, and whether it is a PUCCH or an SRS, whose indication is due sooner (13 R281). -/
  | ul (sym : Nat) (control : Bool)
deriving DecidableEq, Repr

/-- A piece of radio work that the planners place in a tick (13 R292): the cell and first tick of its slot, its PRB-symbols, and the kernel,
floor tile and beat that run it. -/
structure RadioWork where
  cell   : Nat
  first  : Nat
  kind   : WorkKind
  prbs   : Nat
  kernel : Nat
  tile   : Nat
  beat   : Nat
deriving DecidableEq, Repr

/-- A tick plan (03 plan header, 04 stream, 17 share table, 13 slot descriptors). -/
structure Plan where
  tick       : Nat
  state      : PlanState
  clock      : Nat
  floorMask  : BitVec 160
  overcastPtr : Nat
  words      : Nat         -- OVERCAST_WORDS
  stream     : List Byte   -- the bytes at OVERCAST_PTR: the words, then the argument-set table (04 R73)
  floorPred  : Nat         -- FLOOR_PRED_DW, 0.1 W
  sharePtr   : Nat
  shares     : NMap Nat    -- key 64 * tile + slice: beats (17 R382)
  cellPtr    : Nat
  cells      : List CellSlot
  jobs       : NMap PlanJob
  timed      : List TimedRes
  owners     : List (Nat × Nat × Nat × Nat)  -- static starts of open-tile work: beat, unit, slice, context
  lengths    : List (Nat × Nat × Nat)  -- declared lengths of the jobs of non-tile units: unit, job index, beats
  workTiles  : List Nat    -- tiles on which the builder placed radio work (R53 "Floor complete")
  work       : List RadioWork  -- the radio work of the tick as CP1 and CP2 placed it, in the order of placement (13 R292)
  expect     : NMap Nat    -- beats of steps, ATTN chains and launched steps that CP3 expects each slice to run in the tick (17 R384)
  sealW      : W64         -- SEAL
deriving DecidableEq, Repr

/-- A rerun overlay (20 R440). -/
structure Overlay where
  tick        : Nat
  borrow      : BitVec 160
  overcastPtr : Nat
  words       : Nat         -- OVERCAST_WORDS
  stream      : List Byte   -- the bytes at OVERCAST_PTR
  sealW       : W64
deriving DecidableEq, Repr

/-- A steal-queue entry (04 R81). -/
structure StealJob where
  kernel  : Nat
  slice   : Nat
  length  : Nat
  context : Nat
  argsPtr : Nat
  seq     : Nat            -- ENQ_SEQ
  donePtr : Nat
  attn    : Option (Nat × Nat × Nat)  -- a job of an ATTN chain: queue and sequence number of its command, and the chain (09 R203)
deriving DecidableEq, Repr

/-- A job that arrives at a die's dispatcher in this beat: its tile queue, or none for the die queue (04 R82, R85). -/
structure Arrival where
  tile : Option Nat
  die  : Nat
  entry : List Byte        -- the 32 bytes of the entry (04 R81)
  firmware : Bool          -- system rank of the tie table (17 R397)
deriving DecidableEq, Repr

/-- A Watric packet (14 R305). -/
structure Packet where
  op      : Nat
  retry   : Bool
  comb    : Bool
  prot    : Bool
  merged  : Bool
  src     : Nat
  dst     : Nat
  psn     : Nat
  epoch   : Nat
  path    : Nat
  jobTag  : Nat
  len     : Nat
  status  : Nat
  addr    : Nat
  stamp   : Nat            -- launch counter in beats: tick * 1250 + beat
  payload : List Byte
  rsvFlags : Nat           -- FLAGS[7:4]
  rsvStamp : Nat           -- STAMP[63:53]
  ecrc    : W32            -- ECRC as it came; a packet to send gets its own as it goes out
deriving DecidableEq, Repr

/-- A received fronthaul frame, with the fields that R259 to R264 and R266 act on. -/
structure FhFrame where
  vid       : Option (Nat × Nat)   -- one tag: TPID and VID; none: untagged
  twoTags   : Bool
  etherType : Nat
  slowSub   : Nat                  -- slow-protocol subtype
  fcsOk     : Bool
  revision  : Nat                  -- eCPRI
  concat    : Bool
  msgType   : Nat
  eBit      : Bool
  eaxc      : Nat
  filterIdx : Nat
  sym       : Nat                  -- the symbol that the header fields place: y of the slot whose first tick is A, 16 A + y; of an
                                   -- IEEE 1914.3 frame, 16 times a tick of its radio frame
  sections  : List (Nat × Nat × Bool × Nat × Nat)  -- first PRB, PRBs, rb or symInc set, method, width
  flow      : Nat                  -- IEEE 1914.3 flowID
  seqNum    : Nat                  -- IEEE 1914.3 sequence number
  stampNs   : Nat                  -- receive stamp, device time in ns
  body      : List Byte            -- payload: the PRBs of the sections in turn (12 R262), or time-domain samples
deriving DecidableEq, Repr

/-- Messages that the device posts to layer 2 (13 R276). -/
inductive IndKind where
  | param | config | error | slot | rxData | crc | uci | srs | rach | cellState | cellBind | twilightCfg | stop
deriving DecidableEq, Repr

/-- Error names of FAPI that the spec uses (13 R276 to R280, R296). -/
inductive FapiErr where
  | ok | invalidState | invalidConfig | invalidSfn | slotErr | txErr
deriving DecidableEq, Repr

/-- The environment at a seam: what sensors and the timing unit measure over the tick that ends. -/
structure SeamEnv where
  vinMin   : Nat           -- lowest input voltage over the ended tick, mV
  cdAmps   : List Nat      -- core current of CD0..CD3, A
  seamErr  : Int           -- seam error e in units of 0.25 ns (15 R341)
  drops    : List (Nat × Nat)  -- images, by die and kernel index, that firmware asks to remove at this seam (04 R68)
deriving DecidableEq, Repr

/-- A firmware bundle as the SP reads it (18 R401, 21 R461 to R463): what the checks of R462 act on. -/
structure Bundle where
  headerOk   : Bool        -- MAGIC, reserved fields and offsets
  formatOk   : Bool
  svn        : Nat
  cmdsetRev  : Nat
  header     : List Byte
  rootKey    : List Byte
  signerCert : List Byte
  signerKey  : List Byte
  signerSig  : List Byte
  ownerCert  : List Byte
  ownerSigR  : List Byte   -- ROOT_SIG
  ownerOk    : Bool        -- owner certificate FORMAT and reserved fields
  ownerFlags : BitVec 16
  minSvn     : Nat
  scope      : List (List Byte)
  ownerKey   : List Byte
  devices    : List (List Byte × List Byte × List Byte)  -- PID, helper data, device certificate
  manifest   : List Byte
  vsig       : List Byte
  osig       : List Byte
  parts      : List (List Byte × List Byte)              -- part bytes and the digest of the manifest
  cpImages   : List (List Byte)
  spImage    : List Byte
  kernelSets : List (List Byte)
  cardProfile : List Byte
  domainProfile : List Byte
  repairMap  : List Byte
  vendorTiles : List (Nat × Nat)      -- die, physical tile retired by the vendor map
  vendorRows : List (Nat × Nat × Nat × Nat)  -- die, physical tile, array, row
  build      : Nat
  eccOn      : Bool        -- card profile: inline ECC mode
  orphanHold : Nat         -- card profile: ORPHAN_HOLD_S
  traceMask  : W64         -- card profile
  stressH    : Nat         -- card profile
  deviceNum  : Nat         -- domain profile
  senderTrusted : Bool     -- domain profile
  ports      : List Nat    -- domain profile: Watric ports
  paths      : List (Nat × List (Nat × Nat))  -- domain profile: destination, paths (port, index)
  exports    : List (Nat × Nat × Nat)  -- component, record type, version exported
  imports    : List (Nat × Nat × Nat)
  components : List (Nat × Nat × List Byte)  -- component, version, digest (18 R402)
  images     : List (Nat × Nat × List Byte)  -- die mask, kernel index and bytes of each kernel image that a start loads (04 R68, 23 R492)
  attnSet    : List Nat    -- kernel indices of the attention image set (09 R203)
deriving DecidableEq, Repr

/-- A state record of a firmware component (18 R411). -/
structure StateRec where
  comp    : Nat
  type_   : Nat
  version : Nat
  last    : Bool
  content : List Byte
deriving DecidableEq, Repr

/-- What the ONFI parameter page of a channel's NAND says (11 R247). -/
structure NandChan where
  page    : Nat              -- bytes of a page
  spare   : Nat              -- spare bytes of a page
  slc     : Bool             -- SLC mode on request
  targets : Nat              -- targets of the channel
  luns    : Nat              -- LUNs of a target
  blocks  : Nat              -- erase blocks of a LUN
  pages   : Nat              -- pages of an erase block, the stripes of a superblock
  bytes   : Nat              -- raw bytes of the channel
  marked  : List Nat         -- blocks with a factory defect mark, numbered (target * luns + LUN) * blocks + block (11 R251)
deriving DecidableEq, Repr

/-- What BIST finds (20 R444). -/
structure BistResult where
  tiles   : List (Nat × Nat)                -- die, physical tile
  rows    : List (Nat × Nat × Nat × Nat)    -- die, physical tile, array, row
  wires   : List (Nat × Nat × Nat × Nat)    -- failed link wires: die, link, lane group, wire
  deckBad : Bool
  cpSramBad : Bool
  engines : List (Nat × Nat)                -- horizon die, engine index of R481
deriving DecidableEq, Repr

/-- A token of a prompt or output. -/
abbrev Token := BitVec 32

/-- What the programs bring to a step: the drafts of each request, and the ATTN descriptors that the compiled program issues for the
step, in order (10 R214, R219; 09 R183). -/
structure StepWork where
  drafts : List (Nat × List Token)
  descs  : List (List Byte)
deriving DecidableEq, Repr

/-- The environment of a telemetry record: quantities averaged over the tick (02 R34). -/
structure TelEnv where
  vinMv : Nat
  iinMa : Nat
  pinDw : Nat
  cdDw  : List Nat
  hdDw  : List Nat
deriving DecidableEq, Repr

/-- What start-up finds after the bundle is verified: BIST, GDDR7 training, NAND, the stress variant (23 R492). -/
structure StartEnv where
  bist       : BistResult
  trained    : BitVec 32     -- channels MC0..MC31 that trained
  sameDevices : Bool         -- every channel populated alike (01 R11)
  clamshell  : Bool
  nandFitted : Bool
  nand       : List NandChan -- the NAND of each ONFI channel (11 R247)
  freeSb     : Nat           -- superblocks that firmware forms, as far as good blocks last
  bases      : List Nat      -- where firmware places its structures: plan ring, telemetry, pool, request, budget, adapter and
                             -- grammar tables, log, trace, sentinel ring, region table (their BASE registers)
  stateAreas : List (Nat × Nat)  -- the state area of each processor: address and bytes (18 R411)
  stressBad  : List Nat      -- logical tiles on which the stress variant or the sentinel pass mismatched
deriving DecidableEq, Repr

/-- One sentinel run as measured (20 R447). -/
structure SentEnv where
  die    : Nat
  ptile  : Nat
  load   : Nat
  kernel : Nat
  match_ : Bool              -- the signature is the known one
  tj     : Int
  vcoreMv : Nat
  pdieDw : Nat
deriving DecidableEq, Repr

/-- What the compiled program of a step gives for one row: logits per query, FP32 words (10 R219). -/
structure RowResult where
  idx    : Nat
  logits : List (List W32)
deriving DecidableEq, Repr

/-- Body of MOVE_RESERVE (11 R236 step 2). -/
structure MoveReserve where
  srcDev  : Nat
  srcIdx  : Nat
  srcGen  : Nat
  dstSlice : Nat
  reqId   : Nat
  model   : Nat
  p       : Nat
  len     : Nat              -- PROMPT_LEN + GEN_LEN
  adapter : Nat
  adapterVer : Nat
  grammar : Nat
  keys    : List (List Byte) -- prefix keys of the leading full pages
  jobTag  : Nat              -- job tag of the message's packets
deriving DecidableEq, Repr

/-- Answer to MOVE_RESERVE (14 R323 class 0x0102). -/
structure MoveReserved where
  status  : Nat
  dstIdx  : Nat
  dstGen  : Nat
  frames  : List Nat         -- fabric address of each frame
  matched : List Bool        -- pages matched by prefix key
  slot    : Nat              -- landing slot: its page list
  logAt   : Nat              -- its token log
deriving DecidableEq, Repr

/-- The binding of a cell (13 R279). -/
structure CellBind where
  port    : Nat
  catB    : Bool
  frameOffset : Nat
  dl      : Nat
  ul      : Nat
  prachThr : Nat
  prachPmr : Nat
  eaxc    : List Nat         -- DL then UL eAxC IDs
  harqBase : Nat
  harqMib : Nat
  agcPtr  : Nat
deriving DecidableEq, Repr

/-- A channel or signal of NR (13 R273). -/
inductive NrChannel where
  | ssb | pdcch | pdsch | csiRs | pucch (format : Nat) | pusch | prach | srs
  | other
deriving DecidableEq, Repr

/-- Fields of a CONFIG.request that the device acts on (13 R273, R293). -/
structure CellConfig where
  mu      : Nat
  carriers : Nat
  prbs    : Nat
  fdd     : Bool
  tdd     : List (Nat × Nat) -- DL and UL symbols of each slot of the pattern, in slot order; of an FDD cell, of one slot
  dlLayers : Nat
  ulLayers : Nat
  dlMod   : Nat              -- bits of the largest constellation, 1 for π/2-BPSK up to 10 for 1024-QAM
  ulMod   : Nat
  channels : List NrChannel
  samplesPer10ms : Nat
deriving DecidableEq, Repr

/-- The holdover content of a cell, as TWILIGHT_CFG.request gives it and its payloads stand when the template is compiled (13 R298). -/
structure TwilightCfg where
  holdS : Nat
  mib   : Nat                -- MIB bits; 0: none
  sib1  : List Byte
  si    : List (List Byte × Nat × Nat)  -- payload, periodicity in frames, window in slots
deriving DecidableEq, Repr

/-- An uplink shared-channel PDU of a slot (13 R282, R283): its fields on which coding depends, its allocation by symbols, 16 A + y, and
PRBs, the bits of its constellation, its layers, and the decoding of its code blocks. -/
structure UlPdu where
  rnti    : Nat
  harq    : Nat
  newData : Bool
  params  : List Nat
  syms    : List Nat         -- its symbols, ascending
  dmrs    : List Nat         -- those that carry DMRS, ascending
  prbs    : List Nat         -- its PRBs, ascending
  layers  : Nat
  bits    : Nat
  job     : CodeJob
deriving DecidableEq, Repr

/-- A PUCCH of a slot (13 R284): format, payload bits, its fields, its received PRBs, and the decoding of a payload of 12 bits or more. -/
structure UciPdu where
  format  : Nat
  bits    : Nat
  params  : List Nat
  prbs    : List Nat         -- keys of the received PRBs, as `prbKey` gives them
  job     : CodeJob
deriving DecidableEq, Repr

/-- An SRS of a user (13 R281), or a PRACH occasion (13 R285): its fields and its received PRBs. -/
structure RefPdu where
  rnti    : Nat
  params  : List Nat
  prbs    : List Nat
deriving DecidableEq, Repr

/-- What a downlink PDU carries (13 R286). -/
inductive DlKind where
  | pdsch | pdcch | pbch | reference
deriving DecidableEq, Repr

/-- A downlink PDU of a slot (13 R286): its fields, the payload that the request itself carries, the encoding of its blocks, its layers, the precoding matrix of each PRG by
antenna stream and layer as BF16 codes of I and Q, and its resource elements in mapping order: symbol, PRG, subcarrier. -/
structure DlPdu where
  kind    : DlKind
  index   : Nat
  params  : List Nat
  payload : List Byte
  job     : CodeJob
  layers  : Nat
  prgs    : List (List (List (Nat × Nat)))
  res     : List (Nat × Nat × Nat)
deriving DecidableEq, Repr

/-- A cyclic-shift window of a PRACH occasion: preamble index, peak, mean, peak position (13 R285). -/
structure RachWin where
  index : Nat
  peak  : Nat
  mean  : Nat
  pos   : Nat
deriving DecidableEq, Repr

/-- A FAPI message of layer 2 with what the device takes from it (13 R276 to R280): a DL_TTI its PDUs, a UL_TTI its PUSCH, PUCCH, SRS and
PRACH PDUs, a TX_Data the payloads by PDU index. -/
structure FapiMsg where
  phy   : Nat
  cell  : Nat
  sfn   : Nat
  slot  : Nat
  dls   : List DlPdu
  uls   : List UlPdu
  ucis  : List UciPdu
  srss  : List RefPdu
  rachs : List RefPdu
  data  : List (Nat × List Byte)
  body  : List Byte          -- the message as the device copied it (13 R277); what stands here in a command is not used
deriving DecidableEq, Repr

/-- The radio work of a slot that a kernel's end completes (13 R281 to R286), for a cell and the first tick of the slot: the PUSCH of a user
and HARQ process, the PUCCH, SRS or PRACH of an index, the downlink PDU of an index. -/
inductive RadioOut where
  | pusch (cell first rnti harq : Nat)
  | uci (cell first i : Nat)
  | srs (cell first i : Nat)
  | rach (cell first i : Nat)
  | downlink (cell first index : Nat)
deriving DecidableEq, Repr

/-- A section of a C-plane message (12 R261): first PRB, PRBs with 0 for every PRB of the carrier, resource-element mask, symbols, beam, and
the frequency offset of section type 3. -/
structure CSection where
  start   : Nat
  prbs    : Nat
  reMask  : Nat
  symbols : Nat
  beam    : Nat
  freqOff : Nat
deriving DecidableEq, Repr

/-- The C-plane message of an eAxC ID for a slot (12 R261): its direction, filterIndex, whether its numerology differs from the frame timing,
its first symbol, and the 5 bytes of timeOffset, frameStructure and cpLength that section type 3 carries. -/
structure CMessage where
  eaxc     : Nat
  dl       : Bool
  filter   : Nat
  mixed    : Bool
  start    : Nat
  timing   : List Byte
  sections : List CSection
deriving DecidableEq, Repr

end Sys2Proof
end

