-- ==== Sys2Proof/Syntax.lean ====
section
/-!
DEFINITION. The commands of the block: one constructor for each row of the table of operations and events
(opcode_table.json), in the table's order, with the operands that the row's rule names. Tile slot operations carry
the logical tile `t` and the issue cycle `c`, counted from cycle 0 of the running kernel's start beat. Host commands
carry the queue `q` and sequence number `seq` that name their journalled record (16 R368), from which their
parameters are read. A quantity measured by the device's surroundings (a sensor, a link, a message) is an operand.
-/
namespace Sys2Proof

inductive Instr where
  /-- POWER_UP (R25): PWR_EN high with the bulk at 43 V starts rail sequencing, which ends with PWR_GOOD. -/
  | powerUp (v : RailLevels)
  /-- POWER_DOWN (R25): PWR_EN falls and the lid powers the rails down in reverse order from the step it has reached. -/
  | powerDown
  /-- COLD_START (R492): PWR_GOOD rises: TIM_RAW and tick 0 start, and the SP ROM runs self-tests, the PUF read and the later start-up steps. -/
  | coldStart (selfTestOk sramOk : Bool) (pufReads : List (List Byte)) (pufKey : List Byte)
  /-- BROWNOUT (R22): Input falls below 42 V: BROWNOUT is set, an event is recorded and an admission hold is applied to open tiles. -/
  | brownout (v : InputLevels)
  /-- BROWNOUT_SHUTDOWN (R23): Input has stayed below 42 V for 2 ms, so PWR_GOOD is deasserted and the rails are turned off. -/
  | brownoutShutdown
  /-- OVERVOLT (R24): Input rises above 59 V: stage one stops, OVERVOLT is set and an event is recorded. -/
  | overvolt (v : InputLevels)
  /-- OVERVOLT_CLEAR (R24): Input falls below 57 V and stage one restarts unless a shutdown has already occurred. -/
  | overvoltClear (vinMv : Nat)
  /-- CURRENT_WARNING (R26): A compute die's core current reaches its warning level and that die's open tiles are held. -/
  | currentWarning (die amps : Nat)
  /-- RAIL_TRIP (R26): A rail has stayed at its trip level for 20 µs: the lid shuts down and latches the rail identity. -/
  | railTrip (rail : Nat)
  /-- THERMAL_SAMPLE (R35): The junction sensors are read each tick and thermal duty and THERMAL are updated. -/
  | thermalSample (cd hd : List Int)
  /-- GOVERNOR_DUTY (R29): Before the dusk band of each tick, the governor computes the open duty for the next tick. -/
  | governorDuty (inMw floorMw openMw beatsUsed : Nat)
  /-- TELEMETRY_RECORD (R34): One 64-byte telemetry record is written per tick to the ring, with TICK written last. -/
  | telemetryRecord (e : TelEnv)
  /-- SEAM (R50): Beat 0 of a tick: the staging is applied, plan states advance, duty and shares apply, and SLOT.indication and budget refill take place. -/
  | seam (e : SeamEnv)
  /-- DUSK_BAND (R50): At beat 1,234 the shadows are copied to staging and frozen, and the sequencers load the next plan. -/
  | duskBand
  /-- PLAN_SUBSTITUTE (R55): The sealing deadline has passed with the plan unsealed, so the tick-plan unit builds a substitute plan that runs the twilight template. -/
  | planSubstitute
  /-- PLAN_SEAL (R53): CP0 checks a tick plan and seals it, or records a plan fault. -/
  | planSeal (p : Plan)
  /-- OVERCAST_WORD (R76): A beat's overcast word issues START, HOLD, OPEN and SYNC actions to the units it names. -/
  | overcastWord
  /-- DISPATCH (R85): At cycle 0 of each beat, each die's dispatcher starts dynamic kernels on open idle tiles and places arriving jobs. -/
  | dispatch (arrivals : List Arrival)
  /-- KERNEL_END (R71): A kernel has issued END and its operations have completed, so the tile goes idle and DONE_PTR is incremented. -/
  | kernelEnd (t : Nat) (radio : List RadioOut)
  /-- KERNEL_OVERRUN (R60): A kernel is still issuing at its declared length, so it is stopped and its context is barred and torn down at the seam. -/
  | kernelOverrun (t : Nat)
  /-- WAITD_TIMEOUT (R72): A WAITD reaches its maximum wait, which faults an unverified kernel or is a tile fault for a verified one. -/
  | waitdTimeout (t : Nat)
  /-- SLOT_NOP (R65): A slot whose bits are all 0 does nothing. -/
  | slotNop (t c slot : Nat)
  /-- BR (R66): Branch always. -/
  | br (t c target : Nat)
  /-- BRZ (R66): Branch if Sn is 0. -/
  | brz (t c n target : Nat)
  /-- BRNZ (R66): Branch if Sn is not 0. -/
  | brnz (t c n target : Nat)
  /-- LOOP (R66): Opens a loop body that runs count times. -/
  | loop (t c count : Nat)
  /-- ENDL (R66): Marks the last bundle of the innermost loop body. -/
  | endl (t c : Nat)
  /-- REPEAT (R159): Issues the next bundle n times. -/
  | repeatN (t c n : Nat)
  /-- WAITD (R66): Holds issue until the DMA/skew operation with the tag completes. -/
  | waitd (t c tag maxw : Nat)
  /-- SYNCP (R66): Adds 1 to a device sync counter. -/
  | syncp (t c ctr : Nat)
  /-- END (R66): Last bundle of the kernel. -/
  | endK (t c : Nat)
  /-- MMA (R100): Streams an A block against the active weight set into an accumulator block, optionally loading the next weights. -/
  | mma (t c : Nat) (o : ArrOp) (err : Option ColErr)
  /-- WLD (R98): Loads a B block into the other weight set and makes it active. -/
  | wld (t c : Nat) (o : ArrOp)
  /-- ROUT (R135): Rounds an accumulator block once to the output format and writes it to the tile store. -/
  | rout (t c : Nat) (o : ArrOp)
  /-- LOUT (R138): Writes an accumulator block as long values in the exchange format. -/
  | lout (t c : Nat) (o : ArrOp)
  /-- LIN (R140): Reads long values in the exchange format and adds them exactly into an accumulator block, or replaces it. -/
  | lin (t c : Nat) (o : LinOp)
  /-- LD (R107): DMA copy from device memory to the tile store. -/
  | ld (t c : Nat) (o : DmaOp)
  /-- ST (R107): DMA copy from the tile store to device memory. -/
  | st (t c : Nat) (o : DmaOp)
  /-- SKEWA (R107): Builds an A block in rotated layout, with its strip and row mask. -/
  | skewa (t c : Nat) (o : DmaOp)
  /-- SKEWB (R107): Builds a B block in row layout, with its strip. -/
  | skewb (t c : Nat) (o : DmaOp)
  /-- MKS (R107): Sets a mask register from a scalar. -/
  | mks (t c : Nat) (o : DmaOp)
  /-- DMA_SKEW_COMPLETE (R110): A DMA/skew operation completes and its tag becomes awaitable. -/
  | dmaSkewComplete (t c tag : Nat)
  /-- FADD (R148): Lane FP32 add. -/
  | fadd (t c d a : Nat) (b : OpB)
  /-- FSUB (R148): Lane FP32 subtract. -/
  | fsub (t c d a : Nat) (b : OpB)
  /-- FMUL (R148): Lane FP32 multiply. -/
  | fmul (t c d a : Nat) (b : OpB)
  /-- FMA (R148): Lane fused multiply-add. -/
  | fma (t c d a : Nat) (b : OpB) (cc : Nat)
  /-- FNMA (R148): Lane fused negated multiply-add. -/
  | fnma (t c d a : Nat) (b : OpB) (cc : Nat)
  /-- FMIN (R148): Lane FP32 minimum. -/
  | fmin (t c d a : Nat) (b : OpB)
  /-- FMAX (R148): Lane FP32 maximum. -/
  | fmax (t c d a : Nat) (b : OpB)
  /-- FABS (R148): Clears bit 31. -/
  | fabs (t c d a : Nat)
  /-- FNEG (R148): Inverts bit 31. -/
  | fneg (t c d a : Nat)
  /-- FCLT (R148): FP less-than compare. -/
  | fclt (t c d a : Nat) (b : OpB)
  /-- FCLE (R148): FP less-or-equal compare. -/
  | fcle (t c d a : Nat) (b : OpB)
  /-- FCEQ (R148): FP equal compare. -/
  | fceq (t c d a : Nat) (b : OpB)
  /-- FCVTI (R148): FP32 to saturated INT32. -/
  | fcvti (t c d a : Nat)
  /-- ICVTF (R148): INT32 to FP32. -/
  | icvtf (t c d a : Nat)
  /-- FSCL (R148): Scales by a power of two. -/
  | fscl (t c d a : Nat) (b : OpB)
  /-- IADD (R148): Integer add. -/
  | iadd (t c d a : Nat) (b : OpB)
  /-- ISUB (R148): Integer subtract. -/
  | isub (t c d a : Nat) (b : OpB)
  /-- IMUL (R148): Integer multiply, low 32 bits. -/
  | imul (t c d a : Nat) (b : OpB)
  /-- AND (R148): Bitwise AND. -/
  | andV (t c d a : Nat) (b : OpB)
  /-- OR (R148): Bitwise OR. -/
  | orV (t c d a : Nat) (b : OpB)
  /-- XOR (R148): Bitwise XOR. -/
  | xorV (t c d a : Nat) (b : OpB)
  /-- SHL (R148): Shift left. -/
  | shl (t c d a : Nat) (b : OpB)
  /-- SHR (R148): Logical shift right. -/
  | shr (t c d a : Nat) (b : OpB)
  /-- SRA (R148): Arithmetic shift right. -/
  | sra (t c d a : Nat) (b : OpB)
  /-- IMIN (R148): Signed minimum. -/
  | imin (t c d a : Nat) (b : OpB)
  /-- IMAX (R148): Signed maximum. -/
  | imax (t c d a : Nat) (b : OpB)
  /-- ICLT (R148): Signed less-than compare. -/
  | iclt (t c d a : Nat) (b : OpB)
  /-- ICEQ (R148): Integer equal compare. -/
  | iceq (t c d a : Nat) (b : OpB)
  /-- SEL (R148): Selects per lane on a condition. -/
  | sel (t c d a : Nat) (b : OpB) (cc : Nat)
  /-- MOV (R148): Vector move. -/
  | mov (t c d : Nat) (b : OpB)
  /-- VIOTA (R148): Lane i receives i plus b. -/
  | viota (t c d : Nat) (b : OpB)
  /-- NORM (R150): Counts redundant sign bits. -/
  | norm (t c d a : Nat)
  /-- EXPX (R150): Gives floor(log2 |a|). -/
  | expx (t c d a : Nat)
  /-- BEXP (R150): Computes the block exponent per group. -/
  | bexp (t c d a : Nat) (imm : W16)
  /-- GRED (R149): Grouped reduction across lanes. -/
  | gred (t c d a : Nat) (imm : W16)
  /-- VPERM (R148): Lane permute. -/
  | vperm (t c d a b : Nat)
  /-- VEXT (R148): Extracts a lane into a scalar. -/
  | vext (t c d a : Nat) (imm : W16)
  /-- EXP2 (R151): Correctly rounded 2^x. -/
  | exp2 (t c d a : Nat)
  /-- LOG2 (R151): Correctly rounded log2. -/
  | log2 (t c d a : Nat)
  /-- RCP (R151): Correctly rounded reciprocal. -/
  | rcp (t c d a : Nat)
  /-- RSQRT (R151): Correctly rounded reciprocal square root. -/
  | rsqrt (t c d a : Nat)
  /-- VSUM_L (R141): Adds all lanes exactly into a long accumulator. -/
  | vsumL (t c la a : Nat)
  /-- LACLR (R148): Clears a long accumulator. -/
  | laclr (t c la : Nat)
  /-- LARD (R142): Reads a long accumulator rounded to FP32. -/
  | lard (t c d la : Nat)
  /-- SADD (R148): Scalar add. -/
  | sadd (t c d a : Nat) (b : OpB)
  /-- SSUB (R148): Scalar subtract. -/
  | ssub (t c d a : Nat) (b : OpB)
  /-- SMUL (R148): Scalar multiply. -/
  | smul (t c d a : Nat) (b : OpB)
  /-- SAND (R148): Scalar AND. -/
  | sand (t c d a : Nat) (b : OpB)
  /-- SOR (R148): Scalar OR. -/
  | sor (t c d a : Nat) (b : OpB)
  /-- SXOR (R148): Scalar XOR. -/
  | sxor (t c d a : Nat) (b : OpB)
  /-- SSHL (R148): Scalar shift left. -/
  | sshl (t c d a : Nat) (b : OpB)
  /-- SSHR (R148): Scalar logical shift right. -/
  | sshr (t c d a : Nat) (b : OpB)
  /-- SSRA (R148): Scalar arithmetic shift right. -/
  | ssra (t c d a : Nat) (b : OpB)
  /-- SMIN (R148): Scalar signed minimum. -/
  | smin (t c d a : Nat) (b : OpB)
  /-- SMAX (R148): Scalar signed maximum. -/
  | smax (t c d a : Nat) (b : OpB)
  /-- SCLT (R148): Scalar less-than compare. -/
  | sclt (t c d a : Nat) (b : OpB)
  /-- SCEQ (R148): Scalar equal compare. -/
  | sceq (t c d a : Nat) (b : OpB)
  /-- SMOV (R148): Scalar move. -/
  | smov (t c d : Nat) (b : OpB)
  /-- SSHI (R148): Shifts a scalar left by 16 and inserts an immediate. -/
  | sshi (t c d : Nat) (imm : W16)
  /-- MOVA (R148): Writes an address register. -/
  | mova (t c d a : Nat)
  /-- MOVB (R148): Writes a circular-buffer base register. -/
  | movb (t c d a : Nat)
  /-- MOVL (R148): Writes a circular-buffer length register. -/
  | movl (t c d a : Nat)
  /-- MOVSA (R148): Copies an address register to a scalar. -/
  | movsa (t c d a : Nat)
  /-- AADD (R148): Advances an address register modulo its buffer. -/
  | aadd (t c d : Nat) (imm : W16)
  /-- VLD (R156): Loads 64 elements from X or Y memory. -/
  | vld (t c : Nat) (o : LsOp)
  /-- VST (R156): Stores 64 elements. -/
  | vst (t c : Nat) (o : LsOp)
  /-- VLDB (R156): Loads one element into every lane. -/
  | vldb (t c : Nat) (o : LsOp)
  /-- SLD (R156): Scalar 8-byte load. -/
  | sld (t c : Nat) (o : LsOp)
  /-- SST (R156): Scalar 8-byte store. -/
  | sst (t c : Nat) (o : LsOp)
  /-- VLDT (R158): Vector load from the tile store. -/
  | vldt (t c : Nat) (o : LsOp)
  /-- VSTT (R158): Vector store to the tile store. -/
  | vstt (t c : Nat) (o : LsOp)
  /-- LDPK (R157): Packed field load. -/
  | ldpk (t c : Nat) (o : LsOp)
  /-- STPK (R157): Packed field store. -/
  | stpk (t c : Nat) (o : LsOp)
  /-- LALD (R156): Loads a long accumulator. -/
  | lald (t c : Nat) (o : LsOp)
  /-- LAST (R156): Stores a long accumulator. -/
  | last (t c : Nat) (o : LsOp)
  /-- LAMRG (R156): Merges a stored long value into an accumulator. -/
  | lamrg (t c : Nat) (o : LsOp)
  /-- TILE_REMAP (R438): In the tick after a tile fault, the logical tile is bound to a spare and its image set loaded, effective at the next seam. -/
  | tileRemap (t : Nat)
  /-- RERUN_OVERLAY_SEAL (R440): CP1 and CP2 build, and CP0 seals, a rerun overlay that borrows open tiles for the faulted floor work. -/
  | rerunOverlaySeal (o : Overlay)
  /-- LINK_WIRE_FAILING (R443): A die-link wire corrected more than 64 times in a tick is marked failing, and its spare is switched in at the seam. -/
  | linkWireFailing (die link group wire : Nat)
  /-- SENTINEL_RUN (R446): CP7 starts a sentinel kernel on a tile and its signature is recorded and compared. -/
  | sentinelRun (e : SentEnv)
  /-- STRESS_VARIANT (R448): The sentinel stress variant runs in phases on every open tile of a die. -/
  | stressVariant (die : Nat) (bad : List Nat)
  /-- HEALTH_SCORE (R449): Every 8,000 ticks CP7 recomputes the health score from its penalties. -/
  | healthScore (corrPerHour retriesPerSec residue30d : Nat) (hottest : Int)
  /-- SLOWDOWN_WINDOW (R396): At the end of each 1 s window, SLOWDOWN and RADIO are computed per slice. -/
  | slowdownWindow
  /-- CODE_BLOCK_START (R290): An idle code engine takes the first admissible RADIO or FLASH block. -/
  | codeBlockStart (hd engine : Nat)
  /-- CODE_BLOCK_COMPLETE (R291): A code block finishes, its outcome is written, and the list's sync counter advances when the list is done. -/
  | codeBlockComplete (hd engine : Nat) (engineFault : Bool)
  /-- DMA_DESCRIPTOR_START (R172): A DMA engine checks and starts a descriptor burst. -/
  | dmaDescriptorStart (eng desc : Nat) (body : List Byte) (slice context : Option Nat) (use : BurstUse)
  /-- DMA_BURST_COMPLETE (R172): A burst finishes, STATUS is written, DONE_PTR is signalled and NEXT is followed. -/
  | dmaBurstComplete (eng : Nat)
  /-- DMA_BURST_TIMEOUT (R174): A burst still moving at its declared length is stopped with TIMEOUT and DONE_BYTES. -/
  | dmaBurstTimeout (eng moved : Nat)
  /-- CHANNEL_LOST (R504): A GDDR7 channel fails training or its retry bound and is no longer accessed. -/
  | channelLost (ch : Nat)
  /-- PATROL_SCRUB (R168): The daily patrol reads GDDR7 and writes corrected lines back. -/
  | patrolScrub (line : Nat) (corrected uncorrected raced : Bool)
  /-- HOST_MEM_READ (R169): A host CXL.mem read of an HDM decoder is served. -/
  | hostMemRead (addr len : Nat)
  /-- HOST_MEM_WRITE (R169): A host CXL.mem write is performed, or dropped with an event when it targets protected structures. -/
  | hostMemWrite (addr : Nat) (bytes : List Byte)
  /-- STEP_COMPOSE (R214): After the previous commit, the step engine picks rows, grants pages and builds the next step. -/
  | stepCompose (slice pool : Nat) (work : StepWork)
  /-- STEP_COMMIT (R212): A step's results are committed, then commands and reclaim are applied and tokens are appended. -/
  | stepCommit (slice pool : Nat) (rows : List RowResult)
  /-- RECLAIM (R217): When a request enters PAGE_WAIT, CP4 frees, demotes or swaps frames for the waiter. -/
  | reclaim (pool waiter : Nat)
  /-- SWAP_RETURN (R217): When free local frames exceed LOW_WATER, CP4 brings a SWAPPED request back. -/
  | swapReturn (pool : Nat)
  /-- DEADLINE_RULE (R218): At a seam, CP3 aborts the lowest-priority request of a pool whose waiter's deadline is near. -/
  | deadlineRule (pool : Nat)
  /-- ADAPTER_CURRENT (R224): At the first seam after its copy, a loaded adapter version becomes CURRENT. -/
  | adapterCurrent (slot : Nat)
  /-- ATTN_BLOCK_ENQUEUE (R203): After block b's DONE counter advances and staging completes, the next key-block job is enqueued. -/
  | attnBlockEnqueue (q seq chain kernel length argsPtr donePtr : Nat)
  /-- MOVE_RETRY (R237): At the next seam after a failed move, CP3 retries MOVE_RESERVE. -/
  | moveRetry (idx : Nat)
  /-- MOVE_QUERY_TIMER (R240): After 80 ticks without a reply, the source sends MOVE_QUERY. -/
  | moveQueryTimer (idx : Nat)
  /-- PREFIX_LEASE_EXPIRY (R246): A prefix pin lease of 800 ticks ends. -/
  | prefixLeaseExpiry (lease : Nat)
  /-- WRITE_GRANT_EXPIRY (R330): A write grant is removed 800 ticks after its offer. -/
  | writeGrantExpiry (entry : Nat)
  /-- FLASH_DEMOTE (R248): A page is written to flash stripes at the write point. -/
  | flashDemote (pool frame : Nat) (fail : Option Nat)
  /-- FLASH_PROMOTE (R253): A flash page is read back, and a read that fails after retries is treated as a miss. -/
  | flashPromote (pool frame : Nat) (failed : Bool)
  /-- SUPERBLOCK_ERASE (R250): A superblock whose frames are all free is erased and returns to the free set. -/
  | superblockErase (sb : Nat) (fail : Option Nat)
  /-- SUPERBLOCK_RELOCATE (R250): With fewer than 4 free superblocks, live frames are relocated. -/
  | superblockRelocate
  /-- FLASH_RETENTION_REWRITE (R252): Daily, CP6 rewrites recently read frames near the retention limit. -/
  | flashRetentionRewrite
  /-- FH_FRAME_RX (R259): A fronthaul frame is received, stamped and classified by EtherType. -/
  | fhFrameRx (port : Nat) (f : FhFrame)
  /-- SYMBOL_CLOSE (R264): At air end plus RX_MAX, a receive symbol closes and its sync counter is incremented.
  The symbol is y of the slot whose first tick is `first`. -/
  | symbolClose (cell first y : Nat)
  /-- AGC_UPDATE (R268): At the start of each symbol, the gain of each time-domain stream is updated; `sym` is 16 times the first tick of
  its slot plus the symbol, and the numbers are what the front end has measured in it: pin, the power of its strongest window, and its
  correlation in 1/256 (R268, R269). -/
  | agcUpdate (port stream sym : Nat) (pin winPeak : Int) (corr256 : Nat)
  /-- CPLANE_LAUNCH (R263): The C-plane messages of a slot launch at air time less TX_ADV_C. -/
  | cplaneLaunch (port cell : Nat) (msgs : List CMessage)
  /-- UPLANE_LAUNCH (R263): Downlink U-plane packets of a symbol launch, and late packets are counted and not sent; `sym` as for
  AGC_UPDATE, or for a time-domain cell 2^16 times the first tick of a radio frame plus the packet number (R266); the eAxC IDs whose payload
  the radio work has marked ready, and those that have payload in the symbol. -/
  | uplaneLaunch (port cell sym : Nat) (ready eaxcs : List Nat)
  /-- FH_LINK_DOWN (R272): A port loses block lock: LINK_UP clears and frames awaiting launch are dropped. -/
  | fhLinkDown (port waiting : Nat)
  /-- FH_LINK_UP (R272): A port regains block lock and resumes from the next seam. -/
  | fhLinkUp (port : Nat)
  /-- FH_TRAIN_TIMEOUT (R258): LINK_UP is not 1 within 1 s of a MODE change, so an event is recorded. -/
  | fhTrainTimeout (port : Nat)
  /-- PARAM_REQUEST (R276): FAPI PARAM.request is answered. -/
  | paramRequest (m : FapiMsg)
  /-- CONFIG_REQUEST (R278): FAPI CONFIG.request configures an inactive cell. -/
  | configRequest (m : FapiMsg) (cfg : CellConfig)
  /-- START_REQUEST (R278): START.request is checked and schedules the cell's activation. -/
  | startRequest (m : FapiMsg)
  /-- STOP_REQUEST (R276): STOP.request stops a cell. -/
  | stopRequest (m : FapiMsg)
  /-- DL_TTI_REQUEST (R278): A downlink slot request is taken, or handled as late or early. -/
  | dlTtiRequest (m : FapiMsg)
  /-- UL_TTI_REQUEST (R278): An uplink slot request is taken, or handled as late or early. -/
  | ulTtiRequest (m : FapiMsg)
  /-- UL_DCI_REQUEST (R278): An uplink DCI request is taken, or handled as late or early. -/
  | ulDciRequest (m : FapiMsg)
  /-- TX_DATA_REQUEST (R278): The PDSCH payload of a slot is taken. -/
  | txDataRequest (m : FapiMsg)
  /-- CELL_BIND_REQUEST (R279): A cell's binding to port, streams and HARQ pool is set. -/
  | cellBindRequest (phy cell : Nat)
  /-- TWILIGHT_CFG_REQUEST (R298): A cell's holdover content is set and compiled. -/
  | twilightCfgRequest (phy cell : Nat)
  /-- FAPI_MESSAGE_UNSUPPORTED (R276): A FAPI message with an unsupported ID gets ERROR.indication. -/
  | fapiMessageUnsupported (phy msgId : Nat)
  /-- SLOT_REQUEST_DEADLINE (R280): At tick L − 10 with no DL_TTI.request, the slot is set to run twilight. -/
  | slotRequestDeadline (cell first : Nat)
  /-- TX_DATA_DEADLINE (R278): At tick L, PDSCH PDUs still lacking payload are not transmitted. -/
  | txDataDeadline (cell first : Nat)
  /-- CELL_ACTIVATE (R278): A started cell becomes active at its first eligible slot. -/
  | cellActivate (cell : Nat)
  /-- CELL_STOP (R277): Cells of a closed instance go OFF at their first eligible slot. -/
  | cellStop (cell : Nat)
  /-- TWILIGHT_HOLD_EXPIRY (R299): A twilight run reaches HOLD_S and the cell goes OFF with STOP.indication. -/
  | twilightHoldExpiry (cell : Nat)
  /-- FLIT_RX (R303): A flit is received, FEC-corrected and CRC-checked, or dropped with a retry request. `rest` is the flit after
its FHDR, the 248 payload bytes and the FCRC; `errors` is the number of symbols of its FEC block in error. -/
  | flitRx (port lane fseq fack type : Nat) (rest : List Byte) (errors : Nat)
  /-- PORT_TRAINED (R304): A Watric port finishes training on all four lanes and goes UP. -/
  | portTrained (port : Nat)
  /-- LOAD (R306): A fabric LOAD request is applied at the target. -/
  | load (port : Nat) (p : Packet)
  /-- STORE (R306): A fabric STORE request is applied at the target. -/
  | store (port : Nat) (p : Packet)
  /-- ATOMIC (R318): A fabric atomic is applied once at the line's controller and its prior value returned. -/
  | atomic (port : Nat) (p : Packet)
  /-- ACC_L (R322): Long cells are added exactly into the target cells. -/
  | accL (port : Nat) (p : Packet)
  /-- MSG (R323): A message is delivered to the destination's firmware inbox, or answered BUSY or DENIED. -/
  | msg (port : Nat) (p : Packet)
  /-- ACK (R306): A run of PSNs is acknowledged with OK. -/
  | ack (port : Nat) (p : Packet)
  /-- STATUS (R306): A non-OK status response completes one request. -/
  | statusP (port : Nat) (p : Packet)
  /-- LOAD_DATA (R306): A LOAD response delivers its data. -/
  | loadData (port : Nat) (p : Packet)
  /-- ATOMIC_DATA (R306): An atomic response returns the prior value. -/
  | atomicData (port : Nat) (p : Packet)
  /-- PROBE (R310): A path probe is answered, or its answer marks the path healthy. -/
  | probe (port : Nat) (p : Packet)
  /-- EPOCH (R313): Clears the reorder buffer and replay window, sets the new epoch and is acknowledged. -/
  | epoch (port : Nat) (p : Packet)
  /-- ACK_TIMER (R311): Ten beats after the first unacknowledged request, the target sends an ACK. -/
  | ackTimer (src : Nat)
  /-- RETRANSMIT_TIMEOUT (R311): No response within 200 beats, so the request is resent on the next healthy path;
  a COMB request is named by its PSN plus 2 ^ 32. -/
  | retransmitTimeout (dst psn : Nat)
  /-- PATH_PROBE_TIMER (R310): Every 1 ms, down paths are probed. -/
  | pathProbeTimer
  /-- STREAM_BREAK (R312): A request ages to 9,000 beats: the stream breaks, outstanding requests complete and a new epoch starts. -/
  | streamBreak (dst : Nat)
  /-- XFER_ENTRY_ISSUE (R314): The next entry of a transfer list issues when credit and fences allow. -/
  | xferEntryIssue (port : Nat)
  /-- MOVE_RESERVE (R238): The destination checks a move, takes an entry to PENDING, grants pages and replies. -/
  | moveReserve (m : MoveReserve)
  /-- MOVE_RESERVED (R236): The source receives the destination's reservation or refusal. -/
  | moveReserved (idx : Nat) (m : MoveReserved)
  /-- MOVE_COMMIT (R239): The destination commits the move, journals it and replies COMMITTED. -/
  | moveCommit (src idx gen : Nat) (entry : List Byte)
  /-- MOVE_ANSWER (R240): The source resolves a move on COMMITTED or ABANDONED. -/
  | moveAnswer (idx gen : Nat) (committed : Bool)
  /-- MOVE_RELEASE (R239): The destination drops the move record. -/
  | moveRelease (src idx gen : Nat)
  /-- MOVE_QUERY (R239): The destination answers a query by the record's outcome, abandoning a PENDING move. -/
  | moveQuery (src idx gen : Nat)
  /-- MOVE_CANCEL (R239): The destination abandons a PENDING move or reports COMMITTED. -/
  | moveCancel (src idx gen : Nat)
  /-- PREFIX_ASK (R246): A cache device reports the greatest prefix depth it holds. -/
  | prefixAsk (src q seq model p : Nat) (keys : List (List Byte))
  /-- PREFIX_HELD (R246): A reply giving the depth held and its pages. -/
  | prefixHeld (src q seq status depth lease : Nat) (pages : List (Nat × Nat)) (locs : List Nat)
  /-- PREFIX_PIN (R246): A cache device pins frames for a lease. -/
  | prefixPin (src q seq model p depth : Nat) (keys : List (List Byte))
  /-- PREFIX_UNPIN (R246): A cache device releases a pin. -/
  | prefixUnpin (src lease : Nat)
  /-- PREFIX_OFFER (R330): A cache device grants frames and write grants for a publish. -/
  | prefixOffer (src q seq model p depth : Nat) (keys : List (List Byte))
  /-- CONTRAIL_DIGEST (R452): The shadowed device compares a digest record with its own. -/
  | contrailDigest (src reqId genLen : Nat) (crc : W64)
  /-- CONTRAIL_UNMATCHED (R452): A digest record without a counterpart after 80,000 ticks is dropped. -/
  | contrailUnmatched
  /-- BARRIER_TIMEOUT (R350): A lockstep barrier not complete within 8,000 ticks completes TIMEOUT. -/
  | barrierTimeout (q seq : Nat)
  /-- JOB_STEP_LAUNCH (R350): A member launches the next step of a job at the agreed tick. -/
  | jobStepLaunch (q seq : Nat) (last : Bool) (len : Nat) (word0 word1 : W64)
  /-- PTP_MESSAGE (R343): A PTP message is passed to the CP6 servo. -/
  | ptpMessage (port msgType seqId taken : Nat) (sent : Bool) (m : PtpMsg)
  /-- ESMC_MESSAGE (R271): An ESMC message is passed to CP6. -/
  | esmcMessage (port quality : Nat)
  /-- PPS_IN_EDGE (R344): A PPS_IN rising edge is stamped and counted if named by a valid line. -/
  | ppsInEdge (rawNs : Nat)
  /-- TOD_LINE_RX (R344): A time-of-day line is received and checked. -/
  | todLineRx (line : List Byte) (msAfterEdge : Nat)
  /-- PPS_OUT (R344): A PPS_OUT edge at each second, with the TOD line 500 ms later. -/
  | ppsOut
  /-- TIME_STEP (R46): A decided step is applied at a seam, lengthening that tick and re-indexing the plans. -/
  | timeStep (sourceNs : Nat) (sourcePresent : Bool)
  /-- SOURCE_LOST (R345): No Announce or counted edge for the limit, so the servo enters FREERUN or HOLDOVER. -/
  | sourceLost
  /-- HOLD_EXCEEDED (R345): A holdover run reaches HOLD_LIMIT_S and HOLD_EXCEEDED is set. -/
  | holdExceeded
  /-- SUBMISSION_DOORBELL (R356): A write of HST_SQ_DB updates the submission or FAPI request tail. -/
  | submissionDoorbell (q tail : Nat)
  /-- COMPLETION_DOORBELL (R356): A write of HST_CQ_DB updates the completion head, and held completions are written. -/
  | completionDoorbell (q head : Nat)
  /-- COMMAND_CONSUME (R361): When the rings and journal have room, the device consumes and checks the next submission. -/
  | commandConsume (q : Nat) (ioOk : Bool)
  /-- COMMAND_ACCEPT (R368): A command is journalled, and mirrored if required, and the ACCEPTED completion is written. -/
  | commandAccept (q : Nat)
  /-- INTERRUPT_COALESCE_TIMER (R366): CO_US after the first unsignalled completion, the MSI-X vector is signalled. -/
  | interruptCoalesceTimer (q : Nat)
  /-- ADMIN_QUEUE_ENABLE (R354): Writing HST_AQ_CFG.EN = 1 checks REV and enables the admin queue. -/
  | adminQueueEnable (value : W64)
  /-- ADMIN_QUEUE_DELETE (R354): Writing EN = 0 deletes the admin queue unless admin commands are open. -/
  | adminQueueDelete (value : W64)
  /-- HEARTBEAT (R412): A write to HST_HEARTBEAT is a driver heartbeat. -/
  | heartbeat (value : W64)
  /-- ORPHAN (R412): 100 ms without a heartbeat puts the device in orphan mode. -/
  | orphan (refused : List (Nat × List Byte))
  /-- CXL_LINK_DOWN (R412): The CXL link goes down other than by a reset, causing orphan mode. -/
  | cxlLinkDown (refused : List (Nat × List Byte))
  /-- ORPHAN_HOLD_EXPIRY (R414): After ORPHAN_HOLD_S, every active context is held. -/
  | orphanHoldExpiry
  /-- NOTICE_SEND (R375): A write to SLC_DB sends the notice in SLC_SEND. -/
  | noticeSend (page : Nat) (value : W32)
  /-- NOTICE_DELIVER (R377): A pending notice is placed in a ready receiver's ring, with an optional notice completion. -/
  | noticeDeliver (page : Nat)
  /-- NOTICE_TIMEOUT (R375): An undelivered notice is discarded at TIMEOUT_MS. -/
  | noticeTimeout (page : Nat)
  /-- SLC_RX_HEAD_WRITE (R377): Software frees receive entries, and a head past the tail is ignored. -/
  | slcRxHeadWrite (page : Nat) (value : W32)
  /-- REGISTER_WRITE (R5): A write to a register with no behaviour of its own acts by its access code. -/
  | registerWrite (firmware : Bool) (offset : Nat) (value : W64)
  /-- NOP (R359): Command 0x0000, done with OK. -/
  | nop (q seq : Nat)
  /-- QUEUE_CREATE (R355): Creates a queue pair. -/
  | queueCreate (q seq : Nat)
  /-- QUEUE_DELETE (R355): Deletes a queue with no open commands. -/
  | queueDelete (q seq : Nat)
  /-- IDENTIFY (R360): Writes the identify page. -/
  | identify (q seq : Nat)
  /-- RECOVERY_GET (R372): Writes the recovery report. -/
  | recoveryGet (q seq : Nat)
  /-- RESET_REQ (R498): Requests a warm, function or slice reset. -/
  | resetReq (q seq : Nat)
  /-- ATTN_ACK (R367): Clears the named latched attention classes. -/
  | attnAck (q seq : Nat)
  /-- MIRROR_SET (R362): Turns mirrored mode on or off at a seam. -/
  | mirrorSet (q seq : Nat)
  /-- MIRROR_REPORT (R372): Writes the recovery report of a lost device from its mirror. -/
  | mirrorReport (q seq : Nat)
  /-- BIAS_SET (R171): Flips a page's CXL bias. -/
  | biasSet (q seq : Nat)
  /-- POOL_SET (R505): Creates, changes or drains a model pool. -/
  | poolSet (q seq : Nat)
  /-- REQ_ADMIT (R232): Admits a request into the request table. -/
  | reqAdmit (q seq : Nat)
  /-- REQ_ABORT (R212): Aborts a request at the commit boundary. -/
  | reqAbort (q seq : Nat)
  /-- REQ_QUERY (R232): Writes a request entry. -/
  | reqQuery (q seq : Nat)
  /-- SERVE_CFG (R213): Sets a slice-pool step configuration at a seam. -/
  | serveCfg (q seq : Nat)
  /-- BUDGET_SET (R215): Sets a budget bucket at a seam. -/
  | budgetSet (q seq : Nat)
  /-- ROLE_SET (R234): Sets a slice's serving role at a seam. -/
  | roleSet (q seq : Nat)
  /-- PEER_LOST (R240): Reverts moves bound for a fenced device and drops its records. -/
  | peerLost (q seq : Nat)
  /-- ADAPTER_LOAD (R224): Loads a new adapter version. -/
  | adapterLoad (q seq : Nat)
  /-- ADAPTER_WITHDRAW (R224): Withdraws a handle's current version. -/
  | adapterWithdraw (q seq : Nat)
  /-- GRAMMAR_LOAD (R231): Checks and loads a grammar. -/
  | grammarLoad (q seq : Nat)
  /-- GRAMMAR_UNLOAD (R231): Unloads an unreferenced grammar. -/
  | grammarUnload (q seq : Nat)
  /-- ATTN (R183): Runs fused attention over a batch of sequences. -/
  | attn (q seq : Nat)
  /-- ATTN_MERGE (R201): Merges partial attention results left to right. -/
  | attnMerge (q seq : Nat)
  /-- PREFIX_LOOKUP (R246): Finds the deepest held prefix, locally or remotely. -/
  | prefixLookup (q seq : Nat)
  /-- PREFIX_FETCH (R246): Copies prefix pages from a cache device. -/
  | prefixFetch (q seq : Nat)
  /-- PREFIX_PUBLISH (R246): Copies prefix pages to a cache device. -/
  | prefixPublish (q seq : Nat)
  /-- FLASH_CFG (R252): Sets the flash retention limit at a seam. -/
  | flashCfg (q seq : Nat)
  /-- RAD_L2_OPEN (R277): Opens a FAPI ring pair. -/
  | radL2Open (q seq : Nat)
  /-- RAD_L2_CLOSE (R277): Closes a FAPI ring pair and stops its cells. -/
  | radL2Close (q seq : Nat)
  /-- FH_CFG (R258): Configures a fronthaul port at a seam. -/
  | fhCfg (q seq : Nat)
  /-- REGION_SET (R328): Writes region-table entries at a seam. -/
  | regionSet (q seq : Nat)
  /-- PATH_SET (R310): Installs a destination's path set. -/
  | pathSet (q seq : Nat)
  /-- PARTITION_SET (R331): Writes the partition mask at a seam. -/
  | partitionSet (q seq : Nat)
  /-- PORT_FENCE (R332): Fences or releases Watric ports. -/
  | portFence (q seq : Nat)
  /-- JOBTAG_SET (R317): Sets a slice's job tag. -/
  | jobtagSet (q seq : Nat)
  /-- FAB_XFER (R316): Queues a transfer list at a Watric port. -/
  | fabXfer (q seq : Nat)
  /-- SLICE_ASSIGN (R378): Binds or releases a PASID to or from a slice. -/
  | sliceAssign (q seq : Nat)
  /-- SLICE_QUOTA (R379): Sets a slice's quotas at a seam. -/
  | sliceQuota (q seq : Nat)
  /-- CTX_CREATE (R386): Creates a context in state OUT. -/
  | ctxCreate (q seq : Nat)
  /-- CTX_DESTROY (R392): Frees an OUT context. -/
  | ctxDestroy (q seq : Nat)
  /-- CTX_HOLD (R389): Preempts a context, optionally switching it out. -/
  | ctxHold (q seq : Nat)
  /-- CTX_RESUME (R389): Resumes a held context or restores an OUT one. -/
  | ctxResume (q seq : Nat)
  /-- CTX_QUERY (R392): Writes a context record. -/
  | ctxQuery (q seq : Nat)
  /-- CTX_SAVE_START (R391): At the seam after HELD, SAVING begins copying SAVE extents to the landing zone. -/
  | ctxSaveStart (ctx : Nat)
  /-- CTX_RESTORE_START (R392): A resume begins RESTORING at a seam once no overlapping context is resident. -/
  | ctxRestoreStart (ctx : Nat)
  /-- CTX_ACTIVATE (R391): At the seam after the last restore burst, the context becomes ACTIVE. -/
  | ctxActivate (ctx : Nat)
  /-- CONTEXT_TEARDOWN (R393): At a seam, a faulted context is torn down and its tiles are scrubbed. -/
  | contextTeardown (ctx : Nat)
  /-- CONTEXT_RELEASE (R393): Once zeroing and fabric entries are done, the torn context becomes FREE. -/
  | contextRelease (ctx : Nat)
  /-- MBX_GRANT (R376): Grants or revokes mailbox sending between two slices. -/
  | mbxGrant (q seq : Nat)
  /-- KERNEL_LOAD (R363): Loads a kernel image into the resident sets. -/
  | kernelLoad (q seq : Nat)
  /-- PLAN_LAUNCH (R349): Starts a compiled job at an agreed tick. -/
  | planLaunch (q seq : Nat)
  /-- FW_UPDATE (R408): Replaces the CP images while running. -/
  | fwUpdate (q seq : Nat) (b : Bundle)
  /-- UPDATE_QUIESCE (R409): At the seam where DEPTH reads 10, consumption stops and the handover begins. -/
  | updateQuiesce
  /-- UPDATE_COMMIT (R409): Every new image reports import complete, and the update commits. -/
  | updateCommit
  /-- UPDATE_ABORT (R410): The handover misses its deadline, or fails, and the old banks resume. -/
  | updateAbort (component : Option Nat)
  /-- POWER_CAP (R31): Sets the power cap and margin at a seam. -/
  | powerCap (q seq : Nat)
  /-- REPAIR_MAP_GET (R359): Writes the repair map. -/
  | repairMapGet (q seq : Nat)
  /-- CLOCK_MODE (R63): Selects the arithmetic clock at a seam. -/
  | clockMode (q seq : Nat)
  /-- TIME_CFG (R342): Sets the time source at a seam. -/
  | timeCfg (q seq : Nat)
  /-- DEBUG_NONCE (R470): Returns a fresh unlock nonce. -/
  | debugNonce (q seq : Nat)
  /-- DEBUG_UNLOCK (R470): Checks an owner-signed token and opens debug. -/
  | debugUnlock (q seq : Nat)
  /-- DEBUG_LOCK (R471): Returns the debug level to 0. -/
  | debugLock (q seq : Nat)
  /-- MEM_ENC_SET (R472): Enables or disables a slice's memory encryption. -/
  | memEncSet (q seq : Nat)
  /-- BUNDLE_LOAD (R460): The SP reads and verifies a bundle, then starts the CPs. -/
  | bundleLoad (b : Bundle) (e : StartEnv)
  /-- GET_VERSION (R468): SPDM GET_VERSION is answered. -/
  | getVersion (mbx unread : Bool)
  /-- GET_CAPABILITIES (R468): SPDM GET_CAPABILITIES is answered. -/
  | getCapabilities (mbx unread : Bool)
  /-- NEGOTIATE_ALGORITHMS (R468): SPDM NEGOTIATE_ALGORITHMS is answered. -/
  | negotiateAlgorithms (mbx unread : Bool)
  /-- GET_DIGESTS (R468): SPDM GET_DIGESTS is answered. -/
  | getDigests (mbx unread : Bool)
  /-- GET_CERTIFICATE (R468): SPDM GET_CERTIFICATE returns slot 0. -/
  | getCertificate (mbx unread : Bool) (slot offset len : Nat)
  /-- CHALLENGE (R468): SPDM CHALLENGE is signed with the identity key. -/
  | challenge (mbx unread : Bool) (nonce : List Byte)
  /-- GET_MEASUREMENTS (R468): Returns signed measurement blocks. -/
  | getMeasurements (mbx unread : Bool) (index : Nat) (sign : Bool) (nonce : List Byte)
  /-- ENTDAA (R475): The I3C dynamic address is assigned. -/
  | entdaa (addr : Nat)
  /-- SET_ENDPOINT_ID (R476): MCTP endpoint ID is set. -/
  | setEndpointId (eid : Nat)
  /-- GET_ENDPOINT_ID (R476): MCTP endpoint ID is returned. -/
  | getEndpointId
  /-- GET_MCTP_VERSION_SUPPORT (R476): MCTP version support is returned. -/
  | getMctpVersionSupport (type : Nat)
  /-- GET_MESSAGE_TYPE_SUPPORT (R476): Supported MCTP types are returned. -/
  | getMessageTypeSupport
  /-- GET_VENDOR_DEFINED_MESSAGE_SUPPORT (R476): Returns the vendor IANA number. -/
  | getVendorDefinedMessageSupport (selector : Nat)
  /-- GET_PDR_REPOSITORY_INFO (R479): PLDM repository information is returned. -/
  | getPdrRepositoryInfo
  /-- GET_PDR (R479): A PLDM sensor PDR is returned. -/
  | getPdr (record : Nat)
  /-- GET_SENSOR_READING (R480): A numeric sensor reading is returned. -/
  | getSensorReading (sensor : Nat)
  /-- RECORDER_READ (R481): Returns event records from SRAM or the persisted history. -/
  | recorderRead (from_ count : Nat)
  /-- ALERT_ACK (R478): Raises ACK_SEQ and may release ALERT_N. -/
  | alertAck (seq : Nat)
  /-- ANCHOR_SET (R490): Loads operating seconds, power-cycle count and the retirement list. -/
  | anchorSet (opsec pcc : Nat) (entries : List (List Byte))
  /-- ANCHOR_GET (R481): Returns the anchor and the retirement list. -/
  | anchorGet
  /-- RESET_REQUEST (R497): Sideband request for any reset kind. -/
  | resetRequest (kind slice : Nat)
  /-- STRESS_RUN (R448): Requests the stress variant on named dies. -/
  | stressRun (dies : Nat)
  /-- CONTRAIL_SET (R451): Sets contrail mode at a seam. -/
  | contrailSet (body : List Byte)
  /-- RETIRE_CLEAR (R481): Clears the retirement list from the next cold start. -/
  | retireClear
  /-- WARM_RESET (R499): At its seam, a warm reset stops work, reruns BIST and restarts the CPs with GDDR7 kept. -/
  | warmReset (b : BistResult) (trained : BitVec 32) (refused : List (Nat × List Byte))
  /-- FUNCTION_RESET (R500): FLR or PERST resets the host-facing state while work continues. -/
  | functionReset (refused : List (Nat × List Byte))
  /-- SLICE_RESET (R395): At the seam after acceptance, every context of the slice is torn down. -/
  | sliceReset (slice : Nat)
  /-- CP_STOP (R404): A role CP traps or misses its heartbeat and is reloaded and restarted. -/
  | cpStop (cp cause : Nat)
  /-- CP0_WATCHDOG_EXPIRY (R405): The CP0 watchdog is unwritten for 1,000 beats, so the SP restarts CP0. -/
  | cp0WatchdogExpiry
  /-- SUMMARY_WINDOW (R485): At the end of each 8,000-tick window, summary records of suppressed events are written. -/
  | summaryWindow
  /-- PERSIST_BATCH (R489): Records and operating seconds are persisted to the flash recorder area on their timers. -/
  | persistBatch (all : Bool)
  /-- PERSIST_PATH_CHANGE (R487): The flash recorder area leaves service and the path falls to the board controller. -/
  | persistPathChange
  /-- CXL_LINK_TRAINING (R492): CXL link training completes after PWR_GOOD, or after CXL_PERST_N rises, and configuration space becomes ready for enumeration. -/
  | cxlLinkTraining (lanes gts : Nat)
  /-- BUS_MASTERING_ENABLE (R500): After a function reset, the host enables bus mastering again, and the device resumes reading FAPI ring entries and DMA to host memory. -/
  | busMasteringEnable
  /-- ENTROPY_FAIL (R457): A continuous health test of the entropy source fails after start, so the SP refuses services that need fresh randomness, records a critical event and latches attention class 5. -/
  | entropyFail
  /-- PLDM_BASE (R479): A PLDM base (type 0, DSP0240) request on the sideband is answered by CP7. -/
  | pldmBase (cmd : Nat)
  /-- UNSUPPORTED_REQUEST (R468): An SPDM request other than the supported ones is answered with ERROR UnsupportedRequest. -/
  | unsupportedRequest (mbx unread : Bool) (code : Nat)
deriving DecidableEq, Repr

end Sys2Proof
end

