-- ==== Sys2Proof/Machine/State.lean ====
section
/-!
DEFINITION. Everything the spec gives the SM4824, as plain data, and the state after a cold reset. Each field's
comment gives its width or meaning, the file and rule of spec/ that names it, and its reset value: `reset v` where the
spec states v; `DESIGN CHOICE v (log n)` where the spec states none; `empty` where nothing exists yet after reset.
The default of a field is its value in State.reset.
-/
namespace Sys2Proof.Machine

/-- A seam-bound field: shadow, frozen staging, value in force (03 R48 to R50). -/
structure Rwt where
  shadow  : Nat   -- last written value, which a read returns (00 R5)
  staging : Nat   -- copied from the shadow at beat 1,234 (03 R50)
  applied : Nat   -- in force since the last seam (03 R50)
deriving DecidableEq, Repr

/-! ## Power -/

/-- The lid, the governor and the PWR block (02). -/
structure Power where
  vinMv    : Nat := 0          -- input voltage last reported, mV; 02 R19; DESIGN CHOICE 0 (log 4)
  pwrEn    : Bool := false     -- PWR_EN land; 02 R25; DESIGN CHOICE low (log 4)
  pwrGood  : Bool := false     -- PWR_GOOD land; 02 R25; reset low, rises at step 1 of 23 R492
  railStep : Nat := 0          -- rail sequencing step reached, 0..7; 02 R25; reset 0
  stageOne : Bool := true      -- stage one converting; 02 R24; DESIGN CHOICE true (log 4)
  interrupted : Bool := false  -- an input interruption is in progress; 02 R21 R22; reset false
  inLow    : Bool := false     -- the input is below 42 V; 02 R22; reset false
  bulkMv   : Nat := 0          -- bulk voltage last reported, mV; 02 R21, R25; DESIGN CHOICE 0 (log 4)
  fellAt   : Option Nat := none  -- TIM_RAW at which the interruption in progress began; 02 R23; reset none
  tripLatch : Option Nat := none  -- identity of the tripped rail; 02 R26; reset none
  thermtrip : Bool := false    -- THERMTRIP_N asserted; 02 R36; reset false
  cap      : Rwt := ⟨0x708, 0x708, 0x708⟩   -- PWR_CAP.CAP_W, 12 bits RWT; 02 PWR_CAP; reset 0x0708
  margin   : Rwt := ⟨0x28, 0x28, 0x28⟩      -- PWR_CAP.MARGIN_W, 8 bits RWT; 02 PWR_CAP; reset 0x28
  capExceeded : Bool := false  -- PWR_STATUS.CAP_EXCEEDED; 02 R30; reset 0
  brownoutSt : Bool := false   -- PWR_STATUS.BROWNOUT; 02 R22; reset 0
  overvoltSt : Bool := false   -- PWR_STATUS.OVERVOLT; 02 R24; reset 0
  holdIn   : Bool := false     -- admission hold of R22 on every open tile; 02 R22; reset 0
  holdDie  : NMap Nat := []    -- admission hold of R26: die to the launch-counter beat from which it holds; 02 R26; reset none
  throttled : NMap Nat := []   -- dies in thermal throttle; 02 R35; reset none
  thermDuty : NMap Nat := []   -- thermal duty of the next tick per die, absent 1,234; 02 R35; reset 1,234
  openDuty : NMap Nat := []    -- open duty in force per die, absent 1,234; 02 R28; reset 1,234 (PWR_STATUS.DUTY 0x4D2)
  nextDuty : NMap Nat := []    -- open duty computed for the next tick per die; 02 R29; DESIGN CHOICE 1,234 (log 5)
  kEst     : Nat × Nat := (0, 1)  -- running estimate k in mW per open tile per duty beat, a ratio; 02 R29; DESIGN CHOICE 0 (log 5)
  floorHist : NMap (List Nat) := []  -- measured floor powers in mW by floor mask, newest first, the last 64 of each; 02 R33; empty
  govAt    : Nat := 0          -- tick + 1 in which the governor last computed a duty; 02 R29; reset 0
  hottest  : List Int := []    -- hottest junctions CD0..CD3, HD0, HD1 in 1/8 degree C; 02 R35; empty
  lastTel  : TelEnv := ⟨0, 0, 0, [], []⟩  -- electrical quantities of the last telemetry record; 22 R480; DESIGN CHOICE zeros (log 4)
  sensors  : List Int := []    -- readings of sensors 1 to 15 for the last tick whose telemetry record is complete; 22 R480; DESIGN CHOICE empty, read as 0 (log 4)
  telAt    : Nat := 0          -- tick + 1 of the last telemetry record; 02 R34; reset 0
  thermAt  : Nat := 0          -- tick + 1 of the last thermal step; 02 R35; reset 0
  telBase  : Nat := 0          -- PWR_TEL_BASE.BASE times 64; 02 PWR_TEL_BASE; reset 0
  telWidx  : Nat := 0          -- PWR_TEL_WIDX.WIDX, 12 bits; 02 PWR_TEL_WIDX; reset 0
  predFloor : Nat := 0         -- p_floor used for this tick, 0.1 W; 02 R34 FLOOR_PRED_DW; DESIGN CHOICE 0 (log 5)
  nextPred : Nat := 0          -- p_floor used for the next tick's duty, 0.1 W; 02 R29 R34; DESIGN CHOICE 0 (log 5)
  duties64 : List Nat := []    -- lowest duties CP7 computed over the last 64 ticks; 18 R399; empty
  gpioDir  : BitVec 16 := 0    -- direction of GPIO0..15, 1 output; 02 R43; reset inputs
  gpioPull : BitVec 16 := 0xFFFF  -- weak pull-down of GPIO0..15 connected; 02 R43; reset connected
  gpioFn   : List (BitVec 8) := []  -- function of GPIO0..15 by the card profile, empty none; 02 R43; reset none
deriving DecidableEq, Repr

/-! ## Ticks and plans -/

/-- A seam-bound command that waits for its seam (03 R503). -/
structure SeamCmd where
  q     : Nat
  seq   : Nat
  tick  : Nat       -- tick that the applying seam opens
  checked : Bool    -- passed the state check of R503 before the seam
deriving DecidableEq, Repr

/-- The tick-plan unit and the TKP block (03). -/
structure Tkp where
  planBase : Nat := 0          -- TKP_PLAN_BASE.BASE times 128; 03 TKP_PLAN_BASE; reset 0
  now      : Nat := 0          -- TKP_NOW.TICK, 64 bits; 03 R45 R46; reset 0
  beat     : Nat := 0          -- TKP_BEAT.BEAT, 0..1,249; 03 R45; reset 0
  frozen   : Bool := false     -- staging frozen since beat 1,234; 03 R50; reset false
  locked   : Bool := false     -- TKP_STATUS.LOCKED; 03 R46; reset 0
  clock    : Nat := 0          -- TKP_STATUS.CLOCK, mode in force; 03 R63; reset 0
  quietAsk : Bool := false     -- a command selecting a quiet mode has been accepted and 2.4 GHz has not returned; 03 R63; reset false
  backAt   : Nat := 0          -- first tick at 2.4 GHz after a quiet mode; 03 R63; reset 0
  substCnt : Nat := 0          -- TKP_STATUS.SUBST_CNT, 16 bits saturating; 03 R55; reset 0
  substRun : Bool := false     -- the last tick ran a substituted plan, so the run's event is recorded; 03 R55; reset false
  rwtApply : Nat := 0          -- TKP_RWT_APPLY.TICK, 64 bits; 03 R51; reset 0
  faultPlan : Nat := 0         -- TKP_FAULT_CNT.PLAN, 16 bits saturating; 03 R53; reset 0
  faultOverrun : Nat := 0      -- TKP_FAULT_CNT.OVERRUN, 16 bits saturating; 03 R60; reset 0
  plans    : NMap Plan := []   -- plan ring, slot tick mod 16, absent EMPTY; 03 "Tick plans"; empty
  lastPlan : Option Plan := none -- the plan that CP0 sealed last; 03 R55; reset none
  loaded   : Option Nat := none -- tick of the plan the sequencers have loaded; 03 R54; reset none
  overlays : NMap Overlay := [] -- overlay slots of the ring; 20 R440; empty
  sc       : NMap Nat := []    -- sync counters SC0..SC63, 16 bits, absent 0; 04 "Sync counters"; reset 0
  scPend   : List (Nat × Nat) := []  -- increments not yet visible: counter, cycle of the tick from which visible; 04; empty
  stand    : NMap Nat := []    -- standing action of each unit, 1 hold, absent open; 04 R76; reset open
  guardOff : List Nat := []    -- units whose guard failed in this tick; 04 R80; empty
  guards : List (Nat × Nat × Nat × Nat) := []  -- SYNC guards not yet decided: unit, counter, target, beat; 04 R79; empty
  startsThisBeat : Nat := 0    -- array starts used in the current beat; 02 R32; reset 0
  issued   : List Nat := []    -- beats of this tick whose overcast word has issued; 04 R76; empty
  sends    : List TimedRes := []  -- timed transfers of the beat that have not left, by rising cycle; 04 R91; empty
  flying   : List (Nat × Nat × List (Nat × Byte)) := []  -- timed transfers on their way, by rising cycle of arrival: cycle, unit, bytes by address; 04 R91; empty
  seamQ    : List SeamCmd := []  -- seam-bound commands waiting, in acceptance order; 03 R503; empty
  step     : Option Nat := none -- decided time step: tick whose seam applies it; 03 R46; reset none
  stepAt   : Option (Nat × Nat) := none -- the step of the coming seam: its tick index by source time, and the ns by which the tick is lengthened; 03 R46; reset none
  reissues : NMap Nat := []    -- withdrawn static steps per context; 04 R80, 15 R351; empty
deriving DecidableEq, Repr

/-! ## Tiles -/

/-- State of a logical tile (04 "Tile states"). -/
inductive TileState where
  | hold | openIdle | static | dynamic | fault | scrub
deriving DecidableEq, Repr

/-- A write that a slot operation has issued and that lands later (07 R147, R156, 05 R98). -/
inductive TWrite where
  | vreg (r : Nat) (lanes : List W32)
  | sreg (r : Nat) (v : W64)
  | areg (n : Nat) (v : BitVec 24)
  | breg (n : Nat) (v : BitVec 24)
  | lreg (n : Nat) (v : BitVec 24)
  | xmem (y : Bool) (bytes : List (Nat × Byte))
  | store (bytes : List (Nat × Byte))
  | mreg (n : Nat) (v : W64)
  | anvilRow (arr c m : Nat)           -- row m of the MMA that issued at cycle c reaches its anvils; 05 R100
  | check (arr c : Nat)                -- the check of the MMA that issued at cycle c; 05 R116 to R118
  | outRow (arr acc fmt i m : Nat)     -- a ROUT writes row m of a block; 05 R98
  | outLong (arr acc i : Nat)          -- a LOUT has written its block; 05 R98
  | inLong (arr acc : Nat) (clr : Bool) (hdr : List Byte) (vals : List (Option Int)) (miss : Option (Nat × Nat × Nat × Nat × Nat))
                                       -- a LIN has read its exchange block; 05 R98
deriving DecidableEq, Repr

/-- A weight set of an array (05 R96, R99). -/
structure WSet where
  filled : Bool := false       -- filled within the running kernel; 05 R99; reset false
  fmt    : Nat := 0            -- FMT of the load that filled it; 05 R96; DESIGN CHOICE 0 (log 3)
  base   : Nat := 0            -- block index it was loaded from, for the strip rule of 05 R105; DESIGN CHOICE 0 (log 3)
  block  : List Byte := []     -- B block, row layout; 05 R104; empty
  strip  : List Byte := []     -- its strip; 05 R105; empty
  cyc    : Nat := 0            -- issue cycle of the load, for the reads of 05 R99; reset 0
  ret    : Nat := 0x7F         -- ROW_MAP value of the array at the load; 05 R113; reset none
deriving DecidableEq, Repr

/-- An MMA in flight (05 R100): what its feeders have read or will read, and the weight set that it uses. -/
structure Flight where
  cyc   : Nat                  -- issue cycle; 05 R100
  acc   : Nat                  -- output block; 05 R97
  fmt   : Nat                  -- operand format; 05 R95
  clr   : Bool                 -- CLR; 05 R97
  mask  : W64                  -- rows present, read at issue; 05 R111
  base  : Nat                  -- block index of A; 05 R97
  ret   : Nat                  -- ROW_MAP value of the array; 05 R113
  pc    : Nat                  -- bundle index, for the event of 05 R119
  block : List Byte            -- A block, rotated layout; 05 R103
  strip : List Byte            -- its strip; 05 R105
  w     : WSet                 -- the active weight set; 05 R99
  err   : Option ColErr        -- an error that strikes it; 05 R116 to R118
deriving DecidableEq, Repr

/-- One output block of accumulator memory (05 R94, 06 R127): anvil (m, n) at key 64 m + n, none the poison code. -/
structure AccBlk where
  anchor : Int := 0            -- anchor exponent; 06 R127, 05 R94; DESIGN CHOICE 0 at cold reset (log 3), 0 by a scrub
  sat    : Bool := false       -- sticky saturation flag; 06 R128; DESIGN CHOICE 0 at cold reset (log 3), 0 by a scrub
  v      : NMap (Option Int) := []  -- anvils, 192-bit integers, absent 0; 06 R127; DESIGN CHOICE 0 at cold reset (log 3), 0 by a scrub
deriving DecidableEq, Repr

/-- A matrix array of a tile (05 R93 to R99). -/
structure ArrayUnit where
  acc    : NMap AccBlk := []   -- output blocks AB0..AB3; 05 R94; reset 0
  set0   : WSet := {}          -- weight set 0; 05 R99; empty
  set1   : WSet := {}          -- weight set 1; 05 R99; empty
  active : Nat := 0            -- pointer to the active set; 05 R99; DESIGN CHOICE 0 (log 3)
  freeAt : Nat := 0            -- cycle from which the array may issue again; 05 R98; reset 0
  lastMma : NMap Nat := []     -- cycle of the last MMA per block in this kernel; 05 R101; empty
  used   : List Nat := []      -- blocks used by the running kernel; 05 R101; empty
  portHeld : List (Nat × Nat) := []  -- cycles in which the output stage holds its port; 07 R158; empty
  flights : List Flight := []  -- MMAs whose rows have not all reached their anvils; 05 R100; empty
  portUse : Nat := 0           -- cycle + 1 of the last VLDT or VSTT through its output-stage port; 07 R158; reset 0
  lastBeat : Nat := 0          -- launch counter + 1 of the beat in which an instruction last issued to the array; 02 R32; reset 0
deriving DecidableEq, Repr

/-- An outstanding DMA/skew operation of a tile (05 R107, R110). -/
structure TagOp where
  op     : Nat                 -- 1 LD 2 ST 3 SKEWA 4 SKEWB 5 MKS
  doneAt : Option Nat          -- completion cycle where R107 fixes it
  done   : Bool
  src    : Nat
  dst    : Nat
  len    : Nat
deriving DecidableEq, Repr

/-- The kernel that runs on a tile (04 R71). -/
structure Running where
  kernel  : Nat
  imageId : Nat
  tick    : Nat
  beat    : Nat                -- start beat b
  length  : Nat                -- declared length L
  slice   : Nat
  context : Nat
  verified : Bool
  isStatic : Bool
  onFloor : Bool
  job     : Option StealJob    -- the entry of a dynamic kernel, kept until it ends (20 R439)
  ended   : Bool               -- END has issued
deriving DecidableEq, Repr

/-- A logical tile (04 R64). -/
structure Tile where
  state  : TileState := .openIdle  -- 04 "Tile states"; DESIGN CHOICE OPEN_IDLE, the standing action open of R76 (log 3)
  run    : Option Running := none  -- running kernel; 04 R71; reset none
  pc     : Nat := 0            -- bundle index of the sequencer; 04 R66; DESIGN CHOICE 0 (log 3)
  loops  : List (Nat × Nat) := []  -- loop stack, depth 4: first body bundle, runs left; 04 R64 R66; empty
  rep    : Nat := 0            -- issues left of a repeated bundle; 07 R159; reset 0
  cyc    : Nat := 0            -- cycle of the kernel reached; 04 R71; reset 0
  wait   : Option (Nat × Nat) := none  -- WAITD holding issue: tag, cycle of its maximum wait; 04 R66; reset none
  v      : NMap (List W32) := []   -- V0..V31, 64 lanes of 32 bits, absent 0; 07 R144; reset 0 at kernel start
  s      : NMap W64 := []      -- S0..S31, 64 bits, absent 0; 07 R144; reset 0 at kernel start
  a      : NMap (BitVec 24) := []  -- A0..A15, absent 0; 07 R144; reset 0 at kernel start
  b      : NMap (BitVec 24) := []  -- B0..B7, absent 0; 07 R144; reset 0 at kernel start
  l      : NMap (BitVec 24) := []  -- L0..L7, absent 0; 07 R144; reset 0 at kernel start
  la     : NMap (Option Int) := [] -- LA0..LA3, none the poison code, absent 0; within a cycle's adds beyond 320 bits (Tile.getLA); 06 R141; reset 0 at kernel start
  laWr   : NMap Nat := []      -- cycle of the last writer of each LA; 07 R152; empty
  laRd   : NMap Nat := []      -- cycle of the last reader of each LA; 07 R152; empty
  mreg   : NMap W64 := []      -- MK0..MK15, 64 bits, absent 0; 05 "Masked rows"; DESIGN CHOICE 0 until a handover or scrub sets all ones (log 3)
  x      : NMap Byte := []     -- X memory, 128 KiB, absent 0; 07; DESIGN CHOICE 0 (log 3)
  y      : NMap Byte := []     -- Y memory, 128 KiB, absent 0; 07; DESIGN CHOICE 0 (log 3)
  st     : NMap Byte := []     -- tile store, 2 MiB, absent 0; 05; DESIGN CHOICE 0 (log 3)
  ar0    : ArrayUnit := {}     -- array 0; 05; empty
  ar1    : ArrayUnit := {}     -- array 1; 05; empty
  tags   : NMap TagOp := []    -- outstanding operations by tag 0..15; 05 R110; empty
  late   : List (Nat × TagOp) := []  -- started LD and ST of stopped kernels with their slice, which run to their end; 03 R60; empty
  miss   : Option (Nat × Nat × Nat × Nat × Nat) := none  -- mismatch: cycle, array, column, row, bundle; 05 R119; none
  fin    : Nat := 0            -- cycle by which the array and long-accumulator operations issued so far complete; 05 R98, 07 R152; reset 0
  pend   : List (Nat × TWrite) := []  -- writes in flight: cycle from which visible; 07 R147; empty
  holder : Option Nat := none  -- holding context; 17 R388; reset none
  q      : List StealJob := [] -- the tile's steal queue, oldest first, 64 entries; 04 R82; empty
  nextJob : Option (StealJob × Option Nat) := none  -- selected job that waits for the array-start allowance, with its tile queue; 02 R32; none
  arriving : Nat := 0          -- fault tick of the tile, for 20 R438; DESIGN CHOICE 0 (log 3)
  spent  : Nat := 0            -- open beats used in this tick, against the open duty; 02 R28; reset 0
  ran    : List Nat := []      -- contexts that ran on the tile in this tick; 17 R393; empty
  ranLast : List Nat := []     -- contexts that ran on the tile in the tick that ended last; 17 R393; empty
deriving DecidableEq, Repr

/-- Dispatchers, image sets and the repair map (04). -/
structure Dies where
  images  : NMap Image := []   -- resident images, key 1,024 die + kernel index; 04 R68; empty
  copies  : NMap Image := []   -- copies in GDDR7 of the images of every resident set, by the same key; 04 R68; empty
  attnSet : List Nat := []     -- kernel indices of the attention image set of the bundle; 09 R203; empty
  queues  : NMap (List StealJob) := []  -- die queues, 1,024 entries; 04 R82; empty
  enqOut  : List (Nat × List Byte × Nat) := []  -- outcomes of the last beat's enqueues: die, entry, status; 04 R82; empty
  enqSeq  : NMap Nat := []     -- next ENQ_SEQ per die; 04 R82; DESIGN CHOICE 0 (log 4)
  tilePtr : NMap Nat := []     -- rotating tie pointers of the current tick: steal arrivals of a die, 4 system and 5 slice queues; 17 R397; reset 0 at each seam
  barred  : List Nat := []     -- contexts barred for the rest of the tick; 04 R60; empty
  torn    : List (Nat × Nat) := []  -- contexts to tear down at the next seam and the event code of the cause; 03 R60; empty
  gen     : Nat := 0           -- repair map GEN; 04 R88; DESIGN CHOICE 0 (log 4)
  mapTick : Nat := 0           -- repair map TICK; 04 R88; reset 0
  source  : Nat := 0           -- repair map SOURCE; 04 R88; reset 0
  tileMap : NMap Nat := []     -- logical tile to physical tile, absent the factory binding; 04 R87 R88; reset factory binding
  rowMap  : NMap Nat := []     -- key 88 die + 2 physical tile + array: retired row, absent 0x7F; 04 R88; reset none
  bad     : List Nat := []     -- retired physical tiles, 44 die + p; 20 R444 R445; empty
  bindAt  : NMap (Nat × Nat) := []  -- pending bindings: logical tile to (physical tile, tick of its seam); 20 R438; empty
deriving DecidableEq, Repr

/-! ## Memory and DMA -/

/-- A DMA burst in progress (08 R172). -/
structure Burst where
  desc   : Nat
  op     : Nat
  flags  : Nat
  length : Nat
  src    : Nat
  dst    : Nat
  bytes  : Nat
  next   : Nat
  donePtr : Nat
  tick   : Nat
  beat   : Nat
  slice  : Option Nat
  context : Option Nat
  use    : BurstUse
  got    : NMap (List Byte)    -- data that has come from the fabric, by offset in the burst
  fail   : Option Nat          -- first status other than OK of its fabric requests
deriving DecidableEq, Repr

/-- Device memory, its errors and the DMA engines (08). -/
structure Mem where
  dev    : List Host.Cell := []  -- GDDR7 and deck by device physical address, absent 0x00; 08 R163; DESIGN CHOICE 0x00 (log 1)
  host   : List Host.Cell := []  -- host memory as the device reads and writes it, absent 0x00; 16 R358; DESIGN CHOICE 0x00 (log 1)
  poison : List Nat := []      -- poisoned 64-byte lines, line numbers rising; 08 R167; empty
  latent : List Nat := []      -- lines that hold an uncorrected error that no read has found; 08 R167; empty
  lost   : List Nat := []      -- lost channels; 08 R504; empty
  hostBias : List Nat := []    -- 2 MiB pages of decoder 0 in host bias; 08 R170; reset none, device bias
  dma    : NMap Burst := []    -- bursts running on DE0..DE15; 08 R172; empty
  dmaNext : NMap Nat := []     -- descriptor an engine follows next; 08 R172; empty
  checks : NMap (List Nat) := []  -- check lines in each channel controller's cache, latest used first, at most 64; 08 R166; empty
  readData : List (Byte × Bool) := []  -- data returned by the last host read, with its poison indication; 08 R167 R169; empty
deriving DecidableEq, Repr

/-! ## Pages and serving -/

/-- A model pool descriptor (08 R175). -/
structure Pool where
  state  : Nat                 -- 0 UNUSED 1 ACTIVE 2 DRAINING
  p      : Nat
  model  : Nat
  pageBytes : Nat
  frameTab : Nat
  frames : Nat
  tierMax : List Nat
  lowWater : Nat
  extentPtr : Nat
  extents : List (Nat × Nat × Nat)  -- BASE, COUNT, TIER of the list read at POOL_SET (08 R505)
deriving DecidableEq, Repr

/-- A frame descriptor (08 R176). -/
structure Frame where
  loc   : Nat
  tier  : Nat                  -- 0 deck 1 local 2 remote 3 flash
  state : Nat                  -- 0 FREE 1 GRANTED 2 MOVING
  refs  : Nat
  gen   : Nat
  retired : Bool               -- 08 R506
  lastUse : Nat                -- last read, for 11 R252
deriving DecidableEq, Repr

/-- A request-table entry (10 R207). -/
structure Req where
  state : Nat := 0             -- STATE, 8 bits; 10 R209; reset 0 FREE
  slice : Nat := 0             -- SLICE; 10 R207; reset 0
  prio  : Nat := 0             -- PRIO[2:0]; 10 R207; reset 0
  reason : Nat := 0            -- REASON; 10 R210; reset 0
  reqId : Nat := 0             -- REQ_ID; 10 R207; reset 0
  deadline : Nat := 0          -- DEADLINE; 10 R207; reset 0
  commitLen : Nat := 0         -- COMMIT_LEN; 10 R207; reset 0
  specLen : Nat := 0           -- SPEC_LEN; 10 R220; reset 0
  bucket : Nat := 0            -- BUCKET; 10 R207; reset 0
  pageList : Nat := 0          -- PAGE_LIST; 10 R207; reset 0
  pageCount : Nat := 0         -- PAGE_COUNT; 10 R207; reset 0
  pageCap : Nat := 0           -- PAGE_CAP; 10 R207; reset 0
  adapter : Nat := 0           -- ADAPTER; 10 R207; reset 0
  adapterVer : Nat := 0        -- ADAPTER_VER; 10 R225; reset 0
  grammar : Nat := 0           -- GRAMMAR; 10 R207; reset 0
  gstate : Nat := 0            -- GSTATE; 10 R230; reset 0
  gsp    : Nat := 0            -- GSP; 10 R230; reset 0
  pool   : Nat := 0            -- POOL; 10 R207; reset 0
  draftMax : Nat := 0          -- DRAFT_MAX; 10 R207; reset 0
  resume : Nat := 0            -- FLAGS.RESUME; 10 R207; reset 0
  recompute : Bool := false    -- FLAGS.RECOMPUTE; 10 R211; reset 0
  maxNew : Nat := 0            -- MAX_NEW; 10 R207; reset 0
  seed   : W64 := 0            -- SEED; 10 R207; reset 0
  step   : Nat := 0            -- STEP; 10 R207; reset 0
  promptLen : Nat := 0         -- PROMPT_LEN; 10 R207; reset 0
  prefillPos : Nat := 0        -- PREFILL_POS; 10 R207; reset 0
  roleLoc : Nat := 0           -- ROLE_LOC; 10 R207; reset 0
  tokenLog : Nat := 0          -- TOKEN_LOG; 10 R207; reset 0
  eos    : Nat := 0            -- EOS_TOKEN; 10 R207; reset 0
  temp   : W32 := 0            -- TEMP; 10 R207; reset 0
  topP   : W32 := 0            -- TOP_P; 10 R207; reset 0
  minP   : W32 := 0            -- MIN_P; 10 R207; reset 0
  topK   : Nat := 0            -- TOP_K; 10 R207; reset 0
  entryGen : Nat := 0          -- ENTRY_GEN; 10 R207; reset 0
  genLen : Nat := 0            -- GEN_LEN; 10 R207; reset 0
  resultPtr : Nat := 0         -- RESULT_PTR; 10 R207; reset 0
  admitTick : Nat := 0         -- ADMIT_TICK; 10 R207; reset 0
  pages  : List (Nat × Nat) := []  -- the page list in memory: identifier and GEN of each page held; 10 R208; empty
  dropped : List Nat := []     -- page indices dropped by reclaim below the last page held; 10 R211; empty
  coming : Bool := false       -- a swapped request's return has begun; 10 R217; reset false
  stack  : List Nat := []      -- grammar stack, top first, up to 64; 10 R230; empty
  cmdQ   : Nat := 0            -- queue of its REQ_ADMIT; 10 R232; model's own
  cmdSeq : Nat := 0            -- sequence number of its REQ_ADMIT; 10 R232; model's own
  abortAsk : Option Nat := none  -- reason of the first abort that waits for the commit boundary; 10 R212; empty
  waitRes : Bool := false      -- in PAGE_WAIT for its frames to be resident, after an ATTN status, and not for a grant; 10 R211; reset false
  swapAsk : Bool := false      -- chosen as swap victim while its row runs; 10 R217; reset false
deriving DecidableEq, Repr

/-- A step configuration (10 R213). -/
structure StepCfg where
  maxRows : Nat
  maxSeqs : Nat
  chunk   : Nat
  vocab   : Nat
  abortGuard : Nat
deriving DecidableEq, Repr

/-- A row group of a composed step: one request's rows (10 R214, R219). -/
structure StepRow where
  idx    : Nat
  gen    : Nat                 -- ENTRY_GEN of the request
  prefill : Bool
  n      : Nat                 -- rows
  pos    : Nat                 -- first position written
  drafts : List Token
  kvLen  : Nat
deriving DecidableEq, Repr

/-- A segment of a step's adapter GEMMs: the rows of one adapter version, with the slot that holds its weights (10 R226). -/
structure Segment where
  handle : Nat
  version : Nat
  slot   : Nat
  rows   : List Nat            -- request-table indices, in pick order
deriving DecidableEq, Repr

/-- What waits for the commit boundary of a running step, in arrival order (10 R212). -/
inductive Boundary where
  /-- A REQ_ADMIT: queue and sequence number. -/
  | enter (q seq : Nat)
  /-- A REQ_ABORT. -/
  | abort (q seq : Nat)
  /-- An abort of the deadline rule: request-table index and ENTRY_GEN (10 R218). -/
  | deadline (idx gen : Nat)
deriving DecidableEq, Repr

/-- A step of a pair that runs (10 R212, R214, R226). -/
structure StepRun where
  rows   : List StepRow        -- in pick order, which is that of the sequence table
  segs   : List Segment        -- by rising handle and version
  descs  : List (List Byte)    -- ATTN descriptors that the compiled program issues, in order (09 R183)
  ended  : List (List Nat)     -- SEQ_STATUS of each row for each ATTN that has ended, in order
  waits  : List Boundary
deriving DecidableEq, Repr

/-- A budget bucket (10 R215). -/
structure Bucket where
  level : Int := 0             -- LEVEL, signed; 10 R215; reset 0
  rate  : Nat := 0             -- RATE; 10 R215; reset 0
  cap   : Nat := 0             -- CAP; 10 R215; reset 0
deriving DecidableEq, Repr

/-- An adapter slot (10 R223). -/
structure Adapter where
  handle : Nat
  version : Nat
  state  : Nat                 -- 0 EMPTY 1 LOADING 2 CURRENT 3 SUPERSEDED 4 WITHDRAWN
  pool   : Nat
  rank   : Nat
  refs   : Nat
  weights : Nat
  bytes  : Nat
  since  : Nat                 -- tick of its last change of state; 10 R225
  cmdQ   : Nat
  cmdSeq : Nat
  copy   : List Byte           -- the weights as copied while LOADING; 10 R224 (log 98)
deriving DecidableEq, Repr

/-- A grammar header (10 R229). -/
structure Grammar where
  vocab  : Nat
  states : Nat
  start  : Nat
  masks  : Nat
  trans  : Nat
  refs   : Nat
  stateTab : Nat
  maskTab : Nat
  transTab : Nat
deriving DecidableEq, Repr

/-- Page allocator and serving engine (08, 10). -/
structure Serving where
  poolBase : Nat := 0          -- SRV_POOL_BASE.BASE times 64; 08 SRV_POOL_BASE; reset 0
  reqBase  : Nat := 0          -- SRV_REQ_BASE.BASE times 128; 10 SRV_REQ_BASE; reset 0
  budgetBase : Nat := 0        -- SRV_BUDGET_BASE.BASE times 64; 10; reset 0
  adapterBase : Nat := 0       -- SRV_ADAPTER_BASE.BASE times 64; 10; reset 0
  grammarBase : Nat := 0       -- SRV_GRAMMAR_BASE.BASE times 64; 10; reset 0
  pageFail : Nat := 0          -- SRV_PAGE_FAIL.COUNT, 32 bits saturating; 08 R177; reset 0
  swaps    : Nat := 0          -- SRV_RECLAIM.SWAPS, 32 bits saturating; 10; reset 0
  aborts   : Nat := 0          -- SRV_RECLAIM.ABORTS, 32 bits saturating; 10; reset 0
  pools    : NMap Pool := []   -- pool table, 256 descriptors; 08 R175; empty
  frames   : NMap Frame := []  -- frame tables, key 2^24 pool + identifier; 08 R176; empty
  free     : NMap (List Nat) := []  -- free lists, key 8 pool + list (0 deck, 1 HD0, 2 HD1, 3 remote, 4 flash), most recently freed first; 08 R175 R177; empty
  reqs     : NMap Req := []    -- request table, 16,384 entries, absent FREE with ENTRY_GEN 0; 10 R206; reset FREE
  cfgs     : NMap StepCfg := []  -- step configuration, key 256 slice + pool; 10 R213; empty
  steps    : NMap StepRun := []  -- step running of each pair; 10 R214; empty
  buckets  : NMap Bucket := [] -- budget table, 4,096 buckets; 10 R215; reset 0
  adapters : NMap Adapter := []  -- adapter table, 256 slots; 10 R223; empty
  grammars : NMap Grammar := []  -- grammar table, 256 headers; 10 R229; empty
  ddl      : NMap Nat := []    -- tick + 1 of the last abort by the deadline rule per pool; 10 R218; empty
deriving DecidableEq, Repr

/-! ## Roles, moves, prefixes, flash -/

/-- A slice's serving role (11 R234). -/
structure Role where
  role   : Nat := 3            -- 0 PROMPT 1 GENERATION 2 CACHE 3 MIXED; 11 R233; reset MIXED
  targets : List Nat := []     -- TARGET_LIST; 11 R234; empty
  caches : List Nat := []      -- CACHE_LIST; 11 R234; empty
  landStride : Nat := 0        -- LAND_STRIDE; 11 R234; DESIGN CHOICE 0 (log 4)
  landBase : Nat := 0          -- LAND_BASE; 11 R234; DESIGN CHOICE 0 (log 4)
  ringPtr : Nat := 0           -- RING_PTR; 11 R234; DESIGN CHOICE 0 (log 4)
  notices : Nat := 0           -- notices written to the move-in ring; 11 R242; reset 0
  rot     : Nat := 0           -- rotating target pointer; 11 R237; DESIGN CHOICE 0 (log 4)
deriving DecidableEq, Repr

/-- The source side of a move (11 R236, R237, R240). -/
structure SrcMove where
  target : Nat                 -- target entry: device in [7:0], slice in [13:8]
  tried  : Nat                 -- targets that refused in this tick
  sentTick : Nat               -- tick of the last MOVE_RESERVE, MOVE_COMMIT or MOVE_QUERY
  phase  : Nat                 -- 1 reserve sent, 2 copying, 3 commit or query sent
  dst    : MoveReserved
  left   : List (Nat × Nat × Nat)  -- ranges not yet copied: source fabric address, bytes, destination fabric address
deriving DecidableEq, Repr

/-- A move record of the destination (11 R239). -/
structure MoveRec where
  srcDev : Nat
  srcIdx : Nat
  srcGen : Nat
  dstIdx : Nat
  outcome : Nat                -- 0 PENDING 1 COMMITTED 2 ABANDONED
  slice  : Nat
  place  : Nat := 0            -- unit of the journal that holds its commit record (11 R236)
deriving DecidableEq, Repr

/-- A prefix-index entry (11 R244). -/
structure PfxEntry where
  pool  : Nat
  key   : List Byte
  depth : Nat
  frame : Nat
  lastUse : Nat                -- order of its last use
  useTick : Nat                -- tick of its last use, for R217 step 2
  copied : Bool                -- the prefix also has a copy on a cache device (10 R217 step 1)
  encSlice : Option Nat        -- slice of an encrypted inserter (21 R473)
deriving DecidableEq, Repr

/-- A pin of prefix frames for a requester (11 R246). -/
structure PfxLease where
  dev    : Nat
  pool   : Nat
  frames : List Nat
  until_ : Nat                 -- tick at which the lease ends
  keys   : List (List Byte)    -- keys that a publish inserts, by depth; empty for a pin
deriving DecidableEq, Repr

/-- A prefix command in progress (11 R246). -/
structure PfxOp where
  q : Nat
  seq : Nat
  opcode : Nat
  pool : Nat
  slice : Nat
  depth : Nat
  keys : List (List Byte)      -- prefix keys of depth 1, 2, ...
  local_ : Nat × List (Nat × Nat)  -- PREFIX_LOOKUP: local depth and pages
  order : List Nat             -- PREFIX_LOOKUP: devices asked, in CACHE_LIST order
  waiting : List Nat           -- devices that have not answered
  answers : List (Nat × Nat × List (Nat × Nat))  -- device, depth, pages
  dev : Nat                    -- cache device of a fetch or publish
  lease : Nat
  frames : List Nat            -- local frames granted to a fetch, or held by a publish
  left : List (Nat × Nat × Nat)  -- ranges not yet copied: source fabric address, bytes, destination fabric address
  startTick : Nat
deriving DecidableEq, Repr

/-- A notice or message that the device sends to another device's firmware (14 R323). -/
structure OutMsg where
  dst   : Nat
  cls   : Nat
  moveId : Nat
  arg   : List Nat
  body  : List Byte
deriving DecidableEq, Repr

/-- Roles, moves and the prefix index (11). -/
structure Moves where
  roles  : NMap Role := []     -- role of each slice, absent MIXED; 11 R233; reset MIXED
  src    : NMap SrcMove := []  -- moves of MOVING entries by table index; 11 R236; empty
  recs   : List MoveRec := []  -- move records, at most 1,024; 11 R239; empty
  index  : List PfxEntry := [] -- prefix index, at most 65,536 entries; 11 R244; empty
  useSeq : Nat := 0            -- counter that orders uses of prefix entries; 11 R244; model's own
  leases : NMap PfxLease := [] -- pins held for other devices; 11 R246; empty
  leaseN : Nat := 0            -- next lease number; model's own
  ops    : List PfxOp := []    -- prefix commands in progress; 11 R246; empty
  failStreak : NMap (Nat × Nat) := []  -- consecutive move failures per table index, tick of the last; 11 R237; empty
deriving DecidableEq, Repr

/-- A superblock of the flash tier (11 R248, R250). -/
structure SuperBlk where
  state  : Nat                 -- 0 free 1 open 2 closed
  members : List Nat           -- its erase block on each of the 16 channels, by the channel's block number
  opened : Nat                 -- operating seconds at which it was opened
  nextStripe : Nat
deriving DecidableEq, Repr

/-- The flash tier (11). -/
structure Flash where
  state  : Nat := 3            -- SRV_FLASH_STATUS.STATE: 0 ACTIVE 1 READ_ONLY 3 DISABLED; 11; reset 0b11
  sparePermil : Nat := 0       -- SRV_FLASH_STATUS.SPARE_PERMIL, 10 bits; 11; reset 0
  retainDays : Nat := 30       -- SRV_FLASH_STATUS.RETAIN_DAYS, 7 bits; 11; reset 0x1E
  uncorr : Nat := 0            -- SRV_FLASH_ERR.UNCORR, 32 bits saturating; 11 R253; reset 0
  retired : Nat := 0           -- SRV_FLASH_ERR.RETIRED, 16 bits saturating; 11 R251; reset 0
  sbs    : NMap SuperBlk := [] -- superblocks; 11 R248; empty
  write  : Option Nat := none  -- superblock of the write point; 11 R248; reset none
  pages  : NMap (List (List Byte)) := []  -- stored pages as NAND codewords, key 2^24 pool + frame; 11 R248; empty
  readTick : NMap Nat := []    -- tick of the last read of a flash frame; 11 R252; empty
  chans  : List NandChan := []  -- NAND of each ONFI channel, from its parameter page; 11 R247; empty
  stripes : Nat := 0           -- stripes of a superblock, from the ONFI parameter page; 11 R247; DESIGN CHOICE 0 (log 4)
  eraseCnt : NMap Nat := []    -- erase count of each block, persistent, key 2^32 channel + block; 11 R250; empty
  bad    : List Nat := []      -- blocks retired at run time, same key; 11 R251; empty
  recBlocks : List Nat := []   -- good blocks of the recorder area, same key; 11 R256; empty
deriving DecidableEq, Repr

/-! ## Fused attention -/

/-- Running state (M, l, o) of one row, none when empty (09 R196). -/
structure AttnState where
  m : Int
  l : W32
  o : List W32
  nan : Bool                   -- the row is poisoned (09 R197)
deriving DecidableEq, Repr

/-- A sequence of an ATTN command (09 R185), with its page list and segment numbers as read at the start. -/
structure AttnSeq where
  qRow  : Nat
  qTok  : Nat
  qPos  : Nat
  kvLen : Nat
  segs  : List Nat             -- PACKED: a segment number for each position; empty otherwise (09 R188)
  locs  : List Nat             -- fabric address of the frame of each page (09 R194)
  status : Nat                 -- SEQ_STATUS (09 R187)
deriving DecidableEq, Repr

/-- A chain of an ATTN command: one query block (09 R191, R203). -/
structure Chain where
  num   : Nat
  seqNo : Nat
  head  : Nat                  -- KV head u
  qblk  : Nat
  die   : Nat
  blocks : List Nat            -- key blocks left to run, ascending
  running : Bool               -- the job of the first of them has been enqueued and has not ended
  staged : List (Nat × Nat × Nat)  -- staged for it: source fabric address, bytes, deck address (09 R203)
  folded : Nat                 -- key blocks folded so far
  copy0 : NMap AttnState       -- state record of row m, copy 0 (09 R203)
  copy1 : NMap AttnState       -- copy 1
  parts : NMap (List AttnState)  -- partials of row m, ascending, for the direct form of 09 R199
  late  : NMap (Nat × Nat)     -- TIMEOUTs of a staging burst by its source address, and the tick of the last (09 R204)
deriving DecidableEq, Repr

/-- An ATTN command that runs (09). -/
structure AttnCmd where
  q    : Nat
  seq  : Nat
  slice : Nat
  desc : List Byte             -- its 128-byte descriptor
  p    : Nat                   -- tokens of a page
  globals : List Nat           -- used entries of the global offset list (09 R189)
  seqs : List AttnSeq
  chains : List Chain          -- chains that have not ended
  sat : Bool
  poison : Bool
  lowband : Bool
  rowsDone : Nat
  jobs : Nat
  pins : List (Nat × Nat)      -- pool, frame pinned (09 R194)
deriving DecidableEq, Repr

/-- An ATTN_MERGE that waits for parts on other devices (09 R201). -/
structure MergeCmd where
  q    : Nat
  seq  : Nat
  desc : List Byte             -- its 64-byte descriptor
  parts : List (Nat × Nat × Nat)  -- fabric address of the records, KEY_LO, KEY_HI
  left : List Nat              -- pieces not yet answered
  got  : NMap (List Byte)      -- data by piece: 2^32 part + offset
  fails : NMap Nat             -- first fabric status other than OK by part
deriving DecidableEq, Repr

/-! ## Fronthaul and radio -/

/-- A fronthaul port (12). -/
structure FhPort where
  mode  : Rwt := ⟨0, 0, 0⟩     -- FH_PORT_CFG.MODE, 2 bits RWT; 12; reset 0b00
  kind  : Rwt := ⟨0, 0, 0⟩     -- FH_PORT_CFG.KIND, 1 bit RWT; 12; reset 0
  dynComp : Rwt := ⟨0, 0, 0⟩   -- FH_PORT_CFG.DYN_COMP, 1 bit RWT; 12; reset 0
  mantTx : Rwt := ⟨9, 9, 9⟩    -- FH_PORT_CFG.MANT_TX, 5 bits RWT; 12; reset 0x09
  mantRx : Rwt := ⟨9, 9, 9⟩    -- FH_PORT_CFG.MANT_RX, 5 bits RWT; 12; reset 0x09
  duBits : Rwt := ⟨2, 2, 2⟩    -- FH_FRAME.DU_BITS, 4 bits RWT; 12; reset 0x2
  bsBits : Rwt := ⟨4, 4, 4⟩    -- FH_FRAME.BS_BITS, 4 bits RWT; 12; reset 0x4
  ccBits : Rwt := ⟨4, 4, 4⟩    -- FH_FRAME.CC_BITS, 4 bits RWT; 12; reset 0x4
  ruBits : Rwt := ⟨6, 6, 6⟩    -- FH_FRAME.RU_BITS, 4 bits RWT; 12; reset 0x6
  mtu   : Rwt := ⟨0x2580, 0x2580, 0x2580⟩  -- FH_FRAME.MTU, 14 bits RWT; 12; reset 0x2580
  vid   : Rwt := ⟨0, 0, 0⟩     -- FH_VLAN.VID, 12 bits RWT; 12; reset 0x000
  vlanEn : Rwt := ⟨0, 0, 0⟩    -- FH_VLAN.EN, 1 bit RWT; 12; reset 0
  pcpU  : Rwt := ⟨7, 7, 7⟩     -- FH_VLAN.PCP_U, 3 bits RWT; 12; reset 0b111
  pcpC  : Rwt := ⟨7, 7, 7⟩     -- FH_VLAN.PCP_C, 3 bits RWT; 12; reset 0b111
  rxMin : Rwt := ⟨0, 0, 0⟩     -- FH_WIN_RX.RX_MIN, 13 bits RWT; 12; reset 0x0000
  rxMax : Rwt := ⟨0x3E8, 0x3E8, 0x3E8⟩  -- FH_WIN_RX.RX_MAX, 13 bits RWT; 12; reset 0x03E8
  txAdvU : Rwt := ⟨0x9C4, 0x9C4, 0x9C4⟩ -- FH_WIN_TX.TX_ADV_U, 13 bits RWT; 12; reset 0x09C4
  txAdvC : Rwt := ⟨0xBB8, 0xBB8, 0xBB8⟩ -- FH_WIN_TX.TX_ADV_C, 13 bits RWT; 12; reset 0x0BB8
  txSpread : Rwt := ⟨0x12C, 0x12C, 0x12C⟩ -- FH_WIN_TX.TX_SPREAD, 13 bits RWT; 12; reset 0x012C
  target : Rwt := ⟨0x24, 0x24, 0x24⟩  -- FH_TD_CFG.TARGET, 8 bits RWT; 12; reset 0x24
  thr   : Rwt := ⟨0x14, 0x14, 0x14⟩   -- FH_TD_CFG.THR, 8 bits RWT; 12; reset 0x14
  qual  : Rwt := ⟨0x80, 0x80, 0x80⟩   -- FH_TD_CFG.QUAL, 8 bits RWT; 12; reset 0x80
  maxGain : Rwt := ⟨0x60, 0x60, 0x60⟩ -- FH_TD_CFG.MAXGAIN, 8 bits RWT; 12; reset 0x60
  samples : Rwt := ⟨2, 2, 2⟩   -- FH_TD_CFG.SAMPLES, 2 bits RWT; 12; reset 0b10
  linkUp : Bool := false       -- FH_STATUS.LINK_UP; 12; reset 0
  trainAt : Option Nat := none -- tick of the seam of a MODE change whose link has not come up; 12 R258; reset none
  resumeAt : Nat := 0          -- tick from which frames are sent and taken again; 12 R272; reset 0
  synceSrc : Bool := false     -- FH_STATUS.SYNCE_SRC; 12; reset 0
  cpRx   : List (Nat × Nat) := []  -- PTP and ESMC frames passed to CP6 with their receive stamps: EtherType, ns, newest first; 12 R259, R270; empty
  noFollow : List Nat := []    -- sequenceId of each Sync sent whose stamp was dropped; 15 R347; empty
  linkDowns : Nat := 0         -- FH_STATUS.LINK_DOWNS, 16 bits saturating; 12; reset 0
  onTime : Nat := 0            -- FH_RX_TIME.ON_TIME, 32 bits saturating; 12; reset 0
  early  : Nat := 0            -- FH_RX_TIME.EARLY, 16 bits saturating; 12; reset 0
  late   : Nat := 0            -- FH_RX_TIME.LATE, 16 bits saturating; 12; reset 0
  unknown : Nat := 0           -- FH_RX_ERR.UNKNOWN, 16 bits saturating; 12; reset 0
  comp   : Nat := 0            -- FH_RX_ERR.COMP, 16 bits saturating; 12; reset 0
  dup    : Nat := 0            -- FH_RX_ERR.DUP, 16 bits saturating; 12; reset 0
  fcs    : Nat := 0            -- FH_RX_ERR.FCS, 16 bits saturating; 12; reset 0
  sent   : Nat := 0            -- FH_TX_CNT.SENT, 48 bits saturating; 12; reset 0
  txLate : Nat := 0            -- FH_TX_CNT.LATE, 16 bits saturating; 12; reset 0
  lateEvt : Nat := 0           -- tick + 1 of the last FH_TX_LATE event of the port; 12 R263; reset 0
  txSeq  : NMap Nat := []      -- SEQ_ID byte 0 per eAxC and plane, key 2 eAxC + plane, modulo 256; 12 R260; DESIGN CHOICE 0 (log 4)
  lastTx : NMap (List Byte) := []  -- frame last sent per eAxC and plane, without its FCS, keyed as txSeq; 12 R259 to R262; empty
  uAt    : Nat × Nat := (0, 0) -- beat + 1 of the launch counter of the last U-plane launch, and its highest eAxC ID; 12 R263; reset (0, 0)
  txBusy : Nat := 0            -- moment at which the last frame sent has left the link, launch counter in units of 10 ps; 12 R263; reset 0
  txq    : List Nat := []      -- transmit stamps waiting, as packed entries of 15 R346; empty
  stampOver : Nat := 0         -- TIM_TXTS_p.OVERFLOW, 16 bits saturating; 15 R347; reset 0
deriving DecidableEq, Repr

/-- A time-domain antenna stream (12 R268, R269). -/
structure TdStream where
  gain  : Nat := 0             -- g in 0.5 dB; 12 R268; DESIGN CHOICE 0 (log 4)
  pins  : List Int := []       -- pin of the previous symbols, newest first, 14 kept; 12 R269; empty
  held  : Bool := false        -- gain held after a trigger; 12 R269; reset false
  frozen : Bool := false       -- gain frozen to the slot end; 12 R269; reset false
  trig  : Bool := false        -- the last symbol triggered; 12 R269; reset false
  detect : Bool := false       -- DETECT of the current symbol; 12 R269; reset false
  words  : NMap W32 := []      -- symbol words last written, by symbol 16 A + y; 12 R267; empty
  last   : Nat := 0            -- symbol of the last update, 16 A + y; 12 R268; reset 0
deriving DecidableEq, Repr

/-- A configuration that layer 2 gives a cell, each applied at a seam (03 R48). -/
inductive CellSet where
  /-- CONFIG.request (13 R278). -/
  | config (c : CellConfig)
  /-- CELL_BIND.request (13 R279). -/
  | bound (b : CellBind)
  /-- TWILIGHT_CFG.request (13 R298). -/
  | twilight (w : TwilightCfg)
deriving DecidableEq, Repr

/-- A cell (13). -/
structure Cell where
  phy    : Option Nat := none  -- PHY that owns it; 13 R277; reset none
  bind_  : Option CellBind := none  -- CELL_BIND; 13 R279; reset none
  cfg    : Option CellConfig := none  -- CONFIG; 13 R278; reset none
  tw     : Option TwilightCfg := none  -- TWILIGHT_CFG; 13 R298; reset none, HOLD_S 600
  active : Bool := false       -- active; 13 R278; reset false
  mode   : Nat := 3            -- 1 NORMAL 2 TWILIGHT 3 OFF; 13 R297; reset OFF
  startAt : Option Nat := none -- first tick of its first slot; 13 R278; reset none
  stopAt : Option Nat := none  -- first tick of the slot at which a closed instance's cell goes OFF; 13 R277; reset none
  stopReason : Nat := 0        -- REASON of that change; 13 R297; reset 0
  runStart : Option Nat := none  -- first tick of the twilight run; 13 R299; reset none
  dl     : NMap FapiMsg := []  -- DL_TTI taken, by first tick of the slot; 13 R278; empty
  ul     : NMap FapiMsg := []  -- UL_TTI taken; 13 R278; empty
  dci    : NMap FapiMsg := []  -- UL_DCI taken; 13 R278; empty
  tx     : NMap FapiMsg := []  -- TX_Data taken; 13 R278; empty
  took   : NMap Nat := []      -- requests taken for a slot, by its first tick; 13 R280; empty
  twRan  : List Nat := []      -- slots that ran the twilight template, by first tick; 13 R298; empty
  recv   : NMap (List (Int × Int)) := []  -- samples of packets of time-domain IQ, key as `tdKey` gives it; 12 R266; empty
  late   : List Nat := []      -- slots that run twilight under R280, by first tick; 13 R280; empty
  noReq  : List Nat := []      -- slots without a DL_TTI.request by their deadline; 13 R280; empty
  txErr  : List Nat := []      -- slots whose MSG_TX_ERR for unsent packets has been posted; 13 R296; empty
  noData : List Nat := []      -- slots some of whose PDUs lack payload; 13 R278; empty
  harq   : NMap (Nat × Nat) := []  -- HARQ buffers, key 16 RNTI + process: place in the pool and bytes; 13 R283; empty
  rxGot  : List Nat := []      -- PRBs received of open symbols, key sym * 2^32 + eAxC * 512 + prb; 12 R264; empty
  rxIq   : NMap (List Int) := []  -- samples of received PRBs, I and Q by turns, keyed as rxGot; 12 R262; empty
  txIq   : NMap (Int × Int) := [] -- I and Q of resource elements to send, key sym * 2^32 + stream * 4096 + subcarrier; 13 R286; empty
  srs    : NMap (List W32) := []  -- SRS channel estimates, by RNTI; 13 R286; empty
  closed : List Nat := []      -- symbols closed; 12 R264; empty
  bw     : Nat := 0            -- GDDR7 bandwidth reserved, 0.1 GB/s; 13 R294; reset 0
  setup  : List (Nat × CellSet) := []  -- configuration that waits for its seam, with the tick that opens it; 03 R48, R49; empty
deriving DecidableEq, Repr

/-- A FAPI ring pair of a PHY (13 R277). -/
structure Phy where
  entries : Nat
  reqRing : Nat
  indRing : Nat
  msgBase : Nat
  msgBytes : Nat
  cells   : BitVec 192
  indTail : Nat
  indHead : Nat
  reqTail : Nat                -- HST_SQ_DB tail of queue 512 + PHY
  reqHead : Nat                -- consume index of the request ring, modulo 2^16 (13 R277)
  arrivals : List Nat          -- ticks in which the requests that wait arrived, oldest first (13 R278)
  closing : Option (Nat × Nat) -- RAD_L2_CLOSE in progress: queue, seq
deriving DecidableEq, Repr

/-- An indication posted to layer 2 (13 R276, R281): PHY, message, cell, SFN, slot, status and reason codes, arguments. -/
structure Ind where
  phy : Nat
  msg : IndKind
  cell : Nat
  sfn : Nat
  slot : Nat
  err : FapiErr
  status : Nat
  reason : Nat
  args : List Nat
deriving DecidableEq, Repr

/-- A queued or running code block (13 R287, R290). -/
structure Block where
  job   : CodeJob
  group : Nat                  -- code-engine group tag
  list_ : Nat                  -- list instance number, 0 for FLASH
  tick  : Nat
  beat  : Nat                  -- start beat when running
  age   : Nat                  -- arrival order
  index : Nat                  -- entry index in its list
  addr  : Nat                  -- address of its entry, for OUTCOME
  not_  : List Nat := []       -- engines of its die that have faulted on it, which rerun it no more (20 R442)
deriving DecidableEq, Repr

/-- Radio and code engines (13). -/
structure Radio where
  cells  : NMap Cell := []     -- cells 0..191; 13 R273; reset inactive
  phys   : NMap Phy := []      -- open PHY instances; 13 R277; empty
  inds   : List Ind := []      -- indications posted, newest first; 13 R276; empty
  floorMax : Nat := 0          -- RAD_FLOOR.MAX, 8 bits; 13; reset 0
  lateCount : Nat := 0         -- RAD_LATE.COUNT, 32 bits saturating; 13 R280; reset 0
  twSlots : Nat := 0           -- RAD_LATE.TWILIGHT_SLOTS, 32 bits saturating; 13; reset 0
  l2Drop : Nat := 0            -- RAD_L2.DROP, 32 bits saturating; 13 R277; reset 0
  codeRadio : Nat := 0         -- RAD_CODE.RADIO, 32 bits saturating; 13; reset 0
  codeFlash : Nat := 0         -- RAD_CODE.FLASH, 32 bits saturating; 13; reset 0
  radioQ : NMap (List Block) := []  -- RADIO class per horizon die, oldest first; 13 R287; empty
  flashQ : NMap (List Block) := []  -- FLASH class per horizon die, oldest first; 13 R287; empty
  engines : NMap Block := []   -- running blocks, key 32 die + engine of 22 R481; 13 R290; empty
  lists  : NMap (Nat × Nat) := []   -- code lists in progress: blocks left, sync counter; 13 R287; empty
  codeStatus : NMap Nat := []  -- statuses with which entries of code-job lists completed last, by entry address; 03 R56, 13 R289; empty
  listN  : Nat := 1            -- next list number; model's own
  ageN   : Nat := 0            -- next block age; model's own
  deadEng : List Nat := []     -- retired engines, 32 die + engine; 20 R442; empty
  engFaults : NMap (List Nat) := []  -- ticks of each engine's faults; 20 R442; empty
  streams : NMap TdStream := []  -- time-domain streams, key 256 port + stream; 12 R268; reset
  noL2Bus : Bool := false      -- ring entries not read until bus mastering is enabled; 23 R500; reset false
deriving DecidableEq, Repr

/-! ## Watric fabric -/

/-- A request of a stream that awaits its response (14 R309, R311). -/
structure OutReq where
  pkt    : Packet
  sentAt : Nat                 -- launch counter, beats, of the last send
  port   : Nat
  pathIx : Nat                 -- path of the set last used
  origin : Option (Nat × Nat × Nat)  -- transfer list number, entry, local address
  num    : Nat                 -- number in the order of issue, for fences
  key    : Option Nat          -- whose request it is to a fence: port 0-7 of its list, or 16 + slice of its DMA burst, firmware 80
  charged : Bool               -- the timeout of its last send has been charged to its path
deriving DecidableEq, Repr

/-- The sender's side of a stream (14 R309 to R312). -/
structure TxStream where
  epoch  : Nat := 0            -- EPOCH, 8 bits; 14 R313; DESIGN CHOICE 0 (log 4)
  psn    : Nat := 0            -- next PSN, 32 bits; 14 R309; reset 0 in each epoch
  next   : Nat := 0            -- turn of the path set; 14 R310; DESIGN CHOICE 0 (log 4)
  outst  : List OutReq := []   -- unacknowledged requests, oldest first; 14 R309; empty
  held   : List OutReq := []   -- requests that wait for credit or a path; 14 R309 R310; empty
  epochAsk : Option Nat := none -- an EPOCH packet awaits its ACK: launch counter, beats, of its last send; 14 R312 R313; empty
deriving DecidableEq, Repr

/-- A run of requests applied with OK that an ACK will cover (14 R311). -/
structure AckRun where
  first : Nat                  -- its PSNs
  last  : Nat
  at_   : Nat                  -- launch counter, beats, at which the first was applied
  path  : Nat                  -- PATH of the last
deriving DecidableEq, Repr

/-- The target's side of a stream (14 R313, R320). -/
structure RxStream where
  epoch  : Nat := 0            -- current EPOCH; 14 R313; DESIGN CHOICE 0 (log 4)
  expect : Nat := 0            -- next PSN to apply; 14 R313; reset 0
  buf    : NMap (Nat × Packet) := []  -- reorder buffer, 1,024 requests by PSN, with ingress port; 14 R313; empty
  window : List (Nat × Nat × W64) := []  -- last 256 outcomes, newest first: PSN, status, prior; 14 R320; empty
  runs   : List AckRun := []   -- runs of requests applied OK that have not been acknowledged, newest first; 14 R311; empty
  grows  : Bool := false       -- the newest of them takes the next request; 14 R311; reset false
  lost   : Bool := false       -- state lost: requests are dropped until an EPOCH; 14 R312 R313; reset false
deriving DecidableEq, Repr

/-- A path of a path set (14 R310). -/
structure Path where
  port : Nat
  index : Nat
  fails : Nat                  -- consecutive timeouts attributed
  down : Bool                  -- marked down after 3 timeouts
  probed : Bool                -- a PROBE sent on it awaits its answer
deriving DecidableEq, Repr

/-- A transfer list at a port (14 R314). -/
structure XList where
  num    : Nat
  sync   : Option Nat          -- sync counter of a static list
  slice  : Nat                 -- 64: firmware, job tag 0
  context : Option Nat
  statusPtr : Nat
  donePtr : Nat
  entries : List XferEntry
  next   : Nat                 -- next entry to issue
  fenceN : Option Nat          -- requests issued when the FENCE that stands next was reached
  status : List (Option Nat)   -- final status of each entry
  cmd    : Option (Nat × Nat)  -- FAB_XFER queue and seq
deriving DecidableEq, Repr

/-- A Watric port (14 R303, R304). -/
structure WPort where
  state  : Nat := 0            -- 0 DOWN 1 TRAINING 2 UP 3 FENCED; 14 R304; reset DOWN
  rxSeq  : Nat := 0            -- next FSEQ expected, 12 bits; 14 R302; DESIGN CHOICE 0 (log 4)
  txSeq  : Nat := 0            -- next FSEQ sent, 12 bits; 14 R302; DESIGN CHOICE 0 (log 4)
  lists  : List XList := []    -- transfer lists, the running one first; 14 R314; empty
  retryOf : Option (Nat × Nat) := none  -- flit whose retry this device has asked, and its retries; 14 R303; reset none
  resendOf : Option (Nat × Nat) := none -- flit that this device resends, and its retries; 14 R303; reset none
  store  : List (Nat × List Byte) := []  -- the last 512 flits sent by FSEQ, newest first; 14 R303; empty
  lane   : Nat := 0            -- lane that takes the next flit; 14 R301; DESIGN CHOICE 0 (log 4)
  out    : List (Nat × List Byte) := []  -- FEC blocks sent, newest first, each with its lane; 14 R301 R302; empty
  ahead  : NMap (List Byte) := []  -- payloads of flits that came before their turn, by FSEQ; 14 R301; empty
  got    : List (List Byte) := []  -- payloads of the data flits received, in order, newest first; 14 R302; empty
  comb   : List (Nat × Nat × Nat × W64 × List Byte) := []  -- last 256 combine results: SRC, id, status, prior, data; 14 R325; empty
deriving DecidableEq, Repr

/-- A region-table entry (14 R328). -/
structure Region where
  owner : Nat := 0             -- OWNER; 14 R328; DESIGN CHOICE 0 (log 4)
  valid : Bool := false        -- FLAGS.VALID; 14 R328; DESIGN CHOICE 0 (log 4)
  readAny : Bool := false      -- FLAGS.READ_ANY; 14 R328; DESIGN CHOICE 0 (log 4)
  system : Bool := false       -- FLAGS.SYSTEM; 14 R328; DESIGN CHOICE 0 (log 4)
  jobTag : Nat := 0            -- JOB_TAG; 14 R328; DESIGN CHOICE 0 (log 4)
  tick  : Nat := 0             -- TICK; 14 R328; DESIGN CHOICE 0 (log 4)
deriving DecidableEq, Repr

/-- A write-grant entry (14 R330). -/
structure Grant where
  src  : Nat
  lo   : Nat
  len  : Nat
  move : Option (Nat × Nat × Nat)  -- move id it serves
  lease : Option Nat
  offered : Nat                -- tick of the offer
deriving DecidableEq, Repr

/-- The fabric (14). -/
structure Fabric where
  ports  : NMap WPort := []    -- WP0..WP7; 14 R304; reset DOWN
  device : Nat := 0            -- FAB_MODE.DEVICE, 8 bits; 14; reset 0x00
  prot   : Bool := false       -- FAB_MODE.PROT, 1 sender-trusted; 14 R327; reset 0
  regionBase : Nat := 0        -- FAB_REGION_BASE.BASE times 64; 14; reset 0
  mask   : BitVec 256 := 0     -- FAB_PART_MASK0..3; 14 R331; reset 0
  fecCorr : Nat := 0           -- FAB_LINK_ERR.FEC_CORR, 32 bits saturating; 14; reset 0
  retry  : Nat := 0            -- FAB_LINK_ERR.RETRY, 16 bits saturating; 14 R303; reset 0
  retrain : Nat := 0           -- FAB_LINK_ERR.RETRAIN, 16 bits saturating; 14 R303; reset 0
  retx   : Nat := 0            -- FAB_E2E.RETX, 32 bits saturating; 14 R311; reset 0
  dropped : Nat := 0           -- FAB_E2E.DROPPED, 16 bits saturating; 14; reset 0
  broken : Nat := 0            -- FAB_E2E.BROKEN, 16 bits saturating; 14 R312; reset 0
  denied : Nat := 0            -- FAB_DENY.DENIED, 32 bits saturating; 14; reset 0
  foreign : Nat := 0           -- FAB_DENY.FOREIGN, 16 bits saturating; 14 R331; reset 0
  stale  : Nat := 0            -- FAB_DENY.STALE, 16 bits saturating; 14; reset 0
  tx     : NMap TxStream := [] -- streams to each destination; 14 R309; reset
  rx     : NMap RxStream := [] -- streams from each source; 14 R313; reset
  paths  : NMap (List Path) := []  -- path set of each destination; 14 R310; empty
  regions : NMap Region := []  -- region table, 524,288 entries; 14 R328; reset
  grants : NMap Grant := []    -- write-grant table, 4,096 entries; 14 R330; empty
  jobTags : NMap Nat := []     -- job tag of each slice, absent 0xFFFF, no tag; 14 R317; DESIGN CHOICE 0xFFFF (log 4)
  inbox  : NMap (List Packet) := []  -- inboxes of 64 messages per source device; 14 R323; empty
  sent   : List (Nat × Packet) := []  -- packets sent, newest first, with their port; 14; empty
  msgs   : List OutMsg := []   -- firmware messages handed to the transport, newest first; 14 R323; empty
  listN  : Nat := 0            -- next transfer-list number; model's own
  foreignEvt : NMap Nat := []  -- tick of the last FOREIGN_PACKET event per source; 14 R331; empty
  combN  : Nat := 0            -- next combine id; 14 R325; DESIGN CHOICE 0 (log 4)
  issueN : Nat := 0            -- requests issued; model's own
  fails  : NMap (Nat × Nat) := []  -- first request that did not end OK, key 256 key + destination: its number and status; 14 R324; empty
  probeAt : Nat := 0           -- launch counter, beats, from which paths are probed again; 14 R310; DESIGN CHOICE 0 (log 4)
deriving DecidableEq, Repr

/-! ## Time and launch -/

/-- A lockstep or plain job started by PLAN_LAUNCH (15 R349). -/
structure Job where
  q     : Nat
  seq   : Nat
  context : Nat
  lockstep : Bool
  leader : Nat
  job   : Nat
  start : Nat
  members : Nat
  barrier : Nat
  lateRing : Nat
  step  : Nat                  -- next step k
  running : Bool               -- step k - 1 has launched and has not committed
  reportTick : Option Nat      -- tick in which this member reported step k - 1
  launched : Nat               -- tick at which step k - 1 started
  waited : Bool                -- it waited for another member
  named  : Option Nat          -- device that the barrier named
  planned : Nat                -- planned tick of step k - 1
  count  : Nat                 -- members that had reported step k - 1 when the barrier was read last
  again  : Bool                -- step k - 1 has been withdrawn and has not started again (04 R80)
deriving DecidableEq, Repr

/-- The timing unit and the servo (15). -/
structure Time where
  raw    : Nat := 0            -- TIM_RAW, 64 bits, ns; 15 R336; reset 0
  baseNs : Nat := 0            -- BASE_NS; 15 R337; reset 0
  baseRaw : Nat := 0           -- BASE_RAW; 15 R337; reset 0
  rate   : Int := 0            -- TIM_RATE.RATE, signed 40 bits; 15 R337; reset 0
  secLatch : Nat := 0          -- TIM_SEC.SEC, 48 bits; 15 TIM_SEC; reset 0
  state  : Nat := 0            -- TIM_STATUS.STATE: 0 FREERUN 1 ACQUIRING 2 LOCKED 3 HOLDOVER; 15 R345; reset 0b00
  source : Nat := 0            -- TIM_STATUS.SOURCE, 1 bit; 15 R342; reset 0
  seamErr : Bool := false      -- TIM_STATUS.SEAM_ERR; 15 R341; reset 0
  holdExceeded : Bool := false -- TIM_STATUS.HOLD_EXCEEDED; 15 R345; reset 0
  nostep : Bool := false       -- TIM_STATUS.NOSTEP; 15 R338; reset 0
  holdTick : Nat := 0          -- tick at which the holdover run began; 15 R345; reset 0
  ppsErr : Int := 0            -- TIM_PPS.ERR, signed 32 bits; 15; reset 0
  ppsMissed : Nat := 0         -- TIM_PPS.MISSED, 16 bits saturating; 15 R344; reset 0
  ptpPort : Nat := 0           -- PTP_PORT; 15 R342; DESIGN CHOICE 0 (log 4)
  domain : Nat := 24           -- DOMAIN; 15 R342; DESIGN CHOICE 24 (log 4)
  syncePort : Nat := 0xFF      -- SYNCE_PORT; 15 R342; DESIGN CHOICE 0xFF none (log 4)
  masters : Nat := 0           -- MASTER_MASK; 15 R342; DESIGN CHOICE 0 (log 4)
  holdLimit : Nat := 14400     -- HOLD_LIMIT_S; 15 R342; reset 14,400
  ppsDelay : Int := 0          -- PPS_DELAY_NS; 15 R342; DESIGN CHOICE 0 (log 4)
  meas   : List Int := []      -- T - source of the last 16 measurements, newest first; 15 R345; empty
  rates  : List (Nat × Int) := []  -- tick and RATE of each steering of the last 64 s, newest first; 15 R345; empty
  freq   : Int := 0            -- frequency estimate of the servo, in units of RATE; 15 R338; DESIGN CHOICE 0 (log 4)
  everLocked : Bool := false   -- the servo has been LOCKED since cold reset; 15 R345; reset false
  present : Bool := false      -- the source is present; 15 R345; reset false
  todNext : Option Nat := none -- second named by the last valid time-of-day line; 15 R344; reset none
  lastEdge : Option Nat := none -- raw time of the last PPS_IN edge; 15 R344; reset none
  ppsRaw : Option Nat := none  -- TIM_RAW of the PPS_OUT edge whose line has not been sent; 15 R344; reset none
  master : Option (Nat × List Nat) := none  -- best master on PTP_PORT: sourcePortIdentity and data set; 15 R343; reset none
  synceLow : Bool := false     -- SYNCE_CLK is held low since its port lost its link; 12 R271; reset false
  todSent : List Byte := []    -- line last sent on TOD_TXD; 15 R344; empty
  ppsOut : Nat := 0            -- seconds named by PPS_OUT edges so far; 15 R344; reset 0
  esmc   : Nat := 0xF          -- ESMC quality level of the SyncE port, 0xF is QL-DNU; 12 R271; DESIGN CHOICE 0xF (log 40)
  heard  : Nat := 0            -- tick of the last Announce or counted edge; 15 R345; reset 0
  leap   : Option Nat := none  -- TAI - UTC of the last valid time-of-day line; 15 R344; reset none
  jobs   : List Job := []      -- launched jobs; 15 R349; empty
deriving DecidableEq, Repr

/-! ## Host interface -/

/-- A queue pair (16 R355). -/
structure Queue where
  system : Bool
  devring : Bool
  sqBase : Nat
  cqBase : Nat
  sqLog  : Nat
  cqLog  : Nat
  vector : Nat
  pasid  : Nat
  coN    : Nat
  coUs   : Nat
  tail   : Nat := 0            -- HST_SQ_DB tail, 16 bits; 16 R356; reset 0 at creation
  consumed : Nat := 0          -- submissions consumed, free running; 16 R356; reset 0 at creation
  written : Nat := 0           -- completions written, free running; 16 R356; reset 0 at creation
  head   : Nat := 0            -- HST_CQ_DB head, 16 bits; 16 R356; reset 0 at creation
  heldC  : List (List Byte) := []  -- completions held for want of room, oldest first; 16 R357; empty
  unsig  : Nat := 0            -- unsignalled completions; 16 R366; reset 0
  unsigAt : Nat := 0           -- launch counter at the first of them; 16 R366; reset 0
deriving DecidableEq, Repr

/-- A journal record (16 R368). -/
structure JRec where
  q      : Nat
  seq    : Nat
  opcode : Nat
  flags  : Nat
  params : List Byte
  resultPtr : Nat
  tickArg : Option Nat         -- AT_TICK
  pasid  : Option Nat          -- none on a system queue
  stage  : Nat                 -- 0 consumed and passed, awaiting acceptance; 1 accepted; 2 started; 3 DONE
  status : Nat
  value  : W64
  order  : Nat                 -- acceptance order
  tick   : Nat                 -- tick of acceptance or of DONE
  beat   : Nat
  doneAt : Option Nat          -- ring count of its DONE completion
  mirAt  : Nat                 -- place of its copy in the mirror area, in units of 64 bytes (16 R362; log 32)
  mirLeft : Nat                -- stores of the copy that the partner has not acknowledged (16 R362)
deriving DecidableEq, Repr

/-- A result parked in orphan mode or across a function reset (18 R413). -/
structure Parked where
  q : Nat
  seq : Nat
  addr : Nat
  bytes : List Byte
deriving DecidableEq, Repr

/-- The host interface (16). -/
structure HostIf where
  cmdsetRev : Nat := 0         -- GLB_ID.CMDSET_REV, 32 bits; 16 GLB_ID; reset 0
  usableGib : Nat := 0         -- GLB_MEM.USABLE_GIB, 16 bits; 16 GLB_MEM; reset 0
  interGib : Nat := 0          -- GLB_MEM.INTERLEAVED_GIB, 16 bits; 16 GLB_MEM; reset 0
  clamshell : Bool := false    -- GLB_MEM.CLAMSHELL; 16 GLB_MEM; reset 0
  ecc    : Bool := false       -- GLB_MEM.ECC; 16 GLB_MEM; reset 0
  nand   : Bool := false       -- a flash tier is fitted (GLB_MEM.FLASH with the tier state); 16 GLB_MEM; reset 0
  pending : NMap Nat := []     -- GLB_ATTN.PENDING: latched class and the acceptance order of its last latch; 16 R367; reset 0
  ready  : Bool := false       -- HST_STATUS.READY; 16; reset 0
  mirrored : Bool := false     -- HST_STATUS.MIRRORED; 16 R362; reset 0
  mirrorLost : Bool := false   -- HST_STATUS.MIRROR_LOST; 16 R362; reset 0
  orphan : Bool := false       -- HST_STATUS.ORPHAN; 18 R412; reset 0
  report : Bool := false       -- HST_STATUS.REPORT; 16 R372; reset 0
  reportBytes : List Byte := []  -- the recovery report; 16 R372; empty
  partner : Nat := 0           -- PARTNER; 16 R362; DESIGN CHOICE 0 (log 4)
  strict : Bool := false       -- STRICT; 16 R362; DESIGN CHOICE 0 (log 4)
  mirrorAt : Nat := 0          -- MIRROR; 16 R362; DESIGN CHOICE 0 (log 4)
  mirCursor : Nat := 0         -- units of the mirror area placed so far; model's own (log 32)
  aqSq   : W64 := 0            -- HST_AQ_SQ, BASE RW; 16; reset 0
  aqCq   : W64 := 0            -- HST_AQ_CQ, BASE RW; 16; reset 0
  aqCfg  : W64 := 0x44         -- HST_AQ_CFG, SQ_LOG2 4, CQ_LOG2 4; 16; reset 0x44
  aqVersion : Bool := false    -- HST_AQ_STATUS.VERSION; 16 R354; reset 0
  aqInvalid : Bool := false    -- HST_AQ_STATUS.INVALID; 16 R354; reset 0
  aqBusy : Bool := false       -- HST_AQ_STATUS.BUSY; 16 R354; reset 0
  journal : List JRec := []    -- journal records, oldest first; 16 R368; empty
  queues : NMap Queue := []    -- enabled queue pairs 0..511; 16 R353; empty
  accSeq : NMap Nat := []      -- ACCEPTED_SEQ per queue, absent 0; 16 R361; reset 0
  kept   : NMap (List (List Byte)) := []  -- completions held for a queue that no longer exists; 16 R371; empty
  qPasid : NMap Nat := []      -- PASID + 1 of each queue that has records, 0 for a system queue; 16 R371; empty
  order  : Nat := 0            -- next acceptance order; model's own
  msix   : List Nat := []      -- MSI-X vectors signalled, newest first; 16 R366; empty
  msixTab : NMap (Nat × Nat × Bool) := []  -- MSI-X table of BAR2: address, data, mask of a vector, absent masked; 16 R352; PRESUMED 0, 0, masked (log 111)
  pba    : List Nat := []      -- vectors of the pending-bit array; 16 R352; PRESUMED none (log 111)
  parked : List Parked := []   -- the orphan area; 18 R413; empty
  mirWait : List (Nat × Nat) := []   -- DONE completions that wait for the partner's acknowledgement: queue, seq; 16 R362; empty
  parkWait : List (Nat × Nat × Nat × W64 × List Byte) := []  -- commands whose result found the orphan area full: queue, seq, status, value, result; 18 R413; empty
  busMaster : Bool := true     -- DMA to host memory permitted; 23 R500; DESIGN CHOICE true (log 4)
  linkUp : Bool := false       -- CXL link trained; 23 R492; reset false
  linkLanes : Nat := 0         -- lanes of the CXL link; 16 R352; DESIGN CHOICE 0 (log 4)
  linkGts : Nat := 0           -- GT/s of the CXL link; 16 R352; DESIGN CHOICE 0 (log 4)
  cfgReady : Bool := false     -- configuration space ready; 23 R492; reset false
deriving DecidableEq, Repr

/-- A mailbox page (16 R374 to R377). -/
structure Page where
  send   : BitVec 512 := 0     -- SLC_SEND.NOTICE RW; 16; reset 0
  status : Nat := 0            -- SLC_STATUS.STATUS, 16 bits; 16; reset 0
  pending : Bool := false      -- SLC_STATUS.PENDING; 16; reset 0
  sendTo : Nat × Nat := (0, 0) -- destination of the send in progress: kind, index; 16 R375; reset 0
  ctrl   : W32 := 0x14         -- SLC_CTRL: OPEN 0, TIMEOUT_MS 0x00A, NOTIFY 0, NOTIFY_Q 0; 16; reset 0x14
  rxHead : Nat := 0            -- SLC_RX_HEAD.HEAD, 16 bits; 16; reset 0
  rxTail : Nat := 0            -- SLC_RX_TAIL.TAIL, 16 bits; 16; reset 0
  ring   : NMap (BitVec 512) := []  -- 48 notices at page offset 0x400; 16 R377; DESIGN CHOICE 0 (log 4)
  msgSeq : Nat := 0            -- notices sent from the page since cold reset, modulo 2^32; 16 R374; reset 0
  inReset : Bool := false      -- the slice is in reset, so the page is not ready; 17 R395; reset false
  sentTick : Nat := 0          -- tick at which the send in progress began; 16 R375; reset 0
deriving DecidableEq, Repr

/-! ## Slices and contexts -/

/-- Quotas of a slice (17 R379). -/
structure Quota where
  contexts : Nat := 0          -- CONTEXTS; 17 R379; reset 0
  tileMin : Nat := 0           -- TILE_MIN; 17 R379; reset 0
  tileMax : Nat := 0           -- TILE_MAX; 17 R379; reset 0
  entries : Nat := 0           -- ENTRIES; 17 R379; reset 0
  memMib : Nat := 0            -- MEM_MIB; 17 R379; reset 0
  buckets : Option (Nat × Nat) := none  -- BUCKET_LO and BUCKET_HI; 17 R379; reset none
  given  : Bool := false       -- the slice has received SLICE_QUOTA; 17 R379; reset false
deriving DecidableEq, Repr

/-- A deck extent of a context (17 R386). -/
structure Extent where
  die   : Nat
  save  : Bool                 -- SAVE, otherwise LOAD
  first : Nat
  count : Nat
  src   : Nat
deriving DecidableEq, Repr

/-- A context (17 R385 to R387). -/
structure Ctx where
  state : Nat := 0             -- 0 FREE 1 OUT 2 RESTORING 3 ACTIVE 4 HELD 5 SAVING 6 TORN; 17 R387; reset FREE
  slice : Nat := 0             -- owning slice; 17 R385; reset 0
  serving : Bool := false      -- SERVING; 17 R385; reset false
  extents : List Extent := []  -- deck extents; 17 R386; empty
  landing : Nat := 0           -- LANDING; 17 R386; reset 0
  landBytes : Nat := 0         -- LANDING_BYTES; 17 R386; reset 0
  fresh : Bool := false        -- SAVE extents read as zero at the next switch in; 17 R386, 23 R499; reset false
  changed : Nat := 0           -- tick of the last state change; 17 R392; reset 0
  holdAsk : List (Nat × Nat × Bool) := []  -- CTX_HOLD commands in progress: queue, seq, OUT; 17 R389; empty
  resumeAsk : Option (Nat × Nat) := none  -- CTX_RESUME waiting or restoring; 17 R389; empty
  holding : Bool := false      -- a hold is in force, so no kernel is admitted; 17 R389; reset false
  orphaned : Bool := false     -- held by the end of the orphan hold; 18 R414; reset false
  left  : List Nat := []       -- 2 MiB regions whose copy has not completed, 256 extent + region; 17 R391; empty
  restoreAt : Option Nat := none  -- first tick at whose seam RESTORING may begin; 17 R391 R392, 23 R499; empty
  readyAt : Option Nat := none -- first tick at whose seam the context may become ACTIVE; 17 R391; empty
  resetting : Bool := false    -- torn down by a slice reset; 17 R393; reset false
deriving DecidableEq, Repr

/-- Window counters of one slice on one die (17 R396). -/
structure Win where
  run : Nat := 0               -- run beats; 17 R396; reset 0
  off : Nat := 0               -- held-off beats; 17 R396; reset 0
  radio : Nat := 0             -- radio beats; 17 R396; reset 0
deriving DecidableEq, Repr

/-- Slices and contexts (17). -/
structure Slices where
  pasids : NMap Nat := []      -- PASID to slice; 17 R378; empty
  quotas : NMap Quota := []    -- quotas in force per slice; 17 R379; reset 0
  ctxs   : NMap Ctx := []      -- contexts 0..1,023; 17 R385; reset FREE
  debt   : NMap Nat := []      -- debt per (tile, slice), key 64 tile + slice; 17 R383; reset 0
  used   : NMap Nat := []      -- beats used in this tick per (tile, slice); 17 R383; reset 0
  shareOrder : Nat := 0        -- share-order pointer p; 17 R397; reset 0
  win    : NMap Win := []      -- window counters, key 4 slice + die; 17 R396; reset 0
  winAt  : Nat := 0            -- launch counter + 1 of the last beat counted in the windows; 17 R396; reset 0
  winNo  : Nat := 0            -- windows of 8,000 ticks that had ended at the last slowdown measure; 17 R396; reset 0
  slow   : NMap (Nat × Nat) := []  -- SLC_SLOWDOWN: SLOWDOWN, RADIO per slice, 16 bits each; 17; reset 0
  pairs  : List (Nat × Nat) := []  -- MBX_GRANT pairs, lower slice first; 16 R376; empty
  pages  : NMap Page := []     -- mailbox pages 0..64; 16 R374; reset
  cpIn   : NMap (List (BitVec 512)) := []  -- notices delivered to each CP, newest first; 16 R375; empty
  scrubBy : NMap (Nat × Nat) := []  -- RESET_REQ that waits for the scrubs of a slice; 17 R395; empty
deriving DecidableEq, Repr

/-! ## Firmware, reliability, security, management -/

/-- Firmware (18). -/
structure Firm where
  cpState : NMap Nat := []     -- FWL_CP_STATUS.STATE_p: 0 not started 1 running 2 restarting 3 held; 18; reset 0b00
  cpStops : NMap Nat := []     -- FWL_CP_STATUS.STOPS_p, 6 bits saturating; 18; reset 0
  stopTicks : NMap (List Nat) := []  -- ticks of each processor's stops, newest first; 18 R407; empty
  stoppedAt : NMap Nat := []   -- launch counter, in beats, of each processor's last stop; 18 R417 point 4; empty
  build  : Nat := 0            -- FWL_FW_VERSION.BUILD, 32 bits; 18; reset 0
  updates : Nat := 0           -- FWL_FW_VERSION.UPDATES, 16 bits saturating; 18; reset 0
  aborts : Nat := 0            -- FWL_FW_VERSION.ABORTS, 16 bits saturating; 18; reset 0
  logBase : Nat := 0           -- FWL_LOG_BASE.BASE times 128; 18; reset 0
  logWidx : Nat := 0           -- FWL_LOG_WIDX.SEQ; 18; reset 0
  traceBase : Nat := 0         -- FWL_TRACE_BASE.BASE times 32; 18; reset 0
  traceWidx : Nat := 0         -- FWL_TRACE_WIDX.SEQ; 18; reset 0
  traceMask : W64 := 0         -- TRACE_MASK of the card profile; 18 R417; DESIGN CHOICE 0 (log 4)
  retained : List (List Byte) := []  -- the retained image set, CP0..CP7; 18 R403; empty
  second : Option (Bundle) := none   -- bundle whose images are the second set; 18 R403 R409; reset none
  phase  : Nat := 0            -- live update: 0 none 1 load and preparation 2 handover; 18 R409; reset 0
  stateAreas : List (Nat × Nat) := []  -- state area of each processor, address and bytes; 18 R411; empty
  imported : NMap (List StateRec) := []  -- records that each processor imported last; 18 R404 R409 R411; empty
  quiesce : Nat := 0           -- quiesce seam S; 18 R409; reset 0
  updCmd : Nat × Nat := (0, 0) -- FW_UPDATE queue and seq; 18 R408; reset 0
  staged : List (Nat × Nat × List Nat) := []  -- events staged while CP7 restarts: code, source, args; 18 R399; empty
  beatTick : Nat := 0          -- tick of the latest heartbeat, READY rise or admin enable; 18 R412; reset 0
  orphanTick : Nat := 0        -- tick of orphan entry; 18 R414; reset 0
  orphanHold : Nat := 600      -- ORPHAN_HOLD_S of the card profile; 18 R414; reset 600
  quiesced : Bool := false     -- the orphan hold has quiesced inference; 18 R414; reset false
  restartAt : NMap Nat := []   -- tick at which a restarting processor runs again; 18 R404 R405; empty
  bundle : Option Bundle := none  -- the loaded bundle; 18 R401; reset none
deriving DecidableEq, Repr

/-- A digest record (20 R452). -/
structure Digest where
  reqId : Nat
  genLen : Nat
  crc  : W64
  tick : Nat
deriving DecidableEq, Repr

/-- Reliability (20). -/
structure Ras where
  state  : Nat := 0            -- RAS_STATE.STATE: 0 SERVING 1 FAILED 2 START_FAULT; 20; reset 0b00
  contrail : Nat := 0          -- RAS_STATE.CONTRAIL; 20 R451; reset 0b00
  ready  : Bool := false       -- RAS_STATE.READY; 20 R453; reset 0
  failCause : Nat := 0         -- RAS_STATE.FAIL_CAUSE, 16 bits; 20; reset 0
  score  : Nat := 1000         -- RAS_HEALTH.SCORE, 10 bits; 20 R449; reset 0x3E8
  penMem : Nat := 0            -- RAS_HEALTH.MEM; 20 R449; reset 0
  penLink : Nat := 0           -- RAS_HEALTH.LINK; 20 R449; reset 0
  penResidue : Nat := 0        -- RAS_HEALTH.RESIDUE; 20 R449; reset 0
  penSpares : Nat := 0         -- RAS_HEALTH.SPARES; 20 R449; reset 0
  penThermal : Nat := 0        -- RAS_HEALTH.THERMAL; 20 R449; reset 0
  cntTile : Nat := 0           -- RAS_FAULT_CNT.TILE, 16 bits saturating; 20; reset 0
  cntRerun : Nat := 0          -- RAS_FAULT_CNT.RERUN_LOST, 16 bits saturating; 20; reset 0
  cntEngine : Nat := 0         -- RAS_FAULT_CNT.ENGINE, 16 bits saturating; 20; reset 0
  cntWire : Nat := 0           -- RAS_FAULT_CNT.LINK_WIRE, 16 bits saturating; 20; reset 0
  sentRuns : Nat := 0          -- SEQ of the next sentinel record; RAS_SENTINEL.RUNS is its value saturated at 32 bits; 20 R447; reset 0
  sentMiss : Nat := 0          -- RAS_SENTINEL.MISMATCH, 16 bits saturating; 20; reset 0
  stress : Nat := 0            -- RAS_SENTINEL.STRESS, 16 bits saturating; 20; reset 0
  matched : Nat := 0           -- RAS_CONTRAIL.MATCHED, 32 bits saturating; 20; reset 0
  mismatched : Nat := 0        -- RAS_CONTRAIL.MISMATCHED, 16 bits saturating; 20; reset 0
  unmatched : Nat := 0         -- RAS_CONTRAIL.UNMATCHED, 16 bits saturating; 20; reset 0
  sentBase : Nat := 0          -- RAS_SENT_BASE.BASE times 32; 20; reset 0
  retire : List (List Byte) := []  -- retirement list, 16-byte entries, oldest first, at most 256; 20 R445, 22 R481; empty
  vendor : List Nat := []      -- tiles of the vendor repair map, 44 die + p; 20 R444; empty
  retiredHere : List (List Byte) := []  -- entries retired in this run; 22 R481; empty
  clearRetire : Bool := false  -- RETIRE_CLEAR in effect from the next cold start; 22 R481; reset false
  wires  : List (Nat × Nat × Nat × Nat) := []  -- spare wires used: die, link, lane group, tick of its seam; 20 R443; empty
  stressAsk : Option (Nat × Nat) := none  -- pending STRESS_RUN: die mask, tick asked; 20 R448; reset none
  stressH : Nat := 24          -- STRESS_H of the card profile; 20 R448; reset 24
  stressAt : NMap Nat := []    -- tick of the last stress run of each die; 20 R448; reset none
  scoreNo : Nat := 0           -- windows of 8,000 ticks that had ended at the last health score; 20 R449; reset 0
  sentAll : Option Nat := none -- a full sentinel pass is due by this tick; 20 R452; reset none
  conPartner : Nat := 0        -- contrail PARTNER; 20 R451; DESIGN CHOICE 0 (log 4)
  conSlices : W64 := 0         -- contrail SLICES; 20 R451; DESIGN CHOICE 0 (log 4)
  conSince : Nat := 0          -- tick at which contrail mode was set; 20 R453; reset 0
  conMiss : Nat := 0           -- records that differed since contrail mode was set; 20 R453; reset 0
  conNext : Option (List Byte) := none  -- contrail body that applies at the next seam; 20 R451; reset none
  digests : List Digest := []  -- own digest records without counterpart; 20 R452; empty
  theirs : List Digest := []   -- partner records without counterpart; 20 R452; empty
  rerun  : List (Nat × Nat) := []  -- floor tiles whose work needs a rerun: tile, tick lost; 20 R440; empty
  goneOff : Option Nat := none -- tick after which cells of a failed device go OFF; 20 R435; reset none
deriving DecidableEq, Repr

/-- Security island (21). -/
structure Sec where
  state  : Nat := 0            -- SEC_STATE.STATE: 0 SELF_TEST 1 AWAIT_BUNDLE 2 VERIFIED 3 ERROR; 21; reset 0b00
  identity : Bool := false     -- SEC_STATE.IDENTITY; 21 R459; reset 0
  identityFail : Bool := false -- SEC_STATE.IDENTITY_FAIL; 21 R459; reset 0
  debug  : Nat := 0            -- SEC_STATE.DEBUG; 21 R470; reset 0b00
  encRequired : Bool := false  -- SEC_STATE.ENC_REQUIRED; 21; reset 0
  lastFail : Nat := 0          -- SEC_STATE.LAST_FAIL; 21 R462; reset 0x0
  svn    : Nat := 0            -- SEC_SVN.SVN; 21; reset 0
  minSvn : Nat := 0            -- SEC_SVN.MIN_SVN; 21; reset 0
  devId  : List Byte := []     -- SEC_DEVICE_ID0..3, empty read as 0; 21; reset 0
  ownerFlags : BitVec 16 := 0  -- FLAGS of the owner certificate; 21 R463; reset 0
  ownerKey : List Byte := []   -- OWNER_KEY; 21 R463; empty
  pufIndex : List Byte := []   -- majority bits of the PUF index cells; 21 R458; empty
  pufKey : List Byte := []     -- key region of the PUF as read; 21 R458; empty
  pid    : List Byte := []     -- PID; 21 R458; empty
  sk     : List Byte := []     -- sk, in key SRAM; 21 R458; empty
  pk     : List Byte := []     -- pk; 21 R458; empty
  m      : NMap (List Byte) := []  -- M0..M7, 64 bytes, absent 0; 21 R466; reset 0
  mlog   : List (Nat × Nat × List Byte) := []  -- measurement log, at most 256: register, item type, digest; 21 R466; empty
  nonce  : Option (List Byte × Nat) := none  -- current unlock nonce and the tick its validity ends; 21 R470; reset none
  keys   : NMap (List Byte) := []  -- memory-encryption keys per slice; 21 R472; empty
  noRandom : Bool := false     -- a continuous health test has failed; 21 R457; reset false
  mbxAddr : W64 := 0           -- SEC_MBX_ADDR.ADDR RW; 21; reset 0
  mbxStatus : Nat := 0         -- SEC_MBX_STATUS.STATUS, 16 bits; 21; reset 0
  mbxBusy : Bool := false      -- SEC_MBX_STATUS.BUSY; 21; reset 0
  mbxRlen : Nat := 0           -- SEC_MBX_STATUS.RLEN, 15 bits; 21; reset 0
  mbxBuf : NMap Byte := []     -- SEC_MBX_BUF, 64 KiB RW, absent 0; 21; reset 0
  spdm   : Nat := 0            -- responder state: 0 none 1 version 2 capabilities 3 negotiated; 21 R468; reset 0
  transcript : List Byte := [] -- SPDM transcript; 21 R468; empty
  tapOpen : Bool := false      -- TAP beyond BYPASS and IDCODE; 02 R42; reset locked
deriving DecidableEq, Repr

/-- An event record (22 R482). -/
structure Rec where
  seq  : Nat
  code : Nat
  sev  : Nat
  tickValid : Bool
  early : Bool
  unanchored : Bool
  summary : Bool
  persisted : Bool
  returned : Bool              -- returned in a RECORDER_READ response (22 R489)
  source : Nat
  suppressed : Nat
  opsec : Nat
  pcc  : Nat
  tick : Nat
  args : List Nat
deriving DecidableEq, Repr

/-- Token bucket of an event code (22 R485). -/
structure RateB where
  tokens : Nat
  last   : Nat                 -- tick of the last refill
  suppressed : Nat
deriving DecidableEq, Repr

/-- Event recorder and sideband (22). -/
structure Evr where
  path   : Nat := 2            -- EVR_STATUS.PATH: 0 flash 1 board controller 2 none; 22 R487; reset 0b10
  unanchored : Bool := false   -- EVR_STATUS.UNANCHORED; 22 R487; reset 0
  early  : Bool := true        -- EVR_STATUS.EARLY; 22 R488; reset 1
  unsaved : Bool := false      -- EVR_STATUS.UNSAVED_LOSS; 22 R486; reset 0
  nextSeq : Nat := 1           -- EVR_NEXT_SEQ.SEQ; 22; reset 1
  critOver : Nat := 0          -- EVR_LOSS.CRIT_OVERFLOW, 32 bits saturating; 22 R486; reset 0
  dropped : Nat := 0           -- EVR_LOSS.DROPPED, 32 bits saturating; 22 R486; reset 0
  opsecBase : Nat := 0         -- operating seconds of the anchor; 22 R488; reset 0
  pcc    : Nat := 0            -- EVR_ANCHOR.PCC, 24 bits; 22 R488; reset 0
  ackSeq : Nat := 0            -- EVR_ALERT.ACK_SEQ; 22 R478; reset 0
  slots  : NMap Rec := []      -- the 8,192 record slots by slot, absent free; 22 R482; reset free
  buckets : NMap RateB := []   -- token buckets by code, absent full; 22 R485; reset full
  persistedRecs : List Rec := []  -- persisted history, oldest first, 131,072 kept; 22 R489; empty
  persistedOps : Nat := 0      -- OPSEC last persisted; 22 R489; reset 0
  sumNo  : Nat := 0            -- windows of 8,000 ticks that had ended at the last SUMMARY records; 22 R485; reset 0
  batchNo : Nat := 0           -- windows of 8,000 ticks that had ended at the last batch persisted; 22 R489; reset 0
  flashPcc : Nat := 0          -- power-cycle count in the persistent counters of the flash recorder area; 22 R488; DESIGN CHOICE 0 (log 4)
  flashRetire : List (List Byte) := []  -- retirement list kept in the flash recorder area; 20 R445; empty
  bistDone : Bool := false     -- BIST of this start has ended; 22 R487, 23 R495; reset false
  anchorDue : Bool := false    -- ALERT_N asserted for want of an anchor after a path change; 22 R487; reset false
  i3cAddr : Option Nat := none -- I3C dynamic address; 22 R475; reset none
  eid    : Nat := 0            -- MCTP endpoint ID; 22 R476; reset 0
  resp   : List (Nat × Nat × List Byte) := []  -- sideband and SPDM responses, newest first: transport or type, status, body; 22 R476; empty
deriving DecidableEq, Repr

/-- Start-up and reset (23). -/
structure Start where
  step   : Nat := 0            -- start step completed, 0..12; 23 R492; reset 0
  readyOnce : Bool := false    -- READY has risen since the cold start; 23 R498; reset false
  reset_ : Nat := 0            -- reset asked or in progress: 0 none 1 function 2 warm 3 cold; 23 R498; reset 0
  waiting : List (Nat × Nat) := []  -- RESET_REQ commands that end with the reset: queue, seq; 23 R498; empty
  sliceAsk : List (Nat × Option (Nat × Nat)) := []  -- slice resets asked: slice, command; 23 R497; empty
deriving DecidableEq, Repr

/-- The whole block. -/
structure State where
  pending : List Instr := []   -- commands that are waiting, first in first out; model's own; reset empty
  freeN  : Nat := 0            -- index of the next free value (Config.freeWord); model's own; DESIGN CHOICE 0 (log 6)
  pwr    : Power := {}
  tkp    : Tkp := {}
  tiles  : NMap Tile := []     -- logical tiles 0..159, absent the default tile; 04 R64; reset default tile
  dies   : Dies := {}
  mem    : Mem := {}
  srv    : Serving := {}
  mov    : Moves := {}
  fla    : Flash := {}
  attn   : List AttnCmd := []  -- ATTN commands that run; 09; empty
  merges : List MergeCmd := []  -- ATTN_MERGE commands that wait for remote parts; 09 R201; empty
  fh     : NMap FhPort := []   -- FH0..FH7; 12 R257; reset
  rad    : Radio := {}
  fab    : Fabric := {}
  tim    : Time := {}
  hst    : HostIf := {}
  slc    : Slices := {}
  fw     : Firm := {}
  ras    : Ras := {}
  sec    : Sec := {}
  evr    : Evr := {}
  start  : Start := {}
deriving DecidableEq, Repr

/-- The block right after a cold reset, before PWR_GOOD rises: every field at its default above. -/
def State.reset : State := {}

/-- The reasons for which a command ends the run. -/
inductive Fault where
  /-- Raised by no command of this model: every stop of the device (a shutdown, a failed device, a fault of a start)
  is a next state of the block. Safe. -/
  | none_
deriving DecidableEq, Repr

/-- The reasons for which a command has no meaning. -/
inductive Refusal where
  /-- Raised by an arm of exec that has no meaning yet, by the command's mnemonic. Safe: a claim about the command
  becomes unprovable. -/
  | notModelled (mnemonic : String)
deriving DecidableEq, Repr

end Sys2Proof.Machine
end

