-- ==== Sys2Proof/Machine/Ops.lean ====
section
/-!
DEFINITION. The operations that the meanings of the commands share: counters, the launch counter, access to device
and host memory with poison and lost channels (08 R163 to R167, R504), attention classes (16 R367), the event recorder
(22 R482 to R486), trace records (18 R417) and the device's own state of failure (20 R435).
-/
namespace Sys2Proof.Machine

/-- The address space of a DMA endpoint (08 R173). -/
def spaceOf (a : Nat) : Nat := a / 2 ^ 56

/-- The answer of every meaning: the block goes on in a next state. -/
abbrev Out := Host.Outcome State Fault Refusal

/-- A counter of `w` bits that saturates, raised by `n`. -/
def satAdd (w x n : Nat) : Nat := min (x + n) (2 ^ w - 1)

/-- A time that has been set has come. -/
def dueBy (o : Option Nat) (now : Nat) : Bool := match o with | some t => decide (t ≤ now) | none => false

/-- Lists a number in a rising list without repeats. -/
def addSet : List Nat → Nat → List Nat
  | [], x => [x]
  | y :: ys, x => if x < y then x :: y :: ys else if x = y then y :: ys else y :: addSet ys x

/-- Updates the entry of a map, from a default where none is listed. -/
def NMap.modify {α : Type} (m : NMap α) (d : α) (k : Nat) (f : α → α) : NMap α := NMap.insert m k (f (NMap.getD m k d))

/-- Updates the entry of a map, if it is listed. -/
def NMap.adjust {α : Type} (m : NMap α) (k : Nat) (f : α → α) : NMap α :=
  match NMap.find? m k with
  | some v => NMap.insert m k (f v)
  | none => m

/-- The launch counter in beats (R45). -/
def launch (s : State) : Nat := 1250 * s.tkp.now + s.tkp.beat

/-- Whether an admission hold is in force on a die (02 R22, R26). -/
def dieHeld (s : State) (d : Nat) : Bool :=
  s.pwr.holdIn || (match NMap.find? s.pwr.holdDie d with | some b => decide (b ≤ launch s) | none => false)

/-- The open duty in force on a die (02 R28). -/
def dutyOf (s : State) (d : Nat) : Nat := NMap.getD s.pwr.openDuty d 1234

/-- Ticks and the units that the spec counts in: 1 ms is 8 ticks, 1 s is 8,000 ticks. -/
def ticksPerSec : Nat := 8000

/-- Windows of 8,000 ticks that have ended: the windows are ticks 8,000k to 8,000k + 7,999 (DESIGN CHOICE, log 117). -/
def windowsEnded (s : State) : Nat := s.tkp.now / 8000

/-! ### The next free value (log 6) -/

/-- Takes the next value that the spec leaves free. -/
def State.takeFree (s : State) : W64 × State := (Config.freeWord s.freeN, { s with freeN := s.freeN + 1 })

/-! ### Status codes (16 R365) -/

def stOk : Nat := 0x000
def stAccepted : Nat := 0x001
def stInvalid : Nat := 0x010
def stVersion : Nat := 0x011
def stDenied : Nat := 0x012
def stNoResource : Nat := 0x013
def stBusy : Nat := 0x014
def stLate : Nat := 0x015
def stStale : Nat := 0x020
def stOutcomeUnknown : Nat := 0x021
def stTimeout : Nat := 0x022
def stAborted : Nat := 0x030
def stContextFault : Nat := 0x031
def stDeviceFault : Nat := 0x040

/-! ### Attention classes (16 R367) -/

/-- The plan of the current tick, if the ring holds one. -/
def currentPlan (s : State) : Option Plan :=
  match NMap.find? s.tkp.plans (s.tkp.now % 16) with
  | some p => if p.tick = s.tkp.now then some p else none
  | none => none

/-- TKP_STATUS.SUBST: the current tick runs a substituted plan (R55). -/
def substNow (s : State) : Bool :=
  match currentPlan s with
  | some p => decide (p.state = .substituted)
  | none => false

/-- Class 6 is pending exactly while a cell runs the twilight template or the tick runs a substituted plan. -/
def class6 (s : State) : Bool := substNow s || s.rad.cells.any fun c => c.2.mode == 2

/-- Whether an attention class is pending. -/
def attnPending (s : State) (c : Nat) : Bool := if c = 6 then class6 s else (NMap.find? s.hst.pending c).isSome

/-- The highest-ranked pending class, 0 if none is: 5, 7, 2, 3, 1, 4, 6. -/
def attnCurrent (s : State) : Nat := ([5, 7, 2, 3, 1, 4, 6].find? (attnPending s)).getD 0

/-- Latches an attention class, with the acceptance order of this moment, which ATTN_ACK compares (R367). -/
def latchAttn (s : State) (c : Nat) : State := { s with hst := { s.hst with pending := NMap.insert s.hst.pending c s.hst.order } }

/-- A status of 16 bits: the current class above a code (R364). -/
def withClass (s : State) (code : Nat) : Nat := attnCurrent s * 4096 + code

/-! ### The event recorder (22) -/

/-- Severity of an event code (R484): 0 info, 1 notice, 2 error, 3 critical. -/
def eventSeverity (code : Nat) : Nat :=
  if [0x0001, 0x9004].contains code then 0
  else if [0x1006, 0x3002, 0x3003, 0x4002, 0x6001, 0x6003, 0x9003, 0xB002, 0xC002, 0xD003].contains code then 1
  else if [0x1007, 0x1008, 0x2003, 0x2004, 0x7003, 0x9002, 0xA001, 0xA002, 0xA006, 0xB003].contains code then 3
  else 2

/-- Capacity and refill interval in ticks of a severity's token bucket (R485). -/
def bucketOf (sev : Nat) : Nat × Nat :=
  if sev = 0 then (4, 8000) else if sev = 1 then (8, 800) else (32, 80)

/-- A bucket with the tokens that its refill intervals have added by now; an interval runs from the use that left the
bucket not full (log 9). -/
def refillBucket (cap per now : Nat) (b : RateB) : RateB :=
  let k := (now - b.last) / per
  if cap ≤ b.tokens + k then { b with tokens := cap, last := now }
  else { b with tokens := b.tokens + k, last := b.last + k * per }

/-- OPSEC: the anchor's seconds and those counted since PWR_GOOD (R488). -/
def opsecNow (s : State) : Nat := (s.evr.opsecBase + s.tim.raw / 1000000000) % 2 ^ 40

/-- A free recorder slot, the lowest, if one exists; the fuel is the number of slots. -/
def freeSlotGo (m : NMap Rec) : Nat → Nat → Option Nat
  | 0, _ => none
  | n + 1, i => match m with
    | [] => some i
    | (k, _) :: rest => if k = i then freeSlotGo rest n (i + 1) else some i

/-- The slot of the oldest record of the lowest severity present (R486). -/
def victimSlot : NMap Rec → Option (Nat × Rec)
  | [] => none
  | (k, r) :: rest =>
    match victimSlot rest with
    | none => some (k, r)
    | some (j, q) => if r.sev < q.sev ∨ (r.sev = q.sev ∧ r.seq < q.seq) then some (k, r) else some (j, q)

/-- Writes a record into the recorder: a free slot, or over the oldest of the lowest severity, or dropped (R486); a
record of severity error or above latches attention class 1 (R483). -/
def putRecord (s : State) (code source sev supp : Nat) (summary : Bool) (args : List Nat) : State :=
  let e := s.evr
  let r : Rec :=
    { seq := e.nextSeq, code := code, sev := sev, tickValid := s.tkp.locked, early := e.early, unanchored := e.unanchored,
      summary := summary, persisted := false, returned := false, source := source, suppressed := supp,
      opsec := opsecNow s, pcc := e.pcc, tick := s.tkp.now, args := args }
  let place := fun (slot : Nat) (lost : Bool) =>
    let s' : State := { s with evr := { e with slots := NMap.insert e.slots slot r, nextSeq := e.nextSeq + 1,
                                               unsaved := e.unsaved || lost } }
    if 2 ≤ sev then latchAttn s' 1 else s'
  match freeSlotGo e.slots 8192 0 with
  | some i => place i false
  | none =>
    match victimSlot e.slots with
    | none => s
    | some (i, v) =>
      if v.sev = 3 ∧ sev = 3 then { s with evr := { e with critOver := satAdd 32 e.critOver 1 } }
      else if v.sev ≤ sev then place i (!v.persisted)
      else { s with evr := { e with dropped := satAdd 32 e.dropped 1 } }

/-- Records an event through the token bucket of its code (R485). -/
def recordNow (s : State) (code source : Nat) (args : List Nat) : State :=
  let sev := eventSeverity code
  if sev = 3 then
    let b := NMap.getD s.evr.buckets code ⟨0, 0, 0⟩
    putRecord { s with evr := { s.evr with buckets := NMap.insert s.evr.buckets code { b with suppressed := 0 } } }
      code source sev b.suppressed false args
  else
    let (cap, per) := bucketOf sev
    let b := refillBucket cap per s.tkp.now (NMap.getD s.evr.buckets code ⟨cap, s.tkp.now, 0⟩)
    if b.tokens = 0 then
      { s with evr := { s.evr with buckets := NMap.insert s.evr.buckets code { b with suppressed := satAdd 32 b.suppressed 1 } } }
    else
      putRecord { s with evr := { s.evr with buckets := NMap.insert s.evr.buckets code { b with tokens := b.tokens - 1, suppressed := 0 } } }
        code source sev b.suppressed false args

/-- The state of a control processor (FWL_CP_STATUS): 0 not started, 1 running, 2 restarting, 3 held. -/
def cpState (s : State) (p : Nat) : Nat := NMap.getD s.fw.cpState p 0

/-- Replaces the oldest staged event of a severity below critical, if there is one (18 R399). -/
def replaceStaged (new : Nat × Nat × List Nat) : List (Nat × Nat × List Nat) → Option (List (Nat × Nat × List Nat))
  | [] => none
  | e :: es => if eventSeverity e.1 < 3 then some (es ++ [new]) else (replaceStaged new es).map (e :: ·)

/-- Raises an event: while CP7 restarts it is staged (18 R399), otherwise recorded. -/
def recordEvent (s : State) (code source : Nat) (args : List Nat) : State :=
  if cpState s 7 = 2 then
    if s.fw.staged.length < 512 then { s with fw := { s.fw with staged := s.fw.staged ++ [(code, source, args)] } }
    else if eventSeverity code < 3 then { s with evr := { s.evr with dropped := satAdd 32 s.evr.dropped 1 } }
    else
      match replaceStaged (code, source, args) s.fw.staged with
      | some q => { s with fw := { s.fw with staged := q } }
      | none => { s with evr := { s.evr with critOver := satAdd 32 s.evr.critOver 1 } }
  else recordNow s code source args

/-- SOURCE of an event that hardware raises. -/
def srcHw : Nat := 0xFF
/-- SOURCE of an event that the SP raises. -/
def srcSp : Nat := 0xFE

/-- ALERT_N: a record of severity error or above above ACK_SEQ, or an anchor wanted after a path change (R478, R487); released while
PWR_GOOD is low (02 R41). -/
def alertN (s : State) : Bool :=
  s.pwr.pwrGood && (s.evr.anchorDue || s.evr.slots.any fun r => decide (2 ≤ r.2.sev ∧ s.evr.ackSeq < r.2.seq))

/-! ### Memory -/

/-- U of 08 R163 in bytes. -/
def usableU (s : State) : Nat := s.hst.usableGib * 2 ^ 30
/-- I of 08 R163 in bytes. -/
def interI (s : State) : Nat := s.hst.interGib * 2 ^ 30
/-- First address of the deck. -/
def deckBase : Nat := 0x4000000000
/-- First address after the deck. -/
def deckEnd : Nat := 0x4060000000

/-- A range of device memory that exists: below U, or in the deck (R163, R164). -/
def usableRange (s : State) (a n : Nat) : Bool :=
  decide (a + n ≤ usableU s) || decide (deckBase ≤ a ∧ a + n ≤ deckEnd)

/-- The GDDR7 channel that holds an address (R165); 32 for an address of the deck. -/
def channelOf (s : State) (a : Nat) : Nat :=
  if deckBase ≤ a then 32
  else if a < interI s then
    16 * (a / 2 ^ 21 % 2) + ((a / 2 ^ 8 % 16) ^^^ (a / 2 ^ 12 % 16) ^^^ (a / 2 ^ 16 % 16))
  else (a - interI s) / 2 ^ 27

/-- The byte offset of an address within its channel (R165). -/
def channelOffset (s : State) (a : Nat) : Nat :=
  if a < interI s then (a / 2 ^ 22) * 2 ^ 17 + (a / 2 ^ 12 % 2 ^ 9) * 2 ^ 8 + a % 2 ^ 8
  else interI s / 32 + (a - interI s) % 2 ^ 27

/-! #### Physical lines of a channel with inline ECC on (R166) -/

/-- The physical line that holds the line of an index. -/
def dataLine (i : Nat) : Nat := 32 * (i / 31) + i % 31

/-- The physical line that holds the check word of the line of an index. -/
def checkLine (i : Nat) : Nat := 32 * (i / 31) + 31

/-- The index of the line that a physical line holds; none for a check line. -/
def lineIndex (p : Nat) : Option Nat := if p % 32 = 31 then none else some (31 * (p / 32) + p % 32)

/-- The line index of an address in its channel. -/
def indexOf (s : State) (a : Nat) : Nat := channelOffset s a / 64

/-- The address of the line of an index in a channel (R165). -/
def lineAddr (s : State) (ch i : Nat) : Nat :=
  let o := 64 * i
  if o < interI s / 32 then
    let hi := o / 2 ^ 17 * 2 ^ 22 + ch / 16 * 2 ^ 21 + o / 2 ^ 8 % 2 ^ 9 * 2 ^ 12
    hi + ((ch % 16) ^^^ (hi / 2 ^ 12 % 16) ^^^ (hi / 2 ^ 16 % 16)) * 2 ^ 8 + o % 2 ^ 8
  else interI s + 2 ^ 27 * ch + (o - interI s / 32)

/-- The check word of a line: a SEC-DED code over its bits and its index, or the code of a poisoned line (R166, R167). -/
def checkWordAt (s : State) (a : Nat) : W16 :=
  if s.mem.poison.contains (a / 64) then Config.poisonWord
  else Config.checkWord (Memory.readN s.mem.dev (a / 64 * 64) 64) (indexOf s a)

/-- The bytes of a physical line of a channel: a data line, or the 31 check words of its group and two more bytes (log 85). -/
def physLine (s : State) (ch p : Nat) : List Byte :=
  match lineIndex p with
  | some i => Memory.readN s.mem.dev (lineAddr s ch i) 64
  | none => ((List.range 31).map fun k => leBytes 2 (checkWordAt s (lineAddr s ch (31 * (p / 32) + k))).toNat).flatten ++
      leBytes 2 (Config.checkTail ch p).toNat

/-- An access of a line uses its check line: it comes into the channel's cache of 64, in place of the one used longest ago
(R166, log 85). -/
def useCheck (s : State) (a : Nat) : State :=
  if s.hst.ecc ∧ a < usableU s then
    let k := checkLine (indexOf s a)
    { s with mem := { s.mem with checks := NMap.modify s.mem.checks [] (channelOf s a) fun l => (k :: l.filter (· ≠ k)).take 64 } }
  else s

/-- Whether the channel of an address is lost (R504). -/
def onLost (s : State) (a : Nat) : Bool := s.mem.lost.contains (channelOf s a)

/-- Whether a line is poisoned. -/
def isPoisoned (s : State) (a : Nat) : Bool := s.mem.poison.contains (a / 64)

/-- Whether a line holds an uncorrected error that no read has found; with inline ECC off GDDR7 shows none (R167, R168). -/
def isLatent (s : State) (a : Nat) : Bool := (s.hst.ecc || decide (deckBase ≤ a)) && s.mem.latent.contains (a / 64)

/-- The 64-byte lines that a range of memory touches, by line number. -/
def linesOf (a n : Nat) : List Nat :=
  if n = 0 then [] else (List.range ((a + n - 1) / 64 + 1 - a / 64)).map (a / 64 + ·)

/-- Whether a line reads uncorrected: it is poisoned, holds an error or lies on a lost channel (R167, R504). -/
def lineBad (s : State) (a : Nat) : Bool := isPoisoned s a || isLatent s a || onLost s a

/-- A range whose read reports an uncorrected error (R167, R504). -/
def badRange (s : State) (a n : Nat) : Bool := (linesOf a n).any fun l => lineBad s (64 * l)

/-- Poisons a line (R167); whatever error it held is part of that. -/
def poisonLine (s : State) (a : Nat) : State :=
  { s with mem := { s.mem with poison := addSet s.mem.poison (a / 64), latent := s.mem.latent.filter (· ≠ a / 64) } }

/-- A read finds the error of a line, if it holds one: the line is poisoned and the event of R167 recorded; none for a lost
channel (R504). -/
def findError (s : State) (line : Nat) : State :=
  if isLatent s (64 * line) && !onLost s (64 * line) then
    recordEvent (poisonLine s (64 * line)) 0x2002 srcHw [channelOf s (64 * line), 64 * line]
  else s

/-- The errors that a read of a range finds (R167). A line that is poisoned already reports uncorrected and has had its
event. -/
def recordUncorrected (s : State) (a n : Nat) : State :=
  (s.mem.latent.filter fun l => decide (a < 64 * l + 64 ∧ 64 * l < a + n)).foldl findError s

/-- The check lines that a read of a range uses (R166). -/
def noteReads (s : State) (a n : Nat) : State := (linesOf a n).foldl (fun y l => if onLost y (64 * l) then y else useCheck y (64 * l)) s

/-- Whether a range has a line on a lost channel (R504). -/
def lostRange (s : State) (a n : Nat) : Bool := !s.mem.lost.isEmpty && (linesOf a n).any fun l => onLost s (64 * l)

/-- Bytes of device memory. -/
def devRead (s : State) (a n : Nat) : List Byte := Memory.readN s.mem.dev a n

/-- A little-endian field of device memory. -/
def devNat (s : State) (a n : Nat) : Nat := leNat (devRead s a n)

/-- Cuts bytes into pieces that each lie in one line; the fuel is the number of lines. -/
def lineChunks : Nat → Nat → List Byte → List (Nat × List Byte)
  | 0, _, _ => []
  | n + 1, a, bs =>
    if bs.isEmpty then []
    else
      let k := 64 - a % 64
      (a, bs.take k) :: lineChunks n (a + k) (bs.drop k)

/-- Writes one piece of a line: a lost channel stores nothing; a full line replaces the line and whatever it held; a
partial write of a line that is poisoned, or whose merge read finds an error, is not performed (R167, R504). The flag says whether the write was performed. -/
def writeChunk (s : State) (a : Nat) (bs : List Byte) : State × Bool :=
  if onLost s a then (s, false)
  else if bs.length = 64 then
    (useCheck { s with mem := { s.mem with dev := Memory.writeN s.mem.dev a bs, poison := s.mem.poison.filter (· ≠ a / 64),
                                           latent := s.mem.latent.filter (· ≠ a / 64) } } a, true)
  else if isPoisoned s a then (s, false)
  else if isLatent s a then (findError s (a / 64), false)
  else (useCheck { s with mem := { s.mem with dev := Memory.writeN s.mem.dev a bs } } a, true)

/-- Writes pieces of lines in turn; the flag says whether every one was performed. -/
def writeChunks : List (Nat × List Byte) → State → State × Bool
  | [], s => (s, true)
  | c :: cs, s =>
    let r := writeChunk s c.1 c.2
    let q := writeChunks cs r.1
    (q.1, r.2 && q.2)

/-- Writes bytes to device memory, line by line. -/
def devWrite (s : State) (a : Nat) (bs : List Byte) : State × Bool := writeChunks (lineChunks (bs.length / 64 + 2) a bs) s

/-- A write of the device's own structures, by the rules of any other write (R167). -/
def devPut (s : State) (a : Nat) (bs : List Byte) : State := (devWrite s a bs).1

/-- A write of the device's own structures over a range: its whole lines lose their poison, but on a lost channel (R167, R504). -/
def wholeLines (s : State) (a n : Nat) : State :=
  let keep := fun l => !decide (a ≤ 64 * l ∧ 64 * l + 64 ≤ a + n) || onLost s (64 * l)
  { s with mem := { s.mem with poison := s.mem.poison.filter keep, latent := s.mem.latent.filter keep } }

/-- Adds to a 64-bit counter of device memory (R81, R172, R314). -/
def bumpCounter (s : State) (a : Nat) : State := (devWrite s a (leBytes 8 ((devNat s a 8 + 1) % 2 ^ 64))).1

/-- Sets a range of device memory to zero by whole lines (17 R393), but the lines of a lost channel (R504). -/
def devZero (s : State) (a n : Nat) : State :=
  { s with mem := { s.mem with dev := s.mem.dev.filter (fun c => !(decide (a ≤ c.1 ∧ c.1 < a + n) && !onLost s c.1))
                               poison := s.mem.poison.filter (fun l => !(decide (a ≤ 64 * l ∧ 64 * l < a + n) && !onLost s (64 * l)))
                               latent := s.mem.latent.filter (fun l => !(decide (a ≤ 64 * l ∧ 64 * l < a + n) && !onLost s (64 * l))) } }

/-- Bytes of host memory at an address under a PASID, or at a physical-function address (16 R352, R358). -/
def hostRead (s : State) (pas : Option Nat) (a n : Nat) : List Byte :=
  match pas with
  | none => Memory.readN s.mem.host a n
  | some p => (List.range n).map fun i => Memory.read s.mem.host (Config.hostAddr p (a + i))

/-- A memory with bytes written at the translations of their addresses under a PASID. -/
def Memory.writeUnder (p : Nat) : List Host.Cell → Nat → List Byte → List Host.Cell
  | m, _, [] => m
  | m, a, b :: bs => Memory.writeUnder p (Memory.write m (Config.hostAddr p a) b) (a + 1) bs

/-- Writes bytes to host memory, at an address under a PASID or at a physical-function address. -/
def hostWrite (s : State) (pas : Option Nat) (a : Nat) (bs : List Byte) : State :=
  { s with mem := { s.mem with host := (match pas with
    | none => Memory.writeN s.mem.host a bs
    | some p => Memory.writeUnder p s.mem.host a bs) } }

/-- The PASID under which the accesses of a slice reach host memory (08 R174); a slice may hold eight, and the spec does not say which of them
its bursts use: the lowest, and none assigned gives a number that no PASID has (DESIGN CHOICE, log 110). -/
def slicePas (s : State) (slice : Option Nat) : Option Nat :=
  slice.map fun x => match List.find? (fun (e : Nat × Nat) => e.2 == x) s.slc.pasids with | some e => e.1 | none => 2 ^ 20 + x

/-- The PASID of a queue; none on a system queue (R358). -/
def Queue.pas (x : Queue) : Option Nat := if x.system then none else some x.pasid

/-- What the plans of the ring and the overlays record outside it: overcast streams, share tables and slot descriptors (03, 17 R382,
13 R300). -/
def planAreas (s : State) : List (Nat × Nat) :=
  (s.tkp.plans.map fun (e : Nat × Plan) =>
    [(e.2.overcastPtr, e.2.stream.length), (e.2.sharePtr, 20480), (e.2.cellPtr, 64 * e.2.cells.length)]).flatten ++
  s.tkp.overlays.map fun (e : Nat × Overlay) => (e.2.overcastPtr, e.2.stream.length)

/-- The structures of R13 with the tables and state areas that other rules put under it, but the images and other areas that
firmware places in the channel-local range (log 10): first address and length; a base of 0 names no area yet. -/
def r13Areas (s : State) : List (Nat × Nat) :=
  ([(s.tkp.planBase, 2048), (s.srv.poolBase, 16384), (s.srv.reqBase, 2097152), (s.srv.budgetBase, 65536)] ++
   [(s.srv.adapterBase, 8192), (s.srv.grammarBase, 16384 + 2097152), (s.fab.regionBase, 16 * 524288)] ++ planAreas s ++ s.fw.stateAreas ++
   (s.srv.pools.filter (fun (p : Nat × Pool) => p.2.state ≠ 0)).map (fun (p : Nat × Pool) => (p.2.frameTab, 16 * p.2.frames))).filter fun a => decide (a.1 ≠ 0 ∧ a.2 ≠ 0)

/-- The areas that a host write may not change (01 R13, 08 R169): the structures and the channel-local range. -/
def protectedAreas (s : State) : List (Nat × Nat) := (interI s, usableU s - interI s) :: r13Areas s

/-- Whether two ranges meet. -/
def overlaps (a n b m : Nat) : Bool := decide (a < b + m ∧ b < a + n)

/-- Where the copies of the images stand (04 R68): the channel-local ranges of the channels other than MC0 and MC16, which the journal
takes (08 R181; log 94). -/
def imageAreas (s : State) : List (Nat × Nat) :=
  if interI s = 0 then [] else [(interI s + 2 ^ 27, 15 * 2 ^ 27), (interI s + 17 * 2 ^ 27, 15 * 2 ^ 27)]

/-- Whether a range meets a structure of R13. -/
def inR13 (s : State) (a n : Nat) : Bool := (r13Areas s ++ imageAreas s).any fun p => overlaps a n p.1 p.2

/-- Whether a range meets a protected structure. -/
def isProtected (s : State) (a n : Nat) : Bool :=
  (protectedAreas s).any fun p => overlaps a n p.1 p.2

/-! ### Trace records (18 R417) -/

/-- Writes a trace record of an enabled point to the ring at FWL_TRACE_BASE. -/
def trace (s : State) (point cp arg0 arg1 : Nat) : State :=
  if s.fw.traceMask.getLsbD point ∧ s.fw.traceBase ≠ 0 then
    let rec' := leBytes 8 (s.tkp.beat + 2048 * (s.tkp.now % 2 ^ 53)) ++ leBytes 2 point ++ leBytes 1 cp ++ leBytes 1 0 ++
      leBytes 4 arg0 ++ leBytes 8 arg1 ++ leBytes 8 s.fw.traceWidx
    let s' := devPut s (s.fw.traceBase + 32 * (s.fw.traceWidx % 524288)) rec'
    { s' with fw := { s'.fw with traceWidx := s.fw.traceWidx + 1 } }
  else s

/-! ### Tiles, dies and their states -/

/-- A logical tile. -/
def tileAt (s : State) (t : Nat) : Tile := NMap.getD s.tiles t {}

/-- Writes a logical tile. -/
def setTile (s : State) (t : Nat) (x : Tile) : State := { s with tiles := NMap.insert s.tiles t x }

/-- Updates a logical tile. -/
def modTile (s : State) (t : Nat) (f : Tile → Tile) : State := setTile s t (f (tileAt s t))

/-- The die of a logical tile (04). -/
def dieOf (t : Nat) : Nat := t / 40

/-- The physical tile that a logical tile is bound to: the repair map, or the factory binding (R87, R88). -/
def physOf (s : State) (t : Nat) : Nat := NMap.getD s.dies.tileMap t (11 * (t % 40 / 10) + t % 40 % 10)

/-- Whether a logical tile is in the radio floor of the current tick: its plan's mask, or borrowed by its overlay
(20 R440). -/
def isFloor (s : State) (t : Nat) : Bool :=
  (match currentPlan s with
   | some p => p.floorMask.getLsbD t
   | none => false) ||
  (match NMap.find? s.tkp.overlays (s.tkp.now % 16) with
   | some o => o.tick == s.tkp.now && o.borrow.getLsbD t
   | none => false)

/-- The state of a sealed plan of a tick after the current one counts towards DEPTH (03 TKP_STATUS). -/
def planDepth (s : State) : Nat :=
  (s.tkp.plans.filter fun p => p.2.state == .sealed && decide (s.tkp.now < p.2.tick)).length

/-- Arithmetic-clock cycles of a beat: 240 at 2.4 GHz, 180 and 120 in the quiet modes (00 R3, 03 R63). -/
def beatCycles (s : State) : Nat := if s.tkp.clock = 1 then 180 else if s.tkp.clock = 2 then 120 else 240

/-- A sync counter is incremented in the current beat, taken as its first cycle; guards see it 64 cycles later
(04 "Sync counters", log 21). -/
def incSync (s : State) (ctr : Nat) : State := { s with tkp := { s.tkp with scPend := s.tkp.scPend ++ [(ctr, beatCycles s * s.tkp.beat + 64)] } }

/-- A context. -/
def ctxAt (s : State) (c : Nat) : Ctx := NMap.getD s.slc.ctxs c {}

/-- Updates a context. -/
def modCtx (s : State) (c : Nat) (f : Ctx → Ctx) : State :=
  { s with slc := { s.slc with ctxs := NMap.insert s.slc.ctxs c (f (ctxAt s c)) } }

/-- A context takes a state: its tick is noted and trace point 7 written. -/
def ctxState (s : State) (c st : Nat) : State :=
  trace (modCtx s c fun x => { x with state := st, changed := s.tkp.now }) 7 0 c st

/-- Bars a context for the rest of the tick and tears it down at the next seam, with the event code of the cause
(03 R60, 17 R393). -/
def barContext (s : State) (c cause : Nat) : State :=
  { s with dies := { s.dies with barred := addSet s.dies.barred c,
                                 torn := if s.dies.torn.any (·.1 = c) then s.dies.torn else s.dies.torn ++ [(c, cause)] } }

end Sys2Proof.Machine
end

