-- ==== Sys2Proof/Machine/FabricOps.lean ====
section
/-!
DEFINITION. The sender's side of a fabric stream: path choice, credit and sending (14 R309 to R311, R325, R331).
-/
namespace Sys2Proof.Machine

/-- A Watric port. -/
def wport (s : State) (p : Nat) : WPort := NMap.getD s.fab.ports p {}

/-- Updates a Watric port. -/
def modPort (s : State) (p : Nat) (f : WPort → WPort) : State :=
  { s with fab := { s.fab with ports := NMap.modify s.fab.ports {} p f } }

/-- The sender's stream to a destination. -/
def txAt (s : State) (d : Nat) : TxStream := NMap.getD s.fab.tx d {}

/-- Writes the sender's stream to a destination. -/
def setTx (s : State) (d : Nat) (x : TxStream) : State := { s with fab := { s.fab with tx := NMap.insert s.fab.tx d x } }

/-- The target's stream from a source. -/
def rxAt (s : State) (d : Nat) : RxStream := NMap.getD s.fab.rx d {}

/-- Writes the target's stream from a source. -/
def setRx (s : State) (d : Nat) (x : RxStream) : State := { s with fab := { s.fab with rx := NMap.insert s.fab.rx d x } }

/-- The path set of a destination. -/
def pathsOf (s : State) (d : Nat) : List Path := NMap.getD s.fab.paths d []

/-- Updates the path set of a destination. -/
def modPaths (s : State) (d : Nat) (f : List Path → List Path) : State :=
  { s with fab := { s.fab with paths := NMap.adjust s.fab.paths d f } }

/-- A path is healthy while its port is UP and it has not been marked down (R310). -/
def pathHealthy (s : State) (p : Path) : Bool := (wport s p.port).state == 2 && !p.down

/-- The first healthy path of the set from a turn on, with its place; the fuel is the size of the set. -/
def healthyFrom (s : State) (ps : List Path) : Nat → Nat → Option (Nat × Path)
  | 0, _ => none
  | n + 1, i =>
    match ps[i % ps.length]? with
    | some p => if pathHealthy s p then some (i % ps.length, p) else healthyFrom s ps n (i + 1)
    | none => none

/-- Whether a device is in this device's partition (R331). -/
def inPartition (s : State) (d : Nat) : Bool := s.fab.mask.getLsbD d

/-- The path on which the next request to a device goes out; none to a device outside the partition (R310, R331). -/
def healthyTo (s : State) (d turn : Nat) : Option (Nat × Path) :=
  if inPartition s d then healthyFrom s (pathsOf s d) (pathsOf s d).length turn else none

/-- FLAGS of a packet (R305). -/
def flagBits (p : Packet) : Nat := bit1 p.retry + 2 * bit1 p.comb + 4 * bit1 p.prot + 8 * bit1 p.merged + 16 * p.rsvFlags

/-- STAMP of a packet: the beat in [10:0], the low bits of the tick index in [52:11] (R305). -/
def stampBits (p : Packet) : Nat := p.stamp % 1250 + 2 ^ 11 * (p.stamp / 1250 % 2 ^ 42) + 2 ^ 53 * p.rsvStamp

/-- The header of a packet (R305). -/
def packetHead (p : Packet) : List Byte :=
  leBytes 1 p.op ++ leBytes 1 (flagBits p) ++ leBytes 1 p.src ++ leBytes 1 p.dst ++ leBytes 4 p.psn ++ leBytes 1 p.epoch ++ leBytes 1 p.path ++
  leBytes 2 p.jobTag ++ leBytes 2 p.len ++ leBytes 2 p.status ++ leBytes 8 p.addr ++ leBytes 8 (stampBits p)

/-- The ECRC of a packet: CRC-32C over its header and payload (R305). -/
def packetCrc (p : Packet) : W32 := crc32c (packetHead p ++ p.payload)

/-- FHDR of a flit (R302). -/
def flitHead (fseq fack type : Nat) : List Byte := leBytes 4 (fseq % 4096 + 2 ^ 12 * (fack % 4096) + 2 ^ 24 * (type % 16))

/-- A flit of a payload of at most 248 bytes (R302). -/
def flitBytes (fseq fack type : Nat) (payload : List Byte) : List Byte :=
  let b := flitHead fseq fack type ++ payload ++ List.replicate (248 - payload.length) 0
  b ++ leBytes 4 (crc32c b).toNat

/-- A flit goes out as one FEC block, on the lane whose turn it is (R301, R302). -/
def putBlock (w : WPort) (flit : List Byte) : WPort := { w with out := (w.lane, flit ++ Config.fecRest flit) :: w.out, lane := (w.lane + 1) % 4 }

/-- A data flit takes the next FSEQ and its place among the last 512 flits (R303). -/
def putFlit (w : WPort) (payload : List Byte) : WPort :=
  let f := flitBytes w.txSeq (w.rxSeq + 4095) 1 payload
  { putBlock w f with txSeq := (w.txSeq + 1) % 4096, store := ((w.txSeq, f) :: w.store).take 512 }

/-- Puts a packet on a port, with its ECRC: it begins a flit of its own (log 20). The packets sent stand newest first. -/
def putPacket (s : State) (port : Nat) (p : Packet) : State :=
  let p' : Packet := { p with ecrc := packetCrc p }
  let bs := packetHead p ++ p.payload ++ leBytes 4 p'.ecrc.toNat
  let s' := modPort s port fun w => (List.range ((bs.length + 247) / 248)).foldl (fun v i => putFlit v ((bs.drop (248 * i)).take 248)) w
  { s' with fab := { s'.fab with sent := (port, p') :: s'.fab.sent } }

/-- The requests of a stream that count against its credit: those without COMB (R309). -/
def inCredit (st : TxStream) : Nat := (st.outst.filter fun o => !o.pkt.comb).length

/-- The requests of a stream that wait in it. -/
def waiting (st : TxStream) : Nat := (st.held.filter fun o => !o.pkt.comb).length

/-- Sends a request now if a healthy path allows, and credit and the epoch unless it is outside the stream, with the next PSN or, with COMB,
the next combine id (R309, R310, R325); the flag says whether it was sent. -/
def transmit (s : State) (d : Nat) (w : OutReq) : State × Bool :=
  let st := txAt s d
  let ps := pathsOf s d
  let pkt := w.pkt
  if !pkt.comb && (decide (1024 ≤ inCredit st) || st.epochAsk.isSome) then (s, false)
  else
    match healthyTo s d st.next with
    | none => (s, false)
    | some (i, p) =>
      let pkt' : Packet := { pkt with psn := if pkt.comb then s.fab.combN else st.psn, epoch := st.epoch, path := p.index,
                                      src := s.fab.device, dst := d, prot := s.fab.prot,
                                      stamp := if pkt.stamp = 0 then launch s else pkt.stamp }
      let o : OutReq := { w with pkt := pkt', sentAt := launch s, port := p.port, pathIx := i, charged := false }
      let st' : TxStream := { st with psn := if pkt.comb then st.psn else (st.psn + 1) % 2 ^ 32, next := (i + 1) % ps.length,
                                      outst := st.outst ++ [o] }
      let s' := putPacket (setTx s d st') p.port pkt'
      ({ s' with fab := { s'.fab with combN := if pkt.comb then (s.fab.combN + 1) % 2 ^ 32 else s.fab.combN } }, true)

/-- A request waits in its stream. -/
def hold (s : State) (d : Nat) (o : OutReq) : State := setTx s d { txAt s d with held := (txAt s d).held ++ [o] }

/-- A request: sent now, or held behind those of its stream that already wait; one with COMB waits behind none (R309, R310, R325). None
goes to a device outside the partition: it ends DENIED, which the operation it serves has seen before it issues, or nothing waits for (R331). A
request that only lacks a path has issued, so its STAMP is that of now. -/
def issueReq (s : State) (d : Nat) (pkt : Packet) (origin : Option (Nat × Nat × Nat)) (key : Option Nat := none) : State :=
  if !inPartition s d then s
  else
    let s0 : State := { s with fab := { s.fab with issueN := s.fab.issueN + 1 } }
    let st := txAt s d
    let stamp := if pkt.comb ∨ inCredit st + waiting st < 1024 then launch s else 0
    let o : OutReq := { pkt := { pkt with stamp := stamp }, sentAt := launch s, port := 0, pathIx := 0, origin := origin,
                        num := s.fab.issueN, key := key, charged := false }
    if pkt.comb ∨ waiting st = 0 then
      let r := transmit s0 d o
      if r.2 then r.1 else hold s0 d o
    else hold s0 d o

/-- Sends requests that were held, in turn, while credit and a path allow; the rest wait again. Once one of the stream must wait, those
after it do, but for those with COMB. -/
def pumpHeld (d : Nat) : List OutReq → Bool → State → State
  | [], _, s => s
  | o :: rest, stuck, s =>
    if o.pkt.comb ∨ !stuck then
      let r := transmit s d o
      if r.2 then pumpHeld d rest stuck r.1 else pumpHeld d rest (stuck || !o.pkt.comb) (hold s d o)
    else pumpHeld d rest stuck (hold s d o)

/-- Sends what a stream holds, as far as credit and paths allow. -/
def pump (s : State) (d : Nat) : State := pumpHeld d (txAt s d).held false (setTx s d { txAt s d with held := [] })

/-- A request packet before it is sent. -/
def reqPacket (op addr len jobTag : Nat) (comb : Bool) (payload : List Byte) : Packet :=
  { op := op, retry := false, comb := comb, prot := false, merged := false, src := 0, dst := 0, psn := 0, epoch := 0, path := 0,
    jobTag := jobTag, len := len, status := 0, addr := addr, stamp := 0, payload := payload, rsvFlags := 0, rsvStamp := 0, ecrc := 0 }

/-- A response packet to a request, on the request's PATH index from this device's port for that index (R310). -/
def respPacket (s : State) (p : Packet) (op status addr : Nat) (payload : List Byte) : Packet :=
  { op := op, retry := false, comb := p.comb, prot := s.fab.prot, merged := p.merged, src := s.fab.device, dst := p.src, psn := p.psn,
    epoch := p.epoch, path := p.path, jobTag := 0, len := payload.length, status := status, addr := addr, stamp := launch s,
    payload := payload, rsvFlags := 0, rsvStamp := 0, ecrc := 0 }

/-- The egress port for a PATH index towards a device: that of the path set, else the port of the same number. -/
def egressPort (s : State) (d ix : Nat) : Nat :=
  match (pathsOf s d).find? fun p => p.index == ix with
  | some p => p.port
  | none => ix % 8

/-- Sends a response on its path, if the egress port is UP and the source is in the partition; a response lost is
recovered by retransmission (R304, R310, R331). -/
def sendResp (s : State) (p : Packet) : State :=
  let port := egressPort s p.dst p.path
  if (wport s port).state = 2 ∧ inPartition s p.dst then putPacket s port p else s

/-- The event of a path that goes down (R310). -/
def pathDownEvent (s : State) : State := recordEvent s 0x6001 5 []

/-- A port leaves UP for another state: its flits in flight are lost, and every path that used it is down (R303, R304). -/
def portLeaves (s : State) (port st : Nat) : State :=
  let was := (wport s port).state
  let s1 := modPort s port fun w => { w with state := st, retryOf := none, resendOf := none, store := [], ahead := [] }
  if was = 2 ∧ st ≠ 2 then
    (s.fab.paths.map fun e => (e.2.filter fun p => p.port == port && !p.down).map fun p => (e.1, p)).flatten.foldl
      (fun x _ => pathDownEvent x) s1
  else s1

/-- Mark of the requests that carry firmware messages, in place of a transfer list. -/
def msgTag : Nat := 2 ^ 65

/-- MOVE_ID of a message's header (R323). -/
def moveIdField (dev idx gen : Nat) : Nat := dev % 256 + 256 * (idx % 2 ^ 14) + 2 ^ 22 * (gen % 2 ^ 10)

/-- Cuts the body of a message into bodies of at most 4,088 bytes, at least one (log 29); the fuel is a bound on their number. -/
def msgParts : Nat → List Byte → List (List Byte)
  | 0, b => [b]
  | n + 1, b => if b.length ≤ 4088 then [b] else b.take 4088 :: msgParts n (b.drop 4088)

/-- Sends a firmware message with the origin of its requests (R323): the newest stands first in `msgs`, and its MSG requests go
to the stream. -/
def sendMsgFor (s : State) (d cls moveId : Nat) (arg : List Nat) (body : List Byte) (cmd : Nat × Nat) : State :=
  let s' : State := { s with fab := { s.fab with msgs := ⟨d, cls, moveId, arg, body⟩ :: s.fab.msgs } }
  (msgParts (body.length / 4088) body).foldl (fun y b =>
    let payload := leBytes 2 cls ++ leBytes 2 0 ++ leBytes 4 moveId ++ b
    issueReq y d (reqPacket 0x14 (2 ^ 40 * d) payload.length 0 false payload) (some (msgTag, cmd.1, cmd.2))) s'

/-- Sends a firmware message that no prefix command waits for. -/
def sendMsg (s : State) (d cls moveId : Nat) (arg : List Nat) (body : List Byte) : State := sendMsgFor s d cls moveId arg body (0, 0)

/-- Marks of the requests that the command journal's mirror stores carry in place of a transfer list (16 R362). -/
def mirrorTag : Nat := 2 ^ 64

end Sys2Proof.Machine
end

