-- ==== Sys2Proof/Machine/HostOps.lean ====
section
/-!
DEFINITION. The command journal, completions and results (16 R355 to R373, R503, R507, 18 R413), the recovery report
(R372) and the failure of the device (20 R435), as operations that the meanings of all commands share.
-/
namespace Sys2Proof.Machine

/-! ### Records -/

/-- The journal record of a command. -/
def findRec (s : State) (q seq : Nat) : Option JRec := s.hst.journal.find? fun r => r.q == q && r.seq == seq

/-- Updates the journal record of a command. -/
def modRec (s : State) (q seq : Nat) (f : JRec → JRec) : State :=
  { s with hst := { s.hst with journal := s.hst.journal.map fun r => if r.q = q ∧ r.seq = seq then f r else r } }

/-- The size of a record in units of 64 bytes: header, parameters in whole units, progress state (log 11). -/
def recUnits (r : JRec) : Nat := 2 + (r.params.length + 63) / 64

/-- First word of a record in the journal and in a mirror area (log 32). -/
def mirrorMagic : Nat := 0x4C4E524A52524D42

/-- The bytes of a record in the journal and in a mirror area: header and progress state in 128 bytes, then the parameters in whole units
(R368; log 32). -/
def mirrorBytes (r : JRec) : List Byte :=
  let head := leBytes 8 mirrorMagic ++ leBytes 2 r.q ++ leBytes 2 r.opcode ++ leBytes 2 r.flags ++ leBytes 2 r.status ++
    leBytes 8 r.seq ++ leBytes 8 r.value.toNat ++ leBytes 8 r.resultPtr ++ leBytes 8 (r.tickArg.getD 0) ++
    leBytes 4 (match r.pasid with | some p => p + 1 | none => 0) ++ leBytes 4 r.params.length ++ leBytes 8 r.stage ++ leBytes 8 r.tick
  head ++ List.replicate (128 - head.length) 0 ++ r.params ++ List.replicate ((64 - r.params.length % 64) % 64) 0

/-- Where a copy of the journal holds a unit of 64 bytes: copy 0 in the channel-local range of MC0, copy 1 in that of MC16; the journal
is a ring (08 R181, log 32). -/
def journalAt (s : State) (copy unit : Nat) : Nat := interI s + 2 ^ 31 * copy + 64 * (unit % 0x200000)

/-- Bytes of whole units are written to both copies of the journal from a unit on, or to the one whose channel is there (08 R181). -/
def journalWrite (s : State) (unit : Nat) (bs : List Byte) : State :=
  (List.range (bs.length / 64)).foldl (fun y i =>
    let line := (bs.drop (64 * i)).take 64
    devPut (devPut y (journalAt s 0 (unit + i)) line) (journalAt s 1 (unit + i)) line) s

/-- A record is written to the journal. -/
def journalPut (s : State) (r : JRec) : State := journalWrite s r.mirAt (mirrorBytes r)

/-- Units of a copy of the journal that read uncorrected. -/
def journalBad (s : State) (copy unit n : Nat) : List Nat := (List.range n).filter fun i => badRange s (journalAt s copy (unit + i)) 64

/-- The events of units of a copy that read uncorrected (08 R167). -/
def journalFaults (s : State) (copy unit n : Nat) : State :=
  (journalBad s copy unit n).foldl (fun y i => recordUncorrected y (journalAt s copy (unit + i)) 64) s

/-- A record of `n` units is read from copy 0; where that reads uncorrected, it is read from copy 1 and written into copy 0 again. The
flag says whether a copy could be read (08 R167, R181). -/
def journalRead (s : State) (unit n : Nat) : State × Bool :=
  if (journalBad s 0 unit n).isEmpty then (s, true)
  else
    let s1 := journalFaults s 0 unit n
    if (journalBad s1 1 unit n).isEmpty then
      ((List.range n).foldl (fun y i => devPut y (journalAt y 0 (unit + i)) (devRead y (journalAt y 1 (unit + i)) 64)) s1, true)
    else (journalFaults s1 1 unit n, false)

/-- Units of the record of a committed move: header and progress state, and the entry (11 R236, log 32). -/
def moveUnits : Nat := 4

/-- The commit records of moves that the journal holds: those of COMMITTED records that have not been dropped (11 R236, R239). -/
def committedMoves (s : State) : List MoveRec := s.mov.recs.filter fun m => m.outcome == 1

/-- The journal is read whole: a record that neither copy holds is lost with its command, or with its move (log 87). -/
def journalReload (s : State) : State :=
  let s1 := s.hst.journal.foldl (fun y r =>
    let w := journalRead y r.mirAt (recUnits r)
    if w.2 then w.1 else { w.1 with hst := { w.1.hst with journal := w.1.hst.journal.filter fun x => !(x.q == r.q && x.seq == r.seq) } }) s
  (committedMoves s).foldl (fun y m =>
    let w := journalRead y m.place moveUnits
    if w.2 then w.1 else { w.1 with mov := { w.1.mov with recs := w.1.mov.recs.filter (· ≠ m) } }) s1

/-- HST_JOURNAL.USED: the units that the records use. -/
def journalUsed (s : State) : Nat := (s.hst.journal.map recUnits).foldl (· + ·) 0 + moveUnits * (committedMoves s).length

/-- HST_JOURNAL.CAPACITY in units of 64 bytes. -/
def journalCapacity : Nat := 0x200000

/-- ACCEPTED_SEQ of a queue. -/
def acceptedSeq (s : State) (q : Nat) : Nat := NMap.getD s.hst.accSeq q 0

/-- The commands of a queue that are accepted and not DONE, in journal order. -/
def openRecs (s : State) (q : Nat) : List JRec := s.hst.journal.filter fun r => r.q == q && (r.stage == 1 || r.stage == 2)

/-- DONE_SEQ: the highest s such that every command up to s is DONE (R372). -/
def doneSeqOf (s : State) (q : Nat) : Nat :=
  (openRecs s q).foldl (fun m r => min m (r.seq - 1)) (acceptedSeq s q)

/-- A parameter field of a command: `n` little-endian bytes at an offset. -/
def JRec.par (r : JRec) (off n : Nat) : Nat := fieldAt r.params off n

/-- Whether the bytes of the parameters from an offset on, `n` of them, are all 0. -/
def JRec.zeros (r : JRec) (off n : Nat) : Bool := ((r.params.drop off).take n).all (· == 0)

/-- FLAGS.PDEV: both pointers are device physical addresses. -/
def JRec.pdev (r : JRec) : Bool := r.flags.testBit 0

/-- The slice of a command: that of its queue's PASID; none on a system queue. -/
def sliceOfRec (s : State) (r : JRec) : Option Nat := r.pasid.bind fun p => NMap.find? s.slc.pasids p

/-! ### Completion rings -/

/-- The 32 bytes of a completion without PHASE and attention class (R364). -/
def cplBytes (seq status stage flags qid opcode : Nat) (value : W64) (tick : Nat) : List Byte :=
  leBytes 8 seq ++ leBytes 2 status ++ leBytes 1 stage ++ leBytes 1 flags ++ leBytes 2 qid ++ leBytes 2 opcode ++
    leBytes 8 value.toNat ++ leBytes 8 tick

/-- Completions written and not yet consumed (R356). -/
def unconsumed (x : Queue) : Nat := (x.written + 2 ^ 16 - x.head % 2 ^ 16) % 2 ^ 16

/-- The completions that a ring of this size can hold unconsumed: a full ring of 65,536 cannot be told from an empty
one (R356). -/
def cqLimit (x : Queue) : Nat := min (2 ^ x.cqLog) 65535

/-- Submissions outstanding (R356). -/
def outstanding (x : Queue) : Nat := (x.tail + 2 ^ 16 - x.consumed % 2 ^ 16) % 2 ^ 16

/-- PHASE of the next completion: 1 on the first pass of the ring. -/
def phaseOf (x : Queue) : Nat := if x.written / 2 ^ x.cqLog % 2 = 0 then 1 else 0

/-- Writes a queue. -/
def setQueue (s : State) (q : Nat) (x : Queue) : State := { s with hst := { s.hst with queues := NMap.insert s.hst.queues q x } }

/-- Entry of the MSI-X table of BAR2 (R352; PRESUMED as PCIe lays it out, log 111). -/
def msixEntry (s : State) (v : Nat) : Nat × Nat × Bool := NMap.getD s.hst.msixTab v (0, 0, true)

/-- Signals a vector: its message goes out, or its pending bit is set while it is masked. -/
def signalVec (s : State) (v : Nat) : State :=
  { s with hst := (if (msixEntry s v).2.2 then { s.hst with pba := addSet s.hst.pba v } else { s.hst with msix := v :: s.hst.msix }) }

/-- Signals a queue's vector if CO_N completions are unsignalled or every completion signals (R366). -/
def coalesce (s : State) (q : Nat) (x : Queue) : State :=
  if x.coUs = 0 ∨ x.coN ≤ x.unsig + 1 then
    signalVec (setQueue s q { x with unsig := 0 }) x.vector
  else setQueue s q { x with unsig := x.unsig + 1, unsigAt := if x.unsig = 0 then launch s else x.unsigAt }

/-- Puts a completion into the ring's next slot with its PHASE and the attention class of this moment (R364, R367,
R507). -/
def ringPut (s : State) (q : Nat) (x : Queue) (c : List Byte) : State :=
  let status := withClass s (fieldAt c 8 2 % 4096)
  let flags := fieldAt c 11 1 / 2 * 2 + phaseOf x
  let bytes := overlayAt (overlayAt c 8 (leBytes 2 status)) 11 (leBytes 1 flags)
  let addr := x.cqBase + 32 * (x.written % 2 ^ x.cqLog)
  let s' := if x.devring then devPut s addr bytes else hostWrite s x.pas addr bytes
  coalesce s' q { x with written := x.written + 1 }

/-- A completion: into the ring if it has room and none is held before it, otherwise held (R357); into no ring if the
queue does not exist. -/
def postCpl (s : State) (q : Nat) (c : List Byte) : State :=
  match NMap.find? s.hst.queues q with
  | none => s
  | some x =>
    if x.heldC.isEmpty ∧ unconsumed x < cqLimit x then ringPut s q x c
    else setQueue s q { x with heldC := x.heldC ++ [c] }

/-- Writes held completions while the ring has room; the fuel is their number. -/
def flushGo : Nat → State → Nat → State
  | 0, s, _ => s
  | n + 1, s, q =>
    match NMap.find? s.hst.queues q with
    | none => s
    | some x =>
      match x.heldC with
      | [] => s
      | c :: rest =>
        if unconsumed x < cqLimit x then flushGo n (ringPut s q { x with heldC := rest } c) q else s

/-- Writes the held completions that the ring has room for (R357). -/
def flushHeld (s : State) (q : Nat) : State :=
  match NMap.find? s.hst.queues q with
  | none => s
  | some x => flushGo x.heldC.length s q

/-- The ring count at which the next completion of a queue will stand, counting those held before it. -/
def nextCount (s : State) (q : Nat) : Option Nat := (NMap.find? s.hst.queues q).map fun x => x.written + x.heldC.length

/-- The DONE completion of a record, with REPOST or without (R364, R371). -/
def postDone (s : State) (r : JRec) (repost : Bool) : State :=
  let s' := modRec s r.q r.seq fun x => { x with doneAt := nextCount s r.q }
  postCpl s' r.q (cplBytes r.seq r.status 2 (if repost then 4 else 0) r.q r.opcode r.value r.tick)

/-- Frees the records whose DONE completion the driver's head has passed (R368). -/
def freeRecs (s : State) (q : Nat) : State :=
  match NMap.find? s.hst.queues q with
  | none => s
  | some x =>
    let passed := x.written - unconsumed x
    { s with hst := { s.hst with journal := s.hst.journal.filter fun r =>
        !(r.q == q && r.stage == 3 && (match r.doneAt with | some n => decide (n < passed) | none => false)) } }

/-! ### DONE -/

/-- The copy in pieces of one STORE, each with the unit at which it starts: none crosses the end of the area (log 32). -/
def mirrorPieces (r : JRec) : List (Nat × List Byte) :=
  let b := mirrorBytes r
  let room := 0x200000 - r.mirAt % 0x200000
  let cut := fun (u : Nat) (c : List Byte) => (List.range (c.length / 4096 + 1)).map fun i => (u + 64 * i, (c.drop (4096 * i)).take 4096)
  (cut 0 (b.take (64 * room)) ++ cut room (b.drop (64 * room))).filter fun p => !p.2.isEmpty

/-- The store of one piece of a record's copy into the mirror area on the partner. -/
def mirrorPiece (s : State) (r : JRec) (i : Nat) (b : List Byte) (origin : Option (Nat × Nat × Nat)) : State :=
  issueReq s s.hst.partner (reqPacket 0x11 (s.hst.mirrorAt + (64 * (r.mirAt + i)) % 2 ^ 27) b.length 0 false b) origin

/-- The DONE completions that wait for the partner are written; the device goes on unmirrored. -/
def unmirror (s : State) : State :=
  let s1 := s.hst.mirWait.foldl (fun x w => match findRec x w.1 w.2 with | some r => postDone x r false | none => x)
    { s with hst := { s.hst with mirWait := [], mirrored := false } }
  recordEvent (latchAttn s1 1) 0x8003 srcHw []

/-- The store of a record into the mirror area on the partner (R362). To a partner outside the partition every store ends DENIED (14 R331):
under STRICT its completion waits, otherwise mirroring ends. -/
def mirrorStore (s : State) (q seq : Nat) : State :=
  match findRec s q seq with
  | none => s
  | some r =>
    let ps := mirrorPieces r
    let s1 := modRec s q seq fun x => { x with mirLeft := ps.length }
    if inPartition s s.hst.partner then ps.foldl (fun y p => mirrorPiece y r p.1 p.2 (some (mirrorTag, r.q + 512 * p.1, r.seq))) s1
    else if s.hst.strict then { s1 with hst := { s1.hst with mirrorLost := true } }
    else unmirror s1

/-- A command reaches DONE with a status, VALUE and TICK: the record first, then the completion, which in mirrored mode waits
for the partner (R362, R364). A command that is DONE already stays as it is. -/
def finishAt (s : State) (q seq status : Nat) (value : W64) (tick : Nat) : State :=
  match findRec s q seq with
  | none => s
  | some r =>
    if r.stage = 3 then s
    else
      let r' : JRec := { r with stage := 3, status := status, value := value, tick := tick, beat := s.tkp.beat }
      let s' := modRec (journalPut s r') q seq fun _ => r'
      if s.hst.mirrored then
        mirrorStore { s' with hst := { s'.hst with mirWait := s'.hst.mirWait ++ [(q, seq)] } } q seq
      else postDone s' r' false

/-- A command reaches DONE in the current tick. -/
def finish (s : State) (q seq status : Nat) (value : W64) : State := finishAt s q seq status value s.tkp.now

/-- Bytes parked in the orphan area (18 R413). -/
def parkedBytes (s : State) : Nat := (s.hst.parked.map fun p => p.bytes.length).foldl (· + ·) 0

/-- Writes the result of a command: to device memory with PDEV, to host memory, or parked in orphan mode and while the
queue's ring is gone. The answer is the next state and 0 done, 1 refused by device memory (R507), 2 no room in the
orphan area (18 R413). -/
def writeResult (s : State) (r : JRec) (bytes : List Byte) : State × Nat :=
  if r.resultPtr = 0 ∨ bytes.isEmpty then (s, 0)
  else if r.pdev then
    if (linesOf r.resultPtr bytes.length).any (fun l => onLost s (64 * l)) then (s, 1)
    else
      let w := devWrite s r.resultPtr bytes
      if w.2 then (w.1, 0) else (s, 1)
  else if s.hst.orphan ∨ NMap.find? s.hst.queues r.q = none then
    if parkedBytes s + bytes.length ≤ 2 ^ 26 then
      ({ s with hst := { s.hst with parked := s.hst.parked ++ [⟨r.q, r.seq, r.resultPtr, bytes⟩] } }, 0)
    else (s, 2)
  else (hostWrite s r.pasid r.resultPtr bytes, 0)

/-- A command ends with a result: the result before the DONE completion (R364). -/
def finishWith (s : State) (q seq status : Nat) (value : W64) (result : List Byte) : State :=
  match findRec s q seq with
  | none => s
  | some r =>
    let w := writeResult s r result
    if w.2 = 0 then finish w.1 q seq status value
    else if w.2 = 1 then finish w.1 q seq stDeviceFault 0
    else { w.1 with hst := { w.1.hst with parkWait := w.1.hst.parkWait ++ [(q, seq, status, value, result)] } }

/-! ### Starting a command -/

/-- A command may start: it is accepted, every earlier command of its queue has started, and with FENCE every earlier
one is DONE (R369). A device that has failed, or whose start has stopped, starts none (20 R435, 23 R494). -/
def mayStart (s : State) (r : JRec) : Bool :=
  r.stage == 1 && s.ras.state == 0 &&
  s.hst.journal.all fun x =>
    x.q != r.q || decide (r.seq ≤ x.seq) || (if r.flags.testBit 2 then x.stage == 3 else decide (2 ≤ x.stage))

/-- Starts the command of a record, if it carries the opcode and may start, with the effect `f`; otherwise nothing
happens (log 8). -/
def withCmd (s : State) (q seq opcode : Nat) (f : JRec → State → State) : State :=
  match findRec s q seq with
  | none => s
  | some r =>
    if r.opcode = opcode ∧ mayStart s r then f r (modRec s q seq fun x => { x with stage := 2 })
    else s

/-- The tick whose seam applies a write that lands now (R49). -/
def applyTick (s : State) : Nat := if s.tkp.beat ≤ 1233 then s.tkp.now + 1 else s.tkp.now + 2

/-- An RWT write that has landed now is the most recent one (03 R51). -/
def landed (s : State) : State := { s with tkp := { s.tkp with rwtApply := applyTick s } }

/-- The tick that the applying seam of a seam-bound command opens (R503, R358 AT_TICK). -/
def seamTick (s : State) (r : JRec) : Nat := r.tickArg.getD (applyTick s)

/-- Puts a seam-bound command that passed its checks after acceptance behind those that wait (R503, R358 AT_TICK). -/
def queueSeam (s : State) (r : JRec) : State :=
  { s with tkp := { s.tkp with seamQ := s.tkp.seamQ ++ [⟨r.q, r.seq, seamTick s r, false⟩] } }

/-- A seam-bound command: its field checks decide at once, and otherwise it waits for its seam; TICK of its completion names the tick that
the applying seam opens (R503). -/
def withSeamCmd (s : State) (q seq opcode : Nat) (check : JRec → State → Nat) : State :=
  withCmd s q seq opcode fun r s' =>
    let st := check r s'
    if st = stOk then queueSeam s' r else finishAt s' q seq st 0 (seamTick s' r)

/-! ### Recovery report -/

/-- The queues that have had journalled records: queue, PASID + 1 or 0, in rising order (log 12). -/
def reportQueues (s : State) : List (Nat × Nat) :=
  (s.hst.accSeq.filter fun x => decide (x.2 ≠ 0)).map fun x => (x.1, NMap.getD s.hst.qPasid x.1 0)

/-- The recovery report (R372). -/
def reportOf (s : State) (cause : Nat) (lost fromMirror : Bool) : List Byte :=
  let qs := if lost then [] else reportQueues s
  leBytes 4 0x50434552 ++ leBytes 2 1 ++ leBytes 1 cause ++ leBytes 1 (bit1 lost + 2 * bit1 fromMirror) ++
    leBytes 8 s.tkp.now ++ leBytes 2 qs.length ++ List.replicate 46 0 ++
    (qs.map fun x =>
      leBytes 2 x.1 ++ leBytes 2 0 ++ leBytes 4 (if x.2 = 0 then 0xFFFFFFFF else x.2 - 1) ++
        leBytes 8 (acceptedSeq s x.1) ++ leBytes 8 (doneSeqOf s x.1) ++ leBytes 8 (openRecs s x.1).length).flatten

/-- Builds the recovery report and latches attention class 3 (R372). -/
def buildReport (s : State) (cause : Nat) (lost : Bool) : State :=
  latchAttn { s with hst := { s.hst with report := true, reportBytes := reportOf s cause lost false } } 3

/-! ### Queues -/

/-- Removes a queue: its records are kept, but one that is not yet accepted; completions that its ring had no room for are held
until the queue is created again (R371), a DONE among them as one not yet written. -/
def dropQueue (s : State) (q : Nat) : State :=
  match NMap.find? s.hst.queues q with
  | none => s
  | some x =>
    let unwritten := fun (r : JRec) => r.q == q && r.stage == 3 && (match r.doneAt with | some n => decide (x.written ≤ n) | none => false)
    let again := fun (c : List Byte) => fieldAt c 10 1 == 2 && fieldAt c 11 1 / 2 % 2 == 0 &&
      s.hst.journal.any fun r => unwritten r && r.seq == fieldAt c 0 8
    { s with hst := { s.hst with
        queues := NMap.erase s.hst.queues q
        journal := (s.hst.journal.filter fun r => !(r.q == q && r.stage == 0)).map fun r => if unwritten r then { r with doneAt := none } else r
        kept := NMap.setD s.hst.kept [] q (x.heldC.filter fun c => !again c) } }

/-- Writes the parked results of a queue to their host addresses (18 R415). -/
def unpark (s : State) (q : Nat) : State :=
  let mine := s.hst.parked.filter fun p => p.q == q
  let s' := mine.foldl (fun x p => hostWrite x ((NMap.find? s.hst.queues q).bind Queue.pas) p.addr p.bytes) s
  { s' with hst := { s'.hst with parked := s'.hst.parked.filter fun p => p.q != q } }

/-- Writes again, with REPOST, each DONE completion of a recreated queue whose slot the driver's head had not passed,
and writes those that were held (R371). -/
def repostAll (s : State) (q : Nat) (pasid : Option Nat) : State :=
  (s.hst.journal.filter fun r => r.q == q && r.stage == 3 && r.pasid == pasid).foldl
    (fun x r => postDone x r r.doneAt.isSome) s

/-- Ends the commands that wait for room in the orphan area, as far as it has room again (18 R413). -/
def retryPark (s : State) : State :=
  s.hst.parkWait.foldl (fun x w => finishWith x w.1 w.2.1 w.2.2.1 w.2.2.2.1 w.2.2.2.2)
    { s with hst := { s.hst with parkWait := [] } }

/-- A queue pair comes into being, with RECOVER or without (R354, R355, R371, 18 R415). Its next expected sequence
number is 1, or ACCEPTED_SEQ + 1 with RECOVER. -/
def createQueue (s : State) (q : Nat) (x : Queue) (recover : Bool) : State :=
  let pas := x.pas
  let s0 : State := { s with hst := { s.hst with kept := NMap.erase s.hst.kept q } }
  let s1 := retryPark (unpark (setQueue s0 q x) q)
  if recover then repostAll ((NMap.getD s.hst.kept q []).foldl (fun y c => postCpl y q c) s1) q pas
  else
    { s1 with hst := { s1.hst with accSeq := NMap.insert s1.hst.accSeq q 0,
                                   journal := s1.hst.journal.filter fun r => r.q != q } }

/-! ### Failure of the device -/

/-- Ends every accepted command with a status (20 R435 step 3). -/
def finishAll (s : State) (p : JRec → Bool) (status : Nat) : State :=
  (s.hst.journal.filter fun r => (r.stage == 1 || r.stage == 2) && p r).foldl (fun x r => finish x r.q r.seq status 0) s

/-- The first tick after the current one whose plan is not sealed; the fuel is the ring's size. -/
def firstUnsealed (s : State) : Nat → Nat → Nat
  | 0, t => t
  | n + 1, t =>
    match NMap.find? s.tkp.plans (t % 16) with
    | some p => if p.tick = t ∧ p.state = .sealed then firstUnsealed s n (t + 1) else t
    | none => t

/-- Fences every Watric port (R332). -/
def fenceAll (s : State) : State :=
  (List.range 8).foldl (fun x p => portLeaves x p 3) s

/-- The device fails (20 R435): the critical event, FAILED with its cause, cells that go OFF with the first unsealed
tick, every accepted command DEVICE_FAULT, every Watric port fenced. A device that has failed stays as it is. -/
def deviceFail (s : State) (code source : Nat) (args : List Nat) : State :=
  if s.ras.state = 1 then s
  else
    let s1 := recordEvent s code source args
    let s2 : State := { s1 with ras := { s1.ras with state := 1, failCause := code,
                                                     goneOff := some (firstUnsealed s1 16 (s1.tkp.now + 1)) } }
    fenceAll (finishAll s2 (fun _ => true) stDeviceFault)

end Sys2Proof.Machine
end

