-- ==== Sys2Proof/Machine/Verify.lean ====
section
/-!
DEFINITION. What the SP does with a bundle: the identity of the device (21 R458, R459), the checks of a bundle in their order (R462) and
measurements (R466).
-/
namespace Sys2Proof.Machine

/-- Extends a measurement register with an item and logs it; `place` is the item's place in the order of R466. -/
def extendM (s : State) (reg place : Nat) (item : List Byte) : State :=
  let old := NMap.getD s.sec.m reg (List.replicate 64 0)
  let d := sha3_512 item
  { s with sec := { s.sec with m := NMap.insert s.sec.m reg (sha3_512 (old ++ d)),
                               mlog := if s.sec.mlog.length < 256 then s.sec.mlog ++ [(reg, Config.itemType reg place, d)] else s.sec.mlog } }

/-- Extends a register with items in turn, from a place on. -/
def extendAll (reg : Nat) : Nat → List (List Byte) → State → State
  | _, [], s => s
  | place, x :: xs, s => extendAll reg (place + 1) xs (extendM s reg place x)

/-- The 16 bytes "BQ-SM4824-ID-KDF" (R458 step 4). -/
def kdfLabel : List Byte :=
  [0x42, 0x51, 0x2D, 0x53, 0x4D, 0x34, 0x38, 0x32, 0x34, 0x2D, 0x49, 0x44, 0x2D, 0x4B, 0x44, 0x46]

/-- The identity that a bundle's device record gives: pk, sk and DEVICE_ID; none where no record has the PID, the correction fails, or
the certificate's key does not hash to DEVICE_ID (R458, R459). -/
def identityOf (s : State) (b : Bundle) : Option (List Byte × List Byte × List Byte) :=
  match b.devices.find? (fun (d : List Byte × List Byte × List Byte) => d.1 == s.sec.pid) with
  | none => none
  | some d =>
    match Config.pufCorrect s.sec.pufKey d.2.1 with
    | none => none
    | some kp =>
      let kk := Config.keyPair ((sha3_512 (kdfLabel ++ kp)).take 32)
      let id := (sha3_512 kk.1).take 32
      if (sha3_512 (Config.certKey d.2.2)).take 32 = id then some (kk.1, kk.2, id) else none

/-- The checks of R462 in their order; DEVICE_ID is that of the identity. -/
def bundleChecks (s : State) (b : Bundle) : List Bool :=
  let ident := identityOf s b
  let inScope : Bool := match ident with | some i => b.scope.isEmpty || b.scope.contains i.2.2 | none => false
  [ b.headerOk && b.formatOk,
    decide (sha3_512 b.rootKey = Config.rootHash),
    Config.signatureOk b.rootKey b.signerCert b.signerSig,
    ident.isSome,
    Config.signatureOk b.rootKey b.ownerCert b.ownerSigR && b.ownerOk,
    inScope,
    decide (b.minSvn ≤ b.svn),
    Config.signatureOk b.signerKey b.manifest b.vsig && Config.signatureOk b.ownerKey (b.manifest ++ b.vsig) b.osig,
    b.parts.all fun p => sha3_512 p.1 == p.2 ]

/-- The order number of the first check that fails, counted from 1. -/
def firstFail : Nat → List Bool → Option Nat
  | _, [] => none
  | n, c :: cs => if c then firstFail (n + 1) cs else some n

/-- The check of R462 that refuses a bundle, if any does. -/
def bundleFail (s : State) (b : Bundle) : Option Nat := firstFail 1 (bundleChecks s b)

/-- The status of a refusal. -/
def refusalStatus (b : Bundle) (order : Nat) : Nat := if order = 1 then (if b.headerOk then stVersion else stInvalid) else stDenied

/-- A bundle is refused: LAST_FAIL, the events, attention class 5; an identity that is not accepted reads FAIL (R459, R462). -/
def refuseBundle (s : State) (order : Nat) : State :=
  let s1 : State := { s with sec := { s.sec with lastFail := order, identityFail := s.sec.identityFail || order == 4,
                                                 identity := s.sec.identity && order != 4 } }
  let s2 := if order = 4 then recordEvent s1 0xA002 srcSp [] else s1
  latchAttn (recordEvent s2 0xA003 srcSp [order]) 5

/-! ### Fresh randomness (R457) -/

/-- `n` 64-bit words of the SP's DRBG, whose output the spec leaves open (log 42). -/
def freeWords : Nat → State → List Byte × State
  | 0, s => ([], s)
  | n + 1, s =>
    let f := s.takeFree
    let r := freeWords n f.2
    (leBytes 8 f.1.toNat ++ r.1, r.2)

/-- Two fresh 256-bit keys for a slice (R472). -/
def drawKeys (s : State) (slice : Nat) : State :=
  let f := freeWords 8 s
  { f.2 with sec := { f.2.sec with keys := NMap.insert f.2.sec.keys slice f.1 } }

/-- FLAGS.ENC_REQUIRED of the owner certificate asks for keys at the first SLICE_QUOTA of a slice (R472). -/
def firstQuotaKeys (s : State) (slice : Nat) : Bool :=
  s.sec.encRequired && !(NMap.getD s.slc.quotas slice {}).given && (NMap.find? s.sec.keys slice).isNone

end Sys2Proof.Machine
end

