-- ==== Sys2Proof/Machine/Float.lean ====
section
/-!
DEFINITION. Binary floating point as the lanes and the arrays use it: a value is a sign, a magnitude and a binary
exponent, every operation is exact on those, and one rounding to nearest with ties to even ends it (07 R143, 06 R135).
-/
namespace Sys2Proof.Machine

/-- The value of a floating-point datum: not a number, an infinity, or (−1)^neg × mag × 2^e. -/
inductive FVal where
  | nan
  | inf (neg : Bool)
  | fin (neg : Bool) (mag : Nat) (e : Int)
deriving DecidableEq, Repr

/-- The number of bits of a magnitude. -/
def bitLen (n : Nat) : Nat := if n = 0 then 0 else Nat.log2 n + 1

/-- A magnitude shifted right by k, rounded to nearest with ties to even; `sticky` says that the exact value lies
above the magnitude by less than one unit of it. -/
def shiftRne (mag k : Nat) (sticky : Bool) : Nat :=
  if k = 0 then mag
  else
    let q := mag / 2 ^ k
    let r := mag % 2 ^ k
    let half := 2 ^ (k - 1)
    if r > half ∨ (r = half ∧ (sticky ∨ q % 2 = 1)) then q + 1 else q

/-- The magnitude code (exponent and fraction fields, without sign or limit) nearest to mag × 2^e in a format of `m`
fraction bits and a bias, subnormals kept. An exponent far outside every format is cut before the shift. -/
def roundCode (m : Nat) (bias : Int) (mag : Nat) (e : Int) (sticky : Bool) : Nat :=
  if mag = 0 then 0
  else
    let top := e + (bitLen mag : Int)
    let emin : Int := 1 - bias - (m : Int)
    if top < emin - 2 then 0
    else
      let e' := max (top - ((m : Int) + 1)) emin
      let q := if e' ≤ e then mag * 2 ^ (e - e').toNat else shiftRne mag (e' - e).toNat sticky
      q + ((e' + (m : Int) + bias - 1).toNat) * 2 ^ m

/-- Fields of a floating-point code: sign, exponent field, fraction field. -/
def fpFields (ew m c : Nat) : Bool × Nat × Nat :=
  (decide (c / 2 ^ (ew + m) % 2 = 1), c / 2 ^ m % 2 ^ ew, c % 2 ^ m)

/-- The value of a code of an IEEE 754 format with infinities. -/
def ieeeVal (ew m : Nat) (bias : Int) (c : Nat) : FVal :=
  let f := fpFields ew m c
  if f.2.1 = 2 ^ ew - 1 then (if f.2.2 = 0 then .inf f.1 else .nan)
  else if f.2.1 = 0 then .fin f.1 f.2.2 (1 - bias - m)
  else .fin f.1 (2 ^ m + f.2.2) ((f.2.1 : Int) - bias - m)

/-- The value of a binary32 word. -/
def f32Val (x : W32) : FVal := ieeeVal 8 23 127 x.toNat

/-- The value of a BF16 code. -/
def bf16Val (x : W16) : FVal := ieeeVal 8 7 127 x.toNat

/-- The value of a binary16 code. -/
def f16Val (x : W16) : FVal := ieeeVal 5 10 15 x.toNat

/-- The canonical quiet NaN (R143). -/
def f32NaN : W32 := 0x7FC00000

/-- An infinity of binary32. -/
def f32Inf (neg : Bool) : W32 := if neg then 0xFF800000 else 0x7F800000

/-- A zero of binary32. -/
def f32Zero (neg : Bool) : W32 := if neg then 0x80000000 else 0

/-- (−1)^neg × mag × 2^e rounded once to binary32; overflow gives infinity (R143). -/
def f32Round (neg : Bool) (mag : Nat) (e : Int) (sticky : Bool := false) : W32 :=
  let c := min (roundCode 23 127 mag e sticky) 0x7F800000
  BitVec.ofNat 32 (c + (if neg then 2 ^ 31 else 0))

/-- A value as binary32. -/
def f32Of : FVal → W32
  | .nan => f32NaN
  | .inf n => f32Inf n
  | .fin n mag e => f32Round n mag e

/-- A value as BF16, NaN as 0x7FC0 (R155). -/
def bf16Of : FVal → W16
  | .nan => 0x7FC0
  | .inf n => if n then 0xFF80 else 0x7F80
  | .fin n mag e => BitVec.ofNat 16 (min (roundCode 7 127 mag e false) 0x7F80 + (if n then 2 ^ 15 else 0))

/-- A value as binary16, overflowing to infinity; NaN as 0x7E00 (R155). -/
def f16Of : FVal → W16
  | .nan => 0x7E00
  | .inf n => if n then 0xFC00 else 0x7C00
  | .fin n mag e => BitVec.ofNat 16 (min (roundCode 10 15 mag e false) 0x7C00 + (if n then 2 ^ 15 else 0))

/-- An integer times 2^e, as sign and magnitude. -/
def finOfInt (v : Int) (e : Int) : FVal := .fin (decide (v < 0)) v.natAbs e

/-- A signed significand. -/
def sgn (neg : Bool) (mag : Nat) : Int := if neg then -(mag : Int) else (mag : Int)

/-- The exact sum of two finite values as an integer over the smaller exponent. -/
def addExact (n1 : Bool) (m1 : Nat) (e1 : Int) (n2 : Bool) (m2 : Nat) (e2 : Int) : Int × Int :=
  let e := min e1 e2
  (sgn n1 m1 * 2 ^ (e1 - e).toNat + sgn n2 m2 * 2 ^ (e2 - e).toNat, e)

/-- a + b before rounding, with the sign of an exact zero as IEEE 754 gives it for round to nearest. -/
def fvAdd : FVal → FVal → FVal
  | .nan, _ => .nan
  | _, .nan => .nan
  | .inf n, .inf k => if n = k then .inf n else .nan
  | .inf n, .fin _ _ _ => .inf n
  | .fin _ _ _, .inf n => .inf n
  | .fin n1 m1 e1, .fin n2 m2 e2 =>
    if m1 = 0 ∧ m2 = 0 then .fin (n1 && n2) 0 0
    else if m1 = 0 then .fin n2 m2 e2
    else if m2 = 0 then .fin n1 m1 e1
    else
      let s := addExact n1 m1 e1 n2 m2 e2
      finOfInt s.1 s.2

/-- The negation of a value. -/
def fvNeg : FVal → FVal
  | .nan => .nan
  | .inf n => .inf (!n)
  | .fin n m e => .fin (!n) m e

/-- a × b before rounding. -/
def fvMul : FVal → FVal → FVal
  | .nan, _ => .nan
  | _, .nan => .nan
  | .inf n, .inf k => .inf (n ^^ k)
  | .inf n, .fin k m _ => if m = 0 then .nan else .inf (n ^^ k)
  | .fin k m _, .inf n => if m = 0 then .nan else .inf (n ^^ k)
  | .fin n1 m1 e1, .fin n2 m2 e2 => .fin (n1 ^^ n2) (m1 * m2) (e1 + e2)

/-- The order of two values that are not NaN, +0 and −0 equal: less than. -/
def fvLt : FVal → FVal → Bool
  | .nan, _ => false
  | _, .nan => false
  | .inf n, .inf k => n && !k
  | .inf n, .fin _ _ _ => n
  | .fin _ _ _, .inf n => !n
  | .fin n1 m1 e1, .fin n2 m2 e2 => decide ((addExact n1 m1 e1 (!n2) m2 e2).1 < 0)

/-- Equality of two values that are not NaN, +0 and −0 equal. -/
def fvEq : FVal → FVal → Bool
  | .nan, _ => false
  | _, .nan => false
  | .inf n, .inf k => n == k
  | .inf _, .fin _ _ _ => false
  | .fin _ _ _, .inf _ => false
  | .fin n1 m1 e1, .fin n2 m2 e2 => decide ((addExact n1 m1 e1 (!n2) m2 e2).1 = 0)

/-- The sign bit of a binary32 word. -/
def f32Neg (x : W32) : Bool := x.msb

/-- a + b on binary32 (R148 FADD). -/
def f32Add (a b : W32) : W32 := f32Of (fvAdd (f32Val a) (f32Val b))
/-- a − b on binary32 (FSUB). -/
def f32Sub (a b : W32) : W32 := f32Of (fvAdd (f32Val a) (fvNeg (f32Val b)))
/-- a × b on binary32 (FMUL). -/
def f32Mul (a b : W32) : W32 := f32Of (fvMul (f32Val a) (f32Val b))
/-- a × b + c with one rounding (FMA). -/
def f32Fma (a b c : W32) : W32 := f32Of (fvAdd (fvMul (f32Val a) (f32Val b)) (f32Val c))
/-- c − a × b with one rounding (FNMA). -/
def f32Fnma (a b c : W32) : W32 := f32Of (fvAdd (f32Val c) (fvNeg (fvMul (f32Val a) (f32Val b))))

/-- minimum of IEEE 754-2019: NaN if either operand is NaN, −0 below +0 (R143). -/
def f32Min (a b : W32) : W32 :=
  if f32Val a = .nan ∨ f32Val b = .nan then f32NaN
  else if fvLt (f32Val a) (f32Val b) then a
  else if fvLt (f32Val b) (f32Val a) then b
  else if f32Neg a then a else b

/-- maximum of IEEE 754-2019 (R143). -/
def f32Max (a b : W32) : W32 :=
  if f32Val a = .nan ∨ f32Val b = .nan then f32NaN
  else if fvLt (f32Val a) (f32Val b) then b
  else if fvLt (f32Val b) (f32Val a) then a
  else if f32Neg a then b else a

/-- A comparison result (R143). -/
def mask32 (p : Bool) : W32 := if p then 0xFFFFFFFF else 0

/-- mag × 2^e as the nearest integer, ties to even. -/
def roundInt (neg : Bool) (mag : Nat) (e : Int) : Int :=
  if 0 ≤ e then sgn neg (mag * 2 ^ (min e.toNat 512))
  else sgn neg (if bitLen mag + 2 < (-e).toNat then 0 else shiftRne mag (-e).toNat false)

/-- An integer clamped to a range. -/
def clampInt (v lo hi : Int) : Int := max lo (min v hi)

/-- FCVTI: rounded to nearest even as INT32, saturated; NaN gives 0 (R148). -/
def f32ToInt (x : W32) : W32 :=
  match f32Val x with
  | .nan => 0
  | .inf n => if n then 0x80000000 else 0x7FFFFFFF
  | .fin n m e => BitVec.ofInt 32 (clampInt (roundInt n m e) (-2147483648) 2147483647)

/-- ICVTF: INT32 as binary32, rounded to nearest even. -/
def f32OfInt (x : W32) : W32 := f32Of (finOfInt x.toInt 0)

/-- FSCL: a × 2^b, one rounding; a count beyond ±1,024 acts as ±1,024, which every finite nonzero a takes beyond the
range. -/
def f32Scale (a b : W32) : W32 :=
  match f32Val a with
  | .nan => f32NaN
  | .inf n => f32Inf n
  | .fin n m e => f32Round n m (e + clampInt b.toInt (-1024) 1024)

/-- EXPX: floor(log2 |a|), zero −150, infinity or NaN 128 (R150). -/
def f32Expx (a : W32) : Int :=
  match f32Val a with
  | .nan => 128
  | .inf _ => 128
  | .fin _ m e => if m = 0 then -150 else e + (bitLen m : Int) - 1

/-! ### Special functions (R151)

Each result is the binary32 nearest to the exact mathematical value. RCP and RSQRT are decided by exact integer
arithmetic. EXP2 and LOG2 are evaluated in fixed point with 224 fraction bits, whose error is below 2^-200; no value of
either function at a binary32 argument lies that near to a rounding boundary without being exact (DEDUCED, log 7). -/

/-- Fraction bits of the fixed-point evaluation. -/
def fxBits : Nat := 224

/-- ln 2 in fixed point: the sum of 1/(k 2^k). -/
def fxLn2 : Nat := (List.range 240).foldl (fun acc i => acc + 2 ^ fxBits / ((i + 1) * 2 ^ (i + 1))) 0

/-- The exponential series of y in [0, 1) in fixed point. -/
def fxExp (y : Nat) : Nat :=
  ((List.range 60).foldl (fun (st : Nat × Nat) i =>
    let t := st.2 * y / 2 ^ fxBits / (i + 1)
    (st.1 + t, t)) (2 ^ fxBits, 2 ^ fxBits)).1

/-- The natural logarithm of (mag / 2^k) in [1, 2) in fixed point, by 2 atanh((x − 1)/(x + 1)). -/
def fxLn (mag k : Nat) : Nat :=
  let z := (mag - 2 ^ k) * 2 ^ fxBits / (mag + 2 ^ k)
  let z2 := z * z / 2 ^ fxBits
  2 * ((List.range 72).foldl (fun (st : Nat × Nat) i => (st.1 + st.2 / (2 * i + 1), st.2 * z2 / 2 ^ fxBits)) (0, z)).1

/-- EXP2 (R151). -/
def f32Exp2 (x : W32) : W32 :=
  match f32Val x with
  | .nan => f32NaN
  | .inf n => if n then 0 else f32Inf false
  | .fin n m e =>
    if m = 0 then 0x3F800000
    else if 8 ≤ e + (bitLen m : Int) - 1 then (if n then 0 else f32Inf false)
    else
      let fx : Int := sgn n (if 0 ≤ e then m * 2 ^ e.toNat * 2 ^ fxBits else m * 2 ^ fxBits / 2 ^ (-e).toNat)
      let i := fx / (2 ^ fxBits : Int)
      let f := (fx % (2 ^ fxBits : Int)).toNat
      f32Round false (fxExp (f * fxLn2 / 2 ^ fxBits)) (i - fxBits) (f ≠ 0)

/-- LOG2 (R151). -/
def f32Log2 (x : W32) : W32 :=
  match f32Val x with
  | .nan => f32NaN
  | .inf n => if n then f32NaN else f32Inf false
  | .fin n m e =>
    if m = 0 then f32Inf true
    else if n then f32NaN
    else
      let k := bitLen m - 1
      let l : Int := (e + k) * (2 ^ fxBits : Int) + (fxLn m k * 2 ^ fxBits / fxLn2 : Nat)
      if l = 0 then 0 else f32Of (finOfInt l (-(fxBits : Int)))

/-- RCP (R151): the quotient 2^80 / m with its remainder as the sticky part. -/
def f32Rcp (x : W32) : W32 :=
  match f32Val x with
  | .nan => f32NaN
  | .inf n => f32Zero n
  | .fin n m e =>
    if m = 0 then f32Inf n
    else f32Round n (2 ^ 80 / m) (-80 - e) (2 ^ 80 % m ≠ 0)

/-- The integer square root, by bits from the top: the fuel is the number of result bits. -/
def isqrtGo : Nat → Nat → Nat → Nat
  | 0, _, r => r
  | k + 1, n, r => if (r + 2 ^ k) * (r + 2 ^ k) ≤ n then isqrtGo k n (r + 2 ^ k) else isqrtGo k n r

/-- The integer square root of a number below 2^200. -/
def isqrt (n : Nat) : Nat := isqrtGo 100 n 0

/-- RSQRT (R151): the root of 2^120 / m with an even exponent. -/
def f32Rsqrt (x : W32) : W32 :=
  match f32Val x with
  | .nan => f32NaN
  | .inf n => if n then f32NaN else 0
  | .fin n m e =>
    if m = 0 then f32Inf n
    else if n then f32NaN
    else
      let me := if e % 2 = 0 then (m, e) else (2 * m, e - 1)
      let r := isqrt (2 ^ 120 / me.1)
      f32Round false r (-60 - me.2 / 2) (decide (r * r * me.1 ≠ 2 ^ 120))

end Sys2Proof.Machine
end

