-- ==== Sys2Proof/Machine/Formats.lean ====
section
/-!
DEFINITION. The element formats of the arrays (06 R120 to R124), rounding into them (R135, R136), and the alignment of
BF16 operands (R133).
-/
namespace Sys2Proof.Machine

/-- A small float format: exponent width, fraction width, bias, largest finite magnitude code. -/
structure MiniFmt where
  ew : Nat
  m : Nat
  bias : Int
  maxCode : Nat
deriving DecidableEq, Repr

/-- The float format of an FMT code of R95, plain or MX; none for the integer formats and BF16. -/
def miniFmt (fmt : Nat) : Option MiniFmt :=
  match fmt with
  | 0x0 => some ⟨4, 3, 7, 0x7E⟩
  | 0x9 => some ⟨4, 3, 7, 0x7E⟩
  | 0x1 => some ⟨5, 2, 15, 0x7B⟩
  | 0xA => some ⟨5, 2, 15, 0x7B⟩
  | 0x2 => some ⟨2, 3, 1, 0x1F⟩
  | 0xB => some ⟨2, 3, 1, 0x1F⟩
  | 0x3 => some ⟨3, 2, 3, 0x1F⟩
  | 0xC => some ⟨3, 2, 3, 0x1F⟩
  | 0x4 => some ⟨2, 1, 1, 0x7⟩
  | 0xD => some ⟨2, 1, 1, 0x7⟩
  | _ => none

/-- Whether an FMT code is an MX format. -/
def isMx (fmt : Nat) : Bool := decide (0x9 ≤ fmt ∧ fmt ≤ 0xE)
/-- Whether an FMT code is one of the three BF16 passes. -/
def isBf16 (fmt : Nat) : Bool := decide (0x6 ≤ fmt ∧ fmt ≤ 0x8)
/-- Whether an FMT code is FP4: two terms per cell. -/
def isFp4 (fmt : Nat) : Bool := fmt == 0x4 || fmt == 0xD
/-- Whether an FMT code is FP6. -/
def isFp6 (fmt : Nat) : Bool := fmt == 0x2 || fmt == 0x3 || fmt == 0xB || fmt == 0xC
/-- The format that the codes of R96 count as: the three BF16 passes are one. -/
def fmtClass (fmt : Nat) : Nat := if isBf16 fmt then 0x6 else fmt
/-- K values of one instruction (R95). -/
def kOf (fmt : Nat) : Nat := if isFp4 fmt then 128 else 64

/-- An element as the array takes it: a signed significand, its exponent t, and whether it poisons (R121, R122). -/
structure Elem where
  i : Int
  t : Int
  bad : Bool
deriving DecidableEq, Repr

/-- A finite element of a small float format, or a poisoning one (R120, R121). The significand and exponent of a poisoning one are those of its
code taken as if it were finite, so that its term may set SAT; R121 defines them for finite elements only (DESIGN CHOICE, log 114). -/
def miniElem (f : MiniFmt) (special : Bool) (c : Nat) : Elem :=
  let x := fpFields f.ew f.m c
  let mag := if x.2.1 = 0 then x.2.2 else 2 ^ f.m + x.2.2
  ⟨sgn x.1 mag, max (x.2.1 : Int) 1 - f.bias - f.m, special⟩

/-- The element of a code in a format that is not BF16 (R120, R121). -/
def elemOf (fmt c : Nat) : Elem :=
  match miniFmt fmt with
  | some f =>
    let special := (f.ew == 4 && c % 128 == 0x7F) || (f.ew == 5 && decide (0x7C ≤ c % 128))
    miniElem f special c
  | none =>
    let v := (BitVec.ofNat 8 c).toInt
    ⟨v, if fmt = 0xE then -6 else 0, false⟩

/-- A byte of an aligned BF16 significand, signed or unsigned by its pass (R96, R133). -/
def bfByte (signed : Bool) (b : Byte) : Elem := ⟨if signed then b.toInt else (b.toNat : Int), 0, false⟩

/-- τ_min of a format (R121, R133). -/
def tauMin (fmt : Nat) : Int :=
  match miniFmt fmt with
  | some f => 2 * (1 - f.bias - f.m)
  | none => if isBf16 fmt then -28 else if fmt = 0xE then -12 else 0

/-- The default anchor A0 = τ_min + 32 (R121). -/
def anchor0 (fmt : Nat) : Int := tauMin fmt + 32

/-- The weight exponent of a BF16 pass (R133). -/
def passWeight (fmt : Nat) : Int := if fmt = 0x6 then 16 else if fmt = 0x7 then 8 else 0

/-! ### Rounding into the formats (R135, R136) -/

/-- (−1)^neg × mag × 2^e in a small float format, to nearest even, saturated at the largest finite value. -/
def miniRound (f : MiniFmt) (neg : Bool) (mag : Nat) (e : Int) : Nat :=
  min (roundCode f.m f.bias mag e false) f.maxCode + (if neg then 2 ^ (f.ew + f.m) else 0)

/-- floor(log2) of a nonzero magnitude times 2^e. -/
def floorLog2 (mag : Nat) (e : Int) : Int := e + (bitLen mag : Int) - 1

/-- emax_F of R136. -/
def emaxF (fmt : Nat) : Int :=
  match fmt with
  | 0x9 => 8
  | 0xA => 15
  | 0xB => 2
  | 0xC => 4
  | 0xD => 2
  | _ => 0

/-- The scale byte and the element codes of one group of an MX format (R136). -/
def mxGroup (fmt : Nat) (vs : List FVal) : Nat × List Nat :=
  if vs.any (fun v => match v with | .fin _ _ _ => false | _ => true) then (0xFF, vs.map fun _ => 0)
  else
    let logs := vs.filterMap fun v => match v with
      | .fin _ m e => if m = 0 then none else some (floorLog2 m e)
      | _ => none
    match logs with
    | [] => (0, vs.map fun _ => 0)
    | x :: xs =>
      let s := clampInt (xs.foldl max x - emaxF fmt) (-127) 127
      let code := fun v => match v with
        | .fin n m e =>
          match miniFmt fmt with
          | some f => miniRound f n m (e - s)
          | none => (BitVec.ofInt 8 (clampInt (roundInt n m (e + 6 - s)) (-128) 127)).toNat
        | _ => 0
      ((s + 127).toNat, vs.map code)

/-- Cuts a row into groups of 32 values; the fuel is the number of groups. -/
def groups32 {α : Type} : Nat → List α → List (List α)
  | 0, _ => []
  | n + 1, xs => if xs.isEmpty then [] else xs.take 32 :: groups32 n (xs.drop 32)

/-- A row in an MX format: its scale bytes and its element codes. -/
def mxRow (fmt : Nat) (vs : List FVal) : List Nat × List Nat :=
  let gs := (groups32 8 vs).map (mxGroup fmt)
  (gs.map (·.1), (gs.map (·.2)).flatten)

/-! ### BF16 by block alignment (R133) -/

/-- The strip byte and the 16-bit aligned significands of one group of BF16 codes; those of a group with an infinity or a NaN are free. -/
def bfAlign (cs : List Nat) : Nat × List Nat :=
  let fs := cs.map fun c => fpFields 8 7 c
  if fs.any (fun f => f.2.1 == 255) then (0xFF, (List.range cs.length).map fun i => (Config.bfSpecial cs).getD i 0 % 2 ^ 16)
  else
    let nz := (fs.filter fun f => f.2.1 ≠ 0 ∨ f.2.2 ≠ 0).map fun f => max (f.2.1 : Int) 1 - 127
    match nz with
    | [] => (0, cs.map fun _ => 0)
    | x :: xs =>
      let eg := xs.foldl max x
      let al := fun (f : Bool × Nat × Nat) =>
        let sig := if f.2.1 = 0 then f.2.2 else 128 + f.2.2
        let sh := 7 + (max (f.2.1 : Int) 1 - 127) - eg
        let mag := if 0 ≤ sh then sig * 2 ^ sh.toNat else sig / 2 ^ (-sh).toNat
        (BitVec.ofInt 16 (sgn f.1 mag)).toNat
      ((eg + 127).toNat, fs.map al)

/-- The strip byte of R105 for a group of a plain float format: the largest unbiased element exponent plus 127, or 0 for
a group of zeros. A subnormal counts with the least exponent of its format. -/
def plainStrip (fmt : Nat) (cs : List Nat) : Nat :=
  match miniFmt fmt with
  | none => 0x7F
  | some f =>
    let es := cs.filterMap fun c =>
      let x := fpFields f.ew f.m c
      if x.2.1 = 0 ∧ x.2.2 = 0 then none else some (max (x.2.1 : Int) 1 - f.bias)
    match es with
    | [] => 0
    | x :: xs => (xs.foldl max x + 127).toNat

end Sys2Proof.Machine
end

