-- ==== Sys2Proof/Machine/ArrayOps.lean ====
section
/-!
DEFINITION. The arithmetic of the matrix arrays and what of it is in flight (05 R96 to R119, 06 R122 to R140): column sums and
their residues, anvils, output rows, exchange values, the feeders' reads of operand blocks, and the rows of an MMA as they
reach their anvils.
-/
namespace Sys2Proof.Machine

/-! ### Bytes of a tile -/

/-- Address bits of X and Y memory. -/
def xyBits (a : Nat) : Nat := a % 2 ^ 17
/-- Address bits of the tile store. -/
def storeBits (a : Nat) : Nat := a % 2 ^ 21

/-- A byte of the slot's data memory. -/
def Tile.xyByte (x : Tile) (y : Bool) (a : Nat) : Byte := NMap.getD (if y then x.y else x.x) (xyBits a) 0
/-- A byte of the tile store. -/
def Tile.stByte (x : Tile) (a : Nat) : Byte := NMap.getD x.st (storeBits a) 0

/-- `n` bytes from an address upward, through a byte read. -/
def bytesAt (rd : Nat → Byte) (a n : Nat) : List Byte := (List.range n).map fun i => rd (a + i)

/-- Bytes written into a tile memory. -/
def putBytes (m : NMap Byte) (bytes : List (Nat × Byte)) : NMap Byte := bytes.foldl (fun m b => NMap.setD m 0 b.1 b.2) m

/-! ### Blocks, strips and arrays -/

def Tile.getArr (x : Tile) (a : Nat) : ArrayUnit := if a = 0 then x.ar0 else x.ar1
def Tile.setArr (x : Tile) (a : Nat) (u : ArrayUnit) : Tile := if a = 0 then { x with ar0 := u } else { x with ar1 := u }

/-- The 4,096 bytes of a block. -/
def Tile.block (x : Tile) (i : Nat) : List Byte := bytesAt x.stByte (4096 * (i % 512)) 4096

/-- Address of a byte of a block's strip (R105). -/
def stripAddr (i k : Nat) : Nat := 0x1E0000 + 256 * i + k

/-- A byte of a block's strip; 0x7F for a block index of 480 or above (R105). -/
def Tile.stripByte (x : Tile) (i k : Nat) : Byte := if i < 480 then x.stByte (stripAddr i k) else 0x7F

/-- The 256 bytes of a block's strip. -/
def Tile.strip (x : Tile) (i : Nat) : List Byte := (List.range 256).map (x.stripByte i)

/-- The block whose strip an operand uses: an L block of BF16 uses the strip of its H block, which SKEWA and SKEWB write
at the index before it (R105, R107, R123, log 17). -/
def stripOf (isL : Bool) (i : Nat) : Nat := if isL then (i + 511) % 512 else i

/-- Whether the A operand of a pass holds L bytes, by the kind of the weight set (R96). -/
def aIsL (fmt : Nat) (bL : Bool) : Bool := fmt == 0x8 || (fmt == 0x7 && !bL)

def ArrayUnit.getSet (u : ArrayUnit) (i : Nat) : WSet := if i = 0 then u.set0 else u.set1

/-- Whether a set holds BF16 L bytes (R96). -/
def WSet.isL (w : WSet) : Bool := w.fmt == 0x7

/-- Gives a block new contents. -/
def ArrayUnit.putBlk (u : ArrayUnit) (b : Nat) (v : AccBlk) : ArrayUnit := { u with acc := NMap.insert u.acc b v }

/-- The block of an array. -/
def ArrayUnit.blk (u : ArrayUnit) (b : Nat) : AccBlk := NMap.getD u.acc b {}

/-! ### Terms and the window (R122 to R128) -/

/-- The element A[m][k] of an A block in rotated layout (R103). -/
def aByteAt (blk : List Byte) (m r : Nat) : Byte := blk.getD (64 * ((m + r) % 64) + r) 0
/-- The byte of logical row r and column n of a B block (R104). -/
def bByteAt (blk : List Byte) (n r : Nat) : Byte := blk.getD (64 * r + n) 0

/-- The code of K index k in the byte of its logical row: FP4 holds two (R103, R104). -/
def codeIn (fmt k : Nat) (b : Byte) : Nat :=
  if isFp4 fmt then (if k % 2 = 0 then b.toNat % 16 else b.toNat / 16)
  else if isFp6 fmt then b.toNat % 64 else b.toNat

/-- The logical row of a K index. -/
def rowOfK (fmt k : Nat) : Nat := if isFp4 fmt then k / 2 else k

/-- A scale or alignment exponent of a group, and whether it poisons; 0 for the plain formats (R123, R122). -/
def scaleOf (fmt : Nat) (b : Byte) : Int × Bool :=
  if isMx fmt ∨ isBf16 fmt then ((b.toNat : Int) - 127, b == 0xFF) else (0, false)

/-- What one output takes from an instruction: the sum in anvil units, whether a term saturated, whether it is poisoned; and
at the foot of its column the sum in window units, the residue path's sum, and the window's place above the anvil's unit
(05 R116, 06 R126, R128). -/
structure ColSum where
  sum : Int
  sat : Bool
  bad : Bool
  win : Int := 0
  res : Nat := 0
  up  : Nat := 0
deriving DecidableEq, Repr

/-- The residue that the residue path computes for a term from its operands and its alignment shift, or from the truncated
integer (05 R116, 06 R126). -/
def termResidue (neg : Bool) (p placed : Nat) (w tau : Int) : Nat :=
  let r := if w ≤ tau then p % 127 * 2 ^ ((tau - w).toNat % 7) % 127 else placed % 127
  if neg then (127 - r) % 127 else r

/-- Adds one term (R125, R126, R128): the product of two elements with its scale sum, placed in a window whose least bit
weighs 2^w and counted in units of 2^(a − 96). -/
def addTerm (w a : Int) (acc : ColSum) (x y : Elem) (tau : Int) (bad : Bool) : ColSum :=
  let p := (x.i * y.i).natAbs
  let neg := decide (x.i * y.i < 0)
  let placed := if w ≤ tau then p * 2 ^ (tau - w).toNat else p / 2 ^ (w - tau).toNat
  let v := placed * 2 ^ (w - (a - 96)).toNat
  let cap : Nat := 2 ^ 167 - 1
  let vc := if v > cap then cap else v
  { acc with sum := acc.sum + sgn neg vc, sat := acc.sat || decide (v > cap), bad := acc.bad || x.bad || y.bad || bad,
             win := acc.win + sgn neg placed, res := (acc.res + termResidue neg p placed w tau) % 127 }

/-- The residue of the 72-bit two's-complement column sum, as the foot computes it: bit 71 weighs −2^71, that is 125 (R116). -/
def footResidue (z : Int) : Nat :=
  let u := (z % 2 ^ 72).toNat
  (u % 2 ^ 71 + if 2 ^ 71 ≤ u then 125 else 0) % 127

/-- The A and B elements of K index k for the pass (R96, R121, R133); `bL` says that the weight set holds BF16 L
bytes. -/
def elemPair (fmt : Nat) (bL : Bool) (k : Nat) (ab bb : Byte) : Elem × Elem :=
  if fmt = 0x6 then (bfByte true ab, bfByte true bb)
  else if fmt = 0x8 then (bfByte false ab, bfByte false bb)
  else if fmt = 0x7 then (bfByte bL ab, bfByte (!bL) bb)
  else (elemOf fmt (codeIn fmt k ab), elemOf fmt (codeIn fmt k bb))

/-- The contribution of an instruction to output (m, n) at anchor `a` (R126, R128): `as` and `bs` give the bytes of the
logical rows, `sa` and `sb` the strip bytes of the K groups. -/
def mmaOut (fmt : Nat) (bL : Bool) (a : Int) (as bs sa sb : Nat → Byte) : ColSum :=
  let k := kOf fmt
  let qs := List.range (k / 32)
  let sum := fun q => (scaleOf fmt (sa q)).1 + (scaleOf fmt (sb q)).1
  let smax := (qs.map sum).foldl max (sum 0)
  let w := max (tauMin fmt + smax) (a - 96)
  (List.range k).foldl (fun acc i =>
    let r := rowOfK fmt i
    let q := i / 32
    let e := elemPair fmt bL i (as r) (bs r)
    let tau := if isBf16 fmt then sum q - 28 + passWeight fmt else e.1.t + e.2.t + sum q
    addTerm w a acc e.1 e.2 tau ((scaleOf fmt (sa q)).2 || (scaleOf fmt (sb q)).2)) { sum := 0, sat := false, bad := false, up := (w - (a - 96)).toNat }

/-! ### Anvils (R127 to R129) -/

/-- The largest magnitude of an anvil. -/
def anvilMax : Int := 2 ^ 191 - 1

/-- Output (m, n) of a block. -/
def AccBlk.get (b : AccBlk) (i : Nat) : Option Int := NMap.getD b.v i (some 0)

/-- Writes an anvil. -/
def AccBlk.set (b : AccBlk) (i : Nat) (v : Option Int) : AccBlk := { b with v := NMap.setD b.v (some 0) i v }

/-- Adds into an anvil: poison stays, a sum beyond the range takes the nearer limit and sets the flag (R128). -/
def AccBlk.add (b : AccBlk) (i : Nat) (v : Option Int) : AccBlk :=
  match b.get i, v with
  | some x, some y =>
    let z := clampInt (x + y) (-anvilMax) anvilMax
    { b.set i (some z) with sat := b.sat || decide (z ≠ x + y) }
  | _, _ => b.set i none

/-! ### Reads in flight (R99, R100, R102, R103, R113) -/

/-- p(k): the physical row that carries logical row k of an array whose ROW_MAP value is `ret` (R113). -/
def physRow (ret k : Nat) : Nat := if ret < 64 ∧ ret ≤ k then k + 1 else k

/-- The cycle in which the feeders of an MMA that issued at `c` read byte `o` of the A block: byte k of line j holds row
(j − k) mod 64 (R100, R103). -/
def readA (c ret o : Nat) : Nat :=
  let j := o / 64 % 64
  let k := o % 64
  c + 1 + (j + 64 - k) % 64 + physRow ret k

/-- The cycle in which a load that issued at `c` reads byte `o` of the B block: line k at c + 1 + p(k) (R99). -/
def readB (c ret o : Nat) : Nat := c + 1 + physRow ret (o / 64 % 64)

/-- The cycle in which byte `o` of the A strip is read: that of row o / 4 (log 15). -/
def readStripA (c o : Nat) : Nat := c + 1 + o / 4 % 64

/-- A copy of bytes of the tile store that is read byte by byte, after a store that is seen from cycle `v` on: a byte that is
read in cycle `v` or later is the new one (R102). -/
def feedStore (base : Nat) (rd : Nat → Nat) (v : Nat) (bytes : List (Nat × Byte)) (blk : List Byte) : List Byte :=
  bytes.foldl (fun l b => if base ≤ b.1 ∧ v ≤ rd (b.1 - base) then l.set (b.1 - base) b.2 else l) blk

/-- A strip that is read as a copy: a block index of 480 or above has none (R105). -/
def feedStrip (i : Nat) (rd : Nat → Nat) (v : Nat) (bytes : List (Nat × Byte)) (str : List Byte) : List Byte :=
  if i < 480 then feedStore (stripAddr i 0) rd v bytes str else str

/-- A weight set while its load is reading (R99). -/
def WSet.feed (w : WSet) (v : Nat) (bytes : List (Nat × Byte)) : WSet :=
  { w with block := feedStore (4096 * w.base) (readB w.cyc w.ret) v bytes w.block,
           strip := feedStrip (stripOf (w.fmt == 0x7) w.base) (fun _ => w.cyc + 1) v bytes w.strip }

/-- An MMA while its feeders are reading (R100). -/
def Flight.feed (f : Flight) (v : Nat) (bytes : List (Nat × Byte)) : Flight :=
  { f with block := feedStore (4096 * f.base) (readA f.cyc f.ret) v bytes f.block,
           strip := feedStrip (stripOf (aIsL f.fmt f.w.isL) f.base) (readStripA f.cyc) v bytes f.strip,
           w := f.w.feed v bytes }

/-- An array as a store into the tile store finds it. -/
def ArrayUnit.feed (u : ArrayUnit) (v : Nat) (bytes : List (Nat × Byte)) : ArrayUnit :=
  { u with set0 := u.set0.feed v bytes, set1 := u.set1.feed v bytes, flights := u.flights.map fun f => f.feed v bytes }

/-- A store into the tile store that is seen from cycle `v` on. -/
def Tile.stored (x : Tile) (v : Nat) (bytes : List (Nat × Byte)) : Tile :=
  { x with st := putBytes x.st bytes, ar0 := x.ar0.feed v bytes, ar1 := x.ar1.feed v bytes }

/-! ### The rows of an MMA (R100, R112, R116 to R119, 06 R126 to R129) -/

/-- The MMA in flight that issued at a cycle. -/
def ArrayUnit.flight (u : ArrayUnit) (c : Nat) : Option Flight := u.flights.find? fun f => f.cyc == c

/-- What output (m, n) takes from an MMA into a block with an anchor: zero for an absent row (R112). -/
def Flight.colSum (f : Flight) (anchor : Int) (m n : Nat) : ColSum :=
  if f.mask.getLsbD m then
    mmaOut f.fmt f.w.isL anchor (aByteAt f.block m) (bByteAt f.w.block n) (fun q => f.strip.getD (4 * m + q) 0x7F)
      (fun q => f.w.strip.getD (4 * n + q) 0x7F)
  else { sum := 0, sat := false, bad := false }

/-- The anchor that a block has for an MMA: A0 of the format when it is cleared (06 R129). -/
def Flight.anchor (f : Flight) (b : AccBlk) : Int := if f.clr then anchor0 f.fmt else b.anchor

/-- The error that strikes output (m, n), if one does. -/
def Flight.errAt (f : Flight) (m n : Nat) : Option ColErr := f.err.filter fun e => e.row == m && e.col == n

/-- Column sum and residue path disagree at the foot: an error in the column sum of a value that is no multiple of 127, or one
in the residue path (R116, R117). -/
def footMismatch (c : ColSum) (e : ColErr) : Bool :=
  match e.place with
  | .sum => footResidue (c.win + e.value) != c.res
  | .path => (footResidue c.win : Int) != ((c.res : Int) + e.value) % 127
  | .anvil => false

/-- The two results of an anvil add disagree (R118). -/
def addMismatch (e : ColErr) : Bool := e.place == .anvil && decide (e.value ≠ 0)

/-- The cycle at which an MMA's error shows, if it does: at the foot in c + 67 + m, at the anvil add in c + 73 + m (R100, R119). -/
def Flight.mismatchAt (f : Flight) (b : AccBlk) : Option Nat :=
  match f.err with
  | none => none
  | some e =>
    if footMismatch (f.colSum (f.anchor b) e.row e.col) e then some (f.cyc + 67 + e.row)
    else if addMismatch e then some (f.cyc + 73 + e.row)
    else none

/-- Row m of an MMA reaches the anvils of its block (06 R128): an error that the check does not see is in the sum. -/
def Flight.intoRow (f : Flight) (b : AccBlk) (m : Nat) : AccBlk :=
  (List.range 64).foldl (fun acc n =>
    let c := f.colSum acc.anchor m n
    let extra : Int := match f.errAt m n with | some e => if e.place = .sum then e.value * 2 ^ c.up else 0 | none => 0
    if !f.mask.getLsbD m ∧ extra = 0 then acc
    else ({ acc with sat := acc.sat || c.sat } : AccBlk).add (64 * m + n) (if c.bad then none else some (c.sum + extra))) b

/-- Row m of the MMA that issued at cycle `c` on an array lands; with row 0 a block that is to be cleared is, and with row 63
the MMA is over (R100, 06 R129). -/
def ArrayUnit.mmaRow (u : ArrayUnit) (c m : Nat) : ArrayUnit :=
  match u.flight c with
  | none => u
  | some f =>
    let b0 := u.blk f.acc
    let b1 : AccBlk := if m = 0 ∧ f.clr then { anchor := anchor0 f.fmt, sat := false, v := [] } else b0
    let u1 := u.putBlk f.acc (f.intoRow b1 m)
    if m = 63 then { u1 with flights := u1.flights.filter fun g => g.cyc != c } else u1

/-- The check of an MMA's row at the foot or at its anvils: a mismatch is noted with its cycle, array, column, row and bundle
(R116 to R119). -/
def Tile.checkRow (x : Tile) (arr c : Nat) : Tile :=
  let u := x.getArr arr
  match u.flight c with
  | none => x
  | some f =>
    match f.mismatchAt (u.blk f.acc), f.err with
    | some k, some e => { x with miss := x.miss.orElse fun _ => some (k, arr, e.col, e.row, f.pc) }
    | _, _ => x

/-! ### Output rows (R98, R135, R136) -/

/-- An anvil as a value. -/
def anvilVal (a : Int) : Option Int → FVal
  | none => .nan
  | some v => finOfInt v (a - 96)

/-- The bytes of one output row in a format of ROUT, and its strip bytes for an MX format. -/
def routRow (fmt : Nat) (vs : List FVal) : List Byte × Option (List Byte) :=
  let fp8 := fun (f : MiniFmt) (v : FVal) => match v with
    | .fin n m e => BitVec.ofNat 8 (miniRound f n m e)
    | _ => 0x7F
  let mx := fun (k : Nat) =>
    let r := mxRow k vs
    (r.2.map (BitVec.ofNat 8 ·), some ((r.1.map (BitVec.ofNat 8 ·)) ++ [0, 0]))
  match fmt with
  | 0x0 => ((vs.map fun v => leBytes 4 (f32Of v).toNat).flatten, none)
  | 0x1 => ((vs.map fun v => leBytes 2 (bf16Of v).toNat).flatten, none)
  | 0x2 => (vs.map (fp8 ⟨4, 3, 7, 0x7E⟩), none)
  | 0x3 => (vs.map (fp8 ⟨5, 2, 15, 0x7B⟩), none)
  | 0x4 => mx 0x9
  | _ => mx 0xA

/-- The bytes of an output row, by tile-store address: rows are written row-major from the first output block. -/
def routBytes (fmt i : Nat) (b : AccBlk) (m : Nat) : List (Nat × Byte) :=
  let vs := (List.range 64).map fun n => anvilVal b.anchor (b.get (64 * m + n))
  let r := routRow fmt vs
  let data := List.zipWith (fun k v => (storeBits (4096 * i + r.1.length * m + k), v)) (List.range r.1.length) r.1
  match r.2 with
  | some sc => if i < 480 then data ++ List.zipWith (fun k v => (stripAddr i (4 * m + k), v)) (List.range 4) sc else data
  | none => data

/-! ### Exchange values (R138 to R140) -/

/-- The 24 bytes of an anvil; the poison code has only bit 191 set (R127, R138). -/
def anvilBytes : Option Int → List Byte
  | none => leBytes 24 (2 ^ 191)
  | some v => leBytes 24 (v % (2 ^ 192 : Int)).toNat

/-- The anvil that 24 bytes hold. -/
def anvilOfBytes (bs : List Byte) : Option Int :=
  let v : Nat := leNat bs % 2 ^ 192
  if v = 2 ^ 191 then none else some (if 2 ^ 191 < v then (v : Int) - 2 ^ 192 else v)

/-- The exchange header of a block (R139). -/
def exchHeader (a : Int) (sat : Bool) : List Byte :=
  leBytes 4 0x4C564E41 ++ leBytes 2 (BitVec.ofInt 16 a).toNat ++ leBytes 1 (bit1 sat) ++ List.replicate 57 0

/-- The header of an exchange block passes its check (R140). -/
def exchOk (h : List Byte) : Bool :=
  let a := (BitVec.ofNat 16 (fieldAt h 4 2)).toInt
  fieldAt h 0 4 == 0x4C564E41 && decide (fieldAt h 6 1 < 4) && ((h.drop 7).take 57).all (· == 0) &&
    decide (-512 ≤ a ∧ a ≤ 511)

/-- A long value moved to another anchor: multiplied by 2^d, its magnitude truncated toward zero when d < 0; the flag
says that a nonzero bit was lost (R140). -/
def rescale (d : Int) (v : Int) : Int × Bool :=
  if 0 ≤ d then (v * 2 ^ d.toNat, false)
  else (sgn (decide (v < 0)) (v.natAbs / 2 ^ (-d).toNat), decide (v.natAbs % 2 ^ (-d).toNat ≠ 0))

/-- LIN into a block (R140): the header and a read of value k. -/
def linBlock (clr : Bool) (h : List Byte) (val : Nat → Option Int) (b : AccBlk) : AccBlk :=
  let a := (BitVec.ofNat 16 (fieldAt h 4 2)).toInt
  let sat := bitOf (fieldAt h 6 1) 0
  let zero := bitOf (fieldAt h 6 1) 1
  if !exchOk h then
    { anchor := if clr then 0 else b.anchor, sat := true, v := (List.range 4096).map fun k => (k, none) }
  else if clr then
    let b0 : AccBlk := { anchor := a, sat := sat, v := [] }
    if zero then b0 else (List.range 4096).foldl (fun acc k => acc.set k (val k)) b0
  else
    let b0 := { b with sat := b.sat || sat }
    if zero then b0
    else
      (List.range 4096).foldl (fun acc k =>
        match val k with
        | none => acc.add k none
        | some v =>
          let r := rescale (a - b.anchor) v
          let acc' := acc.add k (some r.1)
          { acc' with sat := acc'.sat || r.2 }) b0

/-- The bytes that a LOUT of a block writes from block index `i` on: the values in 24 consecutive blocks, the header in the first
block's strip (R98, R138, R139). -/
def loutBytes (i : Nat) (b : AccBlk) : List (Nat × Byte) :=
  let vals := ((List.range 4096).map fun k => anvilBytes (b.get k)).flatten
  let data := List.zipWith (fun k v => (storeBits (4096 * i + k), v)) (List.range vals.length) vals
  let hdr := exchHeader b.anchor b.sat
  data ++ (if i < 480 then List.zipWith (fun k v => (stripAddr i k, v)) (List.range 64) hdr else [])

end Sys2Proof.Machine
end

