-- ==== Sys2Proof/Machine/Stream.lean ====
section
/-!
DEFINITION. The overcast stream as it is stored at OVERCAST_PTR: its words, their action entries and the argument-set table, read from
bytes and written as bytes (04 R73, R74); steal-queue entries (04 R81).
-/
namespace Sys2Proof.Machine

/-- The action entry that a 64-bit word spells (R74); reserved bits are ignored (00 R7). -/
def entryOfWord (w : Nat) : Nat × Act :=
  (bitsOf w 7 0,
   match bitsOf w 9 8 with
   | 0 => .hold
   | 1 => .start (bitsOf w 25 16) (bitsOf w 47 32)
   | 2 => .openA
   | _ => .sync (bitsOf w 21 16) (bitsOf w 47 32))

/-- The 64-bit word of an action entry (R74). -/
def wordOfEntry (e : Nat × Act) : Nat :=
  e.1 + match e.2 with
    | .hold => 0
    | .start k a => 2 ^ 8 + 2 ^ 16 * k + 2 ^ 32 * a
    | .openA => 2 ^ 9
    | .sync c t => 2 ^ 8 + 2 ^ 9 + 2 ^ 16 * c + 2 ^ 32 * t

/-- The overcast word whose header stands at the head of a stream (R73). -/
def oword (bs : List Byte) : OWord :=
  { beat := bitsOf (fieldAt bs 0 8) 10 0,
    entries := (List.range (bitsOf (fieldAt bs 0 8) 23 16)).map fun i => entryOfWord (fieldAt bs (8 * (i + 1)) 8) }

/-- The bytes of an overcast word: the header with BEAT and COUNT, then the entries (R73). -/
def owordBytes (w : OWord) : List Byte :=
  leBytes 8 (w.beat + 2 ^ 16 * w.entries.length) ++ (w.entries.map fun e => leBytes 8 (wordOfEntry e)).flatten

/-- Reads OVERCAST_WORDS words: the words, and the bytes that follow them (R73). A stream that ends early has fewer. -/
def readWords : Nat → List Byte → List OWord × List Byte
  | 0, bs => ([], bs)
  | _ + 1, [] => ([], [])
  | n + 1, b :: bs =>
    let w := oword (b :: bs)
    let r := readWords n ((b :: bs).drop (8 * (1 + w.entries.length)))
    (w :: r.1, r.2)

/-- The argument-set table of a stream at an address: it follows the last word, aligned to 64 bytes (R73), 64 bytes a set (R74). -/
def readSets (ptr words : Nat) (bs : List Byte) : List (List W64) :=
  let used := bs.length - (readWords words bs).2.length
  let table := bs.drop ((ptr + used + 63) / 64 * 64 - ptr)
  (List.range (table.length / 64)).map fun i => (List.range 8).map fun j => BitVec.ofNat 64 (fieldAt table (64 * i + 8 * j) 8)

/-! ### Steal-queue entries (R81) -/

/-- The steal-queue entry that 32 bytes spell; the dispatcher writes ENQ_SEQ. -/
def jobOfBytes (e : List Byte) : StealJob :=
  { kernel := bitsOf (fieldAt e 0 2) 9 0, slice := fieldAt e 2 1, length := fieldAt e 4 2, context := fieldAt e 6 2, argsPtr := fieldAt e 8 8,
    seq := 0, donePtr := fieldAt e 24 8, attn := none }

/-- An entry is formed as its table says: 32 bytes, SLICE below 64, ARGS_PTR and DONE_PTR aligned (log 84). -/
def entryFormed (e : List Byte) : Bool :=
  e.length == 32 && decide (fieldAt e 2 1 < 64) && fieldAt e 8 8 % 64 == 0 && fieldAt e 24 8 % 8 == 0

end Sys2Proof.Machine

namespace Sys2Proof

/-- The overcast words of a plan (04 R73). -/
def Plan.overcast (p : Plan) : List OWord := (Machine.readWords p.words p.stream).1
/-- The argument sets of a plan. -/
def Plan.argsets (p : Plan) : List (List W64) := Machine.readSets p.overcastPtr p.words p.stream
/-- The overcast words of a rerun overlay (20 R440). -/
def Overlay.overcast (o : Overlay) : List OWord := (Machine.readWords o.words o.stream).1
/-- The argument sets of a rerun overlay. -/
def Overlay.argsets (o : Overlay) : List (List W64) := Machine.readSets o.overcastPtr o.words o.stream

end Sys2Proof
end

