-- ==== Sys2Proof/Machine/TickOps.lean ====
section
/-!
DEFINITION. The overcast stream of the current tick with its rerun overlay, and the next static start of a unit (04 R73 to R78,
20 R440).
-/
namespace Sys2Proof.Machine

/-- The overlay of the current tick, if one is sealed for it (20 R440). -/
def currentOverlay (s : State) : Option Overlay :=
  match NMap.find? s.tkp.overlays (s.tkp.now % 16) with
  | some o => if o.tick = s.tkp.now then some o else none
  | none => none

/-- The words of the current tick: those of the loaded plan, then those of its overlay. -/
def wordsNow (s : State) : List OWord :=
  (match currentPlan s with | some p => p.overcast | none => []) ++ (match currentOverlay s with | some o => o.overcast | none => [])

/-- Unit ids (R75): a code-engine group, a DMA engine, a Watric port. -/
def unitCode (g : Nat) : Nat := 0xA0 + g
def unitDma (e : Nat) : Nat := 0xA8 + e
def unitPort (p : Nat) : Nat := 0xB8 + p

/-- The standing action of a unit: hold, or open (04 R76). -/
def standsHold (s : State) (u : Nat) : Bool := NMap.getD s.tkp.stand u 0 == 1

/-- A word starts a unit. -/
def startsUnit (w : OWord) (u : Nat) : Bool := w.entries.any fun e => e.1 == u && (match e.2 with | .start _ _ => true | _ => false)

/-- The beat of the next static start of a unit in this tick, of those that have not issued; 1,234 if there is none (R78). -/
def nextStatic (s : State) (u : Nat) : Nat :=
  (((wordsNow s).filter fun w => startsUnit w u && decide (s.tkp.beat ≤ w.beat) && !s.tkp.issued.contains w.beat).map (·.beat)).foldl min 1234

/-- The effective length of a unit in the clock mode in force (03 R58). -/
def effLen (s : State) (length : Nat) : Nat :=
  if s.tkp.clock = 1 then (4 * length + 2) / 3 else if s.tkp.clock = 2 then 2 * length else length

/-- A unit of a length that starts now ends before the dusk band (03 R57, R58). -/
def fitsTick (s : State) (length : Nat) : Bool := decide (s.tkp.beat + effLen s length ≤ 1234)

/-- A dynamic unit of a length may start on a unit now (03 R57, 04 R78). -/
def fitsBefore (s : State) (u length : Nat) : Bool := decide (s.tkp.beat + effLen s length ≤ nextStatic s u)

/-- A resident image of a die that may start now. -/
def imageAt (s : State) (die kernel : Nat) : Option Image :=
  match NMap.find? s.dies.images (1024 * die + kernel) with
  | some i => if i.startable ≤ s.tkp.now then some i else none
  | none => none

/-- The arrays to which some bundle of an image issues: an array slot whose opcode is not NOP (04 R65, 05 R97). -/
def arraysOf (im : Image) : List Nat :=
  (List.range 2).filter fun a => im.bundles.any fun b => decide (b.toNat / 2 ^ (40 * a + 35) % 32 ≠ 0)

/-! ### Routes of timed transfers (04 R91) -/

/-- The dies that a transfer passes on the ring of the four compute dies. -/
def ringRoute (a b : Nat) : List Nat :=
  if a = b then [a]
  else if (a + 1) % 4 = b ∨ (b + 1) % 4 = a then [a, b]
  else if a % 2 = 0 then [a, 1, b] else [a, 2, b]

/-- Delay of a transfer between two ends (R91). -/
def routeDelay (src dst : Nat) : Nat :=
  if 160 ≤ src ∨ 160 ≤ dst then 84
  else match (ringRoute (dieOf src) (dieOf dst)).length with | 1 => 32 | 2 => 104 | _ => 176

/-! ### The retirement list (20 R445, 22 R481) -/

/-- A retirement entry of 16 bytes. -/
def retireEntry (kind die index cause tick : Nat) : List Byte :=
  leBytes 1 kind ++ leBytes 1 die ++ leBytes 2 index ++ leBytes 2 cause ++ leBytes 2 0 ++ leBytes 8 tick

/-- Two entries name the same element. -/
def sameElement (a b : List Byte) : Bool := a.take 4 == b.take 4

/-- The vendor map also names the element of an entry. -/
def vendorNames (s : State) (e : List Byte) : Bool := fieldAt e 0 1 == 0 && s.ras.vendor.contains (44 * fieldAt e 1 1 + fieldAt e 2 2)

/-- Adds an entry to a retirement list once; a full list drops the oldest that the vendor map names, else the oldest. -/
def addRetired (s : State) (l : List (List Byte)) (e : List Byte) : List (List Byte) :=
  if l.any (sameElement e) then l
  else if l.length < 256 then l ++ [e]
  else (l.eraseIdx (if l.any (vendorNames s) then l.findIdx (vendorNames s) else 0)) ++ [e]

/-- The retirement list that outlives this run: after RETIRE_CLEAR only what has been retired since (22 R481). -/
def keptList (s : State) : List (List Byte) := if s.ras.clearRetire then s.ras.retiredHere else s.ras.retire

/-- An element is retired in this run: it joins the list, and its copy in the recorder area while that persists. -/
def retireElement (s : State) (kind die index cause : Nat) : State :=
  let e := retireEntry kind die index cause s.tkp.now
  let s1 : State := { s with ras := { s.ras with retire := addRetired s s.ras.retire e, retiredHere := addRetired s s.ras.retiredHere e } }
  if s.evr.path = 0 then { s1 with evr := { s1.evr with flashRetire := keptList s1 } } else s1

end Sys2Proof.Machine
end

