-- ==== Sys2Proof/Machine/TileOps.lean ====
section
/-!
DEFINITION. Kernels on tiles: writes in flight and their landing (07 R147), the issue of a slot operation, the end of a
kernel, the fault of an unverified kernel (04 R72) and the tile fault (20 R438, R439).
-/
namespace Sys2Proof.Machine

/-! ### Registers of a tile (07 R144) -/

/-- 64 lanes of zero. -/
def zeroLanes : List W32 := List.replicate 64 0

def Tile.getV (x : Tile) (n : Nat) : List W32 := NMap.getD x.v n zeroLanes
def Tile.getS (x : Tile) (n : Nat) : W64 := NMap.getD x.s n 0
def Tile.getA (x : Tile) (n : Nat) : BitVec 24 := NMap.getD x.a n 0
def Tile.getB (x : Tile) (n : Nat) : BitVec 24 := NMap.getD x.b n 0
def Tile.getL (x : Tile) (n : Nat) : BitVec 24 := NMap.getD x.l n 0
/-- A mask register; at reset and after a handover it is listed as the handover wrote it (17 R388). -/
def Tile.getMK (x : Tile) (n : Nat) : W64 := NMap.getD x.mreg n 0

/-- The largest magnitude of a long vector accumulator (06 R141). -/
def laMax : Int := 2 ^ 319 - 1

/-- An exact sum of long vector values; poison stays (06 R141). -/
def laAdd : Option Int → Option Int → Option Int
  | some a, some b => some (a + b)
  | _, _ => none

/-- A sum as an accumulator holds it: beyond the range it is the poison code (06 R141). -/
def laNorm : Option Int → Option Int
  | some a => if a < -laMax ∨ laMax < a then none else some a
  | none => none

/-- A long vector accumulator. The adds of one cycle stand in it as their exact sum, so that their order does not matter. -/
def Tile.getLA (x : Tile) (n : Nat) : Option Int := laNorm (NMap.getD x.la n (some 0))

/-- A write that lands and is seen from cycle `v` on (R147). -/
def applyWrite (v : Nat) (x : Tile) : TWrite → Tile
  | .vreg r lanes => { x with v := NMap.insert x.v r lanes }
  | .sreg r w => { x with s := NMap.insert x.s r w }
  | .areg n w => { x with a := NMap.insert x.a n w }
  | .breg n w => { x with b := NMap.insert x.b n w }
  | .lreg n w => { x with l := NMap.insert x.l n w }
  | .xmem y bytes => if y then { x with y := putBytes x.y bytes } else { x with x := putBytes x.x bytes }
  | .store bytes => x.stored v bytes
  | .mreg n w => { x with mreg := NMap.insert x.mreg n w }
  | .anvilRow arr c m => x.setArr arr ((x.getArr arr).mmaRow c m)
  | .check arr c => x.checkRow arr c
  | .outRow arr acc fmt i m => x.stored v (routBytes fmt i ((x.getArr arr).blk acc) m)
  | .outLong arr acc i => x.stored v (loutBytes i ((x.getArr arr).blk acc))
  | .inLong arr acc clr hdr vals miss =>
    let u := x.getArr arr
    { x.setArr arr (u.putBlk acc (linBlock clr hdr (fun k => vals.getD k (some 0)) (u.blk acc))) with
        miss := x.miss.orElse fun _ => miss }

/-- Puts a write in flight behind those that become visible no later than it. -/
def addPend : List (Nat × TWrite) → Nat × TWrite → List (Nat × TWrite)
  | [], w => [w]
  | p :: ps, w => if p.1 ≤ w.1 then p :: addPend ps w else w :: p :: ps

/-- Lands the writes that are visible at cycle `c`; the writes in flight stand in the order in which they become
visible. -/
def landGo : List (Nat × TWrite) → Nat → Tile → Tile
  | [], _, x => { x with pend := [] }
  | p :: ps, c, x => if p.1 ≤ c then landGo ps c (applyWrite p.1 x p.2) else { x with pend := p :: ps }

/-- The tile as an operation that issues at cycle `c` finds it (R147). -/
def Tile.land (x : Tile) (c : Nat) : Tile := landGo x.pend c x

/-- The register that a write names: its file and number; a memory write names none. -/
def TWrite.reg : TWrite → Option (Nat × Nat)
  | .vreg r _ => some (0, r)
  | .sreg r _ => some (1, r)
  | .areg n _ => some (2, n)
  | .breg n _ => some (3, n)
  | .lreg n _ => some (4, n)
  | .xmem _ _ => none
  | .store _ => none
  | .mreg _ _ => none
  | .anvilRow _ _ _ => none
  | .check _ _ => none
  | .outRow _ _ _ _ _ => none
  | .outLong _ _ _ => none
  | .inLong _ _ _ _ _ _ => none

/-- Two registers that no two operations write in one cycle: one register, or A[n] and the B[n] or L[n] of its buffer (R160,
log 15). -/
def regsMeet (p q : Nat × Nat) : Bool :=
  decide (p = q) || (p.2 == q.2 && ((p.1 == 2 && (q.1 == 3 || q.1 == 4)) || (q.1 == 2 && (p.1 == 3 || p.1 == 4))))

/-- Two writes of one register in one cycle break the one-writer rule (R160); the long accumulators have a rule of
their own (R152). -/
def clash (pend : List (Nat × TWrite)) (w : Nat × TWrite) : Bool :=
  match w.2.reg with
  | none => false
  | some r => pend.any fun p => p.1 == w.1 && (match p.2.reg with | some q => regsMeet r q | none => false)

/-- The cycle of its kernel that a tile has reached at cycle 0 of the current beat. -/
def kernelCycle (s : State) (t : Nat) : Nat :=
  match (tileAt s t).run with
  | some r => beatCycles s * (launch s - (1250 * r.tick + r.beat))
  | none => 0

/-- A write into a tile store from outside its kernel, at this beat. -/
def tileStore (s : State) (t : Nat) (bytes : List (Nat × Byte)) : State :=
  modTile s t fun x => (x.land (kernelCycle s t)).stored (kernelCycle s t) bytes

/-- What the issue of a slot operation comes to: the tile goes on, or an issue rule is broken. -/
inductive SlotRes where
  | done (x : Tile)
  | broke
deriving DecidableEq, Repr

/-- Issues a write that becomes visible at a cycle, under the one-writer rule. -/
def Tile.push (x : Tile) (vis : Nat) (w : TWrite) : SlotRes :=
  if clash x.pend (vis, w) then .broke else .done { x with pend := addPend x.pend (vis, w) }

/-- Notes the completion cycle of an operation that leaves no write in flight. -/
def Tile.ends (x : Tile) (c : Nat) : Tile := { x with fin := max x.fin c }

/-- The cycles that a kernel takes in all, as far as its operations are fixed: its issues, its array and long-accumulator
operations, its writes in flight, the cycle of each DMA/skew completion (04 R70, R71). -/
def Tile.total (x : Tile) : Nat :=
  let w := x.pend.foldl (fun m e => max m e.1) (max (x.cyc + 1) x.fin)
  x.tags.foldl (fun m (e : Nat × TagOp) => max m (match e.2.doneAt with | some n => n + 1 | none => 0)) w

/-- Every DMA/skew operation has completed, or has a completion cycle fixed. -/
def Tile.opsOver (x : Tile) : Bool := x.tags.all fun (e : Nat × TagOp) => e.2.done || e.2.doneAt.isSome

/-- Goes on with a second effect of an operation. -/
def SlotRes.andThen : SlotRes → (Tile → SlotRes) → SlotRes
  | .done x, f => f x
  | .broke, _ => .broke

/-! ### The end of a kernel -/

/-- The open duty of a tile is used up: its remaining beats of the tick are withheld, which are hold beats (02 R28). -/
def dutyUsed (s : State) (t spent : Nat) : Bool := !isFloor s t && decide (dutyOf s (dieOf t) ≤ spent)

/-- The state that a tile takes when it runs nothing and has spent so many beats of its duty. -/
def idleAfter (s : State) (t spent : Nat) : TileState := if standsHold s t || dutyUsed s t spent then .hold else .openIdle

/-- The state that a tile takes when it runs nothing. -/
def idleState (s : State) (t : Nat) : TileState := idleAfter s t (tileAt s t).spent

/-- Charges beats of a unit to its slice's share on the tile, to the tile's open duty, and to the slice's run beats
when the unit is dynamic; radio work has no slice (64) and charges nothing (02 R28, 17 R383, R396). -/
def chargeBeats (s : State) (t : Nat) (r : Running) (beats : Nat) : State :=
  let k := 64 * t + r.slice
  let w := 4 * r.slice + dieOf t
  if 64 ≤ r.slice then s
  else
  let s1 : State := { s with slc := { s.slc with used := NMap.modify s.slc.used 0 k (· + beats),
                                                 win := if r.isStatic then s.slc.win
                                                   else NMap.modify s.slc.win {} w fun v => { v with run := v.run + beats } } }
  if r.onFloor then s1 else modTile s1 t fun x => { x with spent := x.spent + beats }

/-- The tile after its kernel: nothing runs, and nothing of the kernel is in flight. -/
def clearRun (s : State) (t : Nat) (x : Tile) : Tile :=
  { x with run := none, state := idleState s t, tags := [], wait := none, pend := [], rep := 0, loops := [], miss := none,
           ran := match x.run with | some r => addSet x.ran r.context | none => x.ran }

/-- The LD and ST of a kernel that have started and not completed: an LD or ST starts when it issues (03 R60, log 70). -/
def startedDma (x : Tile) : List TagOp := (x.tags.map (·.2)).filter fun o => decide (o.op ≤ 2) && !o.done

/-- Whether a kernel of a context runs on any tile. -/
def ctxRuns (s : State) (c : Nat) : Bool :=
  s.tiles.any fun t => match t.2.run with | some r => r.context == c | none => false

/-- A context whose hold is in force is HELD once none of its kernels runs; CTX_HOLD without OUT is then DONE
(17 R389). -/
def heldCheck (s : State) (c : Nat) : State :=
  let x := ctxAt s c
  if x.state = 3 ∧ x.holding ∧ !ctxRuns s c then
    (x.holdAsk.filter fun h => !h.2.2).foldl (fun y h => finish y h.1 h.2.1 stOk 0)
      (modCtx (ctxState s c 4) c fun y => { y with holdAsk := y.holdAsk.filter fun h => h.2.2 })
  else s

/-- Takes a kernel off its tile after `beats` beats: charges them and lets its context become HELD. Transfers of a stopped
kernel that have started run to their end (03 R60). -/
def leaveTile (s : State) (t : Nat) (r : Running) (beats : Nat) : State :=
  let s1 := chargeBeats s t r beats
  let x := tileAt s1 t
  let s2 := setTile s1 t { clearRun s1 t x with late := x.late ++ (startedDma x).map (r.slice, ·) }
  heldCheck s2 r.context

/-- A fault of an unverified kernel, handled as an overrun and counted in OVERRUN (04 R72): the beats from the start
through the fault are charged. -/
def unverifiedFault (s : State) (t : Nat) (r : Running) (c : Nat) : State :=
  let s1 := leaveTile s t r (c / beatCycles s + 1)
  let s2 : State := { s1 with tkp := { s1.tkp with faultOverrun := satAdd 16 s1.tkp.faultOverrun 1 } }
  barContext (recordEvent s2 0x1005 srcHw [r.imageId]) r.context 0x1005

/-! ### Tile faults -/

/-- The physical tiles of a die that are good and bound to no logical tile, nor by a binding that waits (20 R438). -/
def goodUnbound (s : State) (d : Nat) : List Nat :=
  (List.range 44).filter fun p =>
    !s.dies.bad.contains (44 * d + p) &&
    (List.range 40).all (fun i => physOf s (40 * d + i) != p) &&
    s.dies.bindAt.all fun b => dieOf b.1 != d || b.2.1 != p

/-- Puts an entry back into a queue in the order of ENQ_SEQ (20 R439). -/
def requeue : List StealJob → StealJob → List StealJob
  | [], j => [j]
  | k :: ks, j => if k.seq < j.seq then k :: requeue ks j else j :: k :: ks

/-- A static step of an open-tile context is withdrawn, and CP3 reissues it (04 R80). -/
def withdrawStep (s : State) (c : Nat) : State :=
  { s with tkp := { s.tkp with reissues := NMap.modify s.tkp.reissues 0 c (· + 1) }
           tim := { s.tim with jobs := s.tim.jobs.map fun j => if j.context = c ∧ j.running then { j with again := true } else j } }

/-- A static start of a context after a withdrawal is the step's start again, from which its lateness counts (15 R351). -/
def stepAgain (s : State) (c : Nat) : State :=
  { s with tim := { s.tim with jobs := s.tim.jobs.map fun j =>
      if j.context = c ∧ j.again then { j with launched := s.tkp.now, again := false } else j } }

/-- Puts an entry back into the queue it came from, a tile's or that of the tile's die, in the order of ENQ_SEQ (02 R32). -/
def giveBack (s : State) (t : Nat) (j : StealJob) (src : Option Nat) : State :=
  match src with
  | some n => modTile s n fun x => { x with q := requeue x.q j }
  | none => { s with dies := { s.dies with queues := NMap.modify s.dies.queues [] (dieOf t) fun q => requeue q j } }

/-- An entry that a tile has selected and that waits there for the array-start allowance returns to its queue. -/
def unparkJob (s : State) (t : Nat) : State :=
  match (tileAt s t).nextJob with
  | some (j, src) => giveBack (modTile s t fun x => { x with nextJob := none }) t j src
  | none => s

/-- What becomes of the work of a faulted tile: a dynamic entry returns to its die queue (R439), floor work waits for a
rerun (R440), an open-tile static step is reissued (R80). -/
def rescueWork (s : State) (t : Nat) (r : Running) : State :=
  match r.job with
  | some j => { s with dies := { s.dies with queues := NMap.modify s.dies.queues [] (dieOf t) fun q => requeue q j } }
  | none =>
    if r.onFloor then { s with ras := { s.ras with rerun := s.ras.rerun ++ [(t, s.tkp.now)] } }
    else withdrawStep s r.context

/-- A tile fault (20 R438): FAULT from the cycle of detection, the running kernel's results cancelled and its work kept
for a rerun, the event with the logical and physical tile and the cause, TILE raised; with no good unbound tile on the
die the device fails (R435). -/
def tileFault (s : State) (t cause : Nat) : State :=
  let sp := unparkJob s t
  let x := tileAt sp t
  let s0 := match x.run with
    | some r => rescueWork sp t r
    | none => sp
  let s1 := setTile s0 t { clearRun s0 t x with state := .fault, arriving := s.tkp.now }
  let s2 := recordEvent s1 0x1002 srcHw [t, physOf s t, cause]
  let s3 : State := { s2 with ras := { s2.ras with cntTile := satAdd 16 s2.ras.cntTile 1 } }
  let s4 := match x.run with
    | some r => heldCheck s3 r.context
    | none => s3
  if (goodUnbound s4 (dieOf t)).isEmpty then deviceFail s4 0x1008 srcHw [] else s4

/-- An operation that breaks an issue rule does not execute: an unverified kernel faults (R72), and for a verified one
it is a tile fault (R61, R72). -/
def ruleBreak (s : State) (t : Nat) (r : Running) (c : Nat) : State :=
  if r.verified then tileFault s t 0x1005 else unverifiedFault s t r c

/-- The mismatch that has shown on a tile before a cycle: the tile issues nothing after the cycle of the mismatch (05 R119). -/
def Tile.struck (x : Tile) (c : Nat) : Option (Nat × Nat × Nat × Nat × Nat) := x.miss.filter fun m => decide (m.1 < c)

/-- A mismatch of the residue check or of an anvil add: the fault event, with the array and the column in one word, the row and
the bundle index in another (log 78), and a tile fault, which cancels every transfer of the kernel (05 R119, 20 R438). -/
def residueFault (s : State) (t : Nat) (m : Nat × Nat × Nat × Nat × Nat) : State :=
  tileFault (recordEvent s 0x1001 srcHw [t, physOf s t, m.2.1 * 2 ^ 32 + m.2.2.1, m.2.2.2.1 * 2 ^ 32 + m.2.2.2.2]) t 0x1001

/-! ### Timed transfers on their way (04 R91) -/

/-- The cycle of the tick that is cycle `c` of the kernel on a tile. -/
def tickCycle (s : State) (t c : Nat) : Nat :=
  match (tileAt s t).run with
  | some r => beatCycles s * r.beat + c
  | none => 0

/-- The cycle of its kernel at which a tile is in cycle `k` of the tick. -/
def cycleAt (s : State) (t k : Nat) : Nat :=
  match (tileAt s t).run with
  | some r => k - beatCycles s * r.beat
  | none => 0

/-- Puts data on its way behind what arrives no later. -/
def addFlight : List (Nat × Nat × List (Nat × Byte)) → Nat × Nat × List (Nat × Byte) → List (Nat × Nat × List (Nat × Byte))
  | [], f => [f]
  | g :: gs, f => if g.1 ≤ f.1 then g :: addFlight gs f else f :: g :: gs

/-- Puts a transfer among those that have not left, behind those that leave no later. -/
def addSend : List TimedRes → TimedRes → List TimedRes
  | [], r => [r]
  | q :: qs, r => if q.cycle ≤ r.cycle then q :: addSend qs r else r :: q :: qs

/-- A timed transfer leaves in its cycle, to arrive after the delay of its path, whatever the repair: from the store of a tile, or for a
horizon-die unit from device memory (log 89). A tile on which a mismatch has shown, or which has faulted, sends nothing (05 R119). -/
def timedSend (s : State) (r : TimedRes) : State :=
  let k := cycleAt s r.srcTile r.cycle
  let x := (tileAt s r.srcTile).land k
  let data := if r.srcTile < 160 then (List.range r.bytes).map fun i => NMap.getD x.st (r.srcAddr + i) 0 else devRead s r.srcAddr r.bytes
  let f := (r.cycle + routeDelay r.srcTile r.dstTile, r.dstTile, List.zipWith (fun i b => (r.dstAddr + i, b)) (List.range r.bytes) data)
  if r.srcTile < 160 ∧ (x.state = .fault ∨ (x.struck k).isSome) then s
  else { s with tkp := { s.tkp with flying := addFlight s.tkp.flying f } }

/-- Timed data arrives in its cycle: in the store of a tile, or for a horizon-die unit in device memory (log 89). -/
def timedArrive (s : State) (f : Nat × Nat × List (Nat × Byte)) : State :=
  if f.2.1 < 160 then modTile s f.2.1 fun x => (x.land (cycleAt s f.2.1 f.1)).stored (cycleAt s f.2.1 f.1) f.2.2
  else (devWrite s ((f.2.2.map (·.1)).headD 0) (f.2.2.map (·.2))).1

/-- Timed transfers leave and arrive in the order of their cycles up to cycle `k` of the tick, an arrival before a departure of its
cycle; the fuel is the number of both. -/
def timedRun : Nat → Nat → State → State
  | 0, _, s => s
  | n + 1, k, s =>
    match s.tkp.flying, s.tkp.sends with
    | [], [] => s
    | f :: fs, [] => if f.1 ≤ k then timedRun n k (timedArrive { s with tkp := { s.tkp with flying := fs } } f) else s
    | [], r :: rs => if r.cycle ≤ k then timedRun n k (timedSend { s with tkp := { s.tkp with sends := rs } } r) else s
    | f :: fs, r :: rs =>
      if f.1 ≤ r.cycle then (if f.1 ≤ k then timedRun n k (timedArrive { s with tkp := { s.tkp with flying := fs } } f) else s)
      else if r.cycle ≤ k then timedRun n k (timedSend { s with tkp := { s.tkp with sends := rs } } r) else s

/-- The timed transfers whose cycle has come by cycle `k` of the tick have left or arrived. -/
def timedDue (s : State) (k : Nat) : State := timedRun (2 * s.tkp.sends.length + s.tkp.flying.length) k s

/-- Issues a slot operation at cycle `c` of the kernel on a tile. -/
def slotIssue (s : State) (t c : Nat) (f : Tile → SlotRes) : State :=
  let x := tileAt s t
  match x.run with
  | none => s
  | some r =>
    if x.wait.isSome then s
    else
      match (x.land c).struck c with
      | some m => residueFault s t m
      | none =>
        match f (x.land c) with
        | .done x' => setTile s t { x' with cyc := max x'.cyc c }
        | .broke => ruleBreak s t r c

/-- Issues a slot operation of the kernel that runs on a tile at cycle `c` of the kernel, after the timed transfers whose cycle has come
(R91). With no kernel on the tile, or while a WAITD holds issue, no operation issues (log 8). -/
def slotOp (s : State) (t c : Nat) (f : Tile → SlotRes) : State := slotIssue (timedDue s (tickCycle s t c)) t c f

end Sys2Proof.Machine
end

