-- ==== Sys2Proof/Machine/Operands.lean ====
section
/-!
DEFINITION. The operand forms of the vector/signal, X and Y slots: operand b (07 R146), addresses with circular buffers
(R153, R154), element conversions (R155), packed fields (R157) and long vector values (06 R142).
-/
namespace Sys2Proof.Machine

/-! ### Operand b (R146) -/

/-- Operand b of an FP32 operation: IMM is bits [31:16]. -/
def opBF (x : Tile) : OpB → List W32
  | .reg n => x.getV n
  | .sreg n => List.replicate 64 ((x.getS n).setWidth 32)
  | .imm i => List.replicate 64 (i.setWidth 32 <<< (16 : Nat))

/-- Operand b of an integer operation, and of SEL and MOV (log 114): IMM is sign-extended. -/
def opBI (x : Tile) : OpB → List W32
  | .reg n => x.getV n
  | .sreg n => List.replicate 64 ((x.getS n).setWidth 32)
  | .imm i => List.replicate 64 (i.signExtend 32)

/-- Operand b of a scalar operation: both register forms select S[B], and IMM is sign-extended to 64 bits. -/
def opBS (x : Tile) : OpB → W64
  | .reg n => x.getS n
  | .sreg n => x.getS n
  | .imm i => i.signExtend 64

/-! ### Addresses (R153, R154) -/

/-- Advances an address by `d` in the circular buffer of A[n], if n < 8 and L[n] is not 0. -/
def Tile.adv (x : Tile) (a : BitVec 24) (n : Nat) (d : Int) : BitVec 24 :=
  if n < 8 ∧ x.getL n ≠ 0 then
    BitVec.ofInt 24 ((x.getB n).toNat + ((a.toNat : Int) - (x.getB n).toNat + d) % ((x.getL n).toNat : Int))
  else BitVec.ofInt 24 ((a.toNat : Int) + d)

/-- Element size e of a conversion code (R155). -/
def cvtSize (cvt : Nat) : Nat := if cvt = 0 then 4 else if cvt = 4 then 1 else 2

/-- The base address of an access whose unit is q. -/
def Tile.lsBase (x : Tile) (o : LsOp) (q : Nat) : BitVec 24 :=
  if o.pm = 0 then x.adv (x.getA o.an) o.an (o.off.toInt * q) else x.getA o.an

/-- The address register after an access of size u and unit q; none when it is not modified. -/
def Tile.lsUpdate (x : Tile) (o : LsOp) (q u : Nat) : Option (BitVec 24) :=
  if o.pm = 1 then some (x.adv (x.getA o.an) o.an u)
  else if o.pm = 2 then some (x.adv (x.getA o.an) o.an (o.off.toInt * q))
  else none

/-- Post-modifies A[n]; the new value is visible in the next cycle (R154). -/
def postMod (c : Nat) (o : LsOp) (v : Option (BitVec 24)) (x : Tile) : SlotRes :=
  match v with
  | some a => x.push (c + 1) (.areg o.an a)
  | none => .done x

/-- An address with the bits below the element size ignored (R154). -/
def alignTo (e : Nat) (a : BitVec 24) : Nat := a.toNat / e * e

/-- The addresses of the 64 elements of a vector access, each wrapped on its own. -/
def Tile.elemAddrs (x : Tile) (o : LsOp) : List Nat :=
  let e := cvtSize o.cvt
  let base := x.lsBase o e
  (List.range 64).map fun (i : Nat) => alignTo e (x.adv base o.an ((i * e : Nat) : Int))

/-! ### Element conversion (R155) -/

/-- What a load gives for a memory element. -/
def cvtLoad (cvt : Nat) (bs : List Byte) : W32 :=
  let v := leNat bs
  if cvt = 0 then BitVec.ofNat 32 v
  else if cvt = 1 then (BitVec.ofNat 16 v).signExtend 32
  else if cvt = 2 then f32Of (finOfInt (BitVec.ofNat 16 v).toInt 0)
  else if cvt = 3 then f32Of (bf16Val (BitVec.ofNat 16 v))
  else if cvt = 4 then (BitVec.ofNat 8 v).signExtend 32
  else f32Of (f16Val (BitVec.ofNat 16 v))

/-- FP32 as INT16: rounded to nearest even and saturated; NaN as 0. -/
def f32ToI16 (x : W32) : Int :=
  match f32Val x with
  | .nan => 0
  | .inf n => if n then -32768 else 32767
  | .fin n m e => clampInt (roundInt n m e) (-32768) 32767

/-- What a store writes for a lane. -/
def cvtStore (cvt : Nat) (x : W32) : List Byte :=
  if cvt = 0 then leBytes 4 x.toNat
  else if cvt = 1 then leBytes 2 (BitVec.ofInt 16 (clampInt x.toInt (-32768) 32767)).toNat
  else if cvt = 2 then leBytes 2 (BitVec.ofInt 16 (f32ToI16 x)).toNat
  else if cvt = 3 then leBytes 2 (bf16Of (f32Val x)).toNat
  else if cvt = 4 then leBytes 1 (BitVec.ofInt 8 (clampInt x.toInt (-128) 127)).toNat
  else leBytes 2 (f16Of (f32Val x)).toNat

/-! ### Packed fields (R157) -/

/-- Width w of a packed operation. -/
def packW (o : LsOp) : Nat := o.off.toNat % 32 + 1
/-- Number n of fields of a packed operation. -/
def packN (o : LsOp) : Nat := o.off.toNat / 32 % 64 + 1
/-- Bytes of a packed operation. -/
def packLen (o : LsOp) : Nat := (packN o * packW o + 7) / 8

/-- The addresses of a packed operation's bytes. In circular mode every byte wraps on its own, the first included (log 79). -/
def Tile.packAddrs (x : Tile) (o : LsOp) : List Nat :=
  (List.range (packLen o)).map fun (i : Nat) => (x.adv (x.getA o.an) o.an (i : Int)).toNat

/-- Fields packed most significant bit first, the last byte filled with 0. -/
def packFields (w : Nat) (fs : List Nat) : List Byte :=
  let len := (fs.length * w + 7) / 8
  beBytes len ((fs.foldl (fun acc f => acc * 2 ^ w + f % 2 ^ w) 0) * 2 ^ (8 * len - fs.length * w))

/-- The `n` fields of w bits that bytes pack most significant bit first. -/
def unpackFields (w n : Nat) (bs : List Byte) : List Nat :=
  let v := beNat bs
  (List.range n).map fun i => v / 2 ^ (8 * bs.length - w * (i + 1)) % 2 ^ w

/-- A w-bit field sign-extended to a lane. -/
def signField (w v : Nat) : W32 := BitVec.ofInt 32 (if 2 ^ (w - 1) ≤ v then (v : Int) - 2 ^ w else v)

/-! ### Long vector values (06 R141, R142) -/

/-- The 40 little-endian bytes of a long vector value; poison is the code with only bit 319 set. -/
def laBytes : Option Int → List Byte
  | none => leBytes 40 (2 ^ 319)
  | some v => leBytes 40 (v % (2 ^ 320 : Int)).toNat

/-- The long vector value that 40 bytes hold. -/
def laOfBytes (bs : List Byte) : Option Int :=
  let v : Nat := leNat bs % 2 ^ 320
  if v = 2 ^ 319 then none else some (if 2 ^ 319 < v then (v : Int) - 2 ^ 320 else v)

/-- An FP32 operand as a term of a long vector accumulator, in units of 2^-149: none for a NaN or an infinity. -/
def laTerm (x : W32) : Option Int :=
  match f32Val x with
  | .fin n m e => some (sgn n (m * 2 ^ (e + 149).toNat))
  | _ => none

/-- A long vector value rounded to FP32 (R142). -/
def laRound : Option Int → W32
  | none => f32NaN
  | some v => f32Of (finOfInt v (-149))

end Sys2Proof.Machine
end

