-- ==== Sys2Proof/Machine/Lanes.lean ====
section
/-!
DEFINITION. The lane operations of the vector/signal slot (07 R143, R148 to R151): each reads its operands at its issue
cycle, and its result is visible after its latency (R147).
-/
namespace Sys2Proof.Machine

/-! ### Shared forms -/

/-- A lane operation: the result of `g` lands in V[d] after `lat` cycles. -/
def laneOp (s : State) (t c d lat : Nat) (g : Tile → List W32) : State :=
  slotOp s t c fun x => x.push (c + lat) (.vreg d (g x))

/-- Lane by lane over one register. -/
def lane1 (f : W32 → W32) (a : Nat) (x : Tile) : List W32 := (x.getV a).map f

/-- Lane by lane over a register and an FP32 operand b. -/
def lane2F (f : W32 → W32 → W32) (a : Nat) (b : OpB) (x : Tile) : List W32 := List.zipWith f (x.getV a) (opBF x b)

/-- Lane by lane over a register and an integer operand b. -/
def lane2I (f : W32 → W32 → W32) (a : Nat) (b : OpB) (x : Tile) : List W32 := List.zipWith f (x.getV a) (opBI x b)

/-- Lane by lane over three operands. -/
def zip3 (f : W32 → W32 → W32 → W32) : List W32 → List W32 → List W32 → List W32
  | a :: as, b :: bs, c :: cs => f a b c :: zip3 f as bs cs
  | _, _, _ => []

/-- Shift left; a count of 32 or more gives 0 (R148). -/
def shl32 (a b : W32) : W32 := if 32 ≤ b.toNat then 0 else a <<< b.toNat
/-- Shift right; a count of 32 or more gives 0. -/
def shr32 (a b : W32) : W32 := if 32 ≤ b.toNat then 0 else a >>> b.toNat
/-- Arithmetic shift right; a count of 32 or more gives copies of the sign bit. -/
def sra32 (a b : W32) : W32 := a.sshiftRight (min b.toNat 31)
/-- Signed minimum. -/
def smin32 (a b : W32) : W32 := if a.toInt ≤ b.toInt then a else b
/-- Signed maximum. -/
def smax32 (a b : W32) : W32 := if a.toInt ≤ b.toInt then b else a

/-! ### Groups (R149, R150) -/

/-- The group length that IMM[5:0] gives: 1 to 63, and 64 as 0 (log 14). -/
def groupLen (imm : W16) : Nat := if imm.toNat % 64 = 0 then 64 else imm.toNat % 64

/-- Cuts lanes into groups of g; the fuel is the number of lanes. -/
def groups : Nat → Nat → List W32 → List (List W32)
  | 0, _, _ => []
  | n + 1, g, xs => if xs.isEmpty then [] else xs.take g :: groups n g (xs.drop g)

/-- Reduces each group to one value, written to every lane of the group. -/
def groupMap (g : Nat) (f : List W32 → W32) (xs : List W32) : List W32 :=
  ((groups 64 g xs).map fun grp => List.replicate grp.length (f grp)).flatten

/-- One level of the FADD tree: pairs in lane order, an unpaired last element unchanged. -/
def pairLevel : List W32 → List W32
  | a :: b :: rest => f32Add a b :: pairLevel rest
  | [a] => [a]
  | [] => []

/-- The fixed FADD tree: 7 levels reduce 64 elements to one. -/
def treeAdd (xs : List W32) : W32 := (iter pairLevel 7 xs).headD 0

/-- Folds a group from its first element. -/
def fold1 (f : W32 → W32 → W32) : List W32 → W32
  | [] => 0
  | a :: rest => rest.foldl f a

/-- The GRED operation that IMM[8:6] selects. -/
def gredOp (imm : W16) (xs : List W32) : W32 :=
  match imm.toNat / 64 % 8 with
  | 0 => fold1 f32Max (xs.map fun v => f32Max v v)
  | 1 => fold1 f32Min (xs.map fun v => f32Min v v)
  | 2 => fold1 smax32 xs
  | 3 => fold1 smin32 xs
  | 4 => (match xs with | [v] => f32Of (f32Val v) | _ => treeAdd xs)
  | _ => fold1 (· + ·) xs

/-- NORM: the bits below bit 31 that equal bit 31 before the first that differs (R150). -/
def norm32 (a : W32) : Nat := 31 - bitLen (if a.msb then (~~~a).toNat else a.toNat)

/-- BEXP over one group (R150). -/
def bexpOp (imm : W16) (xs : List W32) : W32 :=
  if imm.getLsbD 11 then
    BitVec.ofInt 32 ((xs.map f32Expx).foldl max (-150))
  else
    let w := imm.toNat / 64 % 32 + 1
    let mn := (xs.map norm32).foldl min 31
    BitVec.ofNat 32 (32 - w - mn)

/-! ### Meanings -/

/-- FADD Vd, Va, b (R148). -/
def execFadd (t c d a : Nat) (b : OpB) (s : State) : Out := .next (laneOp s t c d 4 (lane2F f32Add a b))
/-- FSUB Vd, Va, b (R148). -/
def execFsub (t c d a : Nat) (b : OpB) (s : State) : Out := .next (laneOp s t c d 4 (lane2F f32Sub a b))
/-- FMUL Vd, Va, b (R148). -/
def execFmul (t c d a : Nat) (b : OpB) (s : State) : Out := .next (laneOp s t c d 4 (lane2F f32Mul a b))
/-- FMA Vd, Va, b, Vc: a × b + c with one rounding (R143, R148). -/
def execFma (t c d a : Nat) (b : OpB) (cc : Nat) (s : State) : Out :=
  .next (laneOp s t c d 4 fun x => zip3 f32Fma (x.getV a) (opBF x b) (x.getV cc))
/-- FNMA Vd, Va, b, Vc: c − a × b with one rounding (R143, R148). -/
def execFnma (t c d a : Nat) (b : OpB) (cc : Nat) (s : State) : Out :=
  .next (laneOp s t c d 4 fun x => zip3 f32Fnma (x.getV a) (opBF x b) (x.getV cc))
/-- FMIN Vd, Va, b (R143, R148). -/
def execFmin (t c d a : Nat) (b : OpB) (s : State) : Out := .next (laneOp s t c d 2 (lane2F f32Min a b))
/-- FMAX Vd, Va, b (R143, R148). -/
def execFmax (t c d a : Nat) (b : OpB) (s : State) : Out := .next (laneOp s t c d 2 (lane2F f32Max a b))
/-- FABS Vd, Va: bit 31 cleared (R148). -/
def execFabs (t c d a : Nat) (s : State) : Out := .next (laneOp s t c d 1 (lane1 (· &&& 0x7FFFFFFF) a))
/-- FNEG Vd, Va: bit 31 inverted (R148). -/
def execFneg (t c d a : Nat) (s : State) : Out := .next (laneOp s t c d 1 (lane1 (· ^^^ 0x80000000) a))
/-- FCLT Vd, Va, b: a < b (R143, R148). -/
def execFclt (t c d a : Nat) (b : OpB) (s : State) : Out :=
  .next (laneOp s t c d 2 (lane2F (fun p q => mask32 (fvLt (f32Val p) (f32Val q))) a b))
/-- FCLE Vd, Va, b: a ≤ b (R143, R148). -/
def execFcle (t c d a : Nat) (b : OpB) (s : State) : Out :=
  .next (laneOp s t c d 2 (lane2F (fun p q => mask32 (fvLt (f32Val p) (f32Val q) || fvEq (f32Val p) (f32Val q))) a b))
/-- FCEQ Vd, Va, b: a = b (R143, R148). -/
def execFceq (t c d a : Nat) (b : OpB) (s : State) : Out :=
  .next (laneOp s t c d 2 (lane2F (fun p q => mask32 (fvEq (f32Val p) (f32Val q))) a b))
/-- FCVTI Vd, Va (R148). -/
def execFcvti (t c d a : Nat) (s : State) : Out := .next (laneOp s t c d 2 (lane1 f32ToInt a))
/-- ICVTF Vd, Va (R148). -/
def execIcvtf (t c d a : Nat) (s : State) : Out := .next (laneOp s t c d 2 (lane1 f32OfInt a))
/-- FSCL Vd, Va, b: a × 2^b, b an integer operand (R148, log 13). -/
def execFscl (t c d a : Nat) (b : OpB) (s : State) : Out := .next (laneOp s t c d 2 (lane2I f32Scale a b))
/-- IADD Vd, Va, b (R148). -/
def execIadd (t c d a : Nat) (b : OpB) (s : State) : Out := .next (laneOp s t c d 1 (lane2I (· + ·) a b))
/-- ISUB Vd, Va, b (R148). -/
def execIsub (t c d a : Nat) (b : OpB) (s : State) : Out := .next (laneOp s t c d 1 (lane2I (· - ·) a b))
/-- IMUL Vd, Va, b: bits [31:0] of the product (R148). -/
def execImul (t c d a : Nat) (b : OpB) (s : State) : Out := .next (laneOp s t c d 3 (lane2I (· * ·) a b))
/-- AND Vd, Va, b (R148). -/
def execAndV (t c d a : Nat) (b : OpB) (s : State) : Out := .next (laneOp s t c d 1 (lane2I (· &&& ·) a b))
/-- OR Vd, Va, b (R148). -/
def execOrV (t c d a : Nat) (b : OpB) (s : State) : Out := .next (laneOp s t c d 1 (lane2I (· ||| ·) a b))
/-- XOR Vd, Va, b (R148). -/
def execXorV (t c d a : Nat) (b : OpB) (s : State) : Out := .next (laneOp s t c d 1 (lane2I (· ^^^ ·) a b))
/-- SHL Vd, Va, b (R148). -/
def execShl (t c d a : Nat) (b : OpB) (s : State) : Out := .next (laneOp s t c d 1 (lane2I shl32 a b))
/-- SHR Vd, Va, b (R148). -/
def execShr (t c d a : Nat) (b : OpB) (s : State) : Out := .next (laneOp s t c d 1 (lane2I shr32 a b))
/-- SRA Vd, Va, b (R148). -/
def execSra (t c d a : Nat) (b : OpB) (s : State) : Out := .next (laneOp s t c d 1 (lane2I sra32 a b))
/-- IMIN Vd, Va, b (R148). -/
def execImin (t c d a : Nat) (b : OpB) (s : State) : Out := .next (laneOp s t c d 1 (lane2I smin32 a b))
/-- IMAX Vd, Va, b (R148). -/
def execImax (t c d a : Nat) (b : OpB) (s : State) : Out := .next (laneOp s t c d 1 (lane2I smax32 a b))
/-- ICLT Vd, Va, b: signed a < b (R148). -/
def execIclt (t c d a : Nat) (b : OpB) (s : State) : Out :=
  .next (laneOp s t c d 1 (lane2I (fun p q => mask32 (decide (p.toInt < q.toInt))) a b))
/-- ICEQ Vd, Va, b (R148). -/
def execIceq (t c d a : Nat) (b : OpB) (s : State) : Out :=
  .next (laneOp s t c d 1 (lane2I (fun p q => mask32 (decide (p = q))) a b))
/-- SEL Vd, Va, b, Vc: a if c ≠ 0, otherwise b (R148). As b, IMM is sign-extended: R146 names FP32 and integer operations only (DESIGN
CHOICE, log 114). -/
def execSel (t c d a : Nat) (b : OpB) (cc : Nat) (s : State) : Out :=
  .next (laneOp s t c d 1 fun x => zip3 (fun p q r => if r = 0 then q else p) (x.getV a) (opBI x b) (x.getV cc))
/-- MOV Vd, b (R148). As b, IMM is sign-extended (DESIGN CHOICE, log 114). -/
def execMov (t c d : Nat) (b : OpB) (s : State) : Out := .next (laneOp s t c d 1 fun x => opBI x b)
/-- VIOTA Vd, b: lane i receives i + b (R148). -/
def execViota (t c d : Nat) (b : OpB) (s : State) : Out :=
  .next (laneOp s t c d 1 fun x => List.zipWith (fun i v => BitVec.ofNat 32 i + v) (List.range 64) (opBI x b))
/-- NORM Vd, Va (R150). -/
def execNorm (t c d a : Nat) (s : State) : Out := .next (laneOp s t c d 2 (lane1 (fun v => BitVec.ofNat 32 (norm32 v)) a))
/-- EXPX Vd, Va (R150). -/
def execExpx (t c d a : Nat) (s : State) : Out := .next (laneOp s t c d 2 (lane1 (fun v => BitVec.ofInt 32 (f32Expx v)) a))
/-- BEXP Vd, Va, IMM (R150). -/
def execBexp (t c d a : Nat) (imm : W16) (s : State) : Out :=
  .next (laneOp s t c d 4 fun x => groupMap (groupLen imm) (bexpOp imm) (x.getV a))
/-- GRED Vd, Va, IMM (R149). -/
def execGred (t c d a : Nat) (imm : W16) (s : State) : Out :=
  .next (laneOp s t c d 6 fun x => groupMap (groupLen imm) (gredOp imm) (x.getV a))
/-- VPERM Vd, Va, Vb: lane i receives lane b[i] mod 64 of Va (R148). -/
def execVperm (t c d a b : Nat) (s : State) : Out :=
  .next (laneOp s t c d 2 fun x => (x.getV b).map fun i => (x.getV a).getD (i.toNat % 64) 0)
/-- VEXT Sd, Va, IMM: a lane, zero-extended to 64 bits (R148). -/
def execVext (t c d a : Nat) (imm : W16) (s : State) : Out :=
  .next (slotOp s t c fun x => x.push (c + 2) (.sreg d (((x.getV a).getD (imm.toNat % 64) 0).setWidth 64)))
/-- EXP2 Vd, Va (R151). -/
def execExp2 (t c d a : Nat) (s : State) : Out := .next (laneOp s t c d 8 (lane1 f32Exp2 a))
/-- LOG2 Vd, Va (R151). -/
def execLog2 (t c d a : Nat) (s : State) : Out := .next (laneOp s t c d 8 (lane1 f32Log2 a))
/-- RCP Vd, Va (R151). -/
def execRcp (t c d a : Nat) (s : State) : Out := .next (laneOp s t c d 8 (lane1 f32Rcp a))
/-- RSQRT Vd, Va (R151). -/
def execRsqrt (t c d a : Nat) (s : State) : Out := .next (laneOp s t c d 8 (lane1 f32Rsqrt a))

end Sys2Proof.Machine
end

