-- ==== Sys2Proof/Machine/PageOps.lean ====
section
/-!
DEFINITION. The page allocator (08 R175 to R179, R505, R506) and the uses of prefix-index entries (11 R244), as
operations that serving, moves and the flash tier share.
-/
namespace Sys2Proof.Machine

/-! ### Pools, frames and free lists -/

/-- A pool that is not UNUSED. -/
def poolAt (s : State) (p : Nat) : Option Pool :=
  match NMap.find? s.srv.pools p with
  | some x => if x.state = 0 then none else some x
  | none => none

/-- A pool is ACTIVE. -/
def poolActive (s : State) (p : Nat) : Bool := match poolAt s p with | some x => x.state == 1 | none => false

/-- The key of a frame. -/
def frameKey (p id : Nat) : Nat := 2 ^ 24 * p + id

/-- A frame descriptor. -/
def frameAt (s : State) (p id : Nat) : Option Frame := if id < 2 ^ 24 then NMap.find? s.srv.frames (frameKey p id) else none

/-- Writes a frame descriptor. -/
def setFrame (s : State) (p id : Nat) (f : Frame) : State :=
  { s with srv := { s.srv with frames := NMap.insert s.srv.frames (frameKey p id) f } }

/-- A free list of a pool. -/
def freeList (s : State) (p l : Nat) : List Nat := NMap.getD s.srv.free (8 * p + l) []

/-- Writes a free list. -/
def setFree (s : State) (p l : Nat) (xs : List Nat) : State :=
  { s with srv := { s.srv with free := NMap.insert s.srv.free (8 * p + l) xs } }

/-- The list to which a frame belongs: the deck's, that of the horizon die that holds its first byte, remote, flash
(R175, log 19). -/
def listOf (s : State) (f : Frame) : Nat :=
  if f.tier = 0 then 0 else if f.tier = 1 then 1 + channelOf s (f.loc % 2 ^ 40) / 16 else if f.tier = 2 then 3 else 4

/-- The frames of a pool, with their identifiers. -/
def framesOf (s : State) (p : Nat) : List (Nat × Frame) :=
  s.srv.frames.filterMap fun e => if e.1 / 2 ^ 24 = p then some (e.1 % 2 ^ 24, e.2) else none

/-- GRANTED and MOVING frames of a tier of a pool. -/
def usedFrames (s : State) (p tier : Nat) : Nat :=
  ((framesOf s p).filter fun e => e.2.tier == tier && e.2.state != 0 && !e.2.retired).length

/-- FREE frames of a tier of a pool. -/
def freeFrames (s : State) (p tier : Nat) : Nat :=
  ((framesOf s p).filter fun e => e.2.tier == tier && e.2.state == 0 && !e.2.retired).length

/-- A grant in a tier keeps TIER_MAX. -/
def quotaOk (s : State) (p tier : Nat) : Bool :=
  match poolAt s p with
  | some x => decide (usedFrames s p tier < x.tierMax.getD tier 0)
  | none => false

/-- The free local frames of a pool (R505): for deck and local GDDR7 each, the smaller of its FREE frames and its quota
less its GRANTED and MOVING frames. -/
def freeLocal (s : State) (p : Nat) : Nat :=
  match poolAt s p with
  | none => 0
  | some x => ((List.range 2).map fun t => min (freeFrames s p t) (x.tierMax.getD t 0 - usedFrames s p t)).foldl (· + ·) 0

/-! ### Descriptors that read uncorrected (R506) -/

/-- The address of a frame's descriptor. -/
def frameAddr (s : State) (p id : Nat) : Nat := match poolAt s p with | some x => x.frameTab + 16 * id | none => 0

/-- The line that holds the descriptor reads uncorrected. -/
def frameBad (s : State) (p id : Nat) : Bool := badRange s (frameAddr s p id) 16

/-- A pool in DRAINING becomes UNUSED when every frame that is not retired is FREE. -/
def settlePool (s : State) (p : Nat) : State :=
  match poolAt s p with
  | some x =>
    if x.state = 2 ∧ (framesOf s p).all (fun e => e.2.retired || e.2.state == 0) then
      { s with srv := { s.srv with pools := NMap.insert s.srv.pools p { x with state := 0 } } }
    else s
  | none => s

/-- Retires a frame: the event of R167, off its free list for good, and out of the prefix index; a DRAINING pool may be over with it
(R179, R506). -/
def retireFrame (s : State) (p id : Nat) : State :=
  match frameAt s p id with
  | none => s
  | some f =>
    let s1 := recordUncorrected s (frameAddr s p id) 16
    let s2 := setFree s1 p (listOf s f) ((freeList s1 p (listOf s f)).filter (· ≠ id))
    let s3 := setFrame s2 p id { f with retired := true }
    settlePool { s3 with mov := { s3.mov with index := s3.mov.index.filter fun e => !(e.pool == p && e.frame == id) } } p

/-! ### Grants (R177, R178) -/

/-- Grants the first good frame of a list: REFS 1 and GEN one higher; the fuel is the list's length. -/
def takeFrom : Nat → State → Nat → Nat → State × Option Nat
  | 0, s, _, _ => (s, none)
  | n + 1, s, p, l =>
    match freeList s p l with
    | [] => (s, none)
    | id :: rest =>
      match frameAt s p id with
      | none => takeFrom n (setFree s p l rest) p l
      | some f =>
        if f.retired then takeFrom n (setFree s p l rest) p l
        else if frameBad s p id then takeFrom n (retireFrame (setFree s p l rest) p id) p l
        else (setFrame (setFree s p l rest) p id { f with state := 1, refs := 1, gen := (f.gen + 1) % 2 ^ 32, lastUse := s.tkp.now },
              some id)

/-- Grants from the first of some lists that yields a frame within the quota of its tier. -/
def takeFirst : List (Nat × Nat) → State → Nat → State × Option Nat
  | [], s, _ => (s, none)
  | (tier, l) :: ls, s, p =>
    if quotaOk s p tier then
      let r := takeFrom (freeList s p l).length s p l
      match r.2 with
      | some id => (r.1, some id)
      | none => takeFirst ls r.1 p
    else takeFirst ls s p

/-- The order of tiers and lists for the page at an index of its request's page list (R177). -/
def grantOrder (index : Nat) : List (Nat × Nat) := [(0, 0), (1, 1 + index % 2), (1, 2 - index % 2), (2, 3)]

/-- A grant for a new KV page: the page identifier and GEN, or refused; SRV_PAGE_FAIL counts a refusal for want of a frame
(R177, R505). -/
def grantPage (s : State) (p index : Nat) : State × Option (Nat × Nat) :=
  if !poolActive s p then (s, none)
  else
    let r := takeFirst (grantOrder index) s p
    match r.2 with
    | some id => (r.1, some (id, match frameAt r.1 p id with | some f => f.gen | none => 0))
    | none => ({ r.1 with srv := { r.1.srv with pageFail := satAdd 32 r.1.srv.pageFail 1 } }, none)

/-- A grant in the deck and local tiers only, for a page that moves back in. -/
def grantLocal (s : State) (p index : Nat) : State × Option Nat :=
  if poolActive s p then takeFirst [(0, 0), (1, 1 + index % 2), (1, 2 - index % 2)] s p else (s, none)

/-- A grant in one tier, for a page that moves out: 2 remote, 3 flash. -/
def grantTier (s : State) (p tier : Nat) : State × Option Nat :=
  if poolActive s p then takeFirst [(tier, if tier = 2 then 3 else 4)] s p else (s, none)

/-! ### Reference counts (R179) -/

/-- A use of the prefix-index entries that a test names (11 R244). -/
def usePrefix (s : State) (t : PfxEntry → Bool) : State :=
  { s with mov := { s.mov with useSeq := s.mov.useSeq + 1,
                               index := s.mov.index.map fun e => if t e then { e with lastUse := s.mov.useSeq + 1, useTick := s.tkp.now } else e } }

/-- Frees a frame to the front of its list. -/
def freeFrame (s : State) (p id : Nat) (f : Frame) : State :=
  let s1 := setFrame s p id { f with state := 0, refs := 0 }
  let s2 := if f.retired then s1 else setFree s1 p (listOf s f) (id :: freeList s1 p (listOf s f))
  settlePool { s2 with fla := { s2.fla with pages := NMap.erase s2.fla.pages (frameKey p id),
                                            readTick := NMap.erase s2.fla.readTick (frameKey p id) } } p

/-- A move reads the frame's descriptor: one whose line reads uncorrected retires the frame. The flag says that the frame may move
(R506). -/
def moveRead (s : State) (p id : Nat) : State × Bool :=
  match frameAt s p id with
  | none => (s, false)
  | some f => if f.retired then (s, false) else if frameBad s p id then (retireFrame s p id, false) else (s, true)

/-- A share of a frame, with its status (R179, R506). -/
def sharePage (s : State) (p id : Nat) : State × Nat :=
  match frameAt s p id with
  | none => (s, stInvalid)
  | some f =>
    if f.retired ∨ frameBad s p id then (if f.retired then s else retireFrame s p id, stDeviceFault)
    else if 65535 ≤ f.refs then (s, stNoResource)
    else (setFrame s p id { f with refs := f.refs + 1 }, stOk)

/-- A release of a frame, with its status: a decrement at 0 is refused and recorded; at 0 the frame is freed (R179, R506). -/
def releasePage (s : State) (p id : Nat) : State × Nat :=
  match frameAt s p id with
  | none => (s, stInvalid)
  | some f =>
    if f.retired then (s, stOk)
    else if frameBad s p id then (retireFrame s p id, stOk)
    else if f.refs = 0 then (recordEvent s 0x3001 srcHw [], stInvalid)
    else if f.refs = 1 then (freeFrame s p id f, stOk)
    else (setFrame s p id { f with refs := f.refs - 1 }, stOk)

/-! ### Copies of pages -/

/-- Mark of the loads that fill a frame from a remote one, in place of a transfer list. -/
def pageTag : Nat := 2 ^ 67

/-- Copies lines of device memory; a source line that reads uncorrected is written uncorrected, with the event of R167
(R167, 17 R391). -/
def copyCarry (s : State) (src dst n : Nat) : State :=
  let bad := (List.range (n / 64)).filter fun i => lineBad s (src + 64 * i)
  let s1 := recordUncorrected (devWrite s dst (devRead s src n)).1 src n
  bad.foldl (fun y i => if onLost y (dst + 64 * i) then y else poisonLine y (dst + 64 * i)) s1

/-- Whether a location lies in this device's window. -/
def isHere (s : State) (loc : Nat) : Bool := loc / 2 ^ 40 == s.fab.device

/-- Puts bytes at a place of a frame: local memory, or stores to the device that holds it. -/
def pagePut (s : State) (loc off : Nat) (bs : List Byte) : State :=
  if isHere s loc then (devWrite s (loc % 2 ^ 40 + off) bs).1
  else issueReq s (loc / 2 ^ 40) (reqPacket 0x11 (loc + off) bs.length 0 false bs) none

/-- Pieces of a page that cross no 4,096-byte boundary. -/
def pagePieces (n : Nat) : List (Nat × Nat) := (List.range ((n + 4095) / 4096)).map fun i => (4096 * i, min 4096 (n - 4096 * i))

/-- Requests of a page copy that have no final status. -/
def pageLeft (s : State) (key : Nat) : Bool :=
  s.fab.tx.any fun t => (t.2.outst ++ t.2.held).any fun o => match o.origin with | some (n, _, _) => n == pageTag + key | none => false

/-- A load of a page copy has ended: its data land, or its lines are poisoned; with the last one the frame is GRANTED. -/
def pageReply (s : State) (key off loc st n : Nat) (bs : List Byte) : State :=
  let s1 := if st = stOk then pagePut s loc off bs
    else if isHere s loc then (linesOf (loc % 2 ^ 40 + off) n).foldl (fun y l => poisonLine y (64 * l)) s else s
  if pageLeft s1 key then s1
  else
    match frameAt s1 (key / 2 ^ 24) (key % 2 ^ 24) with
    | some f => if f.state = 2 then setFrame s1 (key / 2 ^ 24) (key % 2 ^ 24) { f with state := 1 } else s1
    | none => s1

/-- Copies a page from a place to a granted frame (R216, R217, log 26): a local source is copied now; a remote one by
loads, and the frame is MOVING until the last of them has come. Loads from a device outside the partition end DENIED at once (14 R331). -/
def copyPage (s : State) (pool from_ dst n : Nat) : State :=
  match frameAt s pool dst with
  | none => s
  | some f =>
    if isHere s from_ then
      if isHere s f.loc then copyCarry s (from_ % 2 ^ 40) (f.loc % 2 ^ 40) n
      else (pagePieces n).foldl (fun y p => pagePut y f.loc p.1 (devRead y (from_ % 2 ^ 40 + p.1) p.2)) s
    else if !inPartition s (from_ / 2 ^ 40) then
      (pagePieces n).foldl (fun y p => pageReply y (frameKey pool dst) p.1 f.loc stDenied p.2 []) (setFrame s pool dst { f with state := 2 })
    else
      (pagePieces n).foldl (fun y p => issueReq y (from_ / 2 ^ 40) (reqPacket 0x10 (from_ + p.1) p.2 0 false [])
        (some (pageTag + frameKey pool dst, p.1, f.loc))) (setFrame s pool dst { f with state := 2 })

/-- PAGE_BYTES of a pool. -/
def pageBytesOf (s : State) (p : Nat) : Nat := match poolAt s p with | some x => x.pageBytes | none => 0

/-- Takes the ranges of a copy that a burst has covered off a list: source, bytes, destination. -/
def cutRanges (ls : List (Nat × Nat × Nat)) (src n dst : Nat) : List (Nat × Nat × Nat) :=
  (ls.map fun r =>
    if r.1 ≤ src ∧ src + n ≤ r.1 + r.2.1 ∧ dst + r.1 = r.2.2 + src then
      [(r.1, src - r.1, r.2.2), (src + n, r.1 + r.2.1 - (src + n), dst + n)].filter fun x => x.2.1 != 0
    else [r]).flatten

/-! ### POOL_SET (R505) -/

/-- Deck extents of contexts, as ranges of device memory. -/
def extentRange (e : Extent) : Nat × Nat := (deckBase + 0x18000000 * e.die + 2 ^ 21 * e.first, 2 ^ 21 * e.count)

/-- Reads the extent list of a pool from its address; the fuel bounds it at 1,025 entries. The answer is the extents, or
the status that ends the command. -/
def readExtents : Nat → State → Nat → List (Nat × Nat × Nat) → List (Nat × Nat × Nat) ⊕ Nat
  | 0, _, _, _ => .inr stInvalid
  | n + 1, s, a, acc =>
    if !usableRange s a 16 then .inr stInvalid
    else if badRange s a 16 then .inr stDeviceFault
    else
      let b := devRead s a 16
      let base := fieldAt b 0 8
      let count := fieldAt b 8 4
      let tier := fieldAt b 12 1
      if fieldAt b 13 3 ≠ 0 then .inr stInvalid
      else if count = 0 then .inl acc
      else if 524288 < count ∨ 3 < tier then .inr stInvalid
      else readExtents n s (a + 16) (acc ++ [(base, count, tier)])

/-- The errors that the read of an extent list finds: it stops at the first (R167). -/
def extentsRead : Nat → State → Nat → State
  | 0, s, _ => s
  | n + 1, s, a =>
    if !usableRange s a 16 then s
    else if badRange s a 16 then recordUncorrected s a 16
    else if fieldAt (devRead s a 16) 13 3 ≠ 0 ∨ fieldAt (devRead s a 16) 8 4 = 0 then s
    else extentsRead n s (a + 16)

/-- The rules on where an extent lies (R505, R12). -/
def extentOk (s : State) (e : Nat × Nat × Nat) : Bool :=
  let a := e.1 % 2 ^ 40
  let n := 2 ^ 21 * e.2.1
  let here := e.1 / 2 ^ 40 == s.fab.device
  if e.2.2 = 0 then here && e.1 % 2 ^ 21 == 0 && decide (deckBase ≤ a ∧ a + n ≤ deckEnd)
  else if e.2.2 = 1 then here && e.1 % 2 ^ 21 == 0 && decide (a + n ≤ interI s)
  else if e.2.2 = 2 then !here && e.1 % 2 ^ 21 == 0 && decide (e.1 < 2 ^ 48 ∧ a + n ≤ 2 ^ 40)
  else e.1 == 0 && s.hst.nand

/-- The local range of an extent, empty for remote and flash. -/
def extentSpan (e : Nat × Nat × Nat) : Nat × Nat := if e.2.2 ≤ 1 then (e.1 % 2 ^ 40, 2 ^ 21 * e.2.1) else (0, 0)

/-- The range of a remote extent in the fabric's address space, empty for others. -/
def remoteSpan (e : Nat × Nat × Nat) : Nat × Nat := if e.2.2 = 2 then (e.1, 2 ^ 21 * e.2.1) else (0, 0)

/-- A remote extent meets one of another pool. -/
def remoteTaken (s : State) (pool : Nat) (e : Nat × Nat × Nat) : Bool :=
  s.srv.pools.any fun p => p.1 != pool && p.2.state != 0 &&
    p.2.extents.any fun x => overlaps (remoteSpan e).1 (remoteSpan e).2 (remoteSpan x).1 (remoteSpan x).2

/-- A local range meets another pool, a context's deck extents or a structure of R13. -/
def rangeTaken (s : State) (pool a n : Nat) : Bool :=
  (s.srv.pools.any fun p => p.1 != pool && p.2.state != 0 &&
    (overlaps a n p.2.frameTab (16 * p.2.frames) || p.2.extents.any fun e => overlaps a n (extentSpan e).1 (extentSpan e).2)) ||
  (s.slc.ctxs.any fun c => c.2.state != 0 && c.2.extents.any fun e => overlaps a n (extentRange e).1 (extentRange e).2) ||
  ((r13Areas s).any fun r => (match poolAt s pool with | some p => r.1 != p.frameTab | none => true) && overlaps a n r.1 r.2)

/-- Frames cut from extents: location and tier of each, in list order (R175). -/
def cutFrames (pageBytes : Nat) (es : List (Nat × Nat × Nat)) : List (Nat × Nat) :=
  (es.map fun e => (List.range (2 ^ 21 * e.2.1 / pageBytes)).map fun i => (if e.2.2 = 3 then 0 else e.1 + pageBytes * i, e.2.2)).flatten

/-- The descriptor that POOL_SET carries at byte 1 of its parameters. -/
def poolOfParams (r : JRec) (extents : List (Nat × Nat × Nat)) : Pool :=
  { state := r.par 1 1, p := r.par 2 1, model := r.par 3 2, pageBytes := r.par 5 4, frameTab := r.par 9 8, frames := r.par 17 4,
    tierMax := (List.range 4).map fun i => r.par (25 + 4 * i) 4, lowWater := r.par 41 4, extentPtr := r.par 49 8, extents := extents }

/-- The fields of the descriptor lie within their ranges and its reserved fields are 0. -/
def poolFieldsOk (r : JRec) (d : Pool) : Bool :=
  r.params.length == 65 && r.zeros 21 4 && r.zeros 45 4 && r.zeros 57 8 && decide (d.state ≤ 2) && [16, 32, 64].contains d.p &&
  decide (0 < d.pageBytes) && d.pageBytes % 4096 == 0 && d.frameTab % 64 == 0 && decide (1 ≤ d.frames ∧ d.frames ≤ 16777216) &&
  d.extentPtr % 64 == 0

/-- The geometry of a pool. -/
def sameGeometry (a b : Pool) : Bool :=
  a.p == b.p && a.model == b.model && a.pageBytes == b.pageBytes && a.frameTab == b.frameTab && a.frames == b.frames && a.extentPtr == b.extentPtr

/-- The extents of a new geometry and its frames, or the status that refuses it. -/
def poolGeometry (s : State) (pool : Nat) (d : Pool) : List (Nat × Nat × Nat) ⊕ Nat :=
  match readExtents 1025 s d.extentPtr [] with
  | .inr st => .inr st
  | .inl es =>
    let tab := 16 * d.frames
    if es.all (extentOk s) && decide (d.frames ≤ (cutFrames d.pageBytes es).length) && usableRange s d.frameTab tab &&
       es.all (fun e => !overlaps d.frameTab tab (extentSpan e).1 (extentSpan e).2) && !rangeTaken s pool d.frameTab tab &&
       es.all (fun e => !rangeTaken s pool (extentSpan e).1 (extentSpan e).2 && !remoteTaken s pool e)
    then .inl es else .inr stInvalid

/-- The pages of the extents are in device bias (R171, log 86). -/
def unbias (s : State) (es : List (Nat × Nat × Nat)) : State :=
  { s with mem := { s.mem with hostBias := s.mem.hostBias.filter fun p =>
      !(es.any fun e => overlaps (2 ^ 21 * p) (2 ^ 21) (extentSpan e).1 (extentSpan e).2) } }

/-- Writes every frame descriptor of a new geometry as FREE and fills the free lists, the lowest identifier first
(R505, log 19). -/
def installPool (s : State) (pool : Nat) (d : Pool) : State :=
  let cut := (cutFrames d.pageBytes d.extents).take d.frames
  let fs : List (Nat × Frame) := List.zipWith (fun i c => (i, Frame.mk c.1 c.2 0 0 0 false 0)) (List.range d.frames) cut
  let others := s.srv.frames.filter fun e => e.1 / 2 ^ 24 != pool
  let frames := fs.foldl (fun m e => NMap.insert m (frameKey pool e.1) e.2) others
  let s0 := unbias (wholeLines s d.frameTab (16 * d.frames)) d.extents
  let s1 : State := { s0 with srv := { s0.srv with frames := frames, pools := NMap.insert s0.srv.pools pool d } }
  (List.range 5).foldl (fun x l => setFree x pool l ((fs.filter fun e => listOf x e.2 == l).map (·.1))) s1

/-- Any frame of a pool is GRANTED or MOVING. -/
def poolBusy (s : State) (p : Nat) : Bool := (framesOf s p).any fun e => e.2.state != 0 && !e.2.retired

/-- POOL_SET is applied when it reaches DONE: the first case of R505's table. -/
def poolSet (s : State) (r : JRec) : State × Nat :=
  let pool := r.par 0 1
  let d := poolOfParams r []
  if !poolFieldsOk r d then (s, stInvalid)
  else
    match poolAt s pool with
    | none =>
      if d.state = 2 then (s, stInvalid)
      else if d.state = 0 then ({ s with srv := { s.srv with pools := NMap.insert s.srv.pools pool d } }, stOk)
      else
        match poolGeometry s pool d with
        | .inl es => (installPool s pool { d with extents := es }, stOk)
        | .inr st => (extentsRead 1025 s d.extentPtr, st)
    | some cur =>
      if !sameGeometry cur d && poolBusy s pool then (s, stBusy)
      else if d.state = 0 then
        if poolBusy s pool then (s, stBusy)
        else ({ s with srv := { s.srv with pools := NMap.insert s.srv.pools pool d } }, stOk)
      else if sameGeometry cur d then
        (settlePool { s with srv := { s.srv with pools := NMap.insert s.srv.pools pool { d with extents := cur.extents } } } pool, stOk)
      else
        match poolGeometry s pool d with
        | .inl es => (settlePool (installPool s pool { d with extents := es }) pool, stOk)
        | .inr st => (extentsRead 1025 s d.extentPtr, st)

end Sys2Proof.Machine
end

