-- ==== Sys2Proof/Machine/ServOps.lean ====
section
/-!
DEFINITION. The request table and the end of a request (10 R206 to R211, R232), its digest in contrail mode (20 R452)
and its notices on the move-in ring (11 R242).
-/
namespace Sys2Proof.Machine

/-! ### Entries -/

/-- A request-table entry. -/
def reqAt (s : State) (i : Nat) : Req := NMap.getD s.srv.reqs i {}
/-- Writes an entry. -/
def setReq (s : State) (i : Nat) (r : Req) : State := { s with srv := { s.srv with reqs := NMap.insert s.srv.reqs i r } }

/-- A live request is in any state other than FREE, DONE and ABORTED (R209). -/
def Req.live (r : Req) : Bool := r.state != 0 && r.state != 7 && r.state != 8
/-- A live request other than one in MOVING or PENDING. -/
def Req.own (r : Req) : Bool := r.live && r.state != 3 && r.state != 9

/-- The live entries of a slice, with their indices. -/
def liveOf (s : State) (slice : Nat) : List (Nat × Req) := s.srv.reqs.filter fun e => e.2.live && e.2.slice == slice

/-- P of an entry's pool. -/
def pageP (s : State) (r : Req) : Nat := match NMap.find? s.srv.pools r.pool with | some x => x.p | none => 16

/-- A token-log entry (R208). -/
def logToken (s : State) (r : Req) (i : Nat) : Nat := devNat s (r.tokenLog + 4 * i) 4

/-- Writes the page-list entry at an index: the page identifier and its GEN (R208). -/
def putPage (s : State) (r : Req) (i id gen : Nat) : State := (devWrite s (r.pageList + 8 * i) (leBytes 8 (id + 2 ^ 32 * gen))).1

/-- The page list in memory is readable and holds, for every page, the GEN of its frame (R211). -/
def listSound (s : State) (r : Req) : Bool :=
  !badRange s r.pageList (8 * r.pages.length) &&
  (List.zipWith (fun i (p : Nat × Nat) =>
      r.dropped.contains i ||
      (devNat s (r.pageList + 8 * i) 8 == p.1 + 2 ^ 32 * p.2 &&
       (match frameAt s r.pool p.1 with | some f => f.gen == p.2 && f.state != 0 | none => false)))
    (List.range r.pages.length) r.pages).all id

/-- Pages dropped at the end of a list leave it, and PAGE_COUNT falls to match (log 26). -/
def trimDropped (r : Req) : Req :=
  let keep := ((List.range r.pages.length).filter fun k => !r.dropped.contains k).foldl (fun m k => max m (k + 1)) 0
  { r with pages := r.pages.take keep, pageCount := keep, dropped := r.dropped.filter (· < keep) }

/-- A request other than entry `i` holds a frame. -/
def othersHold (s : State) (i p id : Nat) : Bool :=
  s.srv.reqs.any fun e => e.1 != i && e.2.pool == p &&
    (List.zip (List.range e.2.pages.length) e.2.pages).any fun x => x.2.1 == id && !e.2.dropped.contains x.1

/-- Entry `i` releases its reference of a frame; the release of the last request reference is a use of the frame's prefix entries
(11 R244). -/
def releaseHeld (s : State) (i p id : Nat) : State :=
  let s1 := (releasePage s p id).1
  if !othersHold s i p id ∧ s.mov.index.any (fun e => e.pool == p && e.frame == id) then usePrefix s1 fun e => e.pool == p && e.frame == id else s1

/-- Releases the pages that entry `i` holds from an index on, but those that reclaim has dropped. -/
def releasePages (s : State) (i : Nat) (r : Req) (from_ : Nat) : State :=
  ((List.zip (List.range r.pages.length) r.pages).filter fun e => decide (from_ ≤ e.1) && !r.dropped.contains e.1).foldl
    (fun x e => releaseHeld x i r.pool e.2.1) s

/-- The role of a slice (11 R233). -/
def roleOf (s : State) (slice : Nat) : Role := NMap.getD s.mov.roles slice {}

/-! ### Result record and notices -/

/-- The result record of R232. -/
def resultRecord (s : State) (i : Nat) (r : Req) (status reason : Nat) : List Byte :=
  leBytes 2 status ++ leBytes 1 reason ++ leBytes 1 0 ++ leBytes 4 r.genLen ++ leBytes 4 r.commitLen ++ leBytes 2 i ++
    leBytes 2 r.entryGen ++ leBytes 8 s.tkp.now ++ List.replicate 8 0

/-- Posts a notice on the move-in ring of a slice (11 R242): type 1 at commit, 2 at the end. -/
def moveNotice (s : State) (i : Nat) (r : Req) (status reason kind : Nat) : State :=
  let ro := roleOf s r.slice
  let body := resultRecord s i r status reason ++ leBytes 4 r.reqId ++ leBytes 2 kind ++ List.replicate 26 0
  let s1 := devPut s (ro.ringPtr + 64 * (ro.notices % 1024)) body
  let s2 := bumpCounter s1 (ro.ringPtr + 65536)
  { s2 with mov := { s2.mov with roles := NMap.insert s2.mov.roles r.slice { ro with notices := ro.notices + 1 } } }

/-! ### Contrail digests (20 R452) -/

/-- The body of a digest record's message. -/
def digestBytes (d : Digest) : List Byte := leBytes 4 d.reqId ++ leBytes 4 d.genLen ++ leBytes 8 d.crc.toNat

/-- Compares an own digest with the partner's: MATCHED, or MISMATCHED with its event and a full sentinel pass. The shadowed device answers
with its own record, from which the shadow counts the same (log 48). -/
def digestCompare (s : State) (own theirs : Digest) : State :=
  let s1 := if s.ras.contrail = 2 then sendMsg s s.ras.conPartner 0x0120 0 [own.reqId, own.genLen, own.crc.toNat] (digestBytes own) else s
  if own.genLen = theirs.genLen ∧ own.crc = theirs.crc then { s1 with ras := { s1.ras with matched := satAdd 32 s1.ras.matched 1 } }
  else
    let s2 := recordEvent s1 0x0002 7 []
    { s2 with ras := { s2.ras with mismatched := satAdd 16 s2.ras.mismatched 1, conMiss := s2.ras.conMiss + 1, sentAll := some (s.tkp.now + 80000) } }

/-- A shadow is READY once 100,000 records have matched, none has differed, and 24 h have passed since contrail mode was
set (20 R453). -/
def readyCheck (s : State) : State :=
  if s.ras.contrail = 1 ∧ 100000 ≤ s.ras.matched ∧ s.ras.conMiss = 0 ∧ s.ras.conSince + 24 * 3600 * ticksPerSec ≤ s.tkp.now then
    { s with ras := { s.ras with ready := true } }
  else s

/-- A digest of this device meets the partner's record of the same REQ_ID, or waits for it. -/
def ownDigest (s : State) (d : Digest) : State :=
  match s.ras.theirs.find? fun x => x.reqId == d.reqId with
  | some t => readyCheck (digestCompare { s with ras := { s.ras with theirs := s.ras.theirs.filter fun x => x.reqId != d.reqId } } d t)
  | none => { s with ras := { s.ras with digests := s.ras.digests ++ [d] } }

/-- The digest record that a compared request forms at its end. -/
def formDigest (s : State) (r : Req) (reason : Nat) : State :=
  if s.ras.contrail ≠ 0 ∧ s.ras.conSlices.getLsbD r.slice ∧ [1, 2, 3, 4, 10].contains reason then
    let crc := crc64 (devRead s (r.tokenLog + 4 * r.promptLen) (4 * r.genLen))
    let d : Digest := ⟨r.reqId, r.genLen, crc, s.tkp.now⟩
    let s1 := if s.ras.contrail = 1 then sendMsg s s.ras.conPartner 0x0120 0 [r.reqId, r.genLen, crc.toNat] (digestBytes d) else s
    ownDigest s1 d
  else s

/-! ### The end of a request -/

/-- A command's DONE completion has been written: its record is DONE and waits for no partner and no room. -/
def cmdDone (s : State) (q seq : Nat) : Bool :=
  (match findRec s q seq with | some r => r.stage == 3 | none => true) &&
  !s.hst.mirWait.contains (q, seq) && s.hst.parkWait.all (fun w => !(w.1 == q && w.2.1 == seq))

/-- Drops one reference of an adapter slot or a grammar header. -/
def dropRefs (s : State) (r : Req) : State :=
  let ad := s.srv.adapters.map fun (e : Nat × Adapter) =>
    (e.1, if r.adapter ≠ 0xFFFF ∧ e.2.state ≠ 0 ∧ e.2.handle = r.adapter ∧ e.2.version = r.adapterVer then { e.2 with refs := e.2.refs - 1 } else e.2)
  let gr := if r.grammar ≠ 0xFFFF then NMap.adjust s.srv.grammars r.grammar fun g => { g with refs := g.refs - 1 } else s.srv.grammars
  { s with srv := { s.srv with adapters := ad, grammars := gr } }

/-- An entry returns to FREE: its adapter and grammar references fall, its count of failed moves is forgotten, and ENTRY_GEN rises by 1
(R211, R225, 11 R237). -/
def clearEntry (s : State) (i : Nat) (r : Req) : State :=
  let s1 := dropRefs s r
  setReq { s1 with mov := { s1.mov with failStreak := NMap.erase s1.mov.failStreak i } } i { entryGen := (r.entryGen + 1) % 65536 }

/-- An ended entry returns to FREE once its completion is written (R211). -/
def freeEnded (s : State) (i : Nat) : State :=
  let r := reqAt s i
  if (r.state = 7 ∨ r.state = 8) ∧ (r.cmdSeq = 0 ∨ cmdDone s r.cmdQ r.cmdSeq) then
    clearEntry s i r
  else s

/-- A request ends: DONE (7) with its reason, or ABORTED (8). Its pages are released, the result is
written, and REQ_ADMIT reaches DONE, or the second notice of a moved-in request is posted (R211, R232, 11 R242). -/
def endReq (s : State) (i state reason : Nat) : State :=
  let r := reqAt s i
  let status := if state = 7 then stOk else stAborted
  let s1 := releasePages s i r 0
  let r1 : Req := { r with state := state, reason := reason, pages := [], pageCount := 0, dropped := [], abortAsk := none, swapAsk := false }
  let s2 := formDigest (setReq s1 i r1) r reason
  let s3 := if r.cmdSeq = 0 then moveNotice s2 i r status reason 2
    else finishWith s2 r.cmdQ r.cmdSeq status 0 (resultRecord s2 i r status reason)
  freeEnded s3 i

/-- Frees an entry without an end of its request: it moved, or a move into it was abandoned (R211). -/
def freeReq (s : State) (i : Nat) : State :=
  let r := reqAt s i
  clearEntry (releasePages s i r 0) i r

/-! ### Contexts that serve (17 R385) -/

/-- The serving context of a slice. -/
def servingCtx (s : State) (slice : Nat) : Option Nat :=
  (List.find? (fun (c : Nat × Ctx) => c.2.state != 0 && c.2.serving && c.2.slice == slice) s.slc.ctxs).map (·.1)

/-- The serving context of a slice is ACTIVE and not held. -/
def servingActive (s : State) (slice : Nat) : Bool :=
  match servingCtx s slice with
  | some c => (ctxAt s c).state == 3 && !(ctxAt s c).holding
  | none => false

/-! ### Memory charged to a slice (17 R380) -/

/-- The frames in local tiers that a slice's requests hold, each once. -/
def heldFrames (s : State) (slice : Nat) : List Nat :=
  ((liveOf s slice).map fun e => e.2.pages.filterMap fun p =>
    match frameAt s e.2.pool p.1 with
    | some f => if f.tier ≤ 1 then some (frameKey e.2.pool p.1) else none
    | none => none).flatten.foldl addSet []

/-- Bytes charged against MEM_MIB when the slice's requests hold some more frames: local frames, each once, and the landing zones of the
slice's contexts. -/
def memWith (s : State) (slice : Nat) (more : List Nat) : Nat :=
  ((more.foldl addSet (heldFrames s slice)).map fun k => match NMap.find? s.srv.pools (k / 2 ^ 24) with | some x => x.pageBytes | none => 0).foldl (· + ·) 0 +
  ((s.slc.ctxs.filter fun c => c.2.state != 0 && c.2.slice == slice).map fun c => c.2.landBytes).foldl (· + ·) 0

/-- Bytes charged against MEM_MIB. -/
def memCharged (s : State) (slice : Nat) : Nat := memWith s slice []

/-- The quotas of a slice. -/
def quotaOf (s : State) (slice : Nat) : Quota := NMap.getD s.slc.quotas slice {}

end Sys2Proof.Machine
end

