-- ==== Sys2Proof/Machine/Array.lean ====
section
/-!
DEFINITION. The matrix arrays (05, 06): MMA, WLD, ROUT, LOUT and LIN, their issue rules, and what each leaves in flight. An MMA and
a weight load keep a copy of the tile store as it stands at issue, which every store that lands before a byte's read cycle
changes (R102).
-/
namespace Sys2Proof.Machine

/-! ### Blocks and masks -/

/-- A block index: S[r][20:12] + offset, modulo 512 (R97). -/
def Tile.blockIx (x : Tile) (r off : Nat) : Nat := ((x.getS r).toNat / 2 ^ 12 % 512 + off) % 512

/-- The mask of an operation: bit m set, row m present (R97, R111). -/
def Tile.rowMask (x : Tile) (mk : Nat) : W64 := if mk < 16 then x.getMK mk else BitVec.allOnes 64

/-- The ROW_MAP value of an array of a tile (R113). -/
def retiredRow (s : State) (t arr : Nat) : Nat := NMap.getD s.dies.rowMap (88 * dieOf t + 2 * physOf s t + arr) 0x7F

/-! ### Weight sets (R96, R99) -/

/-- Loads block `j` into the set that is not active, from cycle `c` on, and moves the pointer to it. -/
def ArrayUnit.load (u : ArrayUnit) (x : Tile) (fmt j c ret : Nat) : ArrayUnit :=
  let w : WSet := { filled := true, fmt := fmt, base := j, block := x.block j, strip := x.strip (stripOf (fmt == 0x7) j), cyc := c, ret := ret }
  if u.active = 0 then { u with set1 := w, active := 1 } else { u with set0 := w, active := 0 }

/-! ### Issue rules of the arrays (R101, 07 R158) -/

/-- An operation of an array may issue: the occupancy of the previous one has passed. -/
def ArrayUnit.spaced (u : ArrayUnit) (c : Nat) : Bool := decide (u.freeAt ≤ c)

/-- 73 cycles have passed since the last MMA that named the block (R101). -/
def ArrayUnit.settled (u : ArrayUnit) (b c : Nat) : Bool :=
  match NMap.find? u.lastMma b with
  | some k => decide (k + 73 ≤ c)
  | none => true

/-- Takes the output-stage port for a range of cycles. -/
def ArrayUnit.hold (u : ArrayUnit) (lo hi : Nat) : ArrayUnit := { u with portHeld := (lo, hi) :: u.portHeld }

/-- No VLDT or VSTT uses the port in a range of cycles (07 R158). -/
def ArrayUnit.portClear (u : ArrayUnit) (lo hi : Nat) : Bool := !decide (u.portUse ≠ 0 ∧ lo ≤ u.portUse ∧ u.portUse ≤ hi)

/-- Notes the use of a block and the array's next free cycle. -/
def ArrayUnit.take (u : ArrayUnit) (b free : Nat) : ArrayUnit := { u with used := addSet u.used b, freeAt := free }

/-- The tile with more writes in flight; none of them is to a register. -/
def Tile.pushAll (x : Tile) (ws : List (Nat × TWrite)) : Tile := { x with pend := ws.foldl addPend x.pend }

/-- An operation has issued to an array in the current beat. That is an array start if none issued to it in the preceding beat: it takes one of
the beat's allowance, which the start of its kernel has already taken in the kernel's first beat (02 R32; log 49). -/
def arrayStart (s : State) (t arr : Nat) : State :=
  let old := ((tileAt s t).getArr arr).lastBeat
  let first : Bool := match (tileAt s t).run with | some r => 1250 * r.tick + r.beat == launch s | none => true
  let s1 := modTile s t fun x => x.setArr arr { x.getArr arr with lastBeat := launch s + 1 }
  if first ∨ launch s ≤ old then s1 else { s1 with tkp := { s1.tkp with startsThisBeat := s1.tkp.startsThisBeat + 1 } }

/-- Issues an operation of an array; one that does not issue, because nothing runs or the tile faults, starts no array. -/
def arrayOp (s : State) (t c arr : Nat) (f : Tile → SlotRes) : State :=
  let s1 := slotOp s t c f
  if (tileAt s1 t).run.isSome ∧ (tileAt (timedDue s (tickCycle s t c)) t).wait = none then arrayStart s1 t arr else s1

/-! ### MMA and WLD -/

/-- What an MMA that issued at cycle `c` on an array leaves in flight: row m in ACC at c + 74 + m, and for an error its check at the
foot in c + 67 + m and at the anvils in c + 73 + m (R98, R100, R116 to R119). -/
def mmaEvents (arr c : Nat) (err : Option ColErr) : List (Nat × TWrite) :=
  (match err with
   | some e => [(c + 67 + e.row, .check arr c), (c + 73 + e.row, .check arr c)]
   | none => []) ++ (List.range 64).map fun m => (c + 74 + m, .anvilRow arr c m)

/-- MMA on the tile (R98 to R101): `ret` is the array's ROW_MAP value. -/
def Tile.mma (x : Tile) (c : Nat) (o : ArrOp) (ret : Nat) (err : Option ColErr) : SlotRes :=
  let u := x.getArr o.arr
  let w := u.getSet u.active
  if u.spaced c && (o.clr || u.used.contains o.acc) && w.filled && fmtClass w.fmt == fmtClass o.fmt then
    let i := x.blockIx o.sa o.aoff
    let f : Flight := { cyc := c, acc := o.acc, fmt := o.fmt, clr := o.clr, mask := x.rowMask o.msk, base := i, ret := ret, pc := x.pc,
                        block := x.block i, strip := x.strip (stripOf (aIsL o.fmt w.isL) i), w := w, err := err }
    let u1 := { u.take o.acc (c + 64) with lastMma := NMap.insert u.lastMma o.acc c, flights := u.flights ++ [f] }
    let u2 := if o.ld then u1.load x o.fmt (x.blockIx o.sb o.boff) c ret else u1
    .done (((x.setArr o.arr u2).pushAll (mmaEvents o.arr c err)).ends (c + 137))
  else .broke

/-- MMA (R100): streams A against the active weight set into ACC, with LD = 1 loads the next weights; where an error strikes the
column sum, the residue path or an anvil add, the check may show it (R116 to R119). -/
def execMma (t c : Nat) (o : ArrOp) (err : Option ColErr) (s : State) : Out :=
  .next (arrayOp s t c o.arr fun x => x.mma c o (retiredRow s t o.arr) err)

/-- WLD on the tile (R98, R99). -/
def Tile.wld (x : Tile) (c : Nat) (o : ArrOp) (ret : Nat) : SlotRes :=
  let u := x.getArr o.arr
  if u.spaced c then
    .done ((x.setArr o.arr { u.load x o.fmt (x.blockIx o.sb o.boff) c ret with freeAt := c + 64 }).ends (c + 64))
  else .broke

/-- WLD (R98, R99): loads B into the other weight set and makes it active. -/
def execWld (t c : Nat) (o : ArrOp) (s : State) : Out := .next (arrayOp s t c o.arr fun x => x.wld c o (retiredRow s t o.arr))

/-! ### ROUT, LOUT and LIN (R98, R102, R138 to R140) -/

/-- ROUT on the tile: present row m is written in cycle c + 4 + m and seen in the next (R98, R102). -/
def Tile.rout (x : Tile) (c : Nat) (o : ArrOp) : SlotRes :=
  let u := x.getArr o.arr
  if u.spaced c && u.used.contains o.acc && u.settled o.acc c && u.portClear (c + 4) (c + 67) then
    let i := x.blockIx o.sa o.aoff
    let rows := (List.range 64).filter (x.rowMask o.msk).getLsbD
    .done (((x.setArr o.arr { u.hold (c + 4) (c + 67) with freeAt := c + 64 }).pushAll
      (rows.map fun m => (c + 5 + m, .outRow o.arr o.acc o.fmt i m))).ends (c + 68))
  else .broke

/-- ROUT (R98): rounds each present row of ACC once and writes it; absent rows keep their bytes and strip bytes. -/
def execRout (t c : Nat) (o : ArrOp) (s : State) : Out := .next (arrayOp s t c o.arr fun x => x.rout c o)

/-- LOUT on the tile: the block and the exchange header stand in the store from cycle c + 389 on (R98). -/
def Tile.lout (x : Tile) (c : Nat) (o : ArrOp) : SlotRes :=
  let u := x.getArr o.arr
  if u.spaced c && u.used.contains o.acc && u.settled o.acc c && u.portClear (c + 1) (c + 389) then
    .done ((x.setArr o.arr { u.hold (c + 1) (c + 389) with freeAt := c + 392 }).pushAll
      [(c + 389, .outLong o.arr o.acc (x.blockIx o.sa o.aoff))])
  else .broke

/-- LOUT (R98, R138, R139): the values in 24 consecutive blocks, the header in the first block's strip. -/
def execLout (t c : Nat) (o : ArrOp) (s : State) : Out := .next (arrayOp s t c o.arr fun x => x.lout c o)

/-- LIN on the tile: the values are read in cycle c + 1, the block is readable from c + 392 on, and a mismatch of the duplicated add
shows in the cycle before (R98, R118, R140, log 81). -/
def Tile.lin (x : Tile) (c : Nat) (o : ArrOp) (err : Option ColErr) : SlotRes :=
  let u := x.getArr o.arr
  if u.spaced c && (o.clr || u.used.contains o.acc) && u.settled o.acc c && u.portClear (c + 1) (c + 392) then
    let rd := x.land (c + 1)
    let i := x.blockIx o.sa o.aoff
    let vals := (List.range 4096).map fun k => anvilOfBytes (bytesAt rd.stByte (4096 * i + 24 * k) 24)
    let miss := (err.filter addMismatch).map fun e => (c + 391, o.arr, e.col, e.row, x.pc)
    .done ((x.setArr o.arr ((u.hold (c + 1) (c + 392)).take o.acc (c + 392))).pushAll
      [(c + 392, .inLong o.arr o.acc o.clr ((rd.strip i).take 64) vals miss)])
  else .broke

/-- LIN (R98, R140): adds long values exactly into ACC, or replaces it with CLR = 1. -/
def execLin (t c : Nat) (o : LinOp) (s : State) : Out := .next (arrayOp s t c o.op.arr fun x => x.lin c o.op o.err)

end Sys2Proof.Machine
end

