-- ==== Sys2Proof/Machine/View.lean ====
section
/-!
DEFINITION. The device's tables as they stand in device memory: the pool, frame, request, budget, adapter, grammar and region
tables and the plan headers (03, 08 R175, R176, 10 R207, R215, R223, R229, 14 R328). State holds them by their fields; a reader
of device memory finds the bytes that the layouts give.
-/
namespace Sys2Proof.Machine

/-- The 128 bytes of an entry (10 R207). -/
def reqBytes (r : Req) : List Byte :=
  leBytes 1 r.state ++ leBytes 1 r.slice ++ leBytes 1 r.prio ++ leBytes 1 r.reason ++ leBytes 4 r.reqId ++ leBytes 8 r.deadline ++
  leBytes 4 r.commitLen ++ leBytes 2 r.specLen ++ leBytes 2 r.bucket ++ leBytes 8 r.pageList ++ leBytes 4 r.pageCount ++
  leBytes 4 r.pageCap ++ leBytes 2 r.adapter ++ leBytes 2 r.adapterVer ++ leBytes 2 r.grammar ++ leBytes 2 r.gstate ++
  leBytes 1 r.gsp ++ leBytes 1 r.pool ++ leBytes 1 r.draftMax ++ leBytes 1 (r.resume + 4 * bit1 r.recompute) ++ leBytes 4 r.maxNew ++
  leBytes 8 r.seed.toNat ++ leBytes 4 r.step ++ leBytes 4 r.promptLen ++ leBytes 4 r.prefillPos ++ leBytes 4 r.roleLoc ++
  leBytes 8 r.tokenLog ++ leBytes 4 r.eos ++ leBytes 4 r.temp.toNat ++ leBytes 4 r.topP.toNat ++ leBytes 4 r.minP.toNat ++
  leBytes 2 r.topK ++ leBytes 2 r.entryGen ++ leBytes 4 r.genLen ++ leBytes 8 r.resultPtr ++ leBytes 8 r.admitTick

/-- The 64 bytes of a pool descriptor (08 R175). -/
def poolBytes (p : Pool) : List Byte :=
  leBytes 1 p.state ++ leBytes 1 p.p ++ leBytes 2 p.model ++ leBytes 4 p.pageBytes ++ leBytes 8 p.frameTab ++ leBytes 4 p.frames ++
  leBytes 4 0 ++ ((List.range 4).map fun i => leBytes 4 (p.tierMax.getD i 0)).flatten ++ leBytes 4 p.lowWater ++ leBytes 4 0 ++
  leBytes 8 p.extentPtr ++ leBytes 8 0

/-- The 16 bytes of a frame descriptor (08 R176). -/
def frameBytes (f : Frame) : List Byte :=
  leBytes 6 f.loc ++ leBytes 1 f.tier ++ leBytes 1 f.state ++ leBytes 2 f.refs ++ leBytes 2 0 ++ leBytes 4 f.gen

/-- The 16 bytes of a budget bucket (10 R215). -/
def bucketBytes (b : Bucket) : List Byte := leBytes 8 (BitVec.ofInt 64 b.level).toNat ++ leBytes 4 b.rate ++ leBytes 4 b.cap

/-- The 32 bytes of an adapter slot (10 R223). -/
def adapterBytes (a : Adapter) : List Byte :=
  leBytes 2 a.handle ++ leBytes 2 a.version ++ leBytes 1 a.state ++ leBytes 1 a.pool ++ leBytes 2 a.rank ++ leBytes 4 a.refs ++
  leBytes 4 0 ++ leBytes 8 a.weights ++ leBytes 8 a.bytes

/-- The 64 bytes of a grammar header (10 R229). -/
def grammarBytes (g : Grammar) : List Byte :=
  leBytes 1 1 ++ leBytes 3 0 ++ leBytes 4 g.vocab ++ leBytes 4 g.states ++ leBytes 2 g.start ++ leBytes 2 (g.masks % 65536) ++
  leBytes 4 g.trans ++ leBytes 4 g.refs ++ leBytes 8 g.stateTab ++ leBytes 8 g.maskTab ++ leBytes 8 g.transTab ++ List.replicate 16 0

/-- The 16 bytes of a region-table entry (14 R328). -/
def regionBytes (r : Region) : List Byte :=
  leBytes 1 r.owner ++ leBytes 1 (bit1 r.valid + 2 * bit1 r.readAny + 4 * bit1 r.system) ++ leBytes 2 r.jobTag ++ leBytes 4 0 ++ leBytes 8 r.tick

/-- The region-table entry of an address; firmware marks SYSTEM the regions of the structures of R13 and of the channel-local range (R329). -/
def regionOf (s : State) (a : Nat) : Region :=
  let r : Region := NMap.getD s.fab.regions (a / 2 ^ 21) {}
  { r with system := r.system || isProtected s (a / 2 ^ 21 * 2 ^ 21) (2 ^ 21) }

/-- STATE of a plan header by its code (03). -/
def planCode : PlanState → Nat
  | .empty => 0 | .building => 1 | .sealed => 2 | .running => 3 | .retired => 4 | .substituted => 5

/-- Logical tiles in a mask. -/
def maskCount (m : BitVec 160) : Nat := ((List.range 160).filter m.getLsbD).length

/-- Bytes 0 to 119 of a plan header (03). -/
def planHead (p : Plan) : List Byte :=
  leBytes 8 p.tick ++ leBytes 1 (planCode p.state) ++ leBytes 1 p.clock ++ leBytes 2 (maskCount p.floorMask) ++ leBytes 20 p.floorMask.toNat ++
  leBytes 8 p.overcastPtr ++ leBytes 4 p.words ++ leBytes 2 p.floorPred ++ leBytes 2 0 ++ leBytes 8 p.sharePtr ++
  leBytes 8 p.cellPtr ++ leBytes 2 p.cells.length ++ List.replicate 54 0

/-- The 128 bytes of a plan header. -/
def planBytes (p : Plan) : List Byte := planHead p ++ leBytes 8 p.sealW.toNat

/-- A share table: 160 rows of 64 shares (17 R382). -/
def shareBytes (shares : NMap Nat) (t : Nat) : List Byte := ((List.range 64).map fun i => leBytes 2 (NMap.getD shares (64 * t + i) 0)).flatten

/-- A slot descriptor of 64 bytes (13 R300). -/
def slotBytes (c : CellSlot) : List Byte :=
  leBytes 2 c.cell ++ leBytes 1 (if c.twilight then 2 else 1) ++ leBytes 1 c.mu ++ leBytes 2 c.sfn ++ leBytes 1 c.slot ++ leBytes 1 c.tickInSlot ++
  leBytes 1 c.rxSync ++ leBytes 1 c.codeSync ++ leBytes 2 (bit1 c.late + 2 * bit1 c.noData) ++ leBytes 4 0 ++ leBytes 8 c.workPtr ++
  leBytes 8 c.dlPtr ++ leBytes 8 c.ulPtr ++ leBytes 8 c.statePtr ++ List.replicate 16 0

/-- The grammar stack of a request, lowest entry first, in its area of 128 bytes (10 R230). -/
def stackBytes (r : Req) : List Byte :=
  let b := (r.stack.reverse.map fun e => leBytes 2 e).flatten
  b ++ List.replicate (128 - b.length) 0

/-- A table in device memory: first address, bytes of an entry, entries, and the bytes of the entry at an index. -/
structure TableView where
  base  : Nat
  size  : Nat
  count : Nat
  entry : Nat → List Byte

/-- What the plans of the ring record outside it. -/
def planViews (p : Plan) : List TableView :=
  [⟨p.overcastPtr, p.stream.length, 1, fun _ => p.stream⟩, ⟨p.sharePtr, 128, 160, shareBytes p.shares⟩,
   ⟨p.cellPtr, 64, p.cells.length, fun i => p.cells[i]?.elim [] slotBytes⟩]

/-- The tables that have a place. -/
def tableViews (s : State) : List TableView :=
  let fixed : List TableView := [⟨s.tkp.planBase, 128, 16, fun i => (NMap.find? s.tkp.plans i).elim [] planBytes⟩,
    ⟨s.srv.poolBase, 64, 256, fun i => (NMap.find? s.srv.pools i).elim [] poolBytes⟩,
    ⟨s.srv.reqBase, 128, 16384, fun i => reqBytes (NMap.getD s.srv.reqs i {})⟩,
    ⟨s.srv.budgetBase, 16, 4096, fun i => (NMap.find? s.srv.buckets i).elim [] bucketBytes⟩,
    ⟨s.srv.adapterBase, 32, 256, fun i => (NMap.find? s.srv.adapters i).elim [] adapterBytes⟩,
    ⟨s.srv.grammarBase, 64, 256, fun i => (NMap.find? s.srv.grammars i).elim [] grammarBytes⟩,
    ⟨if s.srv.grammarBase = 0 then 0 else s.srv.grammarBase + 16384, 128, 16384, fun i => stackBytes (NMap.getD s.srv.reqs i {})⟩,
    ⟨s.fab.regionBase, 16, 524288, fun i => regionBytes (regionOf s (2 ^ 21 * i))⟩]
  let plans := (s.tkp.plans.map fun (e : Nat × Plan) => planViews e.2).flatten ++
    s.tkp.overlays.map fun (e : Nat × Overlay) => TableView.mk e.2.overcastPtr e.2.stream.length 1 fun _ => e.2.stream
  (fixed ++ plans ++ (s.srv.pools.filter (fun (p : Nat × Pool) => p.2.state ≠ 0)).map fun (p : Nat × Pool) =>
     TableView.mk p.2.frameTab 16 p.2.frames fun i => (NMap.find? s.srv.frames (2 ^ 24 * p.1 + i)).elim [] frameBytes).filter fun t => t.base ≠ 0

/-- A byte of a table at an address; none outside it. -/
def TableView.byte (t : TableView) (a : Nat) : Option Byte :=
  if t.base ≤ a ∧ a < t.base + t.size * t.count then some ((t.entry ((a - t.base) / t.size)).getD ((a - t.base) % t.size) 0) else none

/-- What a reader of device memory finds: the tables over the bytes of memory. -/
def viewRead (s : State) (a n : Nat) : List Byte :=
  let ts := (tableViews s).filter fun t => overlaps a n t.base (t.size * t.count)
  if ts.isEmpty then devRead s a n
  else List.zipWith (fun i b => (ts.findSome? fun t => t.byte (a + i)).getD b) (List.range n) (devRead s a n)

/-! ### Encrypted regions (21 R473) -/

/-- The GDDR7 ranges charged to a slice: the local frames of its requests, their token logs and page lists, and the landing
zones of its contexts. -/
def chargedRanges (s : State) (slice : Nat) : List (Nat × Nat) :=
  ((s.srv.reqs.filter fun (e : Nat × Req) => e.2.slice == slice && !([0, 7, 8].contains e.2.state)).map fun (e : Nat × Req) =>
    [(e.2.pageList, 8 * e.2.pageCap), (e.2.tokenLog, 4 * (e.2.promptLen + e.2.maxNew))] ++
    e.2.pages.filterMap fun p => match NMap.find? s.srv.frames (2 ^ 24 * e.2.pool + p.1), NMap.find? s.srv.pools e.2.pool with
      | some f, some pool => if f.tier = 1 then some (f.loc % 2 ^ 40, pool.pageBytes) else none
      | _, _ => none).flatten ++
  (s.slc.ctxs.filter fun (c : Nat × Ctx) => c.2.state != 0 && c.2.slice == slice).map fun (c : Nat × Ctx) => (c.2.landing, c.2.landBytes)

/-- The key index of the 2 MiB region that holds an address: the encrypted slice to which it is charged, or 0xFF plaintext. The
deck is never encrypted. -/
def keyIndex (s : State) (a : Nat) : Nat :=
  if deckBase ≤ a then 0xFF
  else match List.find? (fun (k : Nat × List Byte) => (chargedRanges s k.1).any fun r => overlaps (2 ^ 21 * (a / 2 ^ 21)) (2 ^ 21) r.1 r.2) s.sec.keys with
    | some k => k.1
    | none => 0xFF

/-- A byte of memory as it stands under encryption. -/
def cipherAt (s : State) (a : Nat) : Byte :=
  Config.cipherByte (NMap.getD s.sec.keys (keyIndex s a) []) (a / 64) (viewRead s (64 * (a / 64)) 64) (a % 64)

/-- What an access that names a slice reads: the plaintext of its own regions and of plaintext regions, and other slices' regions
as they stand; 0xFF names no slice. -/
def readAs (s : State) (slice a n : Nat) : List Byte :=
  if s.sec.keys.isEmpty then viewRead s a n
  else List.zipWith (fun i b => let k := keyIndex s (a + i); if k = 0xFF ∨ k = slice then b else cipherAt s (a + i)) (List.range n) (viewRead s a n)

end Sys2Proof.Machine
end

