-- ==== Sys2Proof/Machine/Skew.lean ====
section
/-!
DEFINITION. The DMA/skew slot (05 R106 to R111): LD and ST over untimed traffic, the operand builders SKEWA and SKEWB,
MKS, and the completion of an outstanding operation.
-/
namespace Sys2Proof.Machine

/-! ### Tags (R110) -/

/-- An operation with a tag may issue: the tag is not outstanding, and at most 4 operations are. -/
def Tile.tagFree (x : Tile) (tag : Nat) : Bool := (NMap.find? x.tags tag).isNone && decide (x.tags.length < 4)

/-! ### Stops of a kernel by memory (08 R164, R167, 18 R413) -/

/-- The kernel on a tile is stopped and its context barred and torn down at the next seam (08 R164); no OVERRUN is
counted. -/
def memStop (s : State) (t : Nat) (r : Running) (c cause : Nat) : State :=
  barContext (leaveTile s t r (c / beatCycles s + 1)) r.context cause

/-- Bits [63:40] of a tile's device address are 0, and the range exists (R162, R164). -/
def tileRangeOk (s : State) (a n : Nat) : Bool := decide (a < 2 ^ 40) && usableRange s a n

/-- Host-bias pages that a range touches. -/
def hostBiased (s : State) (a n : Nat) : Bool :=
  s.mem.hostBias.any fun p => decide (2 ^ 21 * p < a + n ∧ a < 2 ^ 21 * (p + 1))

/-- A tile access beyond memory, or in orphan mode to a host-bias page: the event MEM_RANGE and the stop. -/
def memRange (s : State) (t : Nat) (r : Running) (c : Nat) : State :=
  memStop (recordEvent s 0x2001 srcHw []) t r c 0x2001

/-- The status of the sequence of an ATTN job whose read finds an uncorrected error (08 R167, 09 R204). -/
def attnSeqFault (s : State) (q seq chain : Nat) : State :=
  { s with attn := s.attn.map fun a =>
      if a.q = q ∧ a.seq = seq then
        match a.chains.find? fun h => h.num == chain with
        | some h => { a with seqs := a.seqs.modify h.seqNo fun x => { x with status := stDeviceFault } }
        | none => a
      else a }

/-- An uncorrected error in a tile access: an ATTN job's sequence ends, any other kernel stops (08 R167). -/
def tileUncorrected (s : State) (t : Nat) (r : Running) (c a n : Nat) : State :=
  let s1 := recordUncorrected s a n
  match r.job.bind (·.attn) with
  | some (q, seq, ch) => attnSeqFault s1 q seq ch
  | none => memStop s1 t r c 0x2002

/-! ### LD and ST -/

/-- Device address, tile-store address and length of an LD or ST; the low 6 bits, which are 0 by R107, are taken as 0
(log 18). -/
def Tile.ldArgs (x : Tile) (o : DmaOp) (isLd : Bool) : Nat × Nat × Nat :=
  let a := (x.getS o.src).toNat / 64 * 64
  let b := (x.getS o.dst).toNat / 64 * 64
  let n := min ((x.getS o.prm).toNat % 2 ^ 24 / 64 * 64) 2097152
  if isLd then (a, b % 2 ^ 21, n) else (b, a % 2 ^ 21, n)

/-- Issues an LD (op 1) or ST (op 2): outstanding from here on, or stopped when it runs beyond memory. -/
def issueDma (s0 : State) (t c : Nat) (o : DmaOp) (op : Nat) : State :=
  let s := timedDue s0 (tickCycle s0 t c)
  let x := (tileAt s t).land c
  let g := x.ldArgs o (op == 1)
  match x.run with
  | none => s
  | some r =>
    if x.wait.isSome then s
    else
      match x.struck c with
      | some m => residueFault s t m
      | none =>
        if !x.tagFree o.tag then ruleBreak s t r c
        else if !tileRangeOk s g.1 g.2.2 || (s.hst.orphan && hostBiased s g.1 g.2.2) then memRange s t r c
        else setTile s t { x with cyc := max x.cyc c,
                                  tags := NMap.insert x.tags o.tag ⟨op, none, false, g.1, g.2.1, g.2.2⟩ }

/-- LD (R107): copies device memory to the tile store. -/
def execLd (t c : Nat) (o : DmaOp) (s : State) : Out := .next (issueDma s t c o 1)
/-- ST (R107): copies the tile store to device memory. -/
def execSt (t c : Nat) (o : DmaOp) (s : State) : Out := .next (issueDma s t c o 2)

/-! ### SKEWA and SKEWB (R107, R108, R111, 06 R124, R133, R136) -/

/-- FMT, MASK and SRCK of IMM (R106). -/
def dmaFmt (o : DmaOp) : Nat := o.imm.toNat % 16
def dmaMask (o : DmaOp) : Nat := o.imm.toNat / 16 % 4
def dmaSrck (o : DmaOp) : Nat := o.imm.toNat / 64

/-- Bits of a source element: the FMT's own, BF16 or FP32. -/
def srcBits (fmt srck : Nat) : Nat :=
  if srck = 2 then 32 else if srck = 1 ∨ isBf16 fmt then 16 else if isFp4 fmt then 4 else if isFp6 fmt then 6 else 8

/-- Element j of a source row that starts at an address (06 R124). -/
def Tile.srcElem (x : Tile) (bits row j : Nat) : Nat :=
  if bits = 4 then (x.stByte (row + j / 2)).toNat / (if j % 2 = 0 then 1 else 16) % 16
  else if bits = 6 then leNat (bytesAt x.stByte (row + 3 * (j / 4)) 3) / 2 ^ (6 * (j % 4)) % 64
  else leNat (bytesAt x.stByte (row + bits / 8 * j) (bits / 8))

/-- A source element that a conversion reads, as a value. -/
def srcVal (srck c : Nat) : FVal := if srck = 2 then f32Val (BitVec.ofNat 32 c) else bf16Val (BitVec.ofNat 16 c)

/-- What one K group of 32 values becomes: strip byte, low bytes or codes, and for BF16 the high bytes. -/
structure SkewGroup where
  strip : Nat
  lo : List Nat
  hi : List Nat
deriving DecidableEq, Repr

/-- Builds one K group from its source codes and, for an MX source, its scale byte. -/
def skewGroup (fmt srck : Nat) (cs : List Nat) (scale : Nat) : SkewGroup :=
  if isBf16 fmt then
    let bf := if srck = 2 then cs.map fun c => (bf16Of (f32Val (BitVec.ofNat 32 c))).toNat else cs
    let r := bfAlign bf
    ⟨r.1, r.2.map (· % 256), r.2.map (· / 256)⟩
  else if srck = 0 then ⟨if isMx fmt then scale else plainStrip fmt cs, cs, []⟩
  else
    let r := mxGroup fmt (cs.map (srcVal srck))
    ⟨r.1, r.2, []⟩

/-- The groups of one vector along K (a row of A or a column of B): `el k` is source element k, `sc q` scale byte q. -/
def skewVec (fmt srck : Nat) (el : Nat → Nat) (sc : Nat → Nat) : List SkewGroup :=
  (List.range (kOf fmt / 32)).map fun q => skewGroup fmt srck ((List.range 32).map fun i => el (32 * q + i)) (sc q)

/-- The bytes of the logical rows that a vector gives: FP4 packs two K values into one. -/
def cellBytes (fmt : Nat) (codes : List Nat) : List Nat :=
  if isFp4 fmt then (List.range 64).map fun r => codes.getD (2 * r) 0 + 16 * codes.getD (2 * r + 1) 0 else codes

/-- The strip bytes of a vector: one for each K group, K64 formats with two zeros (R105). -/
def stripBytes (gs : List SkewGroup) : List Nat := ((gs.map fun (g : SkewGroup) => g.strip) ++ [0, 0, 0, 0]).take 4

/-- The vector v of a SKEWA (row v) or SKEWB (column v) source (R107). -/
def Tile.skewSrc (x : Tile) (isB : Bool) (fmt srck base stride v : Nat) : List SkewGroup :=
  let bits := srcBits fmt srck
  let k := kOf fmt
  if isB then
    skewVec fmt srck (fun i => x.srcElem bits (base + i * stride) v)
      (fun q => (x.stByte (base + (k + q) * stride + v)).toNat)
  else
    skewVec fmt srck (fun i => x.srcElem bits (base + v * stride) i)
      (fun q => (x.stByte (base + v * stride + k * bits / 8 + q)).toNat)

/-- Source bytes read, scales included (R107). -/
def skewSize (isB : Bool) (fmt srck : Nat) : Nat :=
  let k := kOf fmt
  let sc := if srck = 0 ∧ isMx fmt then k / 32 * 64 else 0
  (if isB then k * (64 * srcBits fmt srck / 8) else 64 * (k * srcBits fmt srck / 8)) + sc

/-- The bytes written: the block (for BF16 the H block and, at the next index, the L block) in rotated or row layout,
and the strip (R103 to R105). -/
def skewBytes (isB : Bool) (fmt i : Nat) (vecs : List (List SkewGroup)) : List (Nat × Byte) :=
  let place := fun (blk v r : Nat) => storeBits (4096 * (blk % 512) + (if isB then 64 * r + v else 64 * ((v + r) % 64) + r))
  let one := fun (v : Nat) (gs : List SkewGroup) =>
    let lo := cellBytes fmt (gs.map fun (g : SkewGroup) => g.lo).flatten
    let hi := (gs.map fun (g : SkewGroup) => g.hi).flatten
    let codes := if isBf16 fmt then
        List.zipWith (fun r b => (place i v r, BitVec.ofNat 8 b)) (List.range 64) hi ++
        List.zipWith (fun r b => (place (i + 1) v r, BitVec.ofNat 8 b)) (List.range 64) lo
      else List.zipWith (fun r b => (place i v r, BitVec.ofNat 8 b)) (List.range 64) lo
    let st := if i < 480 then List.zipWith (fun q b => (stripAddr i (4 * v + q), BitVec.ofNat 8 b)) (List.range 4) (stripBytes gs) else []
    codes ++ st
  (List.zipWith one (List.range 64) vecs).flatten

/-- The row mask that SKEWA writes (R108, R111). -/
def Tile.skewMask (x : Tile) (mode : Nat) (prm : W64) : W64 :=
  let sel := prm.toNat / 2 ^ 16 % 2 ^ 20
  let tab := prm.toNat / 2 ^ 36 % 2 ^ 21
  let present := fun m : Nat =>
    if mode = 0 then true
    else if mode = 1 then decide (m < sel % 128)
    else if mode = 2 then decide (64 * sel + m < leNat (bytesAt x.stByte tab 4) % 2 ^ 24)
    else decide (leNat (bytesAt x.stByte (tab + 2 * m) 2) ≠ 0)
  BitVec.ofNat 64 ((List.range 64).foldl (fun acc m => if present m then acc + 2 ^ m else acc) 0)

/-- SKEWA and SKEWB complete in issue order (R110): the latest completion of the skew operations outstanding. -/
def Tile.lastSkew (x : Tile) : Nat := (x.tags.filterMap fun t => if t.2.op = 3 ∨ t.2.op = 4 then t.2.doneAt else none).foldl max 0

/-- A SKEWA or SKEWB: completes 8 + max(⌈s / 128⌉, o / 64) cycles after issue, in which cycle the last of its block, strip and mask
is written; the source is read as it stands at issue (R107, R110, R111, log 82). -/
def Tile.skew (x : Tile) (c : Nat) (o : DmaOp) (isB : Bool) : SlotRes :=
  if x.tagFree o.tag then
    let fmt := dmaFmt o
    let prm := x.getS o.prm
    let base := (x.getS o.src).toNat % 2 ^ 21
    let i := (x.getS o.dst).toNat / 2 ^ 12 % 512
    let vecs := (List.range 64).map (x.skewSrc isB fmt (dmaSrck o) base (prm.toNat % 2 ^ 16))
    let out := if isBf16 fmt then 8192 else 4096
    let fin := max (c + 8 + max ((skewSize isB fmt (dmaSrck o) + 127) / 128) (out / 64)) x.lastSkew
    let x1 := { x with tags := NMap.insert x.tags o.tag ⟨if isB then 4 else 3, some fin, false, base, 4096 * i, out⟩ }
    (x1.push (fin + 1) (.store (skewBytes isB fmt i vecs))).andThen fun x2 =>
      if isB then .done x2 else x2.push (fin + 1) (.mreg o.tag (x.skewMask (dmaMask o) prm))
  else .broke

/-- SKEWA (R107): an A block in rotated layout, its strip and the row mask MK[TAG]. -/
def execSkewa (t c : Nat) (o : DmaOp) (s : State) : Out := .next (slotOp s t c fun x => x.skew c o false)
/-- SKEWB (R107): a B block in row layout and its strip. -/
def execSkewb (t c : Nat) (o : DmaOp) (s : State) : Out := .next (slotOp s t c fun x => x.skew c o true)

/-- MKS on the tile: complete in its issue cycle, outstanding until a WAITD on its tag returns (R107, R110, log 82). -/
def Tile.mks (x : Tile) (c : Nat) (o : DmaOp) : SlotRes :=
  if x.tagFree o.tag then
    { x with tags := NMap.insert x.tags o.tag ⟨5, some c, true, 0, 0, 0⟩ }.push (c + 1) (.mreg o.tag (x.getS o.src))
  else .broke

/-- MKS (R107): MK[TAG] is set to S[SRC]; the next operation that reads the register sees it (R111). -/
def execMks (t c : Nat) (o : DmaOp) (s : State) : Out := .next (slotOp s t c fun x => x.mks c o)

/-! ### Completion -/

/-- The tile after its operation with a tag has completed at cycle `c`: a WAITD on it returns, and the tag is free (R110). -/
def Tile.complete (x : Tile) (c tag : Nat) (o0 : TagOp) : Tile :=
  let o := { o0 with done := true, doneAt := some (o0.doneAt.getD c) }
  match x.wait with
  | some (w, _) =>
    if w = tag then { x with wait := none, tags := NMap.erase x.tags tag, cyc := max x.cyc c }
    else { x with tags := NMap.insert x.tags tag o }
  | none => { x with tags := NMap.insert x.tags tag o }

/-- Bytes from device memory as a tile-store write. -/
def loadBytes (s : State) (slice : Nat) (o : TagOp) : List (Nat × Byte) :=
  List.zipWith (fun i b => (storeBits (o.dst + i), b)) (List.range o.len) (readAs s slice o.src o.len)

/-- The transfer `k` of a stopped kernel ends: its context is barred already (03 R60). -/
def lateComplete (s : State) (t c k : Nat) : State :=
  match (tileAt s t).late[k]? with
  | none => s
  | some (slice, o) =>
    let s1 := modTile s t fun x => { x with late := x.late.eraseIdx k }
    if o.op = 1 then
      if badRange s o.src o.len then recordUncorrected s1 o.src o.len
      else modTile s1 t fun x => x.stored c (loadBytes s slice o)
    else (devWrite s1 o.src (bytesAt (tileAt s1 t).stByte o.dst o.len)).1

/-- DMA_SKEW_COMPLETE (R110): the last byte of an LD or ST has moved, or a SKEWA or SKEWB has reached its completion
cycle. An LD whose source is bad delivers nothing, and neither does an ST to a line that takes no write (08 R167,
R504); a mismatch that has shown cancels the transfer (R119). A tag of 16 + k names transfer k of a stopped kernel (log 70). -/
def execDmaSkewComplete (t c tag : Nat) (s : State) : Out :=
  let x := (tileAt s t).land c
  if 16 ≤ tag then .next (lateComplete s t c (tag - 16))
  else
    match x.run, NMap.find? x.tags tag with
    | some r, some o =>
      match x.struck c with
      | some m => .next (residueFault s t m)
      | none =>
        if o.done then .next s
        else if o.op = 1 then
          if badRange s o.src o.len then .next (tileUncorrected s t r c o.src o.len)
          else .next (setTile (noteReads s o.src o.len) t ((x.stored c (loadBytes s r.slice o)).complete c tag o))
        else if o.op = 2 then
          let w := devWrite s o.src (bytesAt x.stByte o.dst o.len)
          if w.2 then .next (setTile w.1 t (x.complete c tag o)) else .next (tileUncorrected w.1 t r c o.src o.len)
        else
          match o.doneAt with
          | some n => if n ≤ c then .next (setTile s t (x.complete c tag o)) else .next s
          | none => .next s
    | _, _ => .next s

end Sys2Proof.Machine
end

