-- ==== Sys2Proof/Machine/AttnOps.lean ====
section
/-!
DEFINITION. Fused attention (09): which keys a query sees, the block partial and its merge, what a chain reads and
writes, and the end of an ATTN or ATTN_MERGE command.
-/
namespace Sys2Proof.Machine

/-! ### Fields of the descriptor (R184) -/

/-- A field of an ATTN descriptor. -/
def AttnCmd.fld (a : AttnCmd) (off n : Nat) : Nat := fieldAt a.desc off n
/-- FLAGS: 0 CAUSAL, 1 WINDOW, 2 GLOBAL, 3 LSE, 4 PARTIAL. -/
def AttnCmd.flag (a : AttnCmd) (i : Nat) : Bool := (a.fld 6 2).testBit i
def AttnCmd.kvFmt (a : AttnCmd) : Nat := a.fld 8 1
def AttnCmd.d (a : AttnCmd) : Nat := a.fld 12 2
def AttnCmd.qHeads (a : AttnCmd) : Nat := a.fld 14 1
def AttnCmd.kvHeads (a : AttnCmd) : Nat := a.fld 15 1
/-- g: query heads of a KV head. -/
def AttnCmd.g (a : AttnCmd) : Nat := a.qHeads / a.kvHeads
/-- T: query tokens of a query block (R191). -/
def AttnCmd.t (a : AttnCmd) : Nat := 64 / a.g
def AttnCmd.keyLo (a : AttnCmd) : Nat := a.fld 32 4
def AttnCmd.keyHi (a : AttnCmd) : Nat := a.fld 36 4
/-- A signed anchor offset. -/
def AttnCmd.anchorAt (a : AttnCmd) (off : Nat) : Int := (BitVec.ofNat 16 (a.fld off 2)).toInt

/-- XSCALE, where +0 selects the binary32 value nearest to log2(e) / √d. -/
def AttnCmd.xscale (a : AttnCmd) : W32 :=
  if a.fld 20 4 = 0 then (if a.d = 64 then 0x3E38AA3B else if a.d = 128 then 0x3E0293EE else 0x3DB8AA3B)
  else BitVec.ofNat 32 (a.fld 20 4)

/-! ### Which keys a query sees (R188 to R190) -/

/-- The segment number of a position. -/
def AttnSeq.seg (x : AttnSeq) (i : Nat) : Nat := if x.segs.isEmpty then 1 else x.segs.getD i 0

/-- The first position that carries a segment number. -/
def AttnSeq.start (x : AttnSeq) (g : Nat) : Nat := if x.segs.isEmpty then 0 else x.segs.findIdx (· == g)

/-- A position is global in its segment. -/
def isGlobal (a : AttnCmd) (x : AttnSeq) (p : Nat) : Bool := a.globals.contains (p - x.start (x.seg p))

/-- Query position i sees key position j (R190). -/
def visible (a : AttnCmd) (x : AttnSeq) (i j : Nat) : Bool :=
  let w := a.fld 28 4
  if x.kvLen ≤ j ∨ j < a.keyLo ∨ a.keyHi ≤ j then false
  else if x.seg i = 0 ∨ x.seg j ≠ x.seg i then false
  else if a.flag 0 ∧ i < j then false
  else
    !a.flag 1 || decide ((if i < j then j - i else i - j) < w) ||
      (a.flag 2 && (isGlobal a x i || isGlobal a x j))

/-! ### Rows and blocks (R191) -/

/-- The query token of row m of a chain, if the row is present. -/
def rowToken (a : AttnCmd) (x : AttnSeq) (h : Chain) (m : Nat) : Option Nat :=
  let k := h.qblk * a.t + m / a.g
  if m < a.g * a.t ∧ k < x.qTok then some k else none

/-- The query head of row m of a chain. -/
def rowHead (a : AttnCmd) (h : Chain) (m : Nat) : Nat := h.head * a.g + m % a.g

/-- The key blocks in which some row of a query block sees some key, ascending. -/
def blocksOf (a : AttnCmd) (x : AttnSeq) (qblk : Nat) : List Nat :=
  let toks := (List.range a.t).filter fun t => decide (qblk * a.t + t < x.qTok)
  (List.range ((x.kvLen + 63) / 64)).filter fun b =>
    toks.any fun t => (List.range 64).any fun j => visible a x (x.qPos + qblk * a.t + t) (64 * b + j)

/-- Whether a position is read at all (R194). -/
def posRead (a : AttnCmd) (x : AttnSeq) (j : Nat) : Bool := decide (j < x.kvLen ∧ a.keyLo ≤ j ∧ j < a.keyHi)

/-! ### Pages (R192, R193) -/

/-- Bytes of d elements of a token and head. -/
def AttnCmd.recBytes (a : AttnCmd) : Nat := if a.kvFmt = 2 then a.d / 2 else if a.kvFmt = 3 then 2 * a.d else a.d
/-- Scale bytes of a token and head. -/
def AttnCmd.scaleBytes (a : AttnCmd) : Nat := if a.kvFmt = 1 ∨ a.kvFmt = 2 then a.d / 32 else 0

/-- The fabric addresses of the data and of the scales of a position: kind 0 K, 1 V. -/
def kvAddr (a : AttnCmd) (x : AttnSeq) (kind head j : Nat) : Nat × Nat :=
  let r := ((a.fld 18 2 * 2 + kind) * a.kvHeads + head) * a.p + j % a.p
  let loc := x.locs.getD (j / a.p) 0
  (loc + a.recBytes * r, loc + 2 * a.fld 16 2 * a.kvHeads * a.p * a.recBytes + a.scaleBytes * r)

/-- The ranges that the job of a key block reads, as fabric addresses. -/
def blockRanges (a : AttnCmd) (x : AttnSeq) (head b : Nat) : List (Nat × Nat) :=
  (((List.range 64).filter fun j => posRead a x (64 * b + j)).map fun j =>
    ((List.range 2).map fun kind =>
      let q := kvAddr a x kind head (64 * b + j)
      (q.1, a.recBytes) :: (if a.scaleBytes = 0 then [] else [(q.2, a.scaleBytes)])).flatten).flatten

/-- The staged range that covers a range. -/
def coverOf (h : Chain) (src n : Nat) : Option (Nat × Nat × Nat) :=
  h.staged.find? fun r => decide (r.1 ≤ src ∧ src + n ≤ r.1 + r.2.1)

/-- The job of a chain's next block may be enqueued: everything that it reads is staged (R203). -/
def chainStaged (a : AttnCmd) (h : Chain) : Bool :=
  match h.blocks, a.seqs[h.seqNo]? with
  | b :: _, some x => (blockRanges a x h.head b).all fun r => (coverOf h r.1 r.2).isSome
  | _, _ => false

/-- Bytes of K or V as they are staged in the deck. -/
def stagedRead (s : State) (h : Chain) (src n : Nat) : List Byte :=
  match coverOf h src n with
  | some r => devRead s (r.2.2 + (src - r.1)) n
  | none => List.replicate n 0

/-! ### Operands of the two products (R192, R195) -/

/-- The format of the QK product. -/
def qkFmt (kv : Nat) : Nat := if kv = 3 then 0x6 else if kv = 2 then 0xD else 0x9
/-- The format of the PV product. -/
def pvFmt (kv : Nat) : Nat := if kv = 3 then 0x6 else 0x9

/-- Element codes of a record: two FP4 codes of a byte, 16-bit BF16 codes, or bytes. -/
def codesOf (kv : Nat) (bs : List Byte) : List Nat :=
  if kv = 2 then (bs.map fun b => [b.toNat % 16, b.toNat / 16]).flatten
  else if kv = 3 then (List.range (bs.length / 2)).map fun i => fieldAt bs (2 * i) 2
  else bs.map (·.toNat)

/-- The K groups of a key's record. -/
def keyGroups (kv : Nat) (codes : List Nat) (scales : List Byte) : List SkewGroup :=
  let gs := groups32 8 codes
  List.zipWith (fun q (cs : List Nat) =>
    skewGroup (qkFmt kv) (if kv = 3 then 1 else 0) cs (if kv = 0 then 0x7F else (scales.getD q 0).toNat)) (List.range gs.length) gs

/-- The groups of a query row along d. -/
def queryGroups (kv : Nat) (codes : List Nat) : List SkewGroup := (groups32 8 codes).map fun cs => skewGroup (qkFmt kv) 1 cs 0

/-- The value of an element under its group's scale byte. -/
def scaledVal (fmt code scale : Nat) : FVal :=
  let e := elemOf fmt code
  if e.bad ∨ scale = 0xFF then .nan else finOfInt e.i (e.t + (scale : Int) - 127)

/-- V of a position, decoded exactly: one value for each element of d. -/
def valueRow (kv : Nat) (codes : List Nat) (scales : List Byte) : List FVal :=
  List.zipWith (fun i c =>
    if kv = 3 then bf16Val (BitVec.ofNat 16 c)
    else scaledVal (qkFmt kv) c (if kv = 0 then 0x7F else (scales.getD (i / 32) 0).toNat)) (List.range codes.length) codes

/-- A group of no elements, which fills up an instruction of 128 values. -/
def padGroup : SkewGroup := ⟨0, List.replicate 32 0, List.replicate 32 0⟩

/-- One instruction's worth of a product into an anvil: four passes for BF16, one otherwise (06 R133). -/
def dotChunk (fmt : Nat) (b : AccBlk) (ga gb : List SkewGroup) : AccBlk :=
  let cell := fun (gs : List SkewGroup) (hi : Bool) =>
    cellBytes fmt (gs.map fun (g : SkewGroup) => if hi then g.hi else g.lo).flatten
  let pass := fun (acc : AccBlk) (f : Nat) (bL ahi bhi : Bool) =>
    let as := cell ga ahi
    let bs := cell gb bhi
    let c := mmaOut f bL acc.anchor (fun r => BitVec.ofNat 8 (as.getD r 0)) (fun r => BitVec.ofNat 8 (bs.getD r 0))
      (fun q => BitVec.ofNat 8 (ga.getD q padGroup).strip) (fun q => BitVec.ofNat 8 (gb.getD q padGroup).strip)
    { acc with sat := acc.sat || c.sat }.add 0 (if c.bad then none else some c.sum)
  if isBf16 fmt then
    pass (pass (pass (pass b 0x6 false true true) 0x7 true true false) 0x7 false false true) 0x8 true false false
  else pass b fmt false false false

/-- Cuts two operands into instructions of 64 or 128 values; the fuel is the number of instructions. -/
def dotGo (fmt : Nat) : Nat → AccBlk → List SkewGroup → List SkewGroup → AccBlk
  | 0, b, _, _ => b
  | n + 1, b, ga, gb =>
    if ga.isEmpty then b
    else
      let k := kOf fmt / 32
      let fill := fun (gs : List SkewGroup) => (gs.take k ++ [padGroup, padGroup, padGroup, padGroup]).take k
      dotGo fmt n (dotChunk fmt b (fill ga) (fill gb)) (ga.drop k) (gb.drop k)

/-- An inner product at an anchor offset: its value as ROUT rounds it to FP32, and whether its block saturated. -/
def dotProduct (fmt : Nat) (off : Int) (ga gb : List SkewGroup) : W32 × Bool :=
  let b := dotGo fmt 4 { anchor := anchor0 fmt + off } ga gb
  (f32Of (anvilVal b.anchor (b.get 0)), b.sat)

/-! ### The block partial (R195, R197) -/

/-- floor of a finite value. -/
def floorVal : FVal → Int
  | .fin n m e => if 0 ≤ e then sgn n (m * 2 ^ e.toNat) else sgn n m / (2 : Int) ^ (-e).toNat
  | _ => 0

/-- ceil of a finite value. -/
def ceilVal (v : FVal) : Int := -floorVal (fvNeg v)

/-- A score or x that poisons its row: NaN, infinite, or of magnitude 2^24 or more. -/
def badScore (x : W32) : Bool :=
  match f32Val x with
  | .fin _ m e => decide (m ≠ 0) && decide (24 ≤ floorLog2 m e)
  | _ => true

/-- A score itself that poisons: NaN or infinite. -/
def notFinite (x : W32) : Bool := match f32Val x with | .fin _ _ _ => false | _ => true

/-- The weight of a visible key against its block's maximum. -/
def weightOf (x : W32) (mb : Int) : W32 :=
  let n := floorVal (f32Val x)
  f32Scale (f32Exp2 (f32Add x (f32OfInt (BitVec.ofInt 32 (-n))))) (BitVec.ofInt 32 (n - mb))

/-- A partial of a row: none if the row sees no key of the block. -/
structure Partial where
  st  : Option AttnState
  sat : Bool
deriving DecidableEq, Repr

/-- P of 64 weights in the PV format: its groups, and its values decoded to FP32. -/
def pvWeights (kv : Nat) (ps : List W32) : List SkewGroup × List W32 :=
  let gs := (groups32 2 ps).map fun (g : List W32) => skewGroup (pvFmt kv) 2 (g.map (·.toNat)) 0
  if kv = 3 then (gs, ps.map fun p => f32Of (bf16Val (bf16Of (f32Val p))))
  else (gs, (gs.map fun (g : SkewGroup) => g.lo.map fun c => f32Of (scaledVal (pvFmt kv) c g.strip)).flatten)

/-- V of a key block for element i of d, in the PV format with groups of 32 keys. -/
def pvColumn (kv : Nat) (vs : List (List FVal)) (i : Nat) : List SkewGroup :=
  let col := vs.map fun (r : List FVal) => r.getD i (.fin false 0 0)
  (groups32 2 col).map fun (g : List FVal) =>
    if kv = 3 then skewGroup 0x6 1 (g.map fun v => (bf16Of v).toNat) 0
    else
      let r := mxGroup 0x9 g
      ⟨r.1, r.2, []⟩

/-- V as it enters the PV product of a row: that of a key which the row does not see is zero, as R198 has it, so that its value
does not move the scale of its group (log 93). -/
def seenValues (see : List Bool) (vs : List (List FVal)) : List (List FVal) :=
  List.zipWith (fun (v : Bool) (r : List FVal) => if v then r else r.map fun _ => .fin false 0 0) see vs

/-- The partial of one row against one key block: `see` says which of the 64 keys the row sees, `kg` the groups of each
key, `vs` the decoded V of each key. The QK block saturates on any of its 64 keys (R197, 06 R128). -/
def rowPartial (a : AttnCmd) (qg : List SkewGroup) (see : List Bool) (kg : List (List SkewGroup)) (vs : List (List FVal)) : Partial :=
  let kv := a.kvFmt
  let all := kg.map fun (g : List SkewGroup) => dotProduct (qkFmt kv) (a.anchorAt 24) qg g
  let sat := all.any (·.2)
  if see.all (! ·) then ⟨none, sat⟩
  else
    let sc := List.zipWith (fun (v : Bool) (d : W32 × Bool) => if v then some d else none) see all
    let ss := sc.filterMap id
    let xs := sc.map fun (o : Option (W32 × Bool)) => o.map fun s => f32Mul s.1 a.xscale
    if ss.any (fun s => notFinite s.1) ∨ (xs.filterMap id).any badScore then ⟨some ⟨0, 0, [], true⟩, sat⟩
    else
      let cs := (xs.filterMap id).map fun x => ceilVal (f32Val x)
      let mb := cs.foldl max (cs.headD 0)
      let ps := xs.map fun (o : Option W32) => match o with | some x => weightOf x mb | none => 0
      let ph := pvWeights kv ps
      let os := (List.range a.d).map fun i => dotProduct (pvFmt kv) (a.anchorAt 26) ph.1 (pvColumn kv (seenValues see vs) i)
      ⟨some ⟨mb, treeAdd ph.2, os.map (·.1), os.any fun o => f32Val o.1 == .nan⟩, sat || os.any (·.2)⟩

/-! ### Merging (R196, R199) -/

/-- A nonzero magnitude below 2^−126. -/
def lowVal : FVal → Bool
  | .fin _ m e => decide (m ≠ 0) && decide (floorLog2 m e < -126)
  | _ => false

/-- A value times a power of two, exactly. -/
def fvScale (v : FVal) (k : Int) : FVal := match v with | .fin n m e => .fin n m (e + k) | w => w

/-- a × 2^i + b × 2^j as the lanes compute it, and whether a nonzero intermediate lies below 2^−126. -/
def mergeOne (a b : W32) (i j : Int) : W32 × Bool :=
  let x := f32Scale a (BitVec.ofInt 32 (clampInt i (-1024) 1024))
  let y := f32Scale b (BitVec.ofInt 32 (clampInt j (-1024) 1024))
  (f32Add x y, lowVal (fvScale (f32Val a) i) || lowVal (fvScale (f32Val b) j) || lowVal (fvAdd (f32Val x) (f32Val y)))

/-- merge of R196, with the LOWBAND condition; the left argument covers the lower keys. -/
def mergeState (p q : Option AttnState) : Option AttnState × Bool :=
  match p, q with
  | p, none => (p, false)
  | none, q => (q, false)
  | some x, some y =>
    if x.nan ∨ y.nan then (some ⟨0, 0, [], true⟩, false)
    else
      let m := max x.m y.m
      let l := mergeOne x.l y.l (x.m - m) (y.m - m)
      let o := List.zipWith (fun a b => mergeOne a b (x.m - m) (y.m - m)) x.o y.o
      (some ⟨m, l.1, o.map (·.1), false⟩, l.2 || o.any (·.2))

/-- The direct fold of one quantity at the final maximum: whether a nonzero intermediate lies below 2^−126 (R199). -/
def directLow (top : Int) : Option W32 → List (Int × W32) → Bool
  | _, [] => false
  | none, p :: ps =>
    lowVal (fvScale (f32Val p.2) (p.1 - top)) ||
      directLow top (some (f32Scale p.2 (BitVec.ofInt 32 (clampInt (p.1 - top) (-1024) 1024)))) ps
  | some v, p :: ps => (mergeOne v p.2 0 (p.1 - top)).2 || directLow top (some (mergeOne v p.2 0 (p.1 - top)).1) ps

/-- LOWBAND of the direct form of a row: every partial scaled to the final maximum and folded in ascending order, l and each element
of o (R199). -/
def directBand (ps : List AttnState) : Bool :=
  let top := (ps.map (·.m)).foldl max ((ps.map (·.m)).headD 0)
  !(ps.any (·.nan)) &&
    (directLow top none (ps.map fun p => (p.m, p.l)) ||
      (List.range ((ps.map (·.o.length)).headD 0)).any fun i => directLow top none (ps.map fun p => (p.m, p.o.getD i 0)))

/-- The output values of a row's final state, FP32 (R196, R197). -/
def finalOut (d : Nat) : Option AttnState → List W32
  | none => List.replicate d 0
  | some x => if x.nan then List.replicate d f32NaN else x.o.map fun v => f32Mul v (f32Rcp x.l)

/-- The log-sum-exp of a row's final state. -/
def finalLse : Option AttnState → W32
  | none => 0xFF800000
  | some x => if x.nan then f32NaN else f32Add (f32OfInt (BitVec.ofInt 32 x.m)) (f32Log2 x.l)

/-- The bytes of an output row in OUT_FMT. -/
def outBytes (fmt : Nat) (vs : List W32) : List Byte :=
  (vs.map fun v => if fmt = 1 then leBytes 2 (bf16Of (f32Val v)).toNat else leBytes 4 v.toNat).flatten

/-- A partial record (R200). A poisoned row carries NaN in l and o, and M 0; an empty one carries 0 in l and o (DESIGN CHOICE, log 116). -/
def partialBytes (d : Nat) : Option AttnState → List Byte
  | none => leBytes 4 0x80000000 ++ List.replicate (4 + 4 * d) 0
  | some x =>
    if x.nan then leBytes 4 0 ++ ((List.replicate (d + 1) f32NaN).map fun v => leBytes 4 v.toNat).flatten
    else leBytes 4 (BitVec.ofInt 32 x.m).toNat ++ leBytes 4 x.l.toNat ++ (x.o.map fun v => leBytes 4 v.toNat).flatten

/-- The state that a partial record holds. -/
def partialOf (d : Nat) (bs : List Byte) : Option AttnState :=
  let m := fieldAt bs 0 4
  if m = 0x80000000 then none
  else
    let l := BitVec.ofNat 32 (fieldAt bs 4 4)
    let o := (List.range d).map fun i => BitVec.ofNat 32 (fieldAt bs (8 + 4 * i) 4)
    some ⟨(BitVec.ofNat 32 m).toInt, l, o, (l :: o).any fun v => f32Val v == .nan⟩

/-! ### The job of a key block -/

/-- The state record that the next block of a chain reads: copy b mod 2, b counting the blocks of the chain (R203, log 93). -/
def Chain.rows (h : Chain) : NMap AttnState := if h.folded % 2 = 0 then h.copy0 else h.copy1

/-- The chain after a block: the other copy holds the new state, the block's partials join those of their rows. -/
def Chain.fold (h : Chain) (st : NMap AttnState) (ps : NMap AttnState) : Chain :=
  { h with folded := h.folded + 1, copy0 := if h.folded % 2 = 0 then h.copy0 else st, copy1 := if h.folded % 2 = 0 then st else h.copy1,
           parts := ps.foldl (fun m e => NMap.modify m [] e.1 (· ++ [e.2])) h.parts }

/-- The index of a row in the output tensors: token row and head. -/
def outIndex (a : AttnCmd) (x : AttnSeq) (h : Chain) (m k : Nat) : Nat := (x.qRow + k) * a.qHeads + rowHead a h m

/-- Folds the block that a chain's job has computed into the running state of every present row (R195, R196): the command's flags,
the new state, and the partials. -/
def foldBlock (s : State) (a : AttnCmd) (x : AttnSeq) (h : Chain) (b : Nat) : AttnCmd × NMap AttnState × NMap AttnState :=
  let zero := List.replicate a.recBytes (0 : Byte)
  let recd := fun (kind j : Nat) =>
    if posRead a x (64 * b + j) then
      let q := kvAddr a x kind h.head (64 * b + j)
      (stagedRead s h q.1 a.recBytes, stagedRead s h q.2 a.scaleBytes)
    else (zero, List.replicate a.scaleBytes 0x7F)
  let kg := (List.range 64).map fun j => keyGroups a.kvFmt (codesOf a.kvFmt (recd 0 j).1) (recd 0 j).2
  let vs := (List.range 64).map fun j => valueRow a.kvFmt (codesOf a.kvFmt (recd 1 j).1) (recd 1 j).2
  (List.range 64).foldl (fun acc m =>
    match rowToken a x h m with
    | none => acc
    | some k =>
      let qs := (List.range a.d).map fun i => devNat s (a.fld 56 8 + 2 * (outIndex a x h m k * a.d + i)) 2
      let see := (List.range 64).map fun j => visible a x (x.qPos + k) (64 * b + j)
      let p := rowPartial a (queryGroups a.kvFmt qs) see kg vs
      let r := mergeState (NMap.find? acc.2.1 m) p.st
      ({ acc.1 with sat := acc.1.sat || p.sat, lowband := acc.1.lowband || r.2,
                    poison := acc.1.poison || (match r.1 with | some y => y.nan | none => false) },
       (match r.1 with | some y => NMap.insert acc.2.1 m y | none => acc.2.1),
       match p.st with | some y => NMap.insert acc.2.2 m y | none => acc.2.2)) (a, h.rows, [])

/-- Writes one row of a chain that has ended; the flag says whether every write was performed. -/
def writeRow (s : State) (a : AttnCmd) (x : AttnSeq) (h : Chain) (m k : Nat) : State × Bool :=
  let i := outIndex a x h m k
  let st := NMap.find? h.rows m
  let w := if a.flag 4 then devWrite s (a.fld 64 8 + i * (8 + 4 * a.d)) (partialBytes a.d st)
    else devWrite s (a.fld 64 8 + (if a.fld 9 1 = 1 then 2 else 4) * (i * a.d)) (outBytes (a.fld 9 1) (finalOut a.d st))
  if a.flag 3 then
    let v := devWrite w.1 (a.fld 72 8 + 4 * i) (leBytes 4 (finalLse st).toNat)
    (v.1, w.2 && v.2)
  else w

/-- Writes the rows of a chain that has ended; its sequence is DEVICE_FAULT if a write was not performed. -/
def writeChain (s : State) (a : AttnCmd) (x : AttnSeq) (h : Chain) : State × AttnCmd :=
  let rows := (List.range 64).filterMap fun m => (rowToken a x h m).map fun k => (m, k)
  let r := rows.foldl (fun acc mk => let w := writeRow acc.1 a x h mk.1 mk.2; (w.1, acc.2 && w.2)) (s, true)
  (r.1, { a with rowsDone := a.rowsDone + rows.length, lowband := a.lowband || h.parts.any fun e => directBand e.2,
                 seqs := if r.2 then a.seqs else a.seqs.modify h.seqNo fun y => { y with status := stDeviceFault } })

/-- The result record (R187). -/
def attnResult (a : AttnCmd) : List Byte :=
  let st := ((a.seqs.map (·.status)).find? (· ≠ stOk)).getD stOk
  leBytes 2 st ++ leBytes 2 (bit1 a.sat + 2 * bit1 a.poison + 4 * bit1 a.lowband) ++ leBytes 4 a.rowsDone ++ leBytes 8 a.jobs ++
    (a.seqs.map fun x => leBytes 2 x.status).flatten

/-- Updates a running ATTN command. -/
def modAttn (s : State) (a : AttnCmd) : State :=
  { s with attn := s.attn.map fun b => if b.q = a.q ∧ b.seq = a.seq then a else b }

/-- A running ATTN command. -/
def findAttn (s : State) (q seq : Nat) : Option AttnCmd := s.attn.find? fun a => a.q == q && a.seq == seq

/-- The number that stands for a queue in the ATTN commands which the serving engine issues for the step of a pair (log 99). -/
def stepQ (key : Nat) : Nat := 2 ^ 16 + key

/-- An ATTN ends with its sequences' statuses: a command is DONE with its status and its result record; the step that issued it takes
the statuses (10 R211). -/
def attnEnd (s : State) (q seq st : Nat) (sts : List Nat) (rec_ : List Byte) : State :=
  if stepQ 0 ≤ q then
    { s with srv := { s.srv with steps := NMap.adjust s.srv.steps (q - stepQ 0) fun x => { x with ended := x.ended ++ [sts] } } }
  else finishWith s q seq st 0 rec_

/-- An ATTN is refused with a status before it starts: one of a step gives that status to every row. -/
def attnRefuse (s : State) (q seq st : Nat) : State :=
  if stepQ 0 ≤ q then
    let n := match NMap.find? s.srv.steps (q - stepQ 0) with | some x => x.rows.length | none => 0
    attnEnd s q seq st (List.replicate n st) []
  else finish s q seq st 0

/-- Chains of sequences that have failed are dropped once no job of theirs runs; with no chain left the command is DONE
and its pins are released (R183, R187, R194, R204). -/
def attnSettle (s : State) (q seq : Nat) : State :=
  match findAttn s q seq with
  | none => s
  | some a0 =>
    let a := { a0 with chains := a0.chains.filter fun h =>
      h.running || (match a0.seqs[h.seqNo]? with | some x => x.status == stOk | none => false) }
    if a.chains.isEmpty then
      let s1 : State := { s with attn := s.attn.filter fun b => !(b.q == q && b.seq == seq) }
      let s2 := a.pins.foldl (fun y p => (releasePage y p.1 p.2).1) s1
      attnEnd s2 q seq (((a.seqs.map (·.status)).find? (· ≠ stOk)).getD stOk) (a.seqs.map (·.status)) (attnResult a)
    else modAttn s a

/-- A chain with no block left ends: its rows are written. -/
def endChain (s : State) (a : AttnCmd) (h : Chain) : State :=
  match a.seqs[h.seqNo]? with
  | none => s
  | some x =>
    let r := writeChain s { a with chains := a.chains.filter fun c => c.num != h.num } x h
    modAttn r.1 r.2

/-- Ends the chains that have no block to run. -/
def endEmpty (s : State) (q seq : Nat) : State :=
  match findAttn s q seq with
  | none => s
  | some a => (a.chains.filter fun h => h.blocks.isEmpty && !h.running).foldl (fun y h =>
      match findAttn y q seq with | some b => endChain y b h | none => y) s

/-- The rows of Q that a chain reads. -/
def queryRows (a : AttnCmd) (x : AttnSeq) (h : Chain) : List Nat :=
  (List.range 64).filterMap fun m => (rowToken a x h m).map fun k => a.fld 56 8 + 2 * (outIndex a x h m k * a.d)

/-- Q of a chain reads uncorrected. -/
def queryBad (s : State) (a : AttnCmd) (x : AttnSeq) (h : Chain) : Bool := (queryRows a x h).any fun r => badRange s r (2 * a.d)

/-- The job of a chain's first block ends (R196, R203, R204). -/
def attnJobEnd (s : State) (q seq chain : Nat) : State :=
  match findAttn s q seq with
  | none => s
  | some a =>
    match a.chains.find? fun h => h.num == chain with
    | none => s
    | some h =>
      match h.blocks, a.seqs[h.seqNo]? with
      | b :: rest, some x =>
        let put := fun (a : AttnCmd) (h' : Chain) => { a with chains := a.chains.map fun c => if c.num = chain then h' else c }
        if x.status ≠ stOk then attnSettle (modAttn s (put a { h with running := false })) q seq
        else if queryBad s a x h then
          let s1 := (queryRows a x h).foldl (fun y r => recordUncorrected y r (2 * a.d)) s
          let a1 := { put a { h with running := false } with seqs := a.seqs.modify h.seqNo fun y => { y with status := stDeviceFault } }
          attnSettle (modAttn s1 a1) q seq
        else
          let r := foldBlock s a x h b
          let h' : Chain := Chain.fold { h with blocks := rest, running := false, staged := [] } r.2.1 r.2.2
          attnSettle (endEmpty (modAttn s (put r.1 h')) q seq) q seq
      | _, _ => s

/-- A range lies in the deck of a die (08 R162). -/
def inDeck (d a n : Nat) : Bool := decide (deckBase + 0x18000000 * d ≤ a ∧ a + n ≤ deckBase + 0x18000000 * (d + 1))

/-- A staging burst of a chain has completed: what it has staged in the deck of the chain's die (R203). -/
def attnStaged (s : State) (q seq chain src n dst : Nat) : State :=
  match findAttn s q seq with
  | none => s
  | some a => modAttn s { a with chains := a.chains.map fun c =>
      if c.num = chain ∧ !c.running ∧ inDeck c.die dst n then { c with staged := (src, n, dst) :: c.staged } else c }

/-- The sequence of a chain fails with a status, and what of it does not run is dropped (R204). -/
def attnFail (s : State) (q seq chain st : Nat) : State :=
  match findAttn s q seq with
  | none => s
  | some a =>
    match a.chains.find? fun h => h.num == chain with
    | none => s
    | some h => attnSettle (modAttn s { a with seqs := a.seqs.modify h.seqNo fun y =>
        if y.status = stOk then { y with status := st } else y }) q seq

/-- A staging burst from a source address has completed with TIMEOUT: reissued in a later tick, at most 3 times (R204). -/
def attnTimeout (s : State) (q seq chain src : Nat) : State :=
  match findAttn s q seq with
  | none => s
  | some a =>
    match a.chains.find? fun h => h.num == chain with
    | none => s
    | some h =>
      if 3 ≤ (NMap.getD h.late src (0, 0)).1 then attnFail s q seq chain stTimeout
      else modAttn s { a with chains := a.chains.map fun c =>
        if c.num = chain then { c with late := NMap.modify c.late (0, 0) src fun e => (e.1 + 1, s.tkp.now) } else c }

/-- A staging burst ended with TIMEOUT in this tick: it is reissued in a later one (R204). -/
def attnSameTick (s : State) (use : BurstUse) (src : Nat) : Bool :=
  match use with
  | .attn q seq chain => (match findAttn s q seq with
    | some a => a.chains.any fun h => h.num == chain && (match NMap.find? h.late src with | some e => e.2 == s.tkp.now | none => false)
    | none => false)
  | _ => false

/-! ### ATTN_MERGE (R201) -/

/-- Mark of the loads of ATTN_MERGE parts, in place of a transfer list. -/
def mergeTag : Nat := 2 ^ 66

/-- Bytes of a part's records. -/
def mergeBytes (desc : List Byte) : Nat := fieldAt desc 16 4 * (8 + 4 * fieldAt desc 10 2)

/-- The record of a row of a part, from device memory or from the pieces that have come. -/
def mergeRecord (s : State) (c : MergeCmd) (part row : Nat) : List Byte :=
  let n := 8 + 4 * fieldAt c.desc 10 2
  match c.parts[part]? with
  | none => []
  | some p =>
    if p.1 / 2 ^ 40 = s.fab.device then devRead s (p.1 % 2 ^ 40 + n * row) n
    else
      (List.range n).map fun i =>
        let o := n * row + i
        (NMap.getD c.got (2 ^ 32 * part + o / 4096 * 4096) []).getD (o % 4096) 0

/-- The fold of a row over the parts, left to right, with LOWBAND of either form (R199). -/
def mergeRow (s : State) (c : MergeCmd) (row : Nat) : Option AttnState × Bool :=
  let ps := (List.range c.parts.length).map fun k => partialOf (fieldAt c.desc 10 2) (mergeRecord s c k row)
  let r := ps.foldl (fun (acc : Option AttnState × Bool) p => ((mergeState acc.1 p).1, acc.2 || (mergeState acc.1 p).2)) (none, false)
  (r.1, r.2 || directBand (ps.filterMap id))

/-- Writes a merged row. -/
def writeMerged (s : State) (c : MergeCmd) (row : Nat) (st : Option AttnState) : State × Bool :=
  let d := fieldAt c.desc 10 2
  let flags := fieldAt c.desc 6 2
  let fmt := fieldAt c.desc 12 1
  let out := fieldAt c.desc 32 8
  let w := if flags.testBit 4 then devWrite s (out + row * (8 + 4 * d)) (partialBytes d st)
    else devWrite s (out + (if fmt = 1 then 2 else 4) * (row * d)) (outBytes fmt (finalOut d st))
  if flags.testBit 3 then
    let v := devWrite w.1 (fieldAt c.desc 40 8 + 4 * row) (leBytes 4 (finalLse st).toNat)
    (v.1, w.2 && v.2)
  else w

/-- All parts are at hand: the rows are folded and written, or the command ends with the status of the first part that
could not be read. The result record has 16 bytes with STATUS, FLAGS without SAT, ROWS, and BLOCKS 0 (DESIGN CHOICE, log 116). -/
def mergeDone (s : State) (c : MergeCmd) : State :=
  let s0 : State := { s with merges := s.merges.filter fun m => !(m.q == c.q && m.seq == c.seq) }
  let rows := List.range (fieldAt c.desc 16 4)
  match c.fails with
  | f :: _ => finish s0 c.q c.seq f.2 0
  | [] =>
    match (c.parts.filter fun p => p.1 / 2 ^ 40 == s.fab.device && badRange s (p.1 % 2 ^ 40) (mergeBytes c.desc)).head? with
    | some p => finish (recordUncorrected s0 (p.1 % 2 ^ 40) (mergeBytes c.desc)) c.q c.seq stDeviceFault 0
    | none =>
      let sts := rows.map fun i => mergeRow s c i
      let r := (List.zip rows sts).foldl (fun acc e => let w := writeMerged acc.1 c e.1 e.2.1; (w.1, acc.2 && w.2)) (s0, true)
      let st := if r.2 then stOk else stDeviceFault
      let flags := 2 * bit1 (sts.any fun e => match e.1 with | some y => y.nan | none => false) + 4 * bit1 (sts.any (·.2))
      finishWith r.1 c.q c.seq st 0 (leBytes 2 st ++ leBytes 2 flags ++ leBytes 4 rows.length ++ leBytes 8 0)

/-- A load of a piece of a part has ended (R201). -/
def mergeGot (s : State) (q seq piece st : Nat) (bs : List Byte) : State :=
  match s.merges.find? fun m => m.q == q && m.seq == seq with
  | none => s
  | some c =>
    let c1 : MergeCmd := { c with left := c.left.filter (· ≠ piece),
                                  got := if st = stOk then NMap.insert c.got piece bs else c.got,
                                  fails := if st = stOk ∨ (NMap.find? c.fails (piece / 2 ^ 32)).isSome then c.fails
                                    else NMap.insert c.fails (piece / 2 ^ 32) st }
    if c1.left.isEmpty then mergeDone s c1
    else { s with merges := s.merges.map fun m => if m.q = q ∧ m.seq = seq then c1 else m }

end Sys2Proof.Machine
end

