-- ==== Sys2Proof/Machine/FlashOps.lean ====
section
/-!
DEFINITION. The flash tier as pages pass through it (11 R248 to R254): the write point, storing and reading a page, defects,
the tier's state; and what happens to the holders of a page when it moves or is lost (10 R217, 11 R244, R253).
-/
namespace Sys2Proof.Machine

/-! ### Blocks (R247, R251, R254, R256) -/

/-- Channels populated alike: what their parameter pages say, whichever blocks are marked (R247). -/
def nandAlike (a b : NandChan) : Bool := { a with marked := [] } == { b with marked := [] }

/-- Erase blocks of a channel. -/
def nandTotal (c : NandChan) : Nat := c.targets * c.luns * c.blocks

/-- The key of a block of a channel. -/
def blockKey (ch b : Nat) : Nat := 2 ^ 32 * ch + b

/-- Blocks of a channel without a factory mark, ascending. -/
def nandSound (c : NandChan) : List Nat := (List.range (nandTotal c)).filter fun b => !c.marked.contains b

/-- The good blocks of the recorder area: of the first 4 unmarked blocks of each channel, those not retired (R256, log 106). -/
def recBlocksOf (bad : List Nat) (l : List NandChan) : List Nat :=
  ((List.zip (List.range l.length) l).map fun e => ((nandSound e.2).take 4).map (blockKey e.1)).flatten.filter fun k => !bad.contains k

/-- Both copies of the recorder area keep a good block: channels NC0 to NC7, and NC8 to NC15 (R256). -/
def recServes (ks : List Nat) : Bool := (ks.any fun k => k / 2 ^ 35 == 0) && ks.any fun k => k / 2 ^ 35 == 1

/-- The good blocks of a channel that are not the recorder's: neither marked nor retired (R251, R256). -/
def goodBlocks (bad : List Nat) (ch : Nat) (c : NandChan) : List Nat := ((nandSound c).drop 4).filter fun b => !bad.contains (blockKey ch b)

/-- The superblocks that a start forms: superblock j of the j-th good block of each channel, as many as every channel can give (R248,
log 106). -/
def formSbs (bad : List Nat) (l : List NandChan) (n : Nat) : NMap SuperBlk :=
  let good := List.zipWith (goodBlocks bad) (List.range l.length) l
  (List.range ((good.map (·.length)).foldl min n)).map fun j => (j, ⟨0, good.map fun g => g.getD j 0, 0, 0⟩)

/-- The keys of a superblock's members. -/
def sbBlocks (b : SuperBlk) : List Nat := List.zipWith blockKey (List.range b.members.length) b.members

/-- The spares of a channel: good blocks that belong to no superblock (R254). -/
def sparesOf (s : State) (ch : Nat) (c : NandChan) : List Nat :=
  (goodBlocks s.fla.bad ch c).filter fun b => s.fla.sbs.all fun (e : Nat × SuperBlk) => e.2.members[ch]? != some b

/-- The fraction of spares on the worst channel, in 0.1 % of the channel's blocks (R254, log 106). -/
def worstSpare (s : State) : Nat :=
  (List.zipWith (fun ch c => 1000 * (sparesOf s ch c).length / nandTotal c) (List.range s.fla.chans.length) s.fla.chans).foldl min 1000

/-! ### The write point (R248 to R250) -/

/-- Updates a superblock. -/
def modSb (s : State) (i : Nat) (f : SuperBlk → SuperBlk) : State := { s with fla := { s.fla with sbs := NMap.adjust s.fla.sbs i f } }

/-- Stripes of a flash frame of a pool. -/
def stripesOf (s : State) (p : Nat) : Nat := (pageBytesOf s p + 262143) / 262144

/-- The summed erase count of a superblock's members. -/
def sbErases (s : State) (b : SuperBlk) : Nat := ((sbBlocks b).map fun k => NMap.getD s.fla.eraseCnt k 0).sum

/-- The free superblock with the lowest summed erase count, the lower index first. -/
def nextFree (s : State) : Option Nat :=
  ((s.fla.sbs.filter fun (b : Nat × SuperBlk) => b.2.state == 0).foldl (fun (m : Option (Nat × SuperBlk)) b =>
    match m with
    | none => some b
    | some x => if sbErases s b.2 < sbErases s x.2 then some b else m) none).map (·.1)

/-- Opens a superblock as the write point. -/
def openSb (s : State) : State × Option Nat :=
  match nextFree s with
  | none => (s, none)
  | some i =>
    let s1 := modSb s i fun b => { b with state := 1, opened := opsecNow s, nextStripe := 0 }
    ({ s1 with fla := { s1.fla with write := some i } }, some i)

/-- Consecutive stripes of one superblock at the write point: superblock and first stripe; a superblock whose last stripe is
written, or in which the frame does not fit, is closed. -/
def allocStripes (s : State) (n : Nat) : State × Option (Nat × Nat) :=
  let take := fun (y : State) (i : Nat) (b : SuperBlk) =>
    let full := b.nextStripe + n == y.fla.stripes
    let y1 := modSb y i fun c => { c with nextStripe := b.nextStripe + n, state := if full then 2 else 1 }
    ({ y1 with fla := { y1.fla with write := if full then none else some i } }, some (i, b.nextStripe))
  let fresh := fun (y : State) =>
    let r := openSb y
    match r.2.bind (NMap.find? r.1.fla.sbs), r.2 with
    | some b, some i => if n ≤ r.1.fla.stripes then take r.1 i b else (r.1, none)
    | _, _ => (r.1, none)
  match s.fla.write.bind (NMap.find? s.fla.sbs), s.fla.write with
  | some b, some i =>
    if b.nextStripe + n ≤ s.fla.stripes then take s i b
    else
      let s1 := modSb s i fun c => { c with state := 2 }
      fresh { s1 with fla := { s1.fla with write := none } }
  | _, _ => fresh s

/-- CP6 enqueues the FLASH blocks of some stripes, one for each codeword, half on the channels of each horizon die: encoding (OP 6)
of 3 beats or decoding (OP 5) of 13 (R248, 13 R287, R289). -/
def flashBlocks (s : State) (op n : Nat) : State :=
  let j : CodeJob := { op := op, bg := 0, zc := 256, rows := 16, iter := 20, length := if op = 6 then 3 else 13, inp := 0, out := 0,
                       polarN := 0, polarK := 0, crc := 0 }
  let blocks := fun (age : Nat) => (List.range (32 * n)).map fun i =>
    Block.mk j 0 0 s.tkp.now 0 (age + i) i 0 []
  let q0 := NMap.modify s.rad.flashQ [] 0 (· ++ blocks s.rad.ageN)
  { s with rad := { s.rad with flashQ := NMap.modify q0 [] 1 (· ++ blocks (s.rad.ageN + 32 * n)), ageN := s.rad.ageN + 64 * n } }

/-- The metadata of a frame's codewords: frame identifier and GEN, the operating seconds at which its superblock was opened, MODEL and LOC
zero-padded (R248). -/
def flashMeta (s : State) (p id sb : Nat) : List Byte :=
  match frameAt s p id with
  | some f => leBytes 4 id ++ leBytes 4 f.gen ++ leBytes 8 (match NMap.find? s.fla.sbs sb with | some b => b.opened | none => 0) ++
      leBytes 2 (match poolAt s p with | some x => x.model | none => 0) ++ leBytes 8 f.loc ++ List.replicate 6 0
  | none => []

/-- A NAND codeword: 4,096 data bytes, the metadata, the parity (R248). -/
def codeword (data meta_ : List Byte) : List Byte := data ++ meta_ ++ Config.flashParity (data ++ meta_)

/-- A page as codewords, its last one filled with zeros. -/
def pageWords (meta_ bs : List Byte) : List (List Byte) :=
  (List.range ((bs.length + 4095) / 4096)).map fun i =>
    let d := (bs.drop (4096 * i)).take 4096
    codeword (d ++ List.replicate (4096 - d.length) 0) meta_

/-- The bytes of a page that the tier holds. -/
def pageOf (s : State) (p id : Nat) : List Byte :=
  (((NMap.getD s.fla.pages (frameKey p id) []).map (·.take 4096)).flatten).take (pageBytesOf s p)

/-- Stores a page at the write point: its codewords, and the locator in the frame's descriptor (R249). -/
def flashStore (s : State) (p id : Nat) (bs : List Byte) : State × Bool :=
  match frameAt s p id with
  | none => (s, false)
  | some f =>
    let r := allocStripes s (stripesOf s p)
    match r.2 with
    | none => (r.1, false)
    | some (sb, stripe) =>
      let s1 := setFrame r.1 p id { f with loc := sb + 65536 * stripe }
      let ws := pageWords (flashMeta s1 p id sb) bs
      (flashBlocks { s1 with fla := { s1.fla with pages := NMap.insert s1.fla.pages (frameKey p id) ws } } 6 (stripesOf s p), true)

/-- The superblock that holds a flash frame. -/
def sbOf (f : Frame) : Nat := f.loc % 65536

/-- The flash frames that hold a page. -/
def flashFrames (s : State) : List (Nat × Frame) := s.srv.frames.filter fun e => e.2.tier == 3 && e.2.state != 0 && !e.2.retired

/-- The retention limit in operating seconds (R252). -/
def retention (s : State) : Nat := 86400 * s.fla.retainDays

/-- A frame is absent: the tier is disabled, or its superblock was opened more than the limit ago (R252, R254). -/
def flashAbsent (s : State) (f : Frame) : Bool :=
  s.fla.state == 3 || (match NMap.find? s.fla.sbs (sbOf f) with
    | some b => decide (b.opened + retention s < opsecNow s)
    | none => true)

/-! ### Holders of a page -/

/-- The live requests that hold a page of a pool. -/
def holdersOf (s : State) (p id : Nat) : List (Nat × Req) :=
  s.srv.reqs.filter fun e => e.2.live && e.2.pool == p &&
    (List.zip (List.range e.2.pages.length) e.2.pages).any fun x => x.2.1 == id && !e.2.dropped.contains x.1

/-- The pages of a request with one in place of another, and its page list in memory. -/
def rehomeReq (s : State) (i : Nat) (id new gen : Nat) : State :=
  let r := reqAt s i
  let at_ := (List.zip (List.range r.pages.length) r.pages).filter fun x => x.2.1 == id && !r.dropped.contains x.1
  let s1 := at_.foldl (fun y x => putPage y r x.1 new gen) s
  setReq s1 i { r with pages := (List.zip (List.range r.pages.length) r.pages).map fun x =>
    if x.2.1 = id ∧ !r.dropped.contains x.1 then (new, gen) else x.2 }

/-- Every holder of a frame takes another in its place: page lists and index entries name it, and the references go with
them; the old frame is freed (log 26). -/
def rehome (s : State) (p old new : Nat) : State :=
  match frameAt s p old, frameAt s p new with
  | some f, some g =>
    let s1 := (holdersOf s p old).foldl (fun y e => rehomeReq y e.1 old new g.gen) s
    let s2 := setFrame s1 p new { g with refs := f.refs }
    let s3 : State := { s2 with mov := { s2.mov with index := s2.mov.index.map fun e =>
      if e.pool = p ∧ e.frame = old then { e with frame := new } else e } }
    match frameAt s3 p old with
    | some f' => if !f'.retired && frameBad s3 p old then retireFrame s3 p old else freeFrame s3 p old f'
    | none => s3
  | _, _ => s

/-- A page that has been lost counts as dropped in a request that holds it (10 R211). -/
def dropPage (s : State) (i id : Nat) : State :=
  let r := reqAt s i
  let lost := (List.zip (List.range r.pages.length) r.pages).filter fun x => x.2.1 == id
  let ds := lost.foldl (fun ds x => addSet ds x.1) r.dropped
  setReq s i (trimDropped { r with dropped := ds })

/-- Takes the index entries of a frame out of the prefix index, each with its reference. -/
def dropEntriesOf (s : State) (p id : Nat) : State :=
  let n := (s.mov.index.filter fun e => e.pool == p && e.frame == id).length
  let s1 : State := { s with mov := { s.mov with index := s.mov.index.filter fun e => !(e.pool == p && e.frame == id) } }
  (List.range n).foldl (fun y _ => (releasePage y p id).1) s1

/-- A page cannot be read: requests in SWAPPED count it as dropped, index entries are removed, and a request that waits for
the page gets a local frame in its place with every line poisoned (R244, R253). -/
def flashMiss (s : State) (p id : Nat) : State :=
  let s0 := recordEvent s 0xC002 6 []
  let s1 : State := { s0 with fla := { s0.fla with uncorr := satAdd 32 s0.fla.uncorr 1 } }
  let hs := holdersOf s1 p id
  let s2 := dropEntriesOf s1 p id
  let s3 := (hs.filter fun e => e.2.state == 6).foldl (fun y e => (releasePage (dropPage y e.1 id) p id).1) s2
  if hs.all fun e => e.2.state == 6 then s3
  else
    let g := grantLocal s3 p 0
    match g.2 with
    | none => s3
    | some new =>
      match frameAt g.1 p new with
      | some f => (linesOf (f.loc % 2 ^ 40) (pageBytesOf s p)).foldl (fun y l => poisonLine y (64 * l)) (rehome g.1 p id new)
      | none => s3

/-! ### Defects and the tier's state (R251, R254) -/

/-- The tier becomes DISABLED: every flash frame is absent, so what only the index or a swapped request holds is lost. -/
def flashDisable (s : State) : State :=
  if s.fla.state = 3 then s
  else
    let s1 : State := { s with fla := { s.fla with state := 3, write := none } }
    (flashFrames s1).foldl (fun y e => dropEntriesOf y (e.1 / 2 ^ 24) (e.1 % 2 ^ 24)) s1

/-- The tier's state after a change of its spares: READ_ONLY below 2 %, DISABLED below 0.5 %; no state goes back. -/
def flashState (s : State) : State :=
  let permil := min s.fla.sparePermil (worstSpare s)
  let s1 : State := { s with fla := { s.fla with sparePermil := permil } }
  if permil < 5 then flashDisable s1
  else if permil < 20 ∧ s1.fla.state = 0 then
    latchAttn (recordEvent { s1 with fla := { s1.fla with state := 1 } } 0xC003 6 []) 1
  else s1

/-- The block that takes the place of a failed one: the lowest spare of the same channel, target and LUN (R251). -/
def spareFor (s : State) (ch b : Nat) : Option Nat :=
  match s.fla.chans[ch]? with
  | some c => (sparesOf s ch c).find? fun x => x / c.blocks == b / c.blocks
  | none => none

/-- The member of a superblock on a channel fails a program or an erase: the block is retired and a spare takes its place; a superblock
for which there is none is written no more. While READ_ONLY the failure disables the tier (R251, R254; log 106). -/
def blockFails (s : State) (sb ch : Nat) : State :=
  match (NMap.find? s.fla.sbs sb).bind fun x => x.members[ch]? with
  | none => s
  | some b =>
    let ro := s.fla.state == 1
    let s1 : State := { s with fla := { s.fla with retired := satAdd 16 s.fla.retired 1, bad := addSet s.fla.bad (blockKey ch b) } }
    let s2 := match spareFor s1 ch b with
      | some n => modSb s1 sb fun x => { x with members := x.members.set ch n }
      | none =>
        let s3 := modSb s1 sb fun x => { x with state := 2, nextStripe := s.fla.stripes }
        { s3 with fla := { s3.fla with write := if s3.fla.write = some sb then none else s3.fla.write } }
    let s4 := flashState s2
    if ro then flashDisable s4 else s4

/-- A page fails to program at the write point: its stripes are used up, and the block of the channel fails (R251). -/
def programFails (s : State) (p ch : Nat) : State :=
  let r := allocStripes s (stripesOf s p)
  match r.2 with
  | some x => blockFails r.1 x.1 ch
  | none => r.1

/-! ### Moving pages out and back (10 R217) -/

/-- Whether any line of a frame in this device reads uncorrected. -/
def pageBad (s : State) (f : Frame) (n : Nat) : Bool := isHere s f.loc && badRange s (f.loc % 2 ^ 40) n

/-- A page that was to move cannot, since its frame is retired: requests in SWAPPED count it as dropped; any other holder's next share of
the frame is refused (R211, 08 R506; log 104). -/
def moveLost (s : State) (p id : Nat) : State :=
  ((holdersOf s p id).filter fun e => e.2.state == 6).foldl (fun y e => dropPage y e.1 id) s

/-- A page held in local memory goes to the flash tier: a flash frame is granted, the page is stored in it, and its holders
take it in place of the old frame. The flag says whether it did. -/
def demotePage (s0 : State) (p id : Nat) : State × Bool :=
  let m := moveRead s0 p id
  let s := m.1
  if !m.2 then (moveLost s p id, false)
  else
    match frameAt s p id with
    | none => (s, false)
    | some f =>
      if s.fla.state ≠ 0 ∨ f.state = 0 ∨ 1 < f.tier then (s, false)
      else if pageBad s f (pageBytesOf s p) then (recordUncorrected s (f.loc % 2 ^ 40) (pageBytesOf s p), false)
      else
        let g := grantTier s p 3
        match g.2 with
        | none => (g.1, false)
        | some new =>
          let w := flashStore g.1 p new (devRead s (f.loc % 2 ^ 40) (pageBytesOf s p))
          if w.2 then (rehome w.1 p id new, true) else ((releasePage w.1 p new).1, false)

/-- A page in the flash tier comes back to a local frame. The flag says whether it did. -/
def promotePage (s0 : State) (p id index : Nat) : State × Bool :=
  let m := moveRead s0 p id
  let s := m.1
  if !m.2 then (moveLost s p id, false)
  else
    match frameAt s p id with
    | none => (s, false)
    | some f =>
      if f.state = 0 ∨ f.tier ≠ 3 then (s, false)
      else
        let g := grantLocal s p index
        match g.2.bind (frameAt g.1 p), g.2 with
        | some h, some new =>
          let s1 := (devWrite g.1 (h.loc % 2 ^ 40) (pageOf s p id)).1
          (flashBlocks (rehome s1 p id new) 5 (stripesOf s p), true)
        | _, _ => (g.1, false)

/-- A read of a flash frame, for the daily rewrite (R252). -/
def flashRead (s : State) (p id : Nat) : State :=
  { s with fla := { s.fla with readTick := NMap.insert s.fla.readTick (frameKey p id) s.tkp.now } }

end Sys2Proof.Machine
end

