-- ==== Sys2Proof/Machine/MoveOps.lean ====
section
/-!
DEFINITION. Prefix keys and the prefix index (11 R243, R244), the source and destination of a move (11 R236 to R241) and the
write grants of moves and publishes (14 R330), as operations that the serving engine, the moves and teardown share.
-/
namespace Sys2Proof.Machine

/-! ### Prefix keys and the index (R243, R244) -/

/-- The prefix key of some token ids. -/
def prefixKey (model p : Nat) (toks : List Nat) : List Byte :=
  (sha3_512 (leBytes 2 model ++ leBytes 1 p ++ (toks.map fun t => leBytes 4 t).flatten)).take 16

/-- The prefix keys of depth 1, 2, … of a token array, of its full pages. -/
def prefixKeys (model p : Nat) (toks : List Nat) : List (List Byte) :=
  (List.range (toks.length / p)).map fun k => prefixKey model p (toks.take ((k + 1) * p))

/-- A slice whose memory is encrypted (21 R472). -/
def isEncrypted (s : State) (slice : Nat) : Bool := (NMap.find? s.sec.keys slice).isSome

/-- An entry of an encrypted inserter matches only lookups from its slice (21 R473). -/
def pfxVisible (e : PfxEntry) (slice : Option Nat) : Bool :=
  match e.encSlice with | none => true | some x => decide (slice = some x)

/-- An entry whose frame has become absent in the flash tier (R244, R252). -/
def pfxAbsent (s : State) (e : PfxEntry) : Bool :=
  match frameAt s e.pool e.frame with | some f => f.tier == 3 && flashAbsent s f | none => false

/-- An index entry is one that a lookup from a slice sees for a pool, key and depth. -/
def pfxHit (s : State) (pool depth : Nat) (key : List Byte) (slice : Option Nat) (e : PfxEntry) : Bool :=
  e.pool == pool && e.depth == depth && e.key == key && pfxVisible e slice && !pfxAbsent s e

/-- The index entry of a pool, key and depth that a lookup from a slice sees. -/
def pfxFind (s : State) (pool depth : Nat) (key : List Byte) (slice : Option Nat) : Option PfxEntry :=
  s.mov.index.find? (pfxHit s pool depth key slice)

/-- The entries held for the leading depths of some keys. -/
def pfxRun (s : State) (pool : Nat) (slice : Option Nat) : Nat → List (List Byte) → List PfxEntry
  | _, [] => []
  | d, k :: ks =>
    match pfxFind s pool d k slice with
    | some e => e :: pfxRun s pool slice (d + 1) ks
    | none => []

/-- An index entry is used (R244). -/
def pfxUse (s : State) (es : List PfxEntry) : State :=
  es.foldl (fun y e => usePrefix y fun x => x.pool == e.pool && x.depth == e.depth && x.key == e.key && decide (x.encSlice = e.encSlice)) s

/-- Takes one entry out of the index and releases its reference. -/
def pfxRemove (s : State) (e : PfxEntry) : State :=
  let s1 : State := { s with mov := { s.mov with index := s.mov.index.filter fun x =>
    !(x.pool == e.pool && x.depth == e.depth && x.key == e.key && decide (x.encSlice = e.encSlice)) } }
  (releasePage s1 e.pool e.frame).1

/-- Entries whose frames have become absent leave the index, as the tick begins (R244). -/
def absentSeam (s : State) : State := (s.mov.index.filter (pfxAbsent s)).foldl pfxRemove s

/-- The least recently used of some entries. -/
def oldestOf (es : List PfxEntry) : Option PfxEntry :=
  es.foldl (fun (m : Option PfxEntry) e => match m with | none => some e | some x => if e.lastUse < x.lastUse then some e else some x) none

/-- An entry whose frame has REFS = 1, in whatever state it is (R244). -/
def refsOne (s : State) (e : PfxEntry) : Bool :=
  match frameAt s e.pool e.frame with | some f => f.refs == 1 && f.state != 0 && !f.retired | none => false

/-- An entry whose frame is GRANTED with REFS = 1: nothing but the index holds it. -/
def indexOnly (s : State) (e : PfxEntry) : Bool :=
  match frameAt s e.pool e.frame with | some f => f.refs == 1 && f.state == 1 && !f.retired | none => false

/-- Inserts a key (R244): not one already present, not with REFS at 65,535; a full index evicts. -/
def pfxInsert (s : State) (pool depth : Nat) (key : List Byte) (frame : Nat) (slice : Option Nat) (copied : Bool) : State :=
  let enc := match slice with | some x => if isEncrypted s x then some x else none | none => none
  if s.mov.index.any (fun e => e.pool == pool && e.depth == depth && e.key == key && decide (e.encSlice = enc)) then s
  else
    match frameAt s pool frame with
    | none => s
    | some f =>
      if 65535 ≤ f.refs ∨ f.retired then s
      else
        let room := if s.mov.index.length < 65536 then some s
          else (oldestOf (s.mov.index.filter (refsOne s))).map (pfxRemove s)
        match room with
        | none => s
        | some s1 =>
          let sh := sharePage s1 pool frame
          if sh.2 ≠ stOk then sh.1
          else
            let e : PfxEntry := { pool := pool, key := key, depth := depth, frame := frame, lastUse := sh.1.mov.useSeq + 1,
                                  useTick := s.tkp.now, copied := copied, encSlice := enc }
            { sh.1 with mov := { sh.1.mov with index := sh.1.mov.index ++ [e], useSeq := sh.1.mov.useSeq + 1 } }

/-- The page entries of a run of index entries: identifier and GEN. -/
def pfxPages (s : State) (es : List PfxEntry) : List (Nat × Nat) :=
  es.map fun e => (e.frame, match frameAt s e.pool e.frame with | some f => f.gen | none => 0)

/-! ### Messages that have come (14 R323) -/

/-- The packets that follow a full one as parts of the same message (log 29). -/
def dropParts (cls : Nat) : Bool → List Packet → List Packet
  | _, [] => []
  | false, ps => ps
  | true, p :: ps => if fieldAt p.payload 0 2 == cls then dropParts cls (p.payload.length == 4096) ps else p :: ps

/-- Takes the oldest message out of an inbox, where it has the class. -/
def dropMsg (cls : Nat) : List Packet → List Packet
  | [] => []
  | p :: ps => if fieldAt p.payload 0 2 == cls then dropParts cls (p.payload.length == 4096) ps else p :: ps

/-- The oldest message of a source has the class: messages of one source are handled in PSN order (R323). -/
def headIs (s : State) (src cls : Nat) : Bool :=
  match NMap.getD s.fab.inbox src [] with
  | p :: _ => fieldAt p.payload 0 2 == cls
  | [] => false

/-- Takes the oldest message of a source out of its inbox, where it has the class. -/
def takeMsg (s : State) (src cls : Nat) : State := { s with fab := { s.fab with inbox := NMap.adjust s.fab.inbox src (dropMsg cls) } }

/-- Takes out of every inbox an oldest message that answers a move of this device which no longer awaits it: MOVE_ID[21:8] is the source
index (R323). -/
def dropStaleMsg (s : State) (cls idx : Nat) : State :=
  s.fab.inbox.foldl (fun y e => match e.2 with
    | p :: _ => if fieldAt p.payload 4 4 / 256 % 16384 = idx then takeMsg y e.1 cls else y
    | [] => y) s

/-! ### Write grants (14 R330) -/

/-- Installs grants, if the table can hold all of them. -/
def addGrants (s : State) (gs : List Grant) : State × Bool :=
  if 4096 < s.fab.grants.length + gs.length then (s, false)
  else
    let k := match s.fab.grants.getLast? with | some e => e.1 + 1 | none => 0
    ({ s with fab := { s.fab with grants := s.fab.grants ++ List.zipWith (fun i g => (k + i, g)) (List.range gs.length) gs } }, true)

/-- Removes the grants that a test names. -/
def dropGrants (s : State) (t : Grant → Bool) : State :=
  { s with fab := { s.fab with grants := s.fab.grants.filter fun e => !t e.2 } }

/-! ### The source of a move (R235 to R237) -/

/-- The move id of an entry of this device. -/
def ownMove (s : State) (i : Nat) : Nat := moveIdField s.fab.device i (reqAt s i).entryGen

/-- Writes the source's state of a move. -/
def setSrc (s : State) (i : Nat) (m : SrcMove) : State := { s with mov := { s.mov with src := NMap.insert s.mov.src i m } }

/-- Forgets the source's state of a move. -/
def dropSrc (s : State) (i : Nat) : State := { s with mov := { s.mov with src := NMap.erase s.mov.src i } }

/-- The prefix keys of the leading full pages that lie wholly inside a request's prompt. -/
def promptKeys (s : State) (r : Req) : List (List Byte) :=
  match poolAt s r.pool with
  | some p => prefixKeys p.model p.p ((List.range r.promptLen).map (logToken s r))
  | none => []

/-- The move record of a source and its MOVE_RESERVE to a target (R236 step 2). -/
def reserveTo (s : State) (i t tried : Nat) : State :=
  let r := reqAt s i
  let m : SrcMove := { target := t, tried := tried, sentTick := s.tkp.now, phase := 1, dst := ⟨0, 0, 0, [], [], 0, 0⟩, left := [] }
  let p := match poolAt s r.pool with | some x => (x.model, x.p) | none => (0, 0)
  let keys := promptKeys s r
  let body := leBytes 4 r.reqId ++ leBytes 2 p.1 ++ leBytes 1 p.2 ++ leBytes 1 (t / 256 % 64) ++ leBytes 4 (r.promptLen + r.genLen) ++
    leBytes 2 r.adapter ++ leBytes 2 r.adapterVer ++ leBytes 2 r.grammar ++ leBytes 2 keys.length ++ keys.flatten
  sendMsg (setSrc s i m) (t % 256) 0x0101 (ownMove s i) [r.reqId, p.1, p.2, r.promptLen + r.genLen, r.adapter, r.adapterVer, r.grammar] body

/-- A move fails: the source reverts to PREFILL with its prompt written; each 64th consecutive failure is recorded (R237). -/
def revertMove (s : State) (i : Nat) : State :=
  let r := reqAt s i
  let n := (NMap.getD s.mov.failStreak i (0, 0)).1 + 1
  let s1 := dropSrc (setReq s i { r with state := 2, prefillPos := r.promptLen }) i
  let s2 : State := { s1 with mov := { s1.mov with failStreak := NMap.insert s1.mov.failStreak i (n, s.tkp.now) } }
  if n % 64 = 0 then recordEvent s2 0x3002 3 [] else s2

/-- MOVE_RESERVE to the target at the rotating pointer, which moves on with each. A target outside the partition is refused at issue, as a
refusal that came back would be: the next is tried, and when every one has refused the move fails (R237, 14 R331). -/
def reserveGo (i : Nat) : Nat → Nat → State → State
  | 0, _, s => s
  | n + 1, tried, s =>
    let r := reqAt s i
    let ro := roleOf s r.slice
    match ro.targets[ro.rot % ro.targets.length]? with
    | none => s
    | some t =>
      let s1 : State := { s with mov := { s.mov with roles := NMap.insert s.mov.roles r.slice { ro with rot := (ro.rot + 1) % ro.targets.length } } }
      if inPartition s (t % 256) then reserveTo s1 i t tried
      else if tried + 1 < ro.targets.length then reserveGo i n (tried + 1) s1
      else revertMove s1 i

/-- MOVE_RESERVE of a request, with the targets that have refused it in this tick. -/
def sendReserve (s : State) (i tried : Nat) : State := reserveGo i ((roleOf s (reqAt s i).slice).targets.length + 1) tried s

/-- A state-move starts: the entry is MOVING (R211, R236). -/
def startMove (s : State) (i : Nat) : State := sendReserve (setReq s i { reqAt s i with state := 3 }) i 0

/-- The source sends MOVE_QUERY and waits for its answer (R240). -/
def sendQuery (s : State) (i : Nat) : State :=
  match NMap.find? s.mov.src i with
  | none => s
  | some m => sendMsg (setSrc s i { m with sentTick := s.tkp.now, phase := if m.phase = 2 then 3 else m.phase }) (m.target % 256) 0x0106
      (ownMove s i) [] []

/-- Every range of a move has been copied: MOVE_COMMIT goes out behind every store (R236 step 4). -/
def moveCopied (s : State) (i : Nat) : State :=
  match NMap.find? s.mov.src i with
  | none => s
  | some m =>
    if m.phase = 2 ∧ m.left.isEmpty then
      sendMsg (setSrc s i { m with phase := 3, sentTick := s.tkp.now }) (m.target % 256) 0x0103 (ownMove s i) [] (reqBytes (reqAt s i))
    else s

/-- A burst of a move has completed. -/
def moveBurst (s : State) (i src n dst : Nat) : State :=
  match NMap.find? s.mov.src i with
  | none => s
  | some m => moveCopied (setSrc s i { m with left := cutRanges m.left src n dst }) i

/-- A page of a move reads uncorrected: the move is cancelled, and the request rebuilds from that page (R211, R237,
log 25). -/
def movePoisoned (s : State) (i src : Nat) : State :=
  match NMap.find? s.mov.src i with
  | none => s
  | some m =>
    let r := reqAt s i
    let n := pageBytesOf s r.pool
    let k := r.pages.findIdx fun p => match frameAt s r.pool p.1 with | some f => decide (f.loc ≤ src ∧ src < f.loc + n) | none => false
    let s1 := revertMove (sendMsg s (m.target % 256) 0x0107 (ownMove s i) [] []) i
    let x := reqAt s1 i
    if k < r.pages.length then setReq s1 i { x with recompute := true, prefillPos := min (k * pageP s x) x.promptLen } else s1

/-! ### The destination of a move (R236, R239) -/

/-- A move record. -/
def findMove (s : State) (src idx gen : Nat) : Option MoveRec :=
  s.mov.recs.find? fun m => m.srcDev == src && m.srcIdx == idx && m.srcGen == gen % 1024

/-- Updates a move record. -/
def modMove (s : State) (src idx gen : Nat) (f : MoveRec → MoveRec) : State :=
  { s with mov := { s.mov with recs := s.mov.recs.map fun m => if m.srcDev = src ∧ m.srcIdx = idx ∧ m.srcGen = gen % 1024 then f m else m } }

/-- Removes the write grants of a move. -/
def dropMoveGrants (s : State) (src idx gen : Nat) : State := dropGrants s fun g => decide (g.move = some (src, idx, gen % 1024))

/-- The answer to a source: 1 COMMITTED, 2 ABANDONED. -/
def answerMove (s : State) (src idx gen outcome : Nat) : State :=
  sendMsg s src 0x0104 (moveIdField src idx gen) [outcome] (leBytes 1 outcome)

/-- Abandons a PENDING move: the entry is FREE, its pages are released, its grants removed, and the record says so. -/
def abandonMove (s : State) (m : MoveRec) : State :=
  let s1 := if (reqAt s m.dstIdx).state = 9 then freeReq s m.dstIdx else s
  modMove (dropMoveGrants s1 m.srcDev m.srcIdx m.srcGen) m.srcDev m.srcIdx m.srcGen fun x => { x with outcome := 2 }

/-- A slice loses its context: PENDING moves into it are abandoned, and moves out of it are cancelled (R239, R241). -/
def movesEnd (s : State) (slice : Nat) : State :=
  let s1 := (s.mov.recs.filter fun m => m.outcome == 0 && m.slice == slice).foldl abandonMove s
  ((liveOf s1 slice).filter fun e => e.2.state == 3).foldl (fun y e =>
    match NMap.find? y.mov.src e.1 with
    | some m => dropSrc (sendMsg y (m.target % 256) 0x0107 (ownMove y e.1) [] []) e.1
    | none => y) s1

/-! ### Prefix commands in progress (R246) -/

/-- A prefix command in progress. -/
def findPfx (s : State) (q seq : Nat) : Option PfxOp := s.mov.ops.find? fun o => o.q == q && o.seq == seq

/-- Updates a prefix command in progress. -/
def setPfx (s : State) (o : PfxOp) : State :=
  { s with mov := { s.mov with ops := s.mov.ops.map fun x => if x.q = o.q ∧ x.seq = o.seq then o else x } }

/-- Forgets a prefix command in progress. -/
def dropPfx (s : State) (q seq : Nat) : State := { s with mov := { s.mov with ops := s.mov.ops.filter fun o => !(o.q == q && o.seq == seq) } }

/-- The frames of a prefix command are released: those granted to a fetch, or the references of a publish. -/
def pfxRelease (s : State) (o : PfxOp) : State := o.frames.foldl (fun y f => (releasePage y o.pool f).1) s

/-- A prefix command that has copied everything ends: a fetch inserts its keys and drops its own references; a publish tells
the cache device by releasing its lease (R246, R330, log 25). -/
def pfxDone (s : State) (o : PfxOp) : State :=
  let s1 := sendMsg s o.dev 0x0112 0 [o.lease] (leBytes 4 o.lease)
  let s2 := if o.opcode = 0x0215 then
      (List.zip (List.range o.frames.length) o.frames).foldl (fun y e =>
        pfxInsert y o.pool (e.1 + 1) (o.keys.getD e.1 []) e.2 (some o.slice) true) s1
    else { s1 with mov := { s1.mov with index := s1.mov.index.map fun e =>
        if e.pool = o.pool ∧ o.frames.contains e.frame then { e with copied := true } else e } }
  finish (pfxRelease (dropPfx s2 o.q o.seq) o) o.q o.seq stOk (BitVec.ofNat 64 o.depth)

/-- A prefix command ends without its effect; a fetch that holds a lease releases it. -/
def pfxFail (s : State) (o : PfxOp) (st : Nat) : State :=
  let s1 := if o.opcode = 0x0215 ∧ o.lease ≠ 0 then sendMsg s o.dev 0x0112 0 [o.lease] (leBytes 4 o.lease) else s
  finish (pfxRelease (dropPfx s1 o.q o.seq) o) o.q o.seq st 0

/-- The result of PREFIX_LOOKUP: DEPTH 4 bytes, DEVICE 2, reserved 2, then the page entries of 8 bytes (log 27). -/
def lookupResult (depth dev : Nat) (pages : List (Nat × Nat)) : List Byte :=
  leBytes 4 depth ++ leBytes 2 dev ++ leBytes 2 0 ++ (pages.map fun p => leBytes 8 (p.1 + 2 ^ 32 * p.2)).flatten

/-- PREFIX_LOOKUP ends once every device asked has answered: the local index, then the first device in list order that holds
the greatest depth (R246, log 25). -/
def lookupSettle (s : State) (o : PfxOp) : State :=
  if o.waiting.isEmpty then
    let best := o.answers.foldl (fun (m : Nat × Nat × List (Nat × Nat)) a => if m.2.1 < a.2.1 then a else m)
      (s.fab.device, o.local_.1, o.local_.2)
    finishWith (dropPfx s o.q o.seq) o.q o.seq stOk (BitVec.ofNat 64 best.2.1) (lookupResult best.2.1 best.1 best.2.2)
  else s

/-- Devices in an order of their own first in it: those of a list that answered, in list order. -/
def inOrder (order : List Nat) (as : List (Nat × Nat × List (Nat × Nat))) : List (Nat × Nat × List (Nat × Nat)) :=
  (order.map fun d => as.filter fun a => a.1 == d).flatten

/-- A device answers a remote lookup, or cannot be reached, which is a depth of 0 (log 25). -/
def lookupAnswer (s : State) (q seq d depth : Nat) (pages : List (Nat × Nat)) : State :=
  match findPfx s q seq with
  | none => s
  | some o =>
    if o.opcode = 0x0214 ∧ o.waiting.contains d then
      let as := inOrder o.order (o.answers ++ [(d, depth, pages)])
      let o1 := { o with waiting := o.waiting.filter (· ≠ d), answers := as }
      lookupSettle (setPfx s o1) o1
    else s

/-- The message of a prefix command has ended other than OK (R312): a lookup counts the device as holding nothing; a fetch or
publish ends with the status. -/
def pfxUnsent (s : State) (q seq d st : Nat) : State :=
  match findPfx s q seq with
  | none => s
  | some o => if o.opcode = 0x0214 then lookupAnswer s q seq d 0 [] else if o.lease = 0 then pfxFail s o st else s

/-- A burst of a prefix command has completed. -/
def pfxBurst (s : State) (q seq src n dst : Nat) : State :=
  match findPfx s q seq with
  | none => s
  | some o =>
    let o1 := { o with left := cutRanges o.left src n dst }
    if o1.left.isEmpty then pfxDone (setPfx s o1) o1 else setPfx s o1

end Sys2Proof.Machine
end

