-- ==== Sys2Proof/Machine/XferOps.lean ====
section
/-!
DEFINITION. What the end of a fabric request does at its sender: a transfer-list entry takes its final status and its
data lands, a DMA burst goes on, a mirror store is acknowledged (14 R308 to R316, 16 R362); and how a stream breaks
(R312).
-/
namespace Sys2Proof.Machine

/-- Tag of the origin of a DMA engine's requests, in place of a transfer list. -/
def dmaTag (eng : Nat) : Nat := 2 ^ 64 + 1 + eng

/-! ### Transfer lists (R314, R316) -/

/-- The port and the transfer list of a number. -/
def findList (s : State) (n : Nat) : Option (Nat × XList) :=
  (s.fab.ports.filterMap fun (p : Nat × WPort) => (p.2.lists.find? fun l => l.num == n).map fun l => (p.1, l)).head?

/-- Updates a transfer list. -/
def modList (s : State) (port n : Nat) (f : XList → XList) : State :=
  modPort s port fun w => { w with lists := w.lists.map fun l => if l.num = n then f l else l }

/-- The status with which FAB_XFER ends: that of the lowest entry that is not OK (R316). -/
def listStatus (l : XList) : Nat := (l.status.filterMap id).find? (· ≠ stOk) |>.getD stOk

/-- A transfer-list entry as its 32 bytes give it; an entry with a reserved bit or byte set is given OP 0, which no
operation has. -/
def entryOfBytes (b : List Byte) : XferEntry :=
  let sub := fieldAt b 1 1
  { op := if sub / 32 ≠ 0 ∨ fieldAt b 4 4 ≠ 0 then 0 else fieldAt b 0 1, sub := sub % 16, comb := bitOf sub 4, len := fieldAt b 2 2,
    remote := fieldAt b 8 8, local_ := fieldAt b 16 8, operand := BitVec.ofNat 64 (fieldAt b 24 8) }

/-- A list whose entries all have a final status completes: the done counter and the sync counter rise, FAB_XFER is DONE,
and the list leaves its port. -/
def settleList (s : State) (port n : Nat) : State :=
  match (wport s port).lists.find? fun l => l.num == n with
  | none => s
  | some l =>
    if l.status.all Option.isSome then
      let s1 := modPort s port fun w => { w with lists := w.lists.filter fun x => x.num != n }
      let s2 := if usableRange s1 l.donePtr 8 then bumpCounter s1 l.donePtr else s1
      let s3 := match l.sync with | some c => incSync s2 c | none => s2
      match l.cmd with
      | some (q, seq) => finish s3 q seq (listStatus l) 0
      | none => s3
    else s

/-- A transfer-list entry takes its final status, which is written at STATUS_PTR. -/
def entryDone (s : State) (port n i st : Nat) : State :=
  match (wport s port).lists.find? fun l => l.num == n with
  | none => s
  | some l =>
    let s1 := modList s port n fun x => { x with status := x.status.set i (some st) }
    let s2 := if usableRange s1 (l.statusPtr + 2 * i) 2 then (devWrite s1 (l.statusPtr + 2 * i) (leBytes 2 st)).1 else s1
    settleList s2 port n

/-! ### Mirror stores (16 R362) -/

/-- One piece of a mirrored record has been acknowledged; with the last, a DONE completion that waited for it is written (R362). -/
def mirrorAcked (s : State) (r : JRec) : State :=
  let s1 := modRec { s with hst := { s.hst with mirrorLost := false } } r.q r.seq fun x => { x with mirLeft := x.mirLeft - 1 }
  if r.mirLeft ≤ 1 ∧ s.hst.mirWait.contains (r.q, r.seq) then
    postDone { s1 with hst := { s1.hst with mirWait := s1.hst.mirWait.filter (· ≠ (r.q, r.seq)) } } { r with mirLeft := 0 } false
  else s1

/-- One piece of a mirrored record is stored again. -/
def mirrorAgain (s : State) (r : JRec) (piece : Nat) : State :=
  match (mirrorPieces r).find? fun p => p.1 == piece with
  | some p => mirrorPiece s r p.1 p.2 (some (mirrorTag, r.q + 512 * p.1, r.seq))
  | none => s

/-- One piece of a mirrored record has failed: under STRICT it is sent again, otherwise mirroring ends (R362). -/
def mirrorFailed (s : State) (r : JRec) (piece : Nat) : State :=
  if !s.hst.mirrored then s
  else if s.hst.strict then mirrorAgain { s with hst := { s.hst with mirrorLost := true } } r piece
  else unmirror s

/-- The partner has acknowledged a store of a record, or the store has failed; the low part of `loc` is the queue, the rest the
piece. -/
def mirrorDone (s : State) (loc seq st : Nat) : State :=
  match findRec s (loc % 512) seq with
  | none => s
  | some r => if st = stOk then mirrorAcked s r else mirrorFailed s r (loc / 512)

/-! ### Final status of a request -/

/-- Data that a response delivers lands in local memory; the flag says whether every write was performed (R173, R314, R318, 08 R167). -/
def landData (s : State) (loc : Nat) (bs : List Byte) : State × Bool := if bs.isEmpty then (s, true) else devWrite s loc bs

/-- Total size of the SAVE extents in regions of 2 MiB. -/
def saveRegions (es : List Extent) : Nat := ((es.filter (·.save)).map (·.count)).foldl (· + ·) 0

/-- Regions that the SAVE extents before one take in the landing zone. -/
def landOffset (es : List Extent) (i : Nat) : Nat := saveRegions (es.take i)

/-- Where a byte of a reply to a context lands: in place, in the landing zone at its extent's offset, or nowhere
(17 R390, R391, R393). -/
def replyAddr (x : Ctx) (a : Nat) : Option Nat :=
  if x.state = 6 then none
  else
    match (List.zip (List.range x.extents.length) x.extents).find? fun e =>
        decide ((extentRange e.2).1 ≤ a ∧ a < (extentRange e.2).1 + (extentRange e.2).2) with
    | none => some a
    | some (i, e) =>
      if x.state = 3 ∨ x.state = 4 then some a
      else if e.save then some (x.landing + 2 ^ 21 * landOffset x.extents i + (a - (extentRange e).1))
      else none

/-- Data of a reply to a transfer list: of a context, each line lands as its state says (17 R390). -/
def landList (s : State) (ctx : Option Nat) (loc : Nat) (bs : List Byte) : State × Bool :=
  match ctx with
  | none => landData s loc bs
  | some c => (lineChunks (bs.length / 64 + 2) loc bs).foldl (fun y p =>
      match replyAddr (ctxAt y.1 c) p.1 with
      | some a => ((devWrite y.1 a p.2).1, y.2 && (devWrite y.1 a p.2).2)
      | none => y) (s, true)

/-- Cuts a range of a fabric window into pieces that cross no 4,096-byte boundary: offset and length; the fuel is a bound
on their number. -/
def fabPieces : Nat → Nat → Nat → Nat → List (Nat × Nat)
  | 0, _, _, _ => []
  | f + 1, a, off, n =>
    if n = 0 then []
    else
      let k := min n (4096 - a % 4096)
      (off, k) :: fabPieces f (a + k) (off + k) (n - k)

/-- The job tag of a slice; 0 for firmware (R317). -/
def sliceTag (s : State) (slice : Option Nat) : Nat :=
  match slice with | some x => NMap.getD s.fab.jobTags x 0xFFFF | none => 0

/-- Bytes from the start of a burst that have come without a gap. -/
def gotRun : NMap (List Byte) → Nat → Nat
  | [], n => n
  | (off, bs) :: rest, n => if off = n then gotRun rest (n + bs.length) else n

/-- Updates a burst. -/
def modBurst (s : State) (eng : Nat) (f : Burst → Burst) : State := { s with mem := { s.mem with dma := NMap.adjust s.mem.dma eng f } }

/-- Whose requests those of a burst are to a fence: its slice's, or firmware's (R324). -/
def burstKey (b : Burst) : Nat := 16 + b.slice.getD 64

/-- What a fence will know of a request of a key to a device, by its number in the order of issue: the first that ended otherwise than OK
(R324). -/
def noteFail (s : State) (d key num st : Nat) : State :=
  let i := 256 * key + d
  let later := match NMap.find? s.fab.fails i with | some e => decide (e.1 ≤ num) | none => false
  if st = stOk ∨ later = true then s else { s with fab := { s.fab with fails := NMap.insert s.fab.fails i (num, st) } }

/-- A request of a burst to a device outside the partition ends DENIED at issue (R331). -/
def burstDenied (s : State) (eng : Nat) (b : Burst) (d : Nat) : State :=
  modBurst (noteFail s d (burstKey b) s.fab.issueN stDenied) eng fun x => { x with fail := some (x.fail.getD stDenied) }

/-- The fabric stores of a piece of a burst (08 R173): DENIED at issue for a device outside the partition (R331). -/
def burstStore (s : State) (eng off : Nat) (bs : List Byte) : State :=
  match NMap.find? s.mem.dma eng with
  | none => s
  | some b =>
    let a := b.dst % 2 ^ 48 + off
    if !inPartition s (a / 2 ^ 40) then burstDenied s eng b (a / 2 ^ 40)
    else (fabPieces (bs.length / 64 + 2) a 0 bs.length).foldl (fun y p =>
      issueReq y (a / 2 ^ 40) (reqPacket 0x11 (a + p.1) p.2 (sliceTag s b.slice) false ((bs.drop p.1).take p.2))
        (some (dmaTag eng, off + p.1, 1)) (some (burstKey b))) s

/-- A fabric request of a burst has ended: kind 0 a load, whose data wait for the burst's completion, or go on to a fabric
destination in the order of their addresses; kind 1 a store. -/
def burstReply (s : State) (eng off kind st : Nat) (bs : List Byte) : State :=
  if st ≠ stOk then modBurst s eng fun x => { x with fail := some (x.fail.getD st) }
  else if kind = 1 then s
  else
    match NMap.find? s.mem.dma eng with
    | none => s
    | some b =>
      let got := NMap.insert b.got off bs
      let s1 := modBurst s eng fun x => { x with got := got }
      if b.dst / 2 ^ 56 = 2 ∧ gotRun b.got 0 < gotRun got 0 then
        burstStore s1 eng (gotRun b.got 0) (((got.map fun (e : Nat × List Byte) => e.2).flatten.take (gotRun got 0)).drop (gotRun b.got 0))
      else s1

/-- Origin of the barrier atomics of a launched job (15 R350). -/
def launchTag : Nat := 2 ^ 68

/-- A barrier atomic of a lockstep job has ended: OUTCOME_UNKNOWN ends its PLAN_LAUNCH (15 R350). -/
def barrierDone (s : State) (q seq st : Nat) : State :=
  if st = stOutcomeUnknown then
    finish { s with tim := { s.tim with jobs := s.tim.jobs.filter fun j => !(j.q == q && j.seq == seq) } } q seq st 0
  else s

/-- A request to a device ends with a status and the data of its response. A message answered BUSY is sent again
(R323). -/
def reqDone (s : State) (d : Nat) (o : OutReq) (st : Nat) (bs : List Byte) : State :=
  match o.origin with
  | none => s
  | some (n, i, loc) =>
    if n = launchTag then barrierDone s i loc st
    else if pageTag ≤ n then pageReply s (n - pageTag) i loc st o.pkt.len bs
    else if mergeTag ≤ n then mergeGot s (n - mergeTag) loc i st bs
    else if n = mirrorTag then mirrorDone s i loc st
    else if n = msgTag then
      if st = stBusy then issueReq s d { o.pkt with retry := false } o.origin
      else if st ≠ stOk ∧ loc ≠ 0 then pfxUnsent s i loc d st else s
    else if mirrorTag < n then burstReply s (n - mirrorTag - 1) i loc st bs
    else
      match findList s n with
      | none => s
      | some (port, l) =>
        if st = stOk then
          let w := landList s l.context loc bs
          entryDone w.1 port n i (if w.2 then stOk else stDeviceFault)
        else entryDone s port n i st

/-- A request that has ended is noted for fences. -/
def noteEnd (s : State) (d : Nat) (o : OutReq) (st : Nat) : State := match o.key with | some k => noteFail s d k o.num st | none => s

/-- A request ends with its final status: what it served goes on (R311, R312, R324). -/
def reqEnd (s : State) (d : Nat) (o : OutReq) (st : Nat) (bs : List Byte) : State := reqDone (noteEnd s d o st) d o st bs

/-- Takes the outstanding requests that a test names off a stream and ends each, in issue order. -/
def endReqs (s : State) (d : Nat) (t : OutReq → Bool) (st : OutReq → Nat) (bs : List Byte) : State :=
  let x := txAt s d
  (x.outst.filter t).foldl (fun y o => reqEnd y d o (st o) bs) (setTx s d { x with outst := x.outst.filter fun o => !t o })

/-! ### Breaking a stream (R312, R313) -/

/-- The status that a request of a broken stream ends with. -/
def brokenStatus (o : OutReq) : Nat := if o.pkt.op = 0x10 ∨ o.pkt.op = 0x11 then stTimeout else stOutcomeUnknown

/-- The EPOCH packet of a stream goes out on the next healthy path. -/
def sendEpoch (s : State) (d : Nat) : State :=
  let st := txAt s d
  let ps := pathsOf s d
  let s1 := setTx s d { st with epochAsk := some (launch s) }
  match healthyTo s d st.next with
  | none => s1
  | some (i, p) =>
    let pkt : Packet := { reqPacket 0x31 0 4 0 false (leBytes 4 st.epoch) with
      src := s.fab.device, dst := d, epoch := st.epoch, path := p.index, prot := s.fab.prot, stamp := launch s }
    putPacket (setTx s1 d { st with epochAsk := some (launch s), next := (i + 1) % ps.length }) p.port pkt

/-- A stream breaks: every request of it without a response ends, and a new epoch starts with PSN 0. -/
def breakStream (s : State) (d : Nat) : State :=
  let st := txAt s d
  let all := st.outst.filter (fun o => !o.pkt.comb) ++ st.held.filter (fun o => !o.pkt.comb)
  let s1 := setTx s d { st with epoch := (st.epoch + 1) % 256, psn := 0, outst := st.outst.filter fun o => o.pkt.comb,
                                held := st.held.filter fun o => o.pkt.comb }
  let s2 : State := { s1 with fab := { s1.fab with broken := satAdd 16 s1.fab.broken 1 } }
  all.foldl (fun x o => reqEnd x d o (brokenStatus o) []) (sendEpoch s2 d)

end Sys2Proof.Machine
end

