-- ==== Sys2Proof/Machine/Slices.lean ====
section
/-!
DEFINITION. Slices: PASIDs and quotas, bound to seams, remaining share and debt, and the slowdown measure (17 R378 to
R383, R396).
-/
namespace Sys2Proof.Machine

/-! ### SLICE_ASSIGN (R378) -/

/-- The checks of SLICE_ASSIGN on its fields. -/
def sliceAssignFields (r : JRec) (_ : State) : Nat :=
  if r.params.length = 8 ∧ r.par 0 4 < 2 ^ 20 ∧ r.par 4 1 < 64 ∧ r.par 5 1 ≤ 1 ∧ r.zeros 6 2 then stOk else stInvalid

/-- The checks of SLICE_ASSIGN on the state, before its seam. -/
def sliceAssignState (r : JRec) (s : State) : Nat :=
  let pasid := r.par 0 4
  let slice := r.par 4 1
  if r.par 5 1 = 1 then
    match NMap.find? s.slc.pasids pasid with
    | some o => if o = slice then stOk else stInvalid
    | none => if (s.slc.pasids.filter fun e => e.2 == slice).length ≤ 7 then stOk else stInvalid
  else if NMap.find? s.slc.pasids pasid ≠ some slice then stInvalid
  else if s.hst.queues.any (fun e => !e.2.system && e.2.pasid == pasid) then stBusy
  else stOk

/-- SLICE_ASSIGN at its seam. -/
def sliceAssignApply (r : JRec) (s : State) : State :=
  let m := if r.par 5 1 = 1 then NMap.insert s.slc.pasids (r.par 0 4) (r.par 4 1) else NMap.erase s.slc.pasids (r.par 0 4)
  { s with slc := { s.slc with pasids := m } }

/-- SLICE_ASSIGN (opcode 0x0500). -/
def execSliceAssign (q seq : Nat) (s : State) : Out := .next (withSeamCmd s q seq 0x0500 sliceAssignFields)

/-! ### SLICE_QUOTA (R379, R381) -/

/-- The quotas that a SLICE_QUOTA carries. -/
def quotaOfParams (r : JRec) : Quota :=
  { contexts := r.par 1 1, tileMin := r.par 2 1, tileMax := r.par 3 1, entries := r.par 4 2, memMib := r.par 8 4,
    buckets := if r.par 12 2 = 0xFFFF ∧ r.par 14 2 = 0xFFFF then none else some (r.par 12 2, r.par 14 2), given := true }

/-- The checks of SLICE_QUOTA on its fields. -/
def sliceQuotaFields (r : JRec) (_ : State) : Nat :=
  let d := quotaOfParams r
  let b : Bool := match d.buckets with | none => true | some (lo, hi) => decide (lo ≤ hi ∧ hi ≤ 4095)
  if r.params.length = 32 ∧ r.par 0 1 < 64 ∧ d.contexts ≤ 64 ∧ d.tileMin ≤ 160 ∧ d.tileMin ≤ d.tileMax ∧ d.tileMax ≤ 160 ∧
     d.entries ≤ 16384 ∧ r.zeros 6 2 ∧ r.zeros 16 16 ∧ b then stOk else stInvalid

/-- The sum of a quota over the slices other than one. -/
def quotaSum (s : State) (but : Nat) (f : Quota → Nat) : Nat :=
  ((s.slc.quotas.filter fun e => e.1 != but).map fun e => f e.2).foldl (· + ·) 0

/-- Two bucket ranges meet. -/
def bucketsMeet : Option (Nat × Nat) → Option (Nat × Nat) → Bool
  | some (a, b), some (c, d) => decide (a ≤ d ∧ c ≤ b)
  | _, _ => false

/-- A bucket lies in a range. -/
def inBuckets (o : Option (Nat × Nat)) (b : Nat) : Bool := match o with | some (lo, hi) => decide (lo ≤ b ∧ b ≤ hi) | none => false

/-- Contexts that a slice holds: those in any state other than FREE. -/
def ctxCount (s : State) (slice : Nat) : Nat := (s.slc.ctxs.filter fun c => c.2.state != 0 && c.2.slice == slice).length

/-- The checks of SLICE_QUOTA on the state, before its seam. -/
def sliceQuotaState (r : JRec) (s : State) : Nat :=
  let d := quotaOfParams r
  let slice := r.par 0 1
  if 160 < quotaSum s slice (·.tileMin) + d.tileMin ∨ 16384 < quotaSum s slice (·.entries) + d.entries ∨
     s.slc.quotas.any (fun e => e.1 != slice && bucketsMeet e.2.buckets d.buckets) then stInvalid
  else if (liveOf s slice).any (fun e => !inBuckets d.buckets e.2.bucket) ∨ d.contexts < ctxCount s slice then stBusy
  else if firstQuotaKeys s slice ∧ s.sec.noRandom then stDeviceFault
  else stOk

/-- SLICE_QUOTA at its seam; with ENC_REQUIRED the SP enables encryption at a slice's first one (21 R472). -/
def sliceQuotaApply (r : JRec) (s : State) : State :=
  let s1 := if firstQuotaKeys s (r.par 0 1) then drawKeys s (r.par 0 1) else s
  { s1 with slc := { s1.slc with quotas := NMap.insert s1.slc.quotas (r.par 0 1) (quotaOfParams r) } }

/-- SLICE_QUOTA (opcode 0x0501). -/
def execSliceQuota (q seq : Nat) (s : State) : Out := .next (withSeamCmd s q seq 0x0501 sliceQuotaFields)

/-! ### Shares (R382, R383) -/

/-- The share of a slice on a tile in the current tick. -/
def shareOf (s : State) (t slice : Nat) : Nat :=
  match currentPlan s with | some p => NMap.getD p.shares (64 * t + slice) 0 | none => 0

/-- The remaining share: the share less the carried debt and the beats used. -/
def shareLeft (s : State) (t slice : Nat) : Nat :=
  shareOf s t slice - NMap.getD s.slc.debt (64 * t + slice) 0 - NMap.getD s.slc.used (64 * t + slice) 0

/-- The debt carried into the next tick: beats used beyond the share, and at most 64 (R383). -/
def nextDebt (s : State) (k : Nat) : Nat :=
  min 64 (NMap.getD s.slc.debt k 0 + NMap.getD s.slc.used k 0 - shareOf s (k / 64) (k % 64))

/-- At a seam the debts are carried and the counts of used beats start again; the tick's plan is that of the tick that
ends. -/
def debtSeam (s : State) : State :=
  let keys := (s.slc.used.map (·.1)).foldl addSet (s.slc.debt.map (·.1))
  { s with slc := { s.slc with debt := (keys.map fun k => (k, nextDebt s k)).filter (fun e => e.2 ≠ 0), used := [] } }

/-! ### Slowdown (R396) -/

/-- A per-mille quotient: 0 when run is 0, saturating at 0xFFFF. -/
def perMille (n run : Nat) : Nat := if run = 0 then 0 else min 0xFFFF (1000 * n / run)

/-- SLOWDOWN and RADIO of a slice over the window: those of the die with the highest SLOWDOWN, the lowest die on a tie. -/
def worstDie (s : State) (slice : Nat) : Nat × Nat :=
  let f := fun d => let w := NMap.getD s.slc.win (4 * slice + d) {}; (perMille w.off w.run, perMille w.radio w.run)
  (List.range 4).foldl (fun m d => if m.1 < (f d).1 then f d else m) (f 0)

/-- SLOWDOWN_WINDOW: at the end of each window of 8,000 ticks, once for it, the measures of every slice are computed, and the counts
start again. -/
def execSlowdownWindow (s : State) : Out :=
  if windowsEnded s ≤ s.slc.winNo then .next s
  else .next { s with slc := { s.slc with slow := (List.range 64).map fun x => (x, worstDie s x), win := [], winNo := windowsEnded s } }

end Sys2Proof.Machine
end

