-- ==== Sys2Proof/Machine/Attn.lean ====
section
/-!
DEFINITION. The commands of fused attention: ATTN, the enqueueing of a key-block job, ATTN_MERGE (09 R183 to R187, R194,
R201, R203).
-/
namespace Sys2Proof.Machine

/-! ### Checks (R184 to R189) -/

/-- A 64-byte-aligned local address with a range that exists. -/
def tensorOk (s : State) (a n : Nat) : Bool := a % 64 == 0 && decide (a < 2 ^ 40) && usableRange s a n

/-- The descriptor of ATTN lies within its ranges. -/
def attnDescOk (s : State) (r : JRec) : Bool :=
  let f := r.par 6 2
  let d := r.par 12 2
  let anchor := fun (off : Nat) => (BitVec.ofNat 16 (r.par off 2)).toInt
  r.params.length == 128 && r.par 0 4 == 0x4E545441 && decide (f < 32) && decide (r.par 8 1 ≤ 3) && decide (r.par 9 1 ≤ 1) &&
  r.zeros 11 1 && r.zeros 42 6 && r.zeros 88 40 && (d == 64 || d == 128 || d == 256) &&
  decide (1 ≤ r.par 14 1 ∧ r.par 14 1 ≤ 128) && decide (1 ≤ r.par 15 1 ∧ r.par 15 1 ≤ r.par 14 1) &&
  r.par 14 1 % r.par 15 1 == 0 && decide (r.par 14 1 / r.par 15 1 ≤ 64) && decide (1 ≤ r.par 16 2 ∧ r.par 16 2 ≤ 1024) &&
  decide (r.par 18 2 < r.par 16 2) && decide (-64 ≤ anchor 24 ∧ anchor 24 ≤ 64) && decide (-64 ≤ anchor 26 ∧ anchor 26 ≤ 64) &&
  (!f.testBit 1 || decide (1 ≤ r.par 28 4 ∧ r.par 28 4 ≤ 65536)) && r.par 32 4 % 64 == 0 && decide (r.par 32 4 < r.par 36 4) &&
  decide (1 ≤ r.par 40 2 ∧ r.par 40 2 ≤ 16384) && tensorOk s (r.par 48 8) (32 * r.par 40 2) && tensorOk s (r.par 56 8) 2 &&
  tensorOk s (r.par 64 8) 2 && (!f.testBit 3 || tensorOk s (r.par 72 8) 4) &&
  (!f.testBit 2 || (r.par 80 8 % 4 == 0 && decide (r.par 80 8 < 2 ^ 40) && usableRange s (r.par 80 8) 256))

/-- The global offset list: used entries first and strictly ascending, below 2^24; the rest 0xFFFF_FFFF (R189). -/
def globalsOk (xs : List Nat) : Bool :=
  let used := xs.takeWhile (· != 0xFFFFFFFF)
  (xs.drop used.length).all (· == 0xFFFFFFFF) && used.all (fun x => decide (x < 2 ^ 24)) &&
  (List.zipWith (fun (a b : Nat) => decide (a < b)) used (used.drop 1)).all id

/-- The segments of a packed sequence: each number one run, which starts at a multiple of 32 (R188). -/
def segsOk (xs : List Nat) : Bool :=
  let starts := (List.range xs.length).filter fun i => xs.getD i 0 != 0 && (i == 0 || xs.getD (i - 1) 0 != xs.getD i 0)
  starts.all (fun i => i % 32 == 0) && (starts.map fun i => xs.getD i 0).Nodup

/-- Entry i of the sequence table passes R185 and R188. -/
def seqEntryOk (s : State) (b : List Byte) (p : Nat) : Bool :=
  let kv := fieldAt b 12 4
  let packed := fieldAt b 6 2
  decide (1 ≤ fieldAt b 4 2 ∧ fieldAt b 4 2 ≤ 4096) && decide (packed ≤ 1) && decide (fieldAt b 8 4 < 2 ^ 24) && decide (kv < 2 ^ 24) &&
  decide (fieldAt b 8 4 + fieldAt b 4 2 ≤ kv) && decide (fieldAt b 16 8 < 2 ^ 40) && fieldAt b 16 8 % 8 == 0 &&
  usableRange s (fieldAt b 16 8) (8 * ((kv + p - 1) / p)) &&
  (if packed = 1 then fieldAt b 24 8 % 2 == 0 && decide (fieldAt b 24 8 < 2 ^ 40) && usableRange s (fieldAt b 24 8) (2 * kv)
   else fieldAt b 24 8 == 0)

/-- The page identifiers of a sequence, as its page list holds them. -/
def pageIds (s : State) (b : List Byte) (p : Nat) : List Nat :=
  (List.range ((fieldAt b 12 4 + p - 1) / p)).map fun k => devNat s (fieldAt b 16 8 + 8 * k) 3

/-- The lists of a sequence in device memory: its page list, and its segment numbers if it is packed. -/
def seqLists (b : List Byte) (p : Nat) : List (Nat × Nat) :=
  (fieldAt b 16 8, 8 * ((fieldAt b 12 4 + p - 1) / p)) :: (if fieldAt b 6 2 = 1 then [(fieldAt b 24 8, 2 * fieldAt b 12 4)] else [])

/-- A list of a sequence reads uncorrected. -/
def listsBad (s : State) (b : List Byte) (p : Nat) : Bool := (seqLists b p).any fun a => badRange s a.1 a.2

/-- Every entry of a page list is in its format and names a granted frame by the GEN of its grant (10 R208, log 64); a retired
frame fails its sequence later, as does a list that cannot be read. -/
def pagesNamed (s : State) (b : List Byte) (pool p : Nat) : Bool :=
  listsBad s b p || (List.range ((fieldAt b 12 4 + p - 1) / p)).all fun k =>
    let e := devNat s (fieldAt b 16 8 + 8 * k) 8
    decide (e / 2 ^ 24 % 256 = 0) && (match frameAt s pool (e % 2 ^ 24) with
      | some f => f.retired || (decide (f.state ≠ 0) && f.gen == e / 2 ^ 32)
      | none => false)

/-- A sequence as the command reads it at its start. -/
def readSeq (s : State) (b : List Byte) (pool p : Nat) : AttnSeq :=
  { qRow := fieldAt b 0 4, qTok := fieldAt b 4 2, qPos := fieldAt b 8 4, kvLen := fieldAt b 12 4,
    segs := if fieldAt b 6 2 = 1 ∧ !listsBad s b p then (List.range (fieldAt b 12 4)).map fun i => devNat s (fieldAt b 24 8 + 2 * i) 2 else [],
    locs := (pageIds s b p).map fun id => match frameAt s pool id with | some f => f.loc | none => 0,
    status := if listsBad s b p then stDeviceFault else stOk }

/-- The page indices that a sequence's jobs read. -/
def pagesRead (a : AttnCmd) (x : AttnSeq) : List Nat :=
  let blocks := ((List.range ((x.qTok + a.t - 1) / a.t)).map (blocksOf a x)).flatten.foldl addSet []
  ((blocks.map fun b => ((List.range 64).filter fun j => posRead a x (64 * b + j)).map fun j => (64 * b + j) / a.p).flatten).foldl addSet []

/-- The status with which a sequence starts, by the frames that it reads (R204, 08 R506). -/
def seqStart (s : State) (a : AttnCmd) (x : AttnSeq) (ids : List Nat) : Nat :=
  let fs := (pagesRead a x).map fun k => frameAt s (a.fld 10 1) (ids.getD k 0)
  if fs.any (fun o => match o with | some f => f.tier == 3 || f.state == 2 | none => false) then stBusy
  else if fs.any (fun o => match o with | some f => f.retired | none => true) then stDeviceFault
  else if (pagesRead a x).any (fun k => match frameAt s (a.fld 10 1) (ids.getD k 0) with
      | some f => decide (65535 < f.refs + ((pagesRead a x).filter fun j => ids.getD j 0 == ids.getD k 0).length)
      | none => false) then stNoResource
  else stOk

/-- The dies that hold open tiles of a slice; all four when it has a share on none. -/
def diesOf (s : State) (slice : Nat) : List Nat :=
  let ds := (List.range 4).filter fun d => (List.range 40).any fun i =>
    !isFloor s (40 * d + i) && decide (0 < shareOf s (40 * d + i) slice)
  if ds.isEmpty then List.range 4 else ds

/-- The chains of a command: by sequence, KV head and query block, placed round robin over the dies (R191, R203). -/
def chainsOf (s : State) (a : AttnCmd) : List Chain :=
  let ds := diesOf s a.slice
  let raw := ((List.zip (List.range a.seqs.length) a.seqs).map fun (e : Nat × AttnSeq) =>
    if e.2.status = stOk then
      ((List.range a.kvHeads).map fun u => (List.range ((e.2.qTok + a.t - 1) / a.t)).map fun b => (e.1, u, b, blocksOf a e.2 b)).flatten
    else []).flatten
  List.zipWith (fun i (c : Nat × Nat × Nat × List Nat) => Chain.mk i c.1 c.2.1 c.2.2.1 (ds.getD (i % ds.length) 0) c.2.2.2 false [] 0 [] [] [] [])
    (List.range raw.length) raw

/-- Pins a frame for the command: once for each page of each sequence that names it (R194; log 107). -/
def pinFrame (s : State) (a : AttnCmd) (id : Nat) : State :=
  match frameAt s (a.fld 10 1) id with
  | some f => modAttn (setFrame s (a.fld 10 1) id { f with refs := f.refs + 1 }) { a with pins := a.pins ++ [(a.fld 10 1, id)] }
  | none => s

/-- The frames that a sequence reads and whose entry line is bad are retired (08 R506). -/
def retireBad (s : State) (a : AttnCmd) (x : AttnSeq) (ids : List Nat) : State :=
  (((pagesRead a x).map fun k => ids.getD k 0).filter fun id =>
    frameBad s (a.fld 10 1) id && (match frameAt s (a.fld 10 1) id with | some f => !f.retired | none => false)).foldl
    (fun y id => retireFrame y (a.fld 10 1) id) s

/-- Starts a sequence: its status, and pins on the frames that it reads, if it is OK; a frame that several sequences or pages name is pinned
once for each (DESIGN CHOICE, log 107). -/
def startSeq (s0 : State) (q seq i : Nat) (ids : List Nat) : State :=
  match findAttn s0 q seq with
  | none => s0
  | some a =>
    match a.seqs[i]? with
    | none => s0
    | some x =>
      let s := if x.status = stOk then retireBad s0 a x ids else s0
      let st := if x.status = stOk then seqStart s a x ids else x.status
      let lists := seqLists (devRead s (a.fld 48 8 + 32 * i) 32) a.p
      let s1 := modAttn (lists.foldl (fun y l => recordUncorrected y l.1 l.2) s) { a with seqs := a.seqs.set i { x with status := st } }
      if st = stOk then
        (pagesRead a x).foldl (fun y k => match findAttn y q seq with | some b => pinFrame y b (ids.getD k 0) | none => y) s1
      else s1

/-- An ATTN starts in a serving context: the checks of its descriptor, the pins and the chains; chains without a block end at once. A
sequence table or a global offset list that reads uncorrected ends the command with DEVICE_FAULT (log 107). -/
def attnStart (s : State) (r : JRec) (c : Nat) : State :=
  let q := r.q
  let seq := r.seq
  if r.params.length = 128 ∧ r.par 0 4 = 0x4E545441 ∧ r.par 4 2 ≠ 1 then attnRefuse s q seq stVersion
  else if !attnDescOk s r ∨ !poolActive s (r.par 10 1) then attnRefuse s q seq stInvalid
  else
    let p := match poolAt s (r.par 10 1) with | some x => x.p | none => 16
    let n := r.par 40 2
    let table := (List.range n).map fun i => devRead s (r.par 48 8 + 32 * i) 32
    let globals := if (r.par 6 2).testBit 2 then (List.range 64).map fun i => devNat s (r.par 80 8 + 4 * i) 4 else []
    if badRange s (r.par 48 8) (32 * n) then attnRefuse (recordUncorrected s (r.par 48 8) (32 * n)) q seq stDeviceFault
    else if (r.par 6 2).testBit 2 ∧ badRange s (r.par 80 8) 256 then attnRefuse (recordUncorrected s (r.par 80 8) 256) q seq stDeviceFault
    else if !globalsOk globals ∨ !table.all (seqEntryOk s · p) ∨ !table.all (pagesNamed s · (r.par 10 1) p) then attnRefuse s q seq stInvalid
    else
      let seqs := table.map fun b => readSeq s b (r.par 10 1) p
      if !seqs.all (fun x => segsOk x.segs) then attnRefuse s q seq stInvalid
      else
        let a : AttnCmd := { q := q, seq := seq, slice := (ctxAt s c).slice, desc := r.params, p := p,
                             globals := globals.takeWhile (· != 0xFFFFFFFF), seqs := seqs, chains := [], sat := false,
                             poison := false, lowband := false, rowsDone := 0, jobs := 0, pins := [] }
        let s1 := (List.range n).foldl (fun y i => startSeq y q seq i (pageIds y (table.getD i []) p)) { s with attn := s.attn ++ [a] }
        match findAttn s1 q seq with
        | none => s1
        | some b => attnSettle (endEmpty (modAttn s1 { b with chains := chainsOf s1 b }) q seq) q seq

/-- The ATTN that the serving engine issues for the step of a pair: its descriptor stands where a command's parameters do (R183). -/
def stepAttn (key layer : Nat) (desc : List Byte) : JRec :=
  { q := stepQ key, seq := layer, opcode := 0x0210, flags := 0, params := desc, resultPtr := 0, tickArg := none, pasid := none, stage := 2,
    status := 0, value := 0, order := 0, tick := 0, beat := 0, doneAt := none, mirAt := 0, mirLeft := 0 }

/-- The serving engine issues the next ATTN of a running step, once those before it have ended. -/
def issueStepAttn (s : State) (key layer : Nat) : State :=
  match NMap.find? s.srv.steps key, servingCtx s (key / 256) with
  | some run, some c =>
    match run.descs[layer]? with
    | some d => if run.ended.length = layer ∧ (findAttn s (stepQ key) layer).isNone then attnStart s (stepAttn key layer d) c else s
    | none => s
  | _, _ => s

/-- ATTN (opcode 0x0210): a command of a queue, or, with a queue number that stands for a step, the ATTN that the serving engine issues
for it (log 99). -/
def execAttn (q seq : Nat) (s : State) : Out :=
  if stepQ 0 ≤ q then .next (issueStepAttn s (q - stepQ 0) seq)
  else
    .next (withCmd s q seq 0x0210 fun r s =>
      match (sliceOfRec s r).bind (servingCtx s) with
      | none => finish s q seq stNoResource 0
      | some c => attnStart s r c)

/-- ATTN_BLOCK_ENQUEUE: once the block is staged and the one before it is folded, its job joins the queue of its chain's
die, with the kernel that firmware names of the attention image set (R203). -/
def execAttnBlockEnqueue (q seq chain kernel length argsPtr donePtr : Nat) (s : State) : Out :=
  match findAttn s q seq with
  | none => .next s
  | some a =>
    match a.chains.find? fun h => h.num == chain with
    | none => .next s
    | some h =>
      let queue := NMap.getD s.dies.queues h.die []
      match imageAt s h.die kernel, servingCtx s a.slice with
      | some i, some c =>
        if s.dies.attnSet.contains kernel ∧ chainStaged a h ∧ !h.running ∧ length ≤ 64 ∧ i.length = length ∧ queue.length < 1024 then
          let n := NMap.getD s.dies.enqSeq h.die 0
          let j : StealJob := { kernel := kernel, slice := a.slice, length := length, context := c, argsPtr := argsPtr, seq := n,
                                donePtr := donePtr, attn := some (q, seq, chain) }
          let s1 : State := { s with dies := { s.dies with queues := NMap.insert s.dies.queues h.die (queue ++ [j]),
                                                           enqSeq := NMap.insert s.dies.enqSeq h.die ((n + 1) % 2 ^ 64) } }
          .next (modAttn s1 { a with chains := a.chains.map fun x => if x.num = chain then { x with running := true } else x })
        else .next s
      | _, _ => .next s

/-- The descriptor of ATTN_MERGE lies within its ranges (R201). -/
def mergeDescOk (s : State) (r : JRec) : Bool :=
  let f := r.par 6 2
  let d := r.par 10 2
  r.params.length == 64 && r.par 0 4 == 0x47524D41 && decide (f / 32 = 0 ∧ f % 8 = 0) && decide (2 ≤ r.par 8 2 ∧ r.par 8 2 ≤ 64) &&
  (d == 64 || d == 128 || d == 256) && decide (r.par 12 1 ≤ 1) && r.zeros 13 3 && r.zeros 20 4 && r.zeros 48 16 &&
  decide (1 ≤ r.par 16 4 ∧ r.par 16 4 ≤ 1048576) && decide (r.par 24 8 < 2 ^ 40) && usableRange s (r.par 24 8) (16 * r.par 8 2) && tensorOk s (r.par 32 8) 2 &&
  (!f.testBit 3 || tensorOk s (r.par 40 8) 4)

/-- The table of parts: address, KEY_LO, KEY_HI. -/
def mergeParts (s : State) (r : JRec) : List (Nat × Nat × Nat) :=
  (List.range (r.par 8 2)).map fun k =>
    (devNat s (r.par 24 8 + 16 * k) 8, devNat s (r.par 24 8 + 16 * k + 8) 4, devNat s (r.par 24 8 + 16 * k + 12) 4)

/-- The fabric address of a part: a local device physical address stands for this device's window. -/
def partAddr (s : State) (a : Nat) : Nat := if a < 2 ^ 40 then 2 ^ 40 * s.fab.device + a else a

/-- ATTN_MERGE (opcode 0x0211): the parts on this device are folded at once; those on other devices are loaded first. -/
def execAttnMerge (q seq : Nat) (s : State) : Out :=
  .next (withCmd s q seq 0x0211 fun r s =>
    match (sliceOfRec s r).bind (servingCtx s) with
    | none => finish s q seq stNoResource 0
    | some ctx =>
      if r.params.length = 64 ∧ r.par 0 4 = 0x47524D41 ∧ r.par 4 2 ≠ 1 then finish s q seq stVersion 0
      else if !mergeDescOk s r then finish s q seq stInvalid 0
      else if badRange s (r.par 24 8) (16 * r.par 8 2) then finish (recordUncorrected s (r.par 24 8) (16 * r.par 8 2)) q seq stDeviceFault 0
      else
        let parts := (mergeParts s r).map fun p => (partAddr s p.1, p.2)
        let ok := (List.zipWith (fun (x y : Nat × Nat × Nat) => x.2.2 == y.2.1) parts (parts.drop 1)).all id
        let total := mergeBytes r.params
        let fits := parts.all fun p => decide (p.1 < 2 ^ 48) && (p.1 / 2 ^ 40 != s.fab.device || usableRange s (p.1 % 2 ^ 40) total)
        if !ok ∨ !fits then finish s q seq stInvalid 0
        else
          let remote := ((List.zip (List.range parts.length) parts).filter fun e => e.2.1 / 2 ^ 40 != s.fab.device).map fun e =>
            (List.range ((total + 4095) / 4096)).map fun i => (2 ^ 32 * e.1 + 4096 * i, e.2.1 + 4096 * i, min 4096 (total - 4096 * i))
          let pieces := remote.flatten
          let out := pieces.filter fun (p : Nat × Nat × Nat) => !inPartition s (p.2.1 / 2 ^ 40)
          let c : MergeCmd := { q := q, seq := seq, desc := r.params, parts := parts, left := pieces.map (·.1), got := [],
                                fails := out.foldl (fun m p => NMap.insert m (p.1 / 2 ^ 32) stDenied) [] }
          if pieces.isEmpty ∨ !out.isEmpty then mergeDone s c
          else pieces.foldl (fun y p => issueReq y (p.2.1 / 2 ^ 40) (reqPacket 0x10 p.2.1 p.2.2 (sliceTag s (some (ctxAt s ctx).slice)) false [])
                 (some (mergeTag + q, p.1, seq))) { s with merges := s.merges ++ [c] })

end Sys2Proof.Machine
end

