-- ==== Sys2Proof/Machine/Sampler.lean ====
section
/-!
DEFINITION. The sampler (10 R227, R228), the grammar automaton (R229 to R231) and the tokens that a row accepts (R219, R222).
-/
namespace Sys2Proof.Machine

/-! ### Grammars (R229 to R231) -/

/-- A state's bitmap allows a token. -/
def maskBit (s : State) (g : Grammar) (mask t : Nat) : Bool :=
  (Memory.read s.mem.dev (g.maskTab + mask * ((g.vocab + 511) / 512 * 64) + t / 8)).getLsbD (t % 8)

/-- The fields of a state entry: MASK, FLAGS, TRANS_OFF, TRANS_N, DEFAULT. -/
def gState (s : State) (g : Grammar) (st : Nat) : Nat × Nat × Nat × Nat × Nat :=
  let b := devRead s (g.stateTab + 16 * st) 16
  (fieldAt b 0 2, fieldAt b 2 2, fieldAt b 4 4, fieldAt b 8 4, fieldAt b 12 4)

/-- A transition entry: 64 bits. -/
def gTrans (s : State) (g : Grammar) (i : Nat) : Nat := devNat s (g.transTab + 8 * i) 8

/-- Where a request's automaton stands: state and stack, top first; none without a grammar. -/
structure GPos where
  state : Nat
  stack : List Nat
  dead  : Bool
  deep  : Bool                 -- a push has found GSP = 64
deriving DecidableEq, Repr

/-- The entry for a token: the state's own, or its default. -/
def gEntry (s : State) (g : Grammar) (st t : Nat) : Option Nat :=
  let e := gState s g st
  match (List.range e.2.2.2.1).find? fun i => gTrans s g (e.2.2.1 + i) % 2 ^ 18 == t with
  | some i => some (gTrans s g (e.2.2.1 + i))
  | none => if e.2.2.2.2 = 0xFFFFFFFF then none else some (gTrans s g e.2.2.2.2)

/-- A state is dead of itself: flagged, or its bitmap allows no token. -/
def gDead (s : State) (g : Grammar) (st : Nat) : Bool :=
  let e := gState s g st
  e.2.1 % 2 == 1 || (List.range g.vocab).all fun t => !maskBit s g e.1 t

/-- The automaton after an accepted token (R230). -/
def gStep (s : State) (g : Grammar) (p : GPos) (t : Nat) : GPos :=
  match gEntry s g p.state t with
  | none => { p with dead := true }
  | some e =>
    let act := bitsOf e 19 18
    let next := bitsOf e 39 24
    if act = 1 then
      if 64 ≤ p.stack.length then { p with deep := true }
      else { p with state := next, stack := bitsOf e 55 40 :: p.stack, dead := gDead s g next }
    else if act = 2 then
      match p.stack with
      | [] => { p with dead := true }
      | x :: xs => { p with state := x, stack := xs, dead := gDead s g x }
    else { p with state := next, dead := gDead s g next }

/-- The grammar of a request. -/
def reqGrammar (s : State) (r : Req) : Option Grammar := if r.grammar = 0xFFFF then none else NMap.find? s.srv.grammars r.grammar

/-! ### The sampler (R227, R228) -/

/-- Orders candidates by y descending, the lower token first on equal y: the candidates are inserted from the highest token down. -/
def insertCand (c : Nat × W32) : List (Nat × W32) → List (Nat × W32)
  | [] => [c]
  | d :: ds => if fvLt (f32Val c.2) (f32Val d.2) then d :: insertCand c ds else c :: d :: ds

/-- A finite nonnegative binary32 value in units of 2^−149. -/
def units (x : W32) : Nat := match f32Val x with | .fin _ m e => m * 2 ^ (e + 149).toNat | _ => 0

/-- The exact sum of some values, in units of 2^−149. -/
def sumUnits (xs : List W32) : Nat := (xs.map units).foldl (· + ·) 0

/-- The shortest leading run whose exact sum reaches a bound, if one does. -/
def leadingRun (theta : Nat) : Nat → List (Nat × W32) → Option (List (Nat × W32))
  | _, [] => none
  | acc, c :: cs =>
    if theta ≤ acc + units c.2 then some [c] else (leadingRun theta (acc + units c.2) cs).map (c :: ·)

/-- Orders candidates by token. -/
def insertTok (c : Nat × W32) : List (Nat × W32) → List (Nat × W32)
  | [] => [c]
  | d :: ds => if c.1 < d.1 then c :: d :: ds else d :: insertTok c ds

/-- The walk by ascending token: the first with c × 2^24 > U × s. -/
def walk (u s : Nat) : Nat → List (Nat × W32) → Option Nat
  | _, [] => none
  | acc, c :: cs => if u * s < (acc + units c.2) * 2 ^ 24 then some c.1 else walk u s (acc + units c.2) cs

/-- U of the draw for a step counter. -/
def drawU (r : Req) (step : Nat) : Nat :=
  (philox 0 (BitVec.ofNat 32 step) (BitVec.ofNat 32 r.reqId) 0 (r.seed.setWidth 32) ((r.seed >>> (32 : Nat)).setWidth 32)).1.toNat / 256

/-- The sampler on the logits of one query, or none (R228). -/
def sampleTok (allowed : Nat → Bool) (r : Req) (step : Nat) (z : List W32) : Option Nat :=
  let zs := (List.zip (List.range z.length) z).filter fun c =>
    allowed c.1 && (match f32Val c.2 with | .nan => false | .inf n => !n | .fin _ _ _ => true)
  if zs.isEmpty then none
  else if r.temp = 0 then (zs.foldr insertCand []).head?.map (·.1)
  else
    let ys := (zs.map fun c => (c.1, f32Mul c.2 (f32Rcp r.temp))).filter fun c =>
      match f32Val c.2 with | .nan => false | .inf n => !n | .fin _ _ _ => true
    match ys.foldr insertCand [] with
    | [] => none
    | c0 :: rest =>
      if f32Val c0.2 = .inf false then some c0.1
      else
        let c1 := if 0 < r.topK then (c0 :: rest).take r.topK else c0 :: rest
        let es := c1.map fun c => (c.1, f32Exp2 (f32Mul (f32Sub c.2 c0.2) 0x3FB8AA3B))
        let c2 := if fvLt (f32Val r.topP) (.fin false 1 0) then
            let theta := f32Mul r.topP (f32Round false (sumUnits (es.map (·.2))) (-149))
            (leadingRun (units theta) 0 es).getD es
          else es
        let c3 := if fvLt (.fin false 0 0) (f32Val r.minP) then c2.filter fun c => !fvLt (f32Val c.2) (f32Val r.minP) else c2
        walk (drawU r step) (sumUnits (c3.map (·.2))) 0 (c3.foldr insertTok [])

/-! ### The tokens that a row accepts (R219, R222) -/

/-- What a row's queries come to: the accepted tokens, the automaton after them, and the reason of a stop, 0 for none. -/
structure Accepted where
  toks   : List Nat
  gpos   : Option GPos
  reason : Nat
deriving DecidableEq, Repr

/-- The reason for which a request stops at an accepted token (R222): EOS, MAX_NEW, GRAMMAR_EXHAUSTED, GRAMMAR_DEPTH. -/
def stopReason (r : Req) (gen t : Nat) (g : Option GPos) : Nat :=
  if t = r.eos then 1
  else if r.maxNew ≤ gen then 2
  else match g with | some p => if p.deep then 4 else if p.dead then 3 else 0 | none => 0

/-- Samples query after query while each token equals the next draft; the queries carry the logits. -/
def acceptGo (s : State) (r : Req) (gr : Option Grammar) : List (List W32) → List Nat → Option GPos → List Nat → Accepted
  | [], _, g, acc => ⟨acc, g, 0⟩
  | z :: zs, ds, g, acc =>
    let allowed := fun t => match gr, g with
      | some x, some p => decide (t < x.vocab) && maskBit s x (gState s x p.state).1 t
      | _, _ => true
    match sampleTok allowed r (r.step + acc.length) z with
    | none => ⟨acc, g, 10⟩
    | some t =>
      let g1 := match gr, g with | some x, some p => some (gStep s x p t) | _, _ => g
      let acc1 := acc ++ [t]
      let why := stopReason r (r.genLen + acc1.length) t g1
      if why ≠ 0 then ⟨acc1, g1, why⟩
      else
        match ds with
        | d :: ds' => if t = d then acceptGo s r gr zs ds' g1 acc1 else ⟨acc1, g1, 0⟩
        | [] => ⟨acc1, g1, 0⟩

/-- The tokens that a row accepts from its queries' logits and its drafts. -/
def acceptRow (s : State) (r : Req) (logits : List (List W32)) (drafts : List Nat) : Accepted :=
  let gr := reqGrammar s r
  acceptGo s r gr logits drafts (gr.map fun _ => ⟨r.gstate, r.stack, false, false⟩) []

end Sys2Proof.Machine
end

