-- ==== Sys2Proof/Machine/StepOps.lean ====
section
/-!
DEFINITION. Composing and committing a step (10 R212 to R216, R219 to R222), reclaim and return (R217), as operations.
-/
namespace Sys2Proof.Machine

/-! ### Pages of a row (R216) -/

/-- A grant for a page of a request: refused while the slice's memory quota is used (17 R380). -/
def grantFor (s : State) (r : Req) (index : Nat) : State × Option (Nat × Nat) :=
  if 2 ^ 20 * (quotaOf s r.slice).memMib < memCharged s r.slice + pageBytesOf s r.pool then (s, none)
  else grantPage s r.pool index

/-- Puts a page into a request's list at an index, in the entry and in memory. -/
def setPage (s : State) (i index id gen : Nat) : State :=
  let r := reqAt s i
  let pages := if index < r.pages.length then r.pages.set index (id, gen) else r.pages ++ [(id, gen)]
  setReq (putPage s r index id gen) i { r with pages := pages, pageCount := max r.pageCount (index + 1),
                                               dropped := r.dropped.filter (· ≠ index) }

/-- Makes sure that a request can write a page: a page held alone is written in place, a shared one is copied first, a
missing one is granted; a page that is not in a local or remote frame, or that moves, is not at hand. The flag says whether
the page is at hand. -/
def securePage (s : State) (i index : Nat) : State × Bool :=
  let r := reqAt s i
  let held := if r.dropped.contains index then none else r.pages[index]?
  match held with
  | none =>
    let g := grantFor s r index
    match g.2 with
    | some (id, gen) => (setPage g.1 i index id gen, true)
    | none => (g.1, false)
  | some (id, _) =>
    match frameAt s r.pool id with
    | none => (s, false)
    | some f =>
      if f.tier = 3 ∨ f.state ≠ 1 then (s, false)
      else if f.refs ≤ 1 then (s, true)
      else
        let g := grantFor s r index
        match g.2 with
        | none => (g.1, false)
        | some (new, gen) =>
          let s1 := releaseHeld (setPage (copyPage g.1 r.pool f.loc new (pageBytesOf s r.pool)) i index new gen) i r.pool id
          (s1, match frameAt s1 r.pool new with | some h => h.state == 1 | none => false)

/-- Secures pages from an index on, ascending, up to the first that is not at hand: how many are. -/
def securePages (s : State) (i : Nat) : List Nat → State × Nat
  | [] => (s, 0)
  | k :: ks =>
    let r := securePage s i k
    if r.2 then
      let q := securePages r.1 i ks
      (q.1, q.2 + 1)
    else (r.1, 0)

/-! ### Composing (R214) -/

/-- The state in which a request's rows run: PAGE_WAIT stands for the state that RESUME names. -/
def effState (r : Req) : Nat := if r.state = 5 then (if r.resume = 0 then 1 else if r.resume = 1 then 2 else 4) else r.state

/-- RESUME of a state that is left. -/
def resumeOf (r : Req) : Nat := if r.state = 5 ∨ r.state = 6 then r.resume else if r.state = 1 then 0 else if r.state = 2 then 1 else 2

/-- A request goes to PAGE_WAIT, for a grant or for its frames to be resident (`res`). -/
def toWait (s : State) (i : Nat) (res : Bool) : State :=
  let r := reqAt s i
  setReq s i { r with resume := resumeOf r, state := 5, waitRes := res }

/-- The order in which requests are picked: priority descending, then deadline, then REQ_ID ascending. -/
def pickBefore (a b : Req) : Bool :=
  decide (b.prio < a.prio) || (a.prio == b.prio && (decide (a.deadline < b.deadline) || (a.deadline == b.deadline && decide (a.reqId < b.reqId))))

/-- Puts a candidate into its place of an order. -/
def insertBy (lt : Req → Req → Bool) (e : Nat × Req) : List (Nat × Req) → List (Nat × Req)
  | [] => [e]
  | x :: xs => if lt e.2 x.2 then e :: x :: xs else x :: insertBy lt e xs

/-- Some requests in an order. -/
def orderBy (lt : Req → Req → Bool) (es : List (Nat × Req)) : List (Nat × Req) := es.foldr (insertBy lt) []

/-- A step being composed. -/
structure Compose where
  st   : State
  rows : List StepRow
  used : Nat
  seqs : Nat
  pend : NMap Nat
  full : Bool

/-- Every frame of a request is resident and can take a reference (R211). -/
def residentAll (s : State) (r : Req) : Bool :=
  (List.zip (List.range r.pages.length) r.pages).all fun x =>
    r.dropped.contains x.1 || (match frameAt s r.pool x.2.1 with | some f => f.tier != 3 && f.state == 1 && decide (f.refs < 65535) | none => false)

/-- A request in PAGE_WAIT whose frames were to be resident leaves it once every one is, as RESUME gives (R211). -/
def wake (s : State) (i : Nat) : State :=
  let r := reqAt s i
  if r.state = 5 ∧ r.waitRes ∧ residentAll s r then setReq s i { r with state := effState r, waitRes := false } else s

/-- Every request that may leave PAGE_WAIT so does. -/
def wakeAll (s : State) : State := (s.srv.reqs.map fun (e : Nat × Req) => e.1).foldl wake s

/-- An uncorrected error in the token log of a request (R211). -/
def logBad (s : State) (r : Req) : Bool := badRange s r.tokenLog (4 * (r.promptLen + r.genLen))

/-- Adds a request's row to the step (R214, R216). -/
def pickOne (cfg : StepCfg) (drafts : List (Nat × List Token)) (c : Compose) (i : Nat) : Compose :=
  let s := c.st
  let r := reqAt s i
  let p := pageP s r
  let eff := effState r
  if c.full ∨ cfg.maxSeqs ≤ c.seqs then { c with full := true }
  else if (NMap.getD s.srv.buckets r.bucket {}).level - NMap.getD c.pend r.bucket 0 ≤ 0 then c
  else if !listSound s r ∨ logBad s r then { c with st := endReq (recordUncorrected (recordUncorrected s r.tokenLog (4 * (r.promptLen + r.genLen))) r.pageList (8 * r.pages.length)) i 8 9 }
  else if r.state = 5 ∧ r.waitRes then c
  else if eff ≠ 4 then
    let rest := (if r.recompute then r.commitLen else r.promptLen) - r.prefillPos
    let n0 := min (min cfg.chunk rest) (cfg.maxRows - c.used)
    let n := if n0 < rest then n0 / p * p else n0
    if n = 0 then c
    else
      let first := r.prefillPos / p
      let want := (List.range ((r.prefillPos + n - 1) / p + 1 - first)).map (first + ·)
      let g := securePages s i want
      if g.2 < want.length then { c with st := toWait g.1 i false }
      else
        let x := reqAt g.1 i
        { c with st := setReq g.1 i { x with state := 2 }, used := c.used + n, seqs := c.seqs + 1,
                 pend := NMap.modify c.pend 0 r.bucket (· + n),
                 rows := c.rows ++ [⟨i, r.entryGen, true, n, r.prefillPos, [], r.prefillPos + n⟩] }
  else if cfg.maxRows < c.used + 1 then c
  else
    let offered := match drafts.find? fun d => d.1 == i with | some d => d.2 | none => []
    let d0 := offered.take (min r.draftMax (cfg.maxRows - c.used - 1))
    let first := r.commitLen / p
    let want := (List.range ((r.commitLen + d0.length) / p + 1 - first)).map (first + ·)
    let g := securePages s i want
    if g.2 = 0 then { c with st := toWait g.1 i false }
    else
      let fit := (first + g.2) * p - r.commitLen - 1
      let ds := d0.take fit
      let x := reqAt g.1 i
      { c with st := setReq g.1 i { x with state := 4 }, used := c.used + 1 + ds.length, seqs := c.seqs + 1,
               rows := c.rows ++ [⟨i, r.entryGen, false, 1 + ds.length, r.commitLen, ds, r.commitLen + 1 + ds.length⟩] }

/-- The requests of a pair that may be picked. -/
def candidates (s : State) (slice pool : Nat) : List (Nat × Req) :=
  orderBy pickBefore (s.srv.reqs.filter fun e => e.2.slice == slice && e.2.pool == pool && [1, 2, 4, 5].contains e.2.state)

/-! ### Committing (R212, R219 to R222) -/

/-- The row of a request in a running step. -/
def inStep (s : State) (i : Nat) : Bool := s.srv.steps.any fun e => e.2.rows.any fun r => r.idx == i && r.gen == (reqAt s i).entryGen

/-- Releases the pages at or beyond COMMIT_LEN + 1 and sets SPEC_LEN from the written end (R220). -/
def trimPages (s : State) (i e : Nat) : State :=
  let r := reqAt s i
  let p := pageP s r
  let keep := min r.pages.length ((r.commitLen + p) / p)
  let s1 := releasePages s i r keep
  setReq s1 i { r with pages := r.pages.take keep, pageCount := keep, dropped := r.dropped.filter (· < keep),
                       specLen := min e (keep * p) - r.commitLen }

/-- Charges tokens to a bucket (R215). -/
def chargeBucket (s : State) (b n : Nat) : State :=
  { s with srv := { s.srv with buckets := NMap.modify s.srv.buckets {} b fun x => { x with level := x.level - n } } }

/-- Appends accepted tokens to the token log; the flag says whether every write was performed (R208). -/
def appendLog (s : State) (r : Req) (toks : List Nat) : State × Bool :=
  devWrite s (r.tokenLog + 4 * (r.promptLen + r.genLen)) ((toks.map fun t => leBytes 4 t).flatten)

/-- Accepts tokens: the log, GEN_LEN, STEP and the automaton. -/
def acceptToks (s : State) (i : Nat) (a : Accepted) : State × Bool :=
  let r := reqAt s i
  let w := appendLog s r a.toks
  let x := reqAt w.1 i
  let g := match a.gpos with | some p => (p.state, p.stack) | none => (x.gstate, x.stack)
  (setReq w.1 i { x with genLen := x.genLen + a.toks.length, step := (x.step + a.toks.length) % 2 ^ 32, gstate := g.1,
                         stack := g.2, gsp := g.2.length }, w.2)

/-- Inserts the keys of the full prompt pages whose last position a chunk has written (11 R244). -/
def insertChunk (s : State) (i pos n : Nat) : State :=
  let r := reqAt s i
  let p := pageP s r
  let keys := promptKeys s r
  ((List.range keys.length).filter fun k => decide (pos < (k + 1) * p ∧ (k + 1) * p ≤ pos + n)).foldl (fun y k =>
    match r.pages[k]? with
    | some (id, _) => pfxInsert y r.pool (k + 1) (keys.getD k []) id (some r.slice) false
    | none => y) s

/-- What a role lets become of a request whose prompt and first token are there: MOVING on a PROMPT slice, else DECODE. -/
def afterPrompt (s : State) (i : Nat) : State :=
  let r := reqAt s i
  if (roleOf s r.slice).role = 0 then startMove s i else setReq s i { r with state := 4 }

/-- A request whose PREFILL_POS has reached COMMIT_LEN under RECOMPUTE: RECOMPUTE is cleared and it returns to DECODE. One that has not ended
its prompt, and one that waits for the retry of its move on a PROMPT slice, go on in PREFILL (R211; log 97). -/
def rebuilt (s : State) (r : Req) : Req :=
  let stays := decide (r.commitLen < r.promptLen ∨ (roleOf s r.slice).role = 0)
  { r with recompute := false, state := if stays then 2 else 4 }

/-- Commits a prompt chunk (R211, R215, R222). -/
def commitChunk (s : State) (row : StepRow) (logits : List (List W32)) : State :=
  let i := row.idx
  let r0 := reqAt s i
  let s1 := chargeBucket s r0.bucket row.n
  let pos := row.pos + row.n
  let r : Req := { r0 with prefillPos := pos, commitLen := if r0.recompute then r0.commitLen else pos }
  let s2 := insertChunk (setReq s1 i r) i row.pos row.n
  if r0.recompute then
    let s3 := trimPages s2 i row.kvLen
    if r0.commitLen ≤ pos then setReq s3 i (rebuilt s (reqAt s3 i)) else s3
  else if pos < r0.promptLen then trimPages s2 i row.kvLen
  else
    let a := acceptRow s2 (reqAt s2 i) (logits.take 1) []
    let w := acceptToks s2 i a
    let s3 := trimPages w.1 i row.kvLen
    if !w.2 then endReq s3 i 8 9
    else if a.reason ≠ 0 then endReq s3 i 7 a.reason
    else afterPrompt s3 i

/-- Commits a decode row (R219 to R222). -/
def commitDecode (s : State) (row : StepRow) (logits : List (List W32)) : State :=
  let i := row.idx
  let r := reqAt s i
  let a := acceptRow s r (logits.take row.n) (row.drafts.map (·.toNat))
  let w := acceptToks (chargeBucket s r.bucket a.toks.length) i a
  let x := reqAt w.1 i
  let s1 := trimPages (setReq w.1 i { x with commitLen := x.commitLen + a.toks.length }) i row.kvLen
  if !w.2 then endReq s1 i 8 9
  else if a.reason ≠ 0 then endReq s1 i 7 a.reason
  else s1

/-- A request rebuilds from a page on (R211): the event RECOMPUTE. With the page at or beyond COMMIT_LEN nothing is left to rebuild. -/
def startRecompute (s : State) (i pos : Nat) : State :=
  let r := reqAt s i
  let at_ := pos / pageP s r * pageP s r
  let x : Req := if at_ < r.commitLen then { r with state := 2, recompute := true, prefillPos := at_ } else rebuilt s { r with prefillPos := r.commitLen }
  recordEvent (setReq s i x) 0x3003 3 []

/-- The first page of a request that holds poison: its first position; COMMIT_LEN where there is none. -/
def poisonPos (s : State) (r : Req) : Nat :=
  let bad := fun (x : Nat × Nat × Nat) => match frameAt s r.pool x.2.1 with
    | some f => pageBad s f (pageBytesOf s r.pool)
    | none => false
  match (List.zip (List.range r.pages.length) r.pages).find? bad with
  | some x => x.1 * pageP s r
  | none => r.commitLen

/-- A page that a request holds stands in a retired frame, of which no share is given (R211, 08 R506). -/
def heldRetired (s : State) (r : Req) : Bool :=
  (List.zip (List.range r.pages.length) r.pages).any fun x =>
    !r.dropped.contains x.1 && (match frameAt s r.pool x.2.1 with | some f => f.retired | none => false)

/-- SEQ_STATUS of a row of a step: that of the first ATTN of the step that was not OK (09 R187). -/
def rowStatus (run : StepRun) (k : Nat) : Nat := ((run.ended.map fun sts => sts.getD k stOk).find? (· ≠ stOk)).getD stOk

/-- Commits row `k` of a step: an abort or an ended request discards its results (R212). -/
def commitRow (run : StepRun) (results : List RowResult) (s : State) (k : Nat) : State :=
  match run.rows[k]? with
  | none => s
  | some row =>
    let r := reqAt s row.idx
    let st := rowStatus run k
    if r.entryGen ≠ row.gen ∨ !(r.state == 2 || r.state == 4) then s
    else if r.abortAsk.isSome then s
    else if st = stBusy ∨ st = stNoResource then toWait s row.idx true
    else if st = stDeviceFault then if heldRetired s r then endReq s row.idx 8 9 else startRecompute s row.idx (poisonPos s r)
    else if st ≠ stOk then s
    else
      match results.find? fun x => x.idx == row.idx with
      | none => s
      | some x => if row.prefill then commitChunk s row x.logits else commitDecode s row x.logits

/-! ### What waits for the boundary (R212) -/

/-- A command that names a request by its handle in its first four parameter bytes; a slice queue reaches only requests of
its own slice. -/
def withReq (s : State) (r : JRec) (f : Nat → Req → State) : State :=
  let i := r.par 0 2
  let x := reqAt s i
  if r.params.length ≠ 4 ∨ 16383 < i then finish s r.q r.seq stInvalid 0
  else if x.entryGen ≠ r.par 2 2 then finish s r.q r.seq stStale 0
  else if x.state = 0 then finish s r.q r.seq stStale 0
  else if r.pasid.isSome ∧ sliceOfRec s r ≠ some x.slice then finish s r.q r.seq stDenied 0
  else f i x

/-- A REQ_ABORT is applied (R211, R212). -/
def abortNow (s : State) (r : JRec) : State :=
  withReq s r fun i x =>
    if x.state = 7 ∨ x.state = 8 then finish s r.q r.seq stOk (BitVec.ofNat 64 x.state)
    else if x.state = 3 ∨ x.state = 9 then finish s r.q r.seq stBusy 0
    else finish (endReq s i 8 5) r.q r.seq stOk 8

/-- The running step of a pair. -/
def stepOf (s : State) (slice pool : Nat) : Option StepRun := NMap.find? s.srv.steps (256 * slice + pool)

/-- Something waits for the boundary of a pair's running step, behind what came before it. -/
def addWait (s : State) (slice pool : Nat) (b : Boundary) : State :=
  { s with srv := { s.srv with steps := NMap.adjust s.srv.steps (256 * slice + pool) fun x => { x with waits := x.waits ++ [b] } } }

/-- An abort is asked of a request whose row runs: its results are discarded (R212). -/
def askAbort (s : State) (i reason : Nat) : State :=
  let x := reqAt s i
  if inStep s i then setReq s i { x with abortAsk := some (x.abortAsk.getD reason) } else s

/-- The aborts that wait for a boundary, in turn; an admission is the command's own (`take`). -/
def applyWait (take : State → JRec → State) (s : State) : Boundary → State
  | .enter q seq => match findRec s q seq with | some r => if r.stage = 2 then take s r else s | none => s
  | .abort q seq => match findRec s q seq with | some r => if r.stage = 2 then abortNow s r else s | none => s
  | .deadline i gen => if (reqAt s i).entryGen = gen ∧ (reqAt s i).own then endReq s i 8 6 else s

/-! ### Segments and the sequence table (R214, R226, 09 R185) -/

/-- The segments of a step: rows grouped by rising handle and version, without those that have no adapter. -/
def segmentsOf (s : State) (rows : List StepRow) : List Segment :=
  let key := fun (w : StepRow) => let r := reqAt s w.idx; 65536 * r.adapter + r.adapterVer
  let own := rows.filter fun w => (reqAt s w.idx).adapter != 0xFFFF
  ((own.map key).foldl addSet []).map fun k =>
    { handle := k / 65536, version := k % 65536,
      slot := match List.find? (fun (e : Nat × Adapter) => e.2.handle == k / 65536 && e.2.version == k % 65536) s.srv.adapters with
        | some e => e.1
        | none => 256,
      rows := (own.filter fun w => key w == k).map fun w => w.idx }

/-- The sequence table of a step: one entry for each picked request, its rows behind those before it. -/
def seqTable (s : State) : List StepRow → Nat → List Byte
  | [], _ => []
  | w :: rest, row =>
    (leBytes 4 row ++ leBytes 2 w.n ++ leBytes 2 0 ++ leBytes 4 w.pos ++ leBytes 4 w.kvLen ++ leBytes 8 (reqAt s w.idx).pageList ++ leBytes 8 0) ++
    seqTable s rest (row + w.n)

/-- The engine writes the sequence table where a descriptor of the step's program names it, if the program gives it that place in usable
memory and its count (log 99). -/
def placeTable (rows : List StepRow) (s : State) (desc : List Byte) : State :=
  if fieldAt desc 40 2 = rows.length ∧ usableRange s (fieldAt desc 48 8) (32 * rows.length) then
    (devWrite s (fieldAt desc 48 8) (seqTable s rows 0)).1
  else s

/-! ### Reclaim (R217) -/

/-- The indices of a request's pages whose frames only it holds, in local tiers. -/
def privatePages (s : State) (r : Req) : List (Nat × Nat) :=
  ((List.zip (List.range r.pages.length) r.pages).filter fun x =>
    !r.dropped.contains x.1 && (match frameAt s r.pool x.2.1 with | some f => f.refs == 1 && f.state == 1 && decide (f.tier ≤ 1) && !f.retired | none => false)).map
    fun x => (x.1, x.2.1)

/-- Moves one private page of a swap victim out: to remote GDDR7, else to flash, else it is dropped, as is a page whose frame is found
bad (08 R506). -/
def swapPage (s0 : State) (i : Nat) (x : Nat × Nat) : State :=
  let m := moveRead s0 (reqAt s0 i).pool x.2
  let s := m.1
  let r := reqAt s i
  let drop := fun (y : State) => releaseHeld (setReq y i { reqAt y i with dropped := addSet (reqAt y i).dropped x.1 }) i r.pool x.2
  match frameAt s r.pool x.2 with
  | none => s
  | some f =>
    if !m.2 then drop s
    else
      let g := grantTier s r.pool 2
      match g.2 with
      | some new => rehome (copyPage g.1 r.pool f.loc new (pageBytesOf s r.pool)) r.pool x.2 new
      | none =>
        if g.1.fla.state = 0 ∧ quotaOk g.1 r.pool 3 ∧ freeList g.1 r.pool 4 ≠ [] then setFrame g.1 r.pool x.2 { f with state := 2 }
        else drop g.1

/-- A request is swapped out; SWAPS counts it. -/
def swapOut (s : State) (i : Nat) : State :=
  let r := reqAt s i
  let s1 := setReq s i { r with state := 6, resume := resumeOf r, swapAsk := false, coming := false }
  let s0 := (privatePages s1 r).foldl (fun y x => swapPage y i x) s1
  let s2 := setReq s0 i (trimDropped (reqAt s0 i))
  { s2 with srv := { s2.srv with swaps := satAdd 32 s2.srv.swaps 1 } }

/-- A swap victim: at once, or once its row has committed (R217). -/
def chooseVictim (s : State) (i : Nat) : State :=
  if inStep s i then setReq s i { reqAt s i with swapAsk := true } else swapOut s i

/-- The order of victims: lowest priority, latest deadline, higher REQ_ID. -/
def victimBefore (a b : Req) : Bool :=
  decide (a.prio < b.prio) || (a.prio == b.prio && (decide (b.deadline < a.deadline) || (a.deadline == b.deadline && decide (b.reqId < a.reqId))))

/-- Live requests that reclaim or the deadline rule may choose. -/
def victims (s : State) (t : Req → Bool) : List (Nat × Req) :=
  orderBy victimBefore (s.srv.reqs.filter fun e => [1, 2, 4, 5].contains e.2.state && !e.2.swapAsk && e.2.abortAsk.isNone && t e.2)

/-- The index entries of a pool whose frames only the index holds and which lie in local tiers. -/
def idleEntries (s : State) (pool : Nat) : List PfxEntry :=
  s.mov.index.filter fun e => e.pool == pool && indexOnly s e && (match frameAt s pool e.frame with | some f => decide (f.tier ≤ 1) | none => false)

/-- A prefix has a copy elsewhere: on a cache device, or in the flash tier under another entry of its key (R217 step 1). -/
def hasCopy (s : State) (e : PfxEntry) : Bool :=
  e.copied || s.mov.index.any fun x => x.pool == e.pool && x.depth == e.depth && x.key == e.key && x.frame != e.frame &&
    (match frameAt s x.pool x.frame with | some f => f.tier == 3 && !flashAbsent s f | none => false)

/-- A frame that only the index holds is on its way to the flash tier (R217 step 2). -/
def demoting (s : State) (pool : Nat) : Bool :=
  s.mov.index.any fun e => e.pool == pool && refsOne s e && (match frameAt s pool e.frame with | some f => f.state == 2 && decide (f.tier ≤ 1) | none => false)

/-- The entry that step 2 of reclaim takes: the least recently used of those not used for 8,000 ticks. -/
def coldEntry (s : State) (pool : Nat) : Option PfxEntry := oldestOf ((idleEntries s pool).filter fun e => decide (e.useTick + 8000 < s.tkp.now))

/-- Steps 1 and 2 of reclaim, which free frames that only the prefix index holds, one demotion at a time; the flag says whether a step
applied. -/
def reclaimIndex (s : State) (pool : Nat) : State × Bool :=
  match oldestOf ((idleEntries s pool).filter (hasCopy s)) with
  | some e => (pfxRemove s e, true)
  | none =>
    if demoting s pool then (s, true)
    else
    match coldEntry s pool with
    | some e =>
      if s.fla.state = 0 ∧ quotaOk s pool 3 ∧ freeList s pool 4 ≠ [] then
        match frameAt s pool e.frame with
        | some f => (setFrame s pool e.frame { f with state := 2 }, true)
        | none => (s, false)
      else (pfxRemove s e, true)
    | none => (s, false)

/-- One step of reclaim for a pool and a waiter of a priority; the flag says whether a step applied. -/
def reclaimStep (s : State) (pool waiter prio : Nat) : State × Bool :=
  let a := reclaimIndex s pool
  if a.2 then a
  else
      match ((victims s fun r => r.pool == pool && decide (r.prio < prio)).filter fun e =>
          e.1 != waiter && !(privatePages s e.2).isEmpty).head? with
      | some e => (chooseVictim s e.1, true)
      | none => (s, false)

end Sys2Proof.Machine
end

