-- ==== Sys2Proof/Machine/Serving.lean ====
section
/-!
DEFINITION. The serving engine's events and commands (10 R206 to R232).
-/
namespace Sys2Proof.Machine

/-! ### Reclaim, return, deadlines (R217, R218) -/

/-- RECLAIM: one step for a waiter in PAGE_WAIT. A waiter of 16,384 + slice stands for a slice above its memory quota, whose
own requests are swapped without the priority condition (17 R381). -/
def execReclaim (pool waiter : Nat) (s : State) : Out :=
  if 16384 ≤ waiter then
    let slice := waiter - 16384
    if 2 ^ 20 * (quotaOf s slice).memMib < memCharged s slice then
      match ((victims s fun r => r.slice == slice && r.pool == pool).filter fun e => !(privatePages s e.2).isEmpty).head? with
      | some e => .next (chooseVictim s e.1)
      | none => .next s
    else .next s
  else
    let r := reqAt s waiter
    if r.state = 5 ∧ r.pool = pool ∧ poolActive s pool then .next (reclaimStep s pool waiter r.prio).1 else .next s

/-- A private page of a swapped request that is not back: in a remote or flash frame, or moving. Shared frames stay where they are (R217). -/
def pageAway (s : State) (r : Req) (x : Nat × Nat × Nat) : Bool :=
  !r.dropped.contains x.1 && (match frameAt s r.pool x.2.1 with | some f => f.refs == 1 && (decide (2 ≤ f.tier) || f.state != 1) | none => false)

/-- Moves a remote page back into a local frame; a flash page comes back by FLASH_PROMOTE. -/
def returnPage (s0 : State) (pool : Nat) (x : Nat × Nat × Nat) : State :=
  let m := moveRead s0 pool x.2.1
  let s := m.1
  match frameAt s pool x.2.1 with
  | none => s
  | some f =>
    if !m.2 then moveLost s pool x.2.1
    else if f.tier ≠ 2 ∨ f.state ≠ 1 then s
    else
      let g := grantLocal s pool x.1
      match g.2 with
      | some new => rehome (copyPage g.1 pool f.loc new (pageBytesOf s pool)) pool x.2.1 new
      | none => g.1

/-- A swapped request leaves SWAPPED: to PREFILL with RECOMPUTE from the first page that it lacks, or as RESUME gives (R211). -/
def leaveSwap (s : State) (i : Nat) : State :=
  let r := { reqAt s i with coming := false }
  let first := r.dropped.foldl min r.pages.length
  let pos := first * pageP s r
  if pos < r.commitLen ∧ ¬ (r.resume = 1 ∧ r.prefillPos ≤ pos) then setReq s i { r with state := 2, recompute := true, prefillPos := pos }
  else setReq s i { r with state := if r.resume = 0 then 1 else if r.resume = 1 then 2 else 4 }

/-- SWAP_RETURN: the first swapped request in pick order comes back while the pool's free local frames exceed LOW_WATER. -/
def execSwapReturn (pool : Nat) (s : State) : Out :=
  match poolAt s pool, (orderBy pickBefore (s.srv.reqs.filter fun e => e.2.pool == pool && e.2.state == 6)).head? with
  | some p, some e =>
    let pages := List.zip (List.range e.2.pages.length) e.2.pages
    if p.lowWater < freeLocal s pool ∨ e.2.coming then
      let s0 := setReq s e.1 { e.2 with coming := true }
      let s1 := pages.foldl (fun y x => if pageAway y (reqAt y e.1) x then returnPage y pool x else y) s0
      let r := reqAt s1 e.1
      .next (if (List.zip (List.range r.pages.length) r.pages).any (pageAway s1 r) then s1 else leaveSwap s1 e.1)
    else .next s
  | _, _ => .next s

/-- ABORT_GUARD of a request's pair. -/
def guardOf (s : State) (r : Req) : Nat := match NMap.find? s.srv.cfgs (256 * r.slice + r.pool) with | some c => c.abortGuard | none => 80

/-- DEADLINE_RULE at a seam, at most one abort per pool (R218); a request whose abort waits for its commit boundary is live, and is chosen
again without effect. -/
def execDeadlineRule (pool : Nat) (s : State) : Out :=
  let near := s.srv.reqs.filter fun e => e.2.pool == pool && (e.2.state == 5 || e.2.state == 6) &&
    e.2.deadline != 2 ^ 64 - 1 && decide (e.2.deadline ≤ s.tkp.now + guardOf s e.2)
  let stuck := near.any fun w => ((victims s fun r => r.pool == pool && decide (r.prio < w.2.prio)).filter fun e =>
    e.1 != w.1 && !(privatePages s e.2).isEmpty).isEmpty
  if s.tkp.beat = 0 ∧ stuck ∧ NMap.getD s.srv.ddl pool 0 ≠ s.tkp.now + 1 then
    match (orderBy victimBefore (s.srv.reqs.filter fun e => e.2.pool == pool && e.2.own)).head? with
    | none => .next s
    | some e =>
      let s1 : State := { s with srv := { s.srv with aborts := satAdd 32 s.srv.aborts 1, ddl := NMap.insert s.srv.ddl pool (s.tkp.now + 1) } }
      .next (if e.2.abortAsk.isSome then s
        else if inStep s1 e.1 then addWait (askAbort s1 e.1 6) e.2.slice e.2.pool (.deadline e.1 e.2.entryGen) else endReq s1 e.1 8 6)
  else .next s

/-! ### REQ_ADMIT (R207, R225, R231, R232, R245) -/

/-- A finite binary32 value that is not negative; +0 counts, −0 does not. -/
def posFinite (x : W32) : Bool := !x.msb && (match f32Val x with | .fin _ _ _ => true | _ => false)

/-- The admission fields of a parameter block. -/
def reqOfParams (r : JRec) : Req :=
  { prio := r.par 2 1, reqId := r.par 4 4, deadline := r.par 8 8, bucket := r.par 22 2, pageList := r.par 24 8, pageCap := r.par 36 4,
    adapter := r.par 40 2, grammar := r.par 44 2, pool := r.par 49 1, draftMax := r.par 50 1, maxNew := r.par 52 4,
    seed := BitVec.ofNat 64 (r.par 56 8), promptLen := r.par 68 4, tokenLog := r.par 80 8, eos := r.par 88 4,
    temp := BitVec.ofNat 32 (r.par 92 4), topP := BitVec.ofNat 32 (r.par 96 4), minP := BitVec.ofNat 32 (r.par 100 4), topK := r.par 104 2 }

/-- The fields that the driver writes as 0 are 0. -/
def admitZeros (r : JRec) : Bool :=
  r.zeros 0 2 && r.zeros 3 1 && r.zeros 16 6 && r.zeros 32 4 && r.zeros 42 2 && r.zeros 46 3 && r.zeros 51 1 && r.zeros 64 4 &&
  r.zeros 72 8 && r.zeros 106 22

/-- The adapter slot of a handle's version that was CURRENT at the seam that opened this tick (R225). -/
def currentAdapter (s : State) (h : Nat) : Option (Nat × Adapter) :=
  List.find? (fun (e : Nat × Adapter) => e.2.handle == h && (e.2.state == 2 || (e.2.state == 4 && e.2.since == s.tkp.now))) s.srv.adapters

/-- The ranges of R207, R208, R225, R228, R231 hold; MIN_P −0 is at least 0. -/
def admitOk (s : State) (slice : Nat) (r : JRec) (x : Req) : Bool :=
  r.params.length == 128 && admitZeros r && decide (x.prio ≤ 7) && decide (x.bucket ≤ 4095) && x.pageList % 64 == 0 &&
  decide (1 ≤ x.pageCap ∧ x.pageCap ≤ 1048576) && decide (x.draftMax ≤ 15) && decide (1 ≤ x.maxNew ∧ x.maxNew ≤ 16777215) &&
  decide (1 ≤ x.promptLen ∧ x.promptLen < 2 ^ 24) && x.tokenLog % 64 == 0 && decide (x.eos < 2 ^ 18) && posFinite x.temp &&
  posFinite x.topP && fvLt (.fin false 0 0) (f32Val x.topP) && !fvLt (.fin false 1 0) (f32Val x.topP) &&
  (x.minP == 0x80000000 || posFinite x.minP) && fvLt (f32Val x.minP) (.fin false 1 0) && decide (x.topK ≤ 1024) &&
  usableRange s x.pageList (8 * x.pageCap) && usableRange s x.tokenLog (4 * (x.promptLen + x.maxNew)) && poolActive s x.pool &&
  decide (x.promptLen + x.maxNew + x.draftMax ≤ x.pageCap * pageP s x) &&
  s.srv.reqs.all (fun e => !e.2.live || e.2.reqId != x.reqId) &&
  (x.adapter == 0xFFFF || (match currentAdapter s x.adapter with | some a => a.2.pool == x.pool | none => false)) &&
  (x.grammar == 0xFFFF || (decide (x.grammar ≤ 255) && (match NMap.find? s.srv.grammars x.grammar, NMap.find? s.srv.cfgs (256 * slice + x.pool) with
    | some g, some c => g.vocab == c.vocab
    | _, _ => false)))

/-- The shared pages that a page list names: the leading entries whose GEN is not 0 (R245). -/
def sharedRun (s : State) (x : Req) : List (Nat × Nat) :=
  (((List.range x.pageCap).map fun k => devNat s (x.pageList + 8 * k) 8).takeWhile fun e => e / 2 ^ 32 != 0).map
    fun e => (e % 2 ^ 24, e / 2 ^ 32)

/-- Every shared page is GRANTED, has its GEN, and stands in the index at its depth with the prompt's key (R245). -/
def sharedOk (s : State) (slice : Nat) (x : Req) (run : List (Nat × Nat)) : Bool :=
  let keys := promptKeys s x
  decide (run.length ≤ keys.length) &&
  (List.zip (List.range run.length) run).all fun e =>
    (match frameAt s x.pool e.2.1 with | some f => f.state == 1 && f.gen == e.2.2 | none => false) &&
    s.mov.index.any fun p => pfxHit s x.pool (e.1 + 1) (keys.getD e.1 []) (some slice) p && p.frame == e.2.1

/-- References the shared pages in turn; a refusal releases those taken before it. -/
def shareRun (pool : Nat) : List (Nat × Nat) → State → State × Nat
  | [], s => (s, stOk)
  | e :: es, s =>
    let r := sharePage s pool e.1
    if r.2 ≠ stOk then r
    else
      let q := shareRun pool es r.1
      if q.2 = stOk then q else ((releasePage q.1 pool e.1).1, q.2)

/-- The lowest FREE entry of the request table. -/
def freeEntry (s : State) : Option Nat := (List.range 16384).find? fun i => (reqAt s i).state == 0

/-- ROLE_LOC of an entry of this device (R207). -/
def roleLocOf (s : State) (slice i : Nat) : Nat := s.fab.device + 256 * slice + 2 ^ 14 * (roleOf s slice).role + 2 ^ 16 * i

/-- Takes a reference of the adapter version and of the grammar (R225, R231). -/
def takeRefs (s : State) (x : Req) (ver : Nat) : State :=
  let ad := s.srv.adapters.map fun (e : Nat × Adapter) =>
    (e.1, if x.adapter ≠ 0xFFFF ∧ e.2.handle = x.adapter ∧ e.2.version = ver then { e.2 with refs := e.2.refs + 1 } else e.2)
  let gr := if x.grammar ≠ 0xFFFF then NMap.adjust s.srv.grammars x.grammar fun g => { g with refs := g.refs + 1 } else s.srv.grammars
  { s with srv := { s.srv with adapters := ad, grammars := gr } }

/-- Admits a request that has passed every check. -/
def admitReq (s : State) (q seq slice i : Nat) (r : JRec) (x : Req) (run : List (Nat × Nat)) : State :=
  let ver := if x.adapter = 0xFFFF then 0 else match currentAdapter s x.adapter with | some a => a.2.version | none => 0
  let start := match reqGrammar s x with | some g => g.start | none => 0
  let pos := min (run.length * pageP s x) (x.promptLen - 1)
  let s1 := run.foldl (fun y e => usePrefix y fun p => p.pool == x.pool && p.frame == e.1) (takeRefs s x ver)
  setReq s1 i { x with state := 1, slice := slice, adapterVer := ver, gstate := start, prefillPos := pos, commitLen := pos,
                       pages := run, pageCount := run.length, roleLoc := roleLocOf s slice i, entryGen := (reqAt s i).entryGen,
                       resultPtr := r.resultPtr, admitTick := s.tkp.now, cmdQ := q, cmdSeq := seq }

/-- A REQ_ADMIT is applied (R232, R245). -/
def admitNow (s : State) (r : JRec) : State :=
  match (sliceOfRec s r).bind fun sl => (servingCtx s sl).map fun _ => sl with
  | none => finish s r.q r.seq stNoResource 0
  | some slice =>
    let x := reqOfParams r
    let quota := quotaOf s slice
    if (roleOf s slice).role = 2 ∨ !admitOk s slice r x then finish s r.q r.seq stInvalid 0
    else if !inBuckets quota.buckets x.bucket then finish s r.q r.seq stDenied 0
    else if badRange s x.pageList (8 * x.pageCap) then finish (recordUncorrected s x.pageList (8 * x.pageCap)) r.q r.seq stDeviceFault 0
    else if badRange s x.tokenLog (4 * x.promptLen) then finish (recordUncorrected s x.tokenLog (4 * x.promptLen)) r.q r.seq stDeviceFault 0
    else
      let run := sharedRun s x
      if !sharedOk s slice x run then finish s r.q r.seq stInvalid 0
      else if quota.entries ≤ (liveOf s slice).length then finish s r.q r.seq stNoResource 0
      else
        match freeEntry s with
        | none => finish s r.q r.seq stNoResource 0
        | some i =>
          let sh := shareRun x.pool run s
          if sh.2 ≠ stOk then finish sh.1 r.q r.seq sh.2 0 else admitReq sh.1 r.q r.seq slice i r x run

/-- REQ_ADMIT (opcode 0x0200): while a step of its pair runs, it is applied at the commit boundary (R212). -/
def execReqAdmit (q seq : Nat) (s : State) : Out :=
  .next (withCmd s q seq 0x0200 fun r s =>
    match sliceOfRec s r with
    | some slice => if (stepOf s slice (r.par 49 1)).isSome then addWait s slice (r.par 49 1) (.enter q seq) else admitNow s r
    | none => admitNow s r)

/-! ### REQ_ABORT and REQ_QUERY -/

/-- REQ_ABORT (opcode 0x0201, R211, R212): while a step of its request's pair runs, it is applied at the commit boundary. -/
def execReqAbort (q seq : Nat) (s : State) : Out :=
  .next (withCmd s q seq 0x0201 fun r s =>
    withReq s r fun i x =>
      if (stepOf s x.slice x.pool).isSome then addWait (askAbort s i 5) x.slice x.pool (.abort q seq) else abortNow s r)

/-- REQ_QUERY (opcode 0x0202): the 128-byte entry at the result pointer. -/
def execReqQuery (q seq : Nat) (s : State) : Out :=
  .next (withCmd s q seq 0x0202 fun r s => withReq s r fun _ x => finishWith s q seq stOk 0 (reqBytes x))

/-! ### Steps -/

/-- STEP_COMPOSE: once the pair's last step has committed, with a configuration and an ACTIVE serving context (R213, R214,
17 R385), on a device that takes work (20 R435, 23 R494). -/
def execStepCompose (slice pool : Nat) (work : StepWork) (s : State) : Out :=
  let key := 256 * slice + pool
  match NMap.find? s.srv.cfgs key with
  | none => .next s
  | some cfg =>
    if (NMap.find? s.srv.steps key).isSome ∨ !servingActive s slice ∨ (roleOf s slice).role = 2 ∨ s.fw.quiesced ∨ s.ras.state ≠ 0 then .next s
    else
      let c := ((candidates (wakeAll s) slice pool).map (·.1)).foldl (pickOne cfg work.drafts) ⟨wakeAll s, [], 0, 0, [], false⟩
      if c.rows.isEmpty then .next c.st
      else
        let s1 := work.descs.foldl (placeTable c.rows) c.st
        let run : StepRun := { rows := c.rows, segs := segmentsOf s1 c.rows, descs := work.descs, ended := [], waits := [] }
        .next { s1 with srv := { s1.srv with steps := NMap.insert s1.srv.steps key run } }

/-- STEP_COMMIT: once every ATTN of the step has ended, its results, then what arrived since the last boundary, then the swaps (R212). -/
def execStepCommit (slice pool : Nat) (rows : List RowResult) (s : State) : Out :=
  let key := 256 * slice + pool
  match NMap.find? s.srv.steps key with
  | none => .next s
  | some run =>
    if run.ended.length < run.descs.length then .next s
    else
      let s1 := (List.range run.rows.length).foldl (commitRow run rows) s
      let s2 : State := { s1 with srv := { s1.srv with steps := NMap.erase s1.srv.steps key } }
      let s3 := run.waits.foldl (applyWait admitNow) s2
      let swaps := s3.srv.reqs.filter fun e => e.2.slice == slice && e.2.pool == pool && e.2.swapAsk && [1, 2, 4, 5].contains e.2.state
      .next (swaps.foldl (fun y e => swapOut y e.1) s3)

/-! ### SERVE_CFG and BUDGET_SET -/

/-- The checks of SERVE_CFG on its fields (R213): SLICE 1, POOL 1, 2 reserved, MAX_ROWS 2, 2 reserved, MAX_SEQS 2, CHUNK 2,
VOCAB 4, ABORT_GUARD 2 (log 27). -/
def serveCfgFields (r : JRec) (_ : State) : Nat :=
  if r.params.length = 18 ∧ r.par 0 1 < 64 ∧ r.zeros 2 2 ∧ 1 ≤ r.par 4 2 ∧ r.par 4 2 ≤ 4096 ∧ r.zeros 6 2 ∧ 1 ≤ r.par 8 2 ∧ r.par 8 2 ≤ 16384 ∧
     64 ≤ r.par 10 2 ∧ r.par 10 2 ≤ r.par 4 2 ∧ 1 ≤ r.par 12 4 ∧ r.par 12 4 ≤ 262144 then stOk else stInvalid
/-- The check of SERVE_CFG on the state: CHUNK is a multiple of the pool's P. -/
def serveCfgState (r : JRec) (s : State) : Nat :=
  match poolAt s (r.par 1 1) with | some p => if r.par 10 2 % p.p = 0 then stOk else stInvalid | none => stInvalid
/-- SERVE_CFG at its seam. -/
def serveCfgApply (r : JRec) (s : State) : State :=
  { s with srv := { s.srv with cfgs := NMap.insert s.srv.cfgs (256 * r.par 0 1 + r.par 1 1) ⟨r.par 4 2, r.par 8 2, r.par 10 2, r.par 12 4, r.par 16 2⟩ } }
/-- SERVE_CFG (opcode 0x0203). -/
def execServeCfg (q seq : Nat) (s : State) : Out := .next (withSeamCmd s q seq 0x0203 serveCfgFields)

/-- The checks of BUDGET_SET on its fields: BUCKET 2, FLAGS 1 ([0] write LEVEL), RATE 4, CAP 4, LEVEL 8 (log 27). -/
def budgetSetFields (r : JRec) (_ : State) : Nat :=
  if r.params.length = 19 ∧ r.par 0 2 ≤ 4095 ∧ r.par 2 1 ≤ 1 then stOk else stInvalid
/-- BUDGET_SET at its seam. -/
def budgetSetApply (r : JRec) (s : State) : State :=
  let level := (BitVec.ofNat 64 (r.par 11 8)).toInt
  { s with srv := { s.srv with buckets := NMap.modify s.srv.buckets {} (r.par 0 2) fun b =>
    { level := if r.par 2 1 = 1 then level else b.level, rate := r.par 3 4, cap := r.par 7 4 } } }
/-- BUDGET_SET (opcode 0x0204). -/
def execBudgetSet (q seq : Nat) (s : State) : Out := .next (withSeamCmd s q seq 0x0204 budgetSetFields)

/-- The refill of every bucket at a seam (R215). -/
def budgetSeam (s : State) : State :=
  { s with srv := { s.srv with buckets := s.srv.buckets.map fun (e : Nat × Bucket) =>
      (e.1, { e.2 with level := if e.2.cap < e.2.level then e.2.level else min (e.2.level + e.2.rate) e.2.cap }) } }

/-! ### Adapters (R223 to R225) -/

/-- An EMPTY adapter slot, the lowest. -/
def freeAdapter (s : State) : Option Nat := (List.range 256).find? fun i => (NMap.find? s.srv.adapters i).isNone

/-- ADAPTER_LOAD (opcode 0x0208): HANDLE 2, POOL 1, 1 reserved, RANK 2, 2 reserved, WEIGHTS 8, BYTES 8 (log 27). It is DONE when
the version becomes CURRENT. -/
def execAdapterLoad (q seq : Nat) (s : State) : Out :=
  .next (withCmd s q seq 0x0208 fun r s =>
    let h := r.par 0 2
    let top := (s.srv.adapters.filter fun (e : Nat × Adapter) => e.2.handle == h).foldl (fun m e => max m e.2.version) 0
    if r.params.length ≠ 24 ∨ h = 0xFFFF ∨ !r.zeros 3 1 ∨ r.par 4 2 = 0 ∨ 1024 < r.par 4 2 ∨ !r.zeros 6 2 ∨
       (poolAt s (r.par 2 1)).isNone ∨ !usableRange s (r.par 8 8) (r.par 16 8) ∨ 65535 < top + 1 then finish s q seq stInvalid 0
    else
      match freeAdapter s with
      | none => finish s q seq stNoResource 0
      | some i =>
        let a : Adapter := { handle := h, version := top + 1, state := 1, pool := r.par 2 1, rank := r.par 4 2, refs := 0,
                             weights := r.par 8 8, bytes := r.par 16 8, since := s.tkp.now, cmdQ := q, cmdSeq := seq, copy := [] }
        { s with srv := { s.srv with adapters := NMap.insert s.srv.adapters i a } })

/-- ADAPTER_CURRENT: the weights have been copied while the slot was LOADING (log 98), and at the first seam after the copy the
version becomes CURRENT, the previous one SUPERSEDED, and ADAPTER_LOAD is DONE; weights that read uncorrected end it DEVICE_FAULT. -/
def execAdapterCurrent (slot : Nat) (s : State) : Out :=
  match NMap.find? s.srv.adapters slot with
  | none => .next s
  | some a =>
    if a.state = 1 ∧ s.tkp.beat = 0 ∧ a.since < s.tkp.now then
      if badRange s a.weights a.bytes then
        .next (finish (recordUncorrected { s with srv := { s.srv with adapters := NMap.erase s.srv.adapters slot } } a.weights a.bytes)
          a.cmdQ a.cmdSeq stDeviceFault 0)
      else
        let old := s.srv.adapters.map fun (e : Nat × Adapter) =>
          (e.1, if e.2.handle = a.handle ∧ e.2.state = 2 then { e.2 with state := 3, since := s.tkp.now } else e.2)
        let s1 : State := { s with srv := { s.srv with adapters := NMap.insert old slot { a with state := 2, since := s.tkp.now, copy := devRead s a.weights a.bytes } } }
        .next (finish s1 a.cmdQ a.cmdSeq stOk 0)
    else .next s

/-- ADAPTER_WITHDRAW (opcode 0x0209): HANDLE 2. -/
def execAdapterWithdraw (q seq : Nat) (s : State) : Out :=
  .next (withCmd s q seq 0x0209 fun r s =>
    let h := r.par 0 2
    if r.params.length ≠ 2 ∨ !s.srv.adapters.any (fun (e : Nat × Adapter) => e.2.handle == h && e.2.state == 2) then finish s q seq stInvalid 0
    else
      let s1 : State := { s with srv := { s.srv with adapters := s.srv.adapters.map fun (e : Nat × Adapter) =>
        (e.1, if e.2.handle = h ∧ e.2.state = 2 then { e.2 with state := 4, since := s.tkp.now } else e.2) } }
      finish s1 q seq stOk 0)

/-- SUPERSEDED and WITHDRAWN slots without references return to EMPTY at a seam. -/
def adapterSeam (s : State) : State :=
  { s with srv := { s.srv with adapters := s.srv.adapters.filter fun (e : Nat × Adapter) => !((e.2.state == 3 || e.2.state == 4) && e.2.refs == 0) } }

/-! ### Grammars (R229, R231) -/

/-- The header that GRAMMAR_LOAD carries at byte 1 of its parameters. -/
def grammarOfParams (r : JRec) : Grammar :=
  { vocab := r.par 5 4, states := r.par 9 4, start := r.par 13 2, masks := if r.par 15 2 = 0 then 65536 else r.par 15 2, trans := r.par 17 4,
    refs := 0, stateTab := r.par 25 8, maskTab := r.par 33 8, transTab := r.par 41 8 }

/-- One state's entry passes the checks. -/
def gStateOk (s : State) (g : Grammar) (i : Nat) : Bool :=
  let e := gState s g i
  let toks := (List.range e.2.2.2.1).map fun k => gTrans s g (e.2.2.1 + k) % 2 ^ 18
  decide (e.1 < g.masks) && decide (e.2.1 ≤ 1) && decide (e.2.2.1 + e.2.2.2.1 ≤ g.trans) &&
  (e.2.2.2.2 == 0xFFFFFFFF || decide (e.2.2.2.2 < g.trans)) &&
  (List.zipWith (fun (a b : Nat) => decide (a < b)) toks (toks.drop 1)).all id && toks.all (fun t => decide (t < g.vocab))

/-- One transition entry passes the checks. -/
def gTransOk (s : State) (g : Grammar) (i : Nat) : Bool :=
  let e := gTrans s g i
  bitsOf e 19 18 != 3 && bitsOf e 23 20 == 0 && bitsOf e 63 56 == 0 && decide (bitsOf e 39 24 < g.states) && decide (bitsOf e 55 40 < g.states)

/-- The tables of a grammar, as ranges. -/
def gRanges (g : Grammar) : List (Nat × Nat) :=
  [(g.stateTab, 16 * g.states), (g.maskTab, g.masks * ((g.vocab + 511) / 512 * 64)), (g.transTab, 8 * g.trans)]

/-- GRAMMAR_LOAD (opcode 0x020C): 1 byte id, then the 64-byte header (log 27). -/
def execGrammarLoad (q seq : Nat) (s : State) : Out :=
  .next (withCmd s q seq 0x020C fun r s =>
    let g := grammarOfParams r
    let id := r.par 0 1
    if r.params.length ≠ 65 ∨ r.par 1 1 ≠ 1 ∨ !r.zeros 2 3 ∨ !r.zeros 21 4 ∨ !r.zeros 49 16 ∨ g.vocab = 0 ∨ 262144 < g.vocab ∨ g.states = 0 ∨
       65536 < g.states ∨ g.states ≤ g.start ∨ !(gRanges g).all (fun a => usableRange s a.1 a.2) then finish s q seq stInvalid 0
    else if (gRanges g).any (fun a => badRange s a.1 a.2) then
      finish ((gRanges g).foldl (fun y a => recordUncorrected y a.1 a.2) s) q seq stDeviceFault 0
    else if !(List.range g.states).all (gStateOk s g) ∨ !(List.range g.trans).all (gTransOk s g) then finish s q seq stInvalid 0
    else if (NMap.find? s.srv.grammars id).isSome then finish s q seq stNoResource 0
    else finish { s with srv := { s.srv with grammars := NMap.insert s.srv.grammars id g } } q seq stOk 0)

/-- GRAMMAR_UNLOAD (opcode 0x020D): 1 byte id. -/
def execGrammarUnload (q seq : Nat) (s : State) : Out :=
  .next (withCmd s q seq 0x020D fun r s =>
    if r.params.length ≠ 1 then finish s q seq stInvalid 0
    else
      match NMap.find? s.srv.grammars (r.par 0 1) with
      | none => finish s q seq stInvalid 0
      | some g =>
        if 0 < g.refs then finish s q seq stBusy 0
        else finish { s with srv := { s.srv with grammars := NMap.erase s.srv.grammars (r.par 0 1) } } q seq stOk 0)

end Sys2Proof.Machine
end

