-- ==== Sys2Proof/Machine/Moves.lean ====
section
/-!
DEFINITION. Moves of requests between devices, roles and PEER_LOST (11 R233 to R242). The messages of R236 come as commands:
each takes the oldest message of its class from its source's inbox, if one stands there (14 R323).
-/
namespace Sys2Proof.Machine

/-! ### The destination -/

/-- The ACTIVE pool of a model and page size, the lowest. -/
def poolOf (s : State) (model p : Nat) : Option Nat :=
  (List.find? (fun (e : Nat × Pool) => e.2.state == 1 && e.2.model == model && e.2.p == p) s.srv.pools).map (·.1)

/-- The landing slot of a table index: its page list and its token log (R234). -/
def landSlot (ro : Role) (i : Nat) : Nat × Nat :=
  let base := ro.landBase + ro.landStride * i
  (base, base + 64 * ((ro.landStride / 2 + 63) / 64))

/-- Secures a page for a move into a slice: the frame of its prefix key is referenced, where the index holds it; any other is granted, within
the slice's memory quota with the frames secured before (`got`); none when that fails (R238, 17 R380). -/
def movePage (s : State) (slice pool : Nat) (held : Option PfxEntry) (k : Nat) (got : List Nat) : State × Option (Nat × Nat × Bool) :=
  let grant := fun (y : State) =>
    if 2 ^ 20 * (quotaOf y slice).memMib < memWith y slice got + pageBytesOf y pool then (y, none)
    else
      let g := grantPage y pool k
      (g.1, g.2.map fun x => (x.1, x.2, false))
  match held with
  | none => grant s
  | some e =>
    let r := sharePage s pool e.frame
    if r.2 = stOk then (r.1, some (e.frame, (match frameAt r.1 pool e.frame with | some f => f.gen | none => 0), true)) else grant r.1

/-- Secures the pages of a move in order; none when one fails, and those taken before it are released. -/
def movePages (slice pool : Nat) (held : List (Option PfxEntry)) : List Nat → List Nat → State → State × Option (List (Nat × Nat × Bool))
  | [], _, s => (s, some [])
  | k :: ks, got, s =>
    let r := movePage s slice pool (held.getD k none) k got
    match r.2 with
    | none => (r.1, none)
    | some x =>
      let q := movePages slice pool held ks (frameKey pool x.1 :: got) r.1
      match q.2 with
      | some xs => (q.1, some (x :: xs))
      | none => ((releasePage q.1 pool x.1).1, none)

/-- The answer to MOVE_RESERVE. -/
def replyReserve (s : State) (m : MoveReserve) (a : MoveReserved) : State :=
  let body := leBytes 2 a.status ++ leBytes 2 a.dstIdx ++ leBytes 2 a.dstGen ++ leBytes 2 a.frames.length ++ leBytes 8 a.slot ++ leBytes 8 a.logAt ++
    (List.zipWith (fun f x => leBytes 8 (f + (if x then 2 ^ 63 else 0))) a.frames a.matched).flatten
  sendMsg s m.srcDev 0x0102 (moveIdField m.srcDev m.srcIdx m.srcGen) [a.status, a.dstIdx, a.dstGen, a.slot] body

/-- A refusal of MOVE_RESERVE. -/
def refuseReserve (s : State) (m : MoveReserve) (st : Nat) : State := replyReserve s m ⟨st, 0, 0, [], [], 0, 0⟩

/-- The exact adapter version is resident in the pool, and the grammar is loaded with the pair's VOCAB (R238). -/
def moveBinds (s : State) (m : MoveReserve) (pool : Nat) : Bool :=
  (m.adapter == 0xFFFF || s.srv.adapters.any fun (e : Nat × Adapter) =>
    e.2.handle == m.adapter && e.2.version == m.adapterVer && e.2.pool == pool && decide (2 ≤ e.2.state)) &&
  (m.grammar == 0xFFFF || (match NMap.find? s.srv.grammars m.grammar, NMap.find? s.srv.cfgs (256 * m.dstSlice + pool) with
    | some g, some c => g.vocab == c.vocab
    | _, _ => false))

/-- Receiver checking accepts a job tag for a slice: tag 0, or the tag of the region in which the slice's moves land; in sender-trusted
mode there is no such check (14 R327, R329; log 25). -/
def tagAccepted (s : State) (slice tag : Nat) : Bool :=
  s.fab.prot || tag == 0 || (NMap.getD s.fab.regions ((roleOf s slice).landBase / 2 ^ 21) {}).jobTag == tag

/-- The record of a move id is PENDING for a destination entry: a new one, or the ABANDONED one that the source's retry finds (R239). -/
def recordMove (s : State) (m : MoveReserve) (i : Nat) : State :=
  if (findMove s m.srcDev m.srcIdx m.srcGen).isSome then
    modMove s m.srcDev m.srcIdx m.srcGen fun x => { x with dstIdx := i, outcome := 0, slice := m.dstSlice }
  else { s with mov := { s.mov with recs := s.mov.recs ++ [⟨m.srcDev, m.srcIdx, m.srcGen % 1024, i, 0, m.dstSlice, 0⟩] } }

/-- What a reserve finds of its own move id: a PENDING record, whose answer the source never had, is abandoned (R239). -/
def clearMove (s : State) (m : MoveReserve) : State :=
  match findMove s m.srcDev m.srcIdx m.srcGen with
  | some x => if x.outcome = 0 then abandonMove s x else s
  | none => s

/-- The record table has no room for a move: one that finds a record of its id needs none. -/
def recsFull (s : State) (m : MoveReserve) : Bool :=
  decide (1024 ≤ s.mov.recs.length) && (findMove s m.srcDev m.srcIdx m.srcGen).isNone

/-- MOVE_RESERVE at the destination (R236 step 2, R238): a refusal leaves no entry and no record. -/
def execMoveReserve (m : MoveReserve) (s0 : State) : Out :=
  let s := clearMove (takeMsg s0 m.srcDev 0x0101) m
  let ro := roleOf s m.dstSlice
  if !headIs s0 m.srcDev 0x0101 then .next s0
  else if s.ras.state ≠ 0 then .next (refuseReserve s m stBusy)
  else if !tagAccepted s m.dstSlice m.jobTag ∨ !inPartition s m.srcDev then .next (refuseReserve s m stDenied)
  else
    match if ro.role = 1 ∨ ro.role = 3 then poolOf s m.model m.p else none with
    | none => .next (refuseReserve s m stInvalid)
    | some pool =>
      if !moveBinds s m pool then .next (refuseReserve s m stInvalid)
      else if (quotaOf s m.dstSlice).entries ≤ (liveOf s m.dstSlice).length then .next (refuseReserve s m stNoResource)
      else if recsFull s m then .next (refuseReserve s m stBusy)
      else
        match freeEntry s with
        | none => .next (refuseReserve s m stNoResource)
        | some i =>
          let n := (m.len - 1 + m.p - 1) / m.p
          let held := (List.range m.keys.length).map fun k => pfxFind s pool (k + 1) (m.keys.getD k []) (some m.dstSlice)
          let pg := movePages m.dstSlice pool held (List.range n) [] s
          match pg.2 with
          | none => .next (refuseReserve pg.1 m stNoResource)
          | some xs =>
            let slot := landSlot ro i
            let here := fun (a : Nat) => 2 ^ 40 * s.fab.device + a
            let who := some (m.srcDev, m.srcIdx, m.srcGen % 1024)
            let locs := xs.map fun x => match frameAt pg.1 pool x.1 with | some f => f.loc | none => 0
            let gs := ((List.zip xs locs).filter fun e => !e.1.2.2 && isHere pg.1 e.2).map fun e =>
              Grant.mk m.srcDev (e.2 % 2 ^ 40) (pageBytesOf s pool) who none s.tkp.now
            let ga := addGrants pg.1 (gs ++ [⟨m.srcDev, slot.1, ro.landStride, who, none, s.tkp.now⟩])
            if !ga.2 then .next (refuseReserve (xs.foldl (fun y x => (releasePage y pool x.1).1) pg.1) m stNoResource)
            else
              let x : Req := { state := 9, slice := m.dstSlice, reqId := m.reqId, pool := pool, adapter := m.adapter,
                               adapterVer := m.adapterVer, grammar := m.grammar, pages := xs.map fun x => (x.1, x.2.1),
                               pageCount := xs.length, pageList := slot.1, tokenLog := slot.2, entryGen := (reqAt s i).entryGen,
                               admitTick := s.tkp.now }
              let s1 := setReq (takeRefs ga.1 x m.adapterVer) i x
              .next (replyReserve (recordMove s1 m i) m ⟨stOk, i, x.entryGen, locs, xs.map (·.2.2), here slot.1, here slot.2⟩)

/-- The grammar stack after the generated tokens of a request: the automaton run over its token log from START (10 R230). -/
def stackOf (s : State) (r : Req) : List Nat :=
  match reqGrammar s r with
  | none => []
  | some g =>
    (((List.range r.genLen).map fun k => logToken s r (r.promptLen + k)).foldl (gStep s g)
      { state := g.start, stack := [], dead := false, deep := false }).stack

/-- The entry that MOVE_COMMIT carries, taken over by a PENDING entry: its own slice, pages and places, and the source's
other fields (R236 step 4). The grammar stack, which no message carries, is what the tokens of the log give (log 100). -/
def takeEntry (s : State) (i : Nat) (x : Req) (b : List Byte) : Req :=
  let r : Req :=
    { x with state := 4, prio := fieldAt b 2 1, deadline := fieldAt b 8 8, commitLen := fieldAt b 16 4, specLen := fieldAt b 20 2,
             bucket := fieldAt b 22 2, pageCap := fieldAt b 36 4, gstate := fieldAt b 46 2, gsp := fieldAt b 48 1, draftMax := fieldAt b 50 1,
             maxNew := fieldAt b 52 4, seed := BitVec.ofNat 64 (fieldAt b 56 8), step := fieldAt b 64 4, promptLen := fieldAt b 68 4,
             prefillPos := fieldAt b 72 4, roleLoc := roleLocOf s x.slice i, eos := fieldAt b 88 4, temp := BitVec.ofNat 32 (fieldAt b 92 4),
             topP := BitVec.ofNat 32 (fieldAt b 96 4), minP := BitVec.ofNat 32 (fieldAt b 100 4), topK := fieldAt b 104 2,
             genLen := fieldAt b 108 4, resultPtr := fieldAt b 112 8, admitTick := fieldAt b 120 8 }
  { r with stack := stackOf s r }

/-- The entry of a MOVE_COMMIT agrees with the reservation. -/
def entryFits (x : Req) (b : List Byte) : Bool :=
  b.length == 128 && fieldAt b 0 1 == 3 && fieldAt b 4 4 == x.reqId && fieldAt b 40 2 == x.adapter &&
  fieldAt b 42 2 == x.adapterVer && fieldAt b 44 2 == x.grammar && fieldAt b 32 4 == x.pageCount

/-- The commit record of a move: the entry under the move id (R236; log 32). -/
def commitRec (s : State) (m : MoveRec) (b : List Byte) : JRec :=
  { q := 0xFFFF, seq := moveIdField m.srcDev m.srcIdx m.srcGen, opcode := 0x0103, flags := 0, params := b, resultPtr := 0, tickArg := none,
    pasid := none, stage := 3, status := stOk, value := 0, order := s.hst.order, tick := s.tkp.now, beat := s.tkp.beat, doneAt := none,
    mirAt := s.hst.mirCursor, mirLeft := 0 }

/-- Journals a commit record, and in mirrored mode stores it at the partner (08 R181, 16 R362). -/
def journalCommit (s : State) (r : JRec) : State :=
  let s1 := journalPut s r
  let s2 := if s1.hst.mirrored then (mirrorPieces r).foldl (fun y p => mirrorPiece y r p.1 p.2 none) s1 else s1
  { s2 with hst := { s2.hst with mirCursor := s2.hst.mirCursor + recUnits r } }

/-- A PENDING move commits: its record is journalled, the entry is DECODE, its page list stands in the landing slot, its grants are removed, COMMITTED is
answered, and the notice posted (R236, R239, R242). -/
def commitMove (s : State) (m : MoveRec) (b : List Byte) : State :=
  let x := reqAt s m.dstIdx
  let y := takeEntry s m.dstIdx x b
  let s1 := setReq s m.dstIdx y
  let s2 := (List.zip (List.range y.pages.length) y.pages).foldl (fun z e => putPage z y e.1 e.2.1 e.2.2) s1
  let s3 := modMove (dropMoveGrants (journalCommit s2 (commitRec s2 m b)) m.srcDev m.srcIdx m.srcGen) m.srcDev m.srcIdx m.srcGen
    fun r => { r with outcome := 1, place := s2.hst.mirCursor }
  answerMove (moveNotice s3 m.dstIdx y stOk 0 1) m.srcDev m.srcIdx m.srcGen 1

/-- MOVE_COMMIT (R239). -/
def execMoveCommit (src idx gen : Nat) (entry : List Byte) (s0 : State) : Out :=
  let s := takeMsg s0 src 0x0103
  if !headIs s0 src 0x0103 then .next s0
  else match findMove s src idx gen with
  | none => .next (answerMove s src idx gen 2)
  | some m =>
    if m.outcome = 1 then .next (answerMove s src idx gen 1)
    else if m.outcome = 2 then .next (answerMove s src idx gen 2)
    else if entryFits (reqAt s m.dstIdx) entry ∧ s.ras.state = 0 then .next (commitMove s m entry)
    else .next (answerMove (abandonMove s m) src idx gen 2)

/-- A query or a cancellation: a PENDING move is abandoned, and the outcome is answered (R239). -/
def resolveMove (s : State) (src idx gen : Nat) : State :=
  match findMove s src idx gen with
  | none => answerMove s src idx gen 2
  | some m =>
    if m.outcome = 1 then answerMove s src idx gen 1
    else answerMove (if m.outcome = 0 then abandonMove s m else s) src idx gen 2

/-- MOVE_QUERY (R239). -/
def execMoveQuery (src idx gen : Nat) (s : State) : Out :=
  .next (if headIs s src 0x0106 then resolveMove (takeMsg s src 0x0106) src idx gen else s)
/-- MOVE_CANCEL (R239). -/
def execMoveCancel (src idx gen : Nat) (s : State) : Out :=
  .next (if headIs s src 0x0107 then resolveMove (takeMsg s src 0x0107) src idx gen else s)

/-- MOVE_RELEASE: the record is dropped (R239). -/
def execMoveRelease (src idx gen : Nat) (s0 : State) : Out :=
  let s := takeMsg s0 src 0x0105
  if !headIs s0 src 0x0105 then .next s0
  else .next { s with mov := { s.mov with recs := s.mov.recs.filter fun m => !(m.srcDev == src && m.srcIdx == idx && m.srcGen == gen % 1024) } }

/-! ### The source -/

/-- The ranges that a move copies: the pages that the destination did not match, and the token log in whole lines. -/
def moveRanges (s : State) (r : Req) (a : MoveReserved) : List (Nat × Nat × Nat) :=
  let n := pageBytesOf s r.pool
  ((List.zip r.pages (List.zip a.frames a.matched)).filter fun e => !e.2.2).map (fun e =>
    ((match frameAt s r.pool e.1.1 with | some f => f.loc | none => 0), n, e.2.1)) ++
  [(2 ^ 40 * s.fab.device + r.tokenLog, (4 * (r.promptLen + r.genLen) + 63) / 64 * 64, a.logAt)]

/-- MOVE_RESERVED: the copy starts, or a refusal moves on to the next target, and when every target has refused in one tick the move fails
(R236, R237).
`idx` names the source entry. -/
def execMoveReserved (idx : Nat) (m : MoveReserved) (s0 : State) : Out :=
  match NMap.find? s0.mov.src idx with
  | none => .next (dropStaleMsg s0 0x0102 idx)
  | some x =>
    let s := takeMsg s0 (x.target % 256) 0x0102
    let r := reqAt s idx
    if !headIs s0 (x.target % 256) 0x0102 then .next (dropStaleMsg s0 0x0102 idx)
    else if x.phase ≠ 1 ∨ r.state ≠ 3 then .next s
    else if m.status = stOk ∧ m.frames.length = r.pages.length then
      let y := { x with phase := 2, dst := m, left := moveRanges s r m }
      .next (moveCopied (setSrc s idx y) idx)
    else
      let tried := (if x.sentTick = s.tkp.now then x.tried else 0) + 1
      .next (if tried < (roleOf s r.slice).targets.length then sendReserve s idx tried else revertMove s idx)

/-- MOVE_ANSWER: COMMITTED ends the request on this device, ABANDONED reverts it (R236 step 5, R240, R242). -/
def execMoveAnswer (idx gen : Nat) (committed : Bool) (s0 : State) : Out :=
  match NMap.find? s0.mov.src idx with
  | none => .next (dropStaleMsg s0 0x0104 idx)
  | some m =>
    let s := takeMsg s0 (m.target % 256) 0x0104
    let r := reqAt s idx
    if !headIs s0 (m.target % 256) 0x0104 then .next (dropStaleMsg s0 0x0104 idx)
    else if r.state ≠ 3 ∨ r.entryGen % 1024 ≠ gen % 1024 then .next s
    else if committed then
      let s1 := sendMsg s (m.target % 256) 0x0105 (ownMove s idx) [] []
      let s2 := dropSrc { s1 with mov := { s1.mov with failStreak := NMap.erase s1.mov.failStreak idx } } idx
      .next (freeReq (finishWith s2 r.cmdQ r.cmdSeq stOk 0 (resultRecord s2 idx r stOk 0)) idx)
    else .next (revertMove s idx)

/-- MOVE_RETRY: at the next seam after a failure, with the prompt written on a PROMPT slice (R211, R237). -/
def execMoveRetry (idx : Nat) (s : State) : Out :=
  let r := reqAt s idx
  let f := NMap.getD s.mov.failStreak idx (0, 0)
  if s.tkp.beat = 0 ∧ r.state = 2 ∧ r.prefillPos = r.promptLen ∧ !r.recompute ∧ 1 ≤ r.genLen ∧ (roleOf s r.slice).role = 0 ∧ 0 < f.1 ∧ f.2 < s.tkp.now then
    .next (startMove s idx)
  else .next s

/-- MOVE_QUERY_TIMER: 80 ticks without a reply to MOVE_RESERVE, MOVE_COMMIT or MOVE_QUERY (R240). -/
def execMoveQueryTimer (idx : Nat) (s : State) : Out :=
  match NMap.find? s.mov.src idx with
  | none => .next s
  | some m => if m.phase ≠ 2 ∧ m.sentTick + 80 ≤ s.tkp.now ∧ (reqAt s idx).state = 3 then .next (sendQuery s idx) else .next s

/-- PEER_LOST (opcode 0x0206): DEVICE 1 byte. Moves bound for the device revert; records from it are dropped, with PENDING
entries abandoned (R240). -/
def execPeerLost (q seq : Nat) (s : State) : Out :=
  .next (withCmd s q seq 0x0206 fun r s =>
    if r.params.length ≠ 1 then finish s q seq stInvalid 0
    else
      let d := r.par 0 1
      let s1 := (s.mov.src.filter fun e => e.2.target % 256 == d).foldl (fun y e => revertMove y e.1) s
      let s2 := (s1.mov.recs.filter fun m => m.srcDev == d && m.outcome == 0).foldl abandonMove s1
      finish { s2 with mov := { s2.mov with recs := s2.mov.recs.filter fun m => m.srcDev != d } } q seq stOk 0)

/-! ### ROLE_SET (R233, R234) -/

/-- Two-byte entries of a list of a ROLE_SET. -/
def roleList (r : JRec) (off n : Nat) : List Nat := (List.range n).map fun i => r.par (off + 2 * i) 2

/-- The checks of ROLE_SET on its fields. -/
def roleSetFields (r : JRec) (_ : State) : Nat :=
  let role := r.par 1 1
  if r.params.length = 72 ∧ r.par 0 1 < 64 ∧ role ≤ 3 ∧ r.par 2 1 ≤ 16 ∧ (role ≠ 0 ∨ 1 ≤ r.par 2 1) ∧ r.par 3 1 ≤ 8 ∧ r.par 4 4 % 64 = 0 ∧
     r.par 8 8 % 64 = 0 ∧ ((roleList r 24 16 ++ roleList r 56 8).all fun e => decide (e < 2 ^ 14)) then stOk else stInvalid

/-- A landing slot holds the largest page list and token log that a move may carry: the lists that R207 and R208 allow in the
ACTIVE pools (log 28). -/
def landFits (r : JRec) (s : State) : Bool :=
  let stride := r.par 4 4
  let half := 64 * ((stride / 2 + 63) / 64)
  s.srv.pools.all fun (p : Nat × Pool) =>
    p.2.state != 1 ||
    (let len := min (2 ^ 25 - 2) (2 ^ 20 * p.2.p)
     decide (8 * min (2 ^ 20) ((len + 15 + p.2.p - 1) / p.2.p) ≤ half ∧ half + 4 * len ≤ stride))

/-- A slice has a live request, a move in flight, or a prefix pin that this device holds. -/
def sliceMoves (s : State) (slice : Nat) : Bool :=
  !(liveOf s slice).isEmpty || s.mov.recs.any (fun m => m.slice == slice && m.outcome == 0) ||
  ((roleOf s slice).role == 2 && !s.mov.leases.isEmpty)

/-- The checks of ROLE_SET on the state, before its seam. -/
def roleSetState (r : JRec) (s : State) : Nat :=
  let role := r.par 1 1
  if ((role = 1 ∨ role = 3) ∧ !landFits r s) ∨
     (roleList r 56 (r.par 3 1)).any (fun e => e % 256 == s.fab.device && (roleOf s (e / 256)).role != 2) then stInvalid
  else if sliceMoves s (r.par 0 1) then stBusy
  else stOk

/-- ROLE_SET at its seam. -/
def roleSetApply (r : JRec) (s : State) : State :=
  let ro : Role := { role := r.par 1 1, targets := roleList r 24 (r.par 2 1), caches := roleList r 56 (r.par 3 1), landStride := r.par 4 4,
                     landBase := r.par 8 8, ringPtr := r.par 16 8, notices := (roleOf s (r.par 0 1)).notices, rot := 0 }
  { s with mov := { s.mov with roles := NMap.insert s.mov.roles (r.par 0 1) ro } }

/-- ROLE_SET (opcode 0x0205). -/
def execRoleSet (q seq : Nat) (s : State) : Out := .next (withSeamCmd s q seq 0x0205 roleSetFields)

end Sys2Proof.Machine
end

