-- ==== Sys2Proof/Machine/Prefixes.lean ====
section
/-!
DEFINITION. The prefix commands and the cache device's side of them (11 R243 to R246, 14 R330). The parameter block of the
three commands is POOL 1 byte, FLAGS or cache device 1, reserved 2, length or depth 4, token array address 8 (log 27).
-/
namespace Sys2Proof.Machine

/-- The keys of the token array that a prefix command names: its first `n` tokens. -/
def arrayKeys (s : State) (pool a n : Nat) : List (List Byte) :=
  match poolAt s pool with
  | some p => prefixKeys p.model p.p ((List.range n).map fun i => devNat s (a + 4 * i) 4)
  | none => []

/-- A prefix command runs in the slice's serving context (17 R385); its pool is ACTIVE, and its tokens can be read. -/
def withPfx (s : State) (r : JRec) (tokens : Nat) (f : Nat → State) : State :=
  match (sliceOfRec s r).bind fun sl => (servingCtx s sl).map fun _ => sl with
  | none => finish s r.q r.seq stNoResource 0
  | some slice =>
    let a := r.par 8 8
    if r.params.length ≠ 16 ∨ !r.zeros 2 2 ∨ !poolActive s (r.par 0 1) ∨ tokens = 0 ∨ 2 ^ 24 ≤ tokens ∨ a % 64 ≠ 0 ∨
       !usableRange s a (4 * tokens) then finish s r.q r.seq stInvalid 0
    else if badRange s a (4 * tokens) then finish (recordUncorrected s a (4 * tokens)) r.q r.seq stDeviceFault 0
    else f slice

/-- The key fields and keys of a prefix message. -/
def pfxBody (s : State) (pool depth : Nat) (keys : List (List Byte)) : List Byte :=
  let p := match poolAt s pool with | some x => (x.model, x.p) | none => (0, 0)
  leBytes 2 p.1 ++ leBytes 1 p.2 ++ leBytes 1 0 ++ leBytes 4 depth ++ keys.flatten

/-- A prefix command begins to wait. -/
def addPfx (s : State) (o : PfxOp) : State := { s with mov := { s.mov with ops := s.mov.ops ++ [o] } }

/-- A prefix command in progress before anything of it is known. -/
def newPfx (s : State) (r : JRec) (slice depth : Nat) (keys : List (List Byte)) : PfxOp :=
  { q := r.q, seq := r.seq, opcode := r.opcode, pool := r.par 0 1, slice := slice, depth := depth, keys := keys, local_ := (0, []),
    order := [], waiting := [], answers := [], dev := r.par 1 1, lease := 0, frames := [], left := [], startTick := s.tkp.now }

/-- PREFIX_LOOKUP (opcode 0x0214): FLAGS[0] REMOTE. -/
def execPrefixLookup (q seq : Nat) (s : State) : Out :=
  .next (withCmd s q seq 0x0214 fun r s =>
    withPfx s r (r.par 4 4) fun slice =>
      if 1 < r.par 1 1 then finish s q seq stInvalid 0
      else
        let keys := arrayKeys s (r.par 0 1) (r.par 8 8) (r.par 4 4)
        let run := pfxRun s (r.par 0 1) (some slice) 1 keys
        let s1 := pfxUse s run
        let devs := if r.par 1 1 = 1 then ((roleOf s slice).caches.map (· % 256)).filter fun d => inPartition s d && d != s.fab.device else []
        let o := { newPfx s r slice 0 keys with local_ := (run.length, pfxPages s run), order := devs, waiting := devs.eraseDups }
        lookupSettle (o.waiting.foldl (fun y d => sendMsgFor y d 0x0110 0 [r.par 0 1] (pfxBody s (r.par 0 1) 0 keys) (q, seq)) (addPfx s1 o)) o)

/-- P of a pool. -/
def poolP (s : State) (pool : Nat) : Nat := match poolAt s pool with | some p => p.p | none => 16

/-- PREFIX_FETCH (opcode 0x0215): the cache device is asked to pin. -/
def execPrefixFetch (q seq : Nat) (s : State) : Out :=
  .next (withCmd s q seq 0x0215 fun r s =>
    withPfx s r (r.par 4 4 * poolP s (r.par 0 1)) fun slice =>
      if !inPartition s (r.par 1 1) then finish s q seq stDenied 0
      else
        let keys := arrayKeys s (r.par 0 1) (r.par 8 8) (r.par 4 4 * poolP s (r.par 0 1))
        sendMsgFor (addPfx s (newPfx s r slice (r.par 4 4) keys)) (r.par 1 1) 0x0112 0 [r.par 4 4] (pfxBody s (r.par 0 1) (r.par 4 4) keys) (q, seq))

/-- References frames in turn; a refusal releases those taken before it. -/
def holdFrames (pool : Nat) : List Nat → State → State × Bool
  | [], s => (s, true)
  | f :: fs, s =>
    let r := sharePage s pool f
    if r.2 ≠ stOk then (r.1, false)
    else
      let q := holdFrames pool fs r.1
      if q.2 then q else ((releasePage q.1 pool f).1, false)

/-- PREFIX_PUBLISH (opcode 0x0216): the local pages, which are held while they are copied, are offered; STALE if the local
index does not hold the depth (log 25). -/
def execPrefixPublish (q seq : Nat) (s : State) : Out :=
  .next (withCmd s q seq 0x0216 fun r s =>
    withPfx s r (r.par 4 4 * poolP s (r.par 0 1)) fun slice =>
      if !inPartition s (r.par 1 1) then finish s q seq stDenied 0
      else
        let keys := arrayKeys s (r.par 0 1) (r.par 8 8) (r.par 4 4 * poolP s (r.par 0 1))
        let run := pfxRun s (r.par 0 1) (some slice) 1 keys
        if run.length < r.par 4 4 then finish s q seq stStale 0
        else
          let h := holdFrames (r.par 0 1) (run.map (·.frame)) s
          if !h.2 then finish h.1 q seq stNoResource 0
          else
            let o := { newPfx s r slice (r.par 4 4) keys with frames := run.map (·.frame) }
            sendMsgFor (addPfx h.1 o) (r.par 1 1) 0x0113 0 [r.par 4 4] (pfxBody s (r.par 0 1) (r.par 4 4) keys) (q, seq))

/-! ### The cache device -/

/-- A slice of this device has the role CACHE, so remote lookups are served (R233). -/
def servesCache (s : State) : Bool := s.mov.roles.any fun (e : Nat × Role) => e.2.role == 2

/-- The answer of a cache device: status, depth, lease, page entries and frame addresses. -/
def replyHeld (s : State) (src q seq status depth lease : Nat) (pages : List (Nat × Nat)) (locs : List Nat) : State :=
  sendMsg s src 0x0111 0 [q, seq, status, depth, lease]
    (leBytes 2 q ++ leBytes 2 status ++ leBytes 4 depth ++ leBytes 8 seq ++ leBytes 4 lease ++ leBytes 4 pages.length ++
     (pages.map fun p => leBytes 8 (p.1 + 2 ^ 32 * p.2)).flatten ++ (locs.map (leBytes 8)).flatten)

/-- The entries that a remote lookup finds; an encrypted inserter's are not seen (21 R473). -/
def remoteRun (s : State) (model p : Nat) (keys : List (List Byte)) : Option (Nat × List PfxEntry) :=
  if servesCache s then (poolOf s model p).map fun pool => (pool, pfxRun s pool none 1 keys) else none

/-- PREFIX_ASK: the greatest depth held, which is a use of its entries (R244). -/
def execPrefixAsk (src q seq model p : Nat) (keys : List (List Byte)) (s0 : State) : Out :=
  let s := takeMsg s0 src 0x0110
  if !headIs s0 src 0x0110 then .next s0
  else match remoteRun s model p keys with
  | none => .next (replyHeld s src q seq stOk 0 0 [] [])
  | some (_, run) => .next (replyHeld (pfxUse s run) src q seq stOk run.length 0 (pfxPages s run) [])

/-- Holds a lease for a device. -/
def addLease (s : State) (l : PfxLease) : State × Nat :=
  let n := s.mov.leaseN + 1
  ({ s with mov := { s.mov with leases := NMap.insert s.mov.leases n l, leaseN := n } }, n)

/-- Fabric addresses of frames. -/
def locsOf (s : State) (pool : Nat) (fs : List Nat) : List Nat := fs.map fun f => match frameAt s pool f with | some x => x.loc | none => 0

/-- PREFIX_PIN: the frames of the depth asked are pinned for 800 ticks; STALE if the depth is no longer held (R246). -/
def execPrefixPin (src q seq model p depth : Nat) (keys : List (List Byte)) (s0 : State) : Out :=
  let s := takeMsg s0 src 0x0112
  if !headIs s0 src 0x0112 then .next s0
  else match remoteRun s model p (keys.take depth) with
  | none => .next (replyHeld s src q seq stStale 0 0 [] [])
  | some (pool, run) =>
    if run.length < depth ∨ depth = 0 then .next (replyHeld s src q seq stStale run.length 0 [] [])
    else
      let fs := run.map (·.frame)
      let h := holdFrames pool fs (pfxUse s run)
      if !h.2 then .next (replyHeld h.1 src q seq stStale 0 0 [] [])
      else
        let l := addLease h.1 { dev := src, pool := pool, frames := fs, until_ := s.tkp.now + 800, keys := [] }
        .next (replyHeld l.1 src q seq stOk depth l.2 (pfxPages s run) (locsOf s pool fs))

/-- Steps 1 and 2 of reclaim for a CACHE slice, which yield a frame at once: the page of step 2 is demoted before the grant goes on
(R246, 10 R217). The flag says whether a step applied. -/
def reclaimNow (s : State) (pool : Nat) : State × Bool :=
  match oldestOf ((idleEntries s pool).filter (hasCopy s)) with
  | some e => (pfxRemove s e, true)
  | none =>
    match coldEntry s pool with
    | some e =>
      let d := demotePage s pool e.frame
      if d.2 then d else (pfxRemove d.1 e, true)
    | none => (s, false)

/-- A frame for a page of a CACHE slice: while none is free, index-only frames are reclaimed (R246, 10 R217 steps 1 and 2); the fuel bounds
the steps. -/
def cacheGrant (pool k : Nat) : Nat → State → State × Option (Nat × Nat)
  | 0, s => grantPage s pool k
  | n + 1, s =>
    let g := grantPage s pool k
    if g.2.isSome then g
    else
      let r := reclaimNow g.1 pool
      if r.2 then cacheGrant pool k n r.1 else g

/-- Grants frames for the pages of an offer or of a fetch, into a CACHE slice or another; none if a grant fails. -/
def offerFrames (cache : Bool) (pool : Nat) : List Nat → State → State × Option (List Nat)
  | [], s => (s, some [])
  | k :: ks, s =>
    let g := cacheGrant pool k (if cache then s.mov.index.length else 0) s
    match g.2 with
    | none => (g.1, none)
    | some x =>
      let r := offerFrames cache pool ks g.1
      match r.2 with
      | some xs => (r.1, some (x.1 :: xs))
      | none => ((releasePage r.1 pool x.1).1, none)

/-- PREFIX_OFFER: frames and their write grants, or NO_RESOURCE, or DENIED where this device keeps no cache or the requester is
in another partition (R246, R330). -/
def execPrefixOffer (src q seq model p depth : Nat) (keys : List (List Byte)) (s0 : State) : Out :=
  let s := takeMsg s0 src 0x0113
  if !headIs s0 src 0x0113 then .next s0
  else if !servesCache s ∨ !inPartition s src then .next (replyHeld s src q seq stDenied 0 0 [] [])
  else
    match poolOf s model p with
    | none => .next (replyHeld s src q seq stNoResource 0 0 [] [])
    | some pool =>
      let o := offerFrames true pool (List.range depth) s
      match o.2 with
      | none => .next (replyHeld o.1 src q seq stNoResource 0 0 [] [])
      | some fs =>
        let l := addLease o.1 { dev := src, pool := pool, frames := fs, until_ := s.tkp.now + 800, keys := keys.take depth }
        let gs : List Grant := ((locsOf o.1 pool fs).filter (isHere s)).map fun a => ⟨src, a % 2 ^ 40, pageBytesOf s pool, none, some l.2, s.tkp.now⟩
        let ga := addGrants l.1 gs
        if ga.2 then .next (replyHeld ga.1 src q seq stOk depth l.2 (fs.map fun f => (f, match frameAt ga.1 pool f with | some x => x.gen | none => 0)) (locsOf o.1 pool fs))
        else
          let back := fs.foldl (fun y f => (releasePage y pool f).1) o.1
          .next (replyHeld back src q seq stNoResource 0 0 [] [])

/-- A lease ends: its frames are released and its grants removed. -/
def endLease (s : State) (n : Nat) (l : PfxLease) : State :=
  let s1 := dropGrants s fun g => decide (g.lease = some n)
  let s2 : State := { s1 with mov := { s1.mov with leases := NMap.erase s1.mov.leases n } }
  l.frames.foldl (fun y f => (releasePage y l.pool f).1) s2

/-- PREFIX_UNPIN: the requester releases a pin; a publish that has copied its pages has its keys inserted (R246, log 25). -/
def execPrefixUnpin (src lease : Nat) (s0 : State) : Out :=
  let s := takeMsg s0 src 0x0112
  if !headIs s0 src 0x0112 then .next s0
  else match NMap.find? s.mov.leases lease with
  | none => .next s
  | some l =>
    if l.dev ≠ src then .next s
    else
      let s1 := (List.zip (List.range l.frames.length) (List.zip l.keys l.frames)).foldl (fun y e =>
        pfxInsert y l.pool (e.1 + 1) e.2.1 e.2.2 none false) s
      .next (endLease s1 lease l)

/-! ### The requester -/

/-- The grants of a fetch and the ranges it copies. -/
def fetchStart (s : State) (o : PfxOp) (locs : List Nat) : State :=
  let g := offerFrames ((roleOf s o.slice).role == 2) o.pool (List.range o.depth) s
  match g.2 with
  | none => pfxFail g.1 o stNoResource
  | some fs =>
    let n := pageBytesOf s o.pool
    setPfx g.1 { o with frames := fs, left := List.zipWith (fun a b => (a, n, b)) locs (locsOf g.1 o.pool fs) }

/-- PREFIX_HELD: the answer to a lookup, a pin or an offer. -/
def execPrefixHeld (src q seq status depth lease : Nat) (pages : List (Nat × Nat)) (locs : List Nat) (s0 : State) : Out :=
  let s := takeMsg s0 src 0x0111
  if !headIs s0 src 0x0111 then .next s0
  else match findPfx s q seq with
  | none => .next s
  | some o =>
    if o.opcode = 0x0214 then .next (lookupAnswer s q seq src depth pages)
    else if o.dev ≠ src ∨ o.lease ≠ 0 then .next s
    else if status ≠ stOk then .next (pfxFail s o status)
    else
      let o1 := { o with lease := lease, startTick := s.tkp.now }
      if depth < o.depth ∨ locs.length ≠ o.depth then .next (pfxFail s o1 stStale)
      else if o.opcode = 0x0215 then .next (fetchStart (setPfx s o1) o1 locs)
      else
        let n := pageBytesOf s o.pool
        .next (setPfx s { o1 with left := List.zipWith (fun a b => (a, n, b)) (locsOf s o.pool o.frames) locs })

/-- PREFIX_LEASE_EXPIRY: 800 ticks after the pin its frames are released, and a fetch or publish whose lease has ended is
TIMEOUT (R246). -/
def execPrefixLeaseExpiry (lease : Nat) (s : State) : Out :=
  let s1 := match NMap.find? s.mov.leases lease with
    | some l => if l.until_ ≤ s.tkp.now then endLease s lease l else s
    | none => s
  .next ((s1.mov.ops.filter fun o => o.lease == lease && lease != 0 && decide (o.startTick + 800 ≤ s1.tkp.now)).foldl
    (fun y o => pfxFail y o stTimeout) s1)

end Sys2Proof.Machine
end

