-- ==== Sys2Proof/Machine/Host.lean ====
section
/-!
DEFINITION. Doorbells, consumption and acceptance of commands, the admin queue and interrupt coalescing (16 R354, R356 to R370,
18 R406, R412, R415, 23 R493, R500).
-/
namespace Sys2Proof.Machine

/-! ### Doorbells (R356) -/

/-- A doorbell write outside its ring is ignored, and an event of subsystem 8 names the queue and the value. -/
def doorbellRange (s : State) : State := recordEvent s 0x8002 srcHw []

/-- A write of the request-ring tail of a PHY: each entry that it adds to those outstanding arrives in this tick (13 R278), and those that
it takes back have not arrived. -/
def fapiTail (s : State) (phy tail : Nat) : State :=
  match NMap.find? s.rad.phys phy with
  | none => s
  | some p =>
    let n := (tail + 2 ^ 16 - p.reqHead) % 2 ^ 16
    if p.entries < n then doorbellRange s
    else
      let p' : Phy := { p with reqTail := tail, arrivals := p.arrivals.take n ++ List.replicate (n - p.arrivals.length) s.tkp.now }
      { s with rad := { s.rad with phys := NMap.insert s.rad.phys phy p' } }

/-- A write of the indication-ring head of a PHY. -/
def fapiHead (s : State) (phy head : Nat) : State :=
  match NMap.find? s.rad.phys phy with
  | none => s
  | some p =>
    if p.entries < (p.indTail + 2 ^ 16 - head) % 2 ^ 16 then doorbellRange s
    else { s with rad := { s.rad with phys := NMap.insert s.rad.phys phy { p with indHead := head } } }

/-- SUBMISSION_DOORBELL: a write of HST_SQ_DB_q; ignored before READY (23 R493), for a queue that does not exist, and out of range. -/
def execSubmissionDoorbell (q tail : Nat) (s : State) : Out :=
  let t := tail % 2 ^ 16
  if !s.hst.ready then .next s
  else if 512 ≤ q then .next (if q < 520 then fapiTail s (q - 512) t else s)
  else
    match NMap.find? s.hst.queues q with
    | none => .next s
    | some x =>
      if 2 ^ x.sqLog < outstanding { x with tail := t } then .next (doorbellRange s) else .next (setQueue s q { x with tail := t })

/-- COMPLETION_DOORBELL: a write of HST_CQ_DB_q: records whose DONE completion the head has passed are freed, and held completions
are written (R357, R368). -/
def execCompletionDoorbell (q head : Nat) (s : State) : Out :=
  let h := head % 2 ^ 16
  if !s.hst.ready then .next s
  else if 512 ≤ q then .next (if q < 520 then fapiHead s (q - 512) h else s)
  else
    match NMap.find? s.hst.queues q with
    | none => .next s
    | some x =>
      if 2 ^ x.cqLog < unconsumed { x with head := h } then .next (doorbellRange s)
      else .next (flushHeld (freeRecs (setQueue s q { x with head := h }) q) q)

/-! ### Opcodes (R359) -/

/-- The opcodes that a slice queue may submit. -/
def sliceOpcodes : List Nat := [0x0000, 0x0003, 0x0200, 0x0201, 0x0202, 0x0210, 0x0211, 0x0214, 0x0215, 0x0216, 0x0410, 0x0510]

/-- The opcodes of commands bound to a seam, on which AT_TICK is valid (R358, 03 R48, R503). -/
def seamOpcodes : List Nat :=
  [0x0007, 0x0203, 0x0204, 0x0205, 0x0217, 0x0320, 0x0400, 0x0401, 0x0402, 0x0403, 0x0404, 0x0500, 0x0501, 0x0507, 0x0601, 0x0603,
   0x0620, 0x0720]

/-- The other opcodes. -/
def otherOpcodes : List Nat :=
  [0x0001, 0x0002, 0x0004, 0x0005, 0x0006, 0x0008, 0x0100, 0x0101, 0x0206, 0x0208, 0x0209, 0x020C, 0x020D, 0x0300, 0x0301,
   0x0502, 0x0503, 0x0504, 0x0505, 0x0506, 0x0508, 0x0600, 0x0602, 0x0710, 0x0711, 0x0712]

/-- An opcode of the table. -/
def knownOpcode (op : Nat) : Bool := sliceOpcodes.contains op || seamOpcodes.contains op || otherOpcodes.contains op

/-- Bytes of the result area of a command (R359): those of the result that it writes, as far as its rule fixes them; 1 byte where the
length depends on what the command finds. -/
def resultLen (s : State) (op : Nat) (params : List Byte) : Nat :=
  if op = 0x0003 then 4096
  else if op = 0x0004 then max 64 s.hst.reportBytes.length
  else if op = 0x0008 then 64
  else if op = 0x0602 then 576
  else if op = 0x0202 then 128
  else if op = 0x0200 then 32
  else if op = 0x0506 then 64
  else if op = 0x0210 then 16 + 2 * fieldAt params 40 2
  else if op = 0x0211 then 16
  else if op = 0x0214 then 8
  else if op = 0x0710 then 32
  else 1

/-! ### Consumption (R357, R361, R370) -/

/-- A command packet (R358). -/
structure CmdPacket where
  opcode : Nat
  flags  : Nat
  len    : Nat
  seq    : Nat
  param  : Nat
  result : Nat
  inl    : List Byte
deriving DecidableEq, Repr

/-- The 64 bytes of a submission entry as a packet. -/
def packetOf (b : List Byte) : CmdPacket :=
  { opcode := fieldAt b 0 2, flags := fieldAt b 2 2, len := fieldAt b 4 4, seq := fieldAt b 8 8, param := fieldAt b 16 8,
    result := fieldAt b 24 8, inl := b.drop 32 }

/-- FLAGS.PDEV. -/
def CmdPacket.pdev (p : CmdPacket) : Bool := p.flags.testBit 0
/-- FLAGS.AT_TICK. -/
def CmdPacket.atTick (p : CmdPacket) : Bool := p.flags.testBit 1
/-- FLAGS.INLINE. -/
def CmdPacket.inline (p : CmdPacket) : Bool := p.flags.testBit 3
/-- The tick that AT_TICK names. -/
def CmdPacket.tick (p : CmdPacket) : Nat := fieldAt p.inl 24 8

/-- Reserved flags, length and alignment (R358). -/
def CmdPacket.formOk (p : CmdPacket) : Bool :=
  decide (p.flags < 16) && decide (p.len ≤ 65536) && p.param % 8 == 0 && p.result % 8 == 0 &&
  (!p.inline || (decide (p.len ≤ if p.atTick then 24 else 32) && p.param == 0))

/-- The parameters of a packet, and whether their read succeeds. -/
def packetParams (s : State) (pas : Option Nat) (p : CmdPacket) (ioOk : Bool) : List Byte × Bool :=
  if p.inline then (p.inl.take p.len, true)
  else if p.len = 0 then ([], true)
  else if p.pdev then (viewRead s p.param p.len, !badRange s p.param p.len)
  else (hostRead s pas p.param p.len, ioOk)

/-- The first case of R361 that refuses a packet whose number is next; stOk if none does. `x` is its queue. -/
def packetStatus (s : State) (q : Nat) (x : Queue) (p : CmdPacket) (ioOk : Bool) : Nat :=
  let area := fun (a n : Nat) => usableRange s a n && !inR13 s a n
  let params := packetParams s x.pas p ioOk
  if !p.formOk ∨ !knownOpcode p.opcode ∨ (p.atTick ∧ (!seamOpcodes.contains p.opcode ∨ s.tkp.now + 80000 < p.tick)) then stInvalid
  else if (!x.system ∧ !sliceOpcodes.contains p.opcode) ∨ (p.opcode = 0x0001 ∧ q ≠ 0) then stDenied
  else if p.atTick ∧ p.tick < applyTick s then stLate
  else if p.pdev ∧ ((!p.inline ∧ p.len ≠ 0 ∧ !area p.param p.len) ∨
      (p.result ≠ 0 ∧ !area p.result (resultLen s p.opcode params.1))) then stInvalid
  else if !params.2 then stInvalid
  else stOk

/-- The one completion of a duplicate (R370). -/
def postDup (s : State) (q : Nat) (p : CmdPacket) : State :=
  postCpl s q (match findRec s q p.seq with
    | some r => if r.stage = 3 then cplBytes p.seq r.status 2 2 q r.opcode r.value r.tick else cplBytes p.seq stAccepted 1 2 q r.opcode 0 r.tick
    | none => cplBytes p.seq stStale 2 2 q p.opcode 0 s.tkp.now)

/-- The journal record of a packet. -/
def recOf (s : State) (q : Nat) (x : Queue) (p : CmdPacket) (params : List Byte) (stage : Nat) : JRec :=
  { q := q, seq := p.seq, opcode := p.opcode, flags := p.flags, params := params, resultPtr := p.result,
    tickArg := if p.atTick then some p.tick else none, pasid := x.pas, stage := stage, status := 0,
    value := 0, order := s.hst.order, tick := s.tkp.now, beat := s.tkp.beat, doneAt := none, mirAt := s.hst.mirCursor, mirLeft := 0 }

/-- A record joins the journal. -/
def addRec (s0 : State) (r : JRec) : State :=
  let s := journalPut s0 r
  { s with hst := { s.hst with journal := s.hst.journal ++ [r], order := s.hst.order + 1, mirCursor := s.hst.mirCursor + recUnits r
                               qPasid := NMap.insert s.hst.qPasid r.q (match r.pasid with | some p => p + 1 | none => 0) } }

/-- ACCEPTED_SEQ takes a sequence number. -/
def takeSeq (s : State) (q seq : Nat) : State := { s with hst := { s.hst with accSeq := NMap.insert s.hst.accSeq q seq } }

/-- No processor restarts, no handover runs, no reset is in progress, and the device serves (18 R406, R409, 20 R435). -/
def consumes (s : State) : Bool :=
  s.hst.ready && s.ras.state == 0 && s.fw.phase != 2 && s.fw.cpState.all (fun (c : Nat × Nat) => c.2 != 2)

/-- The conditions of R357 on a queue, and those under which a host ring may be read (23 R500); one entry at a time. -/
def mayConsume (s : State) (q : Nat) (x : Queue) (p : CmdPacket) : Bool :=
  consumes s && decide (0 < outstanding x) && x.heldC.isEmpty && decide (unconsumed x + 2 ≤ cqLimit x) &&
  decide (journalUsed s + 2 + (min p.len 65536 + 63) / 64 ≤ journalCapacity) && !s.hst.mirrorLost &&
  (x.devring || s.hst.busMaster) && s.hst.journal.all fun r => !(r.q == q && r.stage == 0)

/-- The next entry of a queue's ring. -/
def nextEntry (s : State) (x : Queue) : List Byte :=
  let a := x.sqBase + 64 * (x.consumed % 2 ^ x.sqLog)
  if x.devring then viewRead s a 64 else hostRead s x.pas a 64

/-- Queues of a rank with an entry that may be consumed, ascending. -/
def readyQueues (s : State) (system : Bool) : List Nat :=
  (s.hst.queues.filter fun (e : Nat × Queue) => e.2.system == system && mayConsume s e.1 e.2 (packetOf (nextEntry s e.2))).map (·.1)

/-- The queue whose turn it is among those with entries ready, and the pointer that decides: the admin and SYSTEM queues (4) before those of the
slices (5), and of a rank the first at or above its pointer, with wrap-around (17 R397). FAPI requests are consumed by commands of their own, and
every ready queue is held to ask in the cycle of a COMMAND_CONSUME (DESIGN CHOICE, log 112). -/
def consumeTurn (s : State) : Option (Nat × Nat) :=
  let pick := fun (k : Nat) (qs : List Nat) => (qs.find? fun q => decide (NMap.getD s.dies.tilePtr k 0 ≤ q)).orElse fun _ => qs.head?
  match pick 4 (readyQueues s true) with
  | some q => some (q, 4)
  | none => (pick 5 (readyQueues s false)).map fun q => (q, 5)

/-- A queue has had its turn: its pointer stands one past it. -/
def tookTurn (s : State) (q k : Nat) : State :=
  { s with dies := { s.dies with tilePtr := NMap.insert s.dies.tilePtr k ((q + 1) % 512) } }

/-- COMMAND_CONSUME: the next entry of a queue, where it is that queue's turn, is consumed, traced (18 R417, point 0) and checked. A packet that passes is
journalled and, in mirrored mode, its copy sent to the partner; COMMAND_ACCEPT accepts it. `ioOk` says that the IOMMU lets the
parameter read through. -/
def execCommandConsume (q : Nat) (ioOk : Bool) (s : State) : Out :=
  match NMap.find? s.hst.queues q with
  | none => .next s
  | some x =>
    let p := packetOf (nextEntry s x)
    if !mayConsume s q x p ∨ (consumeTurn s).map (·.1) ≠ some q then .next s
    else
      let k := if x.system then 4 else 5
      let s1 := trace (setQueue (tookTurn s q k) q { x with consumed := x.consumed + 1 }) 0 0 q p.seq
      if p.seq ≤ acceptedSeq s q then .next (postDup s1 q p)
      else if acceptedSeq s q + 1 < p.seq then .next (postCpl s1 q (cplBytes p.seq stInvalid 2 0 q p.opcode 0 s.tkp.now))
      else
        let st := packetStatus s q x p ioOk
        let params := (packetParams s x.pas p ioOk).1
        let s2 := if p.pdev ∧ !p.inline ∧ !(packetParams s x.pas p ioOk).2 then recordUncorrected s1 p.param p.len else s1
        if st = stOk then
          let s3 := addRec s2 (recOf s2 q x p params 0)
          .next (if s.hst.mirrored then mirrorStore s3 q p.seq else s3)
        else
          .next (finish (takeSeq (addRec s2 (recOf s2 q x p (if st = stInvalid then [] else params) 1)) q p.seq) q p.seq st 0)

/-- COMMAND_ACCEPT: the journalled record of a queue is accepted once the partner has acknowledged its copy, and its ACCEPTED
completion is written (R364, R368). An AT_TICK that R49 no longer allows at acceptance is refused LATE (R358). -/
def execCommandAccept (q : Nat) (s : State) : Out :=
  match s.hst.journal.find? (fun r => r.q == q && r.stage == 0) with
  | none => .next s
  | some r =>
    if s.hst.mirrored ∧ r.mirLeft ≠ 0 then .next s
    else
      let s0 : State := { s with hst := { s.hst with order := s.hst.order + 1 } }
      let s1 := takeSeq (modRec s0 q r.seq fun x => { x with stage := 1, order := s.hst.order, tick := s.tkp.now, beat := s.tkp.beat }) q r.seq
      if r.tickArg.any (fun t => decide (t < applyTick s)) then .next (finish s1 q r.seq stLate 0)
      else .next (postCpl s1 q (cplBytes r.seq stAccepted 1 0 q r.opcode 0 s.tkp.now))

/-- INTERRUPT_COALESCE_TIMER: CO_US after the first unsignalled completion the queue's vector is signalled (R366). -/
def execInterruptCoalesceTimer (q : Nat) (s : State) : Out :=
  match NMap.find? s.hst.queues q with
  | none => .next s
  | some x =>
    if x.unsig = 0 ∨ launch s < x.unsigAt + 10 * x.coUs then .next s
    else
      .next (signalVec (setQueue s q { x with unsig := 0 }) x.vector)

/-! ### The admin queue (R354) -/

/-- The writable fields of HST_AQ_CFG. -/
def aqMask : W64 := 0xFFFFFFFF03FF03FF

/-- A write of HST_AQ_CFG stores its fields and clears VERSION, INVALID and BUSY. -/
def aqWrite (s : State) (v : W64) : State :=
  { s with hst := { s.hst with aqCfg := v &&& aqMask, aqVersion := false, aqInvalid := false, aqBusy := false } }

/-- The admin queue that HST_AQ_CFG describes; every completion signals (log 33). -/
def adminQueue (s : State) : Queue :=
  let c := s.hst.aqCfg.toNat
  { system := true, devring := false, sqBase := s.hst.aqSq.toNat, cqBase := s.hst.aqCq.toNat, sqLog := bitsOf c 3 0, cqLog := bitsOf c 7 4,
    vector := bitsOf c 25 16, pasid := 0, coN := 1, coUs := 0 }

/-- Orphan mode ends (18 R415). -/
def orphanEnds (s : State) : State :=
  if s.hst.orphan then trace { s with hst := { s.hst with orphan := false }, fw := { s.fw with quiesced := false } } 6 0xFF 0 s.tkp.now else s

/-- ADMIN_QUEUE_ENABLE: HST_AQ_CFG written with EN = 1. Ignored before READY; a queue that is enabled stays as it is (log 33). -/
def execAdminQueueEnable (value : W64) (s : State) : Out :=
  if !s.hst.ready ∨ !value.getLsbD 8 then .next s
  else
    let s1 := aqWrite s value
    let x := adminQueue s1
    if (NMap.find? s.hst.queues 0).isSome then .next s1
    else if bitsOf value.toNat 63 32 ≠ s.hst.cmdsetRev then .next { s1 with hst := { s1.hst with aqVersion := true } }
    else if x.sqLog < 4 ∨ 12 < x.sqLog ∨ x.cqLog < 4 ∨ 12 < x.cqLog then .next { s1 with hst := { s1.hst with aqInvalid := true } }
    else if !value.getLsbD 9 ∧ !(openRecs s 0).isEmpty then .next { s1 with hst := { s1.hst with aqBusy := true } }
    else
      let s2 := createQueue (orphanEnds s1) 0 x (value.getLsbD 9)
      .next { s2 with fw := { s2.fw with beatTick := s.tkp.now } }

/-- ADMIN_QUEUE_DELETE: HST_AQ_CFG written with EN = 0. -/
def execAdminQueueDelete (value : W64) (s : State) : Out :=
  if !s.hst.ready ∨ value.getLsbD 8 then .next s
  else
    let s1 := aqWrite s value
    if (NMap.find? s.hst.queues 0).isNone then .next s1
    else if !(openRecs s 0).isEmpty then .next { s1 with hst := { s1.hst with aqBusy := true } }
    else .next (dropQueue s1 0)

/-- BUS_MASTERING_ENABLE (23 R500): ring entries of the PHY instances are read again, and DMA to host memory may start. -/
def execBusMasteringEnable (s : State) : Out :=
  .next { s with hst := { s.hst with busMaster := true }, rad := { s.rad with noL2Bus := false } }

end Sys2Proof.Machine
end

