-- ==== Sys2Proof/Machine/Power.lean ====
section
/-!
DEFINITION. The lid, the power governor and thermal throttling (02 R19 to R36), telemetry (R34) and the seam-bound
fields of PWR_CAP.
-/
namespace Sys2Proof.Machine

/-! ### Seam-bound fields (03 R48 to R50) -/

/-- A write lands in the shadow. -/
def Rwt.write (r : Rwt) (v : Nat) : Rwt := { r with shadow := v }
/-- The shadow is copied to staging. -/
def Rwt.stage (r : Rwt) : Rwt := { r with staging := r.shadow }
/-- The staging is applied. -/
def Rwt.apply (r : Rwt) : Rwt := { r with applied := r.staging }

/-! ### Shutdown -/

/-- What is left after PWR_GOOD has fallen: host memory, the lid's own state, and what the flash recorder area keeps
(23 R501, 22 R487 to R489, 02 R26, R36). -/
def coldLoss (s : State) : State :=
  { State.reset with
    pending := s.pending, freeN := s.freeN,
    pwr := { State.reset.pwr with vinMv := s.pwr.vinMv, bulkMv := s.pwr.bulkMv, pwrEn := s.pwr.pwrEn, tripLatch := s.pwr.tripLatch,
                                  thermtrip := s.pwr.thermtrip },
    mem := { State.reset.mem with host := s.mem.host },
    fla := { State.reset.fla with eraseCnt := s.fla.eraseCnt, bad := s.fla.bad },
    evr := { State.reset.evr with persistedRecs := s.evr.persistedRecs, persistedOps := s.evr.persistedOps,
                                  flashPcc := s.evr.flashPcc, flashRetire := s.evr.flashRetire } }

/-- The lid shuts the device down (R23). -/
def lidShutdown (s : State) : State := coldLoss s

/-- The step of the rail sequence that is reached when the rails of the first `regs` steps are in regulation: each step begins only
when those before it are (R25). -/
def railReached (step regs : Nat) : Nat := max step (min 7 (regs + 1))

/-- POWER_UP (R25): with PWR_EN high and the bulk at 43 V the rails come up in order, as far as the steps that have come into
regulation. Once the check of step 7 has passed PWR_GOOD rises: TIM_RAW starts at 0 and tick 0 begins (23 R492 step 1). A device whose
THERMTRIP_N is asserted stays down (R36). -/
def execPowerUp (v : RailLevels) (s : State) : Out :=
  if s.pwr.pwrGood ∨ s.pwr.thermtrip then .next s
  else if s.pwr.railStep = 0 ∧ v.bulkMv < 43000 then .next { s with pwr := { s.pwr with pwrEn := true, bulkMv := v.bulkMv } }
  else
    let up : Power := { s.pwr with pwrEn := true, bulkMv := v.bulkMv, railStep := railReached s.pwr.railStep v.regs }
    if v.regs < 7 then .next { s with pwr := up }
    else .next { s with pwr := { up with pwrGood := true, stageOne := true },
                        tim := { s.tim with raw := 0 }, tkp := { s.tkp with now := 0, beat := 0 },
                        start := { s.start with step := 1 } }

/-- POWER_DOWN (R25): PWR_EN falls, and the rails go down in reverse order from the step reached; THERMTRIP_N is released (R36). -/
def execPowerDown (s : State) : Out :=
  let s1 := coldLoss s
  .next { s1 with pwr := { s1.pwr with pwrEn := false, thermtrip := false } }

/-! ### Input faults -/

/-- An admission hold on every open tile (R22), which latches attention class 4 (16 R367). -/
def holdAll (s : State) : State := latchAttn { s with pwr := { s.pwr with holdIn := true } } 4

/-- An input interruption begins, or goes on: BROWNOUT, its event, and the hold on every open tile; its time counts from its
first fall (R22, R23). -/
def interruptIn (s : State) : State :=
  let p : Power := { s.pwr with interrupted := true, brownoutSt := true, fellAt := s.pwr.fellAt.orElse fun _ => some s.tim.raw }
  holdAll (recordEvent { s with pwr := p } 0xB001 srcHw [])

/-- The lid notes the levels it measures. -/
def Power.meter (p : Power) (v : InputLevels) : Power := { p with vinMv := v.vinMv, bulkMv := v.bulkMv }

/-- The input has returned above 42 V; the interruption ends unless stage one is still stopped by an overvoltage (R23, R24). -/
def inReturns (p : Power) : Power :=
  { p with inLow := false, interrupted := !p.stageOne, fellAt := if p.stageOne then none else p.fellAt }

/-- BROWNOUT (R22): the input has fallen below 42 V; a further report below it only tells the levels, and one above 42 V is its return (R23). With the rails down the levels are only
noted, and 0 V removes the lid's latch and its THERMTRIP_N (R26, R36). -/
def execBrownout (v : InputLevels) (s : State) : Out :=
  let p := s.pwr.meter v
  if 42000 ≤ v.vinMv then .next (if 42000 < v.vinMv ∧ s.pwr.pwrGood ∧ s.pwr.inLow then { s with pwr := inReturns p } else s)
  else if s.pwr.pwrGood then .next (if s.pwr.inLow then { s with pwr := p } else interruptIn { s with pwr := { p with inLow := true } })
  else if v.vinMv = 0 then .next { s with pwr := { p with tripLatch := none, thermtrip := false } }
  else .next { s with pwr := p }

/-- The interruption in progress has lasted 2 ms of TIM_RAW (R23). -/
def lasted2ms (s : State) : Bool := match s.pwr.fellAt with | some f => decide (f + 2000000 ≤ s.tim.raw) | none => false

/-- BROWNOUT_SHUTDOWN: the interruption has lasted 2 ms (R23), or the bulk, which carries the load, was last
measured at 30 V, at which the lid stops conversion (R21). -/
def execBrownoutShutdown (s : State) : Out :=
  if s.pwr.pwrGood ∧ s.pwr.interrupted ∧ (lasted2ms s ∨ s.pwr.bulkMv ≤ 30000) then .next (lidShutdown s) else .next s

/-- OVERVOLT (R24): above 59 V stage one stops, which is an input interruption with all that R22 says of one. While it
is stopped a further report only tells the levels. -/
def execOvervolt (v : InputLevels) (s : State) : Out :=
  if 59000 < v.vinMv ∧ s.pwr.pwrGood ∧ !s.pwr.stageOne then .next { s with pwr := s.pwr.meter v }
  else if 59000 < v.vinMv ∧ s.pwr.pwrGood then
    let s1 : State := { s with pwr := { s.pwr.meter v with stageOne := false, overvoltSt := true } }
    .next (interruptIn (recordEvent s1 0xB004 srcHw []))
  else .next s

/-- OVERVOLT_CLEAR (R24): below 57 V stage one restarts. -/
def execOvervoltClear (vinMv : Nat) (s : State) : Out :=
  if vinMv < 57000 ∧ s.pwr.pwrGood ∧ !s.pwr.stageOne then
    let fell := if s.pwr.inLow then s.pwr.fellAt else none
    .next { s with pwr := { s.pwr with vinMv := vinMv, stageOne := true, interrupted := s.pwr.inLow, fellAt := fell } }
  else .next s

/-- CURRENT_WARNING (R26): a compute die's core current has reached 430 A; its open tiles are held from the next beat.
A die that is held stays so. -/
def execCurrentWarning (die amps : Nat) (s : State) : Out :=
  if die < 4 ∧ 430 ≤ amps ∧ s.pwr.pwrGood ∧ NMap.find? s.pwr.holdDie die = none then
    .next (latchAttn { s with pwr := { s.pwr with holdDie := NMap.insert s.pwr.holdDie die (launch s + 1) } } 4)
  else .next s

/-- RAIL_TRIP (R26): a rail has stayed at its trip level; the lid latches it and shuts down. -/
def execRailTrip (rail : Nat) (s : State) : Out :=
  if s.pwr.pwrGood then .next (lidShutdown { s with pwr := { s.pwr with tripLatch := some rail } }) else .next s

/-- The lowest open duty over the four compute dies (PWR_STATUS.DUTY). -/
def dutyMin (s : State) : Nat := min (min (dutyOf s 0) (dutyOf s 1)) (min (dutyOf s 2) (dutyOf s 3))

/-! ### Heat (R35, R36), temperatures in units of 0.125 °C -/

/-- The thermal duty of a die from its temperature, its previous duty and whether it throttles: the new duty and
whether it throttles on. -/
def thermalStep (t : Int) (prev : Nat) (on : Bool) : Nat × Bool :=
  if 840 ≤ t then (0, true)
  else if 800 ≤ t then (prev - 124, true)
  else if !on then (1234, false)
  else if 776 ≤ t then (prev, true)
  else if 1234 ≤ prev + 62 then (1234, false)
  else (prev + 62, true)

/-- The temperature that acts on a compute die: its own, or that of a horizon die at 100 °C or above. -/
def actingTemp (own : Int) (hd : List Int) : Int := hd.foldl (fun m h => if 800 ≤ h then max m h else m) own

/-- THERMAL_SAMPLE (R35, R36): the hottest sensor of each die, decks included. The duty moves once a tick; the shutdown at 110 °C comes
at any moment. -/
def execThermalSample (cd hd : List Int) (s : State) : Out :=
  if !s.pwr.pwrGood then .next s
  else if (cd ++ hd).any (fun t => decide (880 ≤ t)) then
    .next (lidShutdown { s with pwr := { s.pwr with thermtrip := true } })
  else if s.pwr.thermAt = s.tkp.now + 1 then .next s
  else
    let res := (List.range 4).map fun d =>
      thermalStep (actingTemp (cd.getD d 0) hd) (NMap.getD s.pwr.thermDuty d 1234) (NMap.find? s.pwr.throttled d).isSome
    let duty : NMap Nat := (List.range 4).map fun d => (d, (res.getD d (1234, false)).1)
    let thr : NMap Nat := (List.range 4).filterMap fun d => if (res.getD d (1234, false)).2 then some (d, 1) else none
    let s1 : State := { s with pwr := { s.pwr with thermDuty := duty, throttled := thr, hottest := cd ++ hd, thermAt := s.tkp.now + 1 } }
    .next (if s.pwr.throttled.isEmpty ∧ !thr.isEmpty then latchAttn s1 4 else s1)

/-! ### The governor (R29, R30, 18 R399) -/

/-- The cap command's fields land in the shadows of PWR_CAP. -/
def powerCapLand (r : JRec) (s : State) : State :=
  { s with pwr := { s.pwr with cap := s.pwr.cap.write (min (r.par 0 2) 4095), margin := s.pwr.margin.write (r.par 2 1) } }

/-- A cap command that names no tick, accepted later than `r`, waits for the coming seam: its values stand (16 R369, R6). -/
def capLater (s : State) (r : JRec) : Bool :=
  s.tkp.seamQ.any fun c => decide (c.tick ≤ s.tkp.now + 1) && match findRec s c.q c.seq with
    | some x => x.opcode == 0x0601 && x.tickArg.isNone && decide (r.order < x.order)
    | none => false

/-- A cap command lands before its seam: it names its tick, and no later one has landed for the same seam. -/
def capLands (s : State) (r : JRec) : Bool := r.opcode == 0x0601 && r.tickArg.isSome && !capLater s r

/-- The PWR_CAP fields of the next tick: the shadows, with the cap commands that name the next tick and have not landed yet (R29, R31). -/
def capNext (s : State) : State :=
  (s.tkp.seamQ.filter fun c => decide (c.tick ≤ s.tkp.now + 1) && !c.checked).foldl (fun y c =>
    match findRec s c.q c.seq with
    | some r => if capLands s r then powerCapLand r y else y
    | none => y) s

/-- A power cap as it is applied: 1,200 W to 1,800 W. -/
def clampCap (w : Nat) : Nat := max 1200 (min 1800 w)
/-- A margin as it is applied: 16 W or more. -/
def clampMargin (w : Nat) : Nat := max 16 w

/-- A ratio in lowest terms. -/
def ratio (n d : Nat) : Nat × Nat := if Nat.gcd n d = 0 then (n, d) else (n / Nat.gcd n d, d / Nat.gcd n d)

/-- k after a tick: k + (openMw / beats - k) / 8; with no beat used it stays (R29). -/
def nextK (k : Nat × Nat) (openMw beats : Nat) : Nat × Nat :=
  if beats = 0 then k else ratio (7 * k.1 * beats + openMw * k.2) (8 * k.2 * beats)

/-- Logical tiles outside the floor of a plan. -/
def openTiles (p : Plan) : Nat := ((List.range 160).filter fun t => !p.floorMask.getLsbD t).length

/-- The duty that the budget allows, before the thermal duty: min(max(duty, 0), 1234); with k × open_tiles at 0 the
budget sets no bound (log 5). -/
def budgetDuty (budgetMw : Int) (k : Nat × Nat) (opens : Nat) : Nat :=
  if budgetMw < 0 then 0
  else if k.1 * opens = 0 then 1234
  else min 1234 (budgetMw.toNat * k.2 / (k.1 * opens))

/-- The plan of the next tick, if the ring holds it sealed. -/
def nextPlan (s : State) : Option Plan :=
  match NMap.find? s.tkp.plans ((s.tkp.now + 1) % 16) with
  | some p => if p.tick = s.tkp.now + 1 then some p else none
  | none => none

/-- The gust limiter's prediction of the floor's power in a plan: what its header says, refined with the measured powers of the last 64
ticks of equal floor, if there were any (R33, log 90). -/
def floorPrediction (s : State) (p : Plan) : Nat :=
  match NMap.getD s.pwr.floorHist p.floorMask.toNat [] with
  | [] => p.floorPred
  | past => Config.refine p.floorPred past

/-- The measured floor power of this tick joins those of its floor. -/
def noteFloor (s : State) (mw : Nat) : NMap (List Nat) :=
  match currentPlan s with
  | some p => NMap.modify s.pwr.floorHist [] p.floorMask.toNat fun l => (mw :: l).take 64
  | none => s.pwr.floorHist

/-- The least of a duty and each die's thermal duty (R29). -/
def perDieDuty (s : State) (duty : Nat) : NMap Nat := (List.range 4).map fun d => (d, min duty (NMap.getD s.pwr.thermDuty d 1234))

/-- GOVERNOR_DUTY (R29, R30): once in a tick, before the dusk band, the open duty of the next tick from the measured powers of this one;
while CP7 restarts, the lowest duty of its last 64 ticks (18 R399), the thermal duty going on in hardware (18 R398). -/
def execGovernorDuty (inMw floorMw openMw beatsUsed : Nat) (s : State) : Out :=
  if 1234 ≤ s.tkp.beat ∨ s.pwr.govAt = s.tkp.now + 1 then .next s
  else if cpState s 7 = 2 then
    .next { s with pwr := { s.pwr with nextDuty := perDieDuty s (s.pwr.duties64.foldl min 1234), govAt := s.tkp.now + 1 } }
  else if cpState s 7 ≠ 1 then .next s
  else
    let floorDw : Nat := match nextPlan s with | some p => floorPrediction s p | none => s.pwr.predFloor
    let opens : Nat := match nextPlan s with
      | some p => openTiles p
      | none => match currentPlan s with | some p => openTiles p | none => 160
    let sysMw : Int := (inMw : Int) - floorMw - openMw
    let limit : Int := 1000 * (clampCap (capNext s).pwr.cap.shadow : Int) - 1000 * (clampMargin (capNext s).pwr.margin.shadow : Int)
    let budget : Int := limit - sysMw - 100 * (floorDw : Int)
    let duty := budgetDuty budget s.pwr.kEst opens
    let low := (perDieDuty s duty).foldl (fun m e => min m e.2) 1234
    let s1 : State := { s with pwr := { s.pwr with nextDuty := perDieDuty s duty, nextPred := floorDw,
                                                   kEst := nextK s.pwr.kEst openMw beatsUsed, govAt := s.tkp.now + 1,
                                                   duties64 := (low :: s.pwr.duties64).take 64, floorHist := noteFloor s floorMw } }
    if budget < 0 then
      let s2 := recordEvent { s1 with pwr := { s1.pwr with capExceeded := true } } 0xB002 7 []
      .next (if s.pwr.capExceeded then s2 else latchAttn s2 4)
    else .next s1

/-! ### Telemetry (R34) -/

/-- PWR_STATUS bits [5:0]. -/
def pwrFlags (s : State) : Nat :=
  bit1 (decide (dutyMin s < 1234)) + 2 * bit1 (s.pwr.holdIn || !s.pwr.holdDie.isEmpty) + 4 * bit1 (!s.pwr.throttled.isEmpty) +
    8 * bit1 s.pwr.capExceeded + 16 * bit1 s.pwr.brownoutSt + 32 * bit1 s.pwr.overvoltSt

/-- `n` values of 16 bits. -/
def words16 (n : Nat) (l : List Nat) : List Byte := ((List.range n).map fun i => leBytes 2 (l.getD i 0)).flatten

/-- The telemetry record of the current tick. -/
def telemetryBytes (s : State) (e : TelEnv) : List Byte :=
  let floorTiles := match currentPlan s with | some p => 160 - openTiles p | none => 0
  let temps := (List.range 6).map fun i => (BitVec.ofInt 16 (s.pwr.hottest.getD i 0)).toNat
  leBytes 8 s.tkp.now ++ leBytes 2 e.vinMv ++ leBytes 2 e.iinMa ++ leBytes 2 e.pinDw ++ leBytes 2 floorTiles ++
    words16 4 e.cdDw ++ words16 2 e.hdDw ++ leBytes 2 s.pwr.predFloor ++ leBytes 2 0 ++
    words16 4 ((List.range 4).map (dutyOf s)) ++ words16 6 temps ++ leBytes 2 (pwrFlags s) ++ List.replicate 10 0

/-- The readings of sensors 1 to 15 at the completion of a tick's telemetry record (22 R480). -/
def sensorValues (s : State) (e : TelEnv) : List Int :=
  let floorTiles := match currentPlan s with | some p => 160 - openTiles p | none => 0
  [(e.vinMv : Int), e.iinMa, e.pinDw] ++ (List.range 6).map (fun i => s.pwr.hottest.getD i 0) ++
    [(s.ras.score : Int), dutyMin s, floorTiles, s.tim.state, s.fla.sparePermil, s.ras.state]

/-- TELEMETRY_RECORD (R34): the one record of the tick goes to the ring at PWR_TEL_BASE, which is 0 until firmware sets it. -/
def execTelemetryRecord (e : TelEnv) (s : State) : Out :=
  if s.pwr.telBase = 0 ∨ s.pwr.telAt = s.tkp.now + 1 then .next s
  else
    let s1 := devPut s (s.pwr.telBase + 64 * s.pwr.telWidx) (telemetryBytes s e)
    .next { s1 with pwr := { s1.pwr with telWidx := (s.pwr.telWidx + 1) % 4096, telAt := s.tkp.now + 1, lastTel := e, sensors := sensorValues s e } }

/-! ### POWER_CAP (R31, 16 R359) -/

/-- The checks of POWER_CAP on its fields: every value is applied within its range. -/
def powerCapFields (r : JRec) (_ : State) : Nat := if r.params.length = 3 then stOk else stInvalid

/-- A cap command that names no tick writes PWR_CAP as it is accepted, and its values land (03 R48, R49, R51); one that names a
tick lands before its seam. -/
def powerCapAsk (r : JRec) (s : State) : State := if r.tickArg.isNone then landed (powerCapLand r s) else s

/-- POWER_CAP (opcode 0x0601): bound to a seam (03 R48, R503). -/
def execPowerCap (q seq : Nat) (s : State) : Out :=
  .next (withCmd s q seq 0x0601 fun r s =>
    let st := powerCapFields r s
    if st = stOk then queueSeam (powerCapAsk r s) r else finishAt s q seq st 0 (seamTick s r))

/-- The staging of PWR_CAP takes the shadows. -/
def pwrStage (s : State) : State := { s with pwr := { s.pwr with cap := s.pwr.cap.stage, margin := s.pwr.margin.stage } }

/-- The fields of PWR_CAP are applied at the seam, within their ranges. -/
def pwrApply (s : State) : State :=
  { s with pwr := { s.pwr with cap := { s.pwr.cap with applied := clampCap s.pwr.cap.staging },
                               margin := { s.pwr.margin with applied := clampMargin s.pwr.margin.staging } } }

/-- What the seam does to holds and duty: the duty computed for the new tick applies, a substituted plan keeps the old
one (03 R55); the hold of R22 ends after a whole tick above 44 V and that of R26 below the warning level. -/
def pwrSeam (s : State) (e : SeamEnv) (substituted : Bool) : State :=
  let ok := decide (44000 < e.vinMin)
  { s with pwr := { s.pwr with
      openDuty := if substituted then s.pwr.openDuty else s.pwr.nextDuty
      predFloor := s.pwr.nextPred
      vinMv := e.vinMin
      inLow := if 42000 < e.vinMin then false else s.pwr.inLow
      interrupted := if 42000 < e.vinMin then !s.pwr.stageOne else s.pwr.interrupted
      fellAt := if 42000 < e.vinMin ∧ s.pwr.stageOne then none else s.pwr.fellAt
      holdIn := if ok ∧ s.pwr.stageOne then false else s.pwr.holdIn
      holdDie := s.pwr.holdDie.filter fun h => decide (430 ≤ e.cdAmps.getD h.1 0) } }

end Sys2Proof.Machine
end

