-- ==== Sys2Proof/Machine/RegView.lean ====
section
/-!
DEFINITION. The registers of BAR0 as a read finds them: one function per block, by the offset of a register in its block (00 R5 to
R7, 16 R353). A read returns the shadow of a seam-bound field (00 R5). An offset that no register has reads 0.
-/
namespace Sys2Proof.Machine

/-- Device time T in nanoseconds at a raw count (15 R337). -/
def timeAt (s : State) (raw : Nat) : Nat :=
  let d : Int := (raw : Int) - s.tim.baseRaw
  (s.tim.baseNs + d + s.tim.rate * d / 2 ^ 48).toNat

/-- Device time now. -/
def timeNow (s : State) : Nat := timeAt s s.tim.raw

/-- The first raw count at which device time has reached `t` ns (15 R337): the inverse of `timeAt`. -/
def rawAt (s : State) (t : Int) : Nat :=
  let r : Int := 2 ^ 48 + s.tim.rate
  (s.tim.baseRaw + ((t - s.tim.baseNs) * 2 ^ 48 + r - 1) / r).toNat

/-- TIM_RAW when device time has reached `t`: the nanoseconds up to then have passed, and it never goes back (15 R336). -/
def rawOn (s : State) (t : Int) : Nat := max s.tim.raw (rawAt s t) % 2 ^ 64

/-- The low `w` bits of a signed number. -/
def intBits (w : Nat) (v : Int) : Nat := (v % 2 ^ w).toNat

/-! ### GLB and HST (16) -/

/-- GLB_ID. -/
def glbId (s : State) : Nat := 0x4824 + 0xB1 * 2 ^ 16 + s.hst.cmdsetRev * 2 ^ 32

/-- GLB_MEM. -/
def glbMem (s : State) : Nat :=
  s.hst.usableGib + s.hst.interGib * 2 ^ 16 + bit1 s.hst.clamshell * 2 ^ 32 + bit1 s.hst.ecc * 2 ^ 33 +
  bit1 (s.hst.nand && s.fla.state != 3) * 2 ^ 34

/-- GLB_ATTN: PENDING and CURRENT (R367). -/
def glbAttn (s : State) : Nat :=
  ((List.range 8).map fun c => if c ≠ 0 ∧ attnPending s c then 2 ^ c else 0).sum + attnCurrent s * 2 ^ 16

/-- The GLB block. -/
def glbReg (s : State) (o : Nat) : Nat :=
  match o with
  | 0x0000 => glbId s
  | 0x0008 => glbMem s
  | 0x0010 => glbAttn s
  | _ => 0

/-- HST_STATUS.JFULL: the journal has no room for the smallest record. -/
def journalFull (s : State) : Bool := decide (journalCapacity < journalUsed s + 2)

/-- HST_STATUS. -/
def hstStatus (s : State) : Nat :=
  bit1 s.hst.ready + 2 * bit1 (journalFull s) + 4 * bit1 s.hst.mirrored + 8 * bit1 s.hst.mirrorLost + 16 * bit1 s.hst.orphan +
  32 * bit1 s.hst.report + s.hst.queues.length * 2 ^ 16

/-- HST_AQ_STATUS. -/
def aqStatus (s : State) : Nat :=
  bit1 (NMap.find? s.hst.queues 0).isSome + 2 * bit1 s.hst.aqVersion + 4 * bit1 s.hst.aqInvalid + 8 * bit1 s.hst.aqBusy

/-- The HST block; the doorbells and the heartbeat are write-only. -/
def hstReg (s : State) (o : Nat) : Nat :=
  match o with
  | 0x0000 => hstStatus s
  | 0x0008 => s.hst.aqSq.toNat
  | 0x0010 => s.hst.aqCq.toNat
  | 0x0018 => s.hst.aqCfg.toNat
  | 0x0020 => aqStatus s
  | 0x0030 => journalUsed s + journalCapacity * 2 ^ 32
  | _ => 0

/-! ### SLC (16, 17) -/

/-- A mailbox page. -/
def mbxAt (s : State) (p : Nat) : Page := NMap.getD s.slc.pages p {}

/-- Writes a mailbox page. -/
def setMbx (s : State) (p : Nat) (x : Page) : State := { s with slc := { s.slc with pages := NMap.insert s.slc.pages p x } }

/-- SLC_USE.SHARE_BEATS: the shares of a slice in the current tick. -/
def shareBeats (s : State) (slice : Nat) : Nat :=
  match currentPlan s with
  | some p => ((p.shares.filter fun e => e.1 % 64 == slice).map (·.2)).sum
  | none => 0

/-- The page of a slice, or of the physical function at 64, at an offset below 0x1000. -/
def slcPageReg (s : State) (p o : Nat) : Nat :=
  let x := mbxAt s p
  let q := quotaOf s p
  match o with
  | 0x048 => x.status + bit1 x.pending * 2 ^ 16
  | 0x050 => x.ctrl.toNat
  | 0x058 => x.rxHead
  | 0x05C => x.rxTail
  | 0x080 => q.tileMin + q.tileMax * 2 ^ 8 + q.entries * 2 ^ 16 + q.memMib * 2 ^ 32
  | 0x088 => shareBeats s p + (liveOf s p).length * 2 ^ 32
  | 0x090 => (memCharged s p + 2 ^ 20 - 1) / 2 ^ 20
  | 0x098 => let w := NMap.getD s.slc.slow p (0, 0); w.1 + w.2 * 2 ^ 16
  | _ =>
    if o < 0x040 then x.send.toNat / 2 ^ (8 * o) % 2 ^ 64
    else if 0x400 ≤ o then (NMap.getD x.ring ((o - 0x400) / 64) 0).toNat / 2 ^ (8 * (o % 64)) % 2 ^ 64
    else 0

/-- The SLC block. -/
def slcReg (s : State) (o : Nat) : Nat := if o < 0x41000 then slcPageReg s (o / 0x1000) (o % 0x1000) else 0

/-! ### TKP (03) -/

/-- The TKP block. -/
def tkpReg (s : State) (o : Nat) : Nat :=
  let k := s.tkp
  match o with
  | 0x0000 => k.planBase
  | 0x0008 => k.now
  | 0x0010 => k.beat + k.now % 2 ^ 16 * 2 ^ 16
  | 0x0018 => bit1 k.locked + 2 * bit1 (substNow s) + 4 * k.clock + 16 * planDepth s + k.substCnt * 2 ^ 16
  | 0x0020 => k.rwtApply
  | 0x0028 => k.faultPlan + k.faultOverrun * 2 ^ 16
  | _ => 0

/-! ### SRV (08, 10, 11) -/

/-- The free frames of some of a pool's free lists, over all pools: a count that does not fit its 24-bit field reads as all ones (R7,
log 104). -/
def freeOver (s : State) (lists : List Nat) : Nat :=
  min (2 ^ 24 - 1) ((s.srv.free.filter fun e => lists.contains (e.1 % 8)).map fun e => e.2.length).sum

/-- Entries of the request table in a state. -/
def reqsIn (s : State) (st : Nat) : Nat := (s.srv.reqs.filter fun (e : Nat × Req) => e.2.state == st).length

/-- The SRV block. -/
def srvReg (s : State) (o : Nat) : Nat :=
  let v := s.srv
  match o with
  | 0x4000 => freeOver s [0] + freeOver s [1, 2] * 2 ^ 32
  | 0x4008 => freeOver s [3] + freeOver s [4] * 2 ^ 32
  | 0x4010 => v.pageFail
  | 0x4018 => v.poolBase
  | 0x4020 => v.reqBase
  | 0x4028 =>
    (v.reqs.filter fun (e : Nat × Req) => e.2.live).length + reqsIn s 5 * 2 ^ 16 + reqsIn s 6 * 2 ^ 32 +
    (16384 - (v.reqs.filter fun (e : Nat × Req) => e.2.state != 0).length) * 2 ^ 48
  | 0x4030 => v.swaps + v.aborts * 2 ^ 32
  | 0x4038 => v.budgetBase
  | 0x4040 => v.adapterBase
  | 0x4048 => v.grammarBase
  | 0x4100 =>
    s.fla.state + s.fla.sparePermil * 2 ^ 8 + (s.fla.sbs.filter fun (e : Nat × SuperBlk) => e.2.state == 0).length * 2 ^ 32 +
    s.fla.retainDays * 2 ^ 48
  | 0x4108 => s.fla.uncorr + s.fla.retired * 2 ^ 32
  | 0x4110 => s.mov.index.length + s.mov.recs.length * 2 ^ 32
  | _ => 0

/-! ### RAD and FH (12, 13) -/

/-- The RAD registers. -/
def radReg (s : State) (o : Nat) : Nat :=
  let r := s.rad
  match o with
  | 0x0000 =>
    (r.cells.filter fun (c : Nat × Cell) => c.2.active).length + (r.cells.filter fun (c : Nat × Cell) => c.2.mode == 2).length * 2 ^ 8 +
    ((r.phys.map fun p => 2 ^ p.1).sum) * 2 ^ 16
  | 0x0008 => ((List.range 160).filter (isFloor s)).length + r.floorMax * 2 ^ 8 + 0x40 * 2 ^ 16
  | 0x0010 => r.lateCount + r.twSlots * 2 ^ 32
  | 0x0018 => r.l2Drop
  | 0x0020 => r.codeRadio + r.codeFlash * 2 ^ 32
  | _ => 0

/-- The page of a fronthaul port. -/
def fhPortReg (x : FhPort) (o : Nat) : Nat :=
  match o with
  | 0x000 => x.mode.shadow + 4 * x.kind.shadow + 8 * x.dynComp.shadow + x.mantTx.shadow * 2 ^ 8 + x.mantRx.shadow * 2 ^ 16
  | 0x004 => x.duBits.shadow + x.bsBits.shadow * 2 ^ 4 + x.ccBits.shadow * 2 ^ 8 + x.ruBits.shadow * 2 ^ 12 + x.mtu.shadow * 2 ^ 16
  | 0x008 => x.vid.shadow + x.vlanEn.shadow * 2 ^ 12 + x.pcpU.shadow * 2 ^ 13 + x.pcpC.shadow * 2 ^ 16
  | 0x00C => x.rxMin.shadow + x.rxMax.shadow * 2 ^ 16
  | 0x010 => x.txAdvU.shadow + x.txAdvC.shadow * 2 ^ 16 + x.txSpread.shadow * 2 ^ 32
  | 0x018 => x.target.shadow + x.thr.shadow * 2 ^ 8 + x.qual.shadow * 2 ^ 16 + x.maxGain.shadow * 2 ^ 24 + x.samples.shadow * 2 ^ 32
  | 0x020 => bit1 x.linkUp + 2 * bit1 x.synceSrc + x.linkDowns * 2 ^ 16
  | 0x028 => x.onTime + x.early * 2 ^ 32 + x.late * 2 ^ 48
  | 0x030 => x.unknown + x.comp * 2 ^ 16 + x.dup * 2 ^ 32 + x.fcs * 2 ^ 48
  | 0x038 => x.sent + x.txLate * 2 ^ 48
  | _ => 0

/-- The odd lane of a pair that runs as one 800GbE port, named by its even lane, is no port (12 R257). -/
def laneMerged (s : State) (p : Nat) : Bool := p % 2 == 1 && (NMap.getD s.fh (p - 1) {} : FhPort).mode.applied == 2

/-- A port as its page shows it: of an odd lane that is part of a pair, MODE and the counters are 0 (12 R257). -/
def fhShown (s : State) (p : Nat) : FhPort :=
  let x : FhPort := NMap.getD s.fh p {}
  if laneMerged s p then
    { x with mode := { x.mode with shadow := 0 }, linkDowns := 0, onTime := 0, early := 0, late := 0, unknown := 0, comp := 0, dup := 0,
             fcs := 0, sent := 0, txLate := 0 }
  else x

/-- The FH block. -/
def fhReg (s : State) (o : Nat) : Nat := if o < 0x8000 then fhPortReg (fhShown s (o / 0x1000)) (o % 0x1000) else 0

/-! ### FAB, TIM (14, 15) -/

/-- The FAB block. -/
def fabReg (s : State) (o : Nat) : Nat :=
  let f := s.fab
  match o with
  | 0x0000 => ((List.range 8).map fun p => (wport s p).state * 2 ^ (8 * p)).sum
  | 0x0008 => f.device + bit1 f.prot * 2 ^ 8
  | 0x0010 => 0x100
  | 0x0018 => f.regionBase
  | 0x0020 => f.mask.toNat % 2 ^ 64
  | 0x0028 => f.mask.toNat / 2 ^ 64 % 2 ^ 64
  | 0x0030 => f.mask.toNat / 2 ^ 128 % 2 ^ 64
  | 0x0038 => f.mask.toNat / 2 ^ 192
  | 0x0040 => f.fecCorr + f.retry * 2 ^ 32 + f.retrain * 2 ^ 48
  | 0x0048 => f.retx + f.dropped * 2 ^ 32 + f.broken * 2 ^ 48
  | 0x0050 => f.denied + f.foreign * 2 ^ 32 + f.stale * 2 ^ 48
  | _ => 0

/-- The seconds of full time: T div 10^9 (15). -/
def fullSeconds (s : State) : Nat := timeNow s / 1000000000

/-- TIM_STATUS.HOLD_S. -/
def holdSeconds (s : State) : Nat := if s.tim.state = 3 then min 0xFFFF ((s.tkp.now - s.tim.holdTick) / ticksPerSec) else 0

/-- The TIM block. -/
def timReg (s : State) (o : Nat) : Nat :=
  let t := s.tim
  match o with
  | 0x0000 => t.raw
  | 0x0008 => timeNow s % 2 ^ 64
  | 0x0010 => timeNow s % 1000000000
  | 0x0018 => t.secLatch
  | 0x0020 => intBits 40 t.rate
  | 0x0028 =>
    t.state + 4 * t.source + 8 * bit1 t.seamErr + 16 * bit1 t.holdExceeded + 32 * bit1 t.nostep + holdSeconds s * 2 ^ 16
  | 0x0030 => intBits 32 t.ppsErr + t.ppsMissed * 2 ^ 32
  | _ =>
    if 0x100 ≤ o ∧ o < 0x140 ∧ o % 8 = 0 then
      let x : FhPort := NMap.getD s.fh ((o - 0x100) / 8) {}
      x.txq.length + x.stampOver * 2 ^ 16
    else 0

/-! ### RAS, PWR, EVR (02, 20, 22) -/

/-- Good unbound tiles, fewest over the four dies. -/
def sparesMin (s : State) : Nat := ((List.range 4).map fun d => (goodUnbound s d).length).foldl min 44

/-- The RAS block. -/
def rasReg (s : State) (o : Nat) : Nat :=
  let r := s.ras
  match o with
  | 0x0000 => r.state + 4 * r.contrail + 16 * bit1 r.ready + (if s.start.step = 0 then 0 else sparesMin s) * 2 ^ 8 + r.failCause * 2 ^ 16
  | 0x0008 => r.score + r.penMem * 2 ^ 16 + r.penLink * 2 ^ 24 + r.penResidue * 2 ^ 32 + r.penSpares * 2 ^ 48 + r.penThermal * 2 ^ 56
  | 0x0010 => r.cntTile + r.cntRerun * 2 ^ 16 + r.cntEngine * 2 ^ 32 + r.cntWire * 2 ^ 48
  | 0x0018 => min 0xFFFFFFFF r.sentRuns + r.sentMiss * 2 ^ 32 + r.stress * 2 ^ 48
  | 0x0020 => r.matched + r.mismatched * 2 ^ 32 + r.unmatched * 2 ^ 48
  | 0x0028 => r.sentBase
  | _ => 0

/-- The PWR block. -/
def pwrReg (s : State) (o : Nat) : Nat :=
  match o with
  | 0x0000 => s.pwr.cap.shadow + s.pwr.margin.shadow * 2 ^ 16
  | 0x0008 => pwrFlags s + dutyMin s * 2 ^ 16
  | 0x0010 => s.pwr.telBase
  | 0x0018 => s.pwr.telWidx
  | _ => 0

/-- The 64 bytes of an event record (22 R482). -/
def recordBytes (r : Rec) : List Byte :=
  leBytes 8 r.seq ++ leBytes 2 r.code ++
  leBytes 1 (r.sev + 4 * bit1 r.tickValid + 8 * bit1 r.early + 16 * bit1 r.unanchored + 32 * bit1 r.summary + 64 * bit1 r.persisted) ++
  leBytes 1 r.source ++ leBytes 4 r.suppressed ++ leBytes 5 r.opsec ++ leBytes 3 r.pcc ++ leBytes 8 r.tick ++
  ((List.range 4).map fun i => leBytes 8 (r.args.getD i 0)).flatten

/-- The EVR block. -/
def evrReg (s : State) (o : Nat) : Nat :=
  let e := s.evr
  match o with
  | 0x0000 => e.path + 4 * bit1 e.unanchored + 8 * bit1 e.early + 16 * bit1 e.unsaved + e.slots.length * 2 ^ 16
  | 0x0008 => e.nextSeq
  | 0x0010 => e.critOver + e.dropped * 2 ^ 32
  | 0x0018 => opsecNow s + e.pcc * 2 ^ 40
  | 0x0020 => e.ackSeq
  | _ =>
    if 0x100000 ≤ o ∧ o < 0x180000 then
      match NMap.find? e.slots ((o - 0x100000) / 64) with
      | some r => fieldAt (recordBytes r) (o % 64) 8
      | none => 0
    else 0

/-! ### SEC, FWL (18, 21) -/

/-- The SEC block. -/
def secReg (s : State) (o : Nat) : Nat :=
  let c := s.sec
  match o with
  | 0x0000 =>
    c.state + 4 * bit1 c.identity + 8 * bit1 c.identityFail + 16 * c.debug + 64 * bit1 c.encRequired + c.lastFail * 2 ^ 8
  | 0x0008 => c.svn + c.minSvn * 2 ^ 32
  | 0x0108 => c.mbxAddr.toNat
  | 0x0110 => c.mbxStatus + bit1 c.mbxBusy * 2 ^ 16 + c.mbxRlen * 2 ^ 17
  | _ =>
    if 0x0010 ≤ o ∧ o < 0x0030 ∧ o % 8 = 0 then fieldAt c.devId (o - 0x10) 8
    else if 0x10000 ≤ o ∧ o < 0x20000 then leNat ((List.range 8).map fun i => NMap.getD c.mbxBuf (o - 0x10000 + i) 0)
    else 0

/-- FWL_FW_VERSION. -/
def fwVersion (s : State) : Nat := s.fw.build + s.fw.updates * 2 ^ 32 + s.fw.aborts * 2 ^ 48

/-- The FWL block. -/
def fwlReg (s : State) (o : Nat) : Nat :=
  let f := s.fw
  match o with
  | 0x0000 => ((List.range 8).map fun p => (cpState s p + 4 * min 63 (NMap.getD f.cpStops p 0)) * 2 ^ (8 * p)).sum
  | 0x0008 => fwVersion s
  | 0x0010 => f.logBase
  | 0x0018 => f.logWidx
  | 0x0020 => f.traceBase
  | 0x0028 => f.traceWidx
  | _ => 0

/-! ### BAR0 (16 R353) -/

/-- The 8 bytes of BAR2 at an offset: the MSI-X table, and the pending-bit array from 0x8000 (R352, log 111). -/
def bar2Reg (s : State) (o : Nat) : Nat :=
  let e := NMap.getD s.hst.msixTab (o / 16) (0, 0, true)
  if o < 16384 then (if o % 16 = 0 then e.1 else if o % 16 = 8 then e.2.1 + 2 ^ 32 * bit1 e.2.2 else 0)
  else if 0x8000 ≤ o ∧ o < 0x8080 ∧ o % 8 = 0 then
    ((List.range 64).map fun b => if s.hst.pba.contains (8 * (o - 0x8000) + b) then 2 ^ b else 0).sum
  else 0

/-- The register at an offset of BAR0. -/
def regRead (s : State) (o : Nat) : Nat :=
  if o < 0x100000 then glbReg s o
  else if o < 0x200000 then hstReg s (o - 0x100000)
  else if o < 0x400000 then slcReg s (o - 0x200000)
  else if o < 0x800000 then tkpReg s (o - 0x400000)
  else if o < 0xC00000 then srvReg s (o - 0x800000)
  else if o < 0xE00000 then radReg s (o - 0xC00000)
  else if o < 0x1000000 then fhReg s (o - 0xE00000)
  else if o < 0x1400000 then fabReg s (o - 0x1000000)
  else if o < 0x1800000 then timReg s (o - 0x1400000)
  else if o < 0x1C00000 then rasReg s (o - 0x1800000)
  else if o < 0x2000000 then pwrReg s (o - 0x1C00000)
  else if o < 0x2400000 then evrReg s (o - 0x2000000)
  else if o < 0x2800000 then secReg s (o - 0x2400000)
  else if o < 0x2C00000 then fwlReg s (o - 0x2800000)
  else if 0x4000000 ≤ o ∧ o < 0x4010000 then bar2Reg s (o - 0x4000000)
  else 0

/-- A read of TIM_NSEC latches the matching seconds into TIM_SEC (15); a read of any other register changes nothing. -/
def afterRead (s : State) (o : Nat) : State :=
  if o = 0x1400010 then { s with tim := { s.tim with secLatch := fullSeconds s % 2 ^ 48 } } else s

end Sys2Proof.Machine
end

