-- ==== Sys2Proof/Machine/Admin.lean ====
section
/-!
DEFINITION. The commands of the administrator: queues, identity, the recovery reports, attention, mirrored mode and the repair map
(16 R354, R355, R359, R360, R362, R367, R372, 04 R88).
-/
namespace Sys2Proof.Machine

/-- NOP (R359): DONE with OK. -/
def execNop (q seq : Nat) (s : State) : Out :=
  .next (withCmd s q seq 0x0000 fun r s => finish s q seq (if r.params.isEmpty then stOk else stInvalid) 0)

/-! ### Queues (R355) -/

/-- The queue pair that the parameters of QUEUE_CREATE describe. -/
def queueOfParams (r : JRec) : Queue :=
  let flags := r.par 2 2
  { system := flags.testBit 1, devring := flags.testBit 2, sqBase := r.par 8 8, cqBase := r.par 16 8, sqLog := r.par 24 1, cqLog := r.par 25 1,
    vector := r.par 26 2, pasid := r.par 28 4 % 2 ^ 20, coN := r.par 32 2, coUs := r.par 34 2 }

/-- The fields of QUEUE_CREATE lie in their ranges. -/
def queueFieldsOk (r : JRec) : Bool :=
  let x := queueOfParams r
  decide (1 ≤ r.par 0 2 ∧ r.par 0 2 ≤ 511 ∧ r.par 2 2 < 8) && x.sqBase % 64 == 0 && x.cqBase % 64 == 0 &&
  decide (4 ≤ x.sqLog ∧ x.sqLog ≤ 16 ∧ 4 ≤ x.cqLog ∧ x.cqLog ≤ 16 ∧ x.vector ≤ 1023 ∧ r.par 28 4 < 2 ^ 20) &&
  decide (1 ≤ x.coN ∧ x.coN ≤ 256 ∧ x.coUs ≤ 1000) && r.zeros 36 28

/-- A ring in device memory lies wholly in usable memory and in no structure of R13 (R507). -/
def ringPlaced (s : State) (a n : Nat) : Bool := usableRange s a n && !inR13 s a n

/-- The status of a QUEUE_CREATE: the first case of R355 that applies. -/
def queueCreateStatus (s : State) (r : JRec) : Nat :=
  let x := queueOfParams r
  let q := r.par 0 2
  if r.params.length ≠ 64 then stInvalid
  else if r.par 4 4 ≠ s.hst.cmdsetRev then stVersion
  else if !queueFieldsOk r ∨ (NMap.find? s.hst.queues q).isSome ∨
      (x.devring ∧ !(ringPlaced s x.sqBase (64 * 2 ^ x.sqLog) && ringPlaced s x.cqBase (32 * 2 ^ x.cqLog))) then stInvalid
  else if !x.system ∧ (NMap.find? s.slc.pasids x.pasid).isNone then stDenied
  else if !(r.par 2 2).testBit 0 ∧ !(openRecs s q).isEmpty then stBusy
  else stOk

/-- QUEUE_CREATE (R355). -/
def execQueueCreate (q seq : Nat) (s : State) : Out :=
  .next (withCmd s q seq 0x0001 fun r s =>
    let st := queueCreateStatus s r
    finish (if st = stOk then createQueue s (r.par 0 2) (queueOfParams r) ((r.par 2 2).testBit 0) else s) q seq st 0)

/-- QUEUE_DELETE (R355, R359). The admin queue is deleted through HST_AQ_CFG (R354; log 35). -/
def execQueueDelete (q seq : Nat) (s : State) : Out :=
  .next (withCmd s q seq 0x0002 fun r s =>
    let d := r.par 0 2
    if r.params.length ≠ 2 ∨ d = 0 ∨ (NMap.find? s.hst.queues d).isNone then finish s q seq stInvalid 0
    else if !(openRecs s d).isEmpty then finish s q seq stBusy 0
    else finish (dropQueue s d) q seq stOk 0)

/-! ### IDENTIFY (R360) -/

/-- `n` bytes: those of a list, cut or padded with zeros. -/
def padTo (n : Nat) (bs : List Byte) : List Byte := bs.take n ++ List.replicate (n - bs.length) 0

/-- The 4,096 bytes of the identity page. -/
def identityPage (s : State) : List Byte :=
  let comps := match s.fw.bundle with | some b => b.components.take 128 | none => []
  let profile := match s.fw.bundle with | some b => b.cardProfile | none => []
  leBytes 8 (glbId s) ++ leBytes 8 (glbMem s) ++ leBytes 4 Config.vendorIana.toNat ++ leBytes 4 0 ++ leBytes 8 (fwVersion s) ++
  padTo 32 s.sec.devId ++ leBytes 4 s.sec.svn ++ leBytes 2 comps.length ++ List.replicate 58 0 ++
  padTo 2048 (comps.map fun c => leBytes 2 c.1 ++ leBytes 2 0 ++ leBytes 4 c.2.1 ++ padTo 8 c.2.2).flatten ++ padTo 1920 profile

/-- IDENTIFY (R359, R360). -/
def execIdentify (q seq : Nat) (s : State) : Out :=
  .next (withCmd s q seq 0x0003 fun r s =>
    if r.params.isEmpty then finishWith s q seq stOk 0 (identityPage s) else finish s q seq stInvalid 0)

/-! ### Recovery reports (R372) and attention (R367) -/

/-- RECOVERY_GET (R372): writes the latest recovery report. -/
def execRecoveryGet (q seq : Nat) (s : State) : Out :=
  .next (withCmd s q seq 0x0004 fun r s =>
    if r.params.isEmpty then finishWith s q seq stOk 0 s.hst.reportBytes else finish s q seq stInvalid 0)

/-- The latched classes after an ATTN_ACK accepted at an order: a class whose last cause is later stays (R367). -/
def ackClasses (pending : NMap Nat) (mask order : Nat) : NMap Nat := pending.filter fun e => !(mask.testBit e.1 && decide (e.2 ≤ order))

/-- ATTN_ACK (R359, R367). -/
def execAttnAck (q seq : Nat) (s : State) : Out :=
  .next (withCmd s q seq 0x0006 fun r s =>
    if r.params.length ≠ 1 ∨ r.par 0 1 % 2 ≠ 0 then finish s q seq stInvalid 0
    else finish { s with hst := { s.hst with pending := ackClasses s.hst.pending (r.par 0 1) r.order } } q seq stOk 0)

/-! ### Mirrored mode (R362) -/

/-- The fields of MIRROR_SET: the area lies on the partner, another device, in whole regions (log 32). -/
def mirrorFields (r : JRec) (s : State) : Nat :=
  let a := r.par 8 8
  if r.params.length ≠ 16 ∨ 1 < r.par 0 1 ∨ 1 < r.par 2 1 ∨ !r.zeros 3 5 then stInvalid
  else if r.par 0 1 = 1 ∧ (a / 2 ^ 40 ≠ r.par 1 1 ∨ r.par 1 1 = s.fab.device ∨ a % 2 ^ 21 ≠ 0 ∨ 2 ^ 40 < a % 2 ^ 40 + 2 ^ 27) then stInvalid
  else stOk

/-- MIRROR_SET meets no state that forbids it. -/
def mirrorState (_ : JRec) (_ : State) : Nat := stOk

/-- MIRROR_SET at its seam: on, every live record is copied to the partner first; off, the DONE completions that wait are written. -/
def mirrorApply (r : JRec) (s : State) : State :=
  if r.par 0 1 = 1 then
    let s0 := journalReload s
    let s1 : State := { s0 with hst := { s0.hst with mirrored := true, mirrorLost := false, partner := r.par 1 1, strict := r.par 2 1 == 1,
                                                     mirrorAt := r.par 8 8 } }
    s1.hst.journal.foldl (fun x j => mirrorStore x j.q j.seq) s1
  else
    s.hst.mirWait.foldl (fun x w => match findRec x w.1 w.2 with | some j => postDone x j false | none => x)
      { s with hst := { s.hst with mirWait := [], mirrored := false, mirrorLost := false } }

/-- MIRROR_SET (R362). -/
def execMirrorSet (q seq : Nat) (s : State) : Out := .next (withSeamCmd s q seq 0x0007 mirrorFields)

/-- The heads of the record copies that a lost device has left in the regions that it owns here (log 32). -/
def mirrorHeads (s : State) (dev : Nat) : List (List Byte) :=
  (s.mem.dev.filter fun (c : Host.Cell) => c.1 % 64 == 0 && c.2 == 0x42 &&
      (match NMap.find? s.fab.regions (c.1 / 2 ^ 21) with | some g => g.valid && g.owner == dev | none => false) &&
      devNat s c.1 8 == mirrorMagic).map fun (c : Host.Cell) => devRead s c.1 128

/-- The report of a lost device from the mirror that this device holds; its CAUSE is a value that the spec leaves open (log 32). -/
def mirrorReport (s : State) (dev cause : Nat) : List Byte :=
  let heads := mirrorHeads s dev
  let ofQ := fun (q : Nat) => heads.filter fun h => fieldAt h 8 2 == q
  let qs := (heads.map fun h => fieldAt h 8 2).foldl addSet []
  let openOf := fun (q : Nat) => (ofQ q).filter fun h => fieldAt h 56 8 != 3
  let acc := fun (q : Nat) => (ofQ q).foldl (fun m h => max m (fieldAt h 16 8)) 0
  leBytes 4 0x50434552 ++ leBytes 2 1 ++ leBytes 1 cause ++ leBytes 1 (2 + bit1 heads.isEmpty) ++ leBytes 8 s.tkp.now ++
    leBytes 2 qs.length ++ List.replicate 46 0 ++
    (qs.map fun q =>
      let pas := ((ofQ q).map fun h => fieldAt h 48 4).foldl max 0
      leBytes 2 q ++ leBytes 2 0 ++ leBytes 4 (if pas = 0 then 0xFFFFFFFF else pas - 1) ++ leBytes 8 (acc q) ++
        leBytes 8 ((openOf q).foldl (fun m h => min m (fieldAt h 16 8 - 1)) (acc q)) ++ leBytes 8 (openOf q).length).flatten

/-- MIRROR_REPORT (R359, R372). -/
def execMirrorReport (q seq : Nat) (s : State) : Out :=
  .next (withCmd s q seq 0x0008 fun r s =>
    if r.params.length ≠ 1 then finish s q seq stInvalid 0
    else
      let f := s.takeFree
      finishWith f.2 q seq stOk 0 (mirrorReport f.2 (r.par 0 1) f.1.toNat))

/-! ### The repair map (04 R88) -/

/-- The 576 bytes of the repair map. -/
def repairMapBytes (s : State) : List Byte :=
  leBytes 8 s.dies.gen ++ leBytes 8 s.dies.mapTick ++ leBytes 4 s.dies.source ++
  ((List.range 4).map fun d => leBytes 1 (goodUnbound s d).length).flatten ++ List.replicate 40 0 ++
  ((List.range 4).map fun d =>
    ((List.range 40).map fun i => BitVec.ofNat 8 (physOf s (40 * d + i))) ++
    ((List.range 88).map fun k => BitVec.ofNat 8 (NMap.getD s.dies.rowMap (88 * d + k) 0x7F))).flatten

/-- REPAIR_MAP_GET (R359, 04 R88). -/
def execRepairMapGet (q seq : Nat) (s : State) : Out :=
  .next (withCmd s q seq 0x0602 fun r s =>
    if r.params.isEmpty then finishWith s q seq stOk 0 (repairMapBytes s) else finish s q seq stInvalid 0)

end Sys2Proof.Machine
end

