-- ==== Sys2Proof/Machine/RadioOps.lean ====
section
/-!
DEFINITION. Cells: slots and lead ticks (13 R274, R275), indications (R276, R277, R281), modes and the twilight run
(R296 to R299), HARQ buffers (R283) and random access (R285).
-/
namespace Sys2Proof.Machine

/-- A cell. -/
def cellAt (s : State) (c : Nat) : Cell := NMap.getD s.rad.cells c {}
/-- Updates a cell. -/
def modCell (s : State) (c : Nat) (f : Cell → Cell) : State := { s with rad := { s.rad with cells := NMap.insert s.rad.cells c (f (cellAt s c)) } }

/-- A fronthaul port. -/
def fhAt (s : State) (p : Nat) : FhPort := NMap.getD s.fh p {}
/-- Updates a fronthaul port. -/
def modFh (s : State) (p : Nat) (f : FhPort → FhPort) : State := { s with fh := NMap.insert s.fh p (f (fhAt s p)) }

/-! ### Configurations and their seam (03 R48, R49) -/

/-- A cell runs or is about to. -/
def Cell.started (x : Cell) : Bool := x.active || x.startAt.isSome

/-- A cell with one more configuration in force. -/
def Cell.take (x : Cell) : CellSet → Cell
  | .config c => { x with cfg := some c }
  | .bound b => { x with bind_ := some b }
  | .twilight w => { x with tw := some w }

/-- A cell with the configurations in force whose seam a tick opens or opened. -/
def Cell.dueBy (x : Cell) (tick : Nat) : Cell :=
  ((x.setup.filter fun e => decide (e.1 ≤ tick)).map fun e => e.2).foldl Cell.take { x with setup := x.setup.filter fun e => !decide (e.1 ≤ tick) }

/-- A cell as it stands once every configuration it has been given is in force: a cell starts 10 ticks or more after its request, and
each of them comes at one of the next two seams. -/
def Cell.settled (x : Cell) : Cell := (x.setup.map fun e => e.2).foldl Cell.take { x with setup := [] }

/-- A configuration lands now, and waits for its seam. -/
def cellSet (s : State) (c : Nat) (e : CellSet) : State := modCell s c fun x => { x with setup := x.setup ++ [(applyTick s, e)] }

/-! ### Slots (R274, R275) -/

/-- Ticks of a slot of numerology μ. -/
def slotTicks (mu : Nat) : Nat := 2 ^ (3 - mu)

/-- The numerology of a cell. -/
def Cell.mu (x : Cell) : Nat := match x.cfg with | some c => c.mu | none => 0
/-- FRAME_OFFSET of a cell. -/
def Cell.off (x : Cell) : Nat := match x.bind_ with | some b => b.frameOffset | none => 0
/-- The fronthaul port of a cell; 8 without a binding. -/
def Cell.port (x : Cell) : Nat := match x.bind_ with | some b => b.port | none => 8

/-- Ticks from the lead tick of a slot to its first tick: ceil(TX_ADV_C / 1,250) + 1. -/
def leadTicks (s : State) (x : Cell) : Nat := ((fhAt s x.port).txAdvC.applied + 1249) / 1250 + 1

/-- Ticks since the last slot boundary of a cell. -/
def slotPhase (x : Cell) (u : Nat) : Nat := (((u : Int) - x.off) % slotTicks x.mu).toNat

/-- SFN and slot of a tick. -/
def sfnSlot (x : Cell) (u : Nat) : Nat × Nat :=
  let d := (((u : Int) - x.off) % 81920).toNat
  (d / 80, d % 80 / slotTicks x.mu)

/-- The first slot whose lead tick is at least a tick given. -/
def firstSlotFrom (s : State) (x : Cell) (lead : Nat) : Nat :=
  let a := lead + leadTicks s x
  a + (((x.off : Int) - a) % slotTicks x.mu).toNat

/-! ### Air times (12 R263) -/

/-- Units of air time in a beat: in 1/3,072 of a beat every symbol of TS 38.211 starts at a whole number. -/
def airUnits : Nat := 3072

/-- The air time of symbol 16 A + y: its subframe's first tick, then the symbols before it, each 17,536 / 2^μ units of 1/245.76 µs, with 128
more for the long cyclic prefix of symbols 0 and 7 x 2^μ of a subframe (125 air units are one of those units). -/
def airTime (x : Cell) (sym : Nat) : Nat :=
  let a := sym / 16
  let d := (((a : Int) - x.off) % 8).toNat
  let l := 14 * (d / slotTicks x.mu) + sym % 16
  airUnits * (1250 * (a - d)) +
    125 * (17536 * l / 2 ^ x.mu + (if 0 < l then 128 else 0) + (if 7 * 2 ^ x.mu < l then 128 else 0))

/-- The symbol after a symbol. -/
def nextSym (x : Cell) (sym : Nat) : Nat := if sym % 16 = 13 then 16 * (sym / 16 + slotTicks x.mu) else sym + 1

/-- The air end of a symbol: the air time of the next. -/
def airEnd (x : Cell) (sym : Nat) : Nat := airTime x (nextSym x sym)

/-- The first beat boundary at or after an air time, in beats of the launch counter. -/
def beatAfter (t : Nat) : Nat := (t + 3071) / 3072

/-- The beat at which the C-plane messages of a slot launch. -/
def cplaneBeat (s : State) (x : Cell) (first : Nat) : Nat := beatAfter (airTime x (16 * first)) - (fhAt s x.port).txAdvC.applied

/-- The beat at which the U-plane packets whose first sample or symbol has an air time launch. -/
def uplaneBeat (s : State) (x : Cell) (air : Nat) : Nat := beatAfter air - (fhAt s x.port).txAdvU.applied

/-- The beat at which a received symbol closes (12 R264). -/
def closeBeat (s : State) (x : Cell) (sym : Nat) : Nat := beatAfter (airEnd x sym) + (fhAt s x.port).rxMax.applied

/-- The first tick of the slot that a message names: the occurrence nearest the middle of the window in which a request that
arrived in tick `t` is taken (log 24). -/
def slotNamed (s : State) (x : Cell) (sfn slot t : Nat) : Nat :=
  let low : Int := (t : Int) + 45 + leadTicks s x - 40960
  let base : Int := (x.off : Int) + 80 * sfn + slotTicks x.mu * slot
  (low + (base - low) % 81920).toNat

/-! ### Indications -/

/-- The ID of a message to layer 2: those of R276, and of SCF222 for the rest (log 24). -/
def indId : IndKind → Nat
  | .param => 0x01
  | .config => 0x03
  | .stop => 0x06
  | .error => 0x07
  | .slot => 0x82
  | .rxData => 0x85
  | .crc => 0x86
  | .uci => 0x87
  | .srs => 0x88
  | .rach => 0x89
  | .cellBind => 0x180
  | .twilightCfg => 0x181
  | .cellState => 0x182

/-- A FAPI error as a number for the body that SCF222 gives a message. -/
def errNum : FapiErr → Nat
  | .ok => 0
  | .invalidState => 1
  | .invalidConfig => 2
  | .invalidSfn => 3
  | .slotErr => 4
  | .txErr => 5

/-- The body of an indication: CELL, STATE, REASON and PORT with 3 reserved bytes for CELL_STATE (R297), and what SCF222 gives for the
rest (log 24). -/
def indBody (i : Ind) : List Byte :=
  match i.msg with
  | .cellState =>
    leBytes 2 (i.args.getD 0 0) ++ leBytes 1 (i.args.getD 1 0) ++ leBytes 1 (i.args.getD 2 0) ++ leBytes 1 (i.args.getD 3 0) ++ leBytes 3 0
  | _ => Config.fapiBody (indId i.msg) ([i.cell, i.sfn, i.slot, errNum i.err] ++ i.args)

/-- The vendor TLV BQ_STATUS of the messages that carry it (R276). -/
def bqStatus (i : Ind) : List Byte :=
  match i.msg with
  | .error | .crc | .rxData => leBytes 2 0xA000 ++ leBytes 2 4 ++ leBytes 2 i.status ++ leBytes 2 i.reason
  | _ => []

/-- The bytes of a message to layer 2: a header of 8 bytes (log 24), its body and BQ_STATUS. -/
def indBytes (i : Ind) : List Byte :=
  let b := indBody i ++ bqStatus i
  leBytes 2 1 ++ leBytes 2 (indId i.msg) ++ leBytes 4 b.length ++ b

/-- The message is written into the message area, at a place that the spec leaves to the device, and its entry into the indication ring (R277);
the entry is not written while the device may not write host memory (18 R413, 23 R500; log 109). -/
def writeInd (s : State) (p : Phy) (i : Ind) : State :=
  let addr := p.msgBase + 8 * (Config.indPlace i.phy p.indTail % (p.msgBytes / 8))
  let bs := indBytes i
  let s1 := devPut s addr bs
  if s.hst.orphan ∨ !s.hst.busMaster then s1
  else hostWrite s1 none (p.indRing + 16 * (p.indTail % p.entries)) (leBytes 8 addr ++ leBytes 4 bs.length ++ leBytes 2 (indId i.msg) ++ leBytes 2 0)

/-- Posts an indication; a full ring drops it, which is counted and recorded (R277). -/
def postInd (s : State) (i : Ind) : State :=
  match NMap.find? s.rad.phys i.phy with
  | none => s
  | some p =>
    if p.entries ≤ (p.indTail + 2 ^ 16 - p.indHead) % 2 ^ 16 then
      recordEvent { s with rad := { s.rad with l2Drop := satAdd 32 s.rad.l2Drop 1 } } 0x4004 srcHw []
    else
      let s1 := writeInd s p i
      { s1 with rad := { s1.rad with inds := i :: s1.rad.inds
                                     phys := NMap.insert s1.rad.phys i.phy { p with indTail := (p.indTail + 1) % 2 ^ 16 } } }

/-- Posts an indication of a cell to its PHY. -/
def cellInd (s : State) (c : Nat) (k : IndKind) (first : Nat) (err : FapiErr) (status reason : Nat) (args : List Nat) : State :=
  let x := cellAt s c
  match x.phy with
  | none => s
  | some p =>
    let n := sfnSlot x first
    postInd s ⟨p, k, c, n.1, n.2, err, status, reason, args⟩

/-- ERROR.indication of a message for a cell of a PHY. -/
def errInd (s : State) (phy cell sfn slot : Nat) (e : FapiErr) (status reason : Nat) : State :=
  postInd s ⟨phy, .error, cell, sfn, slot, e, status, reason, []⟩

/-- ERROR.indication MSG_TX_ERR of a slot, once per cell and slot, with its reason (R296, R297). -/
def txErrOnce (s : State) (c first reason : Nat) : State :=
  if (cellAt s c).txErr.contains first then s
  else cellInd (modCell s c fun x => { x with txErr := addSet x.txErr first }) c .error first .txErr stOk reason []

/-- CELL_STATE.indication: STATE, REASON and port (R297). -/
def cellState (s : State) (c st reason : Nat) : State := cellInd s c .cellState s.tkp.now .ok stOk reason [c, st, reason, (cellAt s c).port]

/-! ### Closing a PHY instance (R277) -/

/-- RAD_L2_CLOSE is DONE, and the instance gone, once none of its cells runs or is about to. -/
def settlePhy (s : State) (phy : Nat) : State :=
  match NMap.find? s.rad.phys phy with
  | none => s
  | some p =>
    match p.closing with
    | none => s
    | some (q, seq) =>
      if s.rad.cells.any fun c => c.2.phy == some phy && (c.2.active || c.2.startAt.isSome) then s
      else
        let cells := s.rad.cells.map fun c => (c.1, if c.2.phy = some phy then { c.2 with phy := none } else c.2)
        finish { s with rad := { s.rad with phys := NMap.erase s.rad.phys phy, cells := cells } } q seq stOk 0

/-! ### Modes (R298, R299) -/

/-- A cell goes OFF: it transmits and processes nothing, and its HARQ buffers are freed; with the last cell of an instance its close is DONE. -/
def goOff (s : State) (c reason : Nat) (stopInd : Bool) : State :=
  let s1 := modCell s c fun x =>
    { x with active := false, mode := 3, startAt := none, stopAt := none, runStart := none, harq := [], dl := [], ul := [], dci := [],
             tx := [], took := [], twRan := [], recv := [], late := [], noReq := [], noData := [], txErr := [], rxGot := [], rxIq := [],
             txIq := [], srs := [], closed := [], bw := 0 }
  let s2 := if stopInd then cellInd s1 c .stop s.tkp.now .ok stOk 0 [] else s1
  let s3 := cellState s2 c 3 reason
  match (cellAt s3 c).phy with | some p => settlePhy s3 p | none => s3

/-- HOLD_S of a cell (R298). -/
def Cell.holdS (x : Cell) : Nat := match x.tw with | some w => w.holdS | none => 600

/-- The key of a resource element of a stream in a symbol. -/
def reKey (sym stream re : Nat) : Nat := sym * 2 ^ 32 + stream * 4096 + re

/-- The twilight template of a cell in the slot of first tick `a`: SSB, SIB1 and SI with their PDCCH, as the content given at TWILIGHT_CFG
yields them; nothing without a MIB (R298; log 101). -/
def templateRes (x : Cell) (a : Nat) : NMap (Int × Int) :=
  match x.tw with
  | none => []
  | some w =>
    let n := sfnSlot x a
    if w.mib = 0 then []
    else (Config.templateRes [x.mu, w.mib, n.1, n.2] w.sib1 w.si).foldl (fun m e => NMap.insert m (reKey (16 * a + e.1 % 14) e.2.1 e.2.2.1) e.2.2.2) []

/-- The template takes the place of what a slot would have sent. -/
def sendTemplate (x : Cell) (a : Nat) : Cell :=
  { x with txIq := (templateRes x a).foldl (fun m e => NMap.insert m e.1 e.2) (x.txIq.filter fun e => e.1 / 2 ^ 36 != a) }

/-- A cell runs the twilight template from the current tick on, if it did not already (R299): the first slot of the run is named, and with
HOLD_S = 0 the cell goes OFF with it. -/
def goTwilight (s : State) (c reason : Nat) : State :=
  let x := cellAt s c
  let s1 := modCell s c fun y => sendTemplate y (s.tkp.now - slotPhase y s.tkp.now)
  if x.mode = 2 then s1
  else
    let s2 := cellState (modCell s1 c fun y => { y with mode := 2, runStart := some s.tkp.now }) c 2 reason
    if x.holdS = 0 then goOff s2 c 3 true else s2

/-- A cell runs NORMAL again. -/
def goNormal (s : State) (c : Nat) : State := cellState (modCell s c fun y => { y with mode := 1, runStart := none }) c 1 0

/-- The slot runs the twilight template: late or missing requests (R280). -/
def slotTwilight (x : Cell) (a : Nat) : Bool := x.late.contains a || x.noReq.contains a || (NMap.find? x.dl a).isNone

/-- A slot of an active cell begins in the current tick: it names the earliest slot that layer 2 may still ask for
(R281), and runs NORMAL or twilight. -/
def slotBegins (s : State) (c : Nat) : State :=
  let x := cellAt s c
  let a := s.tkp.now
  let n := sfnSlot x (firstSlotFrom s x (a + 14))
  let s1 := match x.phy with | some p => postInd s ⟨p, .slot, c, n.1, n.2, .ok, stOk, 0, []⟩ | none => s
  let s2 := modCell s1 c fun y => { y with
    dl := y.dl.filter fun e => a ≤ e.1 + 80, ul := y.ul.filter fun e => a ≤ e.1 + 80, dci := y.dci.filter fun e => a ≤ e.1 + 80
    tx := y.tx.filter fun e => a ≤ e.1 + 80, took := y.took.filter fun e => a ≤ e.1 + 80, twRan := y.twRan.filter fun e => a ≤ e + 80
    recv := y.recv.filter fun e => a ≤ e.1 / 2 ^ 36 + 160
    rxIq := y.rxIq.filter fun e => a ≤ e.1 / 2 ^ 36 + 80, txIq := y.txIq.filter fun e => a ≤ e.1 / 2 ^ 36 + 8 }
  if substNow s ∨ slotTwilight x a then
    let s3 := modCell s2 c fun y => if slotTwilight x a then { y with twRan := addSet y.twRan a } else y
    let s4 := goTwilight s3 c (if slotTwilight x a then 1 else 2)
    if (cellAt s4 c).mode = 2 then { s4 with rad := { s4.rad with twSlots := satAdd 32 s4.rad.twSlots 1 } } else s4
  else if x.mode = 1 then s2
  else goNormal s2 c

/-- What a seam does to an active cell: a slot that begins, or a substituted tick in the middle of one (R55, R296), after which the cell
is NORMAL again if its slot is. -/
def cellSeam (s : State) (c : Nat) : State :=
  let x := cellAt s c
  if !x.active then s
  else if slotPhase x s.tkp.now = 0 then slotBegins s c
  else if substNow s then goTwilight s c 2
  else if x.mode = 2 ∧ !x.twRan.contains (s.tkp.now - slotPhase x s.tkp.now) then goNormal s c
  else s

/-! ### HARQ (R283) -/

/-- The key of a HARQ buffer. -/
def harqKey (rnti proc : Nat) : Nat := 16 * rnti + proc

/-- An 8-bit LLR sum, saturated to ±127. -/
def satLlr (v : Int) : Int := max (-127) (min 127 v)

/-- HARQ_BASE and the bytes of the pool of a cell; without a binding, none. -/
def harqPool (x : Cell) : Nat × Nat := match x.bind_ with | some b => (b.harqBase, 2 ^ 20 * b.harqMib) | none => (0, 0)

/-- The LLRs that a buffer holds. -/
def harqLlrs (s : State) (x : Cell) (e : Nat × Nat) : List Int := (devRead s ((harqPool x).1 + e.1) e.2).map (·.toInt)

/-- The buffer that a block adds into: that of its key, unless it is new data. -/
def harqHeld (x : Cell) (u : UlPdu) : Option (Nat × Nat) := if u.newData then none else NMap.find? x.harq (harqKey u.rnti u.harq)

/-- The LLRs of a block on which decoding runs: a retransmission adds into its buffer, with 8-bit saturation. -/
def harqSum (s : State) (x : Cell) (u : UlPdu) (llrs : List Int) : List Int :=
  match harqHeld x u with
  | some e => List.zipWith (fun i v => satLlr (v + llrs.getD i 0)) (List.range e.2) (harqLlrs s x e)
  | none => llrs.map satLlr

/-- Where a buffer of `n` bytes stands in the pool beside the others: the lowest place that is free (log 101); none where the pool is full. -/
def harqPlace (x : Cell) (m : NMap (Nat × Nat)) (n : Nat) : Option Nat :=
  let starts := 0 :: m.map fun (e : Nat × Nat × Nat) => e.2.1 + e.2.2
  let free := starts.filter fun a => decide (a + n ≤ (harqPool x).2) && m.all fun (e : Nat × Nat × Nat) => decide (a + n ≤ e.2.1 ∨ e.2.1 + e.2.2 ≤ a)
  match free with
  | [] => none
  | a :: rest => some (rest.foldl min a)

/-- A block stands in its buffer: a retransmission in the one that it added into, a new block in a place of its own, its key's former buffer
being freed. The second answer says that the pool was full, so that the block is not stored. -/
def harqStore (s : State) (c : Nat) (u : UlPdu) (buf : List Int) : State × Bool :=
  let x := cellAt s c
  let k := harqKey u.rnti u.harq
  let others := NMap.erase x.harq k
  let at_ := match harqHeld x u with | some e => some e.1 | none => harqPlace x others buf.length
  match at_ with
  | some a =>
    (devPut (modCell s c fun y => { y with harq := NMap.insert others k (a, buf.length) }) ((harqPool x).1 + a) (buf.map (BitVec.ofInt 8)), false)
  | none => (modCell s c fun y => { y with harq := others }, true)

/-- A buffer is freed. -/
def harqFree (s : State) (c k : Nat) : State := modCell s c fun x => { x with harq := NMap.erase x.harq k }

/-- A PUSCH of a slot has been reported. -/
def ulServed (s : State) (c first rnti harq : Nat) : State :=
  modCell s c fun x => { x with ul := NMap.adjust x.ul first fun m => { m with uls := m.uls.filter fun u => !(u.rnti == rnti && u.harq == harq) } }

/-- An uplink block that is not decoded: CRC.indication failed, with a reason (R296). -/
def puschLost (s : State) (c first rnti harq reason : Nat) (freed : Bool) : State :=
  let s1 := ulServed (if freed then harqFree s c (harqKey rnti harq) else s) c first rnti harq
  cellInd s1 c .crc first .ok stOk reason [rnti, harq, 0]

/-- Work of a slot that is skipped or lost: those of its PUSCH that have not been reported fail with a reason, and what of its DL is not sent
is reported with it (R296). -/
def slotLost (s : State) (c first reason : Nat) : State :=
  let x := cellAt s c
  let s1 := (match NMap.find? x.ul first with | some m => m.uls | none => []).foldl (fun y (u : UlPdu) => puschLost y c first u.rnti u.harq reason false) s
  if (NMap.find? x.dl first).isSome then txErrOnce s1 c first reason else s1

/-- The cells whose work of a plan's tick stands on a unit lose it (R80, R296, 20 R440). -/
def planUnitLost (s : State) (p : Plan) (u reason : Nat) : State :=
  (p.cells.filter fun c => c.units.contains u).foldl (fun y c => slotLost y c.cell (p.tick - c.tickInSlot) reason) s

/-- The cells whose work of this tick stands on a unit lose it. -/
def unitLost (s : State) (u reason : Nat) : State :=
  match currentPlan s with
  | none => s
  | some p => planUnitLost s p u reason

/-! ### Complex samples -/

/-- The key of a received PRB. -/
def prbKey (sym e prb : Nat) : Nat := sym * 2 ^ 32 + e * 512 + prb

/-- Samples I and Q by turns as pairs. -/
def iqPairs : List Int → List (Int × Int)
  | i :: q :: rest => (i, q) :: iqPairs rest
  | _ => []

/-- The squared magnitude of a complex number. -/
def power (z : Int × Int) : Int := z.1 * z.1 + z.2 * z.2

/-- The correlation of received samples with a sequence: the sum of r times the conjugate of the sequence. -/
def correlate (rx sq : List (Int × Int)) : Int × Int :=
  (List.zipWith (fun (r w : Int × Int) => (r.1 * w.1 + r.2 * w.2, r.2 * w.1 - r.1 * w.2)) rx sq).foldl (fun a z => (a.1 + z.1, a.2 + z.2)) (0, 0)

/-- The energy of a list of samples. -/
def energy (zs : List (Int × Int)) : Int := (zs.map power).foldl (· + ·) 0

/-! ### Random access (R285) -/

/-- Inserts into a list that falls. -/
def insertDown (x : Nat) : List Nat → List Nat
  | [] => [x]
  | y :: ys => if y ≤ x then x :: y :: ys else y :: insertDown x ys

/-- The noise floor: the mean over all windows but the 4 highest, as a sum and a count. -/
def rachFloor (ws : List RachWin) : Nat × Nat :=
  let rest := (ws.foldr (fun w l => insertDown w.mean l) []).drop 4
  (rest.foldl (· + ·) 0, rest.length)

/-- A preamble is detected in a window: its peak is PRACH_THR steps of 0.5 dB above the floor, and PRACH_PMR / 16 times
the window's mean. In whole numbers, 10^(THR / 20) ≤ peak / floor. -/
def rachHit (thr pmr : Nat) (fl : Nat × Nat) (w : RachWin) : Bool :=
  decide (fl.1 ^ 20 * 10 ^ thr ≤ (w.peak * fl.2) ^ 20) && decide (w.mean * pmr ≤ 16 * w.peak)

/-- The windows in which preambles are detected, at most 64, in ascending preamble index. -/
def rachDetect (thr pmr : Nat) (ws : List RachWin) : List RachWin :=
  let hits := ws.filter (rachHit thr pmr (rachFloor ws))
  let order := (hits.map fun w => w.index).foldl addSet []
  ((order.map fun i => hits.filter fun w => w.index == i).flatten).take 64

end Sys2Proof.Machine
end

