-- ==== Sys2Proof/Machine/Code.lean ====
section
/-!
DEFINITION. The code engines (13 R287 to R291, 20 R442).
-/
namespace Sys2Proof.Machine

/-! ### Code jobs (R288, R289) -/

/-- Logarithm to the base 2 of a polar length. -/
def log2Nat (n : Nat) : Nat := Nat.log2 n

/-- The cycles of a job (R289). -/
def codeCycles (j : CodeJob) : Nat :=
  let z := (j.zc + 31) / 32
  if j.op = 1 ∨ j.op = 5 then 480 + j.iter * j.rows * z
  else if j.op = 2 ∨ j.op = 6 then 240 + 2 * j.rows * z
  else if j.op = 3 then 240 + (j.polarN * log2Nat j.polarN + 3) / 4
  else 240 + (j.polarN + 3) / 4

/-- A job that runs on a polar engine. -/
def isPolar (j : CodeJob) : Bool := j.op == 3 || j.op == 4

/-- The declared length keeps R56 and R289. -/
def codeLengthOk (j : CodeJob) : Bool := decide (1 ≤ j.length ∧ j.length ≤ 1234 ∧ (codeCycles j + 239) / 240 ≤ j.length)

/-- Information columns of a base graph: 22 and 10 of TS 38.212, 129 of flash (11 R248, log 31). -/
def infoCols (j : CodeJob) : Nat := if 5 ≤ j.op then 129 else if j.bg = 1 then 22 else 10

/-- Bytes of packed bits. -/
def bitBytes (n : Nat) : Nat := (n + 7) / 8

/-- Bytes that a job reads: one for each LLR of a codeword, or packed bits (log 31). -/
def codeInBytes (j : CodeJob) : Nat :=
  if j.op = 1 ∨ j.op = 5 then (infoCols j + j.rows) * j.zc
  else if j.op = 2 ∨ j.op = 6 then bitBytes (infoCols j * j.zc)
  else if j.op = 3 then j.polarN else bitBytes j.polarK

/-- Bytes that a job writes. -/
def codeOutBytes (j : CodeJob) : Nat :=
  if j.op = 1 ∨ j.op = 5 then bitBytes (infoCols j * j.zc)
  else if j.op = 2 ∨ j.op = 6 then bitBytes ((infoCols j + j.rows) * j.zc)
  else if j.op = 3 then bitBytes j.polarK else bitBytes j.polarN

/-- The parameters of a job on which its result depends; the result is the same on every engine. -/
def codeArgs (j : CodeJob) : List Nat := [j.op, j.bg, j.zc, j.rows, j.iter, j.polarN, j.polarK, j.crc]

/-! ### LDPC decoding (R291) -/

/-- The checks of a code, layer by layer: the codeword bits of each. -/
def ldpcChecks (j : CodeJob) : List (List Nat) :=
  let g := Config.baseGraph j.op j.bg j.zc
  ((List.range j.rows).map fun r => (List.range j.zc).map fun k =>
    (g.filter fun e => e.1 == r).map fun e => e.2.1 * j.zc + (k + e.2.2) % j.zc).flatten

/-- What a check answers to the messages of its bits: for each the product of the other signs, and the least of the other magnitudes less
the offset of 1. -/
def minSum (qs : List Int) : List Int :=
  (List.range qs.length).map fun i =>
    let os := qs.eraseIdx i
    let m : Int := ((os.map Int.natAbs).foldl min 127 - 1 : Nat)
    if (os.filter (· < 0)).length % 2 = 1 then -m else m

/-- A check updates the values of its bits, and keeps what it answered. -/
def checkStep (bits : List Nat) (vals msgs : List Int) : List Int × List Int :=
  let qs := (List.range bits.length).map fun i => satLlr (vals.getD (bits.getD i 0) 0 - msgs.getD i 0)
  let rs := minSum qs
  ((List.range bits.length).foldl (fun v i => v.set (bits.getD i 0) (satLlr (qs.getD i 0 + rs.getD i 0))) vals, rs)

/-- One iteration: every check in its turn. -/
def ldpcPass : List (List Nat) → List (List Int) → List Int → List Int × List (List Int)
  | [], _, vals => (vals, [])
  | bits :: rest, msgs, vals =>
    let a := checkStep bits vals (msgs.headD [])
    let b := ldpcPass rest msgs.tail a.1
    (b.1, a.2 :: b.2)

/-- The hard decisions: a negative value is a 1 (log 31). -/
def hardBits (vals : List Int) : List Bool := vals.map fun v => decide (v < 0)

/-- Every check holds. -/
def syndromeZero (checks : List (List Nat)) (bits : List Bool) : Bool :=
  checks.all fun c => (c.filter fun i => bits.getD i false).length % 2 == 0

/-- At most `n` iterations, up to the first after which the syndrome is zero. -/
def ldpcRun (checks : List (List Nat)) : Nat → List (List Int) → List Int → List Int
  | 0, _, vals => vals
  | n + 1, msgs, vals =>
    let p := ldpcPass checks msgs vals
    if syndromeZero checks (hardBits p.1) then p.1 else ldpcRun checks n p.2 p.1

/-- Bits packed into bytes, the first in bit 7 of the first byte (log 31). -/
def packBits (bs : List Bool) : List Byte :=
  (List.range (bitBytes bs.length)).map fun i =>
    BitVec.ofNat 8 ((List.range 8).foldl (fun a k => 2 * a + bit1 (bs.getD (8 * i + k) false)) 0)

/-- Layered offset min-sum decoding: the information bits packed, and bits 0 and 1 of OUTCOME. -/
def ldpcDecoded (j : CodeJob) (inp : List Byte) : List Byte × Nat :=
  let checks := ldpcChecks j
  let bits := hardBits (ldpcRun checks j.iter [] (inp.map (·.toInt)))
  let info := bits.take (infoCols j * j.zc)
  (packBits info, bit1 (syndromeZero checks bits) + 2 * bit1 (j.crc == 1 && Config.crc24bOk info))

/-- What an engine makes of a job's input: the bytes it writes, and bits 0 and 1 of OUTCOME. The answer is the same on every engine. -/
def codeResult (j : CodeJob) (inp : List Byte) : List Byte × Nat :=
  if j.op = 1 ∨ j.op = 5 then ldpcDecoded j inp else (Config.codeOut (codeArgs j) inp, Config.codeOutcome (codeArgs j) inp % 4)

/-! ### Lists (R287, R288) -/

/-- A code-job entry at an address. -/
def codeJobAt (s : State) (a : Nat) : CodeJob :=
  let b := devRead s a 32
  { op := fieldAt b 0 1, bg := fieldAt b 1 1, zc := fieldAt b 2 2, rows := fieldAt b 4 1, iter := fieldAt b 5 1, length := fieldAt b 6 2,
    inp := fieldAt b 8 8, out := fieldAt b 16 8, polarN := fieldAt b 24 2, polarK := fieldAt b 26 2, crc := fieldAt b 28 2 }

/-- The fields of an entry lie in the ranges of R288: a lift size of TS 38.212 is 2, 3, 5, 7, 9, 11, 13 or 15 times a power of two. -/
def codeFieldsOk (j : CodeJob) : Bool :=
  let lift := [2, 3, 5, 7, 9, 11, 13, 15].any fun a => (List.range 8).any fun k => j.zc == a * 2 ^ k
  let polar := decide (j.polarN = 0 ∧ j.polarK = 0)
  decide (1 ≤ j.op ∧ j.op ≤ 6 ∧ j.crc ≤ 1) &&
  (if isPolar j then [32, 64, 128, 256, 512, 1024].contains j.polarN && decide (j.polarK ≤ j.polarN)
   else if 5 ≤ j.op then polar && decide (j.zc = 256 ∧ j.rows = 16 ∧ (j.op = 5 → j.iter = 20))
   else polar && lift && decide (j.zc ≤ 384 ∧ (j.bg = 1 ∨ j.bg = 2) ∧ 4 ≤ j.rows ∧ j.rows ≤ (if j.bg = 1 then 46 else 42) ∧
     1 ≤ j.iter ∧ j.iter ≤ 32))

/-- An entry of a list may be started: its fields, and the length of R56 and R289. -/
def codeEntryOk (j : CodeJob) : Bool := codeFieldsOk j && codeLengthOk j

/-- The entries of the list at an address, none where its header keeps R288 not. -/
def codeList (s : State) (ptr : Nat) : List CodeJob :=
  let h := devRead s ptr 16
  let n := fieldAt h 0 2
  if 1 ≤ n ∧ n ≤ 1024 ∧ fieldAt h 2 1 ≤ 63 ∧ fieldAt h 3 13 = 0 then (List.range n).map fun i => codeJobAt s (ptr + 16 + 32 * i) else []

/-- One block of a list has completed: with the last one its sync counter is incremented. -/
def listStep (s : State) (n : Nat) : State :=
  match NMap.find? s.rad.lists n with
  | none => s
  | some (left, ctr) =>
    if left ≤ 1 then incSync { s with rad := { s.rad with lists := NMap.erase s.rad.lists n } } ctr
    else { s with rad := { s.rad with lists := NMap.insert s.rad.lists n (left - 1, ctr) } }

/-- An entry of a code-job list completes with a status, and the OUTCOME that says what became of it (R288; log 31). -/
def codeEntryDone (s : State) (addr status outcome : Nat) : State :=
  let s1 := (devWrite s (addr + 30) (leBytes 2 outcome)).1
  { s1 with rad := { s1.rad with codeStatus := NMap.insert s1.rad.codeStatus addr status } }

/-- The list of a group is read and enqueued at its START: every block whose entry keeps R288 and R289, tagged with the group. Another entry
completes with INVALID and is not started (03 R56); a list with no other entry completes at once. A list that reads uncorrected, or whose
header is not one, starts nothing (log 31). -/
def startCodeList (s : State) (g ptr : Nat) : State :=
  let jobs := codeList s ptr
  let ctr := fieldAt (devRead s ptr 16) 2 1
  let n := s.rad.listN
  if badRange s ptr (16 + 32 * jobs.length) then recordUncorrected s ptr (16 + 32 * jobs.length)
  else if jobs.isEmpty then s
  else
  let good := (List.zip (List.range jobs.length) jobs).filter fun e => codeEntryOk e.2
  let bs : List Block := good.map fun e =>
    { job := e.2, group := g, list_ := n, tick := s.tkp.now, beat := 0, age := s.rad.ageN + e.1, index := e.1, addr := ptr + 16 + 32 * e.1 }
  let bad := (List.zip (List.range jobs.length) jobs).filter fun e => !codeEntryOk e.2
  let s := bad.foldl (fun x e => codeEntryDone x (ptr + 16 + 32 * e.1) stInvalid 4) s
  let s1 : State := { s with rad := { s.rad with radioQ := NMap.modify s.rad.radioQ [] (g / 4) (· ++ bs), listN := n + 1, ageN := s.rad.ageN + jobs.length } }
  if bs.isEmpty then incSync s1 ctr else { s1 with rad := { s1.rad with lists := NMap.insert s1.rad.lists n (bs.length, ctr) } }

/-! ### Engines (R290, R291) -/

/-- The group of an engine of a horizon die, by its index of 22 R481. -/
def engineGroup (hd e : Nat) : Nat := 4 * hd + (if e < 24 then e / 6 else e - 24)

/-- An engine may take a job: LDPC engines 0 to 23, polar engines 24 to 27. -/
def engineTakes (e : Nat) (j : CodeJob) : Bool := if e < 24 then !isPolar j else isPolar j

/-- An engine is idle and not retired. -/
def engineIdle (s : State) (hd e : Nat) : Bool :=
  (NMap.find? s.rad.engines (32 * hd + e)).isNone && !s.rad.deadEng.contains (32 * hd + e)

/-- No START of a group stands in the sealed plan in some beats from now on. -/
def groupQuiet (s : State) (g length : Nat) : Bool :=
  (wordsNow s).all fun w => !(startsUnit w (unitCode g) && decide (s.tkp.beat ≤ w.beat ∧ w.beat < s.tkp.beat + length))

/-- The block that an idle engine takes now: whether it is a FLASH block, and the block (R290). A group that stands on hold takes no FLASH
block, the only dynamic work of an engine (04 R76). -/
def enginePick (s : State) (hd e : Nat) : Option (Bool × Block) :=
  let g := engineGroup hd e
  let ok := fun (b : Block) => engineTakes e b.job && !b.not_.contains e && fitsTick s b.job.length
  let radio := NMap.getD s.rad.radioQ hd []
  match radio.find? fun b => b.group == g && ok b with
  | some b => some (false, b)
  | none =>
    match radio.find? ok with
    | some b => some (false, b)
    | none =>
      if radio.isEmpty ∧ !standsHold s (unitCode g) then
        ((NMap.getD s.rad.flashQ hd []).find? fun b => ok b && groupQuiet s g (effLen s b.job.length)).map fun b => (true, b)
      else none

/-- CODE_BLOCK_START: an idle engine takes the first admissible block, unless a lower engine of the die takes the same one. -/
def execCodeBlockStart (hd engine : Nat) (s : State) : Out :=
  if 1 < hd ∨ 27 < engine ∨ !engineIdle s hd engine then .next s
  else
    match enginePick s hd engine with
    | none => .next s
    | some (flash, b) =>
      let lower := (List.range engine).any fun e => engineIdle s hd e && (match enginePick s hd e with | some p => p.2.age == b.age | none => false)
      if lower then .next s
      else
        let take := fun (q : NMap (List Block)) => NMap.modify q [] hd fun l => l.filter fun x => x.age != b.age
        let b' := { b with tick := s.tkp.now, beat := s.tkp.beat }
        let r := s.rad
        let r1 := if flash then { r with flashQ := take r.flashQ } else { r with radioQ := take r.radioQ }
        .next { s with rad := { r1 with engines := NMap.insert r1.engines (32 * hd + engine) b' } }

/-- A block is rerun on an engine other than the one that failed: it stands at the head of its die's class with its age (20 R442). -/
def rerunBlock (s : State) (hd e : Nat) (b : Block) : State :=
  let front := fun (q : NMap (List Block)) => NMap.modify q [] hd fun l => { b with not_ := e :: b.not_ } :: l
  if b.list_ = 0 then { s with rad := { s.rad with flashQ := front s.rad.flashQ } } else { s with rad := { s.rad with radioQ := front s.rad.radioQ } }

/-- A third fault within 8,000 ticks retires the engine until the next start. -/
def engineFault (s : State) (hd e : Nat) : State :=
  let k := 32 * hd + e
  let recent := s.tkp.now :: (NMap.getD s.rad.engFaults k []).filter fun t => decide (s.tkp.now < t + 8000)
  let s1 := recordEvent { s with rad := { s.rad with engFaults := NMap.insert s.rad.engFaults k recent } } 0x5001 srcHw []
  if recent.length < 3 then s1
  else retireElement { s1 with rad := { s1.rad with deadEng := addSet s1.rad.deadEng k }
                               ras := { s1.ras with cntEngine := satAdd 16 s1.ras.cntEngine 1 } } 3 hd e 0x5001

/-- The result of a block: its output and OUTCOME; a source that reads uncorrected gives no output and neither a zero syndrome
nor a passed CRC. -/
def blockResult (s : State) (b : Block) : State :=
  if b.list_ = 0 then s
  else
    let n := codeInBytes b.job
    if badRange s b.job.inp n then codeEntryDone (recordUncorrected s b.job.inp n) b.addr stDeviceFault 4
    else
      let inp := devRead s b.job.inp n
      let r := codeResult b.job inp
      let m := codeOutBytes b.job
      let s1 := (devWrite s b.job.out ((List.range m).map fun i => r.1.getD i 0)).1
      codeEntryDone s1 b.addr stOk (4 + r.2)

/-- CODE_BLOCK_COMPLETE: the block's outcome is written and its list goes on, or the engine's fault reruns it (R287, R291). -/
def execCodeBlockComplete (hd engine : Nat) (fault : Bool) (s : State) : Out :=
  match NMap.find? s.rad.engines (32 * hd + engine) with
  | none => .next s
  | some b =>
    if launch s ≤ 1250 * b.tick + b.beat then .next s
    else
      let s1 : State := { s with rad := { s.rad with engines := NMap.erase s.rad.engines (32 * hd + engine) } }
      if fault then .next (engineFault (rerunBlock s1 hd engine b) hd engine)
      else if b.list_ = 0 then .next { s1 with rad := { s1.rad with codeFlash := satAdd 32 s1.rad.codeFlash 1 } }
      else
        let s2 := blockResult s1 b
        .next (listStep { s2 with rad := { s2.rad with codeRadio := satAdd 32 s2.rad.codeRadio 1 } } b.list_)

end Sys2Proof.Machine
end

