-- ==== Sys2Proof/Machine/Contexts.lean ====
section
/-!
DEFINITION. Contexts: creation, holds, switches and teardown (17 R385 to R394).
-/
namespace Sys2Proof.Machine

/-! ### CTX_CREATE and CTX_DESTROY (R386, R392) -/

/-- The extents that a CTX_CREATE carries. -/
def extentsOfParams (r : JRec) : List Extent :=
  (List.range (r.par 2 2)).map fun i =>
    let o := 64 + 16 * i
    { die := r.par o 1, save := r.par (o + 1) 1 % 2 == 1, first := r.par (o + 2) 1, count := r.par (o + 3) 1, src := r.par (o + 8) 8 }

/-- Two extents share a region of a deck. -/
def extentsMeet (a b : Extent) : Bool := a.die == b.die && decide (a.first < b.first + b.count ∧ b.first < a.first + a.count)

/-- Any two extents of a list meet. -/
def anyMeet : List Extent → Bool
  | [] => false
  | e :: es => es.any (extentsMeet e) || anyMeet es

/-- The fields of one extent entry lie within their ranges. -/
def extentFieldsOk (s : State) (r : JRec) (i : Nat) : Bool :=
  let o := 64 + 16 * i
  let fl := r.par (o + 1) 1
  decide (r.par o 1 < 4) && (fl == 1 || fl == 2) && decide (r.par (o + 2) 1 ≤ 191) &&
  decide (1 ≤ r.par (o + 3) 1 ∧ r.par (o + 3) 1 ≤ 192 - r.par (o + 2) 1) && r.zeros (o + 4) 4 &&
  (if fl = 1 then r.par (o + 8) 8 == 0
   else r.par (o + 8) 8 % 2 ^ 21 == 0 && decide (r.par (o + 8) 8 + 2 ^ 21 * r.par (o + 3) 1 ≤ usableU s))

/-- The conditions under which CTX_CREATE completes INVALID do not hold. -/
def ctxCreateOk (s : State) (r : JRec) : Bool :=
  let es := extentsOfParams r
  let n := r.par 2 2
  decide (64 ≤ r.params.length) && r.params.length == 64 + 16 * n && decide (r.par 0 1 < 64 ∧ r.par 1 1 ≤ 1 ∧ n ≤ 64) &&
  r.zeros 4 4 && r.zeros 24 40 && r.par 8 8 % 2 ^ 21 == 0 && decide (r.par 8 8 + r.par 16 8 ≤ interI s) &&
  decide (2 ^ 21 * saveRegions es ≤ r.par 16 8) && decide (saveRegions es ≤ 128) && (List.range n).all (extentFieldsOk s r) &&
  !anyMeet es &&
  es.all fun e => s.srv.pools.all fun p =>
    p.2.state == 0 || p.2.extents.all fun x => x.2.2 != 0 || !overlaps (extentRange e).1 (extentRange e).2 (extentSpan x).1 (extentSpan x).2

/-- The lowest free context id. -/
def freeCtx (s : State) : Option Nat := (List.range 1024).find? fun c => (ctxAt s c).state == 0

/-- CTX_CREATE (opcode 0x0502): the new context is OUT, and VALUE carries its id. -/
def execCtxCreate (q seq : Nat) (s : State) : Out :=
  .next (withCmd s q seq 0x0502 fun r s =>
    let slice := r.par 0 1
    let quota := quotaOf s slice
    if !ctxCreateOk s r then finish s q seq stInvalid 0
    else if r.par 1 1 = 1 ∧ (servingCtx s slice).isSome then finish s q seq stBusy 0
    else if quota.contexts ≤ ctxCount s slice ∨ 2 ^ 20 * quota.memMib < memCharged s slice + r.par 16 8 then
      finish s q seq stNoResource 0
    else
      match freeCtx s with
      | none => finish s q seq stNoResource 0
      | some c =>
        let x : Ctx := { slice := slice, serving := r.par 1 1 == 1, extents := extentsOfParams r, landing := r.par 8 8,
                         landBytes := r.par 16 8, fresh := true }
        let s1 := ctxState { s with slc := { s.slc with ctxs := NMap.insert s.slc.ctxs c x } } c 1
        finish s1 q seq stOk (BitVec.ofNat 64 c))

/-- The transfer lists of a context, over all ports. -/
def ctxLists (s : State) (c : Nat) : List XList :=
  (s.fab.ports.map fun p => p.2.lists.filter fun l => l.context == some c).flatten

/-- The issued entries of a context's lists that have no final status: local address and length. -/
def ctxOutstanding (s : State) (c : Nat) : List (Nat × Nat) :=
  ((ctxLists s c).map fun l =>
    ((List.zip (List.range l.next) (List.zip l.entries l.status)).filter fun e => e.2.2.isNone).map fun e => (e.2.1.local_, e.2.1.len)).flatten

/-- Deletes a context: its id is FREE. -/
def ctxFree (s : State) (c : Nat) : State :=
  let s1 := ctxState s c 0
  { s1 with slc := { s1.slc with ctxs := NMap.erase s1.slc.ctxs c } }

/-- The context that a command names in its first two parameter bytes exists: the command goes on, or completes INVALID. -/
def withCtx (s : State) (r : JRec) (len : Nat) (f : Nat → Ctx → State) : State :=
  let c := r.par 0 2
  if r.params.length ≠ len ∨ 1023 < c ∨ (ctxAt s c).state = 0 then finish s r.q r.seq stInvalid 0 else f c (ctxAt s c)

/-- CTX_DESTROY (opcode 0x0503): frees an OUT context. -/
def execCtxDestroy (q seq : Nat) (s : State) : Out :=
  .next (withCmd s q seq 0x0503 fun r s =>
    withCtx s r 2 fun c x =>
      if x.state ≠ 1 ∨ (x.serving ∧ !(liveOf s x.slice).isEmpty) ∨ !(ctxOutstanding s c).isEmpty then finish s q seq stBusy 0
      else finish (ctxFree s c) q seq stOk 0)

/-! ### CTX_HOLD and CTX_RESUME (R389, R392) -/

/-- CTX_HOLD (opcode 0x0504): no kernel of the context is admitted from here on; DONE at HELD, or with OUT at the end of
SAVING. -/
def execCtxHold (q seq : Nat) (s : State) : Out :=
  .next (withCmd s q seq 0x0504 fun r s =>
    if r.params.length ≠ 3 ∨ 1 < r.par 2 1 ∨ 1023 < r.par 0 2 ∨ (ctxAt s (r.par 0 2)).state = 0 then finish s q seq stInvalid 0
    else
      let c := r.par 0 2
      let out := r.par 2 1 == 1
      let x := ctxAt s c
      if x.state ≠ 3 ∧ x.state ≠ 4 then finish s q seq stBusy 0
      else
        let s1 := modCtx s c fun y => { y with holding := true, holdAsk := y.holdAsk ++ [(q, seq, out)] }
        if x.state = 4 then
          if out then s1 else finish (modCtx s c fun y => { y with holding := true }) q seq stOk 0
        else heldCheck s1 c)

/-- A CTX_HOLD with OUT of a context has been accepted and is not DONE. -/
def holdsOut (x : Ctx) : Bool := x.holdAsk.any fun h => h.2.2

/-- Contexts other than one whose extents meet its own. -/
def rivals (s : State) (c : Nat) : List (Nat × Ctx) :=
  s.slc.ctxs.filter fun o => o.1 != c && o.2.state != 0 && o.2.extents.any fun a => (ctxAt s c).extents.any (extentsMeet a)

/-- CTX_RESUME (opcode 0x0505). -/
def execCtxResume (q seq : Nat) (s : State) : Out :=
  .next (withCmd s q seq 0x0505 fun r s =>
    withCtx s r 2 fun c x =>
      if x.state = 4 then
        if holdsOut x then finish s q seq stBusy 0
        else finish (ctxState (modCtx s c fun y => { y with holding := false, orphaned := false }) c 3) q seq stOk 0
      else if x.state ≠ 1 ∨ x.resumeAsk.isSome then finish s q seq stBusy 0
      else if (rivals s c).any (fun o => o.2.state == 2 || ((o.2.state == 3 || o.2.state == 4) && !holdsOut o.2)) then
        finish s q seq stBusy 0
      else modCtx s c fun y => { y with resumeAsk := some (q, seq), restoreAt := some (s.tkp.now + 1) })

/-- Tiles whose holding context is the one given (R388). -/
def tilesHeld (s : State) (c : Nat) : Nat := (s.tiles.filter fun t => t.2.holder == some c).length

/-- Steal-queue entries of a context, over all queues. -/
def queuedOf (s : State) (c : Nat) : Nat :=
  ((s.tiles.map fun t => (t.2.q.filter fun j => j.context == c).length).foldl (· + ·) 0) +
  ((s.dies.queues.map fun d => (d.2.filter fun j => j.context == c).length).foldl (· + ·) 0)

/-- The record of CTX_QUERY: the items of R392 in order, packed. -/
def ctxRecord (s : State) (c : Nat) : List Byte :=
  let x := ctxAt s c
  leBytes 1 x.state ++ leBytes 1 x.slice ++ leBytes 2 (tilesHeld s c) ++ leBytes 4 (queuedOf s c) ++
    leBytes 4 (ctxOutstanding s c).length ++ leBytes 8 x.changed ++ List.replicate 44 0

/-- CTX_QUERY (opcode 0x0506); a FREE context reports state code 0. -/
def execCtxQuery (q seq : Nat) (s : State) : Out :=
  .next (withCmd s q seq 0x0506 fun r s =>
    if r.params.length ≠ 2 ∨ 1023 < r.par 0 2 then finish s q seq stInvalid 0
    else if (ctxAt s (r.par 0 2)).state = 0 then finishWith s q seq stOk 0 (List.replicate 64 0)
    else finishWith s q seq stOk 0 (ctxRecord s (r.par 0 2)))

/-! ### Switching (R391, R392) -/

/-- The 2 MiB regions of some extents, by 256 extent + region. -/
def regionsOf (es : List Extent) (p : Extent → Bool) : List Nat :=
  ((List.zip (List.range es.length) es).map fun e => if p e.2 then (List.range e.2.count).map (256 * e.1 + ·) else []).flatten

/-- Source and destination of the switch burst of one region: from the deck to the landing zone when saving, otherwise
from the landing zone or SRC to the deck. -/
def switchBurst (x : Ctx) (k : Nat) : Nat × Nat :=
  match x.extents[k / 256]? with
  | none => (0, 0)
  | some e =>
    let deck := (extentRange e).1 + 2 ^ 21 * (k % 256)
    let land := x.landing + 2 ^ 21 * (landOffset x.extents (k / 256) + k % 256)
    if x.state = 5 then (deck, land) else if e.save then (land, deck) else (e.src + 2 ^ 21 * (k % 256), deck)

/-- The context leaves SAVING for OUT, and its CTX_HOLD commands with OUT are DONE. -/
def saveDone (s : State) (c : Nat) : State :=
  (ctxAt s c).holdAsk.foldl (fun y h => finish y h.1 h.2.1 stOk 0)
    (modCtx (ctxState s c 1) c fun y => { y with holdAsk := [], holding := false, fresh := false })

/-- CTX_SAVE_START: at the first seam after the context is HELD, with a hold that asks OUT. -/
def execCtxSaveStart (ctx : Nat) (s : State) : Out :=
  let x := ctxAt s ctx
  if x.state = 4 ∧ holdsOut x ∧ s.tkp.beat = 0 ∧ x.changed < s.tkp.now then
    let s1 := modCtx (ctxState s ctx 5) ctx fun y => { y with left := regionsOf y.extents (·.save) }
    .next (if (ctxAt s1 ctx).left.isEmpty then saveDone s1 ctx else s1)
  else .next s

/-- What a waiting resume finds at a seam: it begins (1), completes BUSY (2), or keeps waiting (0). -/
def resumeExam (s : State) (c : Nat) : Nat :=
  let rs := rivals s c
  if rs.all (fun o => o.2.state != 2 && o.2.state != 3 && o.2.state != 4 && o.2.state != 5) then 1
  else if rs.any (fun o => o.2.state == 2 || o.2.state == 3 || (o.2.state == 4 && !holdsOut o.2)) then 2
  else 0

/-- The order in which resumes were accepted; a restore after a warm reset has no command and comes first. -/
def resumeOrder (s : State) (x : Ctx) : Nat :=
  match x.resumeAsk with | some (q, seq) => (match findRec s q seq with | some r => r.order + 1 | none => 0) | none => 0

/-- A context waits for its restore at this seam; after a reset that stopped READY does not rise again, and none restores (23 R494, R499). -/
def waitsRestore (s : State) (x : Ctx) : Bool :=
  x.state == 1 && dueBy x.restoreAt s.tkp.now && s.ras.state == 0

/-- CTX_RESTORE_START: a resume is examined at a seam, after those accepted before it whose extents meet its own and
which begin. -/
def execCtxRestoreStart (ctx : Nat) (s : State) : Out :=
  let x := ctxAt s ctx
  if waitsRestore s x ∧ s.tkp.beat = 0 ∧
     (rivals s ctx).all (fun o => !(waitsRestore s o.2 && decide (resumeOrder s o.2 < resumeOrder s x) && resumeExam s o.1 == 1)) then
    if resumeExam s ctx = 1 then
      let s1 := modCtx (ctxState s ctx 2) ctx fun y => { y with left := regionsOf y.extents (fun _ => true), restoreAt := none }
      .next (modCtx s1 ctx fun y => { y with readyAt := if y.left.isEmpty then some s.tkp.now else none })
    else if resumeExam s ctx = 2 then
      match x.resumeAsk with
      | some (q, seq) => .next (finish (modCtx s ctx fun y => { y with resumeAsk := none, restoreAt := none }) q seq stBusy 0)
      | none => .next s
    else .next s
  else .next s

/-- CTX_ACTIVATE: at the seam after the last restore burst the context is ACTIVE, and CTX_RESUME is DONE. -/
def execCtxActivate (ctx : Nat) (s : State) : Out :=
  let x := ctxAt s ctx
  if x.state = 2 ∧ x.left.isEmpty ∧ s.tkp.beat = 0 ∧ dueBy x.readyAt s.tkp.now then
    let s1 := modCtx (ctxState s ctx 3) ctx fun y => { y with readyAt := none, resumeAsk := none, fresh := false, holding := false }
    match x.resumeAsk with
    | some (q, seq) => .next (finish s1 q seq stOk 0)
    | none => .next s1
  else .next s

/-! ### Teardown (R393, R394) -/

/-- Opcodes of the commands that run in a slice's serving context (R385). -/
def servingOps : List Nat := [0x0210, 0x0211, 0x0214, 0x0215, 0x0216, 0x0410]

/-- The commands of a context: those of its slice that run in it when it serves, the launches that name it, and the
pending commands that name it. -/
def ctxCommands (s : State) (c : Nat) (x : Ctx) (r : JRec) : Bool :=
  (x.serving && servingOps.contains r.opcode && decide (sliceOfRec s r = some x.slice)) ||
  ([0x0503, 0x0504, 0x0505, 0x0510].contains r.opcode && r.par 0 2 == c)

/-- A scrub (R394): memories, anvils and weight sets empty, mask registers all ones. -/
def scrubTile (x : Tile) : Tile :=
  { x with state := .scrub, x := [], y := [], st := [], ar0 := {}, ar1 := {}, holder := none,
           mreg := (List.range 16).map fun i => (i, BitVec.allOnes 64) }

/-- Takes the steal-queue entries of a context off every queue. -/
def dropEntries (s : State) (c : Nat) : State :=
  { s with tiles := s.tiles.map fun t => (t.1, { t.2 with q := t.2.q.filter fun j => j.context != c, nextJob := t.2.nextJob.filter fun j => j.1.context != c })
           dies := { s.dies with queues := s.dies.queues.map fun d => (d.1, d.2.filter fun j => j.context != c) } }

/-- Takes the entries that have not issued off a context's transfer lists. -/
def cutLists (s : State) (c : Nat) : State :=
  { s with fab := { s.fab with ports := s.fab.ports.map fun p =>
      (p.1, { p.2 with lists := (p.2.lists.map fun l =>
        if l.context = some c then { l with entries := l.entries.take l.next, status := l.status.take l.next } else l) }) } }

/-- The requests of a slice end with its serving context: moves first (11 R239, R241), then every live request, and the
steps of the slice run no longer; an abort that waited for a commit boundary finds its request ABORTED (10 R212), and an admission that
waited is a command of the context like any other. -/
def endSlice (s : State) (slice : Nat) (reset : Bool) : State :=
  let s1 := movesEnd s slice
  let s2 := (liveOf s1 slice).foldl (fun y e => endReq y e.1 8 (if reset then 8 else 7)) s1
  let runs := s2.srv.steps.filter fun e => e.1 / 256 == slice
  let s3 : State := { s2 with srv := { s2.srv with steps := s2.srv.steps.filter fun e => e.1 / 256 != slice } }
  (runs.map fun e => e.2.waits).flatten.foldl (applyWait fun y r => finish y r.q r.seq (if reset then stAborted else stContextFault) 0) s3

/-- What runs for commands that are DONE and for steps that run no longer is dropped: ATTN commands with their pins, merges,
launched jobs, and prefix commands with their frames. -/
def dropDone (s : State) : State :=
  let ended := fun (q seq : Nat) =>
    if stepQ 0 ≤ q then (NMap.find? s.srv.steps (q - stepQ 0)).isNone
    else match findRec s q seq with | some r => r.stage == 3 | none => true
  let s1 := (s.attn.filter fun a => ended a.q a.seq).foldl (fun y a => a.pins.foldl (fun z p => (releasePage z p.1 p.2).1) y) s
  let s2 := (s1.mov.ops.filter fun o => ended o.q o.seq).foldl (fun y o => pfxRelease (dropPfx y o.q o.seq) o) s1
  { s2 with attn := s2.attn.filter fun a => !ended a.q a.seq, merges := s2.merges.filter fun m => !ended m.q m.seq,
            tim := { s2.tim with jobs := s2.tim.jobs.filter fun j => !ended j.q j.seq } }

/-- Tears a context down (R393): TORN, its entries and lists gone, its requests and commands ended, its tiles scrubbed,
its deck extents and landing zone zeroed, and the event that names it and the cause. -/
def tearDown (s : State) (c cause : Nat) (reset : Bool) : State :=
  let x := ctxAt s c
  let resident := [2, 3, 4, 5].contains x.state
  let s1 := cutLists (dropEntries (modCtx (ctxState s c 6) c fun y =>
    { y with holdAsk := [], resumeAsk := none, holding := false, left := [], restoreAt := none, readyAt := none, resetting := reset }) c) c
  let s2 := if x.serving then endSlice s1 x.slice reset else s1
  let s3 := finishAll s2 (ctxCommands s c x) (if reset then stAborted else stContextFault)
  let s4 := dropDone s3
  let s5 : State := { s4 with tiles := s4.tiles.map fun t => (t.1, if t.2.ranLast.contains c then scrubTile t.2 else t.2) }
  let s6 := devZero s5 x.landing x.landBytes
  let s7 := if resident then x.extents.foldl (fun y e => devZero y (extentRange e).1 (extentRange e).2) s6 else s6
  recordEvent s7 0x8004 srcHw [c, cause]

/-- CONTEXT_TEARDOWN: at the seam after its cause. -/
def execContextTeardown (ctx : Nat) (s : State) : Out :=
  match List.find? (fun (e : Nat × Nat) => e.1 == ctx) s.dies.torn with
  | some e =>
    if s.tkp.beat = 0 ∧ (ctxAt s ctx).state ≠ 0 ∧ (ctxAt s ctx).state ≠ 6 then
      .next (tearDown { s with dies := { s.dies with torn := s.dies.torn.filter fun x => x.1 != ctx } } ctx e.2 false)
    else .next s
  | none => .next s

/-- CONTEXT_RELEASE: at the first seam at which the zeroing has completed and every fabric entry of the context has a
final status, the context is FREE. -/
def execContextRelease (ctx : Nat) (s : State) : Out :=
  let x := ctxAt s ctx
  if x.state = 6 ∧ s.tkp.beat = 0 ∧ x.changed < s.tkp.now ∧ (ctxOutstanding s ctx).isEmpty then .next (ctxFree s ctx) else .next s

end Sys2Proof.Machine
end

