-- ==== Sys2Proof/Machine/Dma.lean ====
section
/-!
DEFINITION. The DMA engines (08 R172 to R174) with what their bursts serve: switch bursts (17 R391), staging of attention
chains (09 R203, R204), moves and prefix copies (11 R236, R246), and the radio floor (13 R296).
-/
namespace Sys2Proof.Machine

/-! ### The descriptor and its checks (R172, R173) -/

/-- An endpoint of a burst names a space, is 64-byte aligned, keeps its other bits 0, and its range exists (R164, R173). -/
def endpointOk (s : State) (a n : Nat) : Bool :=
  a % 64 == 0 &&
  (if spaceOf a = 0 then decide (a < 2 ^ 40) && usableRange s a n
   else if spaceOf a = 1 then decide (a % 2 ^ 56 / 2 ^ 40 < 160 ∧ a % 2 ^ 40 + n ≤ 2 ^ 21)
   else if spaceOf a = 2 then decide (a % 2 ^ 56 + n ≤ 2 ^ 48)
   else if spaceOf a = 3 then decide (a % 2 ^ 56 + n ≤ 2 ^ 52)
   else false)

/-- The fabric address of an endpoint in local or fabric space. -/
def fabricPlace (s : State) (a : Nat) : Nat := if spaceOf a = 0 then 2 ^ 40 * s.fab.device + a else a % 2 ^ 48

/-- The worst-case rate of an endpoint in bytes per beat. -/
def spaceRate (a : Nat) : Nat := if spaceOf a ≤ 1 then 4096 else if spaceOf a = 2 then 2048 else 1024

/-- The declared length that a burst needs at least; a slice with encryption needs one beat more (21 R473). -/
def needBeats (s : State) (b : Burst) : Nat :=
  let r := if b.op = 2 then spaceRate b.dst else min (spaceRate b.src) (spaceRate b.dst)
  1 + (b.bytes + r - 1) / r + (match b.slice with | some x => bit1 (isEncrypted s x) | none => 0)

/-- The burst that a descriptor describes. -/
def burstOf (s : State) (desc : Nat) (slice context : Option Nat) (use : BurstUse) : Burst :=
  let d := devRead s desc 64
  { desc := desc, op := fieldAt d 0 2, flags := fieldAt d 2 2, length := fieldAt d 4 2, src := fieldAt d 8 8, dst := fieldAt d 16 8,
    bytes := fieldAt d 24 4, next := fieldAt d 32 8, donePtr := fieldAt d 40 8, tick := s.tkp.now, beat := s.tkp.beat, slice := slice,
    context := context, use := use, got := [], fail := none }

/-- The descriptor keeps R164, R172 and R173; a reserved flag or byte that is not 0 makes it INVALID too (DESIGN CHOICE, log 115). -/
def descOk (s : State) (b : Burst) : Bool :=
  let d := devRead s b.desc 64
  (b.op == 1 || b.op == 2) && decide (b.flags ≤ 3) && decide (1 ≤ b.length ∧ b.length ≤ 1234) && fieldAt d 6 2 == 0 &&
  decide (64 ≤ b.bytes) && b.bytes % 64 == 0 && fieldAt d 28 4 == 0 && fieldAt d 50 6 == 0 && fieldAt d 60 4 == 0 &&
  (b.op == 2 || endpointOk s b.src b.bytes) && endpointOk s b.dst b.bytes && decide (needBeats s b ≤ b.length) &&
  (b.flags % 2 == 0 || (b.donePtr % 8 == 0 && usableRange s b.donePtr 8)) &&
  (b.flags / 2 == 0 || (b.next % 64 == 0 && usableRange s b.next 64))

/-- The endpoint is the tile store of a tile that another context holds (17 R388), or host memory in orphan mode (18 R413). -/
def endpointDenied (s : State) (b : Burst) (a : Nat) : Bool :=
  (spaceOf a == 1 && (match (tileAt s (a % 2 ^ 56 / 2 ^ 40)).holder with | some h => h != b.context.getD 1024 | none => false)) ||
  (spaceOf a == 3 && s.hst.orphan)

/-- A burst reads or writes host memory. -/
def usesHost (b : Burst) : Bool := (b.op == 1 && spaceOf b.src == 3) || spaceOf b.dst == 3

/-- Writes the status of a burst, and signals its completion. -/
def burstStatus (s : State) (b : Burst) (st : Nat) (signal : Bool) : State :=
  let s1 := devPut s (b.desc + 48) (leBytes 2 st)
  if signal ∧ b.flags % 2 = 1 ∧ b.donePtr % 8 = 0 ∧ usableRange s b.donePtr 8 then bumpCounter s1 b.donePtr else s1

/-- The loads of a burst from the fabric: DENIED at issue for a device outside the partition (14 R331). -/
def burstLoads (s : State) (eng : Nat) (b : Burst) : State :=
  let a := b.src % 2 ^ 48
  if !inPartition s (a / 2 ^ 40) then burstDenied s eng b (a / 2 ^ 40)
  else (fabPieces (b.bytes / 64 + 2) a 0 b.bytes).foldl (fun y p =>
    issueReq y (a / 2 ^ 40) (reqPacket 0x10 (a + p.1) p.2 (sliceTag s b.slice) false []) (some (dmaTag eng, p.1, 0)) (some (burstKey b))) s

/-- A read of the source finds an uncorrected error. -/
def sourceBad (s : State) (b : Burst) : Bool := b.op == 1 && spaceOf b.src == 0 && badRange s b.src b.bytes

/-- The bytes that a burst reads: the pattern of a FILL, or the source; of the fabric, what has come. -/
def burstData (s : State) (b : Burst) : List Byte :=
  if b.op = 2 then (List.replicate (b.bytes / 8) (leBytes 8 b.src)).flatten
  else if spaceOf b.src = 0 then (match b.slice with | some x => readAs s x b.src b.bytes | none => viewRead s b.src b.bytes)
  else if spaceOf b.src = 1 then
    let t := b.src % 2 ^ 56 / 2 ^ 40
    bytesAt ((tileAt s t).land (kernelCycle s t)).stByte (b.src % 2 ^ 40) b.bytes
  else if spaceOf b.src = 3 then hostRead s (slicePas s b.slice) (b.src % 2 ^ 56) b.bytes
  else (b.got.map fun (e : Nat × List Byte) => e.2).flatten

/-- Writes bytes to the destination of a burst, but for the fabric, whose stores go out as data come; the flag says whether
every write was performed (R167, R504). -/
def burstWrite (s : State) (b : Burst) (bs : List Byte) : State × Bool :=
  if spaceOf b.dst = 0 then devWrite s b.dst bs
  else if spaceOf b.dst = 1 then
    (tileStore s (b.dst % 2 ^ 56 / 2 ^ 40) (List.zipWith (fun i v => (storeBits (b.dst % 2 ^ 40 + i), v)) (List.range bs.length) bs), true)
  else if spaceOf b.dst = 3 then (hostWrite s (slicePas s b.slice) (b.dst % 2 ^ 56) bs, true)
  else (s, true)

/-- The check lines that a burst's read of the device uses (R166). -/
def burstReads (s : State) (b : Burst) : State := if b.op = 1 ∧ spaceOf b.src = 0 then noteReads s b.src b.bytes else s

/-- A burst begins: its loads from the fabric go out, or its stores to the fabric from a source on the device. -/
def burstBegin (s : State) (eng : Nat) (b : Burst) : State :=
  let s1 : State := { s with mem := { s.mem with dma := NMap.insert s.mem.dma eng b } }
  if b.op = 1 ∧ spaceOf b.src = 2 then burstLoads s1 eng b
  else if spaceOf b.dst = 2 ∧ !sourceBad s b then burstStore s1 eng 0 (burstData s b)
  else s1

/-- DMA_DESCRIPTOR_START: the engine takes the descriptor that a chain names, or one of a dynamic job, which firmware may write
as it places it; every burst ends before the dusk band, and a dynamic one keeps clear of static work (03 R57, 04 R78). A descriptor that
itself reads uncorrected ends with no STATUS, its context left as it is (DESIGN CHOICE, log 115). -/
def execDmaDescriptorStart (eng desc : Nat) (body : List Byte) (slice context : Option Nat) (use : BurstUse) (s0 : State) : Out :=
  let chained := NMap.find? s0.mem.dmaNext eng
  if 15 < eng ∨ (NMap.find? s0.mem.dma eng).isSome ∨ desc % 64 ≠ 0 ∨ !usableRange s0 desc 64 ∨ (chained.isSome ∧ chained ≠ some desc) ∨
     (body ≠ [] ∧ body.length ≠ 64) then .next s0
  else
    let s := if body.isEmpty then s0 else devPut s0 desc body
    let b := burstOf s desc slice context use
    let taken : State := { s with mem := { s.mem with dmaNext := NMap.erase s.mem.dmaNext eng } }
    if attnSameTick s use (fabricPlace s b.src) then .next s0
    else if badRange s desc 64 then .next (recordUncorrected taken desc 64)
    else if !descOk s b then .next (burstStatus taken b stInvalid true)
    else if (b.op = 1 ∧ endpointDenied s b b.src) ∨ endpointDenied s b b.dst then .next (burstStatus taken b stDenied true)
    else if (chained.isNone ∧ !fitsBefore s (unitDma eng) b.length) ∨ !fitsTick s b.length ∨ (usesHost b ∧ !s.hst.busMaster) ∨
            (chained.isNone ∧ standsHold s (unitDma eng)) then .next s
    else .next (burstBegin taken eng b)

/-! ### The end of a burst -/

/-- Requests of an engine that have no final status. -/
def dmaLeft (s : State) (eng : Nat) : Bool :=
  s.fab.tx.any fun t => (t.2.outst ++ t.2.held).any fun o => match o.origin with | some (n, _, _) => n == dmaTag eng | none => false

/-- The region of a switch that a burst of a context copies (17 R391). -/
def switchRegion (s : State) (b : Burst) : Option (Nat × Nat) :=
  match b.context with
  | none => none
  | some c =>
    let x := ctxAt s c
    if (x.state = 2 ∨ x.state = 5) ∧ b.op = 1 ∧ b.use = .plain ∧ b.bytes = 2 ^ 21 then
      (x.left.find? fun k => switchBurst x k == (b.src, b.dst)).map fun k => (c, k)
    else none

/-- A region read as zero at a switch in: a SAVE extent of a fresh context (17 R386, 23 R499). -/
def regionFresh (x : Ctx) (k : Nat) : Bool :=
  x.state == 2 && x.fresh && (match x.extents[k / 256]? with | some e => e.save | none => false)

/-- A switch burst has completed: it carries poison across; with the last one SAVING ends, or the context may become ACTIVE at
the next seam (17 R391). -/
def switchDone (s : State) (c k src dst : Nat) : State :=
  let x := ctxAt s c
  let s1 := if regionFresh x k then devZero s dst (2 ^ 21) else copyCarry s src dst (2 ^ 21)
  let left := x.left.filter (· ≠ k)
  let s2 := modCtx s1 c fun y => { y with left := left }
  if left.isEmpty then
    if x.state = 5 then saveDone s2 c else modCtx s2 c fun y => { y with readyAt := some (s.tkp.now + 1) }
  else s2

/-- What a burst serves goes on once it has completed OK. -/
def burstServed (s : State) (b : Burst) : State :=
  match b.use with
  | .plain => s
  | .attn q seq chain => attnStaged s q seq chain (fabricPlace s b.src) b.bytes b.dst
  | .radio _ _ _ _ _ => s
  | .move idx => moveBurst s idx (fabricPlace s b.src) b.bytes (fabricPlace s b.dst)
  | .pfx q seq => pfxBurst s q seq (fabricPlace s b.src) b.bytes (fabricPlace s b.dst)

/-- What a burst serves when it ends with a status other than OK; `bad` says that its source read uncorrected (R167). -/
def burstLost (s : State) (b : Burst) (st : Nat) (bad : Bool) : State :=
  match b.use with
  | .plain => match b.context with | some c => if bad then barContext s c 0x2002 else s | none => s
  | .attn q seq chain => if st = stTimeout then attnTimeout s q seq chain (fabricPlace s b.src) else attnFail s q seq chain st
  | .radio cell first rnti harq dl =>
    if !bad then s else if dl then txErrOnce s cell first 3 else puschLost s cell first rnti harq 3 true
  | .move idx => if bad then movePoisoned s idx (fabricPlace s b.src) else sendQuery s idx
  | .pfx q seq => match findPfx s q seq with | some o => pfxFail s o st | none => s

/-- The engine is free, and a chain goes on after OK (R172). -/
def burstOver (s : State) (eng : Nat) (b : Burst) (st : Nat) : State :=
  let next := if st = stOk ∧ b.flags / 2 % 2 = 1 then NMap.insert s.mem.dmaNext eng b.next else s.mem.dmaNext
  { s with mem := { s.mem with dma := NMap.erase s.mem.dma eng, dmaNext := next } }

/-- DMA_BURST_COMPLETE: the copy or fill takes effect, STATUS is written, DONE_PTR is signalled and NEXT is followed. A burst
whose fabric requests have no final status goes on. -/
def execDmaBurstComplete (eng : Nat) (s : State) : Out :=
  match NMap.find? s.mem.dma eng with
  | none => .next s
  | some b =>
    if dmaLeft s eng then .next s
    else
      match switchRegion s b with
      | some (c, k) =>
        if lostRange s b.dst b.bytes then .next (burstOver (burstStatus s b stDeviceFault true) eng b stDeviceFault)
        else .next (burstOver (burstStatus (switchDone s c k b.src b.dst) b stOk true) eng b stOk)
      | none =>
        if sourceBad s b then
          .next (burstLost (burstOver (burstStatus (recordUncorrected s b.src b.bytes) b stDeviceFault true) eng b stDeviceFault) b stDeviceFault true)
        else
          match b.fail with
          | some st => .next (burstLost (burstOver (burstStatus s b st true) eng b st) b st false)
          | none =>
            let w := burstWrite (burstReads s b) b (burstData s b)
            if w.2 then .next (burstServed (burstOver (burstStatus w.1 b stOk true) eng b stOk) b)
            else .next (burstLost (burstOver (burstStatus w.1 b stDeviceFault true) eng b stDeviceFault) b stDeviceFault false)

/-- A request is one of an engine's. -/
def ofEngine (eng : Nat) (o : OutReq) : Bool := match o.origin with | some (n, _, _) => n == dmaTag eng | none => false

/-- The requests of an engine that have gone out end without effect on it, and those that have not are dropped (R174). -/
def dropOrigins (s : State) (eng : Nat) : State :=
  let cut := fun (o : OutReq) => if ofEngine eng o then { o with origin := none } else o
  { s with fab := { s.fab with tx := s.fab.tx.map fun (t : Nat × TxStream) =>
      (t.1, { t.2 with outst := t.2.outst.map cut, held := t.2.held.filter fun o => !ofEngine eng o }) } }

/-- The bytes of a burst to the fabric whose stores have gone out: those below its first store that is held. -/
def sentRun (s : State) (eng n : Nat) : Nat :=
  let offs := (s.fab.tx.map fun (t : Nat × TxStream) => (t.2.held.filter (ofEngine eng)).filterMap fun o =>
    match o.origin with | some (_, off, k) => if k = 1 then some off else none | none => none).flatten
  offs.foldl min n

/-- DMA_BURST_TIMEOUT: still moving at its declared length, the burst stops with TIMEOUT; `moved` bytes are written, or to the
fabric those whose stores have gone out (R174); it signals no DONE_PTR (DESIGN CHOICE, log 115). -/
def execDmaBurstTimeout (eng moved : Nat) (s : State) : Out :=
  match NMap.find? s.mem.dma eng with
  | none => .next s
  | some b =>
    if launch s < 1250 * b.tick + b.beat + b.length then .next s
    else
      let have_ := if b.op = 1 ∧ spaceOf b.src = 2 then gotRun b.got 0 else b.bytes
      let n := if sourceBad s b then 0 else if spaceOf b.dst = 2 then sentRun s eng have_ / 64 * 64 else min (min moved b.bytes) have_ / 64 * 64
      let s1 := (burstWrite (dropOrigins s eng) b ((burstData s b).take n)).1
      let s2 := devPut (burstStatus s1 b stTimeout false) (b.desc + 56) (leBytes 4 n)
      .next (burstLost (burstOver s2 eng b stTimeout) b stTimeout false)

end Sys2Proof.Machine
end

