-- ==== Sys2Proof/Machine/Target.lean ====
section
/-!
DEFINITION. The target's side of the fabric: ingress, protection, application in PSN order, the replay window and
acknowledgement (14 R305 to R308, R311, R313, R318 to R331).
-/
namespace Sys2Proof.Machine

/-! ### Ingress (R305, R306, R327, R331) -/

/-- The packet opcodes of R306. -/
def knownOp (op : Nat) : Bool := [0x10, 0x11, 0x12, 0x13, 0x14, 0x20, 0x21, 0x22, 0x23, 0x30, 0x31].contains op

/-- Counts a packet in FAB_E2E.DROPPED. -/
def dropPacket (s : State) : State := { s with fab := { s.fab with dropped := satAdd 16 s.fab.dropped 1 } }

/-- Drops a packet from outside the partition: counted, and recorded once per source in 8,000 ticks (R331). -/
def foreignPacket (s : State) (p : Packet) : State :=
  let s1 : State := { s with fab := { s.fab with foreign := satAdd 16 s.fab.foreign 1 } }
  match NMap.find? s.fab.foreignEvt p.src with
  | some t => if s.tkp.now < t + 8000 then s1
    else recordEvent { s1 with fab := { s1.fab with foreignEvt := NMap.insert s1.fab.foreignEvt p.src s.tkp.now } } 0x6003 srcHw []
  | none => recordEvent { s1 with fab := { s1.fab with foreignEvt := NMap.insert s1.fab.foreignEvt p.src s.tkp.now } } 0x6003 srcHw []

/-- A packet of an opcode at a port that is UP passes the checks that drop it, and goes on. -/
def ingress (s : State) (port : Nat) (p : Packet) (op : Nat) (k : State → State) : State :=
  if (wport s port).state ≠ 2 then s
  else if !inPartition s p.src then foreignPacket s p
  else if packetCrc p ≠ p.ecrc then dropPacket s
  else if p.op ≠ op then (if knownOp p.op then s else dropPacket s)
  else k s

/-- A request whose protection mode differs is dropped, counted in FAB_DENY and recorded (R327). -/
def reqIngress (s : State) (port : Nat) (p : Packet) (op : Nat) (k : State → State) : State :=
  ingress s port p op fun x =>
    if p.prot ≠ x.fab.prot then
      recordEvent { x with fab := { x.fab with denied := satAdd 32 x.fab.denied 1 } } 0x6002 srcHw []
    else k x

/-! ### Checks of a request (R307, R164, R170, R328 to R330) -/

/-- Bytes that a request touches. -/
def pktSpan (p : Packet) : Nat :=
  if p.op = 0x12 then (if bitOf (fieldAt p.payload 0 1) 3 then 4 else 8) else if p.op = 0x10 then p.len else p.payload.length

/-- The reserved fields of a request's header, and its STATUS, are 0 (R305, R308). -/
def headOk (p : Packet) : Bool := decide (p.addr < 2 ^ 48 ∧ p.rsvFlags = 0 ∧ p.rsvStamp = 0 ∧ p.status = 0)

/-- A request keeps R307 and its reserved fields are 0. -/
def shapeOk (p : Packet) : Bool :=
  headOk p && p.addr / 2 ^ 21 == (p.addr + (pktSpan p) - 1) / 2 ^ 21 &&
  (if p.op = 0x12 then
    p.payload.length == 24 && p.addr % (pktSpan p) == 0 && decide (fieldAt p.payload 0 1 < 16 ∧ fieldAt p.payload 0 1 % 8 ≤ 6) &&
    fieldAt p.payload 1 1 == 0 && fieldAt p.payload 4 4 == 0 && (p.merged || fieldAt p.payload 2 2 == 1) &&
    (!p.comb || fieldAt p.payload 0 1 % 8 == 0)
  else if p.op = 0x13 then
    p.payload.length % 32 == 0 && decide (1 ≤ p.payload.length / 32 ∧ p.payload.length / 32 ≤ 128) &&
    (List.range (p.payload.length / 32)).all fun i =>
      decide (fieldAt p.payload (32 * i + 2) 1 < 2) && fieldAt p.payload (32 * i + 3) 5 == 0
  else p.addr % 8 == 0 && (pktSpan p) % 8 == 0 && decide (8 ≤ (pktSpan p) ∧ (pktSpan p) ≤ 4096) && (p.op == 0x10 || !p.comb))

/-- A live write grant of a source covers a range of this device's window (R330). -/
def granted (s : State) (src a n : Nat) : Bool :=
  s.fab.grants.any fun g => g.2.src == src && decide (g.2.lo ≤ a ∧ a + n ≤ g.2.lo + g.2.len ∧ s.tkp.now < g.2.offered + 800)

/-- A request is refused by the region table (R329). -/
def regionDenies (s : State) (p : Packet) : Bool :=
  let a := p.addr % 2 ^ 40
  let r := regionOf s a
  let tag := p.jobTag == 0 || p.jobTag == r.jobTag
  !r.valid ||
  (if p.op = 0x10 then !(tag || r.readAny)
   else !((p.src == r.owner || (p.op == 0x11 && p.jobTag == 0 && granted s p.src a (pktSpan p))) && tag) || (r.system && p.jobTag != 0))

/-- The status that refuses a request to memory, or OK. -/
def memCheck (s : State) (p : Packet) : Nat :=
  let a := p.addr % 2 ^ 40
  if !shapeOk p ∨ p.addr / 2 ^ 40 ≠ s.fab.device ∨ !usableRange s a (pktSpan p) then stInvalid
  else if hostBiased s a (pktSpan p) then stDenied
  else if !s.fab.prot ∧ regionDenies s p then stDenied
  else if p.op ≠ 0x11 ∧ badRange s a (pktSpan p) then stDeviceFault
  else stOk

/-! ### Effects (R318, R322, R323) -/

/-- The new value of an atomic of `w` bits (R318). -/
def atomicNew (w sub prior operand compare : Nat) : Nat :=
  let sg := fun (v : Nat) => if 2 ^ (w - 1) ≤ v then (v : Int) - 2 ^ w else (v : Int)
  if sub = 0 then (prior + operand) % 2 ^ w
  else if sub = 1 then operand
  else if sub = 2 then (if prior = compare then operand else prior)
  else if sub = 3 then (if sg operand < sg prior then operand else prior)
  else if sub = 4 then (if sg prior < sg operand then operand else prior)
  else if sub = 5 then min prior operand
  else max prior operand

/-- A long cell after an incoming cell is added into it (R322, 06 R140). -/
def accCell (cell inc : List Byte) : List Byte :=
  let a := (BitVec.ofNat 16 (fieldAt cell 0 2)).toInt
  let ai := (BitVec.ofNat 16 (fieldAt inc 0 2)).toInt
  let fl := fieldAt cell 2 1
  let put := fun (sat : Bool) (v : Option Int) =>
    overlayAt (overlayAt cell 2 (leBytes 1 (fl / 2 * 2 + bit1 (sat || bitOf fl 0 || bitOf (fieldAt inc 2 1) 0)))) 8 (anvilBytes v)
  if ai < -512 ∨ 511 < ai then put true none
  else
    match anvilOfBytes (cell.drop 8), anvilOfBytes (inc.drop 8) with
    | some x, some y =>
      let r := rescale (ai - a) y
      let z := clampInt (x + r.1) (-anvilMax) anvilMax
      put (r.2 || decide (z ≠ x + r.1)) (some z)
    | none, some y => put (rescale (ai - a) y).2 none
    | _, none => put false none

/-- What a request comes to: its status, the data of its response and the prior value of an atomic. -/
structure Answer where
  status : Nat
  data : List Byte
  prior : W64
deriving DecidableEq, Repr

/-- A request to memory is applied: LOAD, STORE, ATOMIC or ACC_L. -/
def applyMem (s : State) (p : Packet) : State × Answer :=
  let a := p.addr % 2 ^ 40
  let st := memCheck s p
  if st = stDeviceFault then (recordUncorrected s a (pktSpan p), ⟨st, [], 0⟩)
  else if st ≠ stOk then (s, ⟨st, [], 0⟩)
  else if p.op = 0x10 then (s, ⟨stOk, viewRead s a (pktSpan p), 0⟩)
  else if p.op = 0x11 then
    let w := devWrite s a p.payload
    if w.2 then (w.1, ⟨stOk, [], 0⟩) else (recordUncorrected w.1 a (pktSpan p), ⟨stDeviceFault, [], 0⟩)
  else if p.op = 0x12 then
    let n := (pktSpan p)
    let prior := devNat s a n
    let v := atomicNew (8 * n) (fieldAt p.payload 0 1 % 8) prior (fieldAt p.payload 8 n) (fieldAt p.payload 16 n)
    ((devWrite s a (leBytes n v)).1, ⟨stOk, leBytes 8 prior, BitVec.ofNat 64 prior⟩)
  else
    let cells := ((List.range (p.payload.length / 32)).map fun i =>
      accCell (devRead s (a + 32 * i) 32) ((p.payload.drop (32 * i)).take 32)).flatten
    ((devWrite s a cells).1, ⟨stOk, [], 0⟩)

/-- The classes of messages: those of R323, and the digests of 20 R444 (log 67). -/
def msgClasses : List Nat := [0x0101, 0x0102, 0x0103, 0x0104, 0x0105, 0x0106, 0x0107, 0x0110, 0x0111, 0x0112, 0x0113, 0x0120]

/-- A MSG is delivered to the inbox of its source, or refused; of a class that firmware does not have, with DENIED (R308, R323; log 67). -/
def applyMsg (s : State) (p : Packet) : State × Answer :=
  let box := NMap.getD s.fab.inbox p.src []
  if p.payload.length < 8 ∨ 4096 < p.payload.length ∨ fieldAt p.payload 2 2 ≠ 0 ∨ !headOk p then (s, ⟨stInvalid, [], 0⟩)
  else if p.jobTag ≠ 0 ∨ !msgClasses.contains (fieldAt p.payload 0 2) then (s, ⟨stDenied, [], 0⟩)
  else if 64 ≤ box.length then (s, ⟨stBusy, [], 0⟩)
  else ({ s with fab := { s.fab with inbox := NMap.insert s.fab.inbox p.src (box ++ [p]) } }, ⟨stOk, [], 0⟩)

/-- A request is applied; DENIED and STALE answers are counted in FAB_DENY. -/
def applyReq (s : State) (p : Packet) : State × Answer :=
  let r := if p.op = 0x14 then applyMsg s p else applyMem s p
  if r.2.status = stDenied then ({ r.1 with fab := { r.1.fab with denied := satAdd 32 r.1.fab.denied 1 } }, r.2) else r

/-- Counts an answer STALE. -/
def countStale (s : State) : State := { s with fab := { s.fab with stale := satAdd 16 s.fab.stale 1 } }

/-! ### Responses (R308, R310, R311) -/

/-- An ACK of a run of PSNs. -/
def sendAck (s : State) (src first last path : Nat) (comb : Bool) (epoch : Nat) : State :=
  let p : Packet := { reqPacket 0x20 (first + 2 ^ 32 * last) 0 0 comb [] with
    src := s.fab.device, dst := src, psn := last, epoch := epoch, path := path, prot := s.fab.prot, stamp := launch s }
  sendResp s p

/-- Acknowledges the runs that a test names, the oldest first. -/
def flushRuns (s : State) (src : Nat) (t : AckRun → Bool) : State :=
  let x := rxAt s src
  let grows := x.grows && !(match x.runs.head? with | some r => t r | none => true)
  (x.runs.filter t).reverse.foldl (fun y r => sendAck y src r.first r.last r.path false x.epoch)
    (setRx s src { x with runs := x.runs.filter fun r => !t r, grows := grows })

/-- The response to one request that is not covered by an ACK run. -/
def answerPkt (s : State) (p : Packet) (r : Answer) : State :=
  if r.status ≠ stOk then sendResp s (respPacket s p 0x21 r.status 0 [])
  else if p.op = 0x10 then sendResp s (respPacket s p 0x22 stOk 0 r.data)
  else if p.op = 0x12 then sendResp s (respPacket s p 0x23 stOk 0 r.data)
  else sendAck s p.src p.psn p.psn p.path p.comb p.epoch

/-- Records an outcome in a stream's replay window: atomics applied, and every answer other than OK (R320). -/
def recordOutcome (s : State) (p : Packet) (r : Answer) : State :=
  if r.status ≠ stOk ∨ p.op = 0x12 then
    let x := rxAt s p.src
    setRx s p.src { x with window := ((p.psn, r.status, r.prior) :: x.window).take 256 }
  else s

/-! ### Application in PSN order (R313) -/

/-- A request older than 10,000 beats (R313, R335). -/
def tooOld (s : State) (p : Packet) : Bool := decide (10000 < launch s - p.stamp)

/-- A stream's runs with one more request, at 64 of which a run is acknowledged; a run takes the next request only while they are in order
and end OK without data of their own (R311). -/
def runWith (s : State) (p : Packet) (joins : Bool) : State :=
  let x := rxAt s p.src
  if !joins then setRx s p.src { x with grows := false }
  else
    let runs := match x.grows, x.runs with
      | true, r :: rest => { r with last := p.psn, path := p.path } :: rest
      | _, rs => ⟨p.psn, p.psn, launch s, p.path⟩ :: rs
    flushRuns (setRx s p.src { x with runs := runs, grows := true }) p.src fun r => decide (63 ≤ (r.last + 2 ^ 32 - r.first) % 2 ^ 32)

/-- The next request of a stream is applied, or is STALE by its age, and answered: an OK that carries no data joins the run to
acknowledge. -/
def applyNext (s : State) (p : Packet) : State :=
  let r : State × Answer := if tooOld s p then (countStale s, ⟨stStale, [], 0⟩) else applyReq s p
  let s1 := recordOutcome r.1 p r.2
  let s2 := setRx s1 p.src { rxAt s1 p.src with expect := (p.psn + 1) % 2 ^ 32 }
  let joins := decide (r.2.status = stOk ∧ p.op ≠ 0x10 ∧ p.op ≠ 0x12)
  let s3 := runWith s2 p joins
  if joins then s3 else answerPkt s3 p r.2

/-- Applies what the reorder buffer holds next, in PSN order; the fuel is the buffer's size. -/
def drainBuf : Nat → State → Nat → State
  | 0, s, _ => s
  | n + 1, s, src =>
    let x := rxAt s src
    match NMap.find? x.buf x.expect with
    | none => s
    | some (_, p) => drainBuf n (applyNext (setRx s src { x with buf := NMap.erase x.buf x.expect }) p) src

/-- A duplicate: by its age it is STALE; else an atomic gets its stored outcome or STALE, a LOAD is read again (R334), any other request gets its
stored outcome or an ACK. -/
def answerDup (s : State) (p : Packet) : State :=
  let s0 := dropPacket s
  if tooOld s p then answerPkt (countStale s0) p ⟨stStale, [], 0⟩
  else
    match (rxAt s p.src).window.find? fun w => w.1 == p.psn with
    | some w => answerPkt s0 p ⟨w.2.1, leBytes 8 w.2.2.toNat, w.2.2⟩
    | none =>
      if p.op = 0x12 then answerPkt (countStale s0) p ⟨stStale, [], 0⟩
      else if p.op = 0x10 then
        let r := applyReq s0 p
        answerPkt r.1 p r.2
      else answerPkt s0 p ⟨stOk, [], 0⟩

/-- A request of a stream arrives; of a stream whose state is lost it is dropped (R312, R313). One ahead of its turn that is too old is answered
STALE and its place is not held. -/
def streamReq (s : State) (port : Nat) (p : Packet) : State :=
  let x := rxAt s p.src
  let d := (p.psn + 2 ^ 32 - x.expect) % 2 ^ 32
  if x.lost ∨ p.epoch ≠ x.epoch then s
  else if 2 ^ 31 ≤ d then answerDup s p
  else if (NMap.find? x.buf p.psn).isSome then dropPacket s
  else if d = 0 then drainBuf 1024 (applyNext s p) p.src
  else if tooOld s p then answerPkt (recordOutcome (countStale s) p ⟨stStale, [], 0⟩) p ⟨stStale, [], 0⟩
  else if d < 1024 then setRx s p.src { x with buf := NMap.insert x.buf p.psn (port, p) }
  else s

/-! ### Combined requests (R325, R326) -/

/-- A COMB request: its answer comes from the port's window if the window holds its id; a retry that the window does not hold, and a request
that is too old, are STALE (R313, R325). -/
def combReq (s : State) (port : Nat) (p : Packet) : State :=
  match (wport s port).comb.find? fun c => c.1 == p.src && c.2.1 == p.psn with
  | some c => answerPkt s p ⟨c.2.2.1, c.2.2.2.2, c.2.2.2.1⟩
  | none =>
    if tooOld s p ∨ p.retry then answerPkt (countStale s) p ⟨stStale, [], 0⟩
    else
      let r := applyReq s p
      answerPkt (modPort r.1 port fun x => { x with comb := ((p.src, p.psn, r.2.status, r.2.prior, r.2.data) :: x.comb).take 256 }) p r.2

/-- A request at its target. -/
def targetReq (s : State) (port : Nat) (p : Packet) (op : Nat) : State :=
  reqIngress s port p op fun x => if p.comb then combReq x port p else streamReq x port p

/-- LOAD. -/
def execLoad (port : Nat) (p : Packet) (s : State) : Out := .next (targetReq s port p 0x10)
/-- STORE. -/
def execStore (port : Nat) (p : Packet) (s : State) : Out := .next (targetReq s port p 0x11)
/-- ATOMIC. -/
def execAtomic (port : Nat) (p : Packet) (s : State) : Out := .next (targetReq s port p 0x12)
/-- ACC_L. -/
def execAccL (port : Nat) (p : Packet) (s : State) : Out := .next (targetReq s port p 0x13)
/-- MSG; it never combines. -/
def execMsg (port : Nat) (p : Packet) (s : State) : Out :=
  .next (reqIngress s port p 0x14 fun x => streamReq x port p)

/-- EPOCH: clears the reorder buffer and the replay window, sets the epoch, restarts PSNs at 0, and is answered with an ACK
for PSN 0 (R313). -/
def execEpoch (port : Nat) (p : Packet) (s : State) : Out :=
  .next (reqIngress s port p 0x31 fun x =>
    let e := fieldAt p.payload 0 1
    sendAck (setRx x p.src { epoch := e }) p.src 0 0 p.path false e)

/-- ACK_TIMER: 10 beats after the first unacknowledged request of a run the run is acknowledged (R311). -/
def execAckTimer (src : Nat) (s : State) : Out := .next (flushRuns s src fun r => decide (r.at_ + 10 ≤ launch s))

end Sys2Proof.Machine
end

