-- ==== Sys2Proof/Machine/Sender.lean ====
section
/-!
DEFINITION. The sender's side of the fabric: responses, probes, retransmission, broken streams and the issue of
transfer-list entries (14 R308 to R316, R324, R325).
-/
namespace Sys2Proof.Machine

/-! ### Responses -/

/-- A path of a set is the one on which a packet of a PATH index has come in at a port: of that index, and of that port if the set has such a
path (log 22). -/
def pathIs (ps : List Path) (port ix : Nat) (p : Path) : Bool :=
  p.index == ix && (p.port == port || !(ps.any fun q => q.index == ix && q.port == port))

/-- A path on which a response came has no consecutive timeouts (R310). -/
def pathAlive (s : State) (d port ix : Nat) : State :=
  modPaths s d fun ps => ps.map fun p => if pathIs ps port ix p then { p with fails := 0 } else p

/-- The destination device of an entry. -/
def entryDst (e : XferEntry) : Nat := e.remote / 2 ^ 40 % 256

/-- Whether every request to a device that comes before an entry in the lists of a port has its final status. -/
def listsFinal (s : State) (port num i d : Nat) : Bool :=
  ((wport s port).lists.filter fun l => decide (l.num ≤ num)).all fun l =>
    (List.zip (List.range l.entries.length) (List.zip l.entries l.status)).all fun e =>
      !(e.2.1.op != 5 && entryDst e.2.1 == d && (l.num != num || decide (e.1 < i))) || e.2.2.isSome

/-- Requests to a device from the DMA bursts of a slice, issued before a number, that have no final status. -/
def dmaPending (s : State) (d slice n : Nat) : Bool :=
  let st := txAt s d
  (st.outst ++ st.held).any fun o => o.key == some (16 + slice) && decide (o.num < n)

/-- The status of the first request, in issue order, to a device from the lists of a port or the bursts of a slice, issued before a number,
that did not end OK; OK if there is none. -/
def fenceStatus (s : State) (port d slice n : Nat) : Nat :=
  let fs := ([port, 16 + slice].filterMap fun k => NMap.find? s.fab.fails (256 * k + d)).filter fun e => decide (e.1 < n)
  match fs with
  | [] => stOk
  | e :: rest => (rest.foldl (fun a b => if b.1 < a.1 then b else a) e).2

/-- The list of a port whose entries issue now: the first with entries left. A port that stands on hold takes no dynamic list that has not
begun (04 R76). -/
def issuingList (s : State) (port : Nat) : Option XList :=
  (wport s port).lists.find? fun l => decide (l.next < l.entries.length) && (l.sync.isSome || l.next != 0 || !standsHold s (unitPort port))

/-- A host list runs in its slice's serving context, and waits while that is not ACTIVE or is held (17 R385, R389). -/
def listRuns (s : State) (l : XList) : Bool :=
  match l.context with
  | some c => (ctxAt s c).state == 3 && !(ctxAt s c).holding
  | none => true

/-- A FENCE that has been reached at a port completes once every request to its device issued before it, by the lists of the port and the DMA
bursts of its slice, has a final status, with OK or the status of the first that did not end OK (R324). -/
def tryFence (s : State) (port : Nat) : State :=
  match issuingList s port with
  | none => s
  | some l =>
    match l.entries[l.next]? with
    | none => s
    | some e =>
      match l.fenceN with
      | some n =>
        let d := entryDst e
        if e.op = 5 ∧ listRuns s l ∧ listsFinal s port l.num l.next d ∧ !dmaPending s d l.slice n then
          entryDone (modList s port l.num fun x => { x with next := x.next + 1, fenceN := none }) port l.num l.next (fenceStatus s port d l.slice n)
        else s
      | none => s

/-- Completes the fences that stand next. -/
def tryFences (s : State) : State := (List.range 8).foldl tryFence s

/-- A response ends the requests of its stream that a test names; then what waited for credit goes out. A response that
comes after the end of its request is dropped (R311). -/
def response (s : State) (port : Nat) (p : Packet) (op : Nat) (t : OutReq → Bool) (st : OutReq → Nat) (bs : List Byte) : State :=
  ingress s port p op fun x =>
    let own := fun (o : OutReq) => o.pkt.comb == p.comb && (p.comb || o.pkt.epoch == p.epoch) && t o
    tryFences (pump (endReqs (pathAlive x p.src port p.path) p.src own st bs) p.src)

/-- A PSN lies in a run. -/
def inRun (first last psn : Nat) : Bool := decide ((psn + 2 ^ 32 - first) % 2 ^ 32 ≤ (last + 2 ^ 32 - first) % 2 ^ 32)

/-- ACK: the STORE, ACC_L and MSG requests of the run complete OK; an ACK of PSN 0 of an epoch that awaits it starts the
epoch (R306, R313). -/
def execAck (port : Nat) (p : Packet) (s : State) : Out :=
  let st := txAt s p.src
  if st.epochAsk.isSome ∧ p.op = 0x20 ∧ !p.comb then
    .next (ingress s port p 0x20 fun x =>
      if p.addr = 0 ∧ p.epoch = st.epoch then pump (setTx (pathAlive x p.src port p.path) p.src { st with epochAsk := none }) p.src else x)
  else
    .next (response s port p 0x20
      (fun o => o.pkt.op != 0x10 && o.pkt.op != 0x12 && inRun (p.addr % 2 ^ 32) (p.addr / 2 ^ 32 % 2 ^ 32) o.pkt.psn)
      (fun _ => stOk) [])

/-- STATUS: one request completes with its status; an atomic answered STALE completes OUTCOME_UNKNOWN (R306, R320). -/
def execStatusP (port : Nat) (p : Packet) (s : State) : Out :=
  let code := p.status % 4096
  .next (response s port p 0x21 (fun o => o.pkt.psn == p.psn)
    (fun o => if o.pkt.op = 0x12 ∧ code = stStale then stOutcomeUnknown else code) [])

/-- LOAD_DATA: a LOAD completes and its data lands. -/
def execLoadData (port : Nat) (p : Packet) (s : State) : Out :=
  .next (response s port p 0x22 (fun o => o.pkt.op == 0x10 && o.pkt.psn == p.psn) (fun _ => stOk) p.payload)

/-- ATOMIC_DATA: an atomic completes, and the prior value of its width goes to LOCAL (R318). -/
def execAtomicData (port : Nat) (p : Packet) (s : State) : Out :=
  let w := match (txAt s p.src).outst.find? fun o => o.pkt.op == 0x12 && o.pkt.psn == p.psn with
    | some o => pktSpan o.pkt
    | none => 8
  .next (response s port p 0x23 (fun o => o.pkt.op == 0x12 && o.pkt.psn == p.psn) (fun _ => stOk) (p.payload.take w))

/-- A PROBE on a path that this device has probed is the answer, which makes the path healthy; any other is answered by
a PROBE on the same path (R310, log 22). -/
def execProbe (port : Nat) (p : Packet) (s : State) : Out :=
  .next (ingress s port p 0x30 fun x =>
    if (pathsOf x p.src).any fun q => pathIs (pathsOf x p.src) port p.path q && q.probed then
      pump (modPaths x p.src fun ps =>
        ps.map fun q => if pathIs ps port p.path q then { q with fails := 0, down := false, probed := false } else q) p.src
    else sendResp x (respPacket x p 0x30 0 0 []))

/-! ### Timeouts (R310 to R312) -/

/-- Charges a timeout to a path: after 3 in a row it is down, which is recorded. -/
def chargePath (s : State) (d i : Nat) : State :=
  match (pathsOf s d)[i]? with
  | none => s
  | some p =>
    let falls := !p.down && decide (3 ≤ p.fails + 1)
    let s1 := modPaths s d fun ps => ps.set i { p with fails := p.fails + 1, down := p.down || falls }
    if falls then pathDownEvent s1 else s1

/-- RETRANSMIT_TIMEOUT: a request without a response 200 beats after its last send goes out again with RETRY on the next
healthy path after the one last used. A combine id is named by 2^32 more than its value. An EPOCH that awaits its ACK is
named by PSN 0 and goes out again likewise (R311, R313). -/
def execRetransmitTimeout (dst psn : Nat) (s : State) : Out :=
  let st := txAt s dst
  match st.epochAsk with
  | some t => if psn = 0 ∧ t + 200 ≤ launch s then .next (sendEpoch s dst) else .next s
  | none =>
    match st.outst.find? fun o => o.pkt.psn == psn % 2 ^ 32 && o.pkt.comb == decide (2 ^ 32 ≤ psn) with
    | none => .next s
    | some o =>
      if o.sentAt + 200 ≤ launch s ∧ launch s - o.pkt.stamp < 9000 then
        let s1 := if o.charged then s else chargePath s dst o.pathIx
        let put := fun (y : State) (n : OutReq) =>
          setTx y dst { st with outst := st.outst.map fun x => if x.pkt.psn = o.pkt.psn ∧ x.pkt.comb = o.pkt.comb then n else x }
        match healthyTo s1 dst (o.pathIx + 1) with
        | none => .next (put s1 { o with charged := true })
        | some (i, p) =>
          let o' : OutReq := { o with pkt := { o.pkt with retry := true, path := p.index }, sentAt := launch s, port := p.port, pathIx := i, charged := false }
          let s3 := putPacket (put s1 o') p.port o'.pkt
          .next { s3 with fab := { s3.fab with retx := satAdd 32 s3.fab.retx 1 } }
      else .next s

/-- Probes the paths of a destination that are down, on ports that are UP. -/
def probePaths (s : State) (d : Nat) : State :=
  if !inPartition s d then s
  else
    ((pathsOf s d).filter fun p => p.down && (wport s p.port).state == 2).foldl
      (fun x p =>
        let pkt : Packet := { reqPacket 0x30 0 0 0 false [] with
          src := x.fab.device, dst := d, path := p.index, prot := x.fab.prot, stamp := launch x }
        let x1 := modPaths x d fun ps => ps.map fun q => if q.index = p.index ∧ q.port = p.port then { q with probed := true } else q
        putPacket x1 p.port pkt) s

/-- PATH_PROBE_TIMER: every 10,000 beats each path that is down is probed (R310). -/
def execPathProbeTimer (s : State) : Out :=
  if launch s < s.fab.probeAt then .next s
  else .next (s.fab.paths.foldl (fun x e => probePaths x e.1) { s with fab := { s.fab with probeAt := launch s + 10000 } })

/-- A request has reached 9,000 beats, counted from its STAMP. -/
def tooLate (s : State) (o : OutReq) : Bool := decide (o.pkt.stamp ≠ 0 ∧ 9000 ≤ launch s - o.pkt.stamp)

/-- Requests that wait and that a test names end as those of a broken stream do. -/
def endHeld (s : State) (d : Nat) (t : OutReq → Bool) : State :=
  let x := txAt s d
  (x.held.filter t).foldl (fun y o => reqEnd y d o (brokenStatus o) []) (setTx s d { x with held := x.held.filter fun o => !t o })

/-- STREAM_BREAK: a request ages to 9,000 beats and the stream breaks; combined requests, which are outside every stream,
end one by one at that age (R312, R325). -/
def execStreamBreak (dst : Nat) (s : State) : Out :=
  let s0 := endReqs s dst (fun o => o.pkt.comb && tooLate s o) brokenStatus []
  let s1 := endHeld s0 dst fun o => o.pkt.comb && tooLate s0 o
  let st := txAt s1 dst
  if (st.outst.any fun o => !o.pkt.comb && tooLate s1 o) || (st.held.any fun o => !o.pkt.comb && tooLate s1 o) then
    .next (tryFences (breakStream s1 dst))
  else .next s1

/-! ### Transfer-list entries (R314, R324, R325) -/

/-- The job tag of a list's packets: 0 for firmware, otherwise that of its slice. -/
def listTag (s : State) (l : XList) : Nat := if l.slice = 64 then 0 else NMap.getD s.fab.jobTags l.slice 0xFFFF

/-- Bytes of the local range of an entry. -/
def localSpan (e : XferEntry) : Nat :=
  if e.op = 3 then (if bitOf e.sub 3 then 4 else 8) else if e.op = 4 then 32 * e.len else e.len

/-- The status that refuses an entry at issue, or OK. -/
def entryCheck (s : State) (e : XferEntry) : Nat :=
  if e.op = 0 ∨ 6 < e.op ∨ 2 ^ 48 ≤ e.remote ∨ (e.op ≠ 3 ∧ e.sub ≠ 0) ∨ (e.op = 3 ∧ 6 < e.sub % 8) ∨ 15 < e.sub then stInvalid
  else if e.comb ∧ !(e.op == 1 || (e.op == 3 && e.sub % 8 == 0) || e.op == 4) then stInvalid
  else if e.op = 5 then (if e.len = 0 then stOk else stInvalid)
  else if (e.op = 4 ∧ (e.len = 0 ∨ 128 < e.len)) ∨ ((e.op = 1 ∨ e.op = 2 ∨ e.op = 6) ∧ 4096 < e.len) ∨ (e.op = 3 ∧ e.len ≠ 0) then stInvalid
  else if !inPartition s (entryDst e) then stDenied
  else if !usableRange s e.local_ (localSpan e) then stInvalid
  else if (e.op = 2 ∨ e.op = 4 ∨ e.op = 6 ∨ (e.op = 3 ∧ e.sub % 8 = 2)) ∧ badRange s e.local_ (localSpan e) then stDeviceFault
  else stOk

/-- The request packet of an entry. -/
def entryPacket (s : State) (l : XList) (e : XferEntry) : Packet :=
  let n := localSpan e
  if e.op = 1 then reqPacket 0x10 e.remote e.len (listTag s l) e.comb []
  else if e.op = 3 then
    let cmp := if e.sub % 8 = 2 then devNat s e.local_ n else 0
    reqPacket 0x12 e.remote 24 (listTag s l) e.comb
      (leBytes 1 e.sub ++ leBytes 1 0 ++ leBytes 2 1 ++ leBytes 4 0 ++ leBytes 8 e.operand.toNat ++ leBytes 8 cmp)
  else
    let op := if e.op = 2 then 0x11 else if e.op = 4 then 0x13 else 0x14
    reqPacket op e.remote n (listTag s l) e.comb (viewRead s e.local_ n)

/-- XFER_ENTRY_ISSUE: the next entry of a port's lists issues when credit and fences allow. -/
def execXferEntryIssue (port : Nat) (s : State) : Out :=
  match issuingList s port with
  | none => .next s
  | some l =>
    match l.entries[l.next]? with
    | none => .next s
    | some e =>
      if !listRuns s l then .next s
      else
        let d := entryDst e
        let go := modList s port l.num fun x => { x with next := x.next + 1 }
        let st := entryCheck s e
        if st ≠ stOk then
          let y := if e.op = 5 then go else noteFail go d port s.fab.issueN st
          .next (entryDone (if st = stDeviceFault then recordUncorrected y e.local_ (localSpan e) else y) port l.num l.next st)
        else if e.op = 5 then
          .next (tryFence (modList s port l.num fun x => { x with fenceN := some (x.fenceN.getD s.fab.issueN) }) port)
        else if !e.comb ∧ (1024 ≤ inCredit (txAt s d) + waiting (txAt s d)) then .next s
        else .next (issueReq go d (entryPacket s l e) (some (l.num, l.next, e.local_)) (some port))

end Sys2Proof.Machine
end

