-- ==== Sys2Proof/Machine/Fabric.lean ====
section
/-!
DEFINITION. Ports, flits, write grants and the fabric commands (14 R302 to R304, R310, R314 to R317, R328 to R332).
-/
namespace Sys2Proof.Machine

/-! ### Ports and flits -/

/-- A port goes to TRAINING under R303. -/
def retrainPort (s : State) (port : Nat) : State :=
  let s1 := portLeaves s port 1
  { s1 with fab := { s1.fab with retrain := satAdd 16 s1.fab.retrain 1 } }

/-- Retries of a flit counted up. -/
def nextTry (o : Option (Nat × Nat)) (f : Nat) : Nat := match o with | some (g, n) => if g = f then n + 1 else 1 | none => 1

/-- A flit that has come in its turn: the payload of a data flit is received (R301, R302). -/
def takeFlit (w : WPort) (payload : List Byte) : WPort :=
  { w with rxSeq := (w.rxSeq + 1) % 4096, retryOf := none, got := payload :: w.got, ahead := NMap.erase w.ahead w.rxSeq }

/-- The flits that came before their turn and whose turn has now come follow; the fuel is their number. -/
def takeAhead : Nat → WPort → WPort
  | 0, w => w
  | n + 1, w =>
    match NMap.find? w.ahead w.rxSeq with
    | some bs => takeAhead n (takeFlit w bs)
    | none => w

/-- The retry request for the flit that a port awaits: it names the flit after its FACK, takes no FSEQ and is not kept (log 20). -/
def askRetry (w : WPort) : WPort := putBlock w (flitBytes w.txSeq (w.rxSeq + 4095) 2 [])

/-- The flits from the one named on, in order, go out again (R303). -/
def resend (w : WPort) (f : Nat) : WPort :=
  let rest := (w.store.takeWhile fun e => e.1 != f).reverse
  (w.store.filter fun e => e.1 == f).foldl (fun v e => putBlock v e.2) w |> fun v => rest.foldl (fun v e => putBlock v e.2) v

/-- FLIT_RX: a block with more than 6 symbol errors is uncorrectable; one that is, or whose flit fails FCRC, is dropped and a retry asked for. A
data or link-control flit advances the link in the order of FSEQ, whatever lane it came on; a retry request is served from the store (R301 to
R303, log 20). `rest` is the payload and FCRC of the flit as FEC leaves it. -/
def execFlitRx (port lane fseq fack type : Nat) (rest : List Byte) (errors : Nat) (s : State) : Out :=
  let w := wport s port
  let head := flitHead fseq fack type
  let body := rest.take 248
  if w.state ≠ 2 ∨ 4 ≤ lane ∨ rest.length ≠ 252 then .next s
  else
    let s1 : State := if 1 ≤ errors ∧ errors ≤ 6 then { s with fab := { s.fab with fecCorr := satAdd 32 s.fab.fecCorr 1 } } else s
    if 6 < errors ∨ crc32c (head ++ body) ≠ BitVec.ofNat 32 (fieldAt rest 248 4) then
      let n := nextTry w.retryOf w.rxSeq
      let s2 : State := { s1 with fab := { s1.fab with retry := satAdd 16 s1.fab.retry 1 } }
      .next (if 8 ≤ n then retrainPort s2 port else modPort s2 port fun x => askRetry { x with retryOf := some (w.rxSeq, n) })
    else if type = 2 then
      let f := (fack + 1) % 4096
      let n := nextTry w.resendOf f
      .next (if 8 ≤ n ∨ !w.store.any (fun e => e.1 == f) then retrainPort s1 port
        else modPort s1 port fun x => resend { x with resendOf := some (f, n) } f)
    else if type = 1 ∨ type = 3 then
      let k := (fseq + 4096 - w.rxSeq) % 4096
      .next (if k = 0 then modPort s1 port fun x => takeAhead 512 (takeFlit x body)
        else if k < 512 then modPort s1 port fun x => { x with ahead := NMap.insert x.ahead fseq body } else s1)
    else .next s1

/-- PORT_TRAINED: a port whose four lanes have trained goes UP, and what waited for it goes out (R304, R310). -/
def execPortTrained (port : Nat) (s : State) : Out :=
  if (wport s port).state = 1 then
    let s1 := modPort s port fun x => { x with state := 2 }
    .next (s1.fab.tx.foldl (fun x e => pump x e.1) s1)
  else .next s

/-- WRITE_GRANT_EXPIRY: 800 ticks after its offer a write grant is removed (R330). -/
def execWriteGrantExpiry (entry : Nat) (s : State) : Out :=
  match NMap.find? s.fab.grants entry with
  | some g => if g.offered + 800 ≤ s.tkp.now then .next { s with fab := { s.fab with grants := NMap.erase s.fab.grants entry } } else .next s
  | none => .next s

/-! ### REGION_SET (R328) -/

/-- The entry at index `i` of a REGION_SET. -/
def regionPar (r : JRec) (i tick : Nat) : Region :=
  let o := 8 + 16 * i
  let f := r.par (o + 1) 1
  { owner := r.par o 1, valid := bitOf f 0, readAny := bitOf f 1, system := bitOf f 2, jobTag := r.par (o + 2) 2, tick := tick }

/-- The checks of REGION_SET on its fields (log 23). -/
def regionSetFields (r : JRec) (_ : State) : Nat :=
  let n := r.par 4 4
  if 8 ≤ r.params.length ∧ 1 ≤ n ∧ r.params.length = 8 + 16 * n ∧ r.par 0 4 + n ≤ 524288 ∧
     (List.range n).all (fun i => decide (r.par (8 + 16 * i + 1) 1 < 8) && r.zeros (8 + 16 * i + 4) 4) then stOk else stInvalid

/-- REGION_SET at its seam. -/
def regionSetApply (r : JRec) (s : State) : State :=
  let m := (List.range (r.par 4 4)).foldl (fun m i => NMap.insert m (r.par 0 4 + i) (regionPar r i s.tkp.now)) s.fab.regions
  { s with fab := { s.fab with regions := m } }

/-- REGION_SET (opcode 0x0400). -/
def execRegionSet (q seq : Nat) (s : State) : Out := .next (withSeamCmd s q seq 0x0400 regionSetFields)

/-! ### PATH_SET (R310) -/

/-- The checks of PATH_SET on its fields (log 23). -/
def pathSetFields (r : JRec) (_ : State) : Nat :=
  let n := r.par 1 1
  if r.params.length = 2 + 2 * n ∧ 1 ≤ n ∧ n ≤ 8 ∧
     (List.range n).all (fun i => decide (r.par (2 + 2 * i) 1 < 8 ∧ r.par (3 + 2 * i) 1 < 8)) then stOk else stInvalid

/-- PATH_SET at its seam. -/
def pathSetApply (r : JRec) (s : State) : State :=
  let ps := (List.range (r.par 1 1)).map fun i => Path.mk (r.par (2 + 2 * i) 1) (r.par (3 + 2 * i) 1) 0 false false
  pump { s with fab := { s.fab with paths := NMap.insert s.fab.paths (r.par 0 1) ps } } (r.par 0 1)

/-- PATH_SET (opcode 0x0401). -/
def execPathSet (q seq : Nat) (s : State) : Out := .next (withSeamCmd s q seq 0x0401 pathSetFields)

/-! ### PARTITION_SET (R331) -/

/-- The checks of PARTITION_SET on its fields (log 23). -/
def partitionSetFields (r : JRec) (_ : State) : Nat := if r.params.length = 32 then stOk else stInvalid

/-- Requests that wait for a device that has left the partition end DENIED. -/
def denyHeld (s : State) (d : Nat) : State :=
  let st := txAt s d
  if inPartition s d then s
  else st.held.foldl (fun x o => reqEnd x d o stDenied []) (setTx s d { st with held := [] })

/-- PARTITION_SET at its seam. -/
def partitionSetApply (r : JRec) (s : State) : State :=
  let s1 : State := { s with fab := { s.fab with mask := BitVec.ofNat 256 (r.par 0 32) } }
  s1.fab.tx.foldl (fun x e => pump (denyHeld x e.1) e.1) s1

/-- PARTITION_SET (opcode 0x0402). -/
def execPartitionSet (q seq : Nat) (s : State) : Out := .next (withSeamCmd s q seq 0x0402 partitionSetFields)

/-! ### PORT_FENCE (R332) -/

/-- The checks of PORT_FENCE on its fields (log 23). -/
def portFenceFields (r : JRec) (_ : State) : Nat := if r.params.length = 2 ∧ r.par 1 1 ≤ 1 then stOk else stInvalid

/-- PORT_FENCE at its seam: fences the ports of the mask, or releases them to training. -/
def portFenceApply (r : JRec) (s : State) : State :=
  ((List.range 8).filter fun p => bitOf (r.par 0 1) p).foldl
    (fun x p => if r.par 1 1 = 1 then portLeaves x p 3 else if (wport x p).state = 3 then portLeaves x p 1 else x) s

/-- PORT_FENCE (opcode 0x0403). -/
def execPortFence (q seq : Nat) (s : State) : Out := .next (withSeamCmd s q seq 0x0403 portFenceFields)

/-! ### JOBTAG_SET (R317) -/

/-- The checks of JOBTAG_SET on its fields (log 23). -/
def jobtagSetFields (r : JRec) (_ : State) : Nat :=
  if r.params.length = 4 ∧ r.par 0 1 < 64 ∧ r.par 1 1 = 0 ∧ 1 ≤ r.par 2 2 ∧ r.par 2 2 ≤ 0xFFFE then stOk else stInvalid

/-- JOBTAG_SET at its seam. -/
def jobtagSetApply (r : JRec) (s : State) : State :=
  { s with fab := { s.fab with jobTags := NMap.insert s.fab.jobTags (r.par 0 1) (r.par 2 2) } }

/-- JOBTAG_SET (opcode 0x0404). -/
def execJobtagSet (q seq : Nat) (s : State) : Out := .next (withSeamCmd s q seq 0x0404 jobtagSetFields)

/-! ### FAB_XFER (R314, R316) -/

/-- Puts a transfer list behind those of a port. -/
def pushList (s : State) (port : Nat) (l : XList) : State :=
  let s1 : State := { s with fab := { s.fab with listN := s.fab.listN + 1 } }
  modPort s1 port fun w => { w with lists := w.lists ++ [{ l with num := s.fab.listN }] }

/-- The header of a transfer list keeps its ranges: COUNT 1 to 1,024, SYNC a counter or 0xFF, SLICE a slice, the reserved fields 0,
and the pointers in device memory (R314). -/
def listHeadOk (s : State) (h : List Byte) : Bool :=
  decide (1 ≤ fieldAt h 0 2 ∧ fieldAt h 0 2 ≤ 1024 ∧ (fieldAt h 2 1 < 64 ∨ fieldAt h 2 1 = 0xFF) ∧ fieldAt h 3 1 < 64 ∧ fieldAt h 4 4 = 0 ∧ fieldAt h 24 8 = 0) &&
  usableRange s (fieldAt h 8 8) (2 * fieldAt h 0 2) && usableRange s (fieldAt h 16 8) 8

/-- A static start of the transfer list at an address: the list is read as it starts (DESIGN CHOICE, log 67), and a list that reads
uncorrected or whose header breaks its ranges starts nothing. -/
def startXferList (s : State) (port ptr : Nat) (ctx : Option Nat) : State :=
  let h := devRead s ptr 32
  let n := fieldAt h 0 2
  if badRange s ptr 32 then recordUncorrected s ptr 32
  else if !listHeadOk s h then s
  else if badRange s (ptr + 32) (32 * n) then recordUncorrected s (ptr + 32) (32 * n)
  else
    pushList s port
      { num := 0, sync := if fieldAt h 2 1 = 0xFF then none else some (fieldAt h 2 1), slice := fieldAt h 3 1, context := ctx, statusPtr := fieldAt h 8 8,
        donePtr := fieldAt h 16 8, entries := (List.range n).map fun i => entryOfBytes (devRead s (ptr + 32 + 32 * i) 32), next := 0, fenceN := none,
        status := List.replicate n none, cmd := none }

/-- FAB_XFER (opcode 0x0410): 1 byte port, 7 bytes 0, then the list; for the slice of the submitting queue, or for
firmware on a system queue (log 23). -/
def execFabXfer (q seq : Nat) (s : State) : Out :=
  .next (withCmd s q seq 0x0410 fun r s =>
    let n := r.par 8 2
    let ctx := (sliceOfRec s r).bind (servingCtx s)
    if r.params.length < 40 ∨ n = 0 ∨ 1024 < n ∨ r.params.length ≠ 40 + 32 * n ∨ 7 < r.par 0 1 ∨ !r.zeros 1 7 ∨ !r.zeros 12 4 ∨
       !r.zeros 32 8 ∨ !usableRange s (r.par 16 8) (2 * n) ∨ !usableRange s (r.par 24 8) 8 then finish s q seq stInvalid 0
    else if r.pasid.isSome ∧ ctx.isNone then finish s q seq stNoResource 0
    else
      pushList s (r.par 0 1)
        { num := 0, sync := none, slice := (sliceOfRec s r).getD 64, context := ctx, statusPtr := r.par 16 8, donePtr := r.par 24 8,
          entries := (List.range n).map fun i => entryOfBytes ((r.params.drop (40 + 32 * i)).take 32), next := 0, fenceN := none,
          status := List.replicate n none, cmd := some (q, seq) })

end Sys2Proof.Machine
end

