-- ==== Sys2Proof/Machine/Firmware.lean ====
section
/-!
DEFINITION. The control processors: their stops and restarts, live update, and orphan mode (18 R398 to R415).
-/
namespace Sys2Proof.Machine

/-! ### Orphan mode (R412 to R415) -/

/-- Write-backs of CXL.cache lines that the host does not accept: each line is discarded, so host memory keeps its bytes, and an event
names it (R413). -/
def discardLines (s : State) (refused : List (Nat × List Byte)) : State :=
  refused.foldl (fun x l => recordEvent (hostWrite x none l.1 l.2) 0x8006 srcHw []) s

/-- HEARTBEAT: a write of HST_HEARTBEAT. -/
def execHeartbeat (_ : W64) (s : State) : Out := .next { s with fw := { s.fw with beatTick := s.tkp.now } }

/-- The queues whose rings lie in host memory. -/
def hostQueues (s : State) : List Nat := (s.hst.queues.filter fun (x : Nat × Queue) => !x.2.devring).map fun x => x.1

/-- Orphan mode begins: ORPHAN, attention class 7, the event, the recovery report with CAUSE 5; every host queue is disabled, its
records kept, and the CXL.cache lines are written back. -/
def enterOrphan (s : State) (refused : List (Nat × List Byte)) : State :=
  let s1 : State := { s with hst := { s.hst with orphan := true }, fw := { s.fw with orphanTick := s.tkp.now, quiesced := false } }
  let s2 := trace (recordEvent (latchAttn s1 7) 0x8005 srcHw []) 6 0xFF 1 s.tkp.now
  let s3 := (hostQueues s2).foldl (fun x q => dropQueue x q) s2
  buildReport (discardLines s3 refused) 5 false

/-- ORPHAN: 800 ticks without a heartbeat since the last one, the last rise of READY and the last enable of the admin queue. -/
def execOrphan (refused : List (Nat × List Byte)) (s : State) : Out :=
  if s.hst.ready ∧ !s.hst.orphan ∧ s.fw.beatTick + 800 ≤ s.tkp.now then .next (enterOrphan s refused) else .next s

/-- CXL_LINK_DOWN: the link goes down other than by a reset. -/
def execCxlLinkDown (refused : List (Nat × List Byte)) (s : State) : Out :=
  let s1 : State := { s with hst := { s.hst with linkUp := false } }
  if s.hst.ready ∧ !s.hst.orphan then .next (enterOrphan s1 refused) else .next s1

/-- The contexts in the state ACTIVE. -/
def activeCtxs (s : State) : List Nat := (s.slc.ctxs.filter fun (c : Nat × Ctx) => c.2.state == 3).map fun c => c.1

/-- ORPHAN_HOLD_EXPIRY: the hold has lasted ORPHAN_HOLD_S: every ACTIVE context is held without OUT, and no step is composed (R414). -/
def execOrphanHoldExpiry (s : State) : Out :=
  if s.hst.orphan ∧ !s.fw.quiesced ∧ s.fw.orphanTick + ticksPerSec * s.fw.orphanHold ≤ s.tkp.now then
    .next ((activeCtxs s).foldl (fun x c => heldCheck (modCtx x c fun y => { y with holding := true, orphaned := true }) c)
      { s with fw := { s.fw with quiesced := true } })
  else .next s

/-! ### Live update (R408 to R411) -/

/-- A processor restarts or is held. -/
def cpDown (s : State) : Bool := s.fw.cpState.any fun (c : Nat × Nat) => c.2 == 2 || c.2 == 3

/-- The bundle of an update as it is checked: against the running owner certificate (21 R465). -/
def withRunningOwner (old b : Bundle) : Bundle :=
  { b with ownerCert := old.ownerCert, ownerSigR := old.ownerSigR, ownerOk := old.ownerOk, ownerFlags := old.ownerFlags, minSvn := old.minSvn,
           scope := old.scope, ownerKey := old.ownerKey }

/-- Every record type that an old component exports has a version that a new component imports. -/
def importsAll (old b : Bundle) : Bool := old.exports.all fun e => b.imports.contains e

/-- The parts other than the eight images, and other than the manifest, its signatures and the header, which carry the images' digests
and the SVN, are those of the loaded bundle (log 43). -/
def sameParts (old b : Bundle) : Bool :=
  b.rootKey == old.rootKey && b.signerCert == old.signerCert && b.ownerCert == old.ownerCert && b.ownerSigR == old.ownerSigR &&
  b.devices == old.devices && b.spImage == old.spImage && b.kernelSets == old.kernelSets && b.cardProfile == old.cardProfile &&
  b.domainProfile == old.domainProfile && b.repairMap == old.repairMap

/-- FLAGS.LIVE_UPDATE of the owner certificate. -/
def mayUpdate (s : State) : Bool := s.sec.ownerFlags.getLsbD 3

/-- FW_UPDATE (opcode 0x0600): the cases of R408 in order; otherwise the images load into the second set, and preparation begins. The
bundle that stands at BUNDLE is an operand. -/
def execFwUpdate (q seq : Nat) (b : Bundle) (s : State) : Out :=
  .next (withCmd s q seq 0x0600 fun r s =>
    match s.fw.bundle with
    | none => finish s q seq stBusy 0
    | some old =>
      if r.params.length ≠ 16 ∨ r.par 0 8 % 64 ≠ 0 ∨ 2 ^ 26 < r.par 8 4 ∨ !r.zeros 12 4 ∨ !usableRange s (r.par 0 8) (r.par 8 4) then
        finish s q seq stInvalid 0
      else if s.fw.phase ≠ 0 ∨ cpDown s ∨ substNow s then finish s q seq stBusy 0
      else if !mayUpdate s then finish s q seq stDenied 0
      else
        let checked := withRunningOwner old b
        match bundleFail s checked with
        | some n => finish (refuseBundle s n) q seq (refusalStatus checked n) 0
        | none =>
          if b.svn < s.sec.svn then finish s q seq stDenied 0
          else if b.cmdsetRev ≠ s.hst.cmdsetRev ∨ !importsAll old b then finish s q seq stVersion 0
          else if !sameParts old b then finish s q seq stInvalid 0
          else trace (trace { s with fw := { s.fw with phase := 1, second := some b, updCmd := (q, seq) } } 5 0 0 0) 5 0 1 0)

/-- The first 12 bytes of a state record's header. -/
def recHead (r : StateRec) : List Byte :=
  leBytes 2 r.comp ++ leBytes 2 r.type_ ++ leBytes 2 r.version ++ leBytes 2 (bit1 r.last) ++ leBytes 4 r.content.length

/-- A state record: its header with the CRC-32C over the header bytes 0 to 11 and the content, then the content (R411). -/
def recBytes (r : StateRec) : List Byte := recHead r ++ leBytes 4 (crc32c (recHead r ++ r.content)).toNat ++ r.content

/-- The state record that stands at an address, if its reserved bits, its length and its CRC are right. -/
def recAt (s : State) (a : Nat) : Option StateRec :=
  let h := devRead s a 16
  let n := fieldAt h 8 4
  let r : StateRec := ⟨fieldAt h 0 2, fieldAt h 2 2, fieldAt h 4 2, (fieldAt h 6 2).testBit 0, devRead s (a + 16) n⟩
  if fieldAt h 6 2 < 2 ∧ n % 8 = 0 ∧ fieldAt h 12 4 = (crc32c (recHead r ++ r.content)).toNat ∧ !badRange s a (16 + n) then some r else none

/-- The records of a state area in turn, up to its end or the first that is not whole; the fuel is the records that it has room for. -/
def recsFrom (s : State) : Nat → Nat → Nat → List StateRec
  | 0, _, _ => []
  | k + 1, a, left =>
    match recAt s a with
    | some r => if left < 16 + r.content.length then [] else r :: recsFrom s k (a + 16 + r.content.length) (left - 16 - r.content.length)
    | none => []

/-- The state area of a processor. -/
def stateArea (s : State) (cp : Nat) : Nat × Nat := s.fw.stateAreas.getD cp (0, 0)

/-- The records that a processor finds in its state area. -/
def recsOf (s : State) (cp : Nat) : List StateRec := recsFrom s ((stateArea s cp).2 / 16) (stateArea s cp).1 (stateArea s cp).2

/-- FLAGS.LAST stands on the final record of each component, and on no other. -/
def lastRight : List StateRec → Bool
  | [] => true
  | r :: rs => (r.last == !(rs.any fun q => q.comp == r.comp)) && lastRight rs

/-- A processor's components write their records from the start of its state area; what does not fit is not written (log 103). -/
def writeRecs (s : State) (cp : Nat) (rs : List StateRec) : State :=
  (devWrite s (stateArea s cp).1 ((rs.map recBytes).flatten.take (stateArea s cp).2)).1

/-- FLAGS.LAST set on the last record of each component. -/
def markLast : List StateRec → List StateRec
  | [] => []
  | r :: rs => { r with last := !(rs.any fun q => q.comp == r.comp) } :: markLast rs

/-- The records that a processor's components write: the content is free, and its length a multiple of 8 that LENGTH can hold (log 103). -/
def writtenRecs (n cp : Nat) : List StateRec :=
  markLast ((Config.stateRecords n cp).map fun r =>
    ⟨r.1 % 2 ^ 16, r.2.1 % 2 ^ 16, r.2.2.1 % 2 ^ 16, false, r.2.2.2.take (min (r.2.2.2.length / 8 * 8) (2 ^ 32 - 8))⟩)

/-- A processor imports the records of its state area (R404, R409). -/
def importRecs (s : State) (cp : Nat) : State := { s with fw := { s.fw with imported := NMap.insert s.fw.imported cp (recsOf s cp) } }

/-- Every record that the old components wrote is one that a new component imports, and LAST stands where it must. -/
def recsGood (s : State) (b : Bundle) : Bool :=
  (List.range 8).all fun cp => lastRight (recsOf s cp) && (recsOf s cp).all fun r => b.imports.contains (r.comp, r.type_, r.version)

/-- UPDATE_QUIESCE: the seam at which DEPTH reads 10 is the quiesce seam; consumption stops, and the components write their records, by
processor, and stop (R409, R411). -/
def execUpdateQuiesce (s : State) : Out :=
  if s.fw.phase = 1 ∧ s.tkp.beat = 0 ∧ 10 ≤ planDepth s then
    .next ((List.range 8).foldl (fun x cp => writeRecs x cp (writtenRecs s.freeN cp))
      (trace { s.takeFree.2 with fw := { s.fw with phase := 2, quiesce := s.tkp.now } } 5 0 2 s.tkp.now))
  else .next s

/-- UPDATE_COMMIT: every new image has imported its records; the second set becomes the retained set, M6 takes the manifest in the same
step (21 R467), and FW_UPDATE completes. -/
def execUpdateCommit (s : State) : Out :=
  match s.fw.second with
  | none => .next s
  | some b =>
    if s.fw.phase = 2 ∧ s.tkp.now < s.fw.quiesce + 8 ∧ recsGood s b then
      let s0 := (List.range 8).foldl importRecs s
      let s1 : State := { s0 with
        fw := { s0.fw with phase := 0, second := none, bundle := some b, retained := b.cpImages, build := b.build,
                           updates := satAdd 16 s.fw.updates 1 },
        sec := { s.sec with svn := b.svn } }
      let s2 := trace (latchAttn (recordEvent (extendM s1 6 0 b.manifest) 0x9003 0 []) 2) 5 0 3 s.fw.quiesce
      .next (finish s2 s.fw.updCmd.1 s.fw.updCmd.2 stOk 0)
    else .next s

/-- The handover aborts: the old banks resume, the second set is discarded, the event names the cause, and FW_UPDATE completes with a
status and, in VALUE, the component (R408, R410; log 43). -/
def abortUpdate (s : State) (status : Nat) (component : W64) : State :=
  let s1 : State := { s with fw := { s.fw with phase := 0, second := none, aborts := satAdd 16 s.fw.aborts 1 } }
  let s2 := trace (recordEvent s1 0x9005 0 [status]) 5 0 4 s.fw.quiesce
  finish s2 s.fw.updCmd.1 s.fw.updCmd.2 status component

/-- UPDATE_ABORT: the deadline, beat 0 of tick S + 8, has come without a commit (no component), or a new component refuses a record. -/
def execUpdateAbort (component : Option Nat) (s : State) : Out :=
  if s.fw.phase ≠ 2 then .next s
  else
    match component with
    | none => if s.fw.quiesce + 8 ≤ s.tkp.now then .next (abortUpdate s stTimeout 0) else .next s
    | some c => .next (abortUpdate s stAborted (BitVec.ofNat 64 c))

/-! ### Stops and restarts (R404 to R407) -/

/-- The ticks of restart after which a processor runs again, within its bound: 400 µs for a role processor, 800 µs for CP0 (log 44). -/
def restartTicks (cp : Nat) : Nat := if cp = 0 then 6 else 3

/-- The tick of the seam at which a processor that stops now runs again: a role processor waits for CP0 (R405). -/
def restartTick (s : State) (cp : Nat) : Nat :=
  if cp ≠ 0 ∧ cpState s 0 = 2 then NMap.getD s.fw.restartAt 0 s.tkp.now + restartTicks cp else s.tkp.now + restartTicks cp

/-- The stops of a processor within the last 8,000 ticks. -/
def stopsNow (s : State) (cp : Nat) : Nat := ((NMap.getD s.fw.stopTicks cp []).filter fun t => decide (s.tkp.now < t + 8000)).length

/-- A processor stops: STOPS counts it, and a handover that runs aborts, on a component that the spec does not name for a stop (R410). -/
def cpStops (s : State) (cp cause : Nat) : State :=
  let s1 : State := { s with fw := { s.fw with
      cpStops := NMap.insert s.fw.cpStops cp (min 63 (NMap.getD s.fw.cpStops cp 0 + 1))
      stopTicks := NMap.insert s.fw.stopTicks cp ((s.tkp.now :: NMap.getD s.fw.stopTicks cp []).take 4)
      stoppedAt := NMap.insert s.fw.stoppedAt cp (launch s) } }
  let s2 := trace s1 3 0 cp cause
  if s.fw.phase = 2 then
    let f := s2.takeFree
    abortUpdate f.2 stAborted f.1
  else s2

/-- A processor that stops for the fourth time within 8,000 ticks is held, and the device fails (R407). -/
def cpHeld (s : State) (cp : Nat) : State :=
  deviceFail { s with fw := { s.fw with cpState := NMap.insert s.fw.cpState cp 3 } } 0x9002 (if cp = 0 then srcSp else 0) []

/-- A processor restarts. -/
def cpRestarts (s : State) (cp : Nat) : State :=
  { s with fw := { s.fw with cpState := NMap.insert s.fw.cpState cp 2, restartAt := NMap.insert s.fw.restartAt cp (restartTick s cp) } }

/-- CP_STOP: a running role processor traps or misses its heartbeat; `cause` is the trap cause. CP0 restarts it: the event, attention
class 2. -/
def execCpStop (cp cause : Nat) (s : State) : Out :=
  if cp = 0 ∨ 7 < cp ∨ cpState s cp ≠ 1 then .next s
  else
    let s1 := cpStops s cp cause
    if 4 ≤ stopsNow s1 cp then .next (cpHeld s1 cp)
    else .next (latchAttn (recordEvent (cpRestarts s1 cp) 0x9001 0 []) 2)

/-- The restarts of role processors that CP0 had in hand begin again once CP0 is back. -/
def restartsWait (s : State) (back : Nat) : NMap Nat :=
  s.fw.restartAt.map fun (e : Nat × Nat) => (e.1, if e.1 ≠ 0 ∧ cpState s e.1 = 2 then back + restartTicks e.1 else e.2)

/-- CP0_WATCHDOG_EXPIRY: the SP restarts CP0: attention class 2 and the recovery report with CAUSE 4. The watchdog names no trap cause
for trace point 3. -/
def execCp0WatchdogExpiry (s : State) : Out :=
  if cpState s 0 ≠ 1 then .next s
  else
    let f := s.takeFree
    let s1 := cpStops f.2 0 f.1.toNat
    if 4 ≤ stopsNow s1 0 then .next (cpHeld s1 0)
    else
      let s2 := cpRestarts s1 0
      let s3 : State := { s2 with fw := { s2.fw with restartAt := restartsWait s2 (restartTick s1 0) } }
      .next (buildReport (latchAttn s3 2) 4 false)

/-- Events staged while CP7 restarted go to the recorder (R399). -/
def flushStaged (s : State) : State :=
  s.fw.staged.foldl (fun x e => recordNow x e.1 e.2.1 e.2.2) { s with fw := { s.fw with staged := [] } }

/-- A processor runs again on the records it imports: trace point 4 with the beats since its stop; with CP7 the staged events are recorded. -/
def cpBack (s : State) (cp : Nat) : State :=
  let s1 : State := { s with fw := { s.fw with cpState := NMap.insert s.fw.cpState cp 1, restartAt := NMap.erase s.fw.restartAt cp } }
  let s2 := trace (importRecs s1 cp) 4 (if cp = 0 then 0xFF else 0) cp (launch s - NMap.getD s.fw.stoppedAt cp 0)
  if cp = 7 then flushStaged s2 else s2

/-- At a seam the processors whose restart has ended run again, CP0 first. -/
def cpsSeam (s : State) : State :=
  (s.fw.restartAt.filter fun (e : Nat × Nat) => decide (e.2 ≤ s.tkp.now) && cpState s e.1 == 2).foldl (fun x e => cpBack x e.1) s

end Sys2Proof.Machine
end

