-- ==== Sys2Proof/Machine/Flash.lean ====
section
/-!
DEFINITION. The events and the command of the flash tier (11 R248 to R254).
-/
namespace Sys2Proof.Machine

/-- A page chosen to go to flash cannot be stored: what only the index holds is freed, and a swapped request counts the page
as dropped (10 R217). -/
def losePage (s : State) (p id : Nat) : State :=
  let hs := holdersOf s p id
  hs.foldl (fun y e => (releasePage (dropPage y e.1 id) p id).1) (dropEntriesOf s p id)

/-- FLASH_DEMOTE: a page that reclaim has chosen (its frame is MOVING) is written at the write point. `fail` names the channel on which a
block failed to program; the page is then rewritten at the write point (R248, R251). -/
def execFlashDemote (pool frame : Nat) (fail : Option Nat) (s : State) : Out :=
  match frameAt s pool frame with
  | none => .next s
  | some f =>
    if f.state = 2 ∧ f.tier ≤ 1 ∧ !f.retired then
      let s1 := match fail with | some ch => programFails s pool ch | none => s
      let r := demotePage s1 pool frame
      .next (if r.2 then r.1 else losePage r.1 pool frame)
    else .next s

/-- FLASH_PROMOTE: a flash page is read back into a local frame; a read that fails, or that finds the frame absent, is a miss
(R253). -/
def execFlashPromote (pool frame : Nat) (failed : Bool) (s : State) : Out :=
  match frameAt s pool frame with
  | none => .next s
  | some f =>
    if f.state = 1 ∧ f.tier = 3 ∧ !f.retired then
      let s1 := flashRead s pool frame
      if failed ∨ flashAbsent s f then .next (flashMiss s1 pool frame)
      else
        let r := promotePage s1 pool frame 0
        .next r.1
    else .next s

/-- The live frames of a superblock, by key. -/
def liveIn (s : State) (sb : Nat) : List (Nat × Frame) := (flashFrames s).filter fun e => sbOf e.2 == sb && !flashAbsent s e.2

/-- The erase of a superblock: each member's erase count rises. -/
def eraseSb (s : State) (sb : Nat) (b : SuperBlk) : State :=
  modSb { s with fla := { s.fla with eraseCnt := (sbBlocks b).foldl (fun m k => NMap.modify m 0 k (· + 1)) s.fla.eraseCnt } } sb
    fun x => { x with state := 0, nextStripe := 0 }

/-- SUPERBLOCK_ERASE: a closed superblock all of whose frames are free or absent returns to the free set. An absent frame that is still
held counts as an uncorrectable read first (R252, R253), and the erase waits while one is left. `fail` names the channel whose member
failed to erase; a superblock without a spare for it leaves the set (R250, R251). -/
def execSuperblockErase (sb : Nat) (fail : Option Nat) (s : State) : Out :=
  match NMap.find? s.fla.sbs sb with
  | none => .next s
  | some b =>
    if b.state = 2 ∧ (liveIn s sb).isEmpty then
      let gone := (flashFrames s).filter fun e => sbOf e.2 == sb
      let s1 := gone.foldl (fun y e => flashMiss y (e.1 / 2 ^ 24) (e.1 % 2 ^ 24)) s
      if (flashFrames s1).any fun e => sbOf e.2 == sb then .next s1
      else
        match fail with
        | none => .next (eraseSb s1 sb b)
        | some ch =>
          let lone := (spareFor { s1 with fla := { s1.fla with bad := addSet s1.fla.bad (blockKey ch (b.members.getD ch 0)) } } ch (b.members.getD ch 0)).isNone
          let s2 := blockFails (eraseSb s1 sb b) sb ch
          .next (if lone then { s2 with fla := { s2.fla with sbs := NMap.erase s2.fla.sbs sb } } else s2)
    else .next s

/-- Rewrites a flash frame at the write point: its LOC changes, its GEN does not, and it moves no longer (R250). A free value says whether
a block fails to program, and on which channel; the page is then written again (R251, log 106). -/
def rewriteFrame (s0 : State) (key : Nat) : State :=
  let p := key / 2 ^ 24
  let id := key % 2 ^ 24
  let v := s0.takeFree
  let m := moveRead v.2 p id
  if !m.2 then moveLost m.1 p id
  else
    let bs := pageOf m.1 p id
    let s1 := if v.1.getLsbD 63 then programFails m.1 p (v.1.toNat % 16) else m.1
    let s2 := (flashStore s1 p id bs).1
    match frameAt s2 p id with
    | some f => setFrame s2 p id { f with state := if f.state = 2 then 1 else f.state }
    | none => s2

/-- The flash frames that move to the write point. -/
def relocating (s : State) : List (Nat × Frame) := (flashFrames s).filter fun e => e.2.state == 2

/-- SUPERBLOCK_RELOCATE: with fewer than 4 free superblocks, the live frames of the closed superblock with the fewest live frames become
MOVING; at the next occurrence those that are MOVING are rewritten at the write point (R250, log 106). -/
def execSuperblockRelocate (s : State) : Out :=
  let free := (s.fla.sbs.filter fun (b : Nat × SuperBlk) => b.2.state == 0).length
  let closed := s.fla.sbs.filter fun (b : Nat × SuperBlk) => b.2.state == 2
  if s.fla.state = 3 then .next s
  else if !(relocating s).isEmpty then .next ((relocating s).foldl (fun y e => rewriteFrame y e.1) s)
  else if 4 ≤ free then .next s
  else
    match closed.foldl (fun (m : Option (Nat × Nat)) b =>
        let n := (liveIn s b.1).length
        match m with
        | none => some (b.1, n)
        | some x => if n < x.2 then some (b.1, n) else some x) none with
    | some (sb, _) => .next ((liveIn s sb).foldl (fun y e => setFrame y (e.1 / 2 ^ 24) (e.1 % 2 ^ 24) { e.2 with state := 2 }) s)
    | none => .next s

/-- FLASH_RETENTION_REWRITE: the frames read in the last 24 h that are older than the limit less 3 days are rewritten
(R252). -/
def execFlashRetentionRewrite (s : State) : Out :=
  let due := (flashFrames s).filter fun e =>
    (match NMap.find? s.fla.readTick e.1 with
     | some t => decide (s.tkp.now ≤ t + 24 * 3600 * ticksPerSec)
     | none => false) &&
    (match NMap.find? s.fla.sbs (sbOf e.2) with
     | some b => decide (b.opened + retention s < opsecNow s + 3 * 86400)
     | none => false) && !flashAbsent s e.2
  .next (due.foldl (fun y e => rewriteFrame y e.1) s)

/-- The checks of FLASH_CFG on its field: 1 to 90 days (R252). -/
def flashCfgFields (r : JRec) (_ : State) : Nat :=
  if r.params.length = 1 ∧ 1 ≤ r.par 0 1 ∧ r.par 0 1 ≤ 90 then stOk else stInvalid
/-- FLASH_CFG at its seam. -/
def flashCfgApply (r : JRec) (s : State) : State := { s with fla := { s.fla with retainDays := r.par 0 1 } }
/-- FLASH_CFG (opcode 0x0217). -/
def execFlashCfg (q seq : Nat) (s : State) : Out := .next (withSeamCmd s q seq 0x0217 flashCfgFields)

end Sys2Proof.Machine
end

