-- ==== Sys2Proof/Machine/Time.lean ====
section
/-!
DEFINITION. Device time, the servo of CP6, the time sources and the transmit stamps (15 R336 to R347, 03 R46, 12 R270, R271).
-/
namespace Sys2Proof.Machine

/-! ### RATE (R337, R345) -/

/-- 200 ppm in units of 2^-48. -/
def rateMax : Int := 2 ^ 48 / 5000

/-- A free value as a RATE within 200 ppm. -/
def freeRate (w : W64) : Int := w.toInt % (2 * rateMax + 1) - rateMax

/-- RATE changes: BASE_NS takes the value of T at this raw cycle, so T never jumps. Until the first step BASE_NS, BASE_RAW and RATE
stay 0. -/
def setRate (s : State) (r : Int) : State :=
  if !s.tkp.locked then s
  else { s with tim := { s.tim with baseNs := timeNow s, baseRaw := s.tim.raw, rate := r } }

/-- 10 ppm in units of 2^-48: how far a slew may differ from the frequency estimate after NOSTEP (R338). -/
def slewMax : Int := 2 ^ 48 / 100000

/-- Ticks of 64 s. -/
def ticks64s : Nat := 512000

/-- The servo steers: a frequency estimate and a RATE that the spec leaves open, within their bounds (R337, R338); before the first step
RATE stays 0. -/
def steer (s : State) : State :=
  if !s.tkp.locked then s
  else
    let f := s.takeFree
    let g := f.2.takeFree
    let est := freeRate f.1
    let r := if s.tim.nostep then max (est - slewMax) (min (est + slewMax) (freeRate g.1)) else freeRate g.1
    let s1 := setRate g.2 r
    { s1 with tim := { s1.tim with freq := est, rates := (s.tkp.now, r) :: s1.tim.rates.filter fun e => decide (s.tkp.now < e.1 + ticks64s) } }

/-- The mean of numbers, rounded down; 0 of none. -/
def meanOf (xs : List Int) : Int := if xs.isEmpty then 0 else xs.foldl (· + ·) 0 / xs.length

/-- SYNCE_PORT has link and a quality level better than QL-DNU, whose code is 0xF (log 40). -/
def syncEGood (s : State) : Bool :=
  decide (s.tim.syncePort < 8 ∧ s.tim.esmc < 0xF) && (NMap.getD s.fh s.tim.syncePort {}).linkUp

/-- RATE in HOLDOVER: that of SyncE where it is good, otherwise frozen at its mean. -/
def holdRate (s : State) : State :=
  if syncEGood s then let f := s.takeFree; setRate f.2 (freeRate f.1) else setRate s (meanOf (s.tim.rates.map (·.2)))

/-- In HOLDOVER what RATE follows is decided again when SyncE becomes good or bad, or its port changes. -/
def rateAgain (s s1 : State) : State :=
  if s1.tim.state = 3 ∧ (syncEGood s ≠ syncEGood s1 ∨ s.tim.syncePort ≠ s1.tim.syncePort) then holdRate s1 else s1

/-! ### Ports (12 R257, R258, R272) -/

/-- A port sends and takes frames: it has a mode and its link, and the seam after the link's return has passed (12 R272). -/
def portWorks (s : State) (p : Nat) : Bool :=
  let x : FhPort := NMap.getD s.fh p {}
  decide (p < 8) && !laneMerged s p && x.mode.applied != 0 && x.linkUp && decide (x.resumeAt ≤ s.tkp.now)

/-! ### Servo states (R345) -/

/-- The servo enters HOLDOVER, with its event. -/
def enterHoldover (s : State) : State :=
  let s1 := holdRate { s with tim := { s.tim with state := 3, holdTick := s.tkp.now, meas := [] } }
  recordEvent s1 0x7002 6 []

/-- The source is present: FREERUN or HOLDOVER give ACQUIRING. -/
def sourceSeen (s : State) : State :=
  let s1 : State := { s with tim := { s.tim with present := true, heard := s.tkp.now } }
  if s.tim.state = 0 ∨ s.tim.state = 3 then { s1 with tim := { s1.tim with state := 1, meas := [], holdExceeded := false } } else s1

/-- 16 measurements agree within 100 ns of their mean, which lies more than 100 ns behind the source. -/
def stepWanted (ms : List Int) : Bool :=
  let m := meanOf ms
  ms.length == 16 && ms.all (fun x => decide (x - m ≤ 100 ∧ m - x ≤ 100)) && decide (m < -100)

/-- 16 measurements of |T − source| below 100 ns. -/
def phaseLocked (ms : List Int) : Bool := ms.length == 16 && ms.all fun x => decide (-100 < x ∧ x < 100)

/-- The first tick whose seam follows this moment by at least 2 ticks. -/
def stepSeam (s : State) : Nat := if s.tkp.beat = 0 then s.tkp.now + 2 else s.tkp.now + 3

/-- A measurement of T − source. -/
def measure (s : State) (d : Int) : State :=
  let ms := (d :: s.tim.meas).take 16
  let s1 : State := { s with tim := { s.tim with meas := ms } }
  if s.tim.state = 1 then
    if phaseLocked ms then steer { s1 with tim := { s1.tim with state := 2, everLocked := true } }
    else if stepWanted ms ∧ !s.tim.nostep ∧ s.tkp.step.isNone then { s1 with tkp := { s1.tkp with step := some (stepSeam s) } }
    else steer s1
  else if s.tim.state = 2 then steer s1
  else s1

/-! ### PTP and ESMC (R343, R346, R347, 12 R270, R271) -/

/-- An entry of a transmit stamp queue, as the number its 16 bytes hold (R346). -/
def stampEntry (id msg port t : Nat) : Nat :=
  leNat (leBytes 2 id ++ leBytes 1 msg ++ leBytes 1 port ++ leBytes 4 (t % 1000000000) ++ leBytes 6 (t / 1000000000))

/-- CP6 removes `taken` entries, then a stamp arrives; at a full queue it is dropped and counted. -/
def pushStamp (x : FhPort) (taken : Nat) (e : Option Nat) : FhPort :=
  let q := x.txq.drop taken
  match e with
  | none => { x with txq := q }
  | some v => if q.length < 64 then { x with txq := q ++ [v] } else { x with txq := q, stampOver := satAdd 16 x.stampOver 1 }

/-- A message in which the device takes no part: peer delay, management, another domain, another address (R343, 12 R270). -/
def ptpForeign (s : State) (msgType : Nat) (m : PtpMsg) : Bool :=
  [2, 3, 0xA, 0xD].contains msgType || m.domain != s.tim.domain || !([0x011B19000000, 0x0180C200000E].contains m.dest)

/-- The device sends a message: as T-TSC a Delay_Req on PTP_PORT; as T-BC the messages of a master on the ports of MASTER_MASK, except the
Follow_Up of a Sync whose stamp was dropped (R343, R347). -/
def ptpSends (s : State) (port msgType seqId : Nat) : Bool :=
  if msgType = 1 then port == s.tim.ptpPort
  else if [0, 8, 9, 0xB].contains msgType then
    s.tim.masters.testBit port && !(msgType == 8 && (NMap.getD s.fh port {} : FhPort).noFollow.contains seqId)
  else false

/-- A port whose message has left: an event message leaves its stamp, and a Sync whose stamp finds the queue full is noted (R346, R347). -/
def ptpLeft (s : State) (port msgType seqId taken : Nat) (m : PtpMsg) : FhPort :=
  let x : FhPort := NMap.getD s.fh port {}
  let t := timeAt s (s.tim.raw + m.ns)
  let y := pushStamp x taken (if msgType < 4 then some (stampEntry seqId msgType port t) else none)
  if msgType ≠ 0 then y
  else { y with noFollow := if (x.txq.drop taken).length < 64 then y.noFollow.filter (· != seqId) else addSet y.noFollow seqId }

/-- An Announce on PTP_PORT shows the source present, and its sender becomes the master if there is none or it is the better (R343, R345). -/
def announced (s : State) (m : PtpMsg) : State :=
  let best := match s.tim.master with
    | some c => if c.1 = m.source ∨ Config.betterMaster (Config.localPriority s.tim.ptpPort) m.dataset c.2 then (m.source, m.dataset) else c
    | none => (m.source, m.dataset)
  let s1 := sourceSeen s
  { s1 with tim := { s1.tim with master := some best } }

/-- The message comes from the best master. -/
def fromMaster (s : State) (m : PtpMsg) : Bool := match s.tim.master with | some c => c.1 == m.source | none => false

/-- PTP_MESSAGE: a PTP message leaves (`sent`) or arrives on a fronthaul port. On PTP_PORT in SOURCE 0 an Announce is taken, and a message
of the master that completes a measurement gives T − source. -/
def execPtpMessage (port msgType seqId taken : Nat) (sent : Bool) (m : PtpMsg) (s : State) : Out :=
  if !portWorks s port ∨ ptpForeign s msgType m then .next s
  else if sent then
    .next (if ptpSends s port msgType seqId then { s with fh := NMap.insert s.fh port (ptpLeft s port msgType seqId taken m) } else s)
  else
    let s1 : State := { s with fh := NMap.insert s.fh port (pushStamp (NMap.getD s.fh port {}) taken none) }
    if port ≠ s.tim.ptpPort ∨ s.tim.source ≠ 0 then .next s1
    else
      let s2 := if msgType = 0xB then announced s1 m else s1
      .next (match m.offset with | some d => if fromMaster s2 m then measure s2 d else s2 | none => s2)

/-- ESMC_MESSAGE: the quality level of the port that is recovered for SYNCE_CLK (12 R271, R345). -/
def execEsmcMessage (port quality : Nat) (s : State) : Out :=
  if port ≠ s.tim.syncePort ∨ !portWorks s port then .next s
  else .next (rateAgain s { s with tim := { s.tim with esmc := quality } })

/-! ### PPS and time of day (R344) -/

/-- The characters of a line before its CR LF, or none where it has none. -/
def lineBody (line : List Byte) : Option (List Nat) :=
  let n := line.length
  if 2 ≤ n ∧ line.drop (n - 2) = [0x0D, 0x0A] then some ((line.take (n - 2)).map (·.toNat)) else none

/-- A decimal number; none where a character is no digit or none stands there. -/
def decimal (cs : List Nat) : Option Nat :=
  if cs.isEmpty ∨ cs.any (fun c => c < 48 ∨ 57 < c) then none else some (cs.foldl (fun n c => 10 * n + (c - 48)) 0)

/-- An uppercase hex digit. -/
def hexDigit (v : Nat) : Nat := if v < 10 then 48 + v else 55 + v

/-- The XOR of characters. -/
def xorOf (cs : List Nat) : Nat := cs.foldl (· ^^^ ·) 0

/-- The parts of a list between separators. -/
def splitOn (sep : Nat) : List Nat → List (List Nat)
  | [] => [[]]
  | c :: cs =>
    match splitOn sep cs with
    | p :: ps => if c = sep then [] :: p :: ps else (c :: p) :: ps
    | [] => [[c]]

/-- What a time-of-day line with a correct check says: seconds, valid, leap. -/
def todFields (line : List Byte) : Option (Nat × Nat × Nat) :=
  match lineBody line with
  | none => none
  | some cs =>
    match splitOn 42 cs with
    | [36 :: body, check] =>
      if check = [hexDigit (xorOf body / 16), hexDigit (xorOf body % 16)] then
        match splitOn 44 body with
        | [name, sec, valid, leap] =>
          if name = [66, 81, 84, 79, 68] then
            match decimal sec, decimal valid, decimal leap with
            | some a, some v, some l => if v ≤ 1 then some (a, v, l) else none
            | _, _, _ => none
          else none
        | _ => none
      else none
    | _ => none

/-- TOD_LINE_RX: a valid line that ends in its window names the next edge. -/
def execTodLineRx (line : List Byte) (msAfterEdge : Nat) (s : State) : Out :=
  match todFields line with
  | some (sec, 1, leap) =>
    if 100 ≤ msAfterEdge ∧ msAfterEdge ≤ 900 then .next { s with tim := { s.tim with todNext := some sec, leap := some leap } } else .next s
  | _ => .next s

/-- Signed nanoseconds from a time to the nearest whole second. -/
def toSecond (t : Int) : Int := (t + 500000000) / 1000000000 * 1000000000 - t

/-- PPS_IN_EDGE: an edge stamped at a raw count. In SOURCE 1 it counts if a valid line named it (R344); in SOURCE 0 it is only
compared. -/
def execPpsInEdge (rawNs : Nat) (s : State) : Out :=
  let t : Int := (timeAt s rawNs : Int) - s.tim.ppsDelay
  let s1 : State := { s with tim := { s.tim with lastEdge := some rawNs, todNext := none } }
  let seen : State := { s1 with tim := { s1.tim with ppsErr := toSecond t } }
  if s.tim.source = 0 then .next seen
  else
    match s.tim.todNext with
    | none => .next { s1 with tim := { s1.tim with ppsMissed := satAdd 16 s1.tim.ppsMissed 1 } }
    | some sec => .next (measure (sourceSeen seen) (t - 1000000000 * sec))

/-- The decimal digits of a number; the fuel bounds their count. -/
def digitsOf : Nat → Nat → List Nat
  | 0, _ => []
  | f + 1, n => (if n < 10 then [] else digitsOf f (n / 10)) ++ [48 + n % 10]

/-- A time-of-day line (R344). -/
def todLine (sec valid leap : Nat) : List Byte :=
  let body := [66, 81, 84, 79, 68, 44] ++ digitsOf 20 sec ++ [44] ++ digitsOf 20 valid ++ [44] ++ digitsOf 20 leap
  let x := xorOf body
  ([36] ++ body ++ [42, hexDigit (x / 16), hexDigit (x % 16), 0x0D, 0x0A]).map (BitVec.ofNat 8)

/-- The line on TOD_TXD says valid. -/
def todValid (s : State) : Bool := s.tim.state == 2 || (s.tim.state == 3 && !s.tim.holdExceeded)

/-- The line on TOD_TXD 500 ms after a PPS_OUT edge, naming the next edge; TAI − UTC that no line has told is a value that the spec leaves
open (R344; log 40). -/
def todDue (s : State) : State :=
  match s.tim.ppsRaw with
  | none => s
  | some r =>
    if s.tim.raw < r + 500000000 then s
    else
      let f := s.takeFree
      let g : Nat × State := match s.tim.leap with
        | some l => (l, s)
        | none => (f.1.toNat, f.2)
      { g.2 with tim := { g.2.tim with ppsRaw := none, todSent := todLine (s.tim.ppsOut + 1) (bit1 (todValid s)) g.1 } }

/-- PPS_OUT: an edge at a whole second of T, in the beat that holds it (R344). -/
def execPpsOut (s : State) : Out :=
  let sec := (timeNow s + 999999999) / 1000000000
  if !s.pwr.pwrGood ∨ sec ≤ s.tim.ppsOut ∨ timeAt s (s.tim.raw + 100) ≤ 1000000000 * sec then .next s
  else
    let s1 := todDue s
    .next { s1 with tim := { s1.tim with ppsOut := sec, ppsRaw := some s.tim.raw } }

/-! ### Loss of the source, holdover (R345) -/

/-- Ticks without an Announce, or without a counted edge, after which the source is lost: 375 ms, 3 s. -/
def lossTicks (s : State) : Nat := if s.tim.source = 0 then 3000 else 24000

/-- The source is gone: the servo leaves ACQUIRING and LOCKED, and a decided step is abandoned (03 R46). -/
def sourceGone (s : State) : State :=
  let s1 : State := { s with tim := { s.tim with present := false, master := none }, tkp := { s.tkp with step := none, stepAt := none } }
  if s.tim.state = 1 ∧ !s.tim.everLocked then setRate { s1 with tim := { s1.tim with state := 0, meas := [] } } 0
  else if s.tim.state = 1 ∨ s.tim.state = 2 then enterHoldover s1
  else s1

/-- SOURCE_LOST. -/
def execSourceLost (s : State) : Out :=
  .next (if !s.tim.present ∨ s.tkp.now < s.tim.heard + lossTicks s then s else sourceGone s)

/-- HOLD_EXCEEDED: a holdover run reaches HOLD_LIMIT_S. -/
def execHoldExceeded (s : State) : Out :=
  if s.tim.state ≠ 3 ∨ s.tim.holdExceeded ∨ s.tkp.now < s.tim.holdTick + ticksPerSec * s.tim.holdLimit then .next s
  else .next (recordEvent { s with tim := { s.tim with holdExceeded := true } } 0x7003 6 [])

/-! ### The step (03 R46, R338) -/

/-- A tick of the old numbering that has not passed, in the new one; a moment in the past keeps its distance. -/
def shiftTick (d t : Nat) : Nat := t + d

/-- A moment of the launch counter in beats, in the new numbering. -/
def shiftBeats (d b : Nat) : Nat := b + 1250 * d

/-- Staged plans keep their order and are re-indexed. -/
def shiftPlans (d now : Nat) (m : NMap Plan) : NMap Plan :=
  m.foldl (fun acc e => if e.2.tick < now then acc else NMap.insert acc ((e.2.tick + d) % 16) { e.2 with tick := e.2.tick + d }) []

/-- A waiting command names its tick itself (AT_TICK, 16 R358). -/
def seamNamed (s : State) (c : SeamCmd) : Bool := match findRec s c.q c.seq with | some r => r.tickArg.isSome | none => false

/-- The moments that the device keeps for its own timers move with the tick index, and so do the seams of waiting commands; a tick that a
command names stays as named (log 41). -/
def shiftTimers (d : Nat) (s : State) : State :=
  let f := fun (t : Nat) => shiftTick d t
  let out := fun (o : OutReq) => { o with sentAt := shiftBeats d o.sentAt, pkt := { o.pkt with stamp := if o.pkt.stamp = 0 then 0 else shiftBeats d o.pkt.stamp } }
  { s with
    rad := { s.rad with cells := s.rad.cells.map fun e => (e.1, { e.2 with setup := e.2.setup.map fun c => (f c.1, c.2) }) }
    tim := { s.tim with rates := s.tim.rates.map (fun e => (f e.1, e.2)), heard := f s.tim.heard, holdTick := f s.tim.holdTick,
                        jobs := s.tim.jobs.map fun j => { j with reportTick := j.reportTick.map f, launched := f j.launched } }
    dies := { s.dies with images := s.dies.images.map fun e => (e.1, { e.2 with startable := f e.2.startable })
                          copies := s.dies.copies.map fun e => (e.1, { e.2 with startable := f e.2.startable })
                          bindAt := s.dies.bindAt.map fun e => (e.1, (e.2.1, f e.2.2)) }
    mem := { s.mem with dma := s.mem.dma.map fun e => (e.1, { e.2 with tick := f e.2.tick }) }
    srv := { s.srv with adapters := s.srv.adapters.map fun e => (e.1, { e.2 with since := f e.2.since })
                        ddl := s.srv.ddl.map fun e => (e.1, f e.2) }
    mov := { s.mov with src := s.mov.src.map fun e => (e.1, { e.2 with sentTick := f e.2.sentTick })
                        index := s.mov.index.map fun e => { e with useTick := f e.useTick }
                        leases := s.mov.leases.map fun e => (e.1, { e.2 with until_ := f e.2.until_ })
                        ops := s.mov.ops.map fun o => { o with startTick := f o.startTick }
                        failStreak := s.mov.failStreak.map fun e => (e.1, (e.2.1, f e.2.2)) }
    fla := { s.fla with readTick := s.fla.readTick.map fun e => (e.1, f e.2) }
    fh := s.fh.map fun e => (e.1, { e.2 with trainAt := e.2.trainAt.map f, resumeAt := f e.2.resumeAt })
    fab := { s.fab with
      tx := s.fab.tx.map fun e => (e.1, { e.2 with outst := e.2.outst.map out, held := e.2.held.map out,
                                                   epochAsk := e.2.epochAsk.map (shiftBeats d) })
      rx := s.fab.rx.map fun e => (e.1, { e.2 with runs := e.2.runs.map fun r => { r with at_ := shiftBeats d r.at_ } })
      probeAt := shiftBeats d s.fab.probeAt
      grants := s.fab.grants.map fun e => (e.1, { e.2 with offered := f e.2.offered })
      foreignEvt := s.fab.foreignEvt.map fun e => (e.1, f e.2) }
    slc := { s.slc with
      ctxs := s.slc.ctxs.map fun e => (e.1, { e.2 with changed := f e.2.changed, restoreAt := e.2.restoreAt.map f, readyAt := e.2.readyAt.map f })
      pages := s.slc.pages.map fun e => (e.1, { e.2 with sentTick := f e.2.sentTick })
      winAt := shiftBeats d s.slc.winAt }
    fw := { s.fw with beatTick := f s.fw.beatTick, orphanTick := f s.fw.orphanTick, stopTicks := s.fw.stopTicks.map fun e => (e.1, e.2.map f)
                      restartAt := s.fw.restartAt.map fun e => (e.1, f e.2)
                      stoppedAt := s.fw.stoppedAt.map fun e => (e.1, shiftBeats d e.2) }
    hst := { s.hst with queues := s.hst.queues.map fun e => (e.1, { e.2 with unsigAt := shiftBeats d e.2.unsigAt }) }
    ras := { s.ras with stressAsk := s.ras.stressAsk.map (fun e => (e.1, f e.2)), stressAt := s.ras.stressAt.map (fun e => (e.1, f e.2)), sentAll := s.ras.sentAll.map f, conSince := f s.ras.conSince,
                        goneOff := s.ras.goneOff.map f, digests := s.ras.digests.map fun e => { e with tick := f e.tick }
                        theirs := s.ras.theirs.map fun e => { e with tick := f e.tick } }
    sec := { s.sec with nonce := s.sec.nonce.map fun e => (e.1, f e.2) }
    evr := { s.evr with buckets := s.evr.buckets.map fun e => (e.1, { e.2 with last := f e.2.last }) }
    tkp := { s.tkp with seamQ := s.tkp.seamQ.map (fun c => if seamNamed s c then c else { c with tick := f c.tick }), backAt := f s.tkp.backAt } }

/-- The step at this seam to the boundary `n` of source time, after a lengthening of `ns`: T becomes 125,000 × n. -/
def stepTo (s : State) (n ns : Nat) : State :=
  let d := n - s.tkp.now
  let s1 := shiftTimers d s
  { s1 with
    tkp := { s1.tkp with now := n, locked := true, step := none, plans := shiftPlans d s.tkp.now s.tkp.plans,
                         stepAt := none, rwtApply := s.tkp.rwtApply + d,
                         loaded := s.tkp.loaded.map (· + d) }
    tim := { s1.tim with raw := (s.tim.raw + ns) % 2 ^ 64, baseRaw := (s.tim.raw + ns) % 2 ^ 64, baseNs := 125000 * n, meas := [] } }

/-- TIME_STEP: the decided step, in the dusk band before its seam, which applies it (log 41). `sourceNs` is source time at the end of a tick
of ordinary length; the tick is lengthened to the next boundary of 125 µs. A step is abandoned if the source is gone, and the servo then
leaves ACQUIRING; it never goes backward: T at that end is 125,000 times the index of the tick that opens there (03 R46, R338). -/
def execTimeStep (sourceNs : Nat) (sourcePresent : Bool) (s : State) : Out :=
  match s.tkp.step with
  | none => .next s
  | some t =>
    if s.tkp.beat < 1234 ∨ s.tkp.now + 1 < t then .next s
    else
      let n := (sourceNs + 124999) / 125000
      if !sourcePresent then .next (sourceGone s)
      else if !s.tim.present ∨ s.tim.nostep ∨ sourceNs < 125000 * (s.tkp.now + 1) then
        .next { s with tkp := { s.tkp with step := none, stepAt := none }, tim := { s.tim with meas := [] } }
      else .next { s with tkp := { s.tkp with stepAt := some (n, 125000 * n - sourceNs) } }

/-! ### TIME_CFG (R342) -/

/-- A signed field of 32 bits. -/
def signed32 (v : Nat) : Int := (BitVec.ofNat 32 v).toInt

/-- The fields of TIME_CFG. -/
def timeCfgFields (r : JRec) (_ : State) : Nat :=
  let delay := signed32 (r.par 12 4)
  let ok := r.params.length == 64 && decide (r.par 0 1 < 2 ∧ r.par 1 1 < 8 ∧ 24 ≤ r.par 2 1 ∧ r.par 2 1 ≤ 43) &&
    decide (r.par 3 1 < 8 ∨ r.par 3 1 = 0xFF) && decide (r.par 4 4 < 256) && decide (60 ≤ r.par 8 4 ∧ r.par 8 4 ≤ 86400) &&
    decide (-10000 ≤ delay ∧ delay ≤ 10000) && r.zeros 16 48 && !(r.par 4 4).testBit (r.par 1 1)
  if ok then stOk else stInvalid

/-- TIME_CFG meets no state that forbids it. -/
def timeCfgState (_ : JRec) (_ : State) : Nat := stOk

/-- SYNCE_CLK is low after TIME_CFG: while the same port stays selected as before, with another port if that has no link (12 R271). -/
def synceAfter (s : State) (port : Nat) : Bool :=
  if port = s.tim.syncePort then s.tim.synceLow else decide (port < 8) && !(NMap.getD s.fh port {} : FhPort).linkUp

/-- TIME_CFG at its seam. -/
def timeCfgApply (r : JRec) (s : State) : State :=
  let src := r.par 0 1
  let port := r.par 3 1
  let changed := s.tim.source ≠ src
  rateAgain s { s with
    tim := { s.tim with synceLow := synceAfter s port,
                        master := if changed ∨ s.tim.ptpPort ≠ r.par 1 1 ∨ s.tim.domain ≠ r.par 2 1 then none else s.tim.master, source := src, ptpPort := r.par 1 1, domain := r.par 2 1, syncePort := port, masters := r.par 4 4,
                        holdLimit := r.par 8 4, ppsDelay := signed32 (r.par 12 4), meas := if changed then [] else s.tim.meas
                        heard := if changed then s.tkp.now else s.tim.heard }
    fh := (List.range 8).foldl (fun m p => NMap.insert m p { (NMap.getD m p {} : FhPort) with synceSrc := p == port && !synceAfter s port }) s.fh }

/-- TIME_CFG (R342). -/
def execTimeCfg (q seq : Nat) (s : State) : Out := .next (withSeamCmd s q seq 0x0620 timeCfgFields)

end Sys2Proof.Machine
end

