-- ==== Sys2Proof/Machine/Fronthaul.lean ====
section
/-!
DEFINITION. Fronthaul ports: frames received and their windows, launches, the time-domain front end, link loss and
configuration (12 R257 to R272).
-/
namespace Sys2Proof.Machine

/-! ### U-plane compression (R262) -/

/-- The 24 values of a PRB as fields of `w` bits, the most significant bit first. -/
def packPrb (w : Nat) (vs : List Int) : List Byte :=
  beBytes (3 * w) (vs.foldl (fun a v => a * 2 ^ w + (v % (2 : Int) ^ w).toNat) 0)

/-- The 24 sign-extended fields of a PRB. -/
def prbFields (w : Nat) (bs : List Byte) : List Int :=
  (List.range 24).map fun i => (BitVec.ofNat w (beNat (bs.take (3 * w)) / 2 ^ (w * (23 - i)))).toInt

/-- Bytes of a PRB at a mantissa width; width 0 stands for method 0. -/
def prbBytes (w : Nat) : Nat := if w = 0 then 48 else 3 * w + 1

/-- A PRB as it is sent: method 0, or udCompParam with the exponent of BEXP in mode 0 over its values, and the values shifted right by it. -/
def prbOut (w : Nat) (vs : List Int) : List Byte :=
  if w = 0 then packPrb 16 vs
  else
    let e := (bexpOp (BitVec.ofNat 16 (64 * (w - 1) + 24)) (vs.map (BitVec.ofInt 32))).toNat
    BitVec.ofNat 8 (e % 16) :: packPrb w (vs.map fun v => v / (2 : Int) ^ e)

/-- A PRB as it is received: each value its mantissa shifted left by the exponent. -/
def prbIn (w : Nat) (bs : List Byte) : List Int :=
  if w = 0 then prbFields 16 bs
  else (prbFields w (bs.drop 1)).map fun v => v * (2 : Int) ^ ((bs.getD 0 0).toNat % 16)

/-- The mantissa width of a section: its own where the port compresses dynamically, else the port's. -/
def rxWidth (port : FhPort) (method width : Nat) : Nat :=
  if port.dynComp.applied = 1 then (if method = 0 then 0 else if width = 0 then 16 else width) else port.mantRx.applied

/-! ### Receiving (R259 to R262, R264, R266) -/

/-- Counts a frame or section in UNKNOWN. -/
def fhUnknown (s : State) (p : Nat) : State := modFh s p fun x => { x with unknown := satAdd 16 x.unknown 1 }

/-- The active cell of a port that has an uplink eAxC ID or flow. -/
def cellOfEaxc (s : State) (p e : Nat) : Option (Nat × Cell) :=
  List.find? (fun (c : Nat × Cell) => c.2.active && (match c.2.bind_ with
    | some b => b.port == p && (b.eaxc.drop b.dl).contains e
    | none => false)) s.rad.cells

/-- PRBs of a cell's carrier. -/
def Cell.prbs (x : Cell) : Nat := match x.cfg with | some c => c.prbs | none => 0

/-- Where a packet's arrival stamp lies against the window of an air time: 0 before, 1 in it, 2 after it. -/
def windowOf (x : FhPort) (f : FhFrame) (t : Nat) : Nat :=
  if 100 * (t + airUnits * x.rxMax.applied) ≤ airUnits * f.stampNs then 2
  else if airUnits * f.stampNs < 100 * (t + airUnits * x.rxMin.applied) then 0 else 1

/-- A section of a packet that is taken, with its PRBs `at_` bytes into the payload: each PRB once, a second copy counted in DUP. -/
def takeSection (s : State) (p c : Nat) (f : FhFrame) (sec : Nat × Nat × Bool × Nat × Nat) (at_ : Nat) : State :=
  let x := cellAt s c
  let port := fhAt s p
  let n := if sec.2.1 = 0 then x.prbs else sec.2.1
  let w := if sec.2.2.2.2 = 0 then 16 else sec.2.2.2.2
  if sec.2.2.1 ∨ x.prbs < sec.1 + n then fhUnknown s p
  else if port.dynComp.applied = 1 ∧ (1 < sec.2.2.2.1 ∨ w < 8) then modFh s p fun y => { y with comp := satAdd 16 y.comp 1 }
  else
    (List.range n).foldl (fun y i =>
      let k := prbKey f.sym f.eaxc (sec.1 + i)
      if (cellAt y c).rxGot.contains k then modFh y p fun z => { z with dup := satAdd 16 z.dup 1 }
      else
        let m := rxWidth port sec.2.2.2.1 sec.2.2.2.2
        modCell y c fun z => { z with rxGot := addSet z.rxGot k
                                      rxIq := NMap.insert z.rxIq k (prbIn m ((f.body.drop (at_ + i * prbBytes m)).take (prbBytes m))) }) s

/-- The sections of a packet in turn, the next with its PRBs `at_` bytes into the payload. -/
def takeSections (p c : Nat) (f : FhFrame) : List (Nat × Nat × Bool × Nat × Nat) → Nat → State → State
  | [], _, s => s
  | sec :: rest, at_, s =>
    let n := if sec.2.1 = 0 then (cellAt s c).prbs else sec.2.1
    takeSections p c f rest (at_ + n * prbBytes (rxWidth (fhAt s p) sec.2.2.2.1 sec.2.2.2.2)) (takeSection s p c f sec at_)

/-- A packet meets the window of an air time: counted, and if it is in time `k` takes it (R264). -/
def windowed (s : State) (p : Nat) (f : FhFrame) (t : Nat) (k : State → State) : State :=
  let w := windowOf (fhAt s p) f t
  if w = 0 then modFh s p fun x => { x with early := satAdd 16 x.early 1 }
  else if w = 2 then modFh s p fun x => { x with late := satAdd 16 x.late 1 }
  else k (modFh s p fun x => { x with onTime := satAdd 32 x.onTime 1 })

/-- An eCPRI frame (R260, R261). -/
def ecpriRx (s : State) (p : Nat) (f : FhFrame) : State :=
  if f.revision ≠ 1 ∨ f.concat ∨ f.msgType ≠ 0 ∨ !f.eBit ∨ 4 < f.filterIdx then fhUnknown s p
  else
    match cellOfEaxc s p f.eaxc with
    | none => fhUnknown s p
    | some (c, x) => windowed s p f (airEnd x f.sym) fun y => takeSections p c f f.sections 0 y

/-! ### Time-domain IQ (R266, R267) -/

/-- Samples of a time-domain packet (R266). -/
def tdSamples (x : FhPort) : Nat := 256 * 2 ^ x.samples.applied

/-- Samples of a cell in 10 ms. -/
def Cell.rate (x : Cell) : Nat := match x.cfg with | some g => g.samplesPer10ms | none => 0

/-- The first tick of the radio frame of a tick. -/
def frameTick (x : Cell) (a : Nat) : Nat := a - (((a : Int) - x.off) % 80).toNat

/-- The key of a packet of a flow in a radio frame. -/
def tdKey (frame flow k : Nat) : Nat := frame * 2 ^ 36 + flow * 2 ^ 14 + k

/-- The air time of a sample of a radio frame. -/
def sampleAir (x : Cell) (frame i : Nat) : Nat := airUnits * (1250 * frame) + airUnits * 100000 * i / x.rate

/-- The number within its radio frame of a symbol's first sample: the frame has 2,457,600 units of 1/245.76 µs. -/
def sampleOf (x : Cell) (frame sym : Nat) : Nat := (airTime x sym - airUnits * (1250 * frame)) / 125 * x.rate / 2457600

/-- A symbol in its radio frame: its first sample, its samples, and those of its cyclic prefix, which the FFT size of the numerology leaves. -/
def symSpan (x : Cell) (sym : Nat) : Nat × Nat × Nat :=
  let f := frameTick x (sym / 16)
  let a := sampleOf x f sym
  let n := sampleOf x f (nextSym x sym) - a
  (a, n, n - x.rate / (150 * 2 ^ x.mu))

/-- The samples of a symbol of a flow as received; none where its packet has not come. -/
def symSamples (x : Cell) (port : FhPort) (flow sym : Nat) : List (Option (Int × Int)) :=
  let f := frameTick x (sym / 16)
  let n := tdSamples port
  let sp := symSpan x sym
  (List.range sp.2.1).map fun i =>
    let j := sp.1 + i
    (NMap.find? x.recv (tdKey f flow (j / n))).bind fun l => l[j % n]?

/-- An IEEE 1914.3 frame: its sequence number lies within the radio frame's packets, and its window is that of its last sample (R266). -/
def tdRx (s : State) (p : Nat) (f : FhFrame) : State :=
  match cellOfEaxc s p f.flow with
  | none => fhUnknown s p
  | some (c, x) =>
    let n := tdSamples (fhAt s p)
    let frame := frameTick x (f.sym / 16)
    if x.rate / n ≤ f.seqNum then fhUnknown s p
    else
      windowed s p f (sampleAir x frame (n * f.seqNum + n - 1)) fun y =>
        let k := tdKey frame f.flow f.seqNum
        if (NMap.find? (cellAt y c).recv k).isSome then modFh y p fun z => { z with dup := satAdd 16 z.dup 1 }
        else modCell y c fun z => { z with recv := NMap.insert z.recv k (iqPairs ((List.range (2 * n)).map fun i =>
                                             (BitVec.ofNat 16 (beNat ((f.body.drop (2 * i)).take 2))).toInt)) }

/-- The VLAN tag of a frame is one that the port does not take (R259). -/
def vlanBad (x : FhPort) (f : FhFrame) : Bool :=
  f.twoTags || (match f.vid with | some (tpid, vid) => tpid != 0x8100 || vid != x.vid.applied | none => false)

/-- FH_FRAME_RX: classification by VLAN tag and EtherType (R259). PTP and ESMC frames go to CP6 with their receive stamps;
what CP6 does with a message is the effect of its own command. -/
def execFhFrameRx (port : Nat) (f : FhFrame) (s : State) : Out :=
  let x := fhAt s port
  if !portWorks s port then .next s
  else if !f.fcsOk then .next (modFh s port fun y => { y with fcs := satAdd 16 y.fcs 1 })
  else if vlanBad x f then .next (fhUnknown s port)
  else if f.etherType = 0xAEFE ∧ x.kind.applied = 0 then .next (ecpriRx s port f)
  else if f.etherType = 0xFC3D ∧ x.kind.applied = 1 then .next (tdRx s port f)
  else if f.etherType = 0x88F7 ∨ (f.etherType = 0x8809 ∧ f.slowSub = 0x0A) then .next (modFh s port fun y => { y with cpRx := (f.etherType, f.stampNs) :: y.cpRx })
  else .next (fhUnknown s port)

/-! ### Closing a symbol (R264, R267) -/

/-- The slot descriptor of a cell in the current plan (13 R300). -/
def cellDesc (s : State) (c : Nat) : Option CellSlot := (currentPlan s).bind fun p => p.cells.find? fun d => d.cell == c

/-- The address of the symbol word of a stream (13 R279). -/
def wordAddr (x : Cell) (b : CellBind) (stream sym : Nat) : Nat :=
  let n := sfnSlot x (sym / 16)
  let per := 10 * 2 ^ x.mu
  b.agcPtr + 4 * (stream * (4 * per * 14) + (n.1 % 4 * per + n.2) * 14 + sym % 16)

/-- SYMBOL_CLOSE: at the first beat boundary at or after air end + RX_MAX the symbol closes whatever has arrived, and the sync counter that
the cell's descriptor names rises. -/
def execSymbolClose (cell first y : Nat) (s : State) : Out :=
  let x := cellAt s cell
  let sym := 16 * first + y
  if !x.active ∨ x.closed.contains sym ∨ 14 ≤ y ∨ slotPhase x first ≠ 0 ∨ launch s ≠ closeBeat s x sym then .next s
  else
    let s1 := modCell s cell fun y => { y with closed := addSet (y.closed.filter fun z => sym ≤ z + 16384) sym
                                               rxGot := y.rxGot.filter fun k => k / 2 ^ 32 != sym }
    match cellDesc s1 cell with
    | some d => .next (incSync s1 d.rxSync)
    | none => .next s1

/-! ### AGC and burst detection (R268, R269) -/

/-- A value kept within a range. -/
def clampI (v lo hi : Int) : Int := max lo (min hi v)

/-- The gain for the symbol after one of input power `pin` (R268). -/
def nextGain (target maxGain g : Nat) (pin : Int) : Nat :=
  let d := -(target : Int) - pin
  (clampI ((g : Int) + clampI (d - g) (-4) 4) 0 maxGain).toNat

/-- A symbol word (R267). -/
def symbolWord (g : Nat) (detect held miss : Bool) : W32 := BitVec.ofNat 32 (g % 256 + 256 * bit1 detect + 512 * bit1 held + 1024 * bit1 miss)

/-- A stream at the end of symbol `sym`: its word, the trigger or the qualifier, and the gain of the next symbol. -/
def agcStep (p : FhPort) (x : TdStream) (sym : Nat) (miss : Bool) (pin winPeak : Int) (corr256 : Nat) : TdStream :=
  let last := decide (sym % 16 = 13)
  let qual := x.trig && decide (p.qual.applied ≤ corr256)
  let trig := decide (14 ≤ x.pins.length) && decide (x.pins.foldl min (x.pins.headD 0) + (p.thr.applied : Int) ≤ winPeak) &&
    !x.held && !x.frozen && !last
  let detect := x.detect || qual
  let frozen := (x.frozen || qual) && !last
  let held := trig && !last
  let words := NMap.insert (x.words.filter fun e => sym ≤ e.1 + 16) sym (symbolWord x.gain detect (x.held || x.frozen) miss)
  let words := if qual then NMap.adjust words (sym - 1) fun w => w ||| 0x100 else words
  { gain := if held || frozen then x.gain else nextGain p.target.applied p.maxGain.applied x.gain pin,
    pins := (pin :: x.pins).take 14, held := held, frozen := frozen, trig := trig, detect := detect && !last, words := words, last := sym }

/-- A power, as a ratio to full scale, is `p` steps of 0.5 dB, floored: 10^(p / 20) ≤ num / den < 10^((p + 1) / 20) in whole numbers. Of a power of
zero the spec names no number of steps, and any is taken (log 108). -/
def halfDb (p : Int) (num den : Nat) : Bool :=
  num == 0 || decide (den ^ 20 * 10 ^ p.toNat ≤ num ^ 20 * 10 ^ (-p).toNat ∧
    num ^ 20 * 10 ^ (-(p + 1)).toNat < den ^ 20 * 10 ^ (p + 1).toNat)

/-- Full scale as a power: that of a sample of magnitude 2^15 (log 108). -/
def fullScale : Nat := 2 ^ 30

/-- The power of the strongest window of 64 consecutive samples, as their sum. -/
def windowPeak (zs : List (Int × Int)) : Nat :=
  ((List.range (zs.length - 63)).map fun i => (energy ((zs.drop i).take 64)).toNat).foldl max 0

/-- The normalised correlation of a cyclic prefix with the tail of its body, in 1/256, floored; of a prefix or tail without energy it has no
value, and any is taken (R269; log 108). -/
def corrIs (n : Nat) (c t : List (Int × Int)) : Bool :=
  let e := (energy c * energy t).toNat
  let z := (power (correlate c t)).toNat
  e == 0 || decide (n * n * e ≤ 65536 * z ∧ 65536 * z < (n + 1) * (n + 1) * e)

/-- What the front end measures in a symbol: its input power, the power of its strongest window and its correlation (R268, R269). -/
def measured (zs : List (Int × Int)) (cp : Nat) (pin winPeak : Int) (corr256 : Nat) : Bool :=
  halfDb pin (energy zs).toNat (zs.length * fullScale) && halfDb winPeak (windowPeak zs) (64 * fullScale) &&
  corrIs corr256 (zs.take cp) (zs.drop (zs.length - cp))

/-- The symbol words of a stream that stand in its record go to its ring (R267). -/
def writeWords (s : State) (x : Cell) (b : CellBind) (i : Nat) (ws : NMap W32) : State :=
  if b.agcPtr = 0 then s else ws.foldl (fun y e => devPut y (wordAddr x b i e.1) (leBytes 4 e.2.toNat)) s

/-- A symbol of a stream in the frequency domain: its samples, in FP32 and multiplied by the value of the gain, without the cyclic prefix,
through the FFT (R267, R268); a symbol that lacks samples gives none. -/
def symbolFft (s : State) (c : Nat) (x : Cell) (flow sym g cp : Nat) (zs : List (Int × Int)) : State :=
  let f := fun (v : Int) => f32Mul (f32OfInt (BitVec.ofInt 32 v)) (Config.gainValue g)
  let out := Config.fft x.mu ((zs.drop cp).map fun z => (f z.1, f z.2))
  modCell s c fun y => { y with rxIq := (List.range x.prbs).foldl (fun m i =>
    NMap.insert m (prbKey sym flow i) ((List.range 12).map fun k => let z := out.getD (12 * i + k) (0, 0); [z.1, z.2]).flatten) y.rxIq }

/-- AGC_UPDATE: a closed symbol of a stream has been measured: its word is written, it goes through the FFT, and the next symbol has its gain. -/
def execAgcUpdate (port stream sym : Nat) (pin winPeak : Int) (corr256 : Nat) (s : State) : Out :=
  let p := fhAt s port
  let k := 256 * port + stream
  let st := NMap.getD s.rad.streams k {}
  match cellOfEaxc s port stream with
  | none => .next s
  | some (c, x) =>
    match x.bind_ with
    | none => .next s
    | some b =>
      let got := symSamples x p stream sym
      let zs := got.map fun z => z.getD (0, 0)
      let cp := (symSpan x sym).2.2
      if p.kind.applied ≠ 1 ∨ !p.linkUp ∨ sym ≤ st.last ∨ !x.closed.contains sym ∨ !measured zs cp pin winPeak corr256 then .next s
      else
        let miss := got.any fun z => z.isNone
        let n := agcStep p st sym miss pin winPeak corr256
        let s1 := writeWords s x b ((b.eaxc.drop b.dl).findIdx (· == stream)) n.words
        let s2 : State := { s1 with rad := { s1.rad with streams := NMap.insert s1.rad.streams k n } }
        .next (if miss then s2 else symbolFft s2 c x stream sym st.gain cp zs)

/-! ### Frames to send (R259 to R262, R266) -/

/-- The I and Q values of a PRB of a stream in a symbol; a resource element without content carries zero. -/
def prbValues (x : Cell) (sym stream prb : Nat) : List Int :=
  ((List.range 12).map fun i =>
    let z := NMap.getD x.txIq (reKey sym stream (12 * prb + i)) (0, 0)
    [z.1, z.2]).flatten

/-- The stream of a downlink eAxC ID of a cell: its place among them (13 R279). -/
def streamOf (b : CellBind) (e : Nat) : Nat := (b.eaxc.take b.dl).findIdx (· == e)

/-- Addresses, the tag if the port sends one, and EtherType of a frame. -/
def macHeader (p : FhPort) (port e pcp etherType : Nat) : List Byte :=
  beBytes 12 (Config.fhAddresses port e % 2 ^ 96) ++
  (if p.vlanEn.applied = 1 then beBytes 2 0x8100 ++ beBytes 2 (8192 * pcp + p.vid.applied) else []) ++ beBytes 2 etherType

/-- The eCPRI headers: revision 1, no concatenation, message type, payload size, PC_ID or RTC_ID, and SEQ_ID with E = 1 and subsequence 0. -/
def ecpri (msgType e seq : Nat) (pay : List Byte) : List Byte :=
  [0x10] ++ beBytes 1 msgType ++ beBytes 2 (4 + pay.length) ++ beBytes 2 e ++ beBytes 1 seq ++ [0x80] ++ pay

/-- The application header of the CUS-plane up to the symbol: direction, payloadVersion 1, filterIndex, frame, subframe, slot, symbol (log 108). -/
def cusHeader (x : Cell) (dl : Bool) (filter first y : Nat) : List Byte :=
  let n := sfnSlot x first
  let per := 2 ^ x.mu
  beBytes 1 (128 * bit1 dl + 16 + filter) ++ beBytes 1 (n.1 % 256) ++ beBytes 2 (4096 * (n.2 / per) + 64 * (n.2 % per) + y)

/-- udCompHdr of a mantissa width: the width, whose 16 is written 0, and the method. -/
def compHeader (w : Nat) : List Byte := beBytes 1 (16 * (w % 16) + (if w = 0 then 0 else 1))

/-- A U-plane section: its first PRB and PRBs with 0 for the whole carrier, rb and symInc 0, udCompHdr where the port compresses dynamically, and
its PRBs. -/
def uSection (p : FhPort) (x : Cell) (sym stream e i first n num : Nat) : List Byte :=
  beBytes 4 (Config.sectionId e i % 4096 * 2 ^ 20 + first * 256 + num) ++
  (if p.dynComp.applied = 1 then compHeader p.mantTx.applied ++ [0] else []) ++
  ((List.range n).map fun j => prbOut p.mantTx.applied (prbValues x sym stream (first + j))).flatten

/-- Bytes of a U-plane frame beside its PRBs. -/
def uOverhead (p : FhPort) : Nat := (if p.vlanEn.applied = 1 then 18 else 14) + 4 + 4 + 4 + 4 + (if p.dynComp.applied = 1 then 2 else 0) + 4

/-- The payloads of a downlink symbol of an eAxC ID: one section, or several packets split at PRB boundaries where the frame would exceed
MTU (R261); a section that is not the whole carrier has at most 255 PRBs. -/
def uPayloads (p : FhPort) (x : Cell) (sym stream e : Nat) : List (List Byte) :=
  let head := cusHeader x true 0 (sym / 16) (sym % 16)
  let w := prbBytes p.mantTx.applied
  if uOverhead p + x.prbs * w ≤ p.mtu.applied then [head ++ uSection p x sym stream e 0 0 x.prbs 0]
  else
    let per := min 255 ((p.mtu.applied - uOverhead p) / w)
    (List.range ((x.prbs + per - 1) / per)).map fun i =>
      let n := min per (x.prbs - per * i)
      head ++ uSection p x sym stream e i (per * i) n n

/-- The symbols of a radio frame of a cell. -/
def frameSyms (x : Cell) (frame : Nat) : List Nat :=
  ((List.range (10 * 2 ^ x.mu)).map fun n => (List.range 14).map fun y => 16 * (frame + n * slotTicks x.mu) + y).flatten

/-- A sample of a radio frame as a stream sends it: that of the symbol in which it lies, converted to 16 bits with saturation (R267). -/
def txSample (x : Cell) (frame stream i : Nat) : Int × Int :=
  let sym := ((frameSyms x frame).filter fun y => decide (sampleOf x frame y ≤ i)).foldl max (16 * frame)
  let zs := (List.range (12 * x.prbs)).map fun j => NMap.getD x.txIq (reKey sym stream j) (0, 0)
  let z := (Config.ofdmSamples x.mu (sym % 16) x.rate zs).getD (i - sampleOf x frame sym) (0, 0)
  (clampInt z.1 (-32768) 32767, clampInt z.2 (-32768) 32767)

/-- The payload of packet `k` of a radio frame: the header of IEEE 1914.3 with the sequence number, and N samples, I before Q (R266; log 108). -/
def tdPayload (p : FhPort) (x : Cell) (frame stream flow k : Nat) : List Byte :=
  let n := tdSamples p
  beBytes 1 (Config.roeSubType % 256) ++ beBytes 1 flow ++ beBytes 2 (4 * n) ++ beBytes 4 k ++
  ((List.range n).map fun j =>
    let z := txSample x frame stream (n * k + j)
    beBytes 2 (BitVec.ofInt 16 z.1).toNat ++ beBytes 2 (BitVec.ofInt 16 z.2).toNat).flatten

/-- The frames of a downlink symbol, or of a packet of time-domain IQ, of an eAxC ID or flow, in order; the first has sequence number `seq`. -/
def uFrames (s : State) (port cell sym e seq : Nat) : List (List Byte) :=
  let p := fhAt s port
  let x := cellAt s cell
  match x.bind_ with
  | none => []
  | some b =>
    if p.kind.applied = 1 then [macHeader p port e p.pcpU.applied 0xFC3D ++ tdPayload p x (sym / 2 ^ 16) (streamOf b e) e (sym % 2 ^ 16)]
    else
      let ps := uPayloads p x sym (streamOf b e) e
      (List.range ps.length).map fun i => macHeader p port e p.pcpU.applied 0xAEFE ++ ecpri 0 e ((seq + i) % 256) (ps.getD i [])

/-- Section extension 1 of a downlink eAxC ID of a category B cell, with the weights of its layer (R261, 13 R286). -/
def weightsOf (s : State) (port cell : Nat) (m : CMessage) : List Byte :=
  let x := cellAt s cell
  match x.bind_ with
  | none => []
  | some b => if b.catB ∧ m.dl then Config.extension1 (fhAt s port).mantTx.applied (Config.srsWeights x.srs (streamOf b m.eaxc)) else []

/-- A section of a C-plane message: rb and symInc 0, and whether an extension follows (log 108). -/
def cSection (e i : Nat) (three ext : Bool) (c : CSection) : List Byte :=
  beBytes 4 (Config.sectionId e i % 4096 * 2 ^ 20 + c.start * 256 + c.prbs % 256) ++ beBytes 2 (16 * c.reMask + c.symbols) ++
  beBytes 2 (32768 * bit1 ext + c.beam) ++ (if three then beBytes 3 c.freqOff ++ [0] else [])

/-- Section type 3 is sent for PRACH and for carriers whose numerology differs from the frame timing, type 1 otherwise (R261). -/
def sectionThree (m : CMessage) : Bool := m.filter != 0 || m.mixed

/-- The payload of a C-plane message: its section type and its sections, in turn. -/
def cPayload (s : State) (port cell first : Nat) (m : CMessage) : List Byte :=
  let p := fhAt s port
  let w := weightsOf s port cell m
  let comp := if p.dynComp.applied = 1 ∧ !m.dl then compHeader p.mantRx.applied else [0]
  cusHeader (cellAt s cell) m.dl m.filter first m.start ++ beBytes 1 m.sections.length ++ (if sectionThree m then [3] else [1]) ++
  (if sectionThree m then m.timing ++ comp else comp ++ [0]) ++
  ((List.range m.sections.length).map fun i => cSection m.eaxc i (sectionThree m) (!w.isEmpty) (m.sections.getD i ⟨0, 0, 0, 0, 0, 0⟩) ++ w).flatten

/-- The frame of a C-plane message. -/
def cFrame (s : State) (port cell first seq : Nat) (m : CMessage) : List Byte :=
  macHeader (fhAt s port) port m.eaxc (fhAt s port).pcpC.applied 0xAEFE ++ ecpri 2 m.eaxc seq (cPayload s port cell first m)

/-- Link time of a frame with preamble, FCS and gap, in units of 10 ps. -/
def frameTime (x : FhPort) (bytes : Nat) : Nat := if x.mode.applied = 2 then bytes + 24 else 2 * (bytes + 24)

/-- A frame has gone out, from a moment on: SENT, the sequence number of its eAxC and plane, and the link is taken until its end. -/
def sentPacket (s : State) (p key at_ : Nat) (frame : List Byte) : State :=
  modFh s p fun x => { x with sent := satAdd 48 x.sent 1, txSeq := NMap.insert x.txSeq key ((NMap.getD x.txSeq key 0 + 1) % 256)
                              lastTx := NMap.insert x.lastTx key frame, txBusy := at_ + frameTime x frame.length }

/-- A list of eAxC IDs in ascending order, each once. -/
def ascending (es : List Nat) : List Nat := es.foldr (fun e l => if l.contains e then l else (l.filter (· < e)) ++ e :: l.filter (e < ·)) []

/-! ### Launches (R260, R263) -/

/-- The cell is active and bound to the port. -/
def onPort (s : State) (port cell : Nat) : Bool := (cellAt s cell).active && (cellAt s cell).port == port

/-- A cell whose slot runs the twilight template without a MIB transmits nothing (13 R298). -/
def silentCell (x : Cell) : Bool := x.mode == 2 && (match x.tw with | some w => w.mib == 0 | none => true)

/-- The slot of a cell whose C-plane messages launch in this beat. -/
def cplaneSlot (s : State) (x : Cell) : Option Nat :=
  let t := (launch s + (fhAt s x.port).txAdvC.applied) / 1250
  [t, t - 1].find? fun a => slotPhase x a == 0 && cplaneBeat s x a == launch s

/-- The beginning of the next frame of a port: this beat, or when the link is free. -/
def linkFree (s : State) (port : Nat) : Nat := max (10000 * launch s) (fhAt s port).txBusy

/-- CPLANE_LAUNCH: the C-plane messages of the eAxC IDs with sections in a slot go out in the beat of R263, before the U-plane packets of the
beat, in ascending eAxC ID; on a port without its link they are dropped and counted (R272). -/
def execCplaneLaunch (port cell : Nat) (msgs : List CMessage) (s : State) : Out :=
  let x := cellAt s cell
  match cplaneSlot s x with
  | none => .next s
  | some first =>
    let ms := (ascending (msgs.map (·.eaxc))).filterMap fun e => msgs.find? fun m => m.eaxc == e
    if !onPort s port cell ∨ silentCell x ∨ (fhAt s port).kind.applied = 1 ∨ (fhAt s port).uAt.1 = launch s + 1 then .next s
    else if portWorks s port then
      .next (ms.foldl (fun y m => sentPacket y port (2 * m.eaxc + 1) (linkFree y port)
        (cFrame y port cell first (NMap.getD (fhAt y port).txSeq (2 * m.eaxc + 1) 0) m)) s)
    else .next (modFh s port fun x => { x with txLate := satAdd 16 x.txLate ms.length })

/-- A packet that is not sent: TX LATE, one event per port and tick, and MSG_TX_ERR once per cell and slot (R263, R296). -/
def notSent (s : State) (port cell first : Nat) : State :=
  let s1 := modFh s port fun x => { x with txLate := satAdd 16 x.txLate 1, lateEvt := s.tkp.now + 1 }
  let s2 := if (fhAt s port).lateEvt = s.tkp.now + 1 then s1 else recordEvent s1 0x4002 srcHw []
  txErrOnce s2 cell first 0

/-- The air time of what a U-plane launch sends: its symbol, or the first sample of its packet of time-domain IQ (R263, R266). -/
def launchAir (s : State) (x : Cell) (sym : Nat) : Nat :=
  if (fhAt s x.port).kind.applied = 1 then sampleAir x (sym / 2 ^ 16) (tdSamples (fhAt s x.port) * (sym % 2 ^ 16)) else airTime x sym

/-- The first tick of the slot of what a U-plane launch sends. -/
def launchFirst (s : State) (x : Cell) (sym : Nat) : Nat :=
  if (fhAt s x.port).kind.applied = 1 then
    let a := launchAir s x sym / (1250 * airUnits)
    a - slotPhase x a
  else sym / 16

/-- The frames of a symbol in turn: a frame that cannot begin before air(s) − TX_ADV_U + TX_SPREAD, or whose payload is not ready, is not sent. -/
def launchGo : List (Nat × Bool × List Byte) → State → Nat → Nat → Nat → State
  | [], s, _, _, _ => s
  | (e, ready, f) :: rest, s, port, cell, sym =>
    let x := cellAt s cell
    let p := fhAt s port
    if ready ∧ airUnits * linkFree s port < 10000 * (launchAir s x sym + airUnits * p.txSpread.applied - airUnits * p.txAdvU.applied) then
      launchGo rest (sentPacket s port (2 * e) (linkFree s port) f) port cell sym
    else launchGo rest (notSent s port cell (launchFirst s x sym)) port cell sym

/-- UPLANE_LAUNCH: the packets of a symbol go out from the beat of R263 on, in ascending eAxC ID, after those of the port's cells that the
beat has already seen. -/
def execUplaneLaunch (port cell sym : Nat) (ready eaxcs : List Nat) (s : State) : Out :=
  let x := cellAt s cell
  let es := ascending eaxcs
  let high := es.foldl max 0
  let p := fhAt s port
  if !onPort s port cell ∨ silentCell x ∨ launch s ≠ uplaneBeat s x (launchAir s x sym) ∨
     (p.uAt.1 = launch s + 1 ∧ es.any fun e => decide (e ≤ p.uAt.2)) then .next s
  else
    let fs := (es.map fun e => (uFrames s port cell sym e (NMap.getD p.txSeq (2 * e) 0)).map fun f => (e, ready.contains e, f)).flatten
    if portWorks s port then
      .next (launchGo fs (modFh s port fun y => { y with uAt := (launch s + 1, high) }) port cell sym)
    else .next (modFh s port fun y => { y with txLate := satAdd 16 y.txLate fs.length })

/-! ### Links (R258, R271, R272) -/

/-- CELL_STATE.indication for the active cells of a port. -/
def portCells (s : State) (port st : Nat) : State :=
  (s.rad.cells.filter fun c => c.2.active && c.2.port == port).foldl (fun x c => cellState x c.1 st 6) s

/-- FH_LINK_DOWN: the port loses block lock; the frames that await launch are dropped, and SYNCE_CLK from it is held low (R271). -/
def execFhLinkDown (port waiting : Nat) (s : State) : Out :=
  if !(fhAt s port).linkUp then .next s
  else
    let s1 := modFh s port fun x => { x with linkUp := false, synceSrc := false, linkDowns := satAdd 16 x.linkDowns 1,
                                             txLate := satAdd 16 x.txLate waiting }
    let s2 : State := { s1 with tim := { s1.tim with synceLow := s.tim.synceLow || (fhAt s port).synceSrc } }
    .next (portCells (recordEvent (rateAgain s s2) 0x4003 srcHw []) port 4)

/-- FH_LINK_UP: the port regains block lock and works again from the next seam; its streams start afresh (R269). -/
def execFhLinkUp (port : Nat) (s : State) : Out :=
  let x := fhAt s port
  if x.linkUp ∨ x.mode.applied = 0 ∨ laneMerged s port then .next s
  else
    let s1 := modFh s port fun y => { y with linkUp := true, resumeAt := s.tkp.now + 1, trainAt := none }
    let s2 : State := { s1 with rad := { s1.rad with streams := s1.rad.streams.filter fun e => e.1 / 256 != port } }
    .next (if 0 < x.linkDowns then portCells (rateAgain s s2) port 5 else rateAgain s s2)

/-- FH_TRAIN_TIMEOUT: the link has not come up 1 s after the seam of a MODE change (R258). -/
def execFhTrainTimeout (port : Nat) (s : State) : Out :=
  let x := fhAt s port
  match x.trainAt with
  | some t =>
    if t + ticksPerSec ≤ s.tkp.now ∧ !x.linkUp then
      .next (recordEvent (modFh s port fun y => { y with trainAt := none }) 0x4001 srcHw [])
    else .next s
  | none => .next s

/-! ### FH_CFG (R258) -/

/-- The checks of FH_CFG on its fields. -/
def fhCfgFields (r : JRec) (_ : State) : Nat :=
  let pc := r.par 8 4
  let fr := r.par 12 4
  let vl := r.par 16 4
  let rx := r.par 20 4
  let tx := r.par 24 8
  let td := r.par 32 8
  let mant := fun (m : Nat) => decide (m = 0 ∨ (8 ≤ m ∧ m ≤ 16))
  let mode := bitsOf pc 1 0
  let advU := bitsOf tx 12 0
  let advC := bitsOf tx 28 16
  let spread := bitsOf tx 44 32
  if r.params.length = 64 ∧ r.par 0 1 < 8 ∧ r.zeros 1 7 ∧ r.zeros 40 24 ∧
     bitsOf pc 7 4 = 0 ∧ bitsOf pc 15 13 = 0 ∧ bitsOf pc 31 21 = 0 ∧ bitsOf fr 31 30 = 0 ∧ bitsOf vl 31 19 = 0 ∧
     bitsOf rx 15 13 = 0 ∧ bitsOf rx 31 29 = 0 ∧ bitsOf tx 15 13 = 0 ∧ bitsOf tx 31 29 = 0 ∧ bitsOf tx 63 45 = 0 ∧ bitsOf td 63 34 = 0 ∧
     mode ≠ 3 ∧ ¬ (mode = 2 ∧ r.par 0 1 % 2 = 1) ∧ mant (bitsOf pc 12 8) ∧ mant (bitsOf pc 20 16) ∧
     bitsOf fr 3 0 + bitsOf fr 7 4 + bitsOf fr 11 8 + bitsOf fr 15 12 = 16 ∧ 1522 ≤ bitsOf fr 29 16 ∧ bitsOf fr 29 16 ≤ 9600 ∧
     (bitOf vl 12 = false ∨ (1 ≤ bitsOf vl 11 0 ∧ bitsOf vl 11 0 ≤ 4094)) ∧
     bitsOf rx 12 0 ≤ 4999 ∧ 1 ≤ bitsOf rx 28 16 ∧ bitsOf rx 28 16 ≤ 5000 ∧ bitsOf rx 12 0 < bitsOf rx 28 16 ∧
     300 ≤ advU ∧ advU ≤ 5000 ∧ 10 ≤ spread ∧ spread ≤ 1000 ∧ advU + spread ≤ advC ∧ advC ≤ 8000 ∧ bitsOf td 31 24 ≤ 96 then stOk
  else stInvalid

/-- An active cell, or a cell of a staged plan, is bound to a port or to the other lane of its pair. -/
def portInUse (s : State) (p : Nat) : Bool :=
  s.rad.cells.any fun c => c.2.port / 2 == p / 2 && decide (c.2.port < 8) &&
    (c.2.active || s.tkp.plans.any fun q => q.2.state == .sealed && decide (s.tkp.now < q.2.tick) && q.2.cells.any fun d => d.cell == c.1)

/-- The checks of FH_CFG on the state, before its seam. -/
def fhCfgState (r : JRec) (s : State) : Nat := if portInUse s (r.par 0 1) then stBusy else stOk

/-- The values of FH_CFG land in the shadows of the port. -/
def fhCfgLand (r : JRec) (s : State) : State :=
  let pc := r.par 8 4
  let fr := r.par 12 4
  let vl := r.par 16 4
  let rx := r.par 20 4
  let tx := r.par 24 8
  let td := r.par 32 8
  modFh s (r.par 0 1) fun x =>
    { x with
      mode := x.mode.write (bitsOf pc 1 0), kind := x.kind.write (bitsOf pc 2 2), dynComp := x.dynComp.write (bitsOf pc 3 3),
      mantTx := x.mantTx.write (bitsOf pc 12 8), mantRx := x.mantRx.write (bitsOf pc 20 16),
      duBits := x.duBits.write (bitsOf fr 3 0), bsBits := x.bsBits.write (bitsOf fr 7 4), ccBits := x.ccBits.write (bitsOf fr 11 8),
      ruBits := x.ruBits.write (bitsOf fr 15 12), mtu := x.mtu.write (bitsOf fr 29 16),
      vid := x.vid.write (bitsOf vl 11 0), vlanEn := x.vlanEn.write (bitsOf vl 12 12), pcpU := x.pcpU.write (bitsOf vl 15 13),
      pcpC := x.pcpC.write (bitsOf vl 18 16), rxMin := x.rxMin.write (bitsOf rx 12 0), rxMax := x.rxMax.write (bitsOf rx 28 16),
      txAdvU := x.txAdvU.write (bitsOf tx 12 0), txAdvC := x.txAdvC.write (bitsOf tx 28 16), txSpread := x.txSpread.write (bitsOf tx 44 32),
      target := x.target.write (bitsOf td 7 0), thr := x.thr.write (bitsOf td 15 8), qual := x.qual.write (bitsOf td 23 16),
      maxGain := x.maxGain.write (bitsOf td 31 24), samples := x.samples.write (bitsOf td 33 32) }

/-- FH_CFG (opcode 0x0320). -/
def execFhCfg (q seq : Nat) (s : State) : Out := .next (withSeamCmd s q seq 0x0320 fhCfgFields)

/-- A step of every seam-bound field of a port. -/
def fhFields (f : Rwt → Rwt) (x : FhPort) : FhPort :=
  { x with mode := f x.mode, kind := f x.kind, dynComp := f x.dynComp, mantTx := f x.mantTx, mantRx := f x.mantRx,
           duBits := f x.duBits, bsBits := f x.bsBits, ccBits := f x.ccBits, ruBits := f x.ruBits, mtu := f x.mtu, vid := f x.vid,
           vlanEn := f x.vlanEn, pcpU := f x.pcpU, pcpC := f x.pcpC, rxMin := f x.rxMin, rxMax := f x.rxMax, txAdvU := f x.txAdvU,
           txAdvC := f x.txAdvC, txSpread := f x.txSpread, target := f x.target, thr := f x.thr, qual := f x.qual,
           maxGain := f x.maxGain, samples := f x.samples }

/-- The staging of every port takes the shadows. -/
def fhStage (s : State) : State := { s with fh := s.fh.map fun e => (e.1, fhFields Rwt.stage e.2) }

/-- A port at the seam: its fields are applied, and after a MODE change the link trains (R258). -/
def fhPortApply (now : Nat) (x : FhPort) : FhPort :=
  let y := fhFields Rwt.apply x
  if y.mode.applied = x.mode.applied then y
  else { y with linkUp := false, synceSrc := false, trainAt := if y.mode.applied = 0 then none else some now }

/-- The fields of every port are applied at the seam. -/
def fhApply (s : State) : State :=
  let lost := (s.fh.filter fun e => e.2.synceSrc && !(fhPortApply s.tkp.now e.2).linkUp).length
  rateAgain s { s with fh := s.fh.map fun e => (e.1, fhPortApply s.tkp.now e.2), tim := { s.tim with synceLow := s.tim.synceLow || lost != 0 } }

end Sys2Proof.Machine
end

