-- ==== Sys2Proof/Machine/LoadStore.lean ====
section
/-!
DEFINITION. The loads and stores of the X and Y slots but those of the long accumulators (07 R153 to R158).
-/
namespace Sys2Proof.Machine

/-- The array whose output-stage port the slot uses (R158). -/
def Tile.portArray (x : Tile) (y : Bool) : ArrayUnit := if y then x.ar1 else x.ar0

/-- Notes that a VLDT or VSTT that issued at cycle `c` uses the port. -/
def Tile.notePort (x : Tile) (y : Bool) (c : Nat) : Tile :=
  if y then { x with ar1 := { x.ar1 with portUse := c + 1 } } else { x with ar0 := { x.ar0 with portUse := c + 1 } }

/-- A tile-store access may use the port in cycle c + 1: the array's output stage does not hold it then (R158). -/
def Tile.portFree (x : Tile) (y : Bool) (c : Nat) : Bool :=
  !(x.portArray y).portHeld.any fun h => decide (h.1 ≤ c + 1 ∧ c + 1 ≤ h.2)

/-- The 64 lanes that a vector load gives, through a byte read of its memory. -/
def Tile.loadLanes (x : Tile) (o : LsOp) (rd : Nat → Byte) : List W32 :=
  (x.elemAddrs o).map fun a => cvtLoad o.cvt (bytesAt rd a (cvtSize o.cvt))

/-- The bytes that a vector store writes, by address. -/
def Tile.storeLanes (x : Tile) (o : LsOp) : List (Nat × Byte) :=
  (List.zipWith (fun a v => List.zipWith (fun i b => (a + i, b)) (List.range 4) (cvtStore o.cvt v)) (x.elemAddrs o) (x.getV o.r)).flatten

/-- Masks the addresses of written bytes to the memory's address bits. -/
def maskBytes (m : Nat → Nat) (bs : List (Nat × Byte)) : List (Nat × Byte) := bs.map fun b => (m b.1, b.2)

/-- Access size u of a vector operation (R153). -/
def vecSize (o : LsOp) : Nat := 64 * cvtSize o.cvt

/-- VLD Vr: 64 elements from X or Y memory, visible after 3 cycles (R156). -/
def execVld (t c : Nat) (o : LsOp) (s : State) : Out :=
  .next (slotOp s t c fun x =>
    (x.push (c + 3) (.vreg o.r (x.loadLanes o (x.xyByte o.slotY)))).andThen
      (postMod c o (x.lsUpdate o (cvtSize o.cvt) (vecSize o))))

/-- VST Vr: 64 elements to X or Y memory, written at the end of cycle c + 1 and seen by loads of later cycles (R156). -/
def execVst (t c : Nat) (o : LsOp) (s : State) : Out :=
  .next (slotOp s t c fun x =>
    ((x.ends (c + 2)).push (c + 1) (.xmem o.slotY (maskBytes xyBits (x.storeLanes o)))).andThen
      (postMod c o (x.lsUpdate o (cvtSize o.cvt) (vecSize o))))

/-- VLDB Vr: one element into every lane, visible after 3 cycles (R156). -/
def execVldb (t c : Nat) (o : LsOp) (s : State) : Out :=
  .next (slotOp s t c fun x =>
    let e := cvtSize o.cvt
    let v := cvtLoad o.cvt (bytesAt (x.xyByte o.slotY) (alignTo e (x.adv (x.lsBase o e) o.an 0)) e)
    (x.push (c + 3) (.vreg o.r (List.replicate 64 v))).andThen (postMod c o (x.lsUpdate o e e)))

/-- SLD Sr: 8 bytes, visible after 3 cycles (R156). -/
def execSld (t c : Nat) (o : LsOp) (s : State) : Out :=
  .next (slotOp s t c fun x =>
    let v := leNat (bytesAt (x.xyByte o.slotY) (alignTo 8 (x.lsBase o 8)) 8)
    (x.push (c + 3) (.sreg o.r (BitVec.ofNat 64 v))).andThen (postMod c o (x.lsUpdate o 8 8)))

/-- SST Sr: 8 bytes, written at the end of cycle c + 1 and seen by loads of later cycles (R156). -/
def execSst (t c : Nat) (o : LsOp) (s : State) : Out :=
  .next (slotOp s t c fun x =>
    let a := alignTo 8 (x.lsBase o 8)
    let bytes := List.zipWith (fun i b => (a + i, b)) (List.range 8) (leBytes 8 (x.getS o.r).toNat)
    ((x.ends (c + 2)).push (c + 1) (.xmem o.slotY (maskBytes xyBits bytes))).andThen (postMod c o (x.lsUpdate o 8 8)))

/-- VLDT Vr: as VLD from the tile store, which it reads through the port in cycle c + 1, visible after 4 cycles; the port of R158
must be free. -/
def execVldt (t c : Nat) (o : LsOp) (s : State) : Out :=
  .next (slotOp s t c fun x =>
    if x.portFree o.slotY c then
      ((x.notePort o.slotY c).push (c + 4) (.vreg o.r (x.loadLanes o (x.land (c + 1)).stByte))).andThen
        (postMod c o (x.lsUpdate o (cvtSize o.cvt) (vecSize o)))
    else .broke)

/-- VSTT Vr: as VST to the tile store, written at the end of cycle c + 1 (R156); the port of R158 must be free. -/
def execVstt (t c : Nat) (o : LsOp) (s : State) : Out :=
  .next (slotOp s t c fun x =>
    if x.portFree o.slotY c then
      ((x.notePort o.slotY c).push (c + 2) (.store (maskBytes storeBits (x.storeLanes o)))).andThen
        (postMod c o (x.lsUpdate o (cvtSize o.cvt) (vecSize o)))
    else .broke)

/-- LDPK Vr: n fields of w bits, sign-extended, the other lanes 0, visible after 3 cycles (R157). -/
def execLdpk (t c : Nat) (o : LsOp) (s : State) : Out :=
  .next (slotOp s t c fun x =>
    let bytes := (x.packAddrs o).map (x.xyByte o.slotY)
    let fs := (unpackFields (packW o) (packN o) bytes).map (signField (packW o))
    (x.push (c + 3) (.vreg o.r (fs ++ List.replicate (64 - packN o) 0))).andThen (postMod c o (x.lsUpdate o 1 (packLen o))))

/-- STPK Vr: bits [w − 1:0] of lanes 0 to n − 1, packed, written at the end of cycle c + 1 (R156, R157). -/
def execStpk (t c : Nat) (o : LsOp) (s : State) : Out :=
  .next (slotOp s t c fun x =>
    let bytes := packFields (packW o) (((x.getV o.r).take (packN o)).map BitVec.toNat)
    ((x.ends (c + 2)).push (c + 1) (.xmem o.slotY (maskBytes xyBits (List.zip (x.packAddrs o) bytes)))).andThen
      (postMod c o (x.lsUpdate o 1 (packLen o))))

end Sys2Proof.Machine
end

