-- ==== Sys2Proof/Machine/Long.lean ====
section
/-!
DEFINITION. The long vector accumulators (06 R141, R142, 07 R152): exact sums, and the issue rules of their readers and
writers. A writer's cycle is noted as 2 c, or 2 c + 1 for an operation that sets the accumulator.
-/
namespace Sys2Proof.Machine

/-- The note of the last writer of an accumulator. -/
def Tile.laNote (x : Tile) (n : Nat) : Option Nat := NMap.find? x.laWr n

/-- A reader of LAn sees every writer at least 6 cycles before it; a nearer writer breaks an issue rule (R152). -/
def Tile.laReadOk (x : Tile) (n c : Nat) : Bool :=
  match x.laNote n with
  | some w => decide (w / 2 + 6 ≤ c)
  | none => true

/-- A reader of an accumulator is noted with its cycle. -/
def Tile.noteRead (x : Tile) (n c : Nat) : Tile := { x with laRd := NMap.insert x.laRd n c }

/-- No operation of the same cycle reads the accumulator: a reader fewer than 6 cycles after a writer breaks an issue rule, the
writer's own cycle included (R152). -/
def Tile.laUnread (x : Tile) (n c : Nat) : Bool := decide (NMap.find? x.laRd n ≠ some c)

/-- LACLR and LALD set an accumulator at least 6 cycles after another writer, and in no cycle of a reader (R152). -/
def Tile.laSetOk (x : Tile) (n c : Nat) : Bool := x.laReadOk n c && x.laUnread n c

/-- VSUM.L and LAMRG may meet each other in a cycle, but no operation that sets or reads the accumulator (R152, R160). -/
def Tile.laAddOk (x : Tile) (n c : Nat) : Bool := decide (x.laNote n ≠ some (2 * c + 1)) && x.laUnread n c

/-- What an add in a cycle adds to: the exact sum of the cycle's earlier adds, or the accumulator. -/
def Tile.laFrom (x : Tile) (n c : Nat) : Option Int :=
  if x.laNote n = some (2 * c) then NMap.getD x.la n (some 0) else x.getLA n

/-- The exact sum of 64 lanes, each lane a term (06 R141). -/
def laSum (vs : List W32) : Option Int := vs.foldl (fun acc v => laAdd acc (laTerm v)) (some 0)

/-- Writes an accumulator and notes its writer. -/
def Tile.setLA (x : Tile) (n note : Nat) (v : Option Int) : Tile :=
  { x with la := NMap.insert x.la n v, laWr := NMap.insert x.laWr n note, fin := max x.fin (note / 2 + 6) }

/-- VSUM.L LAn, Va: the accumulator gains the exact value of all 64 lanes, each as one term (R148, 06 R141). -/
def execVsumL (t c la a : Nat) (s : State) : Out :=
  .next (slotOp s t c fun x =>
    if x.laAddOk la c then
      .done (x.setLA la (2 * c) (laAdd (x.laFrom la c) (laSum (x.getV a))))
    else .broke)

/-- LACLR LAn: the accumulator is set to 0 (R148). -/
def execLaclr (t c la : Nat) (s : State) : Out :=
  .next (slotOp s t c fun x => if x.laSetOk la c then .done (x.setLA la (2 * c + 1) (some 0)) else .broke)

/-- LARD Vd, LAn: rounded to FP32, written to every lane, visible after 2 cycles (R148, 06 R142). -/
def execLard (t c d la : Nat) (s : State) : Out :=
  .next (slotOp s t c fun x =>
    if x.laReadOk la c then (x.noteRead la c).push (c + 2) (.vreg d (List.replicate 64 (laRound (x.getLA la)))) else .broke)

/-- The 40 bytes at the address of an LA operation; an access that passes the end of a circular buffer runs on from its base
address, as an S access does (log 79). -/
def Tile.laAt (x : Tile) (o : LsOp) : List Byte := bytesAt (x.xyByte o.slotY) (alignTo 8 (x.lsBase o 8)) 40

/-- LALD LAn: set to the 40-byte long vector value at the address (R156). -/
def execLald (t c : Nat) (o : LsOp) (s : State) : Out :=
  .next (slotOp s t c fun x =>
    let n := o.r % 4
    if x.laSetOk n c then postMod c o (x.lsUpdate o 8 40) (x.setLA n (2 * c + 1) (laOfBytes (x.laAt o))) else .broke)

/-- LAST LAn: stores the accumulator as 40 bytes, written at the end of cycle c + 1 (R156, 06 R142). -/
def execLast (t c : Nat) (o : LsOp) (s : State) : Out :=
  .next (slotOp s t c fun x =>
    let n := o.r % 4
    let a := alignTo 8 (x.lsBase o 8)
    let bytes := List.zipWith (fun i b => (xyBits (a + i), b)) (List.range 40) (laBytes (x.getLA n))
    if x.laReadOk n c then (((x.noteRead n c).ends (c + 2)).push (c + 1) (.xmem o.slotY bytes)).andThen (postMod c o (x.lsUpdate o 8 40)) else .broke)

/-- LAMRG LAn: adds the 40-byte value at the address exactly (R156, 06 R141). -/
def execLamrg (t c : Nat) (o : LsOp) (s : State) : Out :=
  .next (slotOp s t c fun x =>
    let n := o.r % 4
    if x.laAddOk n c then
      postMod c o (x.lsUpdate o 8 40) (x.setLA n (2 * c) (laAdd (x.laFrom n c) (laOfBytes (x.laAt o))))
    else .broke)

end Sys2Proof.Machine
end

