-- ==== Sys2Proof/Machine/Scalar.lean ====
section
/-!
DEFINITION. The scalar and address-register operations of the vector/signal slot (07 R148, opcodes 0x40 to 0x54).
-/
namespace Sys2Proof.Machine

/-- A scalar operation: S[d] takes `g` of S[a] and b after `lat` cycles. -/
def scalarOp (s : State) (t c d a : Nat) (b : OpB) (lat : Nat) (g : W64 → W64 → W64) : State :=
  slotOp s t c fun x => x.push (c + lat) (.sreg d (g (x.getS a) (opBS x b)))

/-- Shift left; a count of 64 or more gives 0 (R148). -/
def shl64 (a b : W64) : W64 := if 64 ≤ b.toNat then 0 else a <<< b.toNat
/-- Shift right; a count of 64 or more gives 0. -/
def shr64 (a b : W64) : W64 := if 64 ≤ b.toNat then 0 else a >>> b.toNat
/-- Arithmetic shift right; a count of 64 or more gives copies of the sign bit. -/
def sra64 (a b : W64) : W64 := a.sshiftRight (min b.toNat 63)

/-- SADD Sd, Sa, b (R148). -/
def execSadd (t c d a : Nat) (b : OpB) (s : State) : Out := .next (scalarOp s t c d a b 1 (· + ·))
/-- SSUB Sd, Sa, b (R148). -/
def execSsub (t c d a : Nat) (b : OpB) (s : State) : Out := .next (scalarOp s t c d a b 1 (· - ·))
/-- SMUL Sd, Sa, b: bits [63:0] of the product (R148). -/
def execSmul (t c d a : Nat) (b : OpB) (s : State) : Out := .next (scalarOp s t c d a b 3 (· * ·))
/-- SAND Sd, Sa, b (R148). -/
def execSand (t c d a : Nat) (b : OpB) (s : State) : Out := .next (scalarOp s t c d a b 1 (· &&& ·))
/-- SOR Sd, Sa, b (R148). -/
def execSor (t c d a : Nat) (b : OpB) (s : State) : Out := .next (scalarOp s t c d a b 1 (· ||| ·))
/-- SXOR Sd, Sa, b (R148). -/
def execSxor (t c d a : Nat) (b : OpB) (s : State) : Out := .next (scalarOp s t c d a b 1 (· ^^^ ·))
/-- SSHL Sd, Sa, b (R148). -/
def execSshl (t c d a : Nat) (b : OpB) (s : State) : Out := .next (scalarOp s t c d a b 1 shl64)
/-- SSHR Sd, Sa, b (R148). -/
def execSshr (t c d a : Nat) (b : OpB) (s : State) : Out := .next (scalarOp s t c d a b 1 shr64)
/-- SSRA Sd, Sa, b (R148). -/
def execSsra (t c d a : Nat) (b : OpB) (s : State) : Out := .next (scalarOp s t c d a b 1 sra64)
/-- SMIN Sd, Sa, b: signed (R148). -/
def execSmin (t c d a : Nat) (b : OpB) (s : State) : Out :=
  .next (scalarOp s t c d a b 1 fun p q => if p.toInt ≤ q.toInt then p else q)
/-- SMAX Sd, Sa, b: signed (R148). -/
def execSmax (t c d a : Nat) (b : OpB) (s : State) : Out :=
  .next (scalarOp s t c d a b 1 fun p q => if p.toInt ≤ q.toInt then q else p)
/-- SCLT Sd, Sa, b: 1 if a < b, signed, otherwise 0 (R148). -/
def execSclt (t c d a : Nat) (b : OpB) (s : State) : Out :=
  .next (scalarOp s t c d a b 1 fun p q => if p.toInt < q.toInt then 1 else 0)
/-- SCEQ Sd, Sa, b: 1 if a = b, otherwise 0 (R148). -/
def execSceq (t c d a : Nat) (b : OpB) (s : State) : Out :=
  .next (scalarOp s t c d a b 1 fun p q => if p = q then 1 else 0)
/-- SMOV Sd, b (R148). -/
def execSmov (t c d : Nat) (b : OpB) (s : State) : Out := .next (slotOp s t c fun x => x.push (c + 1) (.sreg d (opBS x b)))
/-- SSHI Sd, IMM: (Sd shifted left by 16) OR IMM (R148). -/
def execSshi (t c d : Nat) (imm : W16) (s : State) : Out :=
  .next (slotOp s t c fun x => x.push (c + 1) (.sreg d ((x.getS d <<< (16 : Nat)) ||| imm.setWidth 64)))
/-- MOVA Ad, Sa: bits [23:0] of Sa (R148). -/
def execMova (t c d a : Nat) (s : State) : Out :=
  .next (slotOp s t c fun x => x.push (c + 1) (.areg d ((x.getS a).setWidth 24)))
/-- MOVB Bd, Sa: bits [23:0] of Sa (R148). -/
def execMovb (t c d a : Nat) (s : State) : Out :=
  .next (slotOp s t c fun x => x.push (c + 1) (.breg d ((x.getS a).setWidth 24)))
/-- MOVL Ld, Sa: bits [23:0] of Sa (R148). -/
def execMovl (t c d a : Nat) (s : State) : Out :=
  .next (slotOp s t c fun x => x.push (c + 1) (.lreg d ((x.getS a).setWidth 24)))
/-- MOVSA Sd, Aa: Aa zero-extended (R148). -/
def execMovsa (t c d a : Nat) (s : State) : Out :=
  .next (slotOp s t c fun x => x.push (c + 1) (.sreg d ((x.getA a).setWidth 64)))
/-- AADD Ad, IMM: Ad advanced by IMM, sign-extended, with the modulo rule of R153 (R148). -/
def execAadd (t c d : Nat) (imm : W16) (s : State) : Out :=
  .next (slotOp s t c fun x => x.push (c + 1) (.areg d (x.adv (x.getA d) d imm.toInt)))

end Sys2Proof.Machine
end

