-- ==== Sys2Proof/Machine/Seq.lean ====
section
/-!
DEFINITION. The sequencing slot (04 R66, 07 R159): the bundle index, the loop stack, REPEAT, WAITD, SYNCP and END, and
the NOP of every slot.
-/
namespace Sys2Proof.Machine

/-- The bundle index after a bundle that does not branch: a repeated bundle issues again while issues are left (R159). -/
def Tile.nextPc (x : Tile) : Tile :=
  if 1 < x.rep then { x with rep := x.rep - 1 } else { x with rep := 0, pc := x.pc + 1 }

/-- A NOP of a slot: no effect; the sequencing slot (slot 6) goes on to the next bundle (R65, R66). -/
def execSlotNop (t c slot : Nat) (s : State) : Out :=
  .next (slotOp s t c fun x => if slot = 6 then .done x.nextPc else .done x)

/-- BR target (R66): a taken branch costs 3 cycles, so the next bundle issues at cycle c + 3. -/
def execBr (t c target : Nat) (s : State) : Out :=
  .next (slotOp s t c fun x => .done { x with pc := target, cyc := c + 2 })

/-- BRZ Sn, target: branch if Sn = 0 (R66). -/
def execBrz (t c n target : Nat) (s : State) : Out :=
  .next (slotOp s t c fun x => if x.getS n = 0 then .done { x with pc := target, cyc := c + 2 } else .done x.nextPc)

/-- BRNZ Sn, target: branch if Sn ≠ 0 (R66). -/
def execBrnz (t c n target : Nat) (s : State) : Out :=
  .next (slotOp s t c fun x => if x.getS n ≠ 0 then .done { x with pc := target, cyc := c + 2 } else .done x.nextPc)

/-- LOOP count: opens a body that begins at the next bundle and runs count times (R66). -/
def execLoop (t c count : Nat) (s : State) : Out :=
  .next (slotOp s t c fun x => .done { x with loops := (x.pc + 1, count) :: x.loops, pc := x.pc + 1 })

/-- ENDL: the last bundle of the innermost open loop body (R66). -/
def execEndl (t c : Nat) (s : State) : Out :=
  .next (slotOp s t c fun x =>
    match x.loops with
    | (start, n) :: rest =>
      if 1 < n then .done { x with loops := (start, n - 1) :: rest, pc := start }
      else .done { x with loops := rest, pc := x.pc + 1 }
    | [] => .done { x with pc := x.pc + 1 })

/-- REPEAT n: the next bundle issues once in each of the next n cycles (R66, R159). -/
def execRepeatN (t c n : Nat) (s : State) : Out :=
  .next (slotOp s t c fun x => .done { x with pc := x.pc + 1, rep := n })

/-- WAITD tag, maximum wait in units of 16 cycles: holds issue until the operation with that tag completes; when it has
completed, the tag is outstanding no longer (R66, 05 R110). -/
def execWaitd (t c tag maxw : Nat) (s : State) : Out :=
  .next (slotOp s t c fun x =>
    match NMap.find? x.tags tag with
    | some o =>
      if o.done || (match o.doneAt with | some n => decide (n ≤ c) | none => false) then
        .done { x with tags := NMap.erase x.tags tag, pc := x.pc + 1 }
      else .done { x with wait := some (tag, c + 16 * maxw), pc := x.pc + 1 }
    | none => .done { x with pc := x.pc + 1 })

/-- SYNCP counter: adds 1 to sync counter SCn; guards see it 64 cycles later (R66, "Sync counters"). -/
def execSyncp (t c ctr : Nat) (s : State) : Out :=
  let x := tileAt (timedDue s (tickCycle s t c)) t
  let s1 := slotOp s t c fun x => .done x.nextPc
  match x.run with
  | none => .next s1
  | some r =>
    if x.wait.isSome then .next s1
    else
      if ((x.land c).struck c).isSome then .next s1
      else .next { s1 with tkp := { s1.tkp with scPend := s1.tkp.scPend ++ [(ctr, beatCycles s * r.beat + c + 64)] } }

/-- END: the last bundle of the kernel (R66). -/
def execEndK (t c : Nat) (s : State) : Out :=
  .next (slotOp s t c fun x => .done { x with run := x.run.map fun r => { r with ended := true }, pc := x.pc + 1 })

end Sys2Proof.Machine
end

