-- ==== Sys2Proof/Machine/Bundle.lean ====
section
/-!
DEFINITION. The bundle of 256 bits (04 R65): its slots decoded into the operations that they hold, with the values and fields
that a load refuses (04 R66, 05 R97, R98, R106, R107, 07 R145 to R148, R153 to R157).
-/
namespace Sys2Proof.Machine

/-- What a slot holds: a value that the load refuses, a NOP, or an operation. -/
inductive SlotDec where
  | bad
  | nop
  | op (i : Instr)
deriving DecidableEq, Repr

/-- Bits [hi:lo] of a slot. -/
def slotBits (b : BitVec 256) (hi lo : Nat) : Nat := bitsOf b.toNat hi lo

/-! ### Array slots (05 R97, R98) -/

/-- The array slot `arr` that is 40 bits `w`. -/
def arrDec (t c arr w : Nat) : SlotDec :=
  let o : ArrOp := { arr := arr, fmt := bitsOf w 34 31, sa := bitsOf w 30 26, aoff := bitsOf w 25 21, sb := bitsOf w 20 16,
                     boff := bitsOf w 15 11, acc := bitsOf w 10 9, clr := w.testBit 8, ld := w.testBit 7, msk := bitsOf w 6 2 }
  let mkOk := o.msk < 16 || o.msk == 31
  let noA := o.sa == 0 && o.aoff == 0
  let noB := o.sb == 0 && o.boff == 0
  if w % 4 ≠ 0 then .bad
  else match bitsOf w 39 35 with
  | 0 => if w = 0 then .nop else .bad
  | 1 => if o.fmt ≠ 15 ∧ mkOk then .op (.mma t c o none) else .bad
  | 2 => if o.fmt ≠ 15 ∧ noA ∧ o.acc = 0 ∧ !o.clr ∧ !o.ld ∧ o.msk = 0 then .op (.wld t c o) else .bad
  | 3 => if o.fmt ≤ 5 ∧ noB ∧ !o.clr ∧ !o.ld ∧ mkOk then .op (.rout t c o) else .bad
  | 4 => if o.fmt = 0 ∧ noB ∧ !o.clr ∧ !o.ld ∧ o.msk = 0 then .op (.lout t c o) else .bad
  | 5 => if o.fmt = 0 ∧ noB ∧ !o.ld ∧ o.msk = 0 then .op (.lin t c ⟨o, none⟩) else .bad
  | _ => .bad

/-! ### The vector/signal slot (07 R145 to R148) -/

/-- The fields of the vector/signal slot. -/
structure VecWord where
  d    : Nat
  a    : Nat
  b    : Nat
  c    : Nat
  bsel : Nat
  imm  : W16

/-- Operand b by BSEL. -/
def VecWord.opB (w : VecWord) : OpB := if w.bsel = 0 then .reg w.b else if w.bsel = 1 then .sreg w.b else .imm w.imm

/-- An operation of the vector/signal slot by its opcode. AADD (0x54) takes its IMM as parameters, which need BSEL 0b00, SSHI takes its as an
immediate, and VPERM (0x24) reads V[B] whatever BSEL says (DESIGN CHOICE, log 114). -/
def vecOp (t c : Nat) (w : VecWord) : Nat → SlotDec
  | 0x00 => .nop
  | 0x01 => .op (.fadd t c w.d w.a w.opB)
  | 0x02 => .op (.fsub t c w.d w.a w.opB)
  | 0x03 => .op (.fmul t c w.d w.a w.opB)
  | 0x04 => .op (.fma t c w.d w.a w.opB w.c)
  | 0x05 => .op (.fnma t c w.d w.a w.opB w.c)
  | 0x06 => .op (.fmin t c w.d w.a w.opB)
  | 0x07 => .op (.fmax t c w.d w.a w.opB)
  | 0x08 => .op (.fabs t c w.d w.a)
  | 0x09 => .op (.fneg t c w.d w.a)
  | 0x0A => .op (.fclt t c w.d w.a w.opB)
  | 0x0B => .op (.fcle t c w.d w.a w.opB)
  | 0x0C => .op (.fceq t c w.d w.a w.opB)
  | 0x0D => .op (.fcvti t c w.d w.a)
  | 0x0E => .op (.icvtf t c w.d w.a)
  | 0x0F => .op (.fscl t c w.d w.a w.opB)
  | 0x10 => .op (.iadd t c w.d w.a w.opB)
  | 0x11 => .op (.isub t c w.d w.a w.opB)
  | 0x12 => .op (.imul t c w.d w.a w.opB)
  | 0x13 => .op (.andV t c w.d w.a w.opB)
  | 0x14 => .op (.orV t c w.d w.a w.opB)
  | 0x15 => .op (.xorV t c w.d w.a w.opB)
  | 0x16 => .op (.shl t c w.d w.a w.opB)
  | 0x17 => .op (.shr t c w.d w.a w.opB)
  | 0x18 => .op (.sra t c w.d w.a w.opB)
  | 0x19 => .op (.imin t c w.d w.a w.opB)
  | 0x1A => .op (.imax t c w.d w.a w.opB)
  | 0x1B => .op (.iclt t c w.d w.a w.opB)
  | 0x1C => .op (.iceq t c w.d w.a w.opB)
  | 0x1D => .op (.sel t c w.d w.a w.opB w.c)
  | 0x1E => .op (.mov t c w.d w.opB)
  | 0x1F => .op (.viota t c w.d w.opB)
  | 0x20 => .op (.norm t c w.d w.a)
  | 0x21 => .op (.expx t c w.d w.a)
  | 0x22 => if w.bsel == 0 && decide (w.imm.toNat < 4096) && (!w.imm.getLsbD 11 || w.imm.toNat / 64 % 32 == 0) then .op (.bexp t c w.d w.a w.imm) else .bad
  | 0x23 => if w.bsel == 0 && decide (w.imm.toNat / 64 % 8 < 6) then .op (.gred t c w.d w.a w.imm) else .bad
  | 0x24 => .op (.vperm t c w.d w.a w.b)
  | 0x25 => if w.bsel == 0 then .op (.vext t c w.d w.a w.imm) else .bad
  | 0x28 => .op (.exp2 t c w.d w.a)
  | 0x29 => .op (.log2 t c w.d w.a)
  | 0x2A => .op (.rcp t c w.d w.a)
  | 0x2B => .op (.rsqrt t c w.d w.a)
  | 0x30 => if w.bsel == 0 then .op (.vsumL t c (w.imm.toNat % 4) w.a) else .bad
  | 0x31 => if w.bsel == 0 then .op (.laclr t c (w.imm.toNat % 4)) else .bad
  | 0x32 => if w.bsel == 0 then .op (.lard t c w.d (w.imm.toNat % 4)) else .bad
  | 0x40 => .op (.sadd t c w.d w.a w.opB)
  | 0x41 => .op (.ssub t c w.d w.a w.opB)
  | 0x42 => .op (.smul t c w.d w.a w.opB)
  | 0x43 => .op (.sand t c w.d w.a w.opB)
  | 0x44 => .op (.sor t c w.d w.a w.opB)
  | 0x45 => .op (.sxor t c w.d w.a w.opB)
  | 0x46 => .op (.sshl t c w.d w.a w.opB)
  | 0x47 => .op (.sshr t c w.d w.a w.opB)
  | 0x48 => .op (.ssra t c w.d w.a w.opB)
  | 0x49 => .op (.smin t c w.d w.a w.opB)
  | 0x4A => .op (.smax t c w.d w.a w.opB)
  | 0x4B => .op (.sclt t c w.d w.a w.opB)
  | 0x4C => .op (.sceq t c w.d w.a w.opB)
  | 0x4D => .op (.smov t c w.d w.opB)
  | 0x4E => .op (.sshi t c w.d w.imm)
  | 0x50 => if decide (w.d < 16) then .op (.mova t c w.d w.a) else .bad
  | 0x51 => if decide (w.d < 8) then .op (.movb t c w.d w.a) else .bad
  | 0x52 => if decide (w.d < 8) then .op (.movl t c w.d w.a) else .bad
  | 0x53 => .op (.movsa t c w.d (w.a % 16))
  | 0x54 => if w.bsel == 0 then .op (.aadd t c (w.d % 16) w.imm) else .bad
  | _ => .bad

/-- The vector/signal slot that is 56 bits `w`. -/
def vecDec (t c w : Nat) : SlotDec :=
  let f : VecWord := { d := bitsOf w 48 44, a := bitsOf w 43 39, b := bitsOf w 38 34, c := bitsOf w 33 29, bsel := bitsOf w 28 27,
                       imm := BitVec.ofNat 16 (bitsOf w 26 11) }
  if bitsOf w 10 0 ≠ 0 ∨ f.bsel = 3 then .bad else vecOp t c f (bitsOf w 55 49)

/-! ### The X and Y slots (07 R153 to R157) -/

/-- An operation of a load/store slot by its opcode. -/
def lsOp (t c : Nat) (o : LsOp) : Nat → SlotDec
  | 0x00 => .nop
  | 0x01 => .op (.vld t c o)
  | 0x02 => .op (.vst t c o)
  | 0x03 => .op (.vldb t c o)
  | 0x04 => if o.cvt == 0 then .op (.sld t c o) else .bad
  | 0x05 => if o.cvt == 0 then .op (.sst t c o) else .bad
  | 0x06 => .op (.vldt t c o)
  | 0x07 => .op (.vstt t c o)
  | 0x08 => if o.cvt == 0 && decide (o.off.toNat < 2048) && decide (o.pm < 2) then .op (.ldpk t c o) else .bad
  | 0x09 => if o.cvt == 0 && decide (o.off.toNat < 2048) && decide (o.pm < 2) then .op (.stpk t c o) else .bad
  | 0x0A => if o.cvt == 0 then .op (.lald t c o) else .bad
  | 0x0B => if o.cvt == 0 then .op (.last t c o) else .bad
  | 0x0C => if o.cvt == 0 then .op (.lamrg t c o) else .bad
  | _ => .bad

/-- The X or Y slot that is 32 bits `w`. -/
def lsDec (t c : Nat) (y : Bool) (w : Nat) : SlotDec :=
  let o : LsOp := { slotY := y, r := bitsOf w 26 22, an := bitsOf w 21 18, pm := bitsOf w 17 16, cvt := bitsOf w 15 13,
                    off := BitVec.ofNat 13 (bitsOf w 12 0) }
  if o.pm = 3 ∨ 5 < o.cvt then .bad else lsOp t c o (bitsOf w 31 27)

/-! ### The DMA/skew slot (05 R106, R107) -/

/-- SRCK and FMT that R107 allows together. -/
def srckOk (fmt srck : Nat) : Bool :=
  match srck with
  | 0 => fmt != 15
  | 1 => decide (9 ≤ fmt ∧ fmt ≤ 14)
  | 2 => decide (6 ≤ fmt ∧ fmt ≤ 14)
  | _ => false

/-- The DMA/skew slot that is 32 bits `w`. -/
def dmaDec (t c w : Nat) : SlotDec :=
  let o : DmaOp := { tag := bitsOf w 26 23, src := bitsOf w 22 18, dst := bitsOf w 17 13, prm := bitsOf w 12 8,
                     imm := BitVec.ofNat 8 (bitsOf w 7 0) }
  let plain := o.imm == 0
  match bitsOf w 31 27 with
  | 0 => if plain then .nop else .bad
  | 1 => if plain then .op (.ld t c o) else .bad
  | 2 => if plain then .op (.st t c o) else .bad
  | 3 => if srckOk (dmaFmt o) (dmaSrck o) then .op (.skewa t c o) else .bad
  | 4 => if srckOk (dmaFmt o) (dmaSrck o) ∧ dmaMask o = 0 then .op (.skewb t c o) else .bad
  | 5 => if plain then .op (.mks t c o) else .bad
  | _ => .bad

/-! ### The sequencing slot (04 R66) -/

/-- The sequencing slot that is 24 bits `w`. -/
def seqDec (w : Nat) : SeqOp :=
  let v := bitsOf w 18 0
  match bitsOf w 23 19 with
  | 0 => if v = 0 then .nop else .other
  | 1 => if v < 2 ^ 13 then .br v else .other
  | 2 => if v < 2 ^ 18 then .brz (v / 2 ^ 13) (v % 2 ^ 13) else .other
  | 3 => if v < 2 ^ 18 then .brnz (v / 2 ^ 13) (v % 2 ^ 13) else .other
  | 4 => if 0 < v ∧ v < 2 ^ 16 then .loop v else .other
  | 5 => if v = 0 then .endl else .other
  | 6 => if 0 < v ∧ v < 2 ^ 16 then .repeatN v else .other
  | 7 => .waitd (v % 16) (v / 16)
  | 8 => if v < 64 then .syncp v else .other
  | 9 => if v = 0 then .endK else .other
  | _ => .other

/-- The sequencing operation of a bundle. -/
def seqOf (b : BitVec 256) : SeqOp := seqDec (slotBits b 255 232)

/-- The six other slots of a bundle, for a tile and a cycle. -/
def slotsOf (t c : Nat) (b : BitVec 256) : List SlotDec :=
  [arrDec t c 0 (slotBits b 39 0), arrDec t c 1 (slotBits b 79 40), vecDec t c (slotBits b 135 80),
   lsDec t c false (slotBits b 167 136), lsDec t c true (slotBits b 199 168), dmaDec t c (slotBits b 231 200)]

/-- No slot of a bundle holds a value that the load refuses. -/
def bundleLegal (b : BitVec 256) : Bool := (slotsOf 0 0 b).all (fun d => decide (d ≠ .bad)) && decide (seqOf b ≠ .other)

/-- The meaning of a slot operation other than one of the sequencing slot. -/
def slotExec (i : Instr) (s : State) : Out :=
  match i with
  | .mma t c o err => execMma t c o err s
  | .wld t c o => execWld t c o s
  | .rout t c o => execRout t c o s
  | .lout t c o => execLout t c o s
  | .lin t c o => execLin t c o s
  | .ld t c o => execLd t c o s
  | .st t c o => execSt t c o s
  | .skewa t c o => execSkewa t c o s
  | .skewb t c o => execSkewb t c o s
  | .mks t c o => execMks t c o s
  | .fadd t c d a b => execFadd t c d a b s
  | .fsub t c d a b => execFsub t c d a b s
  | .fmul t c d a b => execFmul t c d a b s
  | .fma t c d a b cc => execFma t c d a b cc s
  | .fnma t c d a b cc => execFnma t c d a b cc s
  | .fmin t c d a b => execFmin t c d a b s
  | .fmax t c d a b => execFmax t c d a b s
  | .fabs t c d a => execFabs t c d a s
  | .fneg t c d a => execFneg t c d a s
  | .fclt t c d a b => execFclt t c d a b s
  | .fcle t c d a b => execFcle t c d a b s
  | .fceq t c d a b => execFceq t c d a b s
  | .fcvti t c d a => execFcvti t c d a s
  | .icvtf t c d a => execIcvtf t c d a s
  | .fscl t c d a b => execFscl t c d a b s
  | .iadd t c d a b => execIadd t c d a b s
  | .isub t c d a b => execIsub t c d a b s
  | .imul t c d a b => execImul t c d a b s
  | .andV t c d a b => execAndV t c d a b s
  | .orV t c d a b => execOrV t c d a b s
  | .xorV t c d a b => execXorV t c d a b s
  | .shl t c d a b => execShl t c d a b s
  | .shr t c d a b => execShr t c d a b s
  | .sra t c d a b => execSra t c d a b s
  | .imin t c d a b => execImin t c d a b s
  | .imax t c d a b => execImax t c d a b s
  | .iclt t c d a b => execIclt t c d a b s
  | .iceq t c d a b => execIceq t c d a b s
  | .sel t c d a b cc => execSel t c d a b cc s
  | .mov t c d b => execMov t c d b s
  | .viota t c d b => execViota t c d b s
  | .norm t c d a => execNorm t c d a s
  | .expx t c d a => execExpx t c d a s
  | .bexp t c d a imm => execBexp t c d a imm s
  | .gred t c d a imm => execGred t c d a imm s
  | .vperm t c d a b => execVperm t c d a b s
  | .vext t c d a imm => execVext t c d a imm s
  | .exp2 t c d a => execExp2 t c d a s
  | .log2 t c d a => execLog2 t c d a s
  | .rcp t c d a => execRcp t c d a s
  | .rsqrt t c d a => execRsqrt t c d a s
  | .vsumL t c la a => execVsumL t c la a s
  | .laclr t c la => execLaclr t c la s
  | .lard t c d la => execLard t c d la s
  | .sadd t c d a b => execSadd t c d a b s
  | .ssub t c d a b => execSsub t c d a b s
  | .smul t c d a b => execSmul t c d a b s
  | .sand t c d a b => execSand t c d a b s
  | .sor t c d a b => execSor t c d a b s
  | .sxor t c d a b => execSxor t c d a b s
  | .sshl t c d a b => execSshl t c d a b s
  | .sshr t c d a b => execSshr t c d a b s
  | .ssra t c d a b => execSsra t c d a b s
  | .smin t c d a b => execSmin t c d a b s
  | .smax t c d a b => execSmax t c d a b s
  | .sclt t c d a b => execSclt t c d a b s
  | .sceq t c d a b => execSceq t c d a b s
  | .smov t c d b => execSmov t c d b s
  | .sshi t c d imm => execSshi t c d imm s
  | .mova t c d a => execMova t c d a s
  | .movb t c d a => execMovb t c d a s
  | .movl t c d a => execMovl t c d a s
  | .movsa t c d a => execMovsa t c d a s
  | .aadd t c d imm => execAadd t c d imm s
  | .vld t c o => execVld t c o s
  | .vst t c o => execVst t c o s
  | .vldb t c o => execVldb t c o s
  | .sld t c o => execSld t c o s
  | .sst t c o => execSst t c o s
  | .vldt t c o => execVldt t c o s
  | .vstt t c o => execVstt t c o s
  | .ldpk t c o => execLdpk t c o s
  | .stpk t c o => execStpk t c o s
  | .lald t c o => execLald t c o s
  | .last t c o => execLast t c o s
  | .lamrg t c o => execLamrg t c o s
  | _ => .next s

/-- Issues the operations of a bundle's slots but the sequencing slot. -/
def issueSlots (s : State) (t c : Nat) (b : BitVec 256) : State :=
  (slotsOf t c b).foldl (fun x d => match d with
    | .op i => (match slotExec i x with | .next y => y | _ => x)
    | _ => x) s

end Sys2Proof.Machine
end

