-- ==== Sys2Proof/Machine/Kernels.lean ====
section
/-!
DEFINITION. Kernel images: the header, the checks of a load, the worst-case bound and the issue rules on every path (04 R67 to R70,
16 R363).
-/
namespace Sys2Proof.Machine

/-! ### The image (R67, R69) -/

/-- The bundles of an image that follow its header of 64 bytes; the fuel is their number. -/
def bundlesOf : Nat → List Byte → List (BitVec 256)
  | 0, _ => []
  | n + 1, bs => BitVec.ofNat 256 (leNat (bs.take 32)) :: bundlesOf n (bs.drop 32)

/-- LOOPs and ENDLs in bundle order: nesting at most 4, and every LOOP has its ENDL. -/
def loopsMatch : List (BitVec 256) → Nat → Bool
  | [], d => d == 0
  | b :: bs, d =>
    match seqOf b with
    | .loop _ => decide (d < 4) && loopsMatch bs (d + 1)
    | .endl => loopsMatch bs (d - 1)
    | _ => loopsMatch bs d

/-- A REPEAT has a bundle after it whose sequencing slot is NOP (07 R159). -/
def repeatsOk : List (BitVec 256) → Bool
  | [] => true
  | b :: bs => (match seqOf b with | .repeatN _ => (match bs with | [] => false | n :: _ => decide (seqOf n = .nop)) | _ => true) && repeatsOk bs

/-- Every target lies in the image. -/
def targetsOk (bs : List (BitVec 256)) : Bool :=
  bs.all fun b => match seqOf b with
    | .br t => decide (t < bs.length)
    | .brz _ t => decide (t < bs.length)
    | .brnz _ t => decide (t < bs.length)
    | _ => true

/-- The bundles that may follow the bundle `i`: within a loop body that is left by its ENDL, the way back is one already walked. -/
def nextBundles (b : BitVec 256) (i : Nat) : List Nat :=
  match seqOf b with
  | .br t => [t]
  | .brz _ t => [t, i + 1]
  | .brnz _ t => [t, i + 1]
  | .endK => []
  | _ => [i + 1]

/-- No path from the bundles `todo` reaches past the last bundle; the fuel bounds the bundles visited and named. -/
def staysInside (bs : List (BitVec 256)) : Nat → List Nat → List Nat → Bool
  | 0, todo, _ => todo.isEmpty
  | _, [], _ => true
  | n + 1, i :: todo, seen =>
    if seen.contains i then staysInside bs n todo seen
    else match bs[i]? with
      | none => false
      | some b => staysInside bs n (nextBundles b i ++ todo) (i :: seen)

/-- The structural checks of R69 on a whole image of `n` bytes. -/
def imageForm (h : List Byte) (n : Nat) (bs : List (BitVec 256)) : Bool :=
  let len := fieldAt h 8 2
  decide (1 ≤ len ∧ len ≤ 1234) && decide (1 ≤ bs.length ∧ bs.length ≤ 8192) && n == 64 + 32 * bs.length &&
  decide (fieldAt h 6 2 < 2) && fieldAt h 12 4 == 0 && ((h.drop 36).take 28).all (· == 0) &&
  decide (fieldAt h 24 4 ≤ 131072) && decide (fieldAt h 28 4 ≤ 131072) && decide (fieldAt h 32 4 ≤ 2097152) &&
  bs.all bundleLegal && targetsOk bs && loopsMatch bs 0 && repeatsOk bs && bs.any (fun b => decide (seqOf b = .endK)) &&
  staysInside bs (3 * bs.length + 1) [0] []

/-! ### Paths (R70) -/

/-- A path through an image: the tile that has run it so far, on which every register and memory is 0; the next bundle, the loops
that are open, the issues left of a repeated bundle, and the cycle of the next issue. -/
structure Walk where
  s     : State
  pc    : Nat
  loops : List (Nat × Nat)
  rep   : Nat
  c     : Nat

/-- The kernel that a path runs: unverified, so that a broken issue rule shows in TKP_FAULT_CNT.OVERRUN. -/
def walkStart : Walk :=
  let r : Running := { kernel := 0, imageId := 0, tick := 0, beat := 0, length := 1234, slice := 64, context := 0, verified := false,
                       isStatic := false, onFloor := false, job := none, ended := false }
  { s := setTile State.reset 0 { run := some r, cyc := 4 }, pc := 0, loops := [], rep := 0, c := 4 }

/-- The cycles at which issue may go on after a WAITD on a tag that issues at cycle `c`: at its maximum wait, where the bound is computed;
otherwise at each cycle at which the operation may complete: a SKEWA or SKEWB has its completion cycle, an LD or ST completes at
any (log 34). -/
def afterWait (x : Tile) (atMax : Bool) (c tag maxw : Nat) : List Nat :=
  if atMax then [c + 1 + 16 * maxw]
  else match NMap.find? x.tags tag with
    | some o =>
      (match o.doneAt with
       | some n => [c + 1 + min (16 * maxw) (n - c)]
       | none => (List.range (16 * maxw + 1)).map (c + 1 + ·))
    | none => [c + 1]

/-- A tile on which the operation with a tag is outstanding no longer. -/
def dropTag (s : State) (tag : Nat) : State := modTile s 0 fun x => { x with tags := NMap.erase x.tags tag }

/-- An LD or ST on a path: a path carries no data, so its range is not looked at (R70, 05 R110). -/
def walkDma (s : State) (t c : Nat) (o : DmaOp) (op : Nat) : State :=
  slotOp s t c fun x => if x.tagFree o.tag then .done { x with tags := NMap.insert x.tags o.tag ⟨op, none, false, 0, 0, 0⟩ } else .broke

/-- Issues the operations of a bundle's slots on a path. -/
def walkSlots (s : State) (t c : Nat) (b : BitVec 256) : State :=
  (slotsOf t c b).foldl (fun x d => match d with
    | .op (.ld t c o) => walkDma x t c o 1
    | .op (.st t c o) => walkDma x t c o 2
    | .op i => (match slotExec i x with | .next y => y | _ => x)
    | _ => x) s

/-- The larger of two bounds, if both are computable. -/
def maxBound (a b : Option Nat) : Option Nat :=
  match a, b with
  | some x, some y => some (max x y)
  | _, _ => none

/-- The cycles that the longest path takes: none if a path holds a branch to its own or an earlier bundle, leaves an LD or ST
outstanding at END, does not end within the fuel, or, with any wait that its WAITDs allow, breaks an issue rule. -/
def longest (bs : List (BitVec 256)) (atMax : Bool) : Nat → Walk → Option Nat
  | 0, _ => none
  | n + 1, w =>
    match bs[w.pc]? with
    | none => none
    | some b =>
      let s1 := walkSlots w.s 0 w.c b
      if s1.tkp.faultOverrun ≠ 0 ∧ !atMax then none
      else
        let on := fun (pc c : Nat) => longest bs atMax n { w with s := s1, pc := pc, c := c, rep := 0 }
        let step := on (w.pc + 1) (w.c + 1)
        match seqOf b with
        | .br t => if t ≤ w.pc then none else on t (w.c + 3)
        | .brz _ t => if t ≤ w.pc then none else maxBound (on t (w.c + 3)) step
        | .brnz _ t => if t ≤ w.pc then none else maxBound (on t (w.c + 3)) step
        | .loop k => longest bs atMax n { w with s := s1, pc := w.pc + 1, c := w.c + 1, loops := (w.pc + 1, k) :: w.loops }
        | .endl =>
          (match w.loops with
           | (start, k) :: rest =>
             if 1 < k then longest bs atMax n { w with s := s1, pc := start, c := w.c + 1, loops := (start, k - 1) :: rest }
             else longest bs atMax n { w with s := s1, pc := w.pc + 1, c := w.c + 1, loops := rest }
           | [] => step)
        | .repeatN k => longest bs atMax n { w with s := s1, pc := w.pc + 1, c := w.c + 1, rep := k }
        | .waitd tag m =>
          (afterWait (tileAt s1 0) atMax w.c tag m).foldl (fun b k => maxBound b (longest bs atMax n { w with s := dropTag s1 tag, pc := w.pc + 1, c := k, rep := 0 })) (some 0)
        | .endK =>
          let x := tileAt s1 0
          if x.opsOver then some (max (w.c + 1) ({ x with cyc := w.c } : Tile).total) else none
        | _ => if 1 < w.rep then longest bs atMax n { w with s := s1, c := w.c + 1, rep := w.rep - 1 } else step

/-- An image holds no branch to its own bundle or to an earlier one (R70). -/
def noBackward (bs : List (BitVec 256)) : Bool :=
  (List.range bs.length).all fun i => match bs[i]?.map seqOf with
    | some (.br t) => decide (i < t)
    | some (.brz _ t) => decide (i < t)
    | some (.brnz _ t) => decide (i < t)
    | _ => true

/-- The worst-case bound of an image in cycles, if it is verifiable; a bound beyond the longest tick is not computed (R70). -/
def imageBound (bs : List (BitVec 256)) : Option Nat :=
  let fuel := 240 * 1234 + 1
  if noBackward bs ∧ (longest bs false fuel walkStart).isSome then longest bs true fuel walkStart else none

/-! ### KERNEL_LOAD (R363, R69) -/

/-- The dies of a mask. -/
def maskDies (mask : Nat) : List Nat := (List.range 4).filter mask.testBit

/-- The kernel index is taken on a die, or its instruction memory has too little room. -/
def noRoomFor (s : State) (dies : List Nat) (kindex bundles : Nat) : Bool :=
  dies.any fun d =>
    (NMap.find? s.dies.images (1024 * d + kindex)).isSome ||
    decide (8192 < bundles + ((s.dies.images.filter fun (e : Nat × Image) => e.1 / 1024 == d).map fun (e : Nat × Image) => e.2.bundles.length).sum)

/-- The outcome of a load: its status, and the image that joins the sets (R69). -/
def loadImage (s : State) (dies : List Nat) (kindex n : Nat) (bytes : List Byte) (radio : Bool) : Nat × Option Image :=
  let h := bytes.take 64
  let bs := bundlesOf (fieldAt h 10 2) (bytes.drop 64)
  let len := fieldAt h 8 2
  let im : Image := { imageId := fieldAt h 16 8, length := len, bundles := bs, floor := fieldAt h 6 2 % 2 == 1, verified := false, bound := 0,
                      startable := s.tkp.now + 1 }
  if fieldAt h 0 4 ≠ 0x4E4B4D53 then (stInvalid, none)
  else if fieldAt h 4 2 ≠ 1 then (stVersion, none)
  else if im.floor ∧ !radio then (stDenied, none)
  else if !imageForm h n bs then (stInvalid, none)
  else if noRoomFor s dies kindex bs.length then (stNoResource, none)
  else
    let unverified := if len ≤ 64 then (stOk, some im) else (stInvalid, none)
    match imageBound bs with
    | some b => if b ≤ 240 * len then (stOk, some { im with verified := true, bound := b }) else unverified
    | none => unverified

/-- An image joins the sets of some dies, with its copies in GDDR7 (04 R68; log 94). -/
def joinImage (s : State) (dies : List Nat) (kindex : Nat) (im : Image) : State :=
  let put := fun (m : NMap Image) => dies.foldl (fun m d => NMap.insert m (1024 * d + kindex) im) m
  { s with dies := { s.dies with images := put s.dies.images, copies := put s.dies.copies } }

/-- KERNEL_LOAD (R363). -/
def execKernelLoad (q seq : Nat) (s : State) : Out :=
  .next (withCmd s q seq 0x0508 fun r s =>
    let dies := maskDies (r.par 0 1)
    let n := r.par 4 4
    let a := r.par 8 8
    if r.params.length ≠ 16 ∨ 16 ≤ r.par 0 1 ∨ r.par 1 1 ≠ 0 ∨ 1023 < r.par 2 2 ∨ n < 64 ∨ 64 + 32 * 8192 < n ∨ (r.pdev ∧ !usableRange s a n) then
      finish s q seq stInvalid 0
    else if r.pdev ∧ badRange s a n then finish (recordUncorrected s a n) q seq stDeviceFault 0
    else
      let o := loadImage s dies (r.par 2 2) n (if r.pdev then viewRead s a n else hostRead s r.pasid a n) false
      match o.2 with
      | none => finish s q seq o.1 0
      | some im => finish (joinImage s dies (r.par 2 2) im) q seq stOk (BitVec.ofNat 64 im.bound))

end Sys2Proof.Machine
end

