-- ==== Sys2Proof/Machine/Launch.lean ====
section
/-!
DEFINITION. Launched jobs: PLAN_LAUNCH, the steps of a job, the barrier of a lockstep job and the lateness records (15 R348 to
R351).
-/
namespace Sys2Proof.Machine

/-- A launched job. -/
def findJob (s : State) (q seq : Nat) : Option Job := s.tim.jobs.find? fun j => j.q == q && j.seq == seq

/-- Writes a launched job. -/
def setJob (s : State) (j : Job) : State :=
  { s with tim := { s.tim with jobs := s.tim.jobs.map fun x => if x.q = j.q ∧ x.seq = j.seq then j else x } }

/-- The fields of PLAN_LAUNCH lie in their ranges (R349; log 39). -/
def launchFieldsOk (s : State) (r : JRec) : Bool :=
  r.params.length == 40 && decide (r.par 0 2 < 1024 ∧ r.par 2 1 < 2 ∧ 1 ≤ r.par 16 2 ∧ r.par 16 2 ≤ 256) && r.zeros 18 6 &&
  (ctxAt s (r.par 0 2)).state != 0 && r.par 32 8 % 8 == 0 && usableRange s (r.par 32 8) 8192 && !inR13 s (r.par 32 8) 8192 &&
  (r.par 2 1 == 0 || (r.par 24 8 / 2 ^ 40 == r.par 3 1 && r.par 24 8 % 16 == 0))

/-- The job that PLAN_LAUNCH describes. -/
def jobOfParams (r : JRec) : Job :=
  { q := r.q, seq := r.seq, context := r.par 0 2, lockstep := r.par 2 1 == 1, leader := r.par 3 1, job := r.par 4 4, start := r.par 8 8,
    members := r.par 16 2, barrier := r.par 24 8, lateRing := r.par 32 8, step := 0, running := false, reportTick := none, launched := 0,
    waited := false, named := none, planned := r.par 8 8, count := 0, again := false }

/-- PLAN_LAUNCH (R349). The command stays open while its job runs. -/
def execPlanLaunch (q seq : Nat) (s : State) : Out :=
  .next (withCmd s q seq 0x0510 fun r s =>
    if !launchFieldsOk s r then finish s q seq stInvalid 0
    else if (match sliceOfRec s r with | some sl => (ctxAt s (r.par 0 2)).slice != sl | none => false) then finish s q seq stDenied 0
    else if r.par 8 8 < r.tick + 16 then finish s q seq stLate 0
    else if r.par 2 1 = 1 ∧ s.tim.state ≠ 2 then finish s q seq stBusy 0
    else { s with tim := { s.tim with jobs := s.tim.jobs ++ [jobOfParams r] } })

/-! ### The barrier (R350) -/

/-- The address of barrier pair k mod 256. -/
def barrierAt (j : Job) (k : Nat) : Nat := j.barrier + 16 * (k % 256)

/-- An atomic of 64 bits on a barrier word, without COMB: at the memory controller here, or over the fabric (R318, R319). -/
def barrierAtomic (s : State) (j : Job) (addr sub operand : Nat) : State :=
  if j.leader = s.fab.device then (devWrite s (addr % 2 ^ 40) (leBytes 8 (atomicNew 64 sub (devNat s (addr % 2 ^ 40) 8) operand 0))).1
  else
    let body := leBytes 1 sub ++ leBytes 1 0 ++ leBytes 2 1 ++ leBytes 4 0 ++ leBytes 8 operand ++ leBytes 8 0
    issueReq s j.leader (reqPacket 0x12 addr 24 (sliceTag s (some (ctxAt s j.context).slice)) false body) (some (launchTag, j.q, j.seq))

/-- A member reports the step that has committed: UMAX of (E × 256) + (255 − device number) with E the current tick + 24, then ADD of
1. -/
def reportStep (s : State) (j : Job) : State :=
  let e := s.tkp.now + 24
  let a := barrierAt j (j.step - 1)
  let s1 := barrierAtomic s j a 6 (256 * e + (255 - s.fab.device))
  barrierAtomic s1 j (a + 8) 0 1

/-- The barrier pair of the step reported last: read here when this device is the leader, otherwise as a read from the leader gave
it. -/
def barrierPair (s : State) (j : Job) (word0 word1 : W64) : Nat × Nat :=
  let a := barrierAt j (j.step - 1) % 2 ^ 40
  if j.leader = s.fab.device then (devNat s a 8, devNat s (a + 8) 8) else (word0.toNat, word1.toNat)

/-! ### Lateness records (R351) -/

/-- The lateness record of a step: `free` stands for WAITED_FOR where no barrier named a device. -/
def lateRecord (j : Job) (reissues : Nat) (free : Nat) : List Byte :=
  let w := bit1 j.waited + 2 * bit1 (decide (0 < reissues))
  leBytes 4 (j.step - 1) ++ leBytes 1 w ++ leBytes 1 (j.named.getD free) ++ leBytes 2 0 ++ leBytes 8 j.planned ++ leBytes 8 j.launched ++
    leBytes 4 (min 0xFFFFFFFF (j.launched - j.planned)) ++ leBytes 4 reissues

/-- Writes the record of the step that has committed, at its index modulo 256: every step of a lockstep job, and of another job the
steps that were withdrawn. -/
def writeLate (s : State) (j : Job) : State :=
  let n := NMap.getD s.tkp.reissues j.context 0
  let s1 : State := { s with tkp := { s.tkp with reissues := NMap.erase s.tkp.reissues j.context } }
  if !j.lockstep ∧ n = 0 then s1
  else
    let f := s1.takeFree
    (devWrite f.2 (j.lateRing + 32 * ((j.step - 1) % 256)) (lateRecord j n (f.1.toNat % 256))).1

/-! ### Steps -/

/-- The next step of a job launches now. `len` is the compiled length in ticks of the step before it. -/
def launchStep (s : State) (j : Job) (len : Nat) (waited : Bool) (named : Option Nat) : State :=
  setJob s { j with step := j.step + 1, running := true, reportTick := none, launched := s.tkp.now, waited := waited, named := named, count := 0, again := false,
                    planned := if j.step = 0 then j.start else j.planned + len }

/-- The barrier lets a step launch: the count is complete, and beat 0 of the tick that it names has come; a count that was not complete
when read last lets the step launch at once where that tick has passed (log 39). -/
def launchNow (s : State) (j : Job) (w : Nat × Nat) : Bool :=
  decide (j.members ≤ w.2) && (decide (s.tkp.now = w.1 / 256 ∧ s.tkp.beat = 0) || decide (w.1 / 256 < s.tkp.now ∧ j.count < j.members))

/-- JOB_STEP_LAUNCH: the next step of a job launches when it may; a step that has committed is first recorded and, in a lockstep job,
reported. `last`: the compiled job has no further step; `len`: the compiled length of the step before the one that launches, in
ticks; `word0`, `word1`: the barrier pair as a read from another leader gave it (log 39). -/
def execJobStepLaunch (q seq : Nat) (last : Bool) (len : Nat) (word0 word1 : W64) (s : State) : Out :=
  match findJob s q seq with
  | none => .next s
  | some j =>
    if j.running then
      if ctxRuns s j.context then .next s
      else
        let s1 := writeLate s j
        let j1 := { j with running := false }
        if last then .next (finish { s1 with tim := { s1.tim with jobs := s1.tim.jobs.filter fun x => !(x.q == q && x.seq == seq) } } q seq stOk 0)
        else if j.lockstep then .next (reportStep (setJob s1 { j1 with reportTick := some s.tkp.now }) j)
        else .next (launchStep s1 j1 len false none)
    else if j.step = 0 then
      if s.tkp.now = j.start ∧ s.tkp.beat = 0 then .next (launchStep s j len false none) else .next s
    else
      match j.reportTick with
      | none => .next s
      | some t =>
        let w := barrierPair s j word0 word1
        let device := 255 - w.1 % 256
        if !launchNow s j w then .next (setJob s { j with count := w.2 })
        else .next (launchStep s j len (decide (t + 24 < w.1 / 256) && device != s.fab.device) (some device))

/-- BARRIER_TIMEOUT: a count that does not complete within 8,000 ticks of the report (R350). -/
def execBarrierTimeout (q seq : Nat) (s : State) : Out :=
  match findJob s q seq with
  | none => .next s
  | some j =>
    match j.reportTick with
    | none => .next s
    | some t =>
      if s.tkp.now < t + 8000 ∨ j.members ≤ (barrierPair s j 0 (BitVec.ofNat 64 j.count)).2 then .next s
      else
        let s1 : State := { s with tim := { s.tim with jobs := s.tim.jobs.filter fun x => !(x.q == q && x.seq == seq) } }
        .next (finish s1 q seq stTimeout 0)

end Sys2Proof.Machine
end

