-- ==== Sys2Proof/Machine/Mailbox.lean ====
section
/-!
DEFINITION. Slice mailboxes: notices, their delivery and their rings (16 R374 to R377).
-/
namespace Sys2Proof.Machine

/-- The page of the physical function. -/
def pfPage : Nat := 64

/-- Two slices that MBX_GRANT has granted, in either order (R376). -/
def pairGranted (s : State) (a b : Nat) : Bool := s.slc.pairs.contains (min a b, max a b)

/-- The status that a send gets at once: OK stands for a send that goes on (R375). -/
def sendStatus (s : State) (page kind index : Nat) : Nat :=
  if kind = 3 then stInvalid
  else if page = pfPage then (if kind = 0 ∨ (kind = 2 ∧ index < 8) then stOk else stDenied)
  else if kind = 1 ∨ (kind = 0 ∧ index ≠ page ∧ pairGranted s page index) then stOk
  else stDenied

/-- NOTICE_SEND: a write of SLC_DB on a page (R375). -/
def execNoticeSend (page : Nat) (value : W32) (s : State) : Out :=
  let x := mbxAt s page
  let kind := bitsOf value.toNat 1 0
  let index := bitsOf value.toNat 7 2
  if pfPage < page ∨ x.pending then .next s
  else
    let st := sendStatus s page kind index
    if st = stOk then
      .next (setMbx s page { x with pending := true, sendTo := (kind, index), sentTick := s.tkp.now, msgSeq := (x.msgSeq + 1) % 2 ^ 32 })
    else .next (setMbx s page { x with status := withClass s st })

/-- SENDER of a notice (R374). -/
def senderOf (page : Nat) : Nat := if page = pfPage then 1 else 4 * page

/-- A notice with its stamped fields: SENDER, TICK of delivery, MSG_SEQ (R374). -/
def stampNotice (n : BitVec 512) (sender tick msgSeq : Nat) : BitVec 512 :=
  let b := leBytes 64 n.toNat
  BitVec.ofNat 512 (leNat (overlayAt (overlayAt b 0 (leBytes 2 sender)) 16 (leBytes 8 tick ++ leBytes 4 msgSeq)))

/-- Notices in a ring that software has not freed. -/
def ringUsed (x : Page) : Nat := (x.rxTail + 2 ^ 16 - x.rxHead) % 2 ^ 16

/-- A page takes a notice now: it is open, has room, and its slice is in no reset or, for the physical function, the device is not in
orphan mode (R375). -/
def pageTakes (s : State) (p : Nat) : Bool :=
  let x := mbxAt s p
  x.ctrl.getLsbD 0 && decide (ringUsed x < 48) && !x.inReset && !(p == pfPage && s.hst.orphan)

/-- The notice completion of a delivery, to a queue of the slice or, for page 64, a system queue (R377). -/
def notify (s : State) (p : Nat) : State :=
  let x := mbxAt s p
  let q := bitsOf x.ctrl.toNat 20 12
  let ours := fun (y : Queue) => if p = pfPage then y.system else !y.system && NMap.find? s.slc.pasids y.pasid == some p
  match NMap.find? s.hst.queues q with
  | some y => if x.ctrl.getLsbD 11 && ours y then postCpl s q (cplBytes x.rxTail stOk 3 0 q 0 0 s.tkp.now) else s
  | none => s

/-- Puts a notice into the ring of a page and advances its tail (R377). -/
def ringNotice (s : State) (p : Nat) (n : BitVec 512) : State :=
  let x := mbxAt s p
  notify (setMbx s p { x with ring := NMap.insert x.ring (x.rxTail % 48) n, rxTail := (x.rxTail + 1) % 2 ^ 16 }) p

/-- The receiver of a send: a page, or the processor at 65 and above. -/
def receiverOf (to_ : Nat × Nat) : Nat := if to_.1 = 0 then to_.2 else if to_.1 = 1 then pfPage else 65 + to_.2

/-- The receiver takes a notice now (R375). -/
def receiverTakes (s : State) (r : Nat) : Bool := if r ≤ pfPage then pageTakes s r else cpState s (r - 65) != 2

/-- NOTICE_DELIVER: the send in progress of a page reaches its receiver (R375). -/
def execNoticeDeliver (page : Nat) (s : State) : Out :=
  let x := mbxAt s page
  let r := receiverOf x.sendTo
  if !x.pending ∨ !receiverTakes s r then .next s
  else
    let n := stampNotice x.send (senderOf page) s.tkp.now x.msgSeq
    let s1 := if r ≤ pfPage then ringNotice s r n
      else { s with slc := { s.slc with cpIn := NMap.modify s.slc.cpIn [] (r - 65) fun l => n :: l } }
    .next (setMbx s1 page { mbxAt s1 page with pending := false, status := withClass s1 stOk })

/-- The sender's timeout in ticks; 0 ms is applied as 1 (SLC_CTRL). -/
def sendTicks (x : Page) : Nat := 8 * max 1 (bitsOf x.ctrl.toNat 10 1)

/-- NOTICE_TIMEOUT: a notice that could not be delivered in time is discarded (R375). -/
def execNoticeTimeout (page : Nat) (s : State) : Out :=
  let x := mbxAt s page
  if !x.pending ∨ s.tkp.now < x.sentTick + sendTicks x then .next s
  else .next (setMbx s page { x with pending := false, status := withClass s stTimeout })

/-- SLC_RX_HEAD_WRITE: software frees entries of its ring; a value that passes the tail is ignored (R377). -/
def execSlcRxHeadWrite (page : Nat) (value : W32) (s : State) : Out :=
  let x := mbxAt s page
  let h := value.toNat % 2 ^ 16
  if pfPage < page ∨ ringUsed x < (h + 2 ^ 16 - x.rxHead) % 2 ^ 16 then .next s
  else .next (setMbx s page { x with rxHead := h })

/-! ### MBX_GRANT (R376) -/

/-- The fields of MBX_GRANT. -/
def mbxGrantFields (r : JRec) (_ : State) : Nat :=
  if r.params.length = 4 ∧ r.par 0 1 < 64 ∧ r.par 1 1 < 64 ∧ r.par 0 1 ≠ r.par 1 1 ∧ r.par 2 1 < 2 ∧ r.par 3 1 = 0 then stOk else stInvalid

/-- MBX_GRANT meets no state that forbids it. -/
def mbxGrantState (_ : JRec) (_ : State) : Nat := stOk

/-- MBX_GRANT at its seam. -/
def mbxGrantApply (r : JRec) (s : State) : State :=
  let p := (min (r.par 0 1) (r.par 1 1), max (r.par 0 1) (r.par 1 1))
  let others := s.slc.pairs.filter (· ≠ p)
  { s with slc := { s.slc with pairs := if r.par 2 1 = 1 then others ++ [p] else others } }

/-- MBX_GRANT (R376). -/
def execMbxGrant (q seq : Nat) (s : State) : Out := .next (withSeamCmd s q seq 0x0507 mbxGrantFields)

end Sys2Proof.Machine
end

