-- ==== Sys2Proof/Machine/Mem.lean ====
section
/-!
DEFINITION. Device memory: lost channels, the patrol, host reads and writes through CXL.mem, bias (08 R167 to R171, R181, R504),
and POOL_SET (08 R505).
-/
namespace Sys2Proof.Machine

/-- CHANNEL_LOST: the channel is accessed no longer. The loss of MC0 or MC16 alone leaves the journal on the other; any other
loss, or the second of them, fails the device (R181, R504, 20 R435). -/
def execChannelLost (ch : Nat) (s : State) : Out :=
  if 31 < ch ∨ s.mem.lost.contains ch ∨ !s.pwr.pwrGood then .next s
  else
    let s1 : State := { s with mem := { s.mem with lost := addSet s.mem.lost ch } }
    if ch = 0 ∨ ch = 16 then
      if s.mem.lost.contains (16 - ch) then .next (deviceFail s1 0x2003 srcHw [])
      else .next (recordEvent (latchAttn s1 1) 0x2003 srcHw [])
    else .next (deviceFail s1 0x2004 srcHw [])

/-- PATROL_SCRUB of a line: a corrected line is written back as it reads; one with an uncorrected error that no read had found is
poisoned, unless a later write has replaced it; with inline ECC off no error is found (R167, R168). -/
def execPatrolScrub (line : Nat) (corrected uncorrected raced : Bool) (s0 : State) : Out :=
  let s := noteReads s0 (64 * line) 64
  if usableU s0 / 64 ≤ line ∨ onLost s0 (64 * line) ∨ !s0.hst.ecc then .next s0
  else if isPoisoned s (64 * line) then .next s
  else if uncorrected || isLatent s (64 * line) then
    let s1 := recordEvent { s with mem := { s.mem with latent := s.mem.latent.filter (· ≠ line) } } 0x2002 srcHw [channelOf s (64 * line), 64 * line]
    .next (if raced then s1 else poisonLine s1 (64 * line))
  else if corrected && !raced then .next (devPut s (64 * line) (devRead s (64 * line) 64))
  else .next s

/-- HOST_MEM_READ: the bytes that a decoder maps, each with its poison indication; encrypted regions as they stand (R167, R169,
21 R473). -/
def execHostMemRead (addr len : Nat) (s : State) : Out :=
  if !usableRange s addr len then .next s
  else
    let bs := List.zipWith (fun i b => (b, badRange s (addr + i) 1)) (List.range len) (readAs s 0xFF addr len)
    .next (recordUncorrected (noteReads { s with mem := { s.mem with readData := bs } } addr len) addr len)

/-- HOST_MEM_WRITE: performed, or dropped with its event where it meets protected structures (R169, 01 R13). -/
def execHostMemWrite (addr : Nat) (bytes : List Byte) (s : State) : Out :=
  if !usableRange s addr bytes.length then .next s
  else if isProtected s addr bytes.length then .next (recordEvent s 0x8001 srcHw [])
  else .next (devWrite s addr bytes).1

/-- A range that an access of the device reads or writes meets a 2 MiB page. -/
def meetsPage (a addr n : Nat) : Bool := overlaps a (2 ^ 21) addr n

/-- An LD or ST has a range in a 2 MiB page and has not completed. -/
def tagInPage (a : Nat) (o : TagOp) : Bool := decide (o.op ≤ 2) && !o.done && meetsPage a o.src o.len

/-- The device's own accesses to a 2 MiB page that have been issued and have not completed: DMA bursts, LD and ST of running and of
stopped kernels (R171). -/
def pageInUse (s : State) (a : Nat) : Bool :=
  (s.mem.dma.any fun (e : Nat × Burst) => (e.2.op == 1 && spaceOf e.2.src == 0 && meetsPage a e.2.src e.2.bytes) ||
    (spaceOf e.2.dst == 0 && meetsPage a e.2.dst e.2.bytes)) ||
  (s.tiles.any fun t => t.2.tags.any (fun (e : Nat × TagOp) => tagInPage a e.2) || t.2.late.any fun e => tagInPage a e.2)

/-- BIAS_SET (opcode 0x0100): page address 8 bytes, bias 1. The page flips, and the command is DONE, once no access of the device that
was issued before is left; until then it stays accepted (R171; log 105). -/
def execBiasSet (q seq : Nat) (s : State) : Out :=
  .next (withCmd s q seq 0x0100 fun r s =>
    let a := r.par 0 8
    if r.params.length ≠ 9 ∨ 1 < r.par 8 1 ∨ a % 2 ^ 21 ≠ 0 ∨ usableU s ≤ a then finish s q seq stInvalid 0
    else if s.srv.pools.any (fun (p : Nat × Pool) => p.2.state != 0 && p.2.extents.any fun e => overlaps a (2 ^ 21) (extentSpan e).1 (extentSpan e).2) then
      finish s q seq stDenied 0
    else if pageInUse s a then modRec s q seq fun x => { x with stage := 1 }
    else
      let hb := if r.par 8 1 = 1 then addSet s.mem.hostBias (a / 2 ^ 21) else s.mem.hostBias.filter (· ≠ a / 2 ^ 21)
      finish { s with mem := { s.mem with hostBias := hb } } q seq stOk 0)

/-- POOL_SET (opcode 0x0101). -/
def execPoolSet (q seq : Nat) (s : State) : Out :=
  .next (withCmd s q seq 0x0101 fun r s =>
    let w := poolSet s r
    finish w.1 q seq w.2 0)

end Sys2Proof.Machine
end

