-- ==== Sys2Proof/Machine/Pusch.lean ====
section
/-!
DEFINITION. The uplink shared channel from received samples to LLRs: channel estimation, equalisation and demapping (13 R282 steps 1 to 3).
The order in which a sum is formed, and what the rule leaves out, are the model's (log 109).
-/
namespace Sys2Proof.Machine

/-! ### Complex FP32 -/

/-- A complex sum. -/
def cAdd (a b : W32 × W32) : W32 × W32 := (f32Add a.1 b.1, f32Add a.2 b.2)
/-- A complex difference. -/
def cSub (a b : W32 × W32) : W32 × W32 := (f32Sub a.1 b.1, f32Sub a.2 b.2)
/-- A complex product. -/
def cMul (a b : W32 × W32) : W32 × W32 :=
  (f32Sub (f32Mul a.1 b.1) (f32Mul a.2 b.2), f32Add (f32Mul a.1 b.2) (f32Mul a.2 b.1))
/-- The conjugate. -/
def cConj (a : W32 × W32) : W32 × W32 := (a.1, f32Sub 0 a.2)
/-- A complex value times a real one. -/
def cScale (r : W32) (a : W32 × W32) : W32 × W32 := (f32Mul r a.1, f32Mul r a.2)
/-- The squared magnitude. -/
def cNorm (a : W32 × W32) : W32 := f32Add (f32Mul a.1 a.1) (f32Mul a.2 a.2)
/-- A sum, from the first term on. -/
def cSum (zs : List (W32 × W32)) : W32 × W32 := zs.foldl cAdd (0, 0)
/-- A sum of real values. -/
def rSum (xs : List W32) : W32 := xs.foldl f32Add 0
/-- A count in FP32. -/
def f32Nat (n : Nat) : W32 := f32OfInt (BitVec.ofNat 32 n)

/-! ### Received PRBs -/

/-- The uplink eAxC IDs or flows of a cell, one for each stream. -/
def ulStreams (x : Cell) : List Nat := match x.bind_ with | some b => b.eaxc.drop b.dl | none => []

/-- A received resource element, in FP32; 0 where the PRB is absent. -/
def rxRe (x : Cell) (sym e prb i : Nat) : W32 × W32 :=
  let z := (iqPairs (NMap.getD x.rxIq (prbKey sym e prb) [])).getD i (0, 0)
  (f32OfInt (BitVec.ofInt 32 z.1), f32OfInt (BitVec.ofInt 32 z.2))

/-- A PRB of a symbol is absent from a stream. -/
def prbAbsent (x : Cell) (sym prb : Nat) : Bool := (ulStreams x).any fun e => (NMap.find? x.rxIq (prbKey sym e prb)).isNone

/-! ### Step 1: channel estimation -/

/-- The least-squares estimates at the DMRS REs of a layer in a PRB, averaged. -/
def lsPrb (x : Cell) (u : UlPdu) (sym e layer prb : Nat) : W32 × W32 :=
  let d := Config.dmrs u.params layer sym prb
  let hs := (List.range 12).filterMap fun i =>
    (d.getD i none).map fun w => cScale (f32Rcp (cNorm w)) (cMul (rxRe x sym e prb i) (cConj w))
  cScale (f32Rcp (f32Nat hs.length)) (cSum hs)

/-- The taps 1/4, 1/2, 1/4 across the PRBs of the allocation, the edge PRBs repeated. -/
def tapped (hs : List (W32 × W32)) : List (W32 × W32) :=
  (List.range hs.length).map fun i =>
    let at_ := fun (k : Nat) => hs.getD (min k (hs.length - 1)) (0, 0)
    cAdd (cAdd (cScale 0x3E800000 (at_ (i - 1))) (cScale 0x3F000000 (at_ i))) (cScale 0x3E800000 (at_ (i + 1)))

/-- The estimates of a stream and layer at a DMRS symbol, for each PRB of the allocation. -/
def dmrsEst (x : Cell) (u : UlPdu) (e layer sym : Nat) : List (W32 × W32) := tapped (u.prbs.map (lsPrb x u sym e layer))

/-- The estimate between two DMRS symbols: linear in the place of the symbol in the slot. -/
def between (a b y : Nat) (ha hb : W32 × W32) : W32 × W32 :=
  cAdd ha (cScale (f32Mul (f32Nat (y - a)) (f32Rcp (f32Nat (b - a)))) (cSub hb ha))

/-- The estimate at a symbol: held before the first DMRS symbol and after the last, linear between. -/
def inTime (es : List (Nat × (W32 × W32))) (y : Nat) : W32 × W32 :=
  match (es.filter fun e => decide (e.1 ≤ y)).getLast?, es.find? fun e => decide (y < e.1) with
  | some a, some b => between a.1 b.1 y a.2 b.2
  | some a, none => a.2
  | none, some b => b.2
  | none, none => (0, 0)

/-- The noise variance of a PRB, the `i`-th of the allocation: the mean square of its DMRS residuals over the streams and DMRS symbols. -/
def noiseVar (x : Cell) (u : UlPdu) (i : Nat) : W32 :=
  let prb := u.prbs.getD i 0
  let rs := (u.dmrs.map fun sym => (ulStreams x).map fun e => (List.range 12).filterMap fun k =>
    let ds := (List.range u.layers).filterMap fun l => ((Config.dmrs u.params l sym prb).getD k none).map fun w =>
      cMul ((dmrsEst x u e l sym).getD i (0, 0)) w
    if ds.isEmpty then none else some (cNorm (cSub (rxRe x sym e prb k) (cSum ds)))).flatten.flatten
  f32Mul (rSum rs) (f32Rcp (f32Nat rs.length))

/-- The channel of a PRB in a symbol: for each stream, its layers. -/
def channelAt (x : Cell) (u : UlPdu) (sym i : Nat) : List (List (W32 × W32)) :=
  (ulStreams x).map fun e => (List.range u.layers).map fun l =>
    inTime (u.dmrs.map fun d => (d % 16, (dmrsEst x u e l d).getD i (0, 0))) (sym % 16)

/-! ### Step 2: equalisation -/

/-- A row of the Cholesky factor under the rows above it: its values left of the diagonal, and the reciprocal of the diagonal. -/
def cholRow (rows : List (List (W32 × W32) × W32)) (a : List (W32 × W32)) : List (W32 × W32) × W32 :=
  let l := (List.range rows.length).foldl (fun (l : List (W32 × W32)) j =>
    let r := rows.getD j ([], 0)
    l ++ [cScale r.2 (cSub (a.getD j (0, 0)) (cSum (List.zipWith (fun p q => cMul p (cConj q)) l r.1)))]) []
  (l, f32Rsqrt (f32Sub (a.getD rows.length (0, 0)).1 (rSum (l.map cNorm))))

/-- The Cholesky factor of a Hermitian matrix. -/
def cholesky (m : List (List (W32 × W32))) : List (List (W32 × W32) × W32) := m.foldl (fun rows a => rows ++ [cholRow rows a]) []

/-- The solution z of L z = b. -/
def forward (rows : List (List (W32 × W32) × W32)) (b : List (W32 × W32)) : List (W32 × W32) :=
  (List.range rows.length).foldl (fun (z : List (W32 × W32)) i =>
    let r := rows.getD i ([], 0)
    z ++ [cScale r.2 (cSub (b.getD i (0, 0)) (cSum (List.zipWith cMul r.1 z)))]) []

/-- The solution x of Lᴴ x = z, from its last value back. -/
def backward (rows : List (List (W32 × W32) × W32)) (z : List (W32 × W32)) : List (W32 × W32) :=
  let n := rows.length
  (List.range n).foldl (fun (x : List (W32 × W32)) k =>
    let i := n - 1 - k
    let above := (List.range k).map fun j => cMul (cConj ((rows.getD (i + 1 + j) ([], 0)).1.getD i (0, 0))) (x.getD j (0, 0))
    cScale (rows.getD i ([], 0)).2 (cSub (z.getD i (0, 0)) (cSum above)) :: x) []

/-- The negative of a BF16 code. -/
def bfNeg (c : Nat) : Nat := if c < 0x8000 then c + 0x8000 else c - 0x8000

/-- The K group of a list of at most 32 BF16 values. -/
def bfGroup (cs : List Nat) : List SkewGroup := [skewGroup 0x6 1 ((cs ++ List.replicate 32 0).take 32) 0]

/-- A complex inner product of at most 16 BF16 values as four BF16 passes give it: the real and imaginary parts of a vector share one group
(log 101). -/
def bfDot (w v : List (Nat × Nat)) : W32 × W32 :=
  let col := bfGroup (v.map fun z => [z.1, z.2]).flatten
  ((dotProduct 0x6 0 (bfGroup (w.map fun z => [z.1, bfNeg z.2]).flatten) col).1,
   (dotProduct 0x6 0 (bfGroup (w.map fun z => [z.2, z.1]).flatten) col).1)

/-- A complex FP32 value as BF16 codes. -/
def bfOf (z : W32 × W32) : Nat × Nat := ((bf16Of (f32Val z.1)).toNat, (bf16Of (f32Val z.2)).toNat)

/-- Column `l` of a channel matrix. -/
def column (h : List (List (W32 × W32))) (l : Nat) : List (W32 × W32) := h.map fun r => r.getD l (0, 0)

/-- HᴴH + σ²I: the products on the lanes in FP32, of category B on the arrays in BF16. -/
def gram (catB : Bool) (h : List (List (W32 × W32))) (layers : Nat) (var : W32) : List (List (W32 × W32)) :=
  (List.range layers).map fun i => (List.range layers).map fun j =>
    let p := if catB then bfDot ((column h i).map fun z => bfOf (cConj z)) ((column h j).map bfOf)
      else cSum (List.zipWith (fun a b => cMul (cConj a) b) (column h i) (column h j))
    if i = j then (f32Add p.1 var, p.2) else p

/-- The layers of a resource element, each with the variance of the noise in it: maximum-ratio combining of one layer, MMSE of several. An MMSE
estimate is divided by its gain 1 − σ² (A⁻¹)ₗₗ. -/
def equalise (catB : Bool) (h : List (List (W32 × W32))) (layers : Nat) (var : W32) (y : List (W32 × W32)) : List ((W32 × W32) × W32) :=
  if layers = 1 then
    let g := f32Rcp (rSum ((column h 0).map cNorm))
    [(cScale g (cSum (List.zipWith (fun a b => cMul (cConj a) b) (column h 0) y)), f32Mul var g)]
  else
    let rows := cholesky (gram catB h layers var)
    let solve := fun b => backward rows (forward rows b)
    let xs := solve ((List.range layers).map fun l => cSum (List.zipWith (fun a b => cMul (cConj a) b) (column h l) y))
    (List.range layers).map fun l =>
      let unit := (List.range layers).map fun k => if k = l then ((0x3F800000 : W32), (0 : W32)) else (0, 0)
      let v := f32Mul var ((solve unit).getD l (0, 0)).1
      let g := f32Rcp (f32Sub 0x3F800000 v)
      (cScale g (xs.getD l (0, 0)), f32Mul v g)

/-! ### Step 3: demapping -/

/-- An LLR: to nearest even in units of 1/8 of a natural-log ratio, saturated to ±127. -/
def llrOf (x : W32) : Int := satLlr (f32ToInt (f32Mul x 0x41000000)).toInt

/-- The least squared distance of a value from the points of a constellation of `bits` bits whose label has bit `k` as given, bit 0 the first. -/
def nearest (bits k : Nat) (one : Bool) (z : W32 × W32) : W32 :=
  (((List.range (2 ^ bits)).filter fun v => v.testBit (bits - 1 - k) == one).map fun v => cNorm (cSub z (Config.constellation bits v))).foldl f32Min 0x7F800000

/-- The max-log LLRs of a value with a noise variance; positive for a 0. -/
def demap (bits : Nat) (z : (W32 × W32) × W32) : List Int :=
  (List.range bits).map fun k => llrOf (f32Mul (f32Sub (nearest bits k true z.1) (nearest bits k false z.1)) (f32Rcp z.2))

/-- The LLRs of a PRB of a symbol, the `i`-th of the allocation: by subcarrier, layer and bit; 0 where the PRB is absent. -/
def prbLlrs (x : Cell) (u : UlPdu) (sym i : Nat) : List Int :=
  let prb := u.prbs.getD i 0
  let catB := match x.bind_ with | some b => b.catB | none => false
  let res := Config.dataRes u.params sym prb
  if prbAbsent x sym prb then List.replicate (res.length * u.layers * u.bits) 0
  else
    let h := channelAt x u sym i
    let var := noiseVar x u i
    (res.map fun k =>
      ((equalise catB h u.layers var ((ulStreams x).map fun e => rxRe x sym e prb k)).map (demap u.bits)).flatten).flatten

/-- The LLRs of an allocation, by symbol and PRB. -/
def allLlrs (x : Cell) (u : UlPdu) : List Int :=
  (u.syms.map fun sym => ((List.range u.prbs.length).map (prbLlrs x u sym)).flatten).flatten

/-- A PRB of the allocation is absent (13 R296). -/
def lacksPrb (x : Cell) (u : UlPdu) : Bool := u.syms.any fun sym => u.prbs.any (prbAbsent x sym)

end Sys2Proof.Machine
end

