-- ==== Sys2Proof/Machine/Phy.lean ====
section
/-!
DEFINITION. The radio work of a slot: PUSCH from its LLRs to its indications (13 R282, R283), PUCCH (R284), random access (R285), and the
downlink chains up to 16-bit samples (R286). What TS 38.211 to 38.214 define is a free function of Config (log 101).
-/
namespace Sys2Proof.Machine

/-! ### Blocks on the engines (R282 step 4, R286 step 2, R288) -/

/-- A list cut into pieces of `n`. -/
def pieces {α : Type} (n : Nat) (l : List α) : List (List α) := (List.range (l.length / n)).map fun i => (l.drop (n * i)).take n

/-- LLRs as the bytes an engine reads. -/
def llrBytes (ls : List Int) : List Byte := ls.map (BitVec.ofInt 8)

/-- Packed bits, the first in bit 7 of the first byte (log 101). -/
def bitsOfBytes (bs : List Byte) : List Nat := (bs.map fun (b : Byte) => (List.range 8).map fun i => bit1 (b.getLsbD (7 - i))).flatten

/-- LDPC decoding of the code blocks of a PDU: their outputs, and whether the CRC of every block that carries one passes. -/
def ldpcDecode (j : CodeJob) (llrs : List Int) : List (List Byte) × Bool :=
  let job := { j with op := 1 }
  let rs := (pieces (codeInBytes job) llrs).map fun b => codeResult job (llrBytes b)
  (rs.map (·.1), j.crc == 0 || rs.all fun r => r.2.testBit 1)

/-- Uplink symbols of a cell have been processed in time: they have closed, their slot ran no twilight, and the tick is at most `lag` after
that in which the last of them closed (R281, R298). -/
def ulInTime (s : State) (x : Cell) (first : Nat) (syms : List Nat) (lag : Nat) : Bool :=
  x.active && syms.all x.closed.contains && !x.twRan.contains first &&
  decide (s.tkp.now ≤ closeBeat s x (syms.foldl max 0) / 1250 + lag)

/-- The PUSCH of a user and HARQ process in a slot, of its UL_TTI.request. -/
def puschOf (x : Cell) (first rnti harq : Nat) : Option UlPdu :=
  (NMap.find? x.ul first).bind fun m => m.uls.find? fun u => u.rnti == rnti && u.harq == harq

/-- An uplink block has been processed: the HARQ pool, CRC.indication and, when it passes, RX_Data.indication with its bytes (R281 to R283,
R296). -/
def puschDone (s : State) (c first rnti harq : Nat) : State :=
  let x := cellAt s c
  match puschOf x first rnti harq with
  | none => s
  | some u =>
    if !ulInTime s x first u.syms 8 then s
    else
      let buf := harqSum s x u (Config.deRateMatch u.params (allLlrs x u))
      let d := ldpcDecode u.job buf
      let tb := Config.transportBlock u.params d.1
      let ok := d.2 && tb.1
      let r := harqStore s c u buf
      let s1 := if ok then harqFree r.1 c (harqKey u.rnti u.harq) else r.1
      let reason := if lacksPrb x u then 1 else if r.2 then 5 else 0
      let s2 := cellInd (ulServed s1 c first rnti harq) c .crc first .ok stOk reason [u.rnti, u.harq, bit1 ok]
      if ok then cellInd s2 c .rxData first .ok stOk reason ([u.rnti, u.harq] ++ tb.2.map (·.toNat)) else s2

/-! ### Uplink control (R284) -/

/-- The payload value whose sequence correlates best, the least of equals, with its correlation. -/
def bestSequence (params : List Nat) (rx : List (Int × Int)) (n : Nat) : Nat × Int :=
  (List.range n).foldl (fun best v =>
    let p := power (correlate rx (Config.pucchSequence params v))
    if best.2 < p then (v, p) else best) (0, 0)

/-- Formats 0 and 1: the payload value detected, if any. -/
def detectUci (u : UciPdu) (rx : List (Int × Int)) : Option Nat :=
  let b := bestSequence u.params rx (2 ^ u.bits)
  if (Config.pucchThreshold u.params : Int) * energy rx * energy (Config.pucchSequence u.params b.1) < 256 * b.2 then some b.1 else none

/-- Formats 2 to 4: Reed–Muller for 3 to 11 bits, the polar engines for 12 bits or more. -/
def decodeUci (u : UciPdu) (llrs : List Int) : List Nat :=
  if 12 ≤ u.bits then
    let job := { u.job with op := 3 }
    (bitsOfBytes (Config.codeOut (codeArgs job) (llrBytes (Config.deRateMatch u.params llrs)))).take u.bits
  else Config.reedMuller u.bits llrs

/-- The samples of received PRBs, by their keys; an absent one gives none. -/
def rxOf (x : Cell) (prbs : List Nat) : List (List Int) := prbs.map fun k => NMap.getD x.rxIq k []

/-- The LLRs of a PUCCH of format 2 to 4; those of an absent PRB are 0. -/
def uciLlrs (x : Cell) (u : UciPdu) : List Int :=
  ((List.range u.prbs.length).map fun i =>
    let soft := (Config.softBits u.params (rxOf x u.prbs) i).map llrOf
    if (NMap.find? x.rxIq (u.prbs.getD i 0)).isSome then soft else soft.map fun _ => 0).flatten

/-- What a PUCCH carries: whether it is detected, then its bits. -/
def uciOf (x : Cell) (u : UciPdu) : List Nat :=
  if u.format ≤ 1 then
    match detectUci u ((rxOf x u.prbs).map iqPairs).flatten with
    | some v => 1 :: (List.range u.bits).map fun i => bit1 (v.testBit i)
    | none => [0]
  else 1 :: decodeUci u (uciLlrs x u)

/-- The symbols of received PRBs, by their keys. -/
def symsOf (prbs : List Nat) : List Nat := prbs.map fun k => k / 2 ^ 32

/-- PUCCH `i` of a slot has been processed. -/
def uciDone (s : State) (c first i : Nat) : State :=
  let x := cellAt s c
  match (NMap.find? x.ul first).bind fun m => m.ucis[i]? with
  | some u => if ulInTime s x first (symsOf u.prbs) 4 then cellInd s c .uci first .ok stOk 0 (uciOf x u) else s
  | none => s

/-- SRS `i` of a slot has been processed: the channel estimate of its user. -/
def srsDone (s : State) (c first i : Nat) : State :=
  let x := cellAt s c
  match (NMap.find? x.ul first).bind fun m => m.srss[i]? with
  | some u =>
    let est := Config.srsEstimate u.params (rxOf x u.prbs)
    if ulInTime s x first (symsOf u.prbs) 4 then
      cellInd (modCell s c fun x => { x with srs := NMap.insert x.srs u.rnti est }) c .srs first .ok stOk 0 (u.rnti :: est.map (·.toNat))
    else s
  | none => s

/-! ### Random access (R285) -/

/-- The earliest position of the greatest value of a list. -/
def peakPos (ps : List Nat) : Nat := ps.findIdx (· == ps.foldl max 0)

/-- The cyclic-shift windows of an occasion, each from the power delay profile against its root: its peak and the first position of it, and its
mean in whole units of power. -/
def rachWins (x : Cell) (u : RefPdu) : List RachWin :=
  let rx := rxOf x u.prbs
  (Config.rachWindows u.params).map fun w =>
    let ps := ((Config.delayProfile u.params w.2.1 rx).drop w.2.2.1).take w.2.2.2
    ⟨w.1, ps.foldl max 0, ps.sum / ps.length, w.2.2.1 + peakPos ps⟩

/-- PRACH occasion `i` of a slot has been processed. -/
def rachDone (s : State) (c first i : Nat) : State :=
  let x := cellAt s c
  match x.bind_, (NMap.find? x.ul first).bind fun m => m.rachs[i]? with
  | some b, some u =>
    if ulInTime s x first (symsOf u.prbs) 8 then
      cellInd s c .rach first .ok stOk 0 ((rachDetect b.prachThr b.prachPmr (rachWins x u)).map fun w => [w.index, w.pos, w.peak]).flatten
    else s
  | _, _ => s

/-! ### Downlink (R286) -/

/-- Conversion to 16 bits with saturation. -/
def int16Of (x : W32) : Int := clampInt (f32ToInt x).toInt (-32768) 32767

/-- The vector of antenna streams of a vector of layers; a category B cell sends its layers as streams, and their weights on the
C-plane (12 R261; log 101). -/
def streamsOf (catB : Bool) (prg : List (List (Nat × Nat))) (v : List (Nat × Nat)) : List (Int × Int) :=
  if catB then v.map fun z => (int16Of (f32Of (bf16Val (BitVec.ofNat 16 z.1))), int16Of (f32Of (bf16Val (BitVec.ofNat 16 z.2))))
  else prg.map fun w => (int16Of (bfDot w v).1, int16Of (bfDot w v).2)

/-- Steps 1 to 4: the modulation symbols of a PDU from its payload, LDPC-encoded for a PDSCH and polar-encoded for a PDCCH or PBCH; a
reference signal's are its sequence. -/
def dlSymbols (p : DlPdu) (payload : List Byte) : List (Nat × Nat) :=
  let coded := fun (op : Nat) =>
    Config.modulate p.params (Config.rateMatch p.params ((Config.segments p.params payload).map fun b => (codeResult { p.job with op := op } b).1))
  match p.kind with
  | .reference => Config.sequence p.params
  | .pdsch => coded 2
  | _ => coded 4

/-- The payload that TX_Data.request has given a PDU of a slot. -/
def dataOf (x : Cell) (first index : Nat) : Option (List Byte) :=
  (NMap.find? x.tx first).bind fun m => (m.data.find? fun d => d.1 == index).map (·.2)

/-- The resource elements of a downlink PDU of a slot take their 16-bit values, in the slot's lead tick or later (R275, R286 steps 5 to 7); a
PDSCH that lacks its payload carries zero (R278). -/
def downlinkDone (s : State) (c first index : Nat) : State :=
  let x := cellAt s c
  match (NMap.find? x.dl first).bind fun m => m.dls.find? fun p => p.index == index with
  | none => s
  | some p =>
    if !x.started ∨ s.tkp.now + leadTicks s x < first ∨ x.twRan.contains first then s
    else
      let catB := match x.bind_ with | some b => b.catB | none => false
      let data := dataOf x first index
      let lacks := p.kind == .pdsch && data.isNone
      let vs := Config.layerMap p.layers (dlSymbols p (if p.kind = .pdsch then data.getD [] else p.payload))
      let put := fun (m : NMap (Int × Int)) (e : (Nat × Nat × Nat) × List (Nat × Nat)) =>
        let ys := streamsOf catB (p.prgs.getD e.1.2.1 []) e.2
        (List.range ys.length).foldl (fun m i =>
          NMap.insert m (reKey (16 * first + e.1.1) i e.1.2.2) (if lacks then (0, 0) else ys.getD i (0, 0))) m
      modCell s c fun y => { y with txIq := (List.zip p.res vs).foldl put y.txIq }

/-! ### The work of a slot -/

/-- What the radio work of a slot does when it is complete (R281 to R286). -/
def radioOut (s : State) : RadioOut → State
  | .pusch c first rnti harq => puschDone s c first rnti harq
  | .uci c first i => uciDone s c first i
  | .srs c first i => srsDone s c first i
  | .rach c first i => rachDone s c first i
  | .downlink c first index => downlinkDone s c first index

end Sys2Proof.Machine
end

