-- ==== Sys2Proof/Machine/Radio.lean ====
section
/-!
DEFINITION. Layer 2: FAPI requests and their deadlines, activation and stop of cells, and the FAPI ring pairs (13 R273 to
R280, R293, R294, R298, R299).
-/
namespace Sys2Proof.Machine

/-! ### Taking a message (R276 to R278) -/

/-- The FAPI message IDs of the requests: those that R276 gives, and of SCF222 for the rest (log 24). -/
def fapiRequests : List Nat := [0x00, 0x02, 0x04, 0x05, 0x80, 0x81, 0x83, 0x84, 0x180, 0x181]

/-- The entry of a request ring that is next: the address, length and ID of its message. -/
def ringEntry (s : State) (p : Phy) : Nat × Nat × Nat :=
  let e := hostRead s none (p.reqRing + 16 * (p.reqHead % p.entries)) 16
  (fieldAt e 0 8, fieldAt e 8 4, fieldAt e 12 2)

/-- The ID under which an entry is taken: that of a message with a header in the message area; an entry that names no such message counts as
one of another ID (log 24). -/
def entryId (p : Phy) (e : Nat × Nat × Nat) : Option Nat :=
  if fapiRequests.contains e.2.2 ∧ e.1 % 8 = 0 ∧ p.msgBase ≤ e.1 ∧ e.1 + e.2.1 ≤ p.msgBase + p.msgBytes ∧ 8 ≤ e.2.1 then some e.2.2 else none

/-- The oldest request of a PHY's ring is consumed if it is of an ID, `none` for every ID that is not supported: `f` gets the tick in which
it arrived and the message as copied. With none waiting, and while ring entries are not read (23 R500), nothing happens (log 8). -/
def takeFapi (s : State) (phy : Nat) (id : Option Nat) (f : Nat → List Byte → State → State) : State :=
  match NMap.find? s.rad.phys phy with
  | none => s
  | some p =>
    match p.arrivals with
    | [] => s
    | t :: rest =>
      let e := ringEntry s p
      if s.rad.noL2Bus ∨ entryId p e ≠ id then s
      else
        let p' : Phy := { p with arrivals := rest, reqHead := (p.reqHead + 1) % 2 ^ 16 }
        f t (if id.isSome then devRead s e.1 e.2.1 else []) { s with rad := { s.rad with phys := NMap.insert s.rad.phys phy p' } }

/-- A request for a cell of the instance: `f` gets the tick of arrival and the message; a cell outside the instance is refused. -/
def withCell (s : State) (m : FapiMsg) (id : Nat) (f : Nat → List Byte → State → State) : State :=
  takeFapi s m.phy (some id) fun t msg x =>
    match NMap.find? x.rad.phys m.phy with
    | none => x
    | some p =>
      if p.cells.getLsbD m.cell ∧ m.cell < 192 then f t msg (modCell x m.cell fun c => { c with phy := some m.phy })
      else errInd x m.phy m.cell m.sfn m.slot .invalidState stInvalid 0

/-- A configuration request for a cell that is not active, with the bytes after the message header; otherwise ERROR.indication
MSG_INVALID_STATE (R278). -/
def whileIdle (s : State) (m : FapiMsg) (id : Nat) (f : List Byte → State → State) : State :=
  withCell s m id fun _ msg x =>
    if (cellAt x m.cell).active then errInd x m.phy m.cell m.sfn m.slot .invalidState stInvalid 0 else f (msg.drop 8) x

/-- A response to a configuration request. -/
def respInd (s : State) (m : FapiMsg) (k : IndKind) (e : FapiErr) : State :=
  postInd s ⟨m.phy, k, m.cell, m.sfn, m.slot, e, stOk, 0, []⟩

/-- PARAM.request is answered. -/
def execParamRequest (m : FapiMsg) (s : State) : Out := .next (takeFapi s m.phy (some 0x00) fun _ _ x => respInd x m .param .ok)

/-- CONFIG.request: the configuration of an inactive cell, in force from its seam on; whether it keeps R273 counts at START. -/
def execConfigRequest (m : FapiMsg) (cfg : CellConfig) (s : State) : Out :=
  .next (whileIdle s m 0x02 fun _ x => respInd (cellSet x m.cell (.config cfg)) m .config .ok)

/-- A request of a cell of a PHY that carries nothing beside its body. -/
def bareMsg (phy cell : Nat) : FapiMsg :=
  { phy := phy, cell := cell, sfn := 0, slot := 0, dls := [], uls := [], ucis := [], srss := [], rachs := [], data := [], body := [] }

/-- The body of CELL_BIND.request keeps R279. -/
def bindOk (s : State) (cell : Nat) (b : List Byte) : Bool :=
  let f := fieldAt b
  let top := if f 3 1 % 2 = 1 then 16 else 8
  decide (b.length = 48 ∧ f 0 2 = cell ∧ f 2 1 ≤ 7 ∧ f 3 1 / 2 = 0 ∧ f 4 4 ≤ 81919 ∧ 1 ≤ f 8 2 ∧ f 8 2 ≤ top ∧ 1 ≤ f 10 2 ∧ f 10 2 ≤ top ∧
    f 14 2 = 0 ∧ f 24 8 % 2 ^ 21 = 0 ∧ 1 ≤ f 32 4 ∧ f 32 4 ≤ 4096 ∧ f 24 8 + 2 ^ 20 * f 32 4 ≤ interI s ∧ f 36 4 = 0)

/-- The binding that a body gives; the eAxC IDs stand in device memory (log 24). -/
def bindOf (s : State) (b : List Byte) : CellBind :=
  let f := fieldAt b
  let ids := devRead s (f 16 8) (2 * (f 8 2 + f 10 2))
  { port := f 2 1, catB := f 3 1 % 2 == 1, frameOffset := f 4 4, dl := f 8 2, ul := f 10 2, prachThr := f 12 1, prachPmr := f 13 1,
    eaxc := (List.range (f 8 2 + f 10 2)).map fun i => fieldAt ids (2 * i) 2, harqBase := f 24 8, harqMib := f 32 4, agcPtr := f 40 8 }

/-- CELL_BIND.request: a body outside R279 is answered with MSG_INVALID_CONFIG and binds nothing (log 24). -/
def execCellBindRequest (phy cell : Nat) (s : State) : Out :=
  let m := bareMsg phy cell
  .next (whileIdle s m 0x180 fun b x =>
    if bindOk x m.cell b then respInd (cellSet x m.cell (.bound (bindOf x b))) m .cellBind .ok else respInd x m .cellBind .invalidConfig)

/-- The body of TWILIGHT_CFG.request keeps R298. -/
def twilightOk (b : List Byte) : Bool :=
  decide (b.length = 64 ∧ fieldAt b 0 2 ≤ 600 ∧ fieldAt b 2 1 ≤ 4 ∧ fieldAt b 3 1 = 0 ∧ fieldAt b 7 1 = 0)

/-- The holdover content that a body gives, with the payloads as they stand in device memory when the template is compiled (log 24). -/
def twilightOf (s : State) (b : List Byte) : TwilightCfg :=
  let pay := fun (a : Nat) => devRead s a (Config.sibLength a)
  { holdS := fieldAt b 0 2, mib := fieldAt b 4 3, sib1 := pay (fieldAt b 8 8),
    si := (List.range (fieldAt b 2 1)).map fun i => (pay (fieldAt b (16 + 12 * i) 8), fieldAt b (24 + 12 * i) 2, fieldAt b (26 + 12 * i) 2) }

/-- TWILIGHT_CFG.request: the holdover content of a cell, of which the template is compiled (R298). -/
def execTwilightCfgRequest (phy cell : Nat) (s : State) : Out :=
  let m := bareMsg phy cell
  .next (whileIdle s m 0x181 fun b x =>
    if twilightOk b then respInd (cellSet x m.cell (.twilight (twilightOf x b))) m .twilightCfg .ok else respInd x m .twilightCfg .invalidConfig)

/-- FAPI_MESSAGE_UNSUPPORTED: any other message ID (R276). -/
def execFapiMessageUnsupported (phy msgId : Nat) (s : State) : Out :=
  .next (takeFapi s phy none fun _ _ x => postInd x ⟨phy, .error, 0, 0, 0, .invalidState, stInvalid, 0, [msgId]⟩)

/-! ### START.request (R273, R278, R293, R294) -/

/-- A cell carries time-domain IQ: it has a symbol-word ring (R279). -/
def bindTd (b : CellBind) : Bool := b.agcPtr != 0

/-- The FFT size of a configuration: its samples in 10 ms over the 150 x 2^μ bodies of a subcarrier's period. -/
def fftSize (c : CellConfig) : Nat := c.samplesPer10ms / (150 * 2 ^ c.mu)

/-- Tile-cycles of a cell over one run of its pattern, and the ticks of that run, both 49,152 times: 4,096 log2 4,096, on which the front end scales (R293). -/
def cellCost (b : CellBind) (c : CellConfig) : Nat × Nat :=
  let ticks := c.tdd.length * slotTicks c.mu
  let dl := (c.tdd.map (·.1)).foldl (· + ·) 0
  let ul := (c.tdd.map (·.2)).foldl (· + ·) 0
  let sym := if b.catB then c.prbs * (360 * dl + 800 * ul) else c.prbs * ((8 + 12 * b.dl) * dl + (20 + 30 * b.ul) * ul)
  let n := fftSize c
  let td := if (bindTd b) then 14 * (b.dl + b.ul) * c.tdd.length * 4240 * n * n.log2 else 0
  (49152 * (sym + 1400 * ticks) + td, 49152 * ticks)

/-- A sum of ratios. -/
def addRatio (a b : Nat × Nat) : Nat × Nat := (a.1 * b.2 + b.1 * a.2, a.2 * b.2)

/-- The cells that run or are about to, with one more. -/
def cellsWith (s : State) (c : Nat) : List (Nat × Cell) :=
  (s.rad.cells.filter fun e => e.1 == c || e.2.started).map fun e => (e.1, e.2.settled)

/-- The levelled floor at full load keeps the cap of 64 tiles with one more cell. -/
def floorFits (s : State) (c : Nat) : Bool :=
  let costs := (cellsWith s c).filterMap fun e => match e.2.bind_, e.2.cfg with | some b, some g => some (cellCost b g) | _, _ => none
  let t := costs.foldl addRatio (0, 1)
  decide (t.1 ≤ 64 * 287275 * t.2)

/-- Streams of the started cells of a port in a direction, with one more cell. -/
def portStreams (s : State) (c p : Nat) (dir : CellBind → Nat) : Nat :=
  ((cellsWith s c).map fun e => match e.2.bind_ with | some b => if b.port = p then dir b else 0 | none => 0).foldl (· + ·) 0

/-- A configuration of category A, or B, lies within R273. -/
def configOk (catB : Bool) (g : CellConfig) : Bool :=
  let top := if catB then 16 else 4
  let mods := [1, 2, 4, 6, 8, 10]
  decide (g.mu ≤ 3 ∧ g.carriers = 1 ∧ 1 ≤ g.prbs ∧ g.prbs ≤ 273 ∧ 1 ≤ g.dlLayers ∧ g.dlLayers ≤ top ∧ 1 ≤ g.ulLayers ∧ g.ulLayers ≤ top) &&
  mods.contains g.dlMod && mods.contains g.ulMod && (!g.fdd || g.tdd.length == 1) && !g.tdd.isEmpty &&
  g.tdd.all (fun t => decide (t.1 ≤ 14 ∧ t.2 ≤ 14)) &&
  g.channels.all fun c => match c with | .pucch f => decide (f ≤ 4) | .other => false | _ => true

/-- The conditions on which START.request is refused do not hold. -/
def startOk (s : State) (c : Nat) : Bool :=
  let x := (cellAt s c).settled
  match x.bind_, x.cfg with
  | some b, some g =>
    let port := fhAt s b.port
    let top := if b.catB then 16 else 8
    let lim := if port.mode.applied = 2 then 512 else 256
    configOk b.catB g && decide (b.port < 8 ∧ 1 ≤ b.dl ∧ b.dl ≤ top ∧ 1 ≤ b.ul ∧ b.ul ≤ top) && b.eaxc.length == b.dl + b.ul &&
    port.kind.applied == bit1 (bindTd b) && decide (portStreams s c b.port (·.dl) ≤ lim ∧ portStreams s c b.port (·.ul) ≤ lim) &&
    (!(bindTd b) || g.samplesPer10ms % tdSamples port == 0) &&
    decide (((cellsWith s c).filter fun e => match e.2.bind_ with | some z => z.catB | none => false).length ≤ 32) && floorFits s c
  | _, _ => false

/-- GDDR7 bandwidth that a cell reserves, in 0.1 GB/s (R294). -/
def cellBw (b : CellBind) : Nat := if (bindTd b) then 45 else if b.catB then 120 else 20

/-- START.request: the cell becomes active from the first slot whose lead tick is at least 10 ticks after arrival. -/
def execStartRequest (m : FapiMsg) (s : State) : Out :=
  .next (withCell s m 0x04 fun t _ x =>
    let c := (cellAt x m.cell).settled
    if c.started then errInd x m.phy m.cell m.sfn m.slot .invalidState stInvalid 0
    else if !startOk x m.cell then errInd x m.phy m.cell m.sfn m.slot .invalidConfig stInvalid 0
    else
      modCell x m.cell fun y => { y with startAt := some (firstSlotFrom x c (t + 10)), mode := 3, stopAt := none,
                                         bw := match c.bind_ with | some b => cellBw b | none => 0 })

/-- CELL_ACTIVATE: a started cell becomes active at the first tick of its first slot. -/
def execCellActivate (cell : Nat) (s : State) : Out :=
  match (cellAt s cell).startAt with
  | some a =>
    if a ≤ s.tkp.now then
      let s1 := modCell s cell fun y => { y with active := true, startAt := none, mode := 3 }
      .next (slotBegins s1 cell)
    else .next s
  | none => .next s

/-! ### Stopping (R277) -/

/-- STOP.request names the last slot of a cell (20 R454): the cell goes OFF at the end of that slot. A cell whose first slot
has not begun goes OFF at once. -/
def execStopRequest (m : FapiMsg) (s : State) : Out :=
  .next (withCell s m 0x05 fun t _ x =>
    let c := (cellAt x m.cell).settled
    if !c.started then errInd x m.phy m.cell m.sfn m.slot .invalidState stInvalid 0
    else if !c.active then goOff x m.cell 5 true
    else modCell x m.cell fun y => { y with stopAt := some (slotNamed x c m.sfn m.slot t + slotTicks c.mu), stopReason := 5 })

/-- CELL_STOP: a cell whose stop tick has come goes OFF; the close of its instance is DONE with its last cell. -/
def execCellStop (cell : Nat) (s : State) : Out :=
  let x := cellAt s cell
  if x.started ∧ dueBy x.stopAt s.tkp.now then .next (goOff s cell x.stopReason (x.stopReason == 5)) else .next s

/-- TWILIGHT_HOLD_EXPIRY: a twilight run reaches HOLD_S. -/
def execTwilightHoldExpiry (cell : Nat) (s : State) : Out :=
  let x := cellAt s cell
  match x.runStart with
  | some t =>
    if x.mode = 2 ∧ t + x.holdS * ticksPerSec ≤ s.tkp.now then .next (goOff s cell 3 true) else .next s
  | none => .next s

/-! ### Slot requests (R278, R280) -/

/-- Every request of a slot that has been taken is discarded and reported as late, each one. -/
def discardSlot (s : State) (phy c a : Nat) : State :=
  let x := cellAt s c
  let n := sfnSlot x a
  let s1 := modCell s c fun y => { y with dl := NMap.erase y.dl a, ul := NMap.erase y.ul a, dci := NMap.erase y.dci a, tx := NMap.erase y.tx a,
                                          took := NMap.erase y.took a, late := addSet y.late a }
  iter (fun y => errInd y phy c n.1 n.2 .slotErr stLate 6) (NMap.getD x.took a 0) s1

/-- A request of a slot is taken. -/
def Cell.tookOne (x : Cell) (a : Nat) : Cell := { x with took := NMap.insert x.took a (NMap.getD x.took a 0 + 1) }

/-- What becomes of a request for a slot: taken by `put` with the message, early, late, or refused. -/
def slotRequest (s : State) (m : FapiMsg) (id : Nat) (put : Nat → FapiMsg → Cell → Cell) : State :=
  withCell s m id fun t msg x =>
    let c := (cellAt x m.cell).settled
    let a := slotNamed x c m.sfn m.slot t
    let lead := leadTicks x c
    if !c.started ∨ (match c.startAt with | some st => decide (a < st) | none => false) = true ∨
       (match c.stopAt with | some e => decide (e ≤ a) | none => false) = true then
      errInd x m.phy m.cell m.sfn m.slot .invalidState stInvalid 0
    else if 1024 ≤ m.sfn ∨ 80 / slotTicks c.mu ≤ m.slot ∨ t + 80 + lead < a then
      errInd x m.phy m.cell m.sfn m.slot .invalidSfn stInvalid 0
    else if a < t + 10 + lead then
      let x1 := discardSlot (errInd x m.phy m.cell m.sfn m.slot .slotErr stLate 6) m.phy m.cell a
      { x1 with rad := { x1.rad with lateCount := satAdd 32 x1.rad.lateCount 1 } }
    else if c.late.contains a then errInd x m.phy m.cell m.sfn m.slot .slotErr stLate 6
    else modCell x m.cell fun y => (put a { m with body := msg } y).tookOne a

/-- DL_TTI.request. -/
def execDlTtiRequest (m : FapiMsg) (s : State) : Out :=
  .next (slotRequest s m 0x80 fun a m c => { c with dl := NMap.insert c.dl a m, noReq := c.noReq.filter (· ≠ a) })
/-- UL_TTI.request. -/
def execUlTtiRequest (m : FapiMsg) (s : State) : Out := .next (slotRequest s m 0x81 fun a m c => { c with ul := NMap.insert c.ul a m })
/-- UL_DCI.request. -/
def execUlDciRequest (m : FapiMsg) (s : State) : Out := .next (slotRequest s m 0x83 fun a m c => { c with dci := NMap.insert c.dci a m })

/-- TX_Data.request: the payload of a slot's PDUs, in its lead tick or earlier; payload that comes later finds its PDUs reported
by the deadline. -/
def execTxDataRequest (m : FapiMsg) (s : State) : Out :=
  .next (withCell s m 0x84 fun t msg x =>
    let c := (cellAt x m.cell).settled
    let a := slotNamed x c m.sfn m.slot t
    if !c.started then errInd x m.phy m.cell m.sfn m.slot .invalidState stInvalid 0
    else if 1024 ≤ m.sfn ∨ 80 / slotTicks c.mu ≤ m.slot then errInd x m.phy m.cell m.sfn m.slot .invalidSfn stInvalid 0
    else if c.late.contains a then errInd x m.phy m.cell m.sfn m.slot .slotErr stLate 6
    else if a < t + leadTicks x c then x
    else
      modCell x m.cell fun y =>
        let old := match NMap.find? y.tx a with | some o => o.data | none => []
        Cell.tookOne { y with tx := NMap.insert y.tx a { m with data := m.data ++ old, body := msg } } a)

/-- SLOT_REQUEST_DEADLINE: at tick L − 10 a slot without DL_TTI.request is set to run twilight. -/
def execSlotRequestDeadline (cell first : Nat) (s : State) : Out :=
  let x := (cellAt s cell).settled
  if x.started ∧ first ≤ s.tkp.now + 10 + leadTicks s x ∧ (NMap.find? x.dl first).isNone ∧ !x.late.contains first then
    .next (modCell s cell fun y => { y with noReq := addSet y.noReq first })
  else .next s

/-- TX_DATA_DEADLINE: at tick L each PDU that lacks its payload is not transmitted, and MSG_TX_ERR names it. -/
def execTxDataDeadline (cell first : Nat) (s : State) : Out :=
  let x := cellAt s cell
  match NMap.find? x.dl first with
  | none => .next s
  | some m =>
    if first ≤ s.tkp.now + leadTicks s x ∧ x.started ∧ !x.late.contains first ∧ !x.noData.contains first then
      let miss := (m.dls.filter fun p => p.kind == .pdsch && (dataOf x first p.index).isNone).map fun p => p.index
      let s1 := if miss.isEmpty then s else modCell s cell fun y => { y with noData := addSet y.noData first }
      .next (miss.foldl (fun y p => cellInd y cell .error first .txErr stLate 0 [p]) s1)
    else .next s

/-! ### Ring pairs (R277) -/

/-- The offset in BAR0 of a PHY's doorbell: HST_SQ_DB of slot 512 + PHY. -/
def phyDoorbell (phy : Nat) : Nat := 0x110000 + 16 * (512 + phy)

/-- The checks of RAD_L2_OPEN on its areas and fields. -/
def l2Ok (s : State) (r : JRec) : Bool :=
  let n := r.par 2 2
  let base := r.par 24 8
  let len := r.par 32 4
  r.params.length == 64 && decide (r.par 0 1 < 8) && r.par 1 1 == 0 && r.zeros 4 4 && r.zeros 36 4 &&
  [256, 512, 1024, 2048, 4096].contains n && r.par 8 8 % 64 == 0 && r.par 16 8 % 64 == 0 && base % 2 ^ 21 == 0 &&
  decide (0 < len) && len % 2 ^ 21 == 0 && decide (len ≤ 2 ^ 28 ∧ base + len ≤ interI s) &&
  !s.mem.hostBias.any (fun p => decide (base / 2 ^ 21 ≤ p ∧ p < (base + len) / 2 ^ 21))

/-- RAD_L2_OPEN (opcode 0x0300): VALUE returns the doorbell's offset. -/
def execRadL2Open (q seq : Nat) (s : State) : Out :=
  .next (withCmd s q seq 0x0300 fun r s =>
    let phy := r.par 0 1
    let cells := BitVec.ofNat 192 (r.par 40 24)
    if !l2Ok s r then finish s q seq stInvalid 0
    else if (NMap.find? s.rad.phys phy).isSome then finish s q seq stBusy 0
    else if s.rad.phys.any fun (p : Nat × Phy) => p.2.cells &&& cells != 0 then finish s q seq stInvalid 0
    else
      let p : Phy := { entries := r.par 2 2, reqRing := r.par 8 8, indRing := r.par 16 8, msgBase := r.par 24 8, msgBytes := r.par 32 4,
                       cells := cells, indTail := 0, indHead := 0, reqTail := 0, reqHead := 0, arrivals := [], closing := none }
      finish { s with rad := { s.rad with phys := NMap.insert s.rad.phys phy p } } q seq stOk (BitVec.ofNat 64 (phyDoorbell phy)))

/-- RAD_L2_CLOSE (opcode 0x0301): every cell of the instance stops at the first slot whose lead tick is at least 10 ticks after
the close, and the command is DONE with the last of them; a close during a close is BUSY (log 24). -/
def execRadL2Close (q seq : Nat) (s : State) : Out :=
  .next (withCmd s q seq 0x0301 fun r s =>
    let phy := r.par 0 1
    match NMap.find? s.rad.phys phy with
    | none => finish s q seq stInvalid 0
    | some p =>
      if r.params.length ≠ 1 then finish s q seq stInvalid 0
      else if p.closing.isSome then finish s q seq stBusy 0
      else
        let s1 : State := { s with rad := { s.rad with phys := NMap.insert s.rad.phys phy { p with closing := some (q, seq) } } }
        let mine := s1.rad.cells.filter fun c => c.2.phy == some phy && c.2.started
        let s2 := mine.foldl (fun x c =>
          if c.2.active then modCell x c.1 fun y => { y with stopAt := some (firstSlotFrom x y (x.tkp.now + 10)), stopReason := 4 }
          else goOff x c.1 4 false) s1
        settlePhy s2 phy)

end Sys2Proof.Machine
end

