-- ==== Sys2Proof/Machine/MgmtOps.lean ====
section
/-!
DEFINITION. What the management commands share: responses on the sideband (22 R476, R477, R481), the recorder's persistence (R487, R489)
and loading the anchor (R488, R490).
-/
namespace Sys2Proof.Machine

/-- A response on the sideband: MCTP message type, status or completion code, and body. -/
def respond (s : State) (type status : Nat) (body : List Byte) : State :=
  { s with evr := { s.evr with resp := (type, status, body) :: s.evr.resp } }

/-- The response to a vendor message: its header, a status in the layout of 16 R364, and data (R481). -/
def vendorReply (s : State) (cmd status : Nat) (data : List Byte) : State :=
  respond s 0x7F status (beBytes 4 Config.vendorIana.toNat ++ leBytes 1 cmd ++ leBytes 1 0 ++ leBytes 2 (withClass s status) ++ data)

/-- A vendor message that the SP serves, from SP ROM start. -/
def vendorSp (s : State) (f : State → State) : State := if s.pwr.pwrGood then f s else s

/-- A vendor message that CP7 serves: BUSY while CP7 does not run (R477). -/
def vendorCp7 (s : State) (cmd : Nat) (f : State → State) : State :=
  if !s.pwr.pwrGood then s else if cpState s 7 = 1 then f s else vendorReply s cmd stBusy []

/-- Updates every record in the recorder. -/
def mapRecs (s : State) (f : Rec → Rec) : State := { s with evr := { s.evr with slots := s.evr.slots.map fun (e : Nat × Rec) => (e.1, f e.2) } }

/-- On the board-controller path a record that has been returned and is acknowledged counts as persisted (R489). -/
def markPersisted (s : State) : State :=
  if s.evr.path = 1 then mapRecs s fun r => { r with persisted := r.persisted || (r.returned && decide (r.seq ≤ s.evr.ackSeq)) } else s

/-- Loads the anchor: its seconds are added to the running count, PCC is the anchor's + 1, and every EARLY record is rewritten (R488). -/
def loadAnchor (s : State) (opsec pcc : Nat) : State :=
  let n := (pcc + 1) % 2 ^ 24
  let s1 := mapRecs s fun r => if r.early then { r with early := false, opsec := (r.opsec + opsec) % 2 ^ 40, pcc := n } else r
  { s1 with evr := { s1.evr with opsecBase := opsec, pcc := n, early := false } }

/-- Inserts a record into a list that rises by SEQ. -/
def insertRec (r : Rec) : List Rec → List Rec
  | [] => [r]
  | x :: xs => if r.seq < x.seq then r :: x :: xs else x :: insertRec r xs

/-- The records of the recorder in ascending SEQ. -/
def recsBySeq (s : State) : List Rec := (s.evr.slots.map fun (e : Nat × Rec) => e.2).foldr insertRec []

/-- Persists records on the flash path: those that a test names and that are not persisted (R489); each copy keeps the latest 131,072. -/
def persistRecs (s : State) (t : Rec → Bool) : State :=
  let new := (recsBySeq s).filter fun r => !r.persisted && t r
  let all := s.evr.persistedRecs ++ new.map fun r => { r with persisted := true }
  mapRecs { s with evr := { s.evr with persistedRecs := all.drop (all.length - 131072) } } fun r => { r with persisted := r.persisted || t r }

end Sys2Proof.Machine
end

