-- ==== Sys2Proof/Machine/PlanOps.lean ====
section
/-!
DEFINITION. The checks under which CP0 seals a tick plan or a rerun overlay (03 R53, R57, R58, 04 R77, R91, R92, 08 R173, 17 R382,
20 R440).
-/
namespace Sys2Proof.Machine

/-! ### Streams (R73 to R77) -/

/-- Numbers that rise without repeats. -/
def rising : List Nat → Bool
  | a :: b :: rest => decide (a < b) && rising (b :: rest)
  | _ => true

/-- The words of a stream, which are as many as its header says (planOk), are in ascending beat, each with 1 to 192 entries in ascending unit, every unit assigned. -/
def wordsFormed (ws : List OWord) : Bool :=
  rising (ws.map (·.beat)) && ws.all fun w =>
    decide (w.beat ≤ 1233 ∧ 1 ≤ w.entries.length ∧ w.entries.length ≤ 192) && rising (w.entries.map (·.1)) &&
    w.entries.all fun e => decide (e.1 < 0xC0)

/-- The entries of a stream with their beats: beat, unit, action. -/
def entriesOf (ws : List OWord) : List (Nat × Nat × Act) := (ws.map fun w => w.entries.map fun e => (w.beat, e.1, e.2)).flatten

/-- The static starts of a stream: beat, unit, kernel or job, argument set. -/
def startsOf (ws : List OWord) : List (Nat × Nat × Nat × Nat) :=
  (entriesOf ws).filterMap fun e => match e.2.2 with | .start k a => some (e.1, e.2.1, k, a) | _ => none

/-- The effective length of a unit in a plan's clock mode (03 R58). -/
def planLen (clock length : Nat) : Nat := if clock = 1 then (4 * length + 2) / 3 else if clock = 2 then 2 * length else length

/-- The LENGTH_BEATS of a job that has one: that of a code-job list of one block, and of a descriptor that chains to no other
(R56, 08 R172, 13 R288). -/
def jobLen (s : State) : PlanJob → Option Nat
  | .code ptr => match codeList s ptr with | [j] => some j.length | _ => none
  | .dma desc => if fieldAt (devRead s desc 64) 2 2 / 2 % 2 = 0 then some (fieldAt (devRead s desc 64) 4 2) else none
  | .xfer _ => none

/-- The declared length of a static start: that of the kernel's image, or the job's own. For a list as a whole the spec states no
length, and the plan gives one (log 92). -/
def startLen (s : State) (p : Plan) (u k : Nat) : Option Nat :=
  if u < 160 then (NMap.find? s.dies.images (1024 * dieOf u + k)).map (·.length)
  else ((NMap.find? p.jobs k).bind (jobLen s)).orElse fun _ => (p.lengths.find? fun l => l.1 == u && l.2.1 == k).map (·.2.2)

/-- A job of the plan is of the kind of its unit. -/
def jobFits (p : Plan) (u k : Nat) : Bool :=
  match NMap.find? p.jobs k with
  | some (.code _) => decide (0xA0 ≤ u ∧ u < 0xA8)
  | some (.dma _) => decide (0xA8 ≤ u ∧ u < 0xB8)
  | some (.xfer _) => decide (0xB8 ≤ u ∧ u < 0xC0)
  | none => false

/-- A static start may stand in a stream with an argument-set table: its kernel is startable and length-verified, or its job is one of
the plan's; its argument set lies in the table; and it ends before the dusk band (R53, R57, R77). -/
def startFits (s : State) (p : Plan) (sets : Nat) (st : Nat × Nat × Nat × Nat) : Bool :=
  let (b, u, k, a) := st
  let runs : Bool := if u < 160 then
      (match NMap.find? s.dies.images (1024 * dieOf u + k) with | some im => im.verified && decide (im.startable ≤ p.tick) | none => false) &&
      decide (a < sets)
    else jobFits p u k && decide (a < sets)
  runs && (match startLen s p u k with | some l => decide (b + planLen p.clock l ≤ 1234) | none => false)

/-- No start of a list follows another on its unit before that one's declared length has passed. -/
def noOverlap (s : State) (p : Plan) : List (Nat × Nat × Nat × Nat) → Bool
  | [] => true
  | st :: rest =>
    let l := planLen p.clock ((startLen s p st.2.1 st.2.2.1).getD 0)
    rest.all (fun o => o.2.1 != st.2.1 || decide (st.1 + l ≤ o.1 ∨ o.1 + planLen p.clock ((startLen s p o.2.1 o.2.2.1).getD 0) ≤ st.1)) &&
    noOverlap s p rest

/-- No beat starts more than 20 arrays: a kernel takes a start for each array to which its image issues (02 R32; log 49). -/
def gustOk (s : State) (ws : List OWord) : Bool :=
  let uses := (startsOf ws).filterMap fun st =>
    if st.2.1 < 160 then (NMap.find? s.dies.images (1024 * dieOf st.2.1 + st.2.2.1)).map fun im => (st.1, (arraysOf im).length) else none
  uses.all fun u => decide (((uses.filter fun v => v.1 == u.1).map (·.2)).sum ≤ 20)

/-- No OPEN names a tile of a mask. -/
def noOpenIn (ws : List OWord) (mask : BitVec 160) : Bool :=
  (entriesOf ws).all fun e => match e.2.2 with | .openA => !(decide (e.2.1 < 160) && mask.getLsbD e.2.1) | _ => true

/-! ### Timed channels (R91, R92) -/

/-- The horizon die of a non-tile unit. -/
def hdOf (u : Nat) : Nat := if u < 0xA8 then (u - 0xA0) / 4 else if u < 0xB8 then (u - 0xA8) / 8 else (u - 0xB8) / 4

/-- The link uses of a transfer: link, direction and cycle. A ring hop k crosses its link 32 + 72 k cycles after sending, a bridge 32 after
(log 49). Ring link from die a to die b: 4 a + b; bridge of die d and horizon die h: 32 + 4 d + 2 h, plus 1 towards the compute die. -/
def linkUses (r : TimedRes) : List (Nat × Nat) :=
  if 160 ≤ r.srcTile ∧ 160 ≤ r.dstTile then []
  else if 160 ≤ r.srcTile then [(32 + 4 * dieOf r.dstTile + 2 * hdOf r.srcTile + 1, r.cycle + 32)]
  else if 160 ≤ r.dstTile then [(32 + 4 * dieOf r.srcTile + 2 * hdOf r.dstTile, r.cycle + 32)]
  else
    match ringRoute (dieOf r.srcTile) (dieOf r.dstTile) with
    | [a, b] => [(4 * a + b, r.cycle + 32)]
    | [a, m, b] => [(4 * a + m, r.cycle + 32), (4 * m + b, r.cycle + 104)]
    | _ => []

/-- The arithmetic clock of a mode in MHz (03 R62, R63). -/
def clockMhz (mode : Nat) : Nat := if mode = 1 then 1800 else if mode = 2 then 1200 else 2400

/-- Bytes per cycle of a link in a clock mode: a ring link carries 1 TB/s and a bridge 1.6 TB/s in each direction (02 R17, R92). -/
def linkCap (mode l : Nat) : Nat := (if l < 32 then 1000000 else 1600000) / clockMhz mode

/-- Sums the bytes of uses of one resource in one cycle. -/
def useSum (us : List ((Nat × Nat) × Nat)) (k : Nat × Nat) : Nat := ((us.filter fun u => u.1 == k).map (·.2)).sum

/-- The timed reservations of a plan in a clock mode fit its ports and links (R92). -/
def timedFits (mode : Nat) (rs : List TimedRes) : Bool :=
  let outs := (rs.filter fun r => decide (r.srcTile < 160)).map fun r => ((r.srcTile, r.cycle), r.bytes)
  let ins := (rs.filter fun r => decide (r.dstTile < 160)).map fun r => ((r.dstTile, r.cycle + routeDelay r.srcTile r.dstTile), r.bytes)
  let links := (rs.map fun r => (linkUses r).map fun u => (u, r.bytes)).flatten
  outs.all (fun u => decide (useSum outs u.1 ≤ 64)) && ins.all (fun u => decide (useSum ins u.1 ≤ 64)) &&
  links.all fun u => decide (useSum links u.1 ≤ linkCap mode u.1.1)

/-! ### Plans (R53) -/

/-- The cells that are active in a tick, as far as their requests say now. -/
def activeAt (s : State) (u : Nat) : List Nat :=
  (s.rad.cells.filter fun (e : Nat × Cell) =>
    (e.2.active || dueBy e.2.startAt u) && !(match e.2.stopAt with | some t => decide (t ≤ u) | none => false)).map fun (e : Nat × Cell) => e.1

/-- Every active cell has its descriptor, in ascending cell number, and all radio work stands on floor tiles (R53, 13 R300). -/
def floorComplete (s : State) (p : Plan) : Bool :=
  rising (p.cells.map (·.cell)) && p.cells.all (fun c => decide (c.cell < 192)) &&
  (activeAt s p.tick).all (fun c => p.cells.any fun d => d.cell == c) &&
  p.workTiles.all (fun t => decide (t < 160) && p.floorMask.getLsbD t) &&
  p.cells.all fun c => c.units.all fun u => decide (160 ≤ u) || p.floorMask.getLsbD u

/-- No tile of the floor has a share, and no row sums to more than 1,234 beats (R53, 17 R382). -/
def sharesOk (p : Plan) : Bool :=
  p.shares.all (fun (e : Nat × Nat) => e.2 == 0 || (decide (e.1 / 64 < 160) && !p.floorMask.getLsbD (e.1 / 64))) &&
  (List.range 160).all fun t => decide (((p.shares.filter fun (e : Nat × Nat) => e.1 / 64 == t).map fun (e : Nat × Nat) => e.2).sum ≤ 1234)

/-- A page in host bias, or the fabric or the host, is an endpoint of a burst (08 R173). -/
def awayFrom (s : State) (a n : Nat) : Bool :=
  spaceOf a == 2 || spaceOf a == 3 || (spaceOf a == 0 && s.mem.hostBias.any fun g => overlaps a n (2 ^ 21 * g) (2 ^ 21))

/-- The descriptors of a chain keep floor bursts on the device; the fuel bounds the chain. -/
def chainHere (s : State) : Nat → Nat → Bool
  | 0, _ => true
  | n + 1, desc =>
    let b := burstOf s desc none none .plain
    !((b.op == 1 && awayFrom s b.src b.bytes) || awayFrom s b.dst b.bytes) && (b.flags / 2 % 2 == 0 || chainHere s n b.next)

/-- No floor burst of a plan leaves the device: the DMA chains that it starts for no context. -/
def floorBurstsOk (s : State) (p : Plan) : Bool :=
  (startsOf p.overcast).all fun st =>
    !(decide (0xA8 ≤ st.2.1 ∧ st.2.1 < 0xB8)) || p.owners.any (fun o => o.1 == st.1 && o.2.1 == st.2.1) ||
    match NMap.find? p.jobs st.2.2.1 with | some (.dma d) => chainHere s 1024 d | _ => true

/-- SEAL of a plan matches bytes 0 to 119 of its header, in the state SEALED. -/
def sealOk (p : Plan) : Bool := p.sealW == crc64 (planHead { p with state := .sealed })

/-- The checks of R53 and those that other rules add to it. -/
def planOk (s : State) (p : Plan) : Bool :=
  floorComplete s p && sharesOk p && gustOk s p.overcast && p.overcast.length == p.words && wordsFormed p.overcast &&
  (startsOf p.overcast).all (startFits s p p.argsets.length) && noOverlap s p (startsOf p.overcast) &&
  noOpenIn p.overcast p.floorMask && timedFits p.clock p.timed && floorBurstsOk s p && decide (p.clock ≤ 2 ∧ p.cells.length ≤ 192) &&
  (p.clock == 0 || (p.floorMask == 0 && p.cells.isEmpty)) && sealOk p

/-- Conditions under which CP0 seals no plan with a floor or an active cell: until LOCKED (R46), before a START (23 R496), and from the
acceptance of a quiet mode to the return to 2.4 GHz (R63). -/
def floorAllowed (s : State) (p : Plan) : Bool :=
  (p.floorMask == 0 && p.cells.isEmpty) ||
  (s.tkp.locked && s.tkp.clock == 0 && !s.tkp.quietAsk && decide (s.tkp.backAt ≤ p.tick) &&
    s.rad.cells.any fun (e : Nat × Cell) => e.2.active || e.2.startAt.isSome)

/-! ### Overlays (20 R440) -/

/-- Bytes 0 to 55 of an overlay header. -/
def overlayHead (o : Overlay) : List Byte :=
  leBytes 8 o.tick ++ leBytes 20 o.borrow.toNat ++ leBytes 4 o.words ++ leBytes 8 o.overcastPtr ++ List.replicate 16 0

/-- The two highest-numbered open tiles of a die in a plan. -/
def borrowedOf (p : Plan) (d : Nat) : List Nat :=
  (((List.range 40).map fun i => 40 * d + 39 - i).filter fun t => !p.floorMask.getLsbD t).take 2

/-- The tiles that an overlay for a plan borrows: two on each die whose floor work awaits a rerun. -/
def borrowedTiles (s : State) (p : Plan) : List Nat := (((s.ras.rerun.map fun r => dieOf r.1).eraseDups).map (borrowedOf p)).flatten

/-- An overlay passes the checks of R53 and R77 together with the sealed plan of its tick. -/
def overlayOk (s : State) (p : Plan) (o : Overlay) : Bool :=
  let both := p.overcast ++ o.overcast
  let onTiles := (startsOf both).filter fun st => decide (st.2.1 < 160)
  !s.ras.rerun.isEmpty && ((List.range 160).filter o.borrow.getLsbD).all (borrowedTiles s p).contains &&
  (borrowedTiles s p).all o.borrow.getLsbD && wordsFormed o.overcast && gustOk s both &&
  o.overcast.length == o.words && (startsOf o.overcast).all (startFits s p o.argsets.length) && noOverlap s p onTiles &&
  noOpenIn o.overcast (p.floorMask ||| o.borrow) && o.sealW == crc64 (overlayHead o)

end Sys2Proof.Machine
end

