-- ==== Sys2Proof/Machine/Ras.lean ====
section
/-!
DEFINITION. Repair and evidence: remaps, rerun overlays, spare wires, sentinel and stress runs, the health score and contrail mode
(20 R438 to R453, 22 R481).
-/
namespace Sys2Proof.Machine

/-! ### TILE_REMAP (R438, R441) -/

/-- Binds a logical tile to the lowest good unbound physical tile of its die from the seam that opens a tick; without one the device
fails (R435). -/
def bindNext (s : State) (t tick : Nat) : State :=
  match (goodUnbound s (dieOf t)).head? with
  | some p => { s with dies := { s.dies with bindAt := NMap.insert s.dies.bindAt t (p, tick) } }
  | none => deviceFail s 0x1008 srcHw []

/-- Retires a physical tile: it is bad, and it joins the retirement list (R445). -/
def retireTile (s : State) (d p cause : Nat) : State :=
  retireElement { s with dies := { s.dies with bad := addSet s.dies.bad (44 * d + p) } } 0 d p cause

/-- TILE_REMAP: in the tick after a tile's fault the repair unit binds the logical tile anew, from the next seam on. Once a binding waits,
the command is a fault of the incoming physical tile: a new fault of the logical tile, whose binding takes effect two seams on. -/
def execTileRemap (t : Nat) (s : State) : Out :=
  let d := dieOf t
  if 160 ≤ t ∨ (tileAt s t).state ≠ .fault ∨ s.ras.state ≠ 0 then .next s
  else
    match NMap.find? s.dies.bindAt t with
    | some b =>
      let s1 : State := { s with dies := { s.dies with bindAt := NMap.erase s.dies.bindAt t } }
      let s2 := recordEvent s1 0x1002 srcHw [t, b.1, 0x1002]
      let s3 := retireTile { s2 with ras := { s2.ras with cntTile := satAdd 16 s2.ras.cntTile 1 } } d b.1 0x1002
      .next (bindNext s3 t (s.tkp.now + 2))
    | none =>
      if s.tkp.now ≤ (tileAt s t).arriving then .next s
      else .next (bindNext (retireTile s d (physOf s t) 0x1002) t (s.tkp.now + 1))

/-! ### RERUN_OVERLAY_SEAL (R440) -/

/-- RERUN_OVERLAY_SEAL: CP0 seals the overlay for the next tick before beat 1,234, if it passes the checks; otherwise it is not sealed. -/
def execRerunOverlaySeal (o : Overlay) (s : State) : Out :=
  match NMap.find? s.tkp.plans (o.tick % 16) with
  | none => .next s
  | some p =>
    if cpState s 0 = 1 ∧ s.ras.state = 0 ∧ o.tick = s.tkp.now + 1 ∧ s.tkp.beat < 1234 ∧ p.tick = o.tick ∧ p.state = .sealed ∧ overlayOk s p o then
      .next { s with tkp := { s.tkp with overlays := NMap.insert s.tkp.overlays (o.tick % 16) o } }
    else .next s

/-! ### LINK_WIRE_FAILING (R443) -/

/-- LINK_WIRE_FAILING: a wire of a lane group is marked failing; the group's spare is switched in at the next seam, and a second failing
wire fails the device. No event of R484 retires a wire, so the entry's CAUSE is a value that the spec leaves open. -/
def execLinkWireFailing (die link group wire : Nat) (s : State) : Out :=
  if 4 ≤ die ∨ 3 ≤ link ∨ 1024 ≤ group ∨ 16 ≤ wire then .next s
  else if s.ras.wires.any (fun w => w.1 == die && w.2.1 == link && w.2.2.1 == group) then .next (deviceFail s 0x1007 srcHw [])
  else
    let f := s.takeFree
    let s1 : State := { f.2 with ras := { f.2.ras with wires := f.2.ras.wires ++ [(die, link, group, s.tkp.now + 1)],
                                                       cntWire := satAdd 16 f.2.ras.cntWire 1 } }
    .next (retireElement s1 2 die (link + 4 * group + 4096 * wire) (f.1.toNat % 65536))

/-! ### Sentinels (R446 to R448) -/

/-- The logical tile that a physical tile of a die is bound to. -/
def boundTo (s : State) (d p : Nat) : Option Nat := ((List.range 40).map (40 * d + ·)).find? fun t => physOf s t == p

/-- A mismatch of a sentinel on a physical tile: the event and the count; a bound tile faults, an unbound one is retired (R447). -/
def sentinelMiss (s : State) (d p : Nat) : State :=
  let s1 := recordEvent { s with ras := { s.ras with sentMiss := satAdd 16 s.ras.sentMiss 1 } } 0x1003 7 []
  match boundTo s d p with
  | some t => if (tileAt s t).state = .fault then s1 else tileFault s1 t 0x1003
  | none => retireTile s1 d p 0x1003

/-- The 32-byte record of a sentinel run (R447). -/
def sentRecord (s : State) (e : SentEnv) : List Byte :=
  leBytes 8 s.tkp.now ++ leBytes 1 e.die ++ leBytes 1 e.ptile ++ leBytes 1 e.load ++ leBytes 1 (bit1 !e.match_) ++ leBytes 2 e.kernel ++
    leBytes 2 (BitVec.ofInt 16 e.tj).toNat ++ leBytes 2 e.vcoreMv ++ leBytes 2 e.pdieDw ++ leBytes 4 0 ++ leBytes 8 s.ras.sentRuns

/-- SENTINEL_RUN: a run has ended on a good physical tile, as measured; CP7 runs sentinels. -/
def execSentinelRun (e : SentEnv) (s : State) : Out :=
  if cpState s 7 ≠ 1 ∨ 4 ≤ e.die ∨ 44 ≤ e.ptile ∨ s.dies.bad.contains (44 * e.die + e.ptile) then .next s
  else
    let s1 := if s.ras.sentBase = 0 then s else devPut s (s.ras.sentBase + 32 * (s.ras.sentRuns % 4096)) (sentRecord s e)
    let s2 : State := { s1 with ras := { s1.ras with sentRuns := s1.ras.sentRuns + 1 } }
    .next (if e.match_ then s2 else sentinelMiss s2 e.die e.ptile)

/-- Every staged plan, and that of the current tick, has an empty floor. -/
def floorsEmpty (s : State) : Bool :=
  s.tkp.plans.all fun (p : Nat × Plan) => !((p.2.state == .sealed || p.2.tick == s.tkp.now) && decide (s.tkp.now ≤ p.2.tick)) || p.2.floorMask == 0

/-- A STRESS_RUN has had its run on a die; with the last die of its mask it is answered (log 50). -/
def stressServed (s : State) (die : Nat) : State :=
  match s.ras.stressAsk with
  | none => s
  | some (mask, t) =>
    let left := if mask.testBit die then mask - 2 ^ die else mask
    if left = 0 then vendorReply { s with ras := { s.ras with stressAsk := none } } 0x06 stOk []
    else { s with ras := { s.ras with stressAsk := some (left, t) } }

/-- The stress variant is due on a die: a STRESS_RUN names it, or STRESS_H hours have passed since its last run there (R448). -/
def stressDue (s : State) (die : Nat) : Bool :=
  (match s.ras.stressAsk with | some (mask, _) => mask.testBit die | none => false) ||
  (s.ras.stressH != 0 && match NMap.find? s.ras.stressAt die with
    | some t => decide (t + 3600 * ticksPerSec * s.ras.stressH ≤ s.tkp.now)
    | none => false)

/-- STRESS_VARIANT: the sentinel set at the full allowance on every open tile of a die on which it is due, in a tick whose staged plans
have an empty floor; `bad` are the logical tiles whose signatures mismatch. The run after BIST is part of the start. -/
def execStressVariant (die : Nat) (bad : List Nat) (s : State) : Out :=
  if cpState s 7 ≠ 1 ∨ 4 ≤ die ∨ !floorsEmpty s ∨ !stressDue s die then .next s
  else
    let s1 : State := { s with ras := { s.ras with stress := satAdd 16 s.ras.stress 1, stressAt := NMap.insert s.ras.stressAt die s.tkp.now } }
    let s2 := (bad.filter fun t => dieOf t == die).foldl (fun x t => sentinelMiss x die (physOf x t)) s1
    .next (stressServed s2 die)

/-- STRESS_RUN: the stress variant on the dies of a mask, at most 80,000 ticks later; one request waits at a time (log 50). -/
def execStressRun (dies : Nat) (s : State) : Out :=
  .next (vendorCp7 s 0x06 fun s =>
    if dies = 0 ∨ 16 ≤ dies then vendorReply s 0x06 stInvalid []
    else if s.ras.stressAsk.isSome then vendorReply s 0x06 stBusy []
    else { s with ras := { s.ras with stressAsk := some (dies, s.tkp.now) } })

/-- At a seam a STRESS_RUN that has waited 80,000 ticks is refused (R448). -/
def stressSeam (s : State) : State :=
  match s.ras.stressAsk with
  | some (_, t) => if t + 80000 < s.tkp.now then vendorReply { s with ras := { s.ras with stressAsk := none } } 0x06 stBusy [] else s
  | none => s

/-! ### HEALTH_SCORE (R449) -/

/-- Tiles retired beyond the vendor map, over all dies. -/
def retiredBeyond (s : State) : Nat := (s.dies.bad.filter fun b => !s.ras.vendor.contains b).length

/-- THERMAL of R449 for the hottest junction of the last hour, in units of 0.125 °C. -/
def thermalPenalty (hottest : Int) : Nat :=
  let m := (800 - hottest) / 8
  min 100 (10 * (10 - m).toNat)

/-- HEALTH_SCORE: once in each window of 8,000 ticks CP7 computes the score from the corrected errors per hour over 24 h, the retries per second over the last hour, the
mismatches of the last 30 days and the hottest junction of the last hour. -/
def execHealthScore (corrPerHour retriesPerSec residue30d : Nat) (hottest : Int) (s : State) : Out :=
  if cpState s 7 ≠ 1 ∨ windowsEnded s ≤ s.ras.scoreNo then .next s
  else
    let mem := min 250 (corrPerHour / 10)
    let link := min 200 ((retriesPerSec - 100) / 100)
    let residue := min 300 (100 * residue30d)
    let spares := min 160 (10 * retiredBeyond s)
    let thermal := thermalPenalty hottest
    .next { s with ras := { s.ras with score := 1000 - (mem + link + residue + spares + thermal), penMem := mem, penLink := link,
                                       penResidue := residue, penSpares := spares, penThermal := thermal,
                                       scoreNo := windowsEnded s } }

/-! ### Contrail mode (R451 to R453) -/

/-- CONTRAIL_SET: the body of R451; it applies at the next seam. -/
def execContrailSet (body : List Byte) (s : State) : Out :=
  .next (vendorCp7 s 0x07 fun s =>
    if body.length ≠ 16 ∨ 2 < fieldAt body 0 1 ∨ fieldAt body 2 6 ≠ 0 then vendorReply s 0x07 stInvalid []
    else vendorReply { s with ras := { s.ras with conNext := some body } } 0x07 stOk [])

/-- At a seam contrail mode is set: READY and MATCHED start again, and records held are dropped. -/
def contrailSeam (s : State) : State :=
  match s.ras.conNext with
  | none => readyCheck s
  | some b =>
    { s with ras := { s.ras with conNext := none, contrail := fieldAt b 0 1, conPartner := fieldAt b 1 1, conSlices := BitVec.ofNat 64 (fieldAt b 8 8),
                                 ready := false, conSince := s.tkp.now, matched := 0, conMiss := 0, digests := [], theirs := [] } }

/-- CONTRAIL_DIGEST: a digest record of the partner (MSG class 0x0120) meets this device's record of the same REQ_ID, or waits for it. -/
def execContrailDigest (src reqId genLen : Nat) (crc : W64) (s0 : State) : Out :=
  let s := takeMsg s0 src 0x0120
  if !headIs s0 src 0x0120 then .next s0
  else if s.ras.contrail = 0 ∨ src ≠ s.ras.conPartner then .next s
  else
    let d : Digest := ⟨reqId, genLen, crc, s.tkp.now⟩
    match s.ras.digests.find? fun x => x.reqId == reqId with
    | some own =>
      .next (readyCheck (digestCompare { s with ras := { s.ras with digests := s.ras.digests.filter fun x => x.reqId != reqId } } own d))
    | none => .next { s with ras := { s.ras with theirs := s.ras.theirs ++ [d] } }

/-- CONTRAIL_UNMATCHED: records that have stood 80,000 ticks without a counterpart are dropped and counted. -/
def execContrailUnmatched (s : State) : Out :=
  let old := fun (d : Digest) => decide (d.tick + 80000 ≤ s.tkp.now)
  let n := ((s.ras.digests ++ s.ras.theirs).filter old).length
  .next { s with ras := { s.ras with digests := s.ras.digests.filter fun d => !old d, theirs := s.ras.theirs.filter fun d => !old d,
                                     unmatched := satAdd 16 s.ras.unmatched n } }

end Sys2Proof.Machine
end

