-- ==== Sys2Proof/Machine/Recorder.lean ====
section
/-!
DEFINITION. The recorder's windows and its persistence (22 R485 to R489).
-/
namespace Sys2Proof.Machine

/-- One SUMMARY record for a code whose suppressed count is above 0, outside its bucket (R485). -/
def summaryOf (s : State) (code : Nat) : State :=
  match NMap.find? s.evr.buckets code with
  | none => s
  | some b =>
    if b.suppressed = 0 then s
    else
      putRecord { s with evr := { s.evr with buckets := NMap.insert s.evr.buckets code { b with suppressed := 0 } } }
        code srcHw (eventSeverity code) b.suppressed true []

/-- SUMMARY_WINDOW: the end of an 8,000-tick window, once for it. -/
def execSummaryWindow (s : State) : Out :=
  if windowsEnded s ≤ s.evr.sumNo then .next s
  else .next ((s.evr.buckets.map fun (e : Nat × RateB) => e.1).foldl summaryOf { s with evr := { s.evr with sumNo := windowsEnded s } })

/-- OPSEC is written to the persistent counters every 60 s (R489). -/
def persistOps (s : State) : State :=
  if s.evr.persistedOps + 60 ≤ opsecNow s then { s with evr := { s.evr with persistedOps := opsecNow s } } else s

/-- PERSIST_BATCH: on the flash path CP7 persists the records of severity error and above, or with `all`, the batch of every 8,000 ticks
(once in each of their windows), every record. -/
def execPersistBatch (all : Bool) (s : State) : Out :=
  if s.evr.path ≠ 0 ∨ cpState s 7 ≠ 1 ∨ (all ∧ windowsEnded s ≤ s.evr.batchNo) then .next s
  else
    let s1 := persistRecs s fun r => all || decide (2 ≤ r.sev)
    .next (if all then persistOps { s1 with evr := { s1.evr with batchNo := windowsEnded s } } else s1)

/-- A copy of the recorder area has lost its good blocks: channels NC0 to NC7 hold copy 0, NC8 to NC15 copy 1 (11 R256). -/
def loseCopy (s : State) (copy : Nat) : State :=
  { s with fla := { s.fla with bad := (s.fla.recBlocks.filter fun b => b / 2 ^ 35 == copy).foldl addSet s.fla.bad,
                               recBlocks := s.fla.recBlocks.filter fun b => b / 2 ^ 35 != copy } }

/-- PERSIST_PATH_CHANGE: a copy of the flash recorder area loses its last good block, which of the two is a free value, and the area
leaves service; the path falls to the board controller, and ALERT_N is asserted until an ANCHOR_SET (R487, 11 R256; log 106). -/
def execPersistPathChange (s : State) : Out :=
  if s.evr.path ≠ 0 then .next s
  else
    let v := s.takeFree
    let s1 := loseCopy v.2 (v.1.toNat % 2)
    .next (recordEvent { s1 with evr := { s1.evr with path := 1, anchorDue := true } } 0xD003 srcHw [])

end Sys2Proof.Machine
end

