-- ==== Sys2Proof/Machine/Regs.lean ====
section
/-!
DEFINITION. Writes of registers that have no command of their own, by their access codes (00 R5 to R7, 03 R48 to R51, 16 R353).
Doorbells, HST_AQ_CFG, HST_HEARTBEAT, SLC_DB, SLC_RX_HEAD and SEC_MBX_CMD have commands of their own.
-/
namespace Sys2Proof.Machine

/-- One of the eight 64-bit pieces of SLC_SEND, written. -/
def putSend (old : BitVec 512) (piece : Nat) (v : W64) : BitVec 512 :=
  BitVec.ofNat 512 (leNat (overlayAt (leBytes 64 old.toNat) (8 * piece) (leBytes 8 v.toNat)))

/-- A host write within the SLC block: SLC_SEND and SLC_CTRL are RW. -/
def slcWrite (s : State) (o : Nat) (v : W64) : State :=
  let p := o / 0x1000
  let k := o % 0x1000
  let x := mbxAt s p
  if pfPage < p then s
  else if k < 0x40 ∧ k % 8 = 0 then setMbx s p { x with send := putSend x.send (k / 8) v }
  else if k = 0x50 then setMbx s p { x with ctrl := (v.setWidth 32) &&& 0x1FFFFF }
  else s

/-- A host write within the SEC block: SEC_MBX_ADDR and, while BUSY is 0, SEC_MBX_BUF are RW. 21 says that host writes reach only
SEC_MBX_CMD and the buffer, and its table gives SEC_MBX_ADDR as RW: the table is followed (DESIGN CHOICE, log 102). -/
def secWrite (s : State) (o : Nat) (v : W64) : State :=
  if o = 0x108 then { s with sec := { s.sec with mbxAddr := v } }
  else if o = 0x100 ∧ v.toNat % 256 ≠ 1 ∧ v.toNat % 256 ≠ 2 then { s with sec := { s.sec with mbxStatus := withClass s stInvalid } }
  else if 0x10000 ≤ o ∧ o < 0x20000 ∧ o % 8 = 0 ∧ !s.sec.mbxBusy then
    let cells := List.zipWith (fun i b => (o - 0x10000 + i, b)) (List.range 8) (leBytes 8 v.toNat)
    { s with sec := { s.sec with mbxBuf := cells.foldl (fun m c => NMap.setD m 0 c.1 c.2) s.sec.mbxBuf } }
  else s

/-- A host write of BAR2, which REGISTER_WRITE reaches behind BAR0 (DESIGN CHOICE, log 111): the table's entries of 16 bytes from 0; a pending
vector goes out as its mask is cleared. -/
def bar2Write (s : State) (o : Nat) (v : W64) : State :=
  let i := o / 16
  let e := msixEntry s i
  if 16384 ≤ o ∨ o % 8 ≠ 0 then s
  else if o % 16 = 0 then { s with hst := { s.hst with msixTab := NMap.insert s.hst.msixTab i (v.toNat / 4 * 4, e.2) } }
  else
    let s1 : State := { s with hst := { s.hst with msixTab := NMap.insert s.hst.msixTab i (e.1, v.toNat % 2 ^ 32, v.getLsbD 32) } }
    if v.getLsbD 32 ∨ !s.hst.pba.contains i then s1
    else signalVec { s1 with hst := { s1.hst with pba := s1.hst.pba.filter (· ≠ i) } } i

/-- A host write: RW registers take effect at once, and every other write is ignored. -/
def hostRegWrite (s : State) (o : Nat) (v : W64) : State :=
  if o = 0x100008 then { s with hst := { s.hst with aqSq := v &&& 0xFFFFFFFFFFFFFFC0 } }
  else if o = 0x100010 then { s with hst := { s.hst with aqCq := v &&& 0xFFFFFFFFFFFFFFC0 } }
  else if 0x200000 ≤ o ∧ o < 0x400000 then slcWrite s (o - 0x200000) v
  else if 0x2400000 ≤ o ∧ o < 0x2800000 then secWrite s (o - 0x2400000) v
  else if 0x4000000 ≤ o ∧ o < 0x4010000 then bar2Write s (o - 0x4000000) v
  else s

/-- A write of the seam-bound fields of a fronthaul port lands in their shadows (12); none where the offset has no such register. -/
def fhPortWrite (x : FhPort) (o n : Nat) : Option FhPort :=
  match o with
  | 0x000 => some { x with mode := x.mode.write (bitsOf n 1 0), kind := x.kind.write (bitsOf n 2 2), dynComp := x.dynComp.write (bitsOf n 3 3),
                           mantTx := x.mantTx.write (bitsOf n 12 8), mantRx := x.mantRx.write (bitsOf n 20 16) }
  | 0x004 => some { x with duBits := x.duBits.write (bitsOf n 3 0), bsBits := x.bsBits.write (bitsOf n 7 4),
                           ccBits := x.ccBits.write (bitsOf n 11 8), ruBits := x.ruBits.write (bitsOf n 15 12),
                           mtu := x.mtu.write (bitsOf n 29 16) }
  | 0x008 => some { x with vid := x.vid.write (bitsOf n 11 0), vlanEn := x.vlanEn.write (bitsOf n 12 12), pcpU := x.pcpU.write (bitsOf n 15 13),
                           pcpC := x.pcpC.write (bitsOf n 18 16) }
  | 0x00C => some { x with rxMin := x.rxMin.write (bitsOf n 12 0), rxMax := x.rxMax.write (bitsOf n 28 16) }
  | 0x010 => some { x with txAdvU := x.txAdvU.write (bitsOf n 12 0), txAdvC := x.txAdvC.write (bitsOf n 28 16),
                           txSpread := x.txSpread.write (bitsOf n 44 32) }
  | 0x018 => some { x with target := x.target.write (bitsOf n 7 0), thr := x.thr.write (bitsOf n 15 8), qual := x.qual.write (bitsOf n 23 16),
                           maxGain := x.maxGain.write (bitsOf n 31 24), samples := x.samples.write (bitsOf n 33 32) }
  | _ => none

/-- A write by firmware lands in the shadow of an RWT register; host writes to one are ignored (02, 12). -/
def firmwareRegWrite (s : State) (o : Nat) (v : W64) : State :=
  if o = 0x1C00000 then
    landed { s with pwr := { s.pwr with cap := s.pwr.cap.write (bitsOf v.toNat 11 0), margin := s.pwr.margin.write (bitsOf v.toNat 23 16) } }
  else if 0xE00000 ≤ o ∧ o < 0xE08000 then
    let p := (o - 0xE00000) / 0x1000
    match fhPortWrite (NMap.getD s.fh p {}) (o % 0x1000) v.toNat with
    | some x => landed { s with fh := NMap.insert s.fh p x }
    | none => s
  else s

/-- REGISTER_WRITE: a write of the register at an offset of BAR0, by the host or by firmware (R5). The debug window has no layout in
the spec, so a write there has no effect (log 38). -/
def execRegisterWrite (firmware : Bool) (offset : Nat) (value : W64) (s : State) : Out :=
  .next (if firmware then firmwareRegWrite s offset value else hostRegWrite s offset value)

end Sys2Proof.Machine
end

