-- ==== Sys2Proof/Machine/Security.lean ====
section
/-!
DEFINITION. Debug unlock, memory encryption and the entropy source (21 R457, R470 to R473).
-/
namespace Sys2Proof.Machine

/-- DEBUG_NONCE (opcode 0x0710): a fresh nonce, valid for 80,000 ticks. -/
def execDebugNonce (q seq : Nat) (s : State) : Out :=
  .next (withCmd s q seq 0x0710 fun r s =>
    if !r.params.isEmpty then finish s q seq stInvalid 0
    else if s.sec.noRandom then finish s q seq stDeviceFault 0
    else
      let f := freeWords 4 s
      finishWith { f.2 with sec := { f.2.sec with nonce := some (f.1, s.tkp.now + 80000) } } q seq stOk 0 f.1)

/-- The token names the current valid nonce. -/
def nonceHolds (s : State) (n : List Byte) : Bool :=
  match s.sec.nonce with | some x => x.1 == n && decide (s.tkp.now < x.2) | none => false

/-- The checks of R470 on a token. -/
def tokenOk (s : State) (t : List Byte) : Bool :=
  s.sec.ownerFlags.getLsbD 1 && (t.drop 8).take 32 == s.sec.devId && nonceHolds s ((t.drop 40).take 32) &&
  Config.signatureOk s.sec.ownerKey (t.take 72) (t.drop 72)

/-- DEBUG_UNLOCK (opcode 0x0711). -/
def execDebugUnlock (q seq : Nat) (s : State) : Out :=
  .next (withCmd s q seq 0x0711 fun r s =>
    let level := r.par 4 1
    if r.params.length ≠ 4699 ∨ r.par 0 4 ≠ 0x4B544244 ∨ level = 0 ∨ 2 < level ∨ !r.zeros 5 3 then finish s q seq stInvalid 0
    else if level = 2 ∧ !s.sec.keys.isEmpty then finish s q seq stBusy 0
    else if !tokenOk s r.params then finish s q seq stDenied 0
    else
      let s1 := extendM { s with sec := { s.sec with nonce := none } } 7 0 r.params
      let s2 := latchAttn (recordEvent s1 0xA005 srcSp []) 5
      finish { s2 with sec := { s2.sec with debug := level, tapOpen := true } } q seq stOk 0)

/-- Debug access closes (R471). -/
def debugCloses (s : State) : State := { s with sec := { s.sec with debug := 0, tapOpen := false } }

/-- What the debug TAP offers (02 R42, 21 R470). -/
inductive TapReg where
  | bypass | idcode | statusChains | everything
deriving DecidableEq, Repr

/-- The TAP at a debug level: BYPASS and IDCODE while it is locked, with READ the status chains too, with FULL all of it. -/
def tapOffers (s : State) : List TapReg :=
  if !s.sec.tapOpen then [.bypass, .idcode]
  else if s.sec.debug = 1 then [.bypass, .idcode, .statusChains] else [.bypass, .idcode, .statusChains, .everything]

/-- IDCODE: the part number 0x4824 in its part field, bits 27 to 12. -/
def idcode : W32 := (Config.idcodeRest &&& 0xF0000FFF) ||| 0x04824000

/-- What a TAP scan of a register gives, by the bit shifted in for BYPASS: none where the TAP does not offer it, where its layout is
not given, or while PWR_GOOD is low, when TDO is high impedance (02 R41). -/
def tapScan (s : State) (r : TapReg) (shift : W32) : Option W32 :=
  if s.pwr.pwrGood ∧ (tapOffers s).contains r then
    match r with
    | .bypass => some (shift <<< 1)
    | .idcode => some idcode
    | _ => none
  else none

/-- DEBUG_LOCK (opcode 0x0712). -/
def execDebugLock (q seq : Nat) (s : State) : Out :=
  .next (withCmd s q seq 0x0712 fun r s =>
    if r.params.isEmpty then finish (debugCloses s) q seq stOk 0 else finish s q seq stInvalid 0)

/-- The checks of MEM_ENC_SET on its fields. -/
def memEncFields (r : JRec) (_ : State) : Nat :=
  if r.params.length = 4 ∧ r.par 0 1 < 64 ∧ r.par 1 1 ≤ 1 ∧ r.zeros 2 2 then stOk else stInvalid

/-- The checks of MEM_ENC_SET on the state, before its seam: the cases of R472 and R471. -/
def memEncState (r : JRec) (s : State) : Nat :=
  let slice := r.par 0 1
  if 0 < ctxCount s slice ∨ !(liveOf s slice).isEmpty ∨ !(heldFrames s slice).isEmpty ∨ (r.par 1 1 = 1 ∧ s.sec.debug = 2) then stBusy
  else if r.par 1 1 = 0 ∧ s.sec.encRequired then stDenied
  else if r.par 1 1 = 1 ∧ s.sec.noRandom then stDeviceFault
  else stOk

/-- MEM_ENC_SET at its seam: fresh keys, or none. -/
def memEncApply (r : JRec) (s : State) : State :=
  if r.par 1 1 = 1 then drawKeys s (r.par 0 1) else { s with sec := { s.sec with keys := NMap.erase s.sec.keys (r.par 0 1) } }

/-- MEM_ENC_SET (opcode 0x0720). -/
def execMemEncSet (q seq : Nat) (s : State) : Out := .next (withSeamCmd s q seq 0x0720 memEncFields)

/-- ENTROPY_FAIL: a continuous health test of the entropy source fails after start (R457). -/
def execEntropyFail (s : State) : Out :=
  if s.pwr.pwrGood ∧ !s.sec.noRandom then
    .next (latchAttn (recordEvent { s with sec := { s.sec with noRandom := true } } 0xA006 srcSp []) 5)
  else .next s

end Sys2Proof.Machine
end

