-- ==== Sys2Proof/Machine/Sideband.lean ====
section
/-!
DEFINITION. The I3C sideband: addressing, MCTP control, PLDM and the vendor messages of the recorder and the anchor (22 R475 to R481,
R489, R490). Message formats are those of the standards that the spec names; a response holds its fields in order (log 47).
-/
namespace Sys2Proof.Machine

/-! ### I3C and MCTP control (R475, R476) -/

/-- The type under which the answer to ENTDAA is noted. -/
def typeI3c : Nat := 0x100

/-- The provisional ID of MIPI I3C: manufacturer and type in [47:32], part 0x4824, the unit in [15:12] and the low 12 bits of PID; what the
spec leaves open of it is a free value (log 47). -/
def provisionalId (s : State) (free : Nat) : Nat :=
  2 ^ 32 * (free % 2 ^ 16) + 2 ^ 16 * 0x4824 + 2 ^ 12 * (free / 2 ^ 16 % 16) + leNat s.sec.pid % 4096

/-- ENTDAA: the device gives its provisional ID, most significant byte first as the bus sends it (00 R4), and takes a dynamic address. -/
def execEntdaa (addr : Nat) (s : State) : Out :=
  if !s.pwr.pwrGood ∨ 128 ≤ addr then .next s
  else
    let f := s.takeFree
    .next (respond { f.2 with evr := { f.2.evr with i3cAddr := some addr } } typeI3c 0 (beBytes 6 (provisionalId s f.1.toNat)))

/-- An MCTP control request is answered by the SP from SP ROM start. -/
def mctpControl (s : State) (f : State → State) : State := if s.pwr.pwrGood then f s else s

/-- SET_ENDPOINT_ID: the bus owner assigns the EID; 0 and 0xFF are no EID (log 47). -/
def execSetEndpointId (eid : Nat) (s : State) : Out :=
  .next (mctpControl s fun s =>
    if eid = 0 ∨ 255 ≤ eid then respond s 0 2 [] else respond { s with evr := { s.evr with eid := eid } } 0 0 (leBytes 1 eid))

/-- GET_ENDPOINT_ID. -/
def execGetEndpointId (s : State) : Out := .next (mctpControl s fun s => respond s 0 0 (leBytes 1 s.evr.eid))

/-- The MCTP message types that the device answers. -/
def mctpTypes : List Nat := [0x00, 0x01, 0x05, 0x7F]

/-- GET_MCTP_VERSION_SUPPORT: the versions of a type, which the spec leaves open; 0xFF asks for MCTP itself (log 47). -/
def execGetMctpVersionSupport (type : Nat) (s : State) : Out :=
  .next (mctpControl s fun s =>
    if mctpTypes.contains type ∨ type = 0xFF then
      let f := s.takeFree
      respond f.2 0 0 (leBytes 8 f.1.toNat)
    else respond s 0 0x80 [])

/-- GET_MESSAGE_TYPE_SUPPORT: the types beside control. -/
def execGetMessageTypeSupport (s : State) : Out := .next (mctpControl s fun s => respond s 0 0 [0x01, 0x05, 0x7F])

/-- GET_VENDOR_DEFINED_MESSAGE_SUPPORT: one vendor ID, of format 0x01, IANA. -/
def execGetVendorDefinedMessageSupport (selector : Nat) (s : State) : Out :=
  .next (mctpControl s fun s =>
    if selector = 0 then respond s 0 0 (leBytes 1 0xFF ++ leBytes 1 1 ++ beBytes 4 Config.vendorIana.toNat) else respond s 0 2 [])

/-! ### PLDM (R477, R479, R480) -/

/-- A PLDM request is answered by CP7, or ERROR_NOT_READY while CP7 does not run. -/
def pldm (s : State) (f : State → State) : State :=
  if !s.pwr.pwrGood then s else if cpState s 7 = 1 then f s else respond s 1 0x04 []

/-- PLDM_BASE: a command of type 0 (DSP0240): 1 SetTID, 2 GetTID, 3 GetPLDMVersion, 4 GetPLDMTypes, 5 GetPLDMCommands; types 0 and 2 are
supported. What TID and versions read as the spec leaves open (log 47). -/
def execPldmBase (cmd : Nat) (s : State) : Out :=
  .next (pldm s fun s =>
    if cmd = 4 then respond s 1 0 (leBytes 8 0b101)
    else if cmd = 5 ∨ cmd = 1 then respond s 1 0 []
    else if cmd = 2 ∨ cmd = 3 then
      let f := s.takeFree
      respond f.2 1 0 (leBytes 8 f.1.toNat)
    else respond s 1 0x05 [])

/-- GET_PDR_REPOSITORY_INFO: one numeric sensor PDR for each of the 15 sensors. -/
def execGetPdrRepositoryInfo (s : State) : Out := .next (pldm s fun s => respond s 1 0 (leBytes 4 15))

/-- Unit of a sensor, in the order of R480: 1 mV, 2 mA, 3 0.1 W, 4 0.125 °C, 5 count, 6 beats, 7 state, 8 0.1 %. -/
def sensorUnit (n : Nat) : Nat :=
  if n = 1 then 1 else if n = 2 then 2 else if n = 3 then 3 else if n ≤ 9 then 4 else if n = 10 ∨ n = 12 then 5 else if n = 11 then 6
  else if n = 14 then 8 else 7

/-- Thresholds of a sensor: warning, critical, fatal, upper but for sensors 10 and 14, whose are lower; none where R480 gives none. -/
def sensorLimits (s : State) (n : Nat) : List (Option Int) :=
  if n = 1 then [some 57000, some 58000, none]
  else if n = 2 then [none, some 42000, none]
  else if n = 3 then [some ((10 * s.pwr.cap.applied : Nat) : Int), none, none]
  else if n ≤ 9 then [some 800, some 840, some 880]
  else if n = 10 then [some 799, some 499, none]
  else if n = 14 then [some 20, some 5, none]
  else if n = 15 then [none, some 1, none]
  else [none, none, none]

/-- A threshold as a flag and a value of 32 bits. -/
def limitBytes : Option Int → List Byte
  | some v => leBytes 1 1 ++ leBytes 4 (BitVec.ofInt 32 v).toNat
  | none => leBytes 1 0 ++ leBytes 4 0

/-- GET_PDR: the record of a sensor by its handle, which is the sensor's ID; 0 asks for the first (log 47). -/
def execGetPdr (record : Nat) (s : State) : Out :=
  .next (pldm s fun s =>
    let n := if record = 0 then 1 else record
    if 15 < n then respond s 1 0x82 []
    else respond s 1 0 (leBytes 4 n ++ leBytes 1 (sensorUnit n) ++ ((sensorLimits s n).map limitBytes).flatten))

/-- GET_SENSOR_READING: the value for the last tick whose telemetry record is complete. -/
def execGetSensorReading (sensor : Nat) (s : State) : Out :=
  .next (pldm s fun s =>
    if sensor = 0 ∨ 15 < sensor then respond s 1 0x80 []
    else respond s 1 0 (leBytes 4 (BitVec.ofInt 32 (s.pwr.sensors.getD (sensor - 1) 0)).toNat))

/-! ### Vendor messages (R481) -/

/-- RECORDER_READ: up to COUNT records from a SEQ on, from SRAM, or with bit 7 of COUNT from the persisted history; what SRAM gives counts
as returned (R489). -/
def execRecorderRead (from_ count : Nat) (s : State) : Out :=
  .next (vendorSp s fun s =>
    let n := count % 128
    if n = 0 ∨ 32 < n ∨ 255 < count then vendorReply s 0x01 stInvalid []
    else
      let all := if 128 ≤ count then s.evr.persistedRecs else recsBySeq s
      let rs := (all.filter fun r => decide (from_ ≤ r.seq)).take n
      let s1 := vendorReply s 0x01 stOk (rs.map recordBytes).flatten
      if 128 ≤ count then s1
      else markPersisted (mapRecs s1 fun r => { r with returned := r.returned || rs.any fun x => x.seq == r.seq }))

/-- ALERT_ACK. -/
def execAlertAck (seq : Nat) (s : State) : Out :=
  .next (vendorCp7 s 0x02 fun s =>
    vendorReply (markPersisted { s with evr := { s.evr with ackSeq := max s.evr.ackSeq seq } }) 0x02 stOk [])

/-- The device's retirement list becomes that of an ANCHOR_SET, with each element retired since this start added once (R481). -/
def anchorList (s : State) (entries : List (List Byte)) : State :=
  { s with ras := { s.ras with retire := s.ras.retiredHere.foldl (addRetired s) entries } }

/-- ANCHOR_SET: the first case of R490 that applies. Its arrival releases the ALERT_N of a path change (R487). -/
def execAnchorSet (opsec pcc : Nat) (entries : List (List Byte)) (s0 : State) : Out :=
  .next (vendorSp s0 fun s0 =>
    let s : State := { s0 with evr := { s0.evr with anchorDue := false } }
    if 256 < entries.length ∨ entries.any (fun e => e.length != 16) then vendorReply s0 0x03 stInvalid []
    else if s.evr.path = 0 ∨ !s.evr.early then vendorReply s 0x03 stBusy []
    else
      let s1 : State := { s with evr := { s.evr with path := 1, unanchored := false } }
      let s2 := if s.evr.bistDone then mapRecs s1 fun r => { r with unanchored := false } else s1
      vendorReply (anchorList (loadAnchor s2 (opsec % 2 ^ 40) (pcc % 2 ^ 24)) entries) 0x03 stOk [])

/-- ANCHOR_GET: OPSEC, PCC and the retirement list that outlives this run. -/
def execAnchorGet (s : State) : Out :=
  .next (vendorCp7 s 0x04 fun s =>
    vendorReply s 0x04 stOk (leBytes 5 (opsecNow s) ++ leBytes 3 s.evr.pcc ++ leBytes 2 (keptList s).length ++ (keptList s).flatten))

/-- RETIRE_CLEAR: the retirement list is cleared with effect from the next cold start; what is retired from here on stays on it. -/
def execRetireClear (s : State) : Out :=
  .next (vendorCp7 s 0x08 fun s =>
    let s1 : State := { s with ras := { s.ras with clearRetire := true, retiredHere := [] } }
    let s2 : State := if s.evr.path = 0 then { s1 with evr := { s1.evr with flashRetire := [] } } else s1
    vendorReply (recordEvent s2 0xD002 7 []) 0x08 stOk [])

end Sys2Proof.Machine
end

