-- ==== Sys2Proof/Machine/Start.lean ====
section
/-!
DEFINITION. The start of the device: the SP ROM's tests, delivery of the bundle and the steps up to READY, the CXL link (20 R444, R448,
21 R457 to R466, 22 R487, R488, 23 R491 to R496).
-/
namespace Sys2Proof.Machine

/-- The start stops: START_FAULT with its cause, and READY does not rise (R494). -/
def startFault (s : State) (cause : Nat) : State :=
  { s with ras := { s.ras with state := 2, failCause := cause }, hst := { s.hst with ready := false } }

/-- The start stops for a cause that no event of 22 R484 names: FAIL_CAUSE is a value that the spec leaves open (log 51). -/
def startFaultOpen (s : State) : State :=
  let f := s.takeFree
  startFault f.2 (f.1.toNat % 65536)

/-! ### COLD_START (R492 step 2, 21 R457, R458) -/

/-- The majority of one bit over the reads of the index cells. -/
def majorityBit (reads : List (List Byte)) (i j : Nat) : Bool :=
  decide (reads.length < 2 * (reads.filter fun r => (r.getD i 0).getLsbD j).length)

/-- A byte from its bits, by number. -/
def byteOfBits (b : Nat → Bool) : Byte :=
  BitVec.ofNat 8 ((List.range 8).foldl (fun n j => n + if b j then 2 ^ j else 0) 0)

/-- The 128 bytes of the index cells: the majority of each bit over the reads (21 R458 step 1). -/
def majorityOf (reads : List (List Byte)) : List Byte := (List.range 128).map fun i => byteOfBits (majorityBit reads i)

/-- The SP ROM reads the lid's latch of a tripped rail, records the event that names the rail, and clears the latch (02 R26). -/
def readTrip (s : State) : State :=
  match s.pwr.tripLatch with
  | none => s
  | some r =>
    let t := recordEvent s 0xB003 srcSp [r]
    { t with pwr := { t.pwr with tripLatch := none } }

/-- COLD_START: the SP ROM reads the lid's latch, tests its engines, reads the PUF and tests the SRAM of the control processors; then it awaits the bundle. -/
def execColdStart (selfTestOk sramOk : Bool) (pufReads : List (List Byte)) (pufKey : List Byte) (s : State) : Out :=
  if !s.pwr.pwrGood ∨ s.start.step ≠ 1 ∨ s.ras.state ≠ 0 then .next s
  else
    let s1 := readTrip (recordEvent s 0x0001 srcSp [])
    if !selfTestOk then
      let s2 := recordEvent { s1 with sec := { s1.sec with state := 3 } } 0xA001 srcSp []
      .next (startFault s2 0xA001)
    else if !sramOk then .next (startFaultOpen s1)
    else
      let index := majorityOf pufReads
      .next { s1 with start := { s1.start with step := 2 },
                      sec := { s1.sec with state := 1, pufIndex := index, pid := (sha3_512 index).take 16, pufKey := pufKey } }

/-! ### The repair map (20 R444, R445, 04 R87 to R89, R114) -/

/-- Adds numbers to a rising list without repeats. -/
def addAll (l : List Nat) (xs : List Nat) : List Nat := xs.foldl addSet l

/-- Array rows that entries of a retirement list name: die, tile, array, row. -/
def listedRows (l : List (List Byte)) : List (Nat × Nat × Nat × Nat) :=
  (l.filter fun e => fieldAt e 0 1 == 1).map fun e =>
    (fieldAt e 1 1, bitsOf (fieldAt e 2 2) 5 0, bitsOf (fieldAt e 2 2) 6 6, bitsOf (fieldAt e 2 2) 13 7)

/-- Tiles that entries of a retirement list name, 44 die + p. -/
def listedTiles (l : List (List Byte)) : List Nat :=
  (l.filter fun e => fieldAt e 0 1 == 0).map fun e => 44 * fieldAt e 1 1 + fieldAt e 2 2

/-- Link wires that entries of a retirement list name: die, link, lane group, wire. -/
def listedWires (l : List (List Byte)) : List (Nat × Nat × Nat × Nat) :=
  (l.filter fun e => fieldAt e 0 1 == 2).map fun e =>
    (fieldAt e 1 1, bitsOf (fieldAt e 2 2) 1 0, bitsOf (fieldAt e 2 2) 11 2, bitsOf (fieldAt e 2 2) 15 12)

/-- Engines that entries of a retirement list name, 32 die + engine. -/
def listedEngines (l : List (List Byte)) : List Nat :=
  (l.filter fun e => fieldAt e 0 1 == 3).map fun e => 32 * fieldAt e 1 1 + fieldAt e 2 2

/-- Key of an array in ROW_MAP: 88 die + 2 tile + array. -/
def arrayKey (r : Nat × Nat × Nat × Nat) : Nat := 88 * r.1 + 2 * r.2.1 + r.2.2.1

/-- The failed rows of an array, each once. -/
def rowsOfArray (rows : List (Nat × Nat × Nat × Nat)) (k : Nat) : List Nat :=
  addAll [] ((rows.filter fun r => arrayKey r == k).map fun r => r.2.2.2)

/-- ROW_MAP: the one failed row of each array that has exactly one. -/
def rowMapOf (rows : List (Nat × Nat × Nat × Nat)) : NMap Nat :=
  (addAll [] (rows.map arrayKey)).filterMap fun k => match rowsOfArray rows k with | [r] => some (k, r) | _ => none

/-- Tiles that fail because one of their arrays has two failed rows or more (05 R114), 44 die + p. -/
def rowTiles (rows : List (Nat × Nat × Nat × Nat)) : List Nat :=
  (addAll [] (rows.map arrayKey)).filterMap fun k => if 2 ≤ (rowsOfArray rows k).length then some (44 * (k / 88) + k % 88 / 2) else none

/-- The factory binding of a logical tile within its die (04 R87). -/
def factoryTile (i : Nat) : Nat := 11 * (i / 10) + i % 10

/-- The bindings of a die that differ from the factory binding: each logical tile whose physical tile is retired, in ascending order, takes
the lowest good spare not yet taken. -/
def bindDie (bad : List Nat) (d : Nat) : NMap Nat :=
  let moved := (List.range 40).filter fun i => bad.contains (44 * d + factoryTile i)
  let spares := [10, 21, 32, 43].filter fun p => !bad.contains (44 * d + p)
  (List.zip moved spares).map fun e => (40 * d + e.1, e.2)

/-- Spare wires in use by lane group: die, link, group, each once. -/
def wireGroups (ws : List (Nat × Nat × Nat × Nat)) : List (Nat × Nat × Nat) := (ws.map fun w => (w.1, w.2.1, w.2.2.1)).eraseDups

/-- The repair map, with the spare wire of every lane group that has a failed one selected (02 R17), from the vendor map, the
retirement list and what BIST found; beside the state, the cause for which the device may take no work, if a limit of R444 is
exceeded: none, an event code, or 0 for a cause that no event names. -/
def buildRepair (s : State) (b : BistResult) : State × Option Nat :=
  let vendorRows : List (Nat × Nat × Nat × Nat) := match s.fw.bundle with | some x => x.vendorRows | none => []
  let rows := vendorRows ++ listedRows s.ras.retire ++ b.rows
  let bad := addAll [] (s.ras.vendor ++ listedTiles s.ras.retire ++ b.tiles.map (fun e => 44 * e.1 + e.2) ++ rowTiles rows)
  let wires := (listedWires s.ras.retire ++ b.wires).eraseDups
  let source := bit1 (!(s.ras.vendor.isEmpty && vendorRows.isEmpty)) +
    2 * bit1 (!(b.tiles.isEmpty && b.rows.isEmpty && b.engines.isEmpty) || !b.wires.isEmpty || b.deckBad || b.cpSramBad) + 4 * bit1 (!s.ras.retire.isEmpty)
  let s1 : State := { s with
    dies := { s.dies with bad := bad, tileMap := ((List.range 4).map (bindDie bad)).flatten, rowMap := rowMapOf rows, bindAt := [],
                          gen := s.dies.gen + 1, mapTick := s.tkp.now, source := source }
    rad := { s.rad with deadEng := addAll [] (listedEngines s.ras.retire ++ b.engines.map fun e => 32 * e.1 + e.2) }
    ras := { s.ras with wires := wires.map fun w => (w.1, w.2.1, w.2.2.1, s.tkp.now) } }
  let cause := if (List.range 4).any (fun d => decide (4 < (bad.filter fun x => x / 44 == d).length)) then some 0x1008
    else if (wireGroups wires).length < wires.length then some 0x1007
    else if b.deckBad ∨ b.cpSramBad then some 0
    else none
  (s1, cause)

/-- The start stops for a limit of R444: with its critical event where one names it. -/
def bistFault (s : State) (cause : Nat) : State :=
  if cause = 0 then startFaultOpen s else startFault (recordEvent s cause srcHw []) cause

/-! ### What the steps after verification set up -/

/-- The bundle is accepted: identity, policy, measurements, the retained images, SEC_STATE VERIFIED (21 R458 to R466, 18 R403). -/
def acceptBundle (s : State) (b : Bundle) (id : List Byte × List Byte × List Byte) : State :=
  let s1 : State := { s with
    sec := { s.sec with state := 2, identity := true, pk := id.1, sk := id.2.1, devId := id.2.2, ownerFlags := b.ownerFlags, ownerKey := b.ownerKey,
                        encRequired := b.ownerFlags.getLsbD 2, svn := b.svn, minSvn := b.minSvn }
    fw := { s.fw with bundle := some b, retained := b.cpImages, build := b.build }
    hst := { s.hst with cmdsetRev := b.cmdsetRev }
    ras := { s.ras with vendor := addAll [] (b.vendorTiles.map fun e => 44 * e.1 + e.2) } }
  let s2 := extendAll 0 0 [Config.romVersion, b.rootKey, b.signerCert] s1
  let s3 := extendAll 2 0 (b.spImage :: b.cpImages) (extendAll 1 0 [b.header, b.manifest] s2)
  let s4 := extendAll 4 0 [b.cardProfile, b.domainProfile] (extendAll 3 0 b.kernelSets s3)
  recordEvent (extendAll 5 0 [b.ownerCert ++ b.ownerSigR, b.repairMap] s4) 0x9004 srcSp []

/-- The granules of the BASE registers in the order of StartEnv.bases. -/
def baseGranules : List Nat := [128, 64, 64, 128, 64, 64, 64, 128, 32, 32, 64]

/-- The base that firmware writes: a BASE register holds no bits below its granule (00 R7). -/
def baseAt (bases : List Nat) (i : Nat) : Nat := bases.getD i 0 / baseGranules.getD i 1 * baseGranules.getD i 1

/-- The GPIO pins take the functions of a card profile (02 R43, log 91). -/
def gpioSetup (p : Power) (profile : List Byte) : Power :=
  { p with gpioFn := (List.range 16).map (Config.gpioFunction profile),
           gpioDir := BitVec.ofNat 16 ((List.range 16).foldl (fun n i => n + 2 ^ i * bit1 (Config.gpioOutput profile i)) 0),
           gpioPull := BitVec.ofNat 16 ((List.range 16).foldl (fun n i => n + 2 ^ i * bit1 (Config.gpioPulled profile i)) 0) }

/-- The control processors start, with what they read at their start: profiles, base addresses, the fabric's mode (R491, 14 R327). -/
def startCps (s : State) (b : Bundle) (bases : List Nat) (areas : List (Nat × Nat)) : State :=
  let at_ := baseAt bases
  let s1 : State := { s with
    fw := { s.fw with cpState := (List.range 8).map (fun p => (p, 1)), orphanHold := b.orphanHold, traceMask := b.traceMask, logBase := at_ 7,
                      traceBase := at_ 8, stateAreas := areas, imported := [] }
    ras := { s.ras with stressH := b.stressH, sentBase := at_ 9 }
    tkp := { s.tkp with planBase := at_ 0 }
    pwr := gpioSetup { s.pwr with telBase := at_ 1 } b.cardProfile
    srv := { s.srv with poolBase := at_ 2, reqBase := at_ 3, budgetBase := at_ 4, adapterBase := at_ 5, grammarBase := at_ 6 }
    fab := { s.fab with regionBase := at_ 10, device := b.deviceNum, prot := b.senderTrusted && b.ownerFlags.getLsbD 0,
                        paths := b.paths.foldl (fun m p => NMap.insert m p.1 (p.2.map fun x => Path.mk x.1 x.2 0 false false)) [] } }
  if b.senderTrusted ∧ !b.ownerFlags.getLsbD 0 then recordEvent s1 0xA004 5 [] else s1

/-- The persistence path and, on the flash path, the anchor (22 R487, R488). A flash area in service is the path although an anchor may
have come already, whose values stay (log 52). -/
def startPath (s : State) (e : StartEnv) : State :=
  let rec_ := if e.nandFitted then recBlocksOf s.fla.bad e.nand else []
  if recServes rec_ then
    let s1 : State := { s with evr := { s.evr with path := 0 }, fla := { s.fla with recBlocks := rec_ } }
    if s.evr.early then
      let s2 := loadAnchor { s1 with ras := { s1.ras with retire := s1.evr.flashRetire } } s.evr.persistedOps s.evr.flashPcc
      { s2 with evr := { s2.evr with flashPcc := s2.evr.pcc } }
    else s1
  else s

/-- The end of BIST: without a path every record so far and to come is UNANCHORED (22 R487, R490). -/
def endBist (s : State) : State :=
  let s1 : State := { s with evr := { s.evr with bistDone := true } }
  if s.evr.path = 2 then
    recordEvent (mapRecs { s1 with evr := { s1.evr with unanchored := true } } fun r => { r with unanchored := true }) 0xD001 7 []
  else s1

/-- NAND that the device supports: 16 channels populated alike, within the limits of 11 R247. -/
def nandSupported (l : List NandChan) : Bool :=
  l.length == 16 && l.all (fun c => c.page == 16384 && decide (2176 ≤ c.spare) && c.slc && decide (1 ≤ c.targets ∧ c.targets ≤ 4) &&
    decide (1 ≤ c.luns ∧ c.luns ≤ 4) && l.all (nandAlike c)) && decide ((l.map (·.bytes)).sum ≤ 2 ^ 43)

/-- The flash tier at a start (11 R247, R254, R255). -/
def startFlash (s : State) (e : StartEnv) : State :=
  if !e.nandFitted then s
  else
    let s1 : State := { s with hst := { s.hst with nand := true }, fla := { s.fla with chans := e.nand } }
    if !nandSupported e.nand then recordEvent s1 0xC001 6 []
    else
      let s2 : State := { s1 with fla := { s1.fla with state := 0, stripes := (e.nand.map (·.pages)).foldl min (2 ^ 12), sbs := formSbs s1.fla.bad e.nand e.freeSb } }
      flashState { s2 with fla := { s2.fla with sparePermil := worstSpare s2 } }

/-- GLB_MEM by population and ECC mode (08 R163). -/
def startMem (s : State) (clamshell ecc : Bool) : State :=
  let u := if clamshell then (if ecc then 248 else 256) else if ecc then 124 else 128
  { s with hst := { s.hst with usableGib := u, interGib := u - 4, clamshell := clamshell, ecc := ecc } }

/-- A mismatch of the stress variant, or of the sentinel pass after it, on a bound tile at a start: the tile is retired and its logical tile
bound to a spare; with none left the start stops (20 R447, R448, R494). -/
def startMiss (s : State) (t : Nat) : State :=
  let d := dieOf t
  let p := physOf s t
  if s.ras.state ≠ 0 then s
  else
    let s1 := recordEvent { s with ras := { s.ras with sentMiss := satAdd 16 s.ras.sentMiss 1, cntTile := satAdd 16 s.ras.cntTile 1 } } 0x1003 7 []
    let s2 := retireTile (recordEvent s1 0x1002 srcHw [t, p, 0x1003]) d p 0x1003
    match (goodUnbound s2 d).head? with
    | some n => { s2 with dies := { s2.dies with tileMap := NMap.insert s2.dies.tileMap t n, gen := s2.dies.gen + 1, mapTick := s2.tkp.now,
                                                 source := s2.dies.source ||| 4 } }
    | none => startFault (recordEvent s2 0x1008 srcHw []) 0x1008

/-- The image sets of the bundle join the dies' sets, startable at once (04 R68); one of them is the attention image set (09 R203). -/
def startImages (s : State) (b : Bundle) : State :=
  b.images.foldl (fun x (i : Nat × Nat × List Byte) =>
    let dies := maskDies i.1
    match (loadImage x dies i.2.1 i.2.2.length i.2.2 true).2 with
    | some im => joinImage x dies i.2.1 { im with startable := x.tkp.now }
    | none => x) { s with dies := { s.dies with attnSet := b.attnSet } }

/-- READY rises: attention class 3, the recovery report of a cold start, the Watric ports of the domain profile begin to train (R492, R493). -/
def startReady (s : State) (ports : List Nat) : State :=
  let s1 : State := { s with hst := { s.hst with ready := true }, fw := { s.fw with beatTick := s.tkp.now },
                             start := { s.start with step := 9, readyOnce := true } }
  ports.foldl (fun x p => if p < 8 then modPort x p fun w => { w with state := 1 } else x) (buildReport s1 1 true)

/-- The channels that fail training now, of those not lost before. -/
def untrained (s : State) (trained : BitVec 32) : List Nat :=
  (List.range 32).filter fun c => !trained.getLsbD c && !s.mem.lost.contains c

/-- The event of a channel's loss: that of a journal channel, or that of any other (08 R504). -/
def lossEvent (ch : Nat) : Nat := if ch = 0 ∨ ch = 16 then 0x2003 else 0x2004

/-- A channel that fails training is lost, and the start stops with its event as the cause (08 R504, R494). -/
def trainingFault (s : State) (chs : List Nat) : State :=
  chs.foldl (fun x c => startFault (recordEvent { x with mem := { x.mem with lost := addSet x.mem.lost c } } (lossEvent c) srcHw [])
    (lossEvent c)) s

/-- Steps 6 to 9 after a bundle has been accepted. A population that breaks 01 R11 is reported as a channel fault of no channel by
itself (log 51). -/
def startSteps (s : State) (b : Bundle) (e : StartEnv) : State :=
  let s1 := startPath (startFlash (startCps s b e.bases e.stateAreas) e) e
  let r := buildRepair s1 e.bist
  match r.2 with
  | some c => bistFault r.1 c
  | none =>
    let s2 := endBist r.1
    if !(untrained s2 e.trained).isEmpty then trainingFault s2 (untrained s2 e.trained)
    else if !e.sameDevices then startFault (recordEvent s2 0x2004 srcHw []) 0x2004
    else
      let s3 := startMem { s2 with ras := { s2.ras with stress := satAdd 16 s2.ras.stress 4, stressAt := (List.range 4).map fun d => (d, s2.tkp.now) } } e.clamshell b.eccOn
      let s4 := (e.stressBad.filter fun t => decide (t < 160)).foldl startMiss s3
      if s4.ras.state ≠ 0 then s4 else startReady (startImages s4 b) b.ports

/-- SEC_MBX_STATUS takes a status. -/
def mbxAnswer (s : State) (status : Nat) : State := { s with sec := { s.sec with mbxStatus := withClass s status } }

/-- BUNDLE_LOAD (R460 to R462, R492 steps 4 to 9). The bundle that the SP reads, and what the start finds, are operands; the steps up to
READY take no time of the model (log 51). -/
def execBundleLoad (b : Bundle) (e : StartEnv) (s : State) : Out :=
  if s.sec.state = 0 then .next s
  else if s.sec.state = 2 then .next (mbxAnswer s stBusy)
  else if s.sec.state = 3 then
    let f := s.takeFree
    .next (mbxAnswer f.2 (f.1.toNat % 4096))
  else
    match bundleFail s b, identityOf s b with
    | some n, _ => .next (mbxAnswer (refuseBundle s n) (refusalStatus b n))
    | none, none => .next (mbxAnswer (refuseBundle s 4) stDenied)
    | none, some id => .next (startSteps (mbxAnswer (acceptBundle s b id) stOk) b e)

/-! ### The CXL link (R492 step 3, 16 R352) -/

/-- CXL_LINK_TRAINING: the link has trained, at one of the widths and rates of R352, and configuration space is ready. -/
def execCxlLinkTraining (lanes gts : Nat) (s : State) : Out :=
  if s.pwr.pwrGood ∧ (lanes = 16 ∨ lanes = 8) ∧ (gts = 32 ∨ gts = 16 ∨ gts = 8) then
    .next { s with hst := { s.hst with linkUp := true, linkLanes := lanes, linkGts := gts, cfgReady := true } }
  else .next s

end Sys2Proof.Machine
end

