-- ==== Sys2Proof/Machine/Tiles.lean ====
section
/-!
DEFINITION. The overcast stream, the dispatcher and the end of kernels (04 R71 to R85, 03 R57 to R61, 02 R28, R32, 17 R388,
R394, R396, R397).
-/
namespace Sys2Proof.Machine

/-! ### The start of a kernel (R71, R74, 07 R144, 05 R99, 17 R388) -/

/-- An array as a kernel finds it: its weight sets count as empty, and nothing of an earlier kernel is in flight. -/
def ArrayUnit.enter (u : ArrayUnit) : ArrayUnit :=
  { u with set0 := { u.set0 with filled := false }, set1 := { u.set1 with filled := false }, freeAt := 0, lastMma := [], used := [],
           portHeld := [], portUse := 0, flights := [] }

/-- A tile handed to another context: its store and X and Y memories read as zero, its mask registers are all ones. -/
def Tile.handOver (x : Tile) (c : Nat) : Tile :=
  if x.holder = some c then x
  else { x with x := [], y := [], st := [], mreg := (List.range 16).map fun i => (i, BitVec.allOnes 64), late := [], holder := some c }

/-- The array starts that a kernel takes of its beat's allowance: one for each array to which its image issues and to which no instruction
issued in the preceding beat (02 R32; log 49). -/
def arrayStarts (s : State) (t : Nat) (im : Image) : Nat := ((arraysOf im).filter fun a => ((tileAt s t).getArr a).lastBeat != launch s).length

/-- A kernel starts on a tile at this beat with an argument set in S0 to S7; work of the radio has context 1,024 and slice 64. An entry that
waits on the tile for the allowance returns to its queue (02 R32). -/
def startKernel (s0 : State) (t : Nat) (kernel : Nat) (im : Image) (args : List W64) (slice context : Nat) (isStatic : Bool)
    (job : Option StealJob) : State :=
  let s := unparkJob s0 t
  let r : Running := { kernel := kernel, imageId := im.imageId, tick := s.tkp.now, beat := s.tkp.beat, length := im.length, slice := slice,
                       context := context, verified := im.verified, isStatic := isStatic, onFloor := isFloor s t, job := job, ended := false }
  let x := (tileAt s t).handOver context
  let sregs : NMap W64 := (List.zip (List.range 8) args).filter fun e => e.2 ≠ 0
  let x1 := { x with state := if isStatic then .static else .dynamic, run := some r, pc := 0, loops := [], rep := 0, cyc := 4, wait := none,
                     v := [], s := sregs, a := [], b := [], l := [], la := [], laWr := [], laRd := [], miss := none,
                     ar0 := x.ar0.enter, ar1 := x.ar1.enter,
                     tags := [], fin := 0, pend := [], ran := addSet x.ran context }
  let s1 := setTile s t x1
  let s2 : State := { s1 with tkp := { s1.tkp with startsThisBeat := s1.tkp.startsThisBeat + arrayStarts s t im } }
  match job.bind (·.attn) with
  | some (q, seq, _) => { s2 with attn := s2.attn.map fun a => if a.q = q ∧ a.seq = seq then { a with jobs := a.jobs + 1 } else a }
  | none => s2

/-! ### Guards (R79, R80) -/

/-- A sync counter as guards see it at a cycle of the tick. -/
def syncSeen (s : State) (ctr cycle : Nat) : Nat :=
  (NMap.getD s.tkp.sc ctr 0 + (s.tkp.scPend.filter fun p => p.1 == ctr && decide (p.2 ≤ cycle)).length) % 65536

/-- The static starts of a unit in this tick that have not issued. -/
def startsLeft (s : State) (u : Nat) : List OWord := (wordsNow s).filter fun w => startsUnit w u && !s.tkp.issued.contains w.beat

/-- Slice and context of a static start of open-tile work; none for work of the radio. -/
def ownerOf (s : State) (beat u : Nat) : Option (Nat × Nat) :=
  match currentPlan s with
  | some p => (p.owners.find? fun o => o.1 == beat && o.2.1 == u).map fun o => o.2.2
  | none => none

/-- A unit holds: it takes no new dynamic work. -/
def holdUnit (s : State) (u : Nat) : State :=
  let s1 : State := { s with tkp := { s.tkp with stand := NMap.insert s.tkp.stand u 1 } }
  if u < 160 ∧ (tileAt s u).state = .openIdle then modTile s1 u fun x => { x with state := .hold } else s1

/-- A guard fails: the unit's remaining static actions do not issue, and it holds until the seam; the steps of open-tile contexts
are withdrawn, and work of the radio is skipped (R80). -/
def guardFails (s : State) (u ctr : Nat) : State :=
  let left := startsLeft s u
  let owners := (left.filterMap fun w => (ownerOf s w.beat u).map (·.2)).eraseDups
  let s1 := holdUnit (recordEvent { s with tkp := { s.tkp with guardOff := addSet s.tkp.guardOff u } } 0x1006 srcHw [u, ctr]) u
  let s2 := owners.foldl withdrawStep s1
  if left.any fun w => (ownerOf s w.beat u).isNone then
    unitLost s2 u 2
  else s2

/-- Decides the guards of earlier beats, or with `all` every guard of the tick, each by its counter at the
last cycle of its beat, which is cycle 239 at 2.4 GHz (R79; 179 or 119 in a quiet mode: log 80). -/
def settleGuards (s : State) (all : Bool) : State :=
  let due := s.tkp.guards.filter fun g => all || decide (g.2.2.2 < s.tkp.beat)
  let s1 : State := { s with tkp := { s.tkp with guards := s.tkp.guards.filter fun g => !(all || decide (g.2.2.2 < s.tkp.beat)) } }
  due.foldl (fun y g =>
    if y.tkp.guardOff.contains g.1 || decide (g.2.2.1 ≤ syncSeen y g.2.1 (beatCycles s * (g.2.2.2 + 1) - 1)) then y else guardFails y g.1 g.2.1) s1

/-- The end of the last scrub of a slice reset: the slice's page is ready again, and RESET_REQ is DONE (17 R395). -/
def sliceResetEnds (s : State) (slice q seq : Nat) : State :=
  let s1 : State := { s with slc := { s.slc with scrubBy := NMap.erase s.slc.scrubBy slice,
                                                 pages := NMap.adjust s.slc.pages slice fun x => { x with inReset := false } } }
  finish s1 q seq stOk 0

/-- Scrubs end after beat 19, and the tiles take their standing action (17 R394). -/
def settleScrubs (s : State) : State :=
  if s.tkp.beat < 20 then s
  else
    let s1 : State := { s with tiles := s.tiles.map fun (t : Nat × Tile) =>
      if t.2.state = .scrub then (t.1, { t.2 with state := idleState s t.1 }) else t }
    s1.slc.scrubBy.foldl (fun y e => sliceResetEnds y e.1 e.2.1 e.2.2) s1

/-! ### OVERCAST_WORD (R76, R78) -/

/-- A context whose static starts do not issue: barred, held or being held, or torn (R80, 17 R389, R393). -/
def ctxStops (s : State) (c : Nat) : Bool := s.dies.barred.contains c || (ctxAt s c).state != 3 || (ctxAt s c).holding

/-- A static start of a tile. Under an admission hold no unit starts on an open tile, so the step is withdrawn (02 R22, R26, log 88). -/
def startTile (s : State) (t kernel argset : Nat) : State :=
  match currentPlan s, imageAt s (dieOf t) kernel with
  | some p, some im =>
    let fromPlan := p.overcast.any fun w => w.beat == s.tkp.beat && startsUnit w t
    let sets := if fromPlan then p.argsets else match currentOverlay s with | some o => o.argsets | none => []
    let x := tileAt s t
    match ownerOf s s.tkp.beat t with
    | some (slice, c) =>
      if (ctxAt s c).state = 6 then s
      else if x.state = .fault ∨ x.state = .scrub ∨ isFloor s t ∨ ctxStops s c ∨ dieHeld s (dieOf t) then withdrawStep s c
      else if x.run.isSome then s
      else stepAgain (startKernel s t kernel im (sets.getD argset []) slice c true none) c
    | none =>
      if x.state = .fault then
        if s.ras.rerun.contains (t, s.tkp.now) then s else { s with ras := { s.ras with rerun := s.ras.rerun ++ [(t, s.tkp.now)] } }
      else if x.state = .scrub then unitLost s t 2
      else if x.run.isSome then s
      else startKernel s t kernel im (sets.getD argset []) 64 1024 true none
  | _, _ => s

/-- A static start of a non-tile unit: a code list, a descriptor chain, a transfer list. -/
def startJob (s : State) (u job : Nat) : State :=
  match (currentPlan s).bind fun p => NMap.find? p.jobs job with
  | none => s
  | some j =>
    let own := ownerOf s s.tkp.beat u
    match own with
    | some (_, c) => if ctxStops s c then (if (ctxAt s c).state = 6 then s else withdrawStep s c) else go j own
    | none => go j own
where
  go (j : PlanJob) (own : Option (Nat × Nat)) : State :=
    match j with
    | .code ptr => if 0xA0 ≤ u ∧ u < 0xA8 then startCodeList s (u - 0xA0) ptr else s
    | .dma desc => if 0xA8 ≤ u ∧ u < 0xB8 then { s with mem := { s.mem with dmaNext := NMap.insert s.mem.dmaNext (u - 0xA8) desc } } else s
    | .xfer ptr => if 0xB8 ≤ u ∧ u < 0xC0 then startXferList s (u - 0xB8) ptr (own.map (·.2)) else s

/-- One action entry of a word. -/
def issueEntry (s : State) (e : Nat × Act) : State :=
  if s.tkp.guardOff.contains e.1 then s
  else
    match e.2 with
    | .hold => holdUnit s e.1
    | .openA =>
      let s1 : State := { s with tkp := { s.tkp with stand := NMap.insert s.tkp.stand e.1 0 } }
      if e.1 < 160 ∧ (tileAt s e.1).state = .hold then modTile s1 e.1 fun x => { x with state := idleState s1 e.1 } else s1
    | .sync ctr target => { s with tkp := { s.tkp with guards := s.tkp.guards ++ [(e.1, ctr, target, s.tkp.beat)] } }
    | .start k a => if e.1 < 160 then startTile s e.1 k a else startJob s e.1 k

/-! ### Timed transfers (R91) -/

/-- The timed transfers whose cycle has come at the current beat, or with `all` every one of the tick, have left and arrived; the last
leaves in beat 1,233. -/
def timedLand (s : State) (all : Bool) : State := timedDue s (beatCycles s * (if all then 1250 else s.tkp.beat))

/-- The timed transfers of the sealed plan that leave in the current beat, each in its cycle (log 89). -/
def timedGo (s : State) : State :=
  match currentPlan s with
  | some p =>
    { s with tkp := { s.tkp with sends := (p.timed.filter fun r => r.cycle / beatCycles s == s.tkp.beat).foldl addSend s.tkp.sends } }
  | none => s

/-- OVERCAST_WORD: at cycle 0 of a beat its word issues, the sealed plan's before the overlay's (R76, 20 R440); the timed transfers of
the beat leave in their cycles (R91). -/
def execOvercastWord (s0 : State) : Out :=
  let s := settleScrubs (settleGuards s0 false)
  if 1233 < s.tkp.beat ∨ s.tkp.issued.contains s.tkp.beat then .next s
  else
    let s1 := ((wordsNow s).filter fun w => w.beat == s.tkp.beat).foldl (fun y w => w.entries.foldl issueEntry y) (timedGo (timedLand s false))
    .next { s1 with tkp := { s1.tkp with issued := addSet s1.tkp.issued s.tkp.beat } }

/-! ### DISPATCH (R81 to R85) -/

/-- The tile takes dynamic work in this beat. -/
def tileFree (s : State) (t : Nat) : Bool :=
  let x := tileAt s t
  x.state == .openIdle && x.run.isNone && x.nextJob.isNone && !isFloor s t

/-- A dynamic unit of a length fits a tile's remaining open duty (02 R28). -/
def dutyFits (s : State) (t length : Nat) : Bool := decide ((tileAt s t).spent + effLen s length ≤ dutyOf s (dieOf t))

/-- An entry is admissible on a tile now (R84), with the admission holds of 02 R22 and R26. -/
def admissible (s : State) (t : Nat) (j : StealJob) : Bool :=
  decide (1 ≤ shareLeft s t j.slice) && !ctxStops s j.context && (imageAt s (dieOf t) j.kernel).isSome && fitsBefore s t j.length &&
  dutyFits s t j.length && !dieHeld s (dieOf t)

/-- Neighbours of a tile on its die: left, right, above, below (R83). -/
def neighbours (t : Nat) : List Nat :=
  let i := t % 40
  (if i / 10 = 0 then [] else [t - 10]) ++ (if i % 10 = 0 then [] else [t - 1]) ++ (if i % 10 = 9 then [] else [t + 1]) ++
  (if i / 10 = 3 then [] else [t + 10])

/-- Inserts a neighbour into a list by falling queue length; equal lengths stay in the order of insertion, which is that of ids. -/
def insertLonger (s : State) (n : Nat) : List Nat → List Nat
  | [] => [n]
  | m :: ms => if (tileAt s m).q.length < (tileAt s n).q.length then n :: m :: ms else m :: insertLonger s n ms

/-- Neighbours in the order in which a tile tries their queues. -/
def neighbourOrder (s : State) (t : Nat) : List Nat := (neighbours t).foldl (fun l n => insertLonger s n l) []

/-- The entry that a tile takes: from its own queue, its neighbours', or its die's; with the queue it stands in. -/
def pickJob (s : State) (t : Nat) : Option (StealJob × Option Nat) :=
  match (t :: neighbourOrder s t).findSome? fun n => ((tileAt s n).q.find? (admissible s t)).map fun j => (j, some n) with
  | some x => some x
  | none => ((NMap.getD s.dies.queues (dieOf t) []).find? (admissible s t)).map fun j => (j, none)

/-- Takes an entry off the queue it stands in. -/
def takeJob (s : State) (t : Nat) (j : StealJob) (src : Option Nat) : State :=
  match src with
  | some n => modTile s n fun x => { x with q := x.q.filter fun k => k.seq != j.seq }
  | none => { s with dies := { s.dies with queues := NMap.modify s.dies.queues [] (dieOf t) fun q => q.filter fun k => k.seq != j.seq } }

/-- The array starts of the kernels that start statically in the current beat and have not issued, which take their share of the allowance
first (02 R32). -/
def staticLeft (s : State) : Nat :=
  if s.tkp.issued.contains s.tkp.beat then 0
  else (((wordsNow s).filter fun w => w.beat == s.tkp.beat).map fun w =>
    (w.entries.map fun e => match e.2 with
      | .start k _ => if e.1 < 160 then (match imageAt s (dieOf e.1) k with | some im => arrayStarts s e.1 im | none => 0) else 0
      | _ => 0).sum).sum

/-- A selected entry starts, if the array-start allowance of the beat has room; otherwise it waits on the tile (02 R32). An
argument set at an address that does not exist is not read, which bars its context as a tile's LD does (08 R164); one that reads
uncorrected is an uncorrected read of its context (08 R167). -/
def startJobOn (s : State) (t : Nat) (j : StealJob) (src : Option Nat) : State :=
  match imageAt s (dieOf t) j.kernel with
  | none => s
  | some im =>
    if 20 < s.tkp.startsThisBeat + staticLeft s + arrayStarts s t im then modTile s t fun x => { x with nextJob := some (j, src) }
    else
      if !tileRangeOk s j.argsPtr 64 then barContext (recordEvent s 0x2001 srcHw []) j.context 0x2001
      else if badRange s j.argsPtr 64 then barContext (recordUncorrected s j.argsPtr 64) j.context 0x2002
      else startKernel s t j.kernel im ((List.range 8).map fun i => BitVec.ofNat 64 (devNat s (j.argsPtr + 8 * i) 8)) j.slice j.context false (some j)

/-- A tile whose selected entry waits for the allowance starts it, or gives it back if it no longer fits (02 R32). -/
def retryNext (s : State) (t : Nat) : State :=
  match (tileAt s t).nextJob with
  | none => s
  | some (j, src) =>
    let s1 := modTile s t fun x => { x with nextJob := none }
    if fitsBefore s t j.length ∧ dutyFits s t j.length ∧ !ctxStops s j.context ∧ !dieHeld s (dieOf t) ∧
        (tileAt s t).state = .openIdle then startJobOn s1 t j src
    else giveBack s1 t j src

/-- The visit of one tile by its die's dispatcher. -/
def visitTile (s : State) (t : Nat) : State :=
  if (tileAt s t).nextJob.isSome then retryNext s t
  else if !tileFree s t then s
  else
    match pickJob s t with
    | some (j, src) => startJobOn (takeJob s t j src) t j src
    | none => s

/-- The queue that an enqueue names is full: 64 entries on a tile, 1,024 on a die (R82). -/
def queueFull (s : State) (a : Arrival) : Bool :=
  match a.tile with
  | some t => decide (64 ≤ (tileAt s t).q.length)
  | none => decide (1024 ≤ (NMap.getD s.dies.queues a.die []).length)

/-- The outcome of an enqueue (R82): INVALID, NO_RESOURCE, BUSY, or OK. A tile of another die is no target of the die (log 84). -/
def enqueueStatus (s : State) (a : Arrival) : Nat :=
  let j := jobOfBytes a.entry
  if !entryFormed a.entry ∨ j.length = 0 ∨ 64 < j.length ∨ (a.tile.any fun t => dieOf t != a.die) then stInvalid
  else
    match NMap.find? s.dies.images (1024 * a.die + j.kernel) with
    | none => stNoResource
    | some im =>
      if im.length ≠ j.length then stInvalid
      else if s.tkp.now < im.startable then stNoResource
      else if queueFull s a then stBusy
      else stOk

/-- The arrival that takes the next ENQ_SEQ: firmware's before slices', then the first slice at or above the pointer (17 R397). -/
def nextArrival (ptr : Nat) (as : List Arrival) : Option Arrival :=
  let rank := if as.any (·.firmware) then as.filter (·.firmware) else as
  let key := fun (a : Arrival) => ((jobOfBytes a.entry).slice + 64 - ptr) % 64
  rank.foldl (fun (m : Option Arrival) a => match m with | none => some a | some b => if key a < key b then some a else some b) none

/-- One entry is placed: on its tile's queue, on the lowest free tile on which it is admissible, or on its die's queue (R85). -/
def placeJob (s : State) (die : Nat) (tile : Option Nat) (j : StealJob) : State :=
  match tile with
  | some t => modTile s t fun x => { x with q := x.q ++ [j] }
  | none =>
    match ((List.range 40).map (40 * die + ·)).find? fun t => tileFree s t && admissible s t j with
    | some t => startJobOn s t j none
    | none => { s with dies := { s.dies with queues := NMap.modify s.dies.queues [] die (· ++ [j]) } }

/-- The entry takes the next ENQ_SEQ of its die, which moves the die's pointer past its slice (R81, R82, 17 R397). -/
def numberJob (s : State) (d : Nat) (j : StealJob) : State × StealJob :=
  let k := NMap.getD s.dies.enqSeq d 0
  ({ s with dies := { s.dies with enqSeq := NMap.insert s.dies.enqSeq d ((k + 1) % 2 ^ 64),
                                  tilePtr := NMap.insert s.dies.tilePtr d ((j.slice + 1) % 64) } }, { j with seq := k })

/-- One arrival is answered with its outcome, and placed if that is OK. -/
def takeArrival (s : State) (d : Nat) (a : Arrival) : State :=
  let st := enqueueStatus s a
  let s1 : State := { s with dies := { s.dies with enqOut := s.dies.enqOut ++ [(d, a.entry, st)] } }
  if st = stOk then placeJob (numberJob s1 d (jobOfBytes a.entry)).1 d a.tile (numberJob s1 d (jobOfBytes a.entry)).2 else s1

/-- The arrivals of a die in turn; the fuel is their number. -/
def arrive : Nat → List Arrival → State → Nat → State
  | 0, _, s, _ => s
  | n + 1, as, s, d =>
    match nextArrival (NMap.getD s.dies.tilePtr d 0) as with
    | none => s
    | some a => arrive n (as.erase a) (takeArrival s d a) d

/-- The counts of R396 of one slice on one die for this beat. -/
def countWindow (s : State) (d : Nat) (entries : List StealJob) (sl : Nat) : State :=
  let tiles := (List.range 40).map (40 * d + ·)
  let waiting := entries.any fun j => j.slice == sl && !ctxStops s j.context
  let noShare := tiles.all fun t => !((tileAt s t).state == .openIdle && decide (1 ≤ shareLeft s t sl))
  let others := tiles.any fun t => match (tileAt s t).run with | some r => r.slice != sl && decide (r.slice < 64) | none => false
  if waiting && noShare && others then
    let kept := dieHeld s d || tiles.any fun t => isFloor s t || (decide (1 ≤ shareLeft s t sl) && (tileAt s t).state == .hold) ||
      (decide (1 ≤ shareLeft s t sl) && decide (dutyOf s d ≤ (tileAt s t).spent))
    { s with slc := { s.slc with win := NMap.modify s.slc.win {} (4 * sl + d) fun w =>
        { w with off := w.off + 1, radio := w.radio + bit1 kept } } }
  else s

/-- The counts of R396 for this beat, once. -/
def countWindows (s : State) : State :=
  if s.slc.winAt = launch s + 1 then s
  else
    let s1 := (List.range 4).foldl (fun y d =>
      let es := NMap.getD s.dies.queues d [] ++ ((List.range 40).map fun i => (tileAt s (40 * d + i)).q).flatten
      ((es.map (·.slice)).foldl addSet []).foldl (fun z sl => countWindow z d es sl) y) s
    { s1 with slc := { s1.slc with winAt := launch s + 1 } }

/-- DISPATCH: at cycle 0 of a beat each die visits its tiles in ascending id and then places the arrivals (R85), whose
outcomes stand until the next (R82). -/
def execDispatch (arrivals : List Arrival) (s0 : State) : Out :=
  let s := settleScrubs (settleGuards s0 false)
  if 1233 < s.tkp.beat ∨ s.ras.state ≠ 0 then .next s
  else
    let s1 := (List.range 160).foldl visitTile { s with dies := { s.dies with enqOut := [] } }
    let s2 := (List.range 4).foldl (fun y d => arrive arrivals.length (arrivals.filter fun a => a.die == d) y d) s1
    .next (countWindows s2)

/-! ### The end of a kernel (R71, R72, 03 R60, R61) -/

/-- Beats that hold a number of cycles in the clock mode in force. -/
def beatsFor (s : State) (cycles : Nat) : Nat := (cycles + beatCycles s - 1) / beatCycles s

/-- KERNEL_END: END has issued and every operation has completed; from the next beat boundary the tile is idle, DONE_PTR is
incremented, an attention job is folded, and radio work reports (R71, R81, 09 R203, 13 R281); after a mismatch the tile faults
instead (05 R119). -/
def execKernelEnd (t : Nat) (radio : List RadioOut) (s : State) : Out :=
  let x := tileAt s t
  match x.run with
  | none => .next s
  | some r =>
    let n := beatsFor s x.total
    if !r.ended ∨ !x.opsOver ∨ launch s < 1250 * r.tick + r.beat + n then .next s
    else
      match (x.land x.total).miss with
      | some m => .next (residueFault s t m)
      | none =>
        let s1 := leaveTile (setTile s t (x.land x.total)) t r n
        let s2 := match r.job with | some j => if j.attn.isSome ∨ !tileRangeOk s1 j.donePtr 8 then s1 else bumpCounter s1 j.donePtr | none => s1
        let s3 := match r.job.bind (·.attn) with | some (q, seq, ch) => attnJobEnd s2 q seq ch | none => s2
        .next (if r.context = 1024 then radio.foldl radioOut s3 else s3)

/-- KERNEL_OVERRUN: still issuing at its declared length; a mismatch that has shown comes first (05 R119). Otherwise an unverified kernel is stopped and its context barred; for a floor or
static start it is a tile fault (03 R60, R61). In a quiet clock mode the limit is b + the effective length (log 83). -/
def execKernelOverrun (t : Nat) (s : State) : Out :=
  match (tileAt s t).run with
  | none => .next s
  | some r =>
    let c := beatCycles s * effLen s r.length
    if r.ended ∨ launch s < 1250 * r.tick + r.beat + effLen s r.length then .next s
    else match ((tileAt s t).land c).struck c with
    | some m => .next (residueFault s t m)
    | none =>
    if r.isStatic ∨ r.onFloor then .next (tileFault s t 0x1005)
    else
      let s1 := leaveTile s t r (effLen s r.length)
      let s2 : State := { s1 with tkp := { s1.tkp with faultOverrun := satAdd 16 s1.tkp.faultOverrun 1 } }
      .next (barContext (recordEvent s2 0x1005 srcHw [r.imageId]) r.context 0x1005)

/-- WAITD_TIMEOUT: a WAITD reaches its maximum wait: a fault of an unverified kernel, a tile fault of a verified one (R72). -/
def execWaitdTimeout (t : Nat) (s : State) : Out :=
  let x := tileAt s t
  match x.run, x.wait with
  | some r, some (_, c) =>
    if beatCycles s * (launch s - (1250 * r.tick + r.beat) + 1) ≤ c then .next s
    else match (x.land c).struck c with
      | some m => .next (residueFault s t m)
      | none => .next (ruleBreak s t r c)
  | _, _ => .next s

end Sys2Proof.Machine
end

