-- ==== Sys2Proof/Machine/Reset.lean ====
section
/-!
DEFINITION. Resets (23 R497 to R501, 16 R508, 01 R14, 17 R395, 21 R471, R474): how they are asked for, and what a warm, a function and a
slice reset do. Kinds by extent: 1 function, 2 warm; a cold reset acts at once.
-/
namespace Sys2Proof.Machine

/-! ### Asking for a reset (R497, R498) -/

/-- A request of a kind that finds a reset of its extent or more asked or in progress is absorbed by it; a more extensive one takes its
place. Its command, if it has one, waits. -/
def askReset (s : State) (kind : Nat) (cmd : List (Nat × Nat)) : State :=
  { s with start := { s.start with reset_ := max s.start.reset_ kind, waiting := s.start.waiting ++ cmd } }

/-- A request for a slice reset; while a more extensive reset is asked it is absorbed (01 R14). -/
def askSlice (s : State) (slice : Nat) (cmd : Option (Nat × Nat)) : State :=
  if s.start.reset_ ≠ 0 then { s with start := { s.start with waiting := s.start.waiting ++ cmd.toList } }
  else { s with start := { s.start with sliceAsk := s.start.sliceAsk ++ [(slice, cmd)] } }

/-- The extent of a kind of RESET_REQ and of the sideband: 1 warm, 2 function. -/
def extentOf (kind : Nat) : Nat := if kind = 1 then 2 else 1

/-- RESET_REQ (opcode 0x0005): 1 byte kind, 1 byte slice. -/
def execResetReq (q seq : Nat) (s : State) : Out :=
  .next (withCmd s q seq 0x0005 fun r s =>
    let kind := r.par 0 1
    if r.params.length ≠ 2 ∨ kind = 0 ∨ 3 < kind ∨ (kind = 3 ∧ 63 < r.par 1 1) then finish s q seq stInvalid 0
    else if kind = 3 then askSlice s (r.par 1 1) (some (q, seq))
    else if !s.start.readyOnce then finish s q seq stBusy 0
    else askReset s (extentOf kind) [(q, seq)])

/-- RESET_REQUEST (sideband, 22 R481): a cold reset runs the lid's power-down at once, which takes the answer with it. The other kinds are
answered OK as they are asked for, an absorbed one too: the spec gives the response no moment (DESIGN CHOICE, log 113). -/
def execResetRequest (kind slice : Nat) (s : State) : Out :=
  .next (vendorCp7 s 0x05 fun s =>
    if 3 < kind ∨ (kind = 3 ∧ 63 < slice) then vendorReply s 0x05 stInvalid []
    else if kind = 0 then coldLoss s
    else if kind = 3 then vendorReply (askSlice s slice none) 0x05 stOk []
    else if !s.start.readyOnce then vendorReply s 0x05 stBusy []
    else vendorReply (askReset s (extentOf kind) []) 0x05 stOk [])

/-- A reset ends: the requests that it carried out or absorbed complete OK, slice resets asked in the same tick among them. -/
def resetEnds (s : State) : State :=
  let cmds := s.start.waiting ++ s.start.sliceAsk.filterMap fun a => a.2
  cmds.foldl (fun x c => finish x c.1 c.2 stOk 0) { s with start := { s.start with reset_ := 0, waiting := [], sliceAsk := [] } }

/-! ### Commands at a warm reset (16 R508) -/

/-- Commands that a warm reset ends ABORTED: ATTN, ATTN_MERGE, the PREFIX commands, RAD_L2_OPEN, CTX_HOLD, CTX_RESUME, PLAN_LAUNCH,
FW_UPDATE, DEBUG_UNLOCK. -/
def warmAborted : List Nat := [0x0210, 0x0211, 0x0214, 0x0215, 0x0216, 0x0300, 0x0504, 0x0505, 0x0510, 0x0600, 0x0711]

/-- Commands that go on as they stand: REQ_ADMIT, and those bound to a seam. -/
def warmKept (op : Nat) : Bool := op == 0x0200 || seamOpcodes.contains op

/-- The status of a transfer-list entry that has none when its stream breaks (14 R312). -/
def entryBroken (e : XferEntry) : Nat := if e.op = 1 ∨ e.op = 2 ∨ e.op = 5 then stTimeout else stOutcomeUnknown

/-- Every entry without a final status of a command's transfer list takes that of a broken stream, so the list completes (14 R316). -/
def breakList (s : State) (port : Nat) (l : XList) : State :=
  ((List.zip (List.range l.entries.length) (List.zip l.entries l.status)).filter fun e => e.2.2.isNone).foldl
    (fun x e => entryDone x port l.num e.1 (entryBroken e.2.1)) s

/-- Every transfer list ends: those of FAB_XFER complete, those of plans are gone. -/
def breakLists (s : State) : State :=
  let cmds := (s.fab.ports.map fun (p : Nat × WPort) => (p.2.lists.filter fun l => l.cmd.isSome).map fun l => (p.1, l)).flatten
  let s1 := cmds.foldl (fun x e => breakList x e.1 e.2) s
  { s1 with fab := { s1.fab with ports := s1.fab.ports.map fun (p : Nat × WPort) => (p.1, { p.2 with lists := [] }) } }

/-- A FAB_XFER that has not started ends as its list would: every entry with the status of a broken stream. -/
def breakXfer (s : State) (r : JRec) : State :=
  let es := (List.range (r.par 8 2)).map fun i => entryOfBytes ((r.params.drop (40 + 32 * i)).take 32)
  let s1 := if r.par 16 8 = 0 then s else (devWrite s (r.par 16 8) (es.map fun e => leBytes 2 (entryBroken e)).flatten).1
  let s2 := if r.par 24 8 = 0 then s1 else bumpCounter s1 (r.par 24 8)
  finish s2 r.q r.seq (((es.map entryBroken).head?).getD stOk) 0

/-- A FAB_XFER whose parameters describe a list. -/
def xferFormed (s : State) (r : JRec) : Bool :=
  decide (40 ≤ r.params.length) && r.params.length == 40 + 32 * r.par 8 2 && decide (1 ≤ r.par 8 2) && usableRange s (r.par 16 8) (2 * r.par 8 2) &&
  usableRange s (r.par 24 8) 8

/-- The commands that are accepted and not DONE at a warm reset. -/
def warmCommands (s : State) : State :=
  let s1 := finishAll (journalReload s) (fun r => warmAborted.contains r.opcode) stAborted
  let s2 := finishAll s1 (fun r => r.opcode == 0x0301) stOk
  let s3 := (s2.hst.journal.filter fun r => r.stage == 1 && r.opcode == 0x0410 && xferFormed s2 r).foldl breakXfer s2
  let s4 := (s3.hst.journal.filter fun r => (r.stage == 1 || r.stage == 2) && r.opcode == 0x0005).foldl (fun x r => finish x r.q r.seq stOk 0) s3
  { s4 with hst := { s4.hst with journal := s4.hst.journal.map fun r => if r.stage = 2 ∧ !warmKept r.opcode then { r with stage := 1 } else r }
            tkp := { s4.tkp with seamQ := s4.tkp.seamQ.map fun c => { c with tick := max c.tick (applyTick s4), checked := false } } }

/-! ### WARM_RESET (R499, R501) -/

/-- Cells go OFF, ring pairs close, and the plans, streams and engines of the radio are gone. -/
def warmRadio (s : State) : State :=
  let s1 := (s.rad.cells.filter fun (c : Nat × Cell) => c.2.started).foldl (fun x c => goOff x c.1 8 false) s
  { s1 with rad := { s1.rad with cells := [], phys := [], radioQ := [], flashQ := [], engines := [], lists := [], streams := [] }
            tim := { s1.tim with synceLow := s1.tim.synceLow || s1.fh.any fun p => p.2.synceSrc }
            fh := s1.fh.map fun (p : Nat × FhPort) =>
              (p.1, { p.2 with linkUp := false, synceSrc := false, trainAt := if p.2.mode.applied = 0 then none else some s.tkp.now }) }

/-- A context at a warm reset: OUT; one that was ACTIVE restores at the first seam after READY. The SAVE extents of a context whose deck was
not saved read as zero (log 53). -/
def warmCtx (now : Nat) (x : Ctx) : Ctx :=
  { x with restoreAt := if x.state = 3 then some (now + 1) else none, readyAt := none, holdAsk := [], resumeAsk := none, holding := false,
           orphaned := false, left := [], fresh := x.fresh || [3, 4, 5, 6].contains x.state }

/-- Every context becomes OUT. -/
def warmContexts (s : State) : State :=
  (s.slc.ctxs.filter fun (c : Nat × Ctx) => c.2.state != 0).foldl (fun x c => ctxState (modCtx x c.1 (warmCtx s.tkp.now)) c.1 1) s

/-- Requests at a warm reset: steps are discarded, so what waits for a commit boundary happens now; moves whose copy was under way ask for
their outcome (10 R212, 11 R240); a load of adapter weights starts again. -/
def warmServing (s : State) : State :=
  let s0 : State := { s with srv := { s.srv with steps := [], adapters := s.srv.adapters.filter fun (a : Nat × Adapter) => a.2.state != 1 } }
  let s2 := (s.srv.steps.map fun (e : Nat × StepRun) => e.2.waits).flatten.foldl (applyWait admitNow) s0
  let s3 := (s2.srv.reqs.filter fun (r : Nat × Req) => r.2.swapAsk).foldl (fun x r => swapOut x r.1) s2
  (s3.mov.src.filter fun (m : Nat × SrcMove) => m.2.phase == 2).foldl (fun x m => sendQuery x m.1) s3

/-- Tiles, dispatchers, DMA engines and the tick-plan unit stop; deck and tile memories read as zero, and the resident image sets are reloaded
from their copies (R501). -/
def warmStop (s : State) : State :=
  let s1 : State := { s with
    tiles := []
    dies := { s.dies with images := s.dies.copies, queues := [], tilePtr := [], barred := [], torn := [], bindAt := [] }
    mem := { s.mem with dma := [], dmaNext := [] }
    tkp := { s.tkp with plans := [], lastPlan := none, loaded := none, overlays := [], frozen := false, substRun := false, sc := [], scPend := [], stand := [],
                        guardOff := [], guards := [], startsThisBeat := 0, issued := [], reissues := [], sends := [], flying := [] }
    slc := { s.slc with used := [] }
    ras := { s.ras with rerun := [] } }
  devZero s1 deckBase (deckEnd - deckBase)

/-- The fabric: ports train again, and every stream breaks (14 R312). -/
def warmFabric (s : State) : State :=
  let s1 := ((List.range 8).filter fun p => (wport s p).state == 2).foldl (fun x p => portLeaves x p 1) s
  let s2 := (s1.fab.tx.map fun (t : Nat × TxStream) => t.1).foldl breakStream s1
  { s2 with fab := { s2.fab with rx := s2.fab.rx.map fun (r : Nat × RxStream) => (r.1, { r.2 with buf := [], window := [], runs := [], grows := false, lost := true }) } }

/-- The control processors run again from the retained images; a handover ends, and events that waited for CP7 are recorded (R499 step 7). -/
def warmFirmware (s : State) : State :=
  let s0 := if s.fw.phase = 2 then let f := s.takeFree; abortUpdate f.2 stAborted f.1 else s
  flushStaged { s0 with fw := { s0.fw with cpState := (List.range 8).map (fun p => (p, 1)), restartAt := [], phase := 0, second := none } }

/-- READY rises again: report with CAUSE 2, and the requests complete (R498, R499 step 8). -/
def warmReady (s : State) : State :=
  let s1 := (s.hst.queues.map fun (x : Nat × Queue) => x.1).foldl dropQueue s
  let pages : NMap Page := s1.slc.pages.map fun (p : Nat × Page) => (p.1, { p.2 with inReset := false })
  let s2 : State := { s1 with fw := { s1.fw with beatTick := s1.tkp.now }, slc := { s1.slc with scrubBy := [], pages := pages } }
  resetEnds (buildReport (warmCommands s2) 2 false)

/-- WARM_RESET: at a seam, after a request or SYS_RST_N. What BIST and retraining find are operands; the reset takes no time of the model
(log 51). A device that has not been READY, or whose start stopped, has none (R494, R498). -/
def execWarmReset (b : BistResult) (trained : BitVec 32) (refused : List (Nat × List Byte)) (s : State) : Out :=
  if !s.pwr.pwrGood ∨ !s.start.readyOnce ∨ s.ras.state = 2 ∨ s.tkp.beat ≠ 0 then .next s
  else
    let s1 := discardLines (warmFabric (breakLists (warmRadio (warmStop s)))) refused
    let s2 : State := debugCloses { s1 with sec := { s1.sec with nonce := none } }
    let r := buildRepair s2 b
    match r.2 with
    | some c => .next (bistFault (warmContexts (warmServing r.1)) c)
    | none =>
      if !(untrained r.1 trained).isEmpty then .next (trainingFault (warmContexts (warmServing r.1)) (untrained r.1 trained))
      else .next (dropDone (warmReady (warmContexts (warmServing (warmFirmware r.1)))))

/-! ### FUNCTION_RESET (R500, R501) -/

/-- FUNCTION_RESET: a function level reset, a request for one, or CXL_PERST_N low; it is absorbed by a warm reset that is asked. -/
def execFunctionReset (refused : List (Nat × List Byte)) (s : State) : Out :=
  if !s.pwr.pwrGood ∨ !s.start.readyOnce ∨ s.ras.state = 2 ∨ 2 ≤ s.start.reset_ then .next s
  else
    let s1 := (s.hst.queues.map fun (x : Nat × Queue) => x.1).foldl dropQueue (discardLines s refused)
    let s2 : State := { s1 with
      hst := { s1.hst with aqSq := 0, aqCq := 0, aqCfg := 0x44, aqVersion := false, aqInvalid := false, aqBusy := false, msix := [], msixTab := [], pba := [], busMaster := false }
      mem := { s1.mem with hostBias := [] }
      slc := { s1.slc with pages := s1.slc.pages.map fun (p : Nat × Page) => (p.1, { p.2 with ctrl := 0x14 }) }
      rad := { s1.rad with noL2Bus := true } }
    .next (resetEnds (buildReport (debugCloses s2) 3 false))

/-! ### SLICE_RESET (17 R395, 21 R474) -/

/-- The keys of a slice are zeroised and drawn anew; with the entropy source failed none are drawn (log 46). -/
def renewKeys (s : State) (slice : Nat) : State :=
  if (NMap.find? s.sec.keys slice).isNone then s
  else if s.sec.noRandom then { s with sec := { s.sec with keys := NMap.erase s.sec.keys slice } }
  else drawKeys s slice

/-- The contexts of a slice that a reset tears down. -/
def sliceCtxs (s : State) (slice : Nat) : List Nat :=
  (s.slc.ctxs.filter fun (c : Nat × Ctx) => c.2.slice == slice && c.2.state != 0 && c.2.state != 6).map fun c => c.1

/-- Every context of a slice is torn down, and the slice's commands end ABORTED; no event code names a slice reset as a cause, so the cause
in the event is a value that the spec leaves open (16 R508, 17 R393). -/
def sliceTorn (s : State) (slice : Nat) : State :=
  let f := s.takeFree
  let s1 := (sliceCtxs s slice).foldl (fun x c => tearDown x c (f.1.toNat % 65536) true) f.2
  dropDone (finishAll s1 (fun r => decide (sliceOfRec s1 r = some slice)) stAborted)

/-- SLICE_RESET: at the first seam after acceptance; while a more extensive reset is asked the request is absorbed by it (01 R14). Its
command is DONE, and the page ready, at the end of the last scrub; a request of the sideband has no command, which queue 512 stands for. -/
def execSliceReset (slice : Nat) (s : State) : Out :=
  match s.start.sliceAsk.find? fun a => a.1 == slice with
  | none => .next s
  | some _ =>
    if s.tkp.beat ≠ 0 ∨ s.start.reset_ ≠ 0 then .next s
    else
      let cmds := (s.start.sliceAsk.filter fun a => a.1 == slice).filterMap fun a => a.2
      let s1 : State := { s with start := { s.start with sliceAsk := s.start.sliceAsk.filter fun a => a.1 != slice } }
      let s2 := renewKeys (sliceTorn s1 slice) slice
      let first := cmds.head?.getD (512, 0)
      let s3 : State := { s2 with slc := { s2.slc with scrubBy := NMap.insert s2.slc.scrubBy slice first,
                                                       pages := NMap.modify s2.slc.pages {} slice fun x => { x with inReset := true } } }
      .next ((cmds.drop 1).foldl (fun x c => finish x c.1 c.2 stOk 0) s3)

end Sys2Proof.Machine
end

