-- ==== Sys2Proof/Machine/Spdm.lean ====
section
/-!
DEFINITION. The SPDM responder of the SP, over the mailbox and over MCTP (21 R468, R469). Codes and the order of requests are those of SPDM
1.3, which the spec names (log 47); a message's bytes are Config.spdmFrame of its code and content.
-/
namespace Sys2Proof.Machine

/-- Writes a response: into the mailbox buffer with its length and status, or to the sideband. -/
def spdmSend (s : State) (mbx : Bool) (code status : Nat) (content : List Byte) : State :=
  if mbx then
    let b := Config.spdmFrame code content
    { s with sec := { s.sec with mbxBuf := ((List.zip (List.range b.length) b).map fun (e : Nat × Byte) => (e.1, e.2)).filter fun (e : Nat × Byte) => e.2 ≠ 0
                                 mbxStatus := withClass s status, mbxBusy := false, mbxRlen := (b.length + 1) / 2 } }
  else respond s 5 code content

/-- ERROR with an error code. -/
def spdmError (s : State) (mbx : Bool) (e status : Nat) : State := spdmSend s mbx 0x7F status (leBytes 1 e)

/-- A request and its response join the transcript. -/
def spdmLog (s : State) (req : Nat) (reqContent : List Byte) (resp : Nat) (content : List Byte) : State :=
  { s with sec := { s.sec with transcript := s.sec.transcript ++ Config.spdmFrame req reqContent ++ Config.spdmFrame resp content } }

/-- A request that the responder may take: the SP runs, and the requester has read its last response; otherwise ERROR Busy (R469). -/
def spdmTake (s : State) (mbx unread : Bool) (f : State → State) : State :=
  if !s.pwr.pwrGood then s else if unread then spdmError s mbx 3 stOk else f s

/-- A request that needs the responder to have reached a state. -/
def spdmIn (s : State) (mbx unread : Bool) (need : Nat) (f : State → State) : State :=
  spdmTake s mbx unread fun s => if s.sec.spdm < need then spdmError s mbx 4 stOk else f s

/-- A plain exchange: logged and answered. -/
def spdmAnswer (s : State) (mbx : Bool) (req : Nat) (reqContent : List Byte) (resp : Nat) (content : List Byte) : State :=
  spdmSend (spdmLog s req reqContent resp content) mbx resp stOk content

/-- GET_VERSION: the exchange starts anew; version 1.3. -/
def execGetVersion (mbx unread : Bool) (s : State) : Out :=
  .next (spdmTake s mbx unread fun s =>
    spdmAnswer { s with sec := { s.sec with spdm := 1, transcript := [] } } mbx 0x84 [] 0x04 [0x13])

/-- GET_CAPABILITIES: CERT_CAP, CHAL_CAP, MEAS_CAP with signatures, MEAS_FRESH_CAP. -/
def execGetCapabilities (mbx unread : Bool) (s : State) : Out :=
  .next (spdmIn s mbx unread 1 fun s => spdmAnswer { s with sec := { s.sec with spdm := max 2 s.sec.spdm } } mbx 0xE1 [] 0x61 (leBytes 4 0x36))

/-- NEGOTIATE_ALGORITHMS: SHA3-512, and ML-DSA-87 as an extended algorithm of registry 0x0A, vendor algorithm 0x4287. -/
def execNegotiateAlgorithms (mbx unread : Bool) (s : State) : Out :=
  .next (spdmIn s mbx unread 2 fun s =>
    spdmAnswer { s with sec := { s.sec with spdm := 3 } } mbx 0xE3 [] 0x63 (leBytes 1 0x0A ++ leBytes 2 0x4287))

/-- The certificate chain of slot 0: vendor root, vendor signing certificate, device certificate; none before a bundle is accepted. -/
def certChain (s : State) : Option (List Byte) :=
  match s.fw.bundle with
  | none => none
  | some b =>
    match b.devices.find? (fun (d : List Byte × List Byte × List Byte) => d.1 == s.sec.pid) with
    | some d => some (b.rootKey ++ b.signerCert ++ d.2.2)
    | none => none

/-- GET_DIGESTS: the SHA3-512 digest of the chain of slot 0. -/
def execGetDigests (mbx unread : Bool) (s : State) : Out :=
  .next (spdmIn s mbx unread 3 fun s =>
    match certChain s with
    | some c => spdmAnswer s mbx 0x81 [] 0x01 (sha3_512 c)
    | none => spdmError s mbx 5 stOk)

/-- GET_CERTIFICATE: a portion of the chain: its length, what remains, and its bytes. -/
def execGetCertificate (mbx unread : Bool) (slot offset len : Nat) (s : State) : Out :=
  .next (spdmIn s mbx unread 3 fun s =>
    match certChain s with
    | none => spdmError s mbx 5 stOk
    | some c =>
      if slot ≠ 0 ∨ c.length ≤ offset then spdmError s mbx 1 stOk
      else
        let part := (c.drop offset).take len
        spdmAnswer s mbx 0x82 (leBytes 1 slot ++ leBytes 2 offset ++ leBytes 2 len) 0x02
          (leBytes 2 part.length ++ leBytes 2 (c.length - offset - part.length) ++ part))

/-- A signed exchange: the response's content, then the signature of sk over the transcript that ends with it. Without fresh randomness or
before an identity is accepted the SP refuses (R457, R459). -/
def spdmSigned (s : State) (mbx : Bool) (req : Nat) (reqContent : List Byte) (resp : Nat) (content : List Byte → List Byte) : State :=
  if s.sec.noRandom then spdmError s mbx 5 stDeviceFault
  else if !s.sec.identity then spdmError s mbx 5 stOk
  else
    let f := freeWords 4 s
    let c := content f.1
    let s1 := spdmLog f.2 req reqContent resp c
    spdmSend s1 mbx resp stOk (c ++ Config.sign s1.sec.sk s1.sec.transcript)

/-- CHALLENGE: the digest of the chain, a fresh nonce and the signature. -/
def execChallenge (mbx unread : Bool) (nonce : List Byte) (s : State) : Out :=
  .next (spdmIn s mbx unread 3 fun s =>
    if nonce.length ≠ 32 then spdmError s mbx 1 stOk
    else spdmSigned s mbx 0x83 nonce 0x03 fun n => sha3_512 ((certChain s).getD []) ++ n)

/-- A measurement block: M0 to M7, the log, SEC_STATE and DEVICE_ID (R468). -/
def measBlock (s : State) (i : Nat) : List Byte :=
  if i ≤ 8 then NMap.getD s.sec.m (i - 1) (List.replicate 64 0)
  else if i = 9 then (s.sec.mlog.map fun e => leBytes 1 e.1 ++ leBytes 2 e.2.1 ++ e.2.2).flatten
  else leBytes 4 (secReg s 0) ++ s.sec.devId.take 32 ++ List.replicate (32 - s.sec.devId.length) 0

/-- The blocks that a GET_MEASUREMENTS asks for: index 0 the number of blocks, 0xFF all. -/
def measContent (s : State) (index : Nat) : List Byte :=
  if index = 0 then leBytes 1 10
  else if index = 0xFF then ((List.range 10).map fun i => leBytes 1 (i + 1) ++ leBytes 2 (measBlock s (i + 1)).length ++ measBlock s (i + 1)).flatten
  else leBytes 1 index ++ leBytes 2 (measBlock s index).length ++ measBlock s index

/-- GET_MEASUREMENTS: blocks 1 to 10, with a signature when it asks for one. -/
def execGetMeasurements (mbx unread : Bool) (index : Nat) (sign : Bool) (nonce : List Byte) (s : State) : Out :=
  .next (spdmIn s mbx unread 3 fun s =>
    if (10 < index ∧ index ≠ 0xFF) ∨ (sign ∧ nonce.length ≠ 32) then spdmError s mbx 1 stOk
    else if sign then spdmSigned s mbx 0xE0 (leBytes 1 index ++ nonce) 0x60 fun n => measContent s index ++ n
    else spdmAnswer s mbx 0xE0 (leBytes 1 index) 0x60 (measContent s index))

/-- The requests that the responder supports. -/
def spdmKnown : List Nat := [0x84, 0xE1, 0xE3, 0x81, 0x82, 0x83, 0xE0]

/-- UNSUPPORTED_REQUEST: any other request is answered ERROR UnsupportedRequest. -/
def execUnsupportedRequest (mbx unread : Bool) (code : Nat) (s : State) : Out :=
  if spdmKnown.contains code then .next s else .next (spdmTake s mbx unread fun s => spdmError s mbx 7 stOk)

end Sys2Proof.Machine
end

