-- ==== Sys2Proof/Machine/Planner.lean ====
section
/-!
DEFINITION. What the planners build: the radio work of a tick on its floor (13 R292, R293) and the share table (17 R384). A plan that CP0
is asked to seal is one that CP1, CP2 and CP3 have built so (log 96).
-/
namespace Sys2Proof.Machine

/-! ### Windows (R292) -/

/-- The window of a piece of work in beats of the launch counter: the beat from which it may run, and the beat by which it has ended. -/
def workWindow (s : State) (w : RadioWork) : Nat × Nat :=
  let x := cellAt s w.cell
  let lead := w.first - leadTicks s x
  match w.kind with
  | .dl y => (1250 * lead, uplaneBeat s x (airTime x (16 * w.first + y)))
  | .cplane => (1250 * lead, 1250 * (lead + 1))
  | .ul sym control =>
    let close := closeBeat s x sym
    (close, 1250 * (close / 1250 + (if control then 4 else 8) + 1))

/-- The declared length of a piece of work: that of its kernel's image. -/
def workLen (s : State) (w : RadioWork) : Nat :=
  match NMap.find? s.dies.images (1024 * dieOf w.tile + w.kernel) with | some im => im.length | none => 0

/-- A piece of work lies in its window, and in the beats of the tick before the dusk band. -/
def workInWindow (s : State) (tick : Nat) (w : RadioWork) : Bool :=
  let f := workWindow s w
  decide (f.1 ≤ 1250 * tick + w.beat ∧ 1250 * tick + w.beat + workLen s w ≤ f.2 ∧ w.beat + workLen s w ≤ 1234 ∧ 1 ≤ workLen s w)

/-- Two pieces stand in the order in which the planners place them: ascending deadline, ties to the lower cell. -/
def workBefore (s : State) (a b : RadioWork) : Bool :=
  let da := (workWindow s a).2
  let db := (workWindow s b).2
  decide (da < db ∨ (da = db ∧ a.cell ≤ b.cell))

/-- A list whose neighbours keep an order. -/
def chained (r : RadioWork → RadioWork → Bool) : List RadioWork → Bool
  | a :: b :: rest => r a b && chained r (b :: rest)
  | _ => true

/-- Beats `b` up to `b + l` of a tile are free of the work placed there. -/
def freeAt (s : State) (placed : List RadioWork) (t l b : Nat) : Bool :=
  (placed.filter fun p => p.tile == t).all fun p => decide (b + l ≤ p.beat ∨ p.beat + workLen s p ≤ b)

/-- The first beat, from `lo` on, at which `l` beats of a tile are free: `lo`, or the end of a piece placed there. -/
def firstFree (s : State) (placed : List RadioWork) (t l lo : Nat) : Nat :=
  let ends := (placed.filter fun p => p.tile == t).map fun p => p.beat + workLen s p
  ((lo :: ends.filter (lo ≤ ·)).filter (freeAt s placed t l)).foldl min 1250

/-- A piece takes a floor tile and beat that complete it earliest. -/
def placedBest (s : State) (tick : Nat) (floor : BitVec 160) (placed : List RadioWork) (w : RadioWork) : Bool :=
  let lo := (workWindow s w).1 - 1250 * tick
  floor.getLsbD w.tile && freeAt s placed w.tile (workLen s w) w.beat && decide (lo ≤ w.beat) &&
  ((List.range 160).filter floor.getLsbD).all fun t => decide (w.beat ≤ firstFree s placed t (workLen s w) lo)

/-- Every piece is placed so, after those before it in the list. -/
def placedAll (s : State) (tick : Nat) (floor : BitVec 160) (placed : List RadioWork) : List RadioWork → Bool
  | [] => true
  | w :: rest => placedBest s tick floor placed w && placedAll s tick floor (w :: placed) rest

/-! ### The floor (R293) -/

/-- The tile-cycles of a piece of work, 49,152 times, beside what its cell takes in the tick. -/
def workCycles (s : State) (w : RadioWork) : Nat :=
  let x := cellAt s w.cell
  let front := fun (b : CellBind) (n : Nat) =>
    match x.cfg with | some g => if bindTd b then 4240 * n * fftSize g * (fftSize g).log2 else 0 | none => 0
  match x.bind_, w.kind with
  | some b, .dl _ => 49152 * (w.prbs * (if b.catB then 360 else 8 + 12 * b.dl)) + front b b.dl
  | some b, .ul _ _ => 49152 * (w.prbs * (if b.catB then 800 else 20 + 30 * b.ul)) + front b b.ul
  | _, .cplane => 0
  | none, _ => 0

/-- Floor tiles for the work of a tick, with 1,400 tile-cycles for each cell: at least 4 when a cell is active. -/
def floorSize (s : State) (p : Plan) : Nat :=
  let unit := 49152 * 287275
  let c := ((p.work.map (workCycles s)).sum + 49152 * 1400 * p.cells.length + unit - 1) / unit
  if p.cells.isEmpty then c else max 4 c

/-- The floor of F tiles: each die's lowest logical ids. -/
def floorTiles (f : Nat) : BitVec 160 :=
  BitVec.ofNat 160 (((List.range 4).map fun d => 2 ^ (40 * d) * (2 ^ (f / 4 + (if d < f % 4 then 1 else 0)) - 1)).sum)

/-- Beats of the blocks of the code-job lists of a plan on a horizon die, polar or not. -/
def codeBeats (s : State) (p : Plan) (hd : Nat) (polar : Bool) : Nat :=
  ((startsOf p.overcast).map fun st =>
    if 0xA0 ≤ st.2.1 ∧ st.2.1 < 0xA8 ∧ hdOf st.2.1 = hd then
      match NMap.find? p.jobs st.2.2.1 with
      | some (.code ptr) => (((codeList s ptr).filter fun j => isPolar j == polar).map fun j => j.length).sum
      | _ => 0
    else 0).sum

/-- The RADIO LDPC beats that a die takes in a tick: 1,110 for each engine that remains once one has been retired (20 R442). -/
def ldpcLimit (s : State) (hd : Nat) : Nat :=
  let dead := (s.rad.deadEng.filter fun k => k / 32 == hd && decide (k % 32 < 24)).length
  if dead = 0 then 26654 else 1110 * (24 - dead)

/-- A slot descriptor says what its cell does in the tick of its plan (13 R300). -/
def cellDescOk (s : State) (tick : Nat) (d : CellSlot) : Bool :=
  let x := cellAt s d.cell
  let a := tick - slotPhase x tick
  let n := sfnSlot x tick
  decide (d.mu = x.mu ∧ d.sfn = n.1 ∧ d.slot = n.2 ∧ d.tickInSlot = slotPhase x tick) && d.twilight == slotTwilight x a &&
  d.late == x.late.contains a && d.noData == x.noData.contains a && (!d.twilight || d.ulPtr == 0)

/-- The starts of a plan on its floor tiles are the pieces of its radio work. -/
def floorStarts (p : Plan) : Bool :=
  let on := (startsOf p.overcast).filter fun st => decide (st.2.1 < 160) && p.floorMask.getLsbD st.2.1
  on.length == p.work.length && p.work.all (fun w => on.any fun st => st.1 == w.beat && st.2.1 == w.tile && st.2.2.1 == w.kernel)

/-- CP1 and CP2 have placed the radio work of a plan and sized its floor as R292 and R293 say. -/
def radioPlanned (s : State) (p : Plan) : Bool :=
  p.work.all (workInWindow s p.tick) && chained (workBefore s) p.work && placedAll s p.tick p.floorMask [] p.work && floorStarts p &&
  decide (floorSize s p ≤ 64) && p.floorMask == floorTiles (floorSize s p) &&
  (List.range 2).all fun hd => decide (codeBeats s p hd false ≤ ldpcLimit s hd ∧ codeBeats s p hd true ≤ 4442)

/-! ### The share table (17 R384) -/

/-- The steal-queue entries of a slice. -/
def stealsOf (s : State) (slice : Nat) : List (Nat × StealJob) :=
  let die := (s.dies.queues.map fun (e : Nat × List StealJob) => e.2.map fun j => (e.1, j)).flatten
  let own := (s.tiles.map fun (e : Nat × Tile) => e.2.q.map fun j => (dieOf e.1, j)).flatten
  (die ++ own).filter fun e => e.2.slice == slice

/-- Demand of a slice: the declared lengths of its queued entries whose context may run and whose image is resident, and the beats that CP3
expects of its steps and chains (log 96). -/
def sliceDemand (s : State) (p : Plan) (slice : Nat) : Nat :=
  (((stealsOf s slice).filter fun e => !ctxStops s e.2.context).filterMap fun e => (imageAt s e.1 e.2.kernel).map (·.length)).sum +
  NMap.getD p.expect slice 0

/-- The slices from a pointer on, ascending and wrapping. -/
def slicesFrom (p : Nat) : List Nat := (List.range 64).map fun i => (p + i) % 64

/-- What remains of `left` is given out in the order of the slices, each up to what it still wants. -/
def giveLeft (want : Nat → Nat) : List (Nat × Nat) → Nat → List (Nat × Nat)
  | [], _ => []
  | (sl, g) :: rest, left =>
    let x := min (want sl - g) left
    (sl, g + x) :: giveLeft want rest (left - x)

/-- The grants of the slices on `n` open tiles, from the share pointer on. -/
def shareGrants (s : State) (p : Plan) (n : Nat) : List (Nat × Nat) :=
  let total := 1234 * n
  let want := fun sl => min (1234 * (quotaOf s sl).tileMax) (sliceDemand s p sl)
  let base := (slicesFrom s.slc.shareOrder).map fun sl => (sl, min (want sl) (1234 * (quotaOf s sl).tileMin))
  let sum := (base.map (·.2)).sum
  let g := if total < sum then base.map fun e => (e.1, e.2 * total / sum) else base
  giveLeft want g (total - (g.map (·.2)).sum)

/-- Packs grants into the rows of open tiles in ascending id, each filled to 1,234 beats before the next: `at_` counts the beats given out.
A grant covers the part of each row that its run of beats meets. -/
def packRows (tiles : List Nat) : List (Nat × Nat) → Nat → NMap Nat
  | [], _ => []
  | (sl, g) :: rest, at_ =>
    ((List.range tiles.length).filterMap fun i =>
      let lo := max at_ (1234 * i)
      let hi := min (at_ + g) (1234 * (i + 1))
      if lo < hi then some (64 * tiles.getD i 0 + sl, hi - lo) else none).foldl (fun m e => NMap.insert m e.1 e.2) (packRows tiles rest (at_ + g))

/-- The share table that CP3 builds for a plan. -/
def shareTable (s : State) (p : Plan) : NMap Nat :=
  let tiles := (List.range 160).filter fun t => !p.floorMask.getLsbD t
  packRows tiles ((shareGrants s p tiles.length).filter fun e => e.2 != 0) 0

/-- The planners have built a plan. -/
def planned (s : State) (p : Plan) : Bool :=
  p.cells.all (cellDescOk s p.tick) && radioPlanned s p && p.shares.filter (fun e => e.2 != 0) == shareTable s p

end Sys2Proof.Machine
end

