-- ==== Sys2Proof/Machine/Tick.lean ====
section
/-!
DEFINITION. Ticks: the sealing and substitution of plans, the dusk band, the seam and the clock mode (03 R44 to R63, R503).
-/
namespace Sys2Proof.Machine

/-! ### PLAN_SEAL (R15, R46, R52, R53, R63, 23 R496) -/

/-- The first tick that CP0 does not seal yet: normal running stages 8 plans, the preparation of a live update 10 at the next seam
(R52, 18 R409). -/
def sealBound (s : State) : Nat := s.tkp.now + (if s.fw.phase = 1 then 12 else 9)

/-- The tick's deadline has not passed and its slot holds no plan of it: a sealed plan is never changed (R52, R55). -/
def sealOpen (s : State) (tick : Nat) : Bool :=
  decide (s.tkp.now < tick ∧ tick < sealBound s ∧ ¬ (tick = s.tkp.now + 1 ∧ 1234 ≤ s.tkp.beat)) &&
  match NMap.find? s.tkp.plans (tick % 16) with
  | some x => x.tick != tick || !(x.state == .sealed || x.state == .running || x.state == .substituted)
  | none => true

/-- A plan is sealed: it stands in its slot of the ring, and trace point 1 is written. -/
def sealPlan (s : State) (p : Plan) : State :=
  let q : Plan := { p with state := .sealed }
  let s1 : State := { s with tkp := { s.tkp with plans := NMap.insert s.tkp.plans (p.tick % 16) q, lastPlan := some q }
                             slc := { s.slc with shareOrder := (s.slc.shareOrder + 1) % 64 } }
  trace s1 1 0 (planDepth s1) p.tick

/-- PLAN_SEAL: CP0 seals a plan that CP1, CP2 and CP3 have built, if it passes every check; a failed check is a plan fault. A plan that passes
them and yet is not as the planners build it is not before CP0, and nothing happens (log 96). -/
def execPlanSeal (p : Plan) (s : State) : Out :=
  if cpState s 0 ≠ 1 ∨ s.ras.state ≠ 0 ∨ !s.hst.ready ∨ !sealOpen s p.tick ∨ !floorAllowed s p then .next s
  else if planOk s p then .next (if planned s p then sealPlan s p else s)
  else .next (recordEvent { s with tkp := { s.tkp with faultPlan := satAdd 16 s.tkp.faultPlan 1 } } 0x1004 0 [])

/-! ### PLAN_SUBSTITUTE (R16, R55) -/

/-- A cell of the last sealed plan in a substitute for a tick: the twilight template. -/
def twilightSlot (s : State) (tick : Nat) (c : CellSlot) : CellSlot :=
  let x := cellAt s c.cell
  let n := sfnSlot x tick
  { c with twilight := true, sfn := n.1, slot := n.2, tickInSlot := slotPhase x tick, late := false, noData := false,
           workPtr := Config.templateAt c.cell tick, dlPtr := Config.templateAt c.cell (tick - slotPhase x tick), ulPtr := 0 }

/-- The substitute that the tick-plan unit builds for a tick from the last sealed plan. -/
def substituteOf (s : State) (l : Plan) (tick : Nat) : Plan :=
  { l with tick := tick, state := .substituted, clock := s.tkp.clock, words := 0, stream := [],
           cells := l.cells.map (twilightSlot s tick), jobs := [], timed := [], owners := [], lengths := [], work := [], expect := [], sealW := 0 }

/-- The next tick has a plan that can run. -/
def nextReady (s : State) : Bool :=
  match NMap.find? s.tkp.plans ((s.tkp.now + 1) % 16) with
  | some p => p.tick == s.tkp.now + 1 && (p.state == .sealed || p.state == .substituted)
  | none => false

/-- The deadline of the next tick's plan has passed: without a sealed plan the substitute is built and loaded. With no plan sealed since
the last cold or warm reset there is nothing to substitute, and the tick runs no plan. -/
def substitute (s : State) : State :=
  if nextReady s then s
  else
    match s.tkp.lastPlan with
    | none => s
    | some l =>
      let u := s.tkp.now + 1
      let s1 : State := { s with tkp := { s.tkp with plans := NMap.insert s.tkp.plans (u % 16) (substituteOf s l u), loaded := some u } }
      trace s1 2 0xFF l.cells.length u

/-- PLAN_SUBSTITUTE: in the dusk band, when the plan of the next tick has missed its deadline. -/
def execPlanSubstitute (s : State) : Out := .next (if s.pwr.pwrGood ∧ 1234 ≤ s.tkp.beat then substitute s else s)

/-! ### CLOCK_MODE (R62, R63) -/

/-- A plan of this tick or a later one that has been sealed has a floor or an active cell. -/
def radioStaged (s : State) : Bool :=
  s.tkp.plans.any fun (e : Nat × Plan) => decide (s.tkp.now ≤ e.2.tick) &&
    (e.2.state == .sealed || e.2.state == .running || e.2.state == .substituted) && !(e.2.floorMask == 0 && e.2.cells.isEmpty)

/-- The checks of CLOCK_MODE, all made at acceptance. -/
def clockModeFields (r : JRec) (s : State) : Nat :=
  if r.params.length ≠ 1 ∨ 2 < r.par 0 1 then stInvalid
  else if r.par 0 1 ≠ 0 ∧ radioStaged s then stBusy
  else stOk

/-- From the acceptance of a quiet mode no plan with a floor or an active cell is sealed. -/
def clockModeAsk (r : JRec) (s : State) : State := if r.par 0 1 = 0 then s else { s with tkp := { s.tkp with quietAsk := true } }

/-- CLOCK_MODE (opcode 0x0603). -/
def execClockMode (q seq : Nat) (s : State) : Out :=
  .next (withCmd s q seq 0x0603 fun r s =>
    let st := clockModeFields r s
    if st = stOk then queueSeam (clockModeAsk r s) r else finishAt s q seq st 0 (seamTick s r))

/-- A command that waits for a later seam selects a quiet mode. -/
def quietWaits (s : State) : Bool :=
  s.tkp.seamQ.any fun c => decide (s.tkp.now < c.tick) && match findRec s c.q c.seq with
    | some r => r.opcode == 0x0603 && r.par 0 1 != 0
    | none => false

/-- CLOCK_MODE at its seam: the first tick at 2.4 GHz after a quiet mode is noted. -/
def clockModeApply (r : JRec) (s : State) : State :=
  let m := r.par 0 1
  let back := m == 0 && (s.tkp.clock != 0 || s.tkp.quietAsk)
  { s with tkp := { s.tkp with clock := m, backAt := if back then s.tkp.now else s.tkp.backAt,
                               quietAsk := if m = 0 then quietWaits s else s.tkp.quietAsk } }

/-! ### Seam-bound commands at the dusk band and the seam (R49, R503, 16 R369) -/

/-- The check of a seam-bound command against the state, before its seam. -/
def seamCheck (r : JRec) (s : State) : Nat :=
  match r.opcode with
  | 0x0007 => mirrorState r s
  | 0x0203 => serveCfgState r s
  | 0x0205 => roleSetState r s
  | 0x0320 => fhCfgState r s
  | 0x0500 => sliceAssignState r s
  | 0x0501 => sliceQuotaState r s
  | 0x0507 => mbxGrantState r s
  | 0x0620 => timeCfgState r s
  | 0x0720 => memEncState r s
  | _ => stOk

/-- The values of a seam-bound command that reach shadows as it passes its check; those of a cap command that names no tick landed as it was
accepted, and stand against those of an earlier one for the same seam (R6, R49, 16 R369). -/
def seamLand (r : JRec) (s : State) : State :=
  match r.opcode with
  | 0x0320 => fhCfgLand r s
  | 0x0601 => if capLands s r then powerCapLand r s else s
  | _ => s

/-- The effect of a seam-bound command at its seam; what lands in shadows is applied with the staging. -/
def seamApply (r : JRec) (s : State) : State :=
  match r.opcode with
  | 0x0007 => mirrorApply r s
  | 0x0203 => serveCfgApply r s
  | 0x0204 => budgetSetApply r s
  | 0x0205 => roleSetApply r s
  | 0x0217 => flashCfgApply r s
  | 0x0400 => regionSetApply r s
  | 0x0401 => pathSetApply r s
  | 0x0402 => partitionSetApply r s
  | 0x0403 => portFenceApply r s
  | 0x0404 => jobtagSetApply r s
  | 0x0500 => sliceAssignApply r s
  | 0x0501 => sliceQuotaApply r s
  | 0x0507 => mbxGrantApply r s
  | 0x0603 => clockModeApply r s
  | 0x0620 => timeCfgApply r s
  | 0x0720 => memEncApply r s
  | _ => s

/-- Inserts a record by its acceptance order. -/
def insertOrder (r : JRec) : List JRec → List JRec
  | [] => [r]
  | x :: xs => if r.order < x.order then r :: x :: xs else x :: insertOrder r xs

/-- The records in progress of waiting commands that a predicate picks, in acceptance order. -/
def seamRecs (s : State) (pick : SeamCmd → Bool) : List JRec :=
  (((s.tkp.seamQ.filter pick).filterMap fun c => findRec s c.q c.seq).filter fun r => r.stage == 2).foldl (fun l r => insertOrder r l) []

/-- Those that wait without a record in progress, after a failure of the device, are gone. -/
def pruneSeam (s : State) : State :=
  { s with tkp := { s.tkp with seamQ := s.tkp.seamQ.filter fun c => match findRec s c.q c.seq with | some r => r.stage == 2 | none => false } }

/-- A waiting command has passed its check before the seam. -/
def markChecked (s : State) (r : JRec) : State :=
  { s with tkp := { s.tkp with seamQ := s.tkp.seamQ.map fun c => if c.q = r.q ∧ c.seq = r.seq then { c with checked := true } else c } }

/-- A waiting command leaves the queue of those that wait. -/
def dropSeam (s : State) (r : JRec) : State :=
  { s with tkp := { s.tkp with seamQ := s.tkp.seamQ.filter fun c => !(c.q == r.q && c.seq == r.seq) } }

/-- A command whose values reach shadows at its check, which is the moment at which they land (R51). -/
def landsAtCheck (s : State) (r : JRec) : Bool := r.opcode == 0x0320 || capLands s r

/-- The check of one command against `v`, the state in force with every command before it at the same seam; the answer is the state and
the `v` of the next. -/
def checkSeamCmd (sv : State × State) (r : JRec) : State × State :=
  let st := seamCheck r sv.2
  let s1 := if landsAtCheck sv.1 r then { sv.1 with tkp := { sv.1.tkp with rwtApply := sv.1.tkp.now + 1 } } else sv.1
  if st = stOk then (markChecked (seamLand r s1) r, seamApply r (seamLand r sv.2))
  else (finishAt (dropSeam sv.1 r) r.q r.seq st 0 (sv.1.tkp.now + 1), sv.2)

/-- The checks of every command that the next seam applies, made before the dusk band: at the end of beat 1,233. -/
def checkSeam (s : State) : State :=
  ((seamRecs s fun c => decide (c.tick ≤ s.tkp.now + 1) && !c.checked).foldl checkSeamCmd (s, s)).1

/-- A checked command is applied, and DONE. -/
def applySeamCmd (s : State) (r : JRec) : State := finish (seamApply r (dropSeam s r)) r.q r.seq stOk 0

/-- Every checked command whose seam this is, in acceptance order. -/
def applySeam (s : State) : State := pruneSeam ((seamRecs s fun c => decide (c.tick ≤ s.tkp.now) && c.checked).foldl applySeamCmd s)

/-! ### DUSK_BAND (R47, R50, R54) -/

/-- The sequencers load the plan of the next tick, if it is sealed. -/
def loadNext (s : State) : State := { s with tkp := { s.tkp with loaded := if nextReady s then some (s.tkp.now + 1) else none } }

/-- What the dusk band does at its first beat: every shadow is copied to a staging that then stays frozen, and the next plan loaded. -/
def duskBegins (s : State) : State :=
  let s1 := loadNext (fhStage (pwrStage s))
  { s1 with tkp := { s1.tkp with frozen := true } }

/-- DUSK_BAND: beat 1,234 of a tick, once. -/
def execDuskBand (s : State) : Out := .next (if s.pwr.pwrGood ∧ 1234 ≤ s.tkp.beat ∧ !s.tkp.frozen then duskBegins s else s)

/-! ### SEAM -/

/-- The next tick begins: the tick index rises, and TIM_RAW to the seam of tick n, which stands the seam error `e`, in units of 0.25 ns,
after device time 125,000 × n (R45, 15 R341; log 95). -/
def tickOn (s : State) (e : Int) : State :=
  { s with tkp := { s.tkp with now := s.tkp.now + 1, beat := 0, frozen := false, startsThisBeat := 0 }
           tim := { s.tim with raw := rawOn s (125000 * (s.tkp.now + 1) + e / 4) } }

/-- The state of a plan of the ring as the current tick begins (R54); a substituted plan keeps its state while it runs. -/
def planTurn (now : Nat) (loaded : Option Nat) (p : Plan) : Plan :=
  if p.tick < now ∧ (p.state = .running ∨ p.state = .substituted) then { p with state := .retired }
  else if p.tick = now ∧ loaded = some now ∧ p.state = .sealed then { p with state := .running }
  else p

/-- Plans take their states; the first plan with a floor ends the time of steps (R54, 15 R338, 23 R496). -/
def plansSeam (s : State) : State :=
  let plans : NMap Plan := s.tkp.plans.map fun (e : Nat × Plan) => (e.1, planTurn s.tkp.now s.tkp.loaded e.2)
  let s1 : State := { s with tkp := { s.tkp with plans := plans, loaded := none,
                                                 overlays := s.tkp.overlays.filter fun o => decide (s.tkp.now ≤ o.2.tick) } }
  match currentPlan s1 with
  | some p => if p.floorMask = 0 then s1 else { s1 with tim := { s1.tim with nostep := true } }
  | none => s1

/-- A tick that runs a substituted plan is counted; one event for each run of them (R55). -/
def substSeam (s : State) : State :=
  if substNow s then
    let s1 : State := { s with tkp := { s.tkp with substCnt := satAdd 16 s.tkp.substCnt 1, substRun := true } }
    if s.tkp.substRun then s1 else recordEvent s1 0x1009 srcHw []
  else { s with tkp := { s.tkp with substRun := false } }

/-- The seam error, in units of 0.25 ns: above 50 ns it is flagged and recorded (15 R341). -/
def seamErrSeam (s : State) (e : Int) : State :=
  if 200 < e.natAbs then recordEvent { s with tim := { s.tim with seamErr := true } } 0x7001 srcHw [] else s

/-- Sync counters, guards and issued words start again, and every unit takes its standing action: hold on the floor, open elsewhere
(04 R76, R79, "Sync counters"). -/
def streamSeam (s : State) : State :=
  let mask := match currentPlan s with | some p => p.floorMask | none => 0
  let stand : NMap Nat := ((List.range 160).filter fun t => mask.getLsbD t).map fun t => (t, 1)
  { s with tkp := { s.tkp with sc := [], scPend := [], guards := [], guardOff := [], issued := [], stand := stand }
           dies := { s.dies with barred := [], tilePtr := [] } }

/-- A tile as the tick begins: what it used and ran starts again, and when it runs nothing it takes its standing action. -/
def tileSeam (s : State) (t : Nat) (x : Tile) : Tile :=
  let y : Tile := { x with spent := 0, ranLast := x.ran, ran := match x.run with | some r => [r.context] | none => [] }
  if x.run.isNone ∧ (x.state = .hold ∨ x.state = .openIdle) then { y with state := idleAfter s t 0 } else y

/-- Every tile as the tick begins. -/
def tilesSeam (s : State) : State :=
  let listed := (s.tkp.stand.map fun (e : Nat × Nat) => e.1).foldl addSet (s.tiles.map fun (e : Nat × Tile) => e.1)
  { s with tiles := listed.map fun t => (t, tileSeam s t (tileAt s t)) }

/-- A binding takes effect: the logical tile stands on the incoming physical tile, and the repair map says so (04 R88, R90, 20 R438). -/
def bindTile (s : State) (t p : Nat) : State :=
  let x := tileAt s t
  let y : Tile := { state := idleState s t, q := x.q, arriving := x.arriving, spent := x.spent, ran := x.ran, ranLast := x.ranLast }
  let s1 := setTile s t y
  { s1 with dies := { s1.dies with tileMap := NMap.insert s1.dies.tileMap t p, bindAt := NMap.erase s1.dies.bindAt t,
                                   mapTick := s1.tkp.now, source := s1.dies.source ||| 4 } }

/-- The bindings whose seam this is: one change of the repair map. -/
def bindSeam (s : State) : State :=
  let due := s.dies.bindAt.filter fun b => decide (b.2.2 ≤ s.tkp.now)
  due.foldl (fun y b => bindTile y b.1 b.2.1) { s with dies := { s.dies with gen := if due.isEmpty then s.dies.gen else s.dies.gen + 1 } }

/-- The floor work of a faulted tile in a tick is lost: reason FAULT (20 R440). -/
def rerunLost (s : State) (e : Nat × Nat) : State :=
  match NMap.find? s.tkp.plans (e.2 % 16) with
  | some p => if p.tick = e.2 then planUnitLost s p e.1 4 else s
  | none => s

/-- The work that a rerun overlay of this tick was to run: with an overlay sealed in time it runs; otherwise it is lost (20 R440). -/
def rerunSeam (s : State) : State :=
  let due := s.ras.rerun.filter fun e => decide (e.2 + 2 ≤ s.tkp.now ∨ (tileAt s e.1).arriving + 2 ≤ s.tkp.now)
  let s1 : State := { s with ras := { s.ras with rerun := s.ras.rerun.filter fun e => !due.contains e } }
  if due.isEmpty ∨ (currentOverlay s).isSome then s1
  else due.foldl rerunLost { s1 with ras := { s1.ras with cntRerun := satAdd 16 s1.ras.cntRerun 1 } }

/-- The configurations of cells whose seam this is come into force (R48). -/
def setupSeam (s : State) : State :=
  { s with rad := { s.rad with cells := s.rad.cells.map fun (e : Nat × Cell) => (e.1, e.2.dueBy s.tkp.now) } }

/-- Every cell as the tick begins; those of a failed device go OFF at the end of its first unsealed tick (13 R281, R299, 20 R435). -/
def cellsSeam (s : State) : State :=
  let cells := s.rad.cells.map fun (e : Nat × Cell) => e.1
  match s.ras.goneOff with
  | some g =>
    if g < s.tkp.now then
      cells.foldl (fun y c => if (cellAt y c).active then goOff y c 7 false else y) { s with ras := { s.ras with goneOff := none } }
    else cells.foldl cellSeam s
  | none => cells.foldl cellSeam s

/-- A kernel image is in use: a plan or overlay that is staged or runs starts it, a steal queue holds it, or a tile of the die runs it
(04 R68). -/
def imageUsed (s : State) (d k : Nat) : Bool :=
  let starts := fun (ws : List OWord) => ws.any fun w => w.entries.any fun e => dieOf e.1 == d && decide (e.1 < 160) &&
    (match e.2 with | .start k' _ => k' == k | _ => false)
  let live := fun (st : PlanState) => st == .sealed || st == .running || st == .substituted
  (s.tkp.plans.any fun p => live p.2.state && starts p.2.overcast) || (s.tkp.overlays.any fun o => starts o.2.overcast) ||
  ((NMap.getD s.dies.queues d []).any fun j => j.kernel == k) ||
  s.tiles.any fun t => dieOf t.1 == d && ((t.2.q.any fun j => j.kernel == k) ||
    (match t.2.nextJob with | some j => j.1.kernel == k | none => false) || (match t.2.run with | some r => r.kernel == k | none => false))

/-- An image leaves the set of a die, unless it is in use (04 R68). -/
def dropImage (s : State) (e : Nat × Nat) : State :=
  if imageUsed s e.1 e.2 then s
  else { s with dies := { s.dies with images := NMap.erase s.dies.images (1024 * e.1 + e.2), copies := NMap.erase s.dies.copies (1024 * e.1 + e.2) } }

/-- What a seam does once the tick index has risen, in turn: plans and staging, the stream, budgets, seam-bound commands, repair, processors,
requests, cells and evidence. -/
def seamEffects (s : State) (e : SeamEnv) : State :=
  let s1 := substSeam (plansSeam (todDue s))
  let s2 := seamErrSeam (pwrSeam (fhApply (pwrApply s1)) e (substNow s1)) e.seamErr
  let s3 := bindSeam (tilesSeam (streamSeam s2))
  let s4 := adapterSeam (applySeam (budgetSeam s3))
  let s5 := cpsSeam (rerunSeam s4)
  let s6 := wakeAll (absentSeam ((s5.srv.reqs.map fun (r : Nat × Req) => r.1).foldl freeEnded s5))
  e.drops.foldl dropImage (contrailSeam (stressSeam (cellsSeam (setupSeam s6))))

/-- A step that has been confirmed for this seam gives the tick that opens here its index by source time (R46). -/
def stepSeamNow (s : State) : State := match s.tkp.stepAt with | some (n, ns) => stepTo s n ns | none => s

/-- SEAM: the tick ends and the next begins (R50). Whenever it comes, what belongs to the rest of the ended tick comes first: guards, the
state checks of R503, scrubs, the dusk band, and the substitute of a plan that is missing (log 2). A decided step gives the new tick its
index before anything of the seam is applied, so that all of it stands in the new numbering (R46, R51). -/
def execSeam (e : SeamEnv) (s : State) : Out :=
  if !s.pwr.pwrGood then .next s
  else
    let s0 := timedLand (settleGuards s true) true
    let s0 := if s.tkp.beat < 1234 then checkSeam s0 else s0
    let s1 := settleScrubs { s0 with tkp := { s0.tkp with beat := max s.tkp.beat 1234 } }
    let s2 := substitute (if s1.tkp.frozen then s1 else duskBegins s1)
    let s3 : State := { s2 with tkp := { s2.tkp with beat := s.tkp.beat } }
    .next (seamEffects (stepSeamNow (tickOn (debtSeam s3) e.seamErr)) e)

end Sys2Proof.Machine
end

