-- ==== Sys2Proof/Machine/Dispatch.lean ====
section
/-!
DEFINITION. The effect of a command on everything but the queue of waiting commands: one arm per row of the table
of operations and events, each a direct call of the row's meaning.
-/
namespace Sys2Proof.Machine

def exec (i : Instr) (s : State) : Host.Outcome State Fault Refusal :=
  match i with
  | .powerUp v => Sys2Proof.Machine.execPowerUp v s
  | .powerDown => Sys2Proof.Machine.execPowerDown s
  | .coldStart selfTestOk sramOk pufReads pufKey => Sys2Proof.Machine.execColdStart selfTestOk sramOk pufReads pufKey s
  | .brownout v => Sys2Proof.Machine.execBrownout v s
  | .brownoutShutdown => Sys2Proof.Machine.execBrownoutShutdown s
  | .overvolt v => Sys2Proof.Machine.execOvervolt v s
  | .overvoltClear vinMv => Sys2Proof.Machine.execOvervoltClear vinMv s
  | .currentWarning die amps => Sys2Proof.Machine.execCurrentWarning die amps s
  | .railTrip rail => Sys2Proof.Machine.execRailTrip rail s
  | .thermalSample cd hd => Sys2Proof.Machine.execThermalSample cd hd s
  | .governorDuty inMw floorMw openMw beatsUsed => Sys2Proof.Machine.execGovernorDuty inMw floorMw openMw beatsUsed s
  | .telemetryRecord e => Sys2Proof.Machine.execTelemetryRecord e s
  | .seam e => Sys2Proof.Machine.execSeam e s
  | .duskBand => Sys2Proof.Machine.execDuskBand s
  | .planSubstitute => Sys2Proof.Machine.execPlanSubstitute s
  | .planSeal p => Sys2Proof.Machine.execPlanSeal p s
  | .overcastWord => Sys2Proof.Machine.execOvercastWord s
  | .dispatch arrivals => Sys2Proof.Machine.execDispatch arrivals s
  | .kernelEnd t radio => Sys2Proof.Machine.execKernelEnd t radio s
  | .kernelOverrun t => Sys2Proof.Machine.execKernelOverrun t s
  | .waitdTimeout t => Sys2Proof.Machine.execWaitdTimeout t s
  | .slotNop t c slot => Sys2Proof.Machine.execSlotNop t c slot s
  | .br t c target => Sys2Proof.Machine.execBr t c target s
  | .brz t c n target => Sys2Proof.Machine.execBrz t c n target s
  | .brnz t c n target => Sys2Proof.Machine.execBrnz t c n target s
  | .loop t c count => Sys2Proof.Machine.execLoop t c count s
  | .endl t c => Sys2Proof.Machine.execEndl t c s
  | .repeatN t c n => Sys2Proof.Machine.execRepeatN t c n s
  | .waitd t c tag maxw => Sys2Proof.Machine.execWaitd t c tag maxw s
  | .syncp t c ctr => Sys2Proof.Machine.execSyncp t c ctr s
  | .endK t c => Sys2Proof.Machine.execEndK t c s
  | .mma t c o err => Sys2Proof.Machine.execMma t c o err s
  | .wld t c o => Sys2Proof.Machine.execWld t c o s
  | .rout t c o => Sys2Proof.Machine.execRout t c o s
  | .lout t c o => Sys2Proof.Machine.execLout t c o s
  | .lin t c o => Sys2Proof.Machine.execLin t c o s
  | .ld t c o => Sys2Proof.Machine.execLd t c o s
  | .st t c o => Sys2Proof.Machine.execSt t c o s
  | .skewa t c o => Sys2Proof.Machine.execSkewa t c o s
  | .skewb t c o => Sys2Proof.Machine.execSkewb t c o s
  | .mks t c o => Sys2Proof.Machine.execMks t c o s
  | .dmaSkewComplete t c tag => Sys2Proof.Machine.execDmaSkewComplete t c tag s
  | .fadd t c d a b => Sys2Proof.Machine.execFadd t c d a b s
  | .fsub t c d a b => Sys2Proof.Machine.execFsub t c d a b s
  | .fmul t c d a b => Sys2Proof.Machine.execFmul t c d a b s
  | .fma t c d a b cc => Sys2Proof.Machine.execFma t c d a b cc s
  | .fnma t c d a b cc => Sys2Proof.Machine.execFnma t c d a b cc s
  | .fmin t c d a b => Sys2Proof.Machine.execFmin t c d a b s
  | .fmax t c d a b => Sys2Proof.Machine.execFmax t c d a b s
  | .fabs t c d a => Sys2Proof.Machine.execFabs t c d a s
  | .fneg t c d a => Sys2Proof.Machine.execFneg t c d a s
  | .fclt t c d a b => Sys2Proof.Machine.execFclt t c d a b s
  | .fcle t c d a b => Sys2Proof.Machine.execFcle t c d a b s
  | .fceq t c d a b => Sys2Proof.Machine.execFceq t c d a b s
  | .fcvti t c d a => Sys2Proof.Machine.execFcvti t c d a s
  | .icvtf t c d a => Sys2Proof.Machine.execIcvtf t c d a s
  | .fscl t c d a b => Sys2Proof.Machine.execFscl t c d a b s
  | .iadd t c d a b => Sys2Proof.Machine.execIadd t c d a b s
  | .isub t c d a b => Sys2Proof.Machine.execIsub t c d a b s
  | .imul t c d a b => Sys2Proof.Machine.execImul t c d a b s
  | .andV t c d a b => Sys2Proof.Machine.execAndV t c d a b s
  | .orV t c d a b => Sys2Proof.Machine.execOrV t c d a b s
  | .xorV t c d a b => Sys2Proof.Machine.execXorV t c d a b s
  | .shl t c d a b => Sys2Proof.Machine.execShl t c d a b s
  | .shr t c d a b => Sys2Proof.Machine.execShr t c d a b s
  | .sra t c d a b => Sys2Proof.Machine.execSra t c d a b s
  | .imin t c d a b => Sys2Proof.Machine.execImin t c d a b s
  | .imax t c d a b => Sys2Proof.Machine.execImax t c d a b s
  | .iclt t c d a b => Sys2Proof.Machine.execIclt t c d a b s
  | .iceq t c d a b => Sys2Proof.Machine.execIceq t c d a b s
  | .sel t c d a b cc => Sys2Proof.Machine.execSel t c d a b cc s
  | .mov t c d b => Sys2Proof.Machine.execMov t c d b s
  | .viota t c d b => Sys2Proof.Machine.execViota t c d b s
  | .norm t c d a => Sys2Proof.Machine.execNorm t c d a s
  | .expx t c d a => Sys2Proof.Machine.execExpx t c d a s
  | .bexp t c d a imm => Sys2Proof.Machine.execBexp t c d a imm s
  | .gred t c d a imm => Sys2Proof.Machine.execGred t c d a imm s
  | .vperm t c d a b => Sys2Proof.Machine.execVperm t c d a b s
  | .vext t c d a imm => Sys2Proof.Machine.execVext t c d a imm s
  | .exp2 t c d a => Sys2Proof.Machine.execExp2 t c d a s
  | .log2 t c d a => Sys2Proof.Machine.execLog2 t c d a s
  | .rcp t c d a => Sys2Proof.Machine.execRcp t c d a s
  | .rsqrt t c d a => Sys2Proof.Machine.execRsqrt t c d a s
  | .vsumL t c la a => Sys2Proof.Machine.execVsumL t c la a s
  | .laclr t c la => Sys2Proof.Machine.execLaclr t c la s
  | .lard t c d la => Sys2Proof.Machine.execLard t c d la s
  | .sadd t c d a b => Sys2Proof.Machine.execSadd t c d a b s
  | .ssub t c d a b => Sys2Proof.Machine.execSsub t c d a b s
  | .smul t c d a b => Sys2Proof.Machine.execSmul t c d a b s
  | .sand t c d a b => Sys2Proof.Machine.execSand t c d a b s
  | .sor t c d a b => Sys2Proof.Machine.execSor t c d a b s
  | .sxor t c d a b => Sys2Proof.Machine.execSxor t c d a b s
  | .sshl t c d a b => Sys2Proof.Machine.execSshl t c d a b s
  | .sshr t c d a b => Sys2Proof.Machine.execSshr t c d a b s
  | .ssra t c d a b => Sys2Proof.Machine.execSsra t c d a b s
  | .smin t c d a b => Sys2Proof.Machine.execSmin t c d a b s
  | .smax t c d a b => Sys2Proof.Machine.execSmax t c d a b s
  | .sclt t c d a b => Sys2Proof.Machine.execSclt t c d a b s
  | .sceq t c d a b => Sys2Proof.Machine.execSceq t c d a b s
  | .smov t c d b => Sys2Proof.Machine.execSmov t c d b s
  | .sshi t c d imm => Sys2Proof.Machine.execSshi t c d imm s
  | .mova t c d a => Sys2Proof.Machine.execMova t c d a s
  | .movb t c d a => Sys2Proof.Machine.execMovb t c d a s
  | .movl t c d a => Sys2Proof.Machine.execMovl t c d a s
  | .movsa t c d a => Sys2Proof.Machine.execMovsa t c d a s
  | .aadd t c d imm => Sys2Proof.Machine.execAadd t c d imm s
  | .vld t c o => Sys2Proof.Machine.execVld t c o s
  | .vst t c o => Sys2Proof.Machine.execVst t c o s
  | .vldb t c o => Sys2Proof.Machine.execVldb t c o s
  | .sld t c o => Sys2Proof.Machine.execSld t c o s
  | .sst t c o => Sys2Proof.Machine.execSst t c o s
  | .vldt t c o => Sys2Proof.Machine.execVldt t c o s
  | .vstt t c o => Sys2Proof.Machine.execVstt t c o s
  | .ldpk t c o => Sys2Proof.Machine.execLdpk t c o s
  | .stpk t c o => Sys2Proof.Machine.execStpk t c o s
  | .lald t c o => Sys2Proof.Machine.execLald t c o s
  | .last t c o => Sys2Proof.Machine.execLast t c o s
  | .lamrg t c o => Sys2Proof.Machine.execLamrg t c o s
  | .tileRemap t => Sys2Proof.Machine.execTileRemap t s
  | .rerunOverlaySeal o => Sys2Proof.Machine.execRerunOverlaySeal o s
  | .linkWireFailing die link group wire => Sys2Proof.Machine.execLinkWireFailing die link group wire s
  | .sentinelRun e => Sys2Proof.Machine.execSentinelRun e s
  | .stressVariant die bad => Sys2Proof.Machine.execStressVariant die bad s
  | .healthScore corrPerHour retriesPerSec residue30d hottest => Sys2Proof.Machine.execHealthScore corrPerHour retriesPerSec residue30d hottest s
  | .slowdownWindow => Sys2Proof.Machine.execSlowdownWindow s
  | .codeBlockStart hd engine => Sys2Proof.Machine.execCodeBlockStart hd engine s
  | .codeBlockComplete hd engine engineFault => Sys2Proof.Machine.execCodeBlockComplete hd engine engineFault s
  | .dmaDescriptorStart eng desc body slice context use => Sys2Proof.Machine.execDmaDescriptorStart eng desc body slice context use s
  | .dmaBurstComplete eng => Sys2Proof.Machine.execDmaBurstComplete eng s
  | .dmaBurstTimeout eng moved => Sys2Proof.Machine.execDmaBurstTimeout eng moved s
  | .channelLost ch => Sys2Proof.Machine.execChannelLost ch s
  | .patrolScrub line corrected uncorrected raced => Sys2Proof.Machine.execPatrolScrub line corrected uncorrected raced s
  | .hostMemRead addr len => Sys2Proof.Machine.execHostMemRead addr len s
  | .hostMemWrite addr bytes => Sys2Proof.Machine.execHostMemWrite addr bytes s
  | .stepCompose slice pool work => Sys2Proof.Machine.execStepCompose slice pool work s
  | .stepCommit slice pool rows => Sys2Proof.Machine.execStepCommit slice pool rows s
  | .reclaim pool waiter => Sys2Proof.Machine.execReclaim pool waiter s
  | .swapReturn pool => Sys2Proof.Machine.execSwapReturn pool s
  | .deadlineRule pool => Sys2Proof.Machine.execDeadlineRule pool s
  | .adapterCurrent slot => Sys2Proof.Machine.execAdapterCurrent slot s
  | .attnBlockEnqueue q seq chain kernel length argsPtr donePtr => Sys2Proof.Machine.execAttnBlockEnqueue q seq chain kernel length argsPtr donePtr s
  | .moveRetry idx => Sys2Proof.Machine.execMoveRetry idx s
  | .moveQueryTimer idx => Sys2Proof.Machine.execMoveQueryTimer idx s
  | .prefixLeaseExpiry lease => Sys2Proof.Machine.execPrefixLeaseExpiry lease s
  | .writeGrantExpiry entry => Sys2Proof.Machine.execWriteGrantExpiry entry s
  | .flashDemote pool frame fail => Sys2Proof.Machine.execFlashDemote pool frame fail s
  | .flashPromote pool frame failed => Sys2Proof.Machine.execFlashPromote pool frame failed s
  | .superblockErase sb fail => Sys2Proof.Machine.execSuperblockErase sb fail s
  | .superblockRelocate => Sys2Proof.Machine.execSuperblockRelocate s
  | .flashRetentionRewrite => Sys2Proof.Machine.execFlashRetentionRewrite s
  | .fhFrameRx port f => Sys2Proof.Machine.execFhFrameRx port f s
  | .symbolClose cell sym miss => Sys2Proof.Machine.execSymbolClose cell sym miss s
  | .agcUpdate port stream sym pin winPeak corr256 => Sys2Proof.Machine.execAgcUpdate port stream sym pin winPeak corr256 s
  | .cplaneLaunch port cell eaxcs => Sys2Proof.Machine.execCplaneLaunch port cell eaxcs s
  | .uplaneLaunch port cell sym skewNs packets => Sys2Proof.Machine.execUplaneLaunch port cell sym skewNs packets s
  | .fhLinkDown port waiting => Sys2Proof.Machine.execFhLinkDown port waiting s
  | .fhLinkUp port => Sys2Proof.Machine.execFhLinkUp port s
  | .fhTrainTimeout port => Sys2Proof.Machine.execFhTrainTimeout port s
  | .paramRequest m => Sys2Proof.Machine.execParamRequest m s
  | .configRequest m cfg => Sys2Proof.Machine.execConfigRequest m cfg s
  | .startRequest m => Sys2Proof.Machine.execStartRequest m s
  | .stopRequest m => Sys2Proof.Machine.execStopRequest m s
  | .dlTtiRequest m => Sys2Proof.Machine.execDlTtiRequest m s
  | .ulTtiRequest m => Sys2Proof.Machine.execUlTtiRequest m s
  | .ulDciRequest m => Sys2Proof.Machine.execUlDciRequest m s
  | .txDataRequest m => Sys2Proof.Machine.execTxDataRequest m s
  | .cellBindRequest m b => Sys2Proof.Machine.execCellBindRequest m b s
  | .twilightCfgRequest m w => Sys2Proof.Machine.execTwilightCfgRequest m w s
  | .fapiMessageUnsupported phy msgId => Sys2Proof.Machine.execFapiMessageUnsupported phy msgId s
  | .slotRequestDeadline cell first => Sys2Proof.Machine.execSlotRequestDeadline cell first s
  | .txDataDeadline cell first => Sys2Proof.Machine.execTxDataDeadline cell first s
  | .cellActivate cell => Sys2Proof.Machine.execCellActivate cell s
  | .cellStop cell => Sys2Proof.Machine.execCellStop cell s
  | .twilightHoldExpiry cell => Sys2Proof.Machine.execTwilightHoldExpiry cell s
  | .flitRx port lane fseq fack type rest errors => Sys2Proof.Machine.execFlitRx port lane fseq fack type rest errors s
  | .portTrained port => Sys2Proof.Machine.execPortTrained port s
  | .load port p => Sys2Proof.Machine.execLoad port p s
  | .store port p => Sys2Proof.Machine.execStore port p s
  | .atomic port p => Sys2Proof.Machine.execAtomic port p s
  | .accL port p => Sys2Proof.Machine.execAccL port p s
  | .msg port p => Sys2Proof.Machine.execMsg port p s
  | .ack port p => Sys2Proof.Machine.execAck port p s
  | .statusP port p => Sys2Proof.Machine.execStatusP port p s
  | .loadData port p => Sys2Proof.Machine.execLoadData port p s
  | .atomicData port p => Sys2Proof.Machine.execAtomicData port p s
  | .probe port p => Sys2Proof.Machine.execProbe port p s
  | .epoch port p => Sys2Proof.Machine.execEpoch port p s
  | .ackTimer src => Sys2Proof.Machine.execAckTimer src s
  | .retransmitTimeout dst psn => Sys2Proof.Machine.execRetransmitTimeout dst psn s
  | .pathProbeTimer => Sys2Proof.Machine.execPathProbeTimer s
  | .streamBreak dst => Sys2Proof.Machine.execStreamBreak dst s
  | .xferEntryIssue port => Sys2Proof.Machine.execXferEntryIssue port s
  | .moveReserve m => Sys2Proof.Machine.execMoveReserve m s
  | .moveReserved idx m => Sys2Proof.Machine.execMoveReserved idx m s
  | .moveCommit src idx gen entry => Sys2Proof.Machine.execMoveCommit src idx gen entry s
  | .moveAnswer idx gen committed => Sys2Proof.Machine.execMoveAnswer idx gen committed s
  | .moveRelease src idx gen => Sys2Proof.Machine.execMoveRelease src idx gen s
  | .moveQuery src idx gen => Sys2Proof.Machine.execMoveQuery src idx gen s
  | .moveCancel src idx gen => Sys2Proof.Machine.execMoveCancel src idx gen s
  | .prefixAsk src q seq model p keys => Sys2Proof.Machine.execPrefixAsk src q seq model p keys s
  | .prefixHeld src q seq status depth lease pages locs => Sys2Proof.Machine.execPrefixHeld src q seq status depth lease pages locs s
  | .prefixPin src q seq model p depth keys => Sys2Proof.Machine.execPrefixPin src q seq model p depth keys s
  | .prefixUnpin src lease => Sys2Proof.Machine.execPrefixUnpin src lease s
  | .prefixOffer src q seq model p depth keys => Sys2Proof.Machine.execPrefixOffer src q seq model p depth keys s
  | .contrailDigest src reqId genLen crc => Sys2Proof.Machine.execContrailDigest src reqId genLen crc s
  | .contrailUnmatched => Sys2Proof.Machine.execContrailUnmatched s
  | .barrierTimeout q seq => Sys2Proof.Machine.execBarrierTimeout q seq s
  | .jobStepLaunch q seq last len word0 word1 => Sys2Proof.Machine.execJobStepLaunch q seq last len word0 word1 s
  | .ptpMessage port msgType seqId taken sent m => Sys2Proof.Machine.execPtpMessage port msgType seqId taken sent m s
  | .esmcMessage port quality => Sys2Proof.Machine.execEsmcMessage port quality s
  | .ppsInEdge rawNs => Sys2Proof.Machine.execPpsInEdge rawNs s
  | .todLineRx line msAfterEdge => Sys2Proof.Machine.execTodLineRx line msAfterEdge s
  | .ppsOut => Sys2Proof.Machine.execPpsOut s
  | .timeStep sourceNs sourcePresent => Sys2Proof.Machine.execTimeStep sourceNs sourcePresent s
  | .sourceLost => Sys2Proof.Machine.execSourceLost s
  | .holdExceeded => Sys2Proof.Machine.execHoldExceeded s
  | .submissionDoorbell q tail => Sys2Proof.Machine.execSubmissionDoorbell q tail s
  | .completionDoorbell q head => Sys2Proof.Machine.execCompletionDoorbell q head s
  | .commandConsume q ioOk => Sys2Proof.Machine.execCommandConsume q ioOk s
  | .commandAccept q => Sys2Proof.Machine.execCommandAccept q s
  | .interruptCoalesceTimer q => Sys2Proof.Machine.execInterruptCoalesceTimer q s
  | .adminQueueEnable value => Sys2Proof.Machine.execAdminQueueEnable value s
  | .adminQueueDelete value => Sys2Proof.Machine.execAdminQueueDelete value s
  | .heartbeat value => Sys2Proof.Machine.execHeartbeat value s
  | .orphan refused => Sys2Proof.Machine.execOrphan refused s
  | .cxlLinkDown refused => Sys2Proof.Machine.execCxlLinkDown refused s
  | .orphanHoldExpiry => Sys2Proof.Machine.execOrphanHoldExpiry s
  | .noticeSend page value => Sys2Proof.Machine.execNoticeSend page value s
  | .noticeDeliver page => Sys2Proof.Machine.execNoticeDeliver page s
  | .noticeTimeout page => Sys2Proof.Machine.execNoticeTimeout page s
  | .slcRxHeadWrite page value => Sys2Proof.Machine.execSlcRxHeadWrite page value s
  | .registerWrite firmware offset value => Sys2Proof.Machine.execRegisterWrite firmware offset value s
  | .nop q seq => Sys2Proof.Machine.execNop q seq s
  | .queueCreate q seq => Sys2Proof.Machine.execQueueCreate q seq s
  | .queueDelete q seq => Sys2Proof.Machine.execQueueDelete q seq s
  | .identify q seq => Sys2Proof.Machine.execIdentify q seq s
  | .recoveryGet q seq => Sys2Proof.Machine.execRecoveryGet q seq s
  | .resetReq q seq => Sys2Proof.Machine.execResetReq q seq s
  | .attnAck q seq => Sys2Proof.Machine.execAttnAck q seq s
  | .mirrorSet q seq => Sys2Proof.Machine.execMirrorSet q seq s
  | .mirrorReport q seq => Sys2Proof.Machine.execMirrorReport q seq s
  | .biasSet q seq => Sys2Proof.Machine.execBiasSet q seq s
  | .poolSet q seq => Sys2Proof.Machine.execPoolSet q seq s
  | .reqAdmit q seq => Sys2Proof.Machine.execReqAdmit q seq s
  | .reqAbort q seq => Sys2Proof.Machine.execReqAbort q seq s
  | .reqQuery q seq => Sys2Proof.Machine.execReqQuery q seq s
  | .serveCfg q seq => Sys2Proof.Machine.execServeCfg q seq s
  | .budgetSet q seq => Sys2Proof.Machine.execBudgetSet q seq s
  | .roleSet q seq => Sys2Proof.Machine.execRoleSet q seq s
  | .peerLost q seq => Sys2Proof.Machine.execPeerLost q seq s
  | .adapterLoad q seq => Sys2Proof.Machine.execAdapterLoad q seq s
  | .adapterWithdraw q seq => Sys2Proof.Machine.execAdapterWithdraw q seq s
  | .grammarLoad q seq => Sys2Proof.Machine.execGrammarLoad q seq s
  | .grammarUnload q seq => Sys2Proof.Machine.execGrammarUnload q seq s
  | .attn q seq => Sys2Proof.Machine.execAttn q seq s
  | .attnMerge q seq => Sys2Proof.Machine.execAttnMerge q seq s
  | .prefixLookup q seq => Sys2Proof.Machine.execPrefixLookup q seq s
  | .prefixFetch q seq => Sys2Proof.Machine.execPrefixFetch q seq s
  | .prefixPublish q seq => Sys2Proof.Machine.execPrefixPublish q seq s
  | .flashCfg q seq => Sys2Proof.Machine.execFlashCfg q seq s
  | .radL2Open q seq => Sys2Proof.Machine.execRadL2Open q seq s
  | .radL2Close q seq => Sys2Proof.Machine.execRadL2Close q seq s
  | .fhCfg q seq => Sys2Proof.Machine.execFhCfg q seq s
  | .regionSet q seq => Sys2Proof.Machine.execRegionSet q seq s
  | .pathSet q seq => Sys2Proof.Machine.execPathSet q seq s
  | .partitionSet q seq => Sys2Proof.Machine.execPartitionSet q seq s
  | .portFence q seq => Sys2Proof.Machine.execPortFence q seq s
  | .jobtagSet q seq => Sys2Proof.Machine.execJobtagSet q seq s
  | .fabXfer q seq => Sys2Proof.Machine.execFabXfer q seq s
  | .sliceAssign q seq => Sys2Proof.Machine.execSliceAssign q seq s
  | .sliceQuota q seq => Sys2Proof.Machine.execSliceQuota q seq s
  | .ctxCreate q seq => Sys2Proof.Machine.execCtxCreate q seq s
  | .ctxDestroy q seq => Sys2Proof.Machine.execCtxDestroy q seq s
  | .ctxHold q seq => Sys2Proof.Machine.execCtxHold q seq s
  | .ctxResume q seq => Sys2Proof.Machine.execCtxResume q seq s
  | .ctxQuery q seq => Sys2Proof.Machine.execCtxQuery q seq s
  | .ctxSaveStart ctx => Sys2Proof.Machine.execCtxSaveStart ctx s
  | .ctxRestoreStart ctx => Sys2Proof.Machine.execCtxRestoreStart ctx s
  | .ctxActivate ctx => Sys2Proof.Machine.execCtxActivate ctx s
  | .contextTeardown ctx => Sys2Proof.Machine.execContextTeardown ctx s
  | .contextRelease ctx => Sys2Proof.Machine.execContextRelease ctx s
  | .mbxGrant q seq => Sys2Proof.Machine.execMbxGrant q seq s
  | .kernelLoad q seq => Sys2Proof.Machine.execKernelLoad q seq s
  | .planLaunch q seq => Sys2Proof.Machine.execPlanLaunch q seq s
  | .fwUpdate q seq b => Sys2Proof.Machine.execFwUpdate q seq b s
  | .updateQuiesce => Sys2Proof.Machine.execUpdateQuiesce s
  | .updateCommit => Sys2Proof.Machine.execUpdateCommit s
  | .updateAbort component => Sys2Proof.Machine.execUpdateAbort component s
  | .powerCap q seq => Sys2Proof.Machine.execPowerCap q seq s
  | .repairMapGet q seq => Sys2Proof.Machine.execRepairMapGet q seq s
  | .clockMode q seq => Sys2Proof.Machine.execClockMode q seq s
  | .timeCfg q seq => Sys2Proof.Machine.execTimeCfg q seq s
  | .debugNonce q seq => Sys2Proof.Machine.execDebugNonce q seq s
  | .debugUnlock q seq => Sys2Proof.Machine.execDebugUnlock q seq s
  | .debugLock q seq => Sys2Proof.Machine.execDebugLock q seq s
  | .memEncSet q seq => Sys2Proof.Machine.execMemEncSet q seq s
  | .bundleLoad b e => Sys2Proof.Machine.execBundleLoad b e s
  | .getVersion mbx unread => Sys2Proof.Machine.execGetVersion mbx unread s
  | .getCapabilities mbx unread => Sys2Proof.Machine.execGetCapabilities mbx unread s
  | .negotiateAlgorithms mbx unread => Sys2Proof.Machine.execNegotiateAlgorithms mbx unread s
  | .getDigests mbx unread => Sys2Proof.Machine.execGetDigests mbx unread s
  | .getCertificate mbx unread slot offset len => Sys2Proof.Machine.execGetCertificate mbx unread slot offset len s
  | .challenge mbx unread nonce => Sys2Proof.Machine.execChallenge mbx unread nonce s
  | .getMeasurements mbx unread index sign nonce => Sys2Proof.Machine.execGetMeasurements mbx unread index sign nonce s
  | .entdaa addr => Sys2Proof.Machine.execEntdaa addr s
  | .setEndpointId eid => Sys2Proof.Machine.execSetEndpointId eid s
  | .getEndpointId => Sys2Proof.Machine.execGetEndpointId s
  | .getMctpVersionSupport type => Sys2Proof.Machine.execGetMctpVersionSupport type s
  | .getMessageTypeSupport => Sys2Proof.Machine.execGetMessageTypeSupport s
  | .getVendorDefinedMessageSupport selector => Sys2Proof.Machine.execGetVendorDefinedMessageSupport selector s
  | .getPdrRepositoryInfo => Sys2Proof.Machine.execGetPdrRepositoryInfo s
  | .getPdr record => Sys2Proof.Machine.execGetPdr record s
  | .getSensorReading sensor => Sys2Proof.Machine.execGetSensorReading sensor s
  | .recorderRead from_ count => Sys2Proof.Machine.execRecorderRead from_ count s
  | .alertAck seq => Sys2Proof.Machine.execAlertAck seq s
  | .anchorSet opsec pcc entries => Sys2Proof.Machine.execAnchorSet opsec pcc entries s
  | .anchorGet => Sys2Proof.Machine.execAnchorGet s
  | .resetRequest kind slice => Sys2Proof.Machine.execResetRequest kind slice s
  | .stressRun dies => Sys2Proof.Machine.execStressRun dies s
  | .contrailSet body => Sys2Proof.Machine.execContrailSet body s
  | .retireClear => Sys2Proof.Machine.execRetireClear s
  | .warmReset b trained refused => Sys2Proof.Machine.execWarmReset b trained refused s
  | .functionReset refused => Sys2Proof.Machine.execFunctionReset refused s
  | .sliceReset slice => Sys2Proof.Machine.execSliceReset slice s
  | .cpStop cp cause => Sys2Proof.Machine.execCpStop cp cause s
  | .cp0WatchdogExpiry => Sys2Proof.Machine.execCp0WatchdogExpiry s
  | .summaryWindow => Sys2Proof.Machine.execSummaryWindow s
  | .persistBatch all => Sys2Proof.Machine.execPersistBatch all s
  | .persistPathChange => Sys2Proof.Machine.execPersistPathChange s
  | .cxlLinkTraining lanes gts => Sys2Proof.Machine.execCxlLinkTraining lanes gts s
  | .busMasteringEnable => Sys2Proof.Machine.execBusMasteringEnable s
  | .entropyFail => Sys2Proof.Machine.execEntropyFail s
  | .pldmBase cmd => Sys2Proof.Machine.execPldmBase cmd s
  | .unsupportedRequest mbx unread code => Sys2Proof.Machine.execUnsupportedRequest mbx unread code s

end Sys2Proof.Machine
end

