-- ==== Sys2Proof/Decode.lean ====
section
/-!
DEFINITION. The words of the table of operations and events: no row of opcode_table.json gives bits, so no word
spells a command.
-/
namespace Sys2Proof

/-- The command that a word spells by the bits of opcode_table.json: none, since no row gives bits. -/
def decodeTableWord (_nbits _w : Nat) : Option Instr := none

end Sys2Proof
end

