-- ==== Sys2Proof/Machine/Idle.lean ====
section
/-!
DEFINITION. What the block does when no command waits: one beat passes (log 2).
-/
namespace Sys2Proof.Machine

/-- The last beat before the dusk band ends: the state checks of R503 are made, once, before that band begins. -/
def beatEnds (s : State) : State := if s.tkp.beat = 1233 then checkSeam s else s

/-- One beat of 100 ns passes while PWR_GOOD is high: the beat count of R45 rises to at most 1,249, since the seam itself is a command
(SEAM), and TIM_RAW counts the nanoseconds until beat b begins, 100 ns × b after its tick in device time (03 R45, 15 R336; log 95). Timed transfers of the beat leave and arrive (04 R91), and a
time-of-day line that is due goes out (15 R344). -/
def beatPasses (s : State) : State :=
  if s.pwr.pwrGood then
    let s1 := timedDue (beatEnds s) (beatCycles s * (s.tkp.beat + 1))
    todDue { s1 with tkp := { s1.tkp with beat := min (s.tkp.beat + 1) 1249, startsThisBeat := 0 },
                     tim := { s1.tim with raw := if s.tkp.beat < 1249 then rawOn s (125000 * s.tkp.now + 100 * (s.tkp.beat + 1)) else s.tim.raw } }
  else s

end Sys2Proof.Machine
end

