-- ==== Sys2Proof/Machine/Encode.lean ====
section
/-!
DEFINITION. The words of the slots of a bundle: what an assembler writes for a slot operation (04 R65, R66, 05 R97, R98, R106, R107,
07 R145, R148, R153, R156). A field that the operation does not use is 0.
-/
namespace Sys2Proof.Machine

/-- The 40 bits of an array slot (05 R97). -/
def arrWord (op : Nat) (o : ArrOp) : Nat :=
  op * 2 ^ 35 + o.fmt * 2 ^ 31 + o.sa * 2 ^ 26 + o.aoff * 2 ^ 21 + o.sb * 2 ^ 16 + o.boff * 2 ^ 11 + o.acc * 2 ^ 9 + bit1 o.clr * 2 ^ 8
    + bit1 o.ld * 2 ^ 7 + o.msk * 2 ^ 2

/-- The array slot that holds an operation, and its word (05 R98). -/
def arrEnc : Instr → Option (Nat × Nat)
  | .mma _ _ o none => some (o.arr, arrWord 1 o)
  | .wld _ _ o => some (o.arr, arrWord 2 o)
  | .rout _ _ o => some (o.arr, arrWord 3 o)
  | .lout _ _ o => some (o.arr, arrWord 4 o)
  | .lin _ _ o => some (o.op.arr, arrWord 5 o.op)
  | _ => none

/-- B, BSEL and IMM of operand b (07 R145). -/
def opBEnc : OpB → Nat
  | .reg n => n * 2 ^ 34
  | .sreg n => n * 2 ^ 34 + 2 ^ 27
  | .imm i => 2 ^ 28 + i.toNat * 2 ^ 11

/-- The 56 bits of the vector/signal slot (07 R145). -/
def vecWord (op d a b c : Nat) : Nat := op * 2 ^ 49 + d * 2 ^ 44 + a * 2 ^ 39 + c * 2 ^ 29 + b

/-- IMM with BSEL 0 (07 R145). -/
def immEnc (i : W16) : Nat := i.toNat * 2 ^ 11

/-- The word of an operation of the vector/signal slot (07 R148). -/
def vecEnc : Instr → Option Nat
  | .fadd _ _ d a b => some (vecWord 0x01 d a (opBEnc b) 0)
  | .fsub _ _ d a b => some (vecWord 0x02 d a (opBEnc b) 0)
  | .fmul _ _ d a b => some (vecWord 0x03 d a (opBEnc b) 0)
  | .fma _ _ d a b cc => some (vecWord 0x04 d a (opBEnc b) cc)
  | .fnma _ _ d a b cc => some (vecWord 0x05 d a (opBEnc b) cc)
  | .fmin _ _ d a b => some (vecWord 0x06 d a (opBEnc b) 0)
  | .fmax _ _ d a b => some (vecWord 0x07 d a (opBEnc b) 0)
  | .fabs _ _ d a => some (vecWord 0x08 d a 0 0)
  | .fneg _ _ d a => some (vecWord 0x09 d a 0 0)
  | .fclt _ _ d a b => some (vecWord 0x0A d a (opBEnc b) 0)
  | .fcle _ _ d a b => some (vecWord 0x0B d a (opBEnc b) 0)
  | .fceq _ _ d a b => some (vecWord 0x0C d a (opBEnc b) 0)
  | .fcvti _ _ d a => some (vecWord 0x0D d a 0 0)
  | .icvtf _ _ d a => some (vecWord 0x0E d a 0 0)
  | .fscl _ _ d a b => some (vecWord 0x0F d a (opBEnc b) 0)
  | .iadd _ _ d a b => some (vecWord 0x10 d a (opBEnc b) 0)
  | .isub _ _ d a b => some (vecWord 0x11 d a (opBEnc b) 0)
  | .imul _ _ d a b => some (vecWord 0x12 d a (opBEnc b) 0)
  | .andV _ _ d a b => some (vecWord 0x13 d a (opBEnc b) 0)
  | .orV _ _ d a b => some (vecWord 0x14 d a (opBEnc b) 0)
  | .xorV _ _ d a b => some (vecWord 0x15 d a (opBEnc b) 0)
  | .shl _ _ d a b => some (vecWord 0x16 d a (opBEnc b) 0)
  | .shr _ _ d a b => some (vecWord 0x17 d a (opBEnc b) 0)
  | .sra _ _ d a b => some (vecWord 0x18 d a (opBEnc b) 0)
  | .imin _ _ d a b => some (vecWord 0x19 d a (opBEnc b) 0)
  | .imax _ _ d a b => some (vecWord 0x1A d a (opBEnc b) 0)
  | .iclt _ _ d a b => some (vecWord 0x1B d a (opBEnc b) 0)
  | .iceq _ _ d a b => some (vecWord 0x1C d a (opBEnc b) 0)
  | .sel _ _ d a b cc => some (vecWord 0x1D d a (opBEnc b) cc)
  | .mov _ _ d b => some (vecWord 0x1E d 0 (opBEnc b) 0)
  | .viota _ _ d b => some (vecWord 0x1F d 0 (opBEnc b) 0)
  | .norm _ _ d a => some (vecWord 0x20 d a 0 0)
  | .expx _ _ d a => some (vecWord 0x21 d a 0 0)
  | .bexp _ _ d a i => some (vecWord 0x22 d a (immEnc i) 0)
  | .gred _ _ d a i => some (vecWord 0x23 d a (immEnc i) 0)
  | .vperm _ _ d a b => some (vecWord 0x24 d a (b * 2 ^ 34) 0)
  | .vext _ _ d a i => some (vecWord 0x25 d a (immEnc i) 0)
  | .exp2 _ _ d a => some (vecWord 0x28 d a 0 0)
  | .log2 _ _ d a => some (vecWord 0x29 d a 0 0)
  | .rcp _ _ d a => some (vecWord 0x2A d a 0 0)
  | .rsqrt _ _ d a => some (vecWord 0x2B d a 0 0)
  | .vsumL _ _ la a => some (vecWord 0x30 0 a (la * 2 ^ 11) 0)
  | .laclr _ _ la => some (vecWord 0x31 0 0 (la * 2 ^ 11) 0)
  | .lard _ _ d la => some (vecWord 0x32 d 0 (la * 2 ^ 11) 0)
  | .sadd _ _ d a b => some (vecWord 0x40 d a (opBEnc b) 0)
  | .ssub _ _ d a b => some (vecWord 0x41 d a (opBEnc b) 0)
  | .smul _ _ d a b => some (vecWord 0x42 d a (opBEnc b) 0)
  | .sand _ _ d a b => some (vecWord 0x43 d a (opBEnc b) 0)
  | .sor _ _ d a b => some (vecWord 0x44 d a (opBEnc b) 0)
  | .sxor _ _ d a b => some (vecWord 0x45 d a (opBEnc b) 0)
  | .sshl _ _ d a b => some (vecWord 0x46 d a (opBEnc b) 0)
  | .sshr _ _ d a b => some (vecWord 0x47 d a (opBEnc b) 0)
  | .ssra _ _ d a b => some (vecWord 0x48 d a (opBEnc b) 0)
  | .smin _ _ d a b => some (vecWord 0x49 d a (opBEnc b) 0)
  | .smax _ _ d a b => some (vecWord 0x4A d a (opBEnc b) 0)
  | .sclt _ _ d a b => some (vecWord 0x4B d a (opBEnc b) 0)
  | .sceq _ _ d a b => some (vecWord 0x4C d a (opBEnc b) 0)
  | .smov _ _ d b => some (vecWord 0x4D d 0 (opBEnc b) 0)
  | .sshi _ _ d i => some (vecWord 0x4E d 0 (immEnc i) 0)
  | .mova _ _ d a => some (vecWord 0x50 d a 0 0)
  | .movb _ _ d a => some (vecWord 0x51 d a 0 0)
  | .movl _ _ d a => some (vecWord 0x52 d a 0 0)
  | .movsa _ _ d a => some (vecWord 0x53 d a 0 0)
  | .aadd _ _ d i => some (vecWord 0x54 d 0 (immEnc i) 0)
  | _ => none

/-- The 32 bits of an X or Y slot (07 R153). -/
def lsWord (op : Nat) (o : LsOp) : Nat := op * 2 ^ 27 + o.r * 2 ^ 22 + o.an * 2 ^ 18 + o.pm * 2 ^ 16 + o.cvt * 2 ^ 13 + o.off.toNat

/-- Whether an operation stands in the Y slot, and its word (07 R156). -/
def lsEnc : Instr → Option (Bool × Nat)
  | .vld _ _ o => some (o.slotY, lsWord 0x01 o)
  | .vst _ _ o => some (o.slotY, lsWord 0x02 o)
  | .vldb _ _ o => some (o.slotY, lsWord 0x03 o)
  | .sld _ _ o => some (o.slotY, lsWord 0x04 o)
  | .sst _ _ o => some (o.slotY, lsWord 0x05 o)
  | .vldt _ _ o => some (o.slotY, lsWord 0x06 o)
  | .vstt _ _ o => some (o.slotY, lsWord 0x07 o)
  | .ldpk _ _ o => some (o.slotY, lsWord 0x08 o)
  | .stpk _ _ o => some (o.slotY, lsWord 0x09 o)
  | .lald _ _ o => some (o.slotY, lsWord 0x0A o)
  | .last _ _ o => some (o.slotY, lsWord 0x0B o)
  | .lamrg _ _ o => some (o.slotY, lsWord 0x0C o)
  | _ => none

/-- The 32 bits of the DMA/skew slot (05 R106). -/
def dmaWord (op : Nat) (o : DmaOp) : Nat := op * 2 ^ 27 + o.tag * 2 ^ 23 + o.src * 2 ^ 18 + o.dst * 2 ^ 13 + o.prm * 2 ^ 8 + o.imm.toNat

/-- The word of an operation of the DMA/skew slot (05 R107). -/
def dmaEnc : Instr → Option Nat
  | .ld _ _ o => some (dmaWord 1 o)
  | .st _ _ o => some (dmaWord 2 o)
  | .skewa _ _ o => some (dmaWord 3 o)
  | .skewb _ _ o => some (dmaWord 4 o)
  | .mks _ _ o => some (dmaWord 5 o)
  | _ => none

end Sys2Proof.Machine
end

