-- ==== Sys2Proof/Safety.lean ====
section
/-!
DEFINITION. What holds in every state that the block reaches from a state in which it holds, in the terms that claims use.
-/
namespace Sys2Proof.Machine

/-- Device memory and host memory stand in their canonical form: addresses strictly rising, no entry that an unlisted address reads as. -/
def State.memOk (s : State) : Prop := Memory.wf s.mem.dev = true ∧ Memory.wf s.mem.host = true

/-- The beat is one of the 1,250 of a tick (03 R45). -/
def State.beatOk (s : State) : Prop := s.tkp.beat < 1250

/-- The invariant of the block. -/
def State.Inv (s : State) : Prop := s.memOk ∧ s.beatOk

/-! ### Terms of the claims about slot operations (04 R65, R66, 07 R147) -/

/-- The state in which a tile's kernel has reached cycle `c`: the timed transfers whose cycle has come have left or arrived (04 R91). -/
def reached (s : State) (t c : Nat) : State := timedDue s (tickCycle s t c)

/-- The tile as an operation that issues at cycle `c` finds it. -/
def found (s : State) (t c : Nat) : Tile := (tileAt (reached s t c) t).land c

/-- A kernel runs on a tile, no WAITD holds its issue, and no mismatch has stopped it before the cycle. -/
def Issues (s : State) (t c : Nat) : Prop :=
  (tileAt (reached s t c) t).run.isSome = true ∧ (tileAt (reached s t c) t).wait = none ∧ (found s t c).struck c = none

/-- The state after an operation that issued at cycle `c` and leaves the tile as `y`: nothing but the tile has changed, beyond the timed
transfers whose cycle has come. -/
def afterOp (s : State) (t c : Nat) (y : Tile) : State := setTile (reached s t c) t { y with cyc := max y.cyc c }

/-- The tile with one more write in flight, visible from a cycle on. -/
def Tile.flies (x : Tile) (vis : Nat) (w : TWrite) : Tile := { x with pend := addPend x.pend (vis, w) }

/-- No write in flight may not meet a write of a register; files as in TWrite.reg: 0 V, 1 S, 2 A, 3 B, 4 L. -/
def Tile.Quiet (x : Tile) (file n : Nat) : Prop := ∀ p ∈ x.pend, ∀ r, p.2.reg = some r → regsMeet (file, n) r = false

/-- The tile with its address register post-modified, if the access modifies it (07 R154). -/
def Tile.modified (x : Tile) (c : Nat) (o : LsOp) (v : Option (BitVec 24)) : Tile :=
  match v with
  | some a => x.flies (c + 1) (.areg o.an a)
  | none => x

/-- The writes in flight stand in the order in which they become visible. -/
def pendSorted : List (Nat × TWrite) → Prop
  | [] => True
  | p :: ps => (∀ q ∈ ps, p.1 ≤ q.1) ∧ pendSorted ps

/-! ### Terms of the claims about host commands (16 R369, R503) -/

/-- The record of a command: it carries the opcode and may start. -/
def Starts (s : State) (q seq opcode : Nat) (r : JRec) : Prop := findRec s q seq = some r ∧ r.opcode = opcode ∧ mayStart s r = true

/-- The state in which the command has started. -/
def begun (s : State) (q seq : Nat) : State := modRec s q seq fun x => { x with stage := 2 }

end Sys2Proof.Machine
end

