-- ==== Sys2Proof/WellFormed.lean ====
section
/-!
DEFINITION. The ranges that the spec gives the operands of a command: registers and slot fields (04 R66, 05 R97, R106, 07 R145, R148,
R153), tiles, units, tables and queues. A quantity that the surroundings give has no range here. The meanings are total and do not
rest on well-formedness.
-/
namespace Sys2Proof

/-- A logical tile (04 R64). -/
def tileOk (t : Nat) : Bool := decide (t < 160)

/-- A register of a file of 32 (07 R144). -/
def reg5 (n : Nat) : Bool := decide (n < 32)

/-- The queue of an ATTN: one of the device's 512, or the pseudo queue of a step (log 99). -/
def attnQueueOk (q : Nat) : Bool := decide (q < 512 ∨ (2 ^ 16 ≤ q ∧ q < 2 ^ 16 + 16384))

/-- Operand b of the vector/signal slot (07 R145). -/
def opBOk : OpB → Bool
  | .reg n => reg5 n
  | .sreg n => reg5 n
  | .imm _ => true

/-- The fields of an X or Y slot (07 R153): an addressing mode and a conversion of R154 and R155. -/
def lsOk (o : LsOp) : Bool := reg5 o.r && decide (o.an < 16 ∧ o.pm < 3 ∧ o.cvt < 6)

/-- The fields of a slot that converts nothing (07 R155, R156). -/
def lsPlain (o : LsOp) : Bool := lsOk o && decide (o.cvt = 0)

/-- The fields of a packed operation (07 R157): OFF[12:11] is 0, and PM is 0 or 1. -/
def lsPacked (o : LsOp) : Bool := lsPlain o && decide (o.off.toNat < 2048 ∧ o.pm < 2)

/-- IMM of BEXP (07 R150): bits [15:12] are 0, and bits [10:6] are 0 where bit 11 chooses an exponent of its own. -/
def bexpOk (imm : W16) : Bool := decide (imm.toNat < 4096 ∧ (imm.toNat / 2048 % 2 = 1 → imm.toNat / 64 % 32 = 0))

/-- IMM of GRED (07 R149): one of the six reductions. -/
def gredOk (imm : W16) : Bool := decide (imm.toNat / 64 % 8 < 6)

/-- The fields of an array slot (05 R97): five-bit fields, and a mask register or 31. -/
def arrOk (o : ArrOp) : Bool :=
  decide (o.arr < 2 ∧ o.acc < 4 ∧ (o.msk < 16 ∨ o.msk = 31)) && reg5 o.sa && reg5 o.aoff && reg5 o.sb && reg5 o.boff

/-- An array slot that names no B block and loads none (05 R97, R98): the fields that the opcode does not use are 0. -/
def arrNoB (o : ArrOp) : Bool := arrOk o && decide (o.sb = 0 ∧ o.boff = 0 ∧ o.ld = false)

/-- The fields of WLD that the opcode does not use are 0 (05 R97, R98). -/
def wldOk (o : ArrOp) : Bool :=
  arrOk o && decide (o.fmt < 15 ∧ o.sa = 0 ∧ o.aoff = 0 ∧ o.acc = 0 ∧ o.clr = false ∧ o.ld = false ∧ o.msk = 0)

/-- The fields of the DMA/skew slot (05 R106). -/
def dmaOk (o : DmaOp) : Bool := decide (o.tag < 16) && reg5 o.src && reg5 o.dst && reg5 o.prm

/-- A DMA/skew slot whose IMM is reserved (05 R106). -/
def dmaPlain (o : DmaOp) : Bool := dmaOk o && decide (o.imm = 0)

/-- FMT and SRCK of a skew operation (05 R106, R107): the source in FMT, BF16 to an MX format, or FP32 to BF16 or an MX format. -/
def skewOk (o : DmaOp) : Bool :=
  let fmt := o.imm.toNat % 16
  let k := o.imm.toNat / 64
  dmaOk o && decide (fmt < 15 ∧ (k = 0 ∨ (k = 1 ∧ 9 ≤ fmt) ∨ (k = 2 ∧ 6 ≤ fmt)))

/-- Every operand of a command lies in the range of its kind. -/
def Instr.wellFormed : Instr → Bool
  | .powerUp _ => true
  | .powerDown => true
  | .coldStart _ _ _ _ => true
  | .brownout _ => true
  | .brownoutShutdown => true
  | .overvolt _ => true
  | .overvoltClear _ => true
  | .currentWarning die _ => decide (die < 4)
  | .railTrip _ => true
  | .thermalSample _ _ => true
  | .governorDuty _ _ _ _ => true
  | .telemetryRecord _ => true
  | .seam _ => true
  | .duskBand => true
  | .planSubstitute => true
  | .planSeal _ => true
  | .overcastWord => true
  | .dispatch _ => true
  | .kernelEnd t _ => tileOk t
  | .kernelOverrun t => tileOk t
  | .waitdTimeout t => tileOk t
  | .slotNop t _ slot => tileOk t && decide (slot < 7)
  | .br t _ target => tileOk t && decide (target < 8192)
  | .brz t _ n target => tileOk t && reg5 n && decide (target < 8192)
  | .brnz t _ n target => tileOk t && reg5 n && decide (target < 8192)
  | .loop t _ count => tileOk t && decide (0 < count ∧ count < 65536)
  | .endl t _ => tileOk t
  | .repeatN t _ n => tileOk t && decide (0 < n ∧ n < 65536)
  | .waitd t _ tag n => tileOk t && decide (tag < 16 ∧ n < 32768)
  | .syncp t _ ctr => tileOk t && decide (ctr < 64)
  | .endK t _ => tileOk t
  | .mma t _ o _ => tileOk t && arrOk o && decide (o.fmt < 15)
  | .wld t _ o => tileOk t && wldOk o
  | .rout t _ o => tileOk t && arrNoB o && decide (o.fmt < 6 ∧ o.clr = false)
  | .lout t _ o => tileOk t && arrNoB o && decide (o.fmt = 0 ∧ o.clr = false ∧ o.msk = 0)
  | .lin t _ o => tileOk t && arrNoB o.op && decide (o.op.fmt = 0 ∧ o.op.msk = 0)
  | .ld t _ o => tileOk t && dmaPlain o
  | .st t _ o => tileOk t && dmaPlain o
  | .skewa t _ o => tileOk t && skewOk o
  | .skewb t _ o => tileOk t && skewOk o && decide (o.imm.toNat / 16 % 4 = 0)
  | .mks t _ o => tileOk t && dmaPlain o
  | .dmaSkewComplete t _ _ => tileOk t
  | .fadd t _ d a b => tileOk t && reg5 d && reg5 a && opBOk b
  | .fsub t _ d a b => tileOk t && reg5 d && reg5 a && opBOk b
  | .fmul t _ d a b => tileOk t && reg5 d && reg5 a && opBOk b
  | .fma t _ d a b cc => tileOk t && reg5 d && reg5 a && opBOk b && reg5 cc
  | .fnma t _ d a b cc => tileOk t && reg5 d && reg5 a && opBOk b && reg5 cc
  | .fmin t _ d a b => tileOk t && reg5 d && reg5 a && opBOk b
  | .fmax t _ d a b => tileOk t && reg5 d && reg5 a && opBOk b
  | .fabs t _ d a => tileOk t && reg5 d && reg5 a
  | .fneg t _ d a => tileOk t && reg5 d && reg5 a
  | .fclt t _ d a b => tileOk t && reg5 d && reg5 a && opBOk b
  | .fcle t _ d a b => tileOk t && reg5 d && reg5 a && opBOk b
  | .fceq t _ d a b => tileOk t && reg5 d && reg5 a && opBOk b
  | .fcvti t _ d a => tileOk t && reg5 d && reg5 a
  | .icvtf t _ d a => tileOk t && reg5 d && reg5 a
  | .fscl t _ d a b => tileOk t && reg5 d && reg5 a && opBOk b
  | .iadd t _ d a b => tileOk t && reg5 d && reg5 a && opBOk b
  | .isub t _ d a b => tileOk t && reg5 d && reg5 a && opBOk b
  | .imul t _ d a b => tileOk t && reg5 d && reg5 a && opBOk b
  | .andV t _ d a b => tileOk t && reg5 d && reg5 a && opBOk b
  | .orV t _ d a b => tileOk t && reg5 d && reg5 a && opBOk b
  | .xorV t _ d a b => tileOk t && reg5 d && reg5 a && opBOk b
  | .shl t _ d a b => tileOk t && reg5 d && reg5 a && opBOk b
  | .shr t _ d a b => tileOk t && reg5 d && reg5 a && opBOk b
  | .sra t _ d a b => tileOk t && reg5 d && reg5 a && opBOk b
  | .imin t _ d a b => tileOk t && reg5 d && reg5 a && opBOk b
  | .imax t _ d a b => tileOk t && reg5 d && reg5 a && opBOk b
  | .iclt t _ d a b => tileOk t && reg5 d && reg5 a && opBOk b
  | .iceq t _ d a b => tileOk t && reg5 d && reg5 a && opBOk b
  | .sel t _ d a b cc => tileOk t && reg5 d && reg5 a && opBOk b && reg5 cc
  | .mov t _ d b => tileOk t && reg5 d && opBOk b
  | .viota t _ d b => tileOk t && reg5 d && opBOk b
  | .norm t _ d a => tileOk t && reg5 d && reg5 a
  | .expx t _ d a => tileOk t && reg5 d && reg5 a
  | .bexp t _ d a imm => tileOk t && reg5 d && reg5 a && bexpOk imm
  | .gred t _ d a imm => tileOk t && reg5 d && reg5 a && gredOk imm
  | .vperm t _ d a b => tileOk t && reg5 d && reg5 a && reg5 b
  | .vext t _ d a _ => tileOk t && reg5 d && reg5 a
  | .exp2 t _ d a => tileOk t && reg5 d && reg5 a
  | .log2 t _ d a => tileOk t && reg5 d && reg5 a
  | .rcp t _ d a => tileOk t && reg5 d && reg5 a
  | .rsqrt t _ d a => tileOk t && reg5 d && reg5 a
  | .vsumL t _ la a => tileOk t && decide (la < 4) && reg5 a
  | .laclr t _ la => tileOk t && decide (la < 4)
  | .lard t _ d la => tileOk t && reg5 d && decide (la < 4)
  | .sadd t _ d a b => tileOk t && reg5 d && reg5 a && opBOk b
  | .ssub t _ d a b => tileOk t && reg5 d && reg5 a && opBOk b
  | .smul t _ d a b => tileOk t && reg5 d && reg5 a && opBOk b
  | .sand t _ d a b => tileOk t && reg5 d && reg5 a && opBOk b
  | .sor t _ d a b => tileOk t && reg5 d && reg5 a && opBOk b
  | .sxor t _ d a b => tileOk t && reg5 d && reg5 a && opBOk b
  | .sshl t _ d a b => tileOk t && reg5 d && reg5 a && opBOk b
  | .sshr t _ d a b => tileOk t && reg5 d && reg5 a && opBOk b
  | .ssra t _ d a b => tileOk t && reg5 d && reg5 a && opBOk b
  | .smin t _ d a b => tileOk t && reg5 d && reg5 a && opBOk b
  | .smax t _ d a b => tileOk t && reg5 d && reg5 a && opBOk b
  | .sclt t _ d a b => tileOk t && reg5 d && reg5 a && opBOk b
  | .sceq t _ d a b => tileOk t && reg5 d && reg5 a && opBOk b
  | .smov t _ d b => tileOk t && reg5 d && opBOk b
  | .sshi t _ d _ => tileOk t && reg5 d
  | .mova t _ d a => tileOk t && decide (d < 16) && reg5 a
  | .movb t _ d a => tileOk t && decide (d < 8) && reg5 a
  | .movl t _ d a => tileOk t && decide (d < 8) && reg5 a
  | .movsa t _ d a => tileOk t && reg5 d && decide (a < 16)
  | .aadd t _ d _ => tileOk t && decide (d < 16)
  | .vld t _ o => tileOk t && lsOk o
  | .vst t _ o => tileOk t && lsOk o
  | .vldb t _ o => tileOk t && lsOk o
  | .sld t _ o => tileOk t && lsPlain o
  | .sst t _ o => tileOk t && lsPlain o
  | .vldt t _ o => tileOk t && lsOk o
  | .vstt t _ o => tileOk t && lsOk o
  | .ldpk t _ o => tileOk t && lsPacked o
  | .stpk t _ o => tileOk t && lsPacked o
  | .lald t _ o => tileOk t && lsPlain o
  | .last t _ o => tileOk t && lsPlain o
  | .lamrg t _ o => tileOk t && lsPlain o
  | .tileRemap t => tileOk t
  | .rerunOverlaySeal _ => true
  | .linkWireFailing die link group wire => decide (die < 4) && decide (link < 3) && decide (group < 1024) && decide (wire < 16)
  | .sentinelRun _ => true
  | .stressVariant die _ => decide (die < 4)
  | .healthScore _ _ _ _ => true
  | .slowdownWindow => true
  | .codeBlockStart hd engine => decide (hd < 2) && decide (engine < 28)
  | .codeBlockComplete hd engine _ => decide (hd < 2) && decide (engine < 28)
  | .dmaDescriptorStart eng _ _ _ _ _ => decide (eng < 16)
  | .dmaBurstComplete eng => decide (eng < 16)
  | .dmaBurstTimeout eng _ => decide (eng < 16)
  | .channelLost ch => decide (ch < 32)
  | .patrolScrub _ _ _ _ => true
  | .hostMemRead _ _ => true
  | .hostMemWrite _ _ => true
  | .stepCompose slice pool _ => decide (slice < 64) && decide (pool < 256)
  | .stepCommit slice pool _ => decide (slice < 64) && decide (pool < 256)
  | .reclaim pool _ => decide (pool < 256)
  | .swapReturn pool => decide (pool < 256)
  | .deadlineRule pool => decide (pool < 256)
  | .adapterCurrent slot => decide (slot < 256)
  | .attnBlockEnqueue q _ _ _ _ _ _ => attnQueueOk q
  | .moveRetry idx => decide (idx < 16384)
  | .moveQueryTimer idx => decide (idx < 16384)
  | .prefixLeaseExpiry _ => true
  | .writeGrantExpiry _ => true
  | .flashDemote pool _ _ => decide (pool < 256)
  | .flashPromote pool _ _ => decide (pool < 256)
  | .superblockErase _ _ => true
  | .superblockRelocate => true
  | .flashRetentionRewrite => true
  | .fhFrameRx port _ => decide (port < 8)
  | .symbolClose cell _ y => decide (cell < 192) && decide (y < 14)
  | .agcUpdate port stream sym _ _ _ => decide (port < 8) && decide (stream < 256) && decide (sym % 16 < 14)
  | .cplaneLaunch port cell _ => decide (port < 8) && decide (cell < 192)
  | .uplaneLaunch port cell _ _ _ => decide (port < 8) && decide (cell < 192)
  | .fhLinkDown port _ => decide (port < 8)
  | .fhLinkUp port => decide (port < 8)
  | .fhTrainTimeout port => decide (port < 8)
  | .paramRequest m => decide (m.cell < 192)
  | .configRequest m _ => decide (m.cell < 192)
  | .startRequest m => decide (m.cell < 192)
  | .stopRequest m => decide (m.cell < 192)
  | .dlTtiRequest m => decide (m.cell < 192)
  | .ulTtiRequest m => decide (m.cell < 192)
  | .ulDciRequest m => decide (m.cell < 192)
  | .txDataRequest m => decide (m.cell < 192)
  | .cellBindRequest phy cell => decide (phy < 8) && decide (cell < 192)
  | .twilightCfgRequest phy cell => decide (phy < 8) && decide (cell < 192)
  | .fapiMessageUnsupported phy _ => decide (phy < 8)
  | .slotRequestDeadline cell _ => decide (cell < 192)
  | .txDataDeadline cell _ => decide (cell < 192)
  | .cellActivate cell => decide (cell < 192)
  | .cellStop cell => decide (cell < 192)
  | .twilightHoldExpiry cell => decide (cell < 192)
  | .flitRx port lane fseq fack type rest _ => decide (port < 8) && decide (lane < 4) && decide (fseq < 4096) && decide (fack < 4096) &&
      decide (type < 16) && decide (rest.length = 252)
  | .portTrained port => decide (port < 8)
  | .load port _ => decide (port < 8)
  | .store port _ => decide (port < 8)
  | .atomic port _ => decide (port < 8)
  | .accL port _ => decide (port < 8)
  | .msg port _ => decide (port < 8)
  | .ack port _ => decide (port < 8)
  | .statusP port _ => decide (port < 8)
  | .loadData port _ => decide (port < 8)
  | .atomicData port _ => decide (port < 8)
  | .probe port _ => decide (port < 8)
  | .epoch port _ => decide (port < 8)
  | .ackTimer src => decide (src < 256)
  | .retransmitTimeout dst psn => decide (dst < 256) && decide (psn < 2 ^ 33)
  | .pathProbeTimer => true
  | .streamBreak dst => decide (dst < 256)
  | .xferEntryIssue port => decide (port < 8)
  | .moveReserve _ => true
  | .moveReserved idx _ => decide (idx < 16384)
  | .moveCommit src idx _ _ => decide (src < 256) && decide (idx < 16384)
  | .moveAnswer idx _ _ => decide (idx < 16384)
  | .moveRelease src idx _ => decide (src < 256) && decide (idx < 16384)
  | .moveQuery src idx _ => decide (src < 256) && decide (idx < 16384)
  | .moveCancel src idx _ => decide (src < 256) && decide (idx < 16384)
  | .prefixAsk src q _ _ _ _ => decide (src < 256) && decide (q < 512)
  | .prefixHeld src q _ _ _ _ _ _ => decide (src < 256) && decide (q < 512)
  | .prefixPin src q _ _ _ _ _ => decide (src < 256) && decide (q < 512)
  | .prefixUnpin src _ => decide (src < 256)
  | .prefixOffer src q _ _ _ _ _ => decide (src < 256) && decide (q < 512)
  | .contrailDigest src _ _ _ => decide (src < 256)
  | .contrailUnmatched => true
  | .barrierTimeout q _ => decide (q < 512)
  | .jobStepLaunch q _ _ _ _ _ => decide (q < 512)
  | .ptpMessage port _ _ _ _ m => decide (port < 8) && decide (m.domain < 256) && decide (m.dest < 2 ^ 48) && decide (m.source < 2 ^ 80) && decide (m.ns < 100)
  | .esmcMessage port _ => decide (port < 8)
  | .ppsInEdge _ => true
  | .todLineRx _ _ => true
  | .ppsOut => true
  | .timeStep _ _ => true
  | .sourceLost => true
  | .holdExceeded => true
  | .submissionDoorbell q _ => decide (q < 520)
  | .completionDoorbell q _ => decide (q < 520)
  | .commandConsume q _ => decide (q < 512)
  | .commandAccept q => decide (q < 512)
  | .interruptCoalesceTimer q => decide (q < 512)
  | .adminQueueEnable _ => true
  | .adminQueueDelete _ => true
  | .heartbeat _ => true
  | .orphan _ => true
  | .cxlLinkDown _ => true
  | .orphanHoldExpiry => true
  | .noticeSend page _ => decide (page < 65)
  | .noticeDeliver page => decide (page < 65)
  | .noticeTimeout page => decide (page < 65)
  | .slcRxHeadWrite page _ => decide (page < 65)
  | .registerWrite _ _ _ => true
  | .nop q _ => decide (q < 512)
  | .queueCreate q _ => decide (q < 512)
  | .queueDelete q _ => decide (q < 512)
  | .identify q _ => decide (q < 512)
  | .recoveryGet q _ => decide (q < 512)
  | .resetReq q _ => decide (q < 512)
  | .attnAck q _ => decide (q < 512)
  | .mirrorSet q _ => decide (q < 512)
  | .mirrorReport q _ => decide (q < 512)
  | .biasSet q _ => decide (q < 512)
  | .poolSet q _ => decide (q < 512)
  | .reqAdmit q _ => decide (q < 512)
  | .reqAbort q _ => decide (q < 512)
  | .reqQuery q _ => decide (q < 512)
  | .serveCfg q _ => decide (q < 512)
  | .budgetSet q _ => decide (q < 512)
  | .roleSet q _ => decide (q < 512)
  | .peerLost q _ => decide (q < 512)
  | .adapterLoad q _ => decide (q < 512)
  | .adapterWithdraw q _ => decide (q < 512)
  | .grammarLoad q _ => decide (q < 512)
  | .grammarUnload q _ => decide (q < 512)
  | .attn q _ => attnQueueOk q
  | .attnMerge q _ => decide (q < 512)
  | .prefixLookup q _ => decide (q < 512)
  | .prefixFetch q _ => decide (q < 512)
  | .prefixPublish q _ => decide (q < 512)
  | .flashCfg q _ => decide (q < 512)
  | .radL2Open q _ => decide (q < 512)
  | .radL2Close q _ => decide (q < 512)
  | .fhCfg q _ => decide (q < 512)
  | .regionSet q _ => decide (q < 512)
  | .pathSet q _ => decide (q < 512)
  | .partitionSet q _ => decide (q < 512)
  | .portFence q _ => decide (q < 512)
  | .jobtagSet q _ => decide (q < 512)
  | .fabXfer q _ => decide (q < 512)
  | .sliceAssign q _ => decide (q < 512)
  | .sliceQuota q _ => decide (q < 512)
  | .ctxCreate q _ => decide (q < 512)
  | .ctxDestroy q _ => decide (q < 512)
  | .ctxHold q _ => decide (q < 512)
  | .ctxResume q _ => decide (q < 512)
  | .ctxQuery q _ => decide (q < 512)
  | .ctxSaveStart ctx => decide (ctx < 1024)
  | .ctxRestoreStart ctx => decide (ctx < 1024)
  | .ctxActivate ctx => decide (ctx < 1024)
  | .contextTeardown ctx => decide (ctx < 1024)
  | .contextRelease ctx => decide (ctx < 1024)
  | .mbxGrant q _ => decide (q < 512)
  | .kernelLoad q _ => decide (q < 512)
  | .planLaunch q _ => decide (q < 512)
  | .fwUpdate q _ _ => decide (q < 512)
  | .updateQuiesce => true
  | .updateCommit => true
  | .updateAbort _ => true
  | .powerCap q _ => decide (q < 512)
  | .repairMapGet q _ => decide (q < 512)
  | .clockMode q _ => decide (q < 512)
  | .timeCfg q _ => decide (q < 512)
  | .debugNonce q _ => decide (q < 512)
  | .debugUnlock q _ => decide (q < 512)
  | .debugLock q _ => decide (q < 512)
  | .memEncSet q _ => decide (q < 512)
  | .bundleLoad _ _ => true
  | .getVersion _ _ => true
  | .getCapabilities _ _ => true
  | .negotiateAlgorithms _ _ => true
  | .getDigests _ _ => true
  | .getCertificate _ _ slot _ _ => decide (slot < 256)
  | .challenge _ _ _ => true
  | .getMeasurements _ _ _ _ _ => true
  | .entdaa _ => true
  | .setEndpointId eid => decide (eid < 256)
  | .getEndpointId => true
  | .getMctpVersionSupport _ => true
  | .getMessageTypeSupport => true
  | .getVendorDefinedMessageSupport _ => true
  | .getPdrRepositoryInfo => true
  | .getPdr _ => true
  | .getSensorReading _ => true
  | .recorderRead _ _ => true
  | .alertAck _ => true
  | .anchorSet _ _ _ => true
  | .anchorGet => true
  | .resetRequest kind slice => decide (kind < 5) && decide (slice < 64)
  | .stressRun dies => decide (0 < dies ∧ dies < 16)
  | .contrailSet _ => true
  | .retireClear => true
  | .warmReset _ _ _ => true
  | .functionReset _ => true
  | .sliceReset slice => decide (slice < 64)
  | .cpStop cp _ => decide (cp < 8)
  | .cp0WatchdogExpiry => true
  | .summaryWindow => true
  | .persistBatch _ => true
  | .persistPathChange => true
  | .cxlLinkTraining _ _ => true
  | .busMasteringEnable => true
  | .entropyFail => true
  | .pldmBase _ => true
  | .unsupportedRequest _ _ _ => true

end Sys2Proof
end

