-- ==== Sys2Proof/Certificates/Slice0/Obligations.lean ====
section
/-!
DEFINITION. The statements of this model. A statement about a command has as its conclusion the state that the command
answers; `Starts` names the record of a host command that may start (16 R369), and `begun` the state in which it has started.
-/
open Sys2Proof Sys2Proof.Machine

/-- FP32 lane operations complete with the results and latencies of the opcode table (R143, R146, R147, R148). -/
def Obligations.FpLaneOps : Prop :=
  ∀ (s : State) (t c d a cc : Nat) (b : OpB), Issues s t c → (found s t c).Quiet 0 d →
    let x := found s t c
    exec (.fadd t c d a b) s = .next (afterOp s t c (x.flies (c + 4) (.vreg d (List.zipWith f32Add (x.getV a) (opBF x b))))) ∧
    exec (.fsub t c d a b) s = .next (afterOp s t c (x.flies (c + 4) (.vreg d (List.zipWith f32Sub (x.getV a) (opBF x b))))) ∧
    exec (.fmul t c d a b) s = .next (afterOp s t c (x.flies (c + 4) (.vreg d (List.zipWith f32Mul (x.getV a) (opBF x b))))) ∧
    exec (.fma t c d a b cc) s = .next (afterOp s t c (x.flies (c + 4) (.vreg d (zip3 f32Fma (x.getV a) (opBF x b) (x.getV cc))))) ∧
    exec (.fnma t c d a b cc) s = .next (afterOp s t c (x.flies (c + 4) (.vreg d (zip3 f32Fnma (x.getV a) (opBF x b) (x.getV cc))))) ∧
    exec (.fmin t c d a b) s = .next (afterOp s t c (x.flies (c + 2) (.vreg d (List.zipWith f32Min (x.getV a) (opBF x b))))) ∧
    exec (.fmax t c d a b) s = .next (afterOp s t c (x.flies (c + 2) (.vreg d (List.zipWith f32Max (x.getV a) (opBF x b))))) ∧
    exec (.fclt t c d a b) s = .next (afterOp s t c (x.flies (c + 2) (.vreg d (List.zipWith (fun p q => mask32 (fvLt (f32Val p) (f32Val q))) (x.getV a) (opBF x b))))) ∧
    exec (.fcle t c d a b) s = .next (afterOp s t c (x.flies (c + 2) (.vreg d (List.zipWith (fun p q => mask32 (fvLt (f32Val p) (f32Val q) || fvEq (f32Val p) (f32Val q))) (x.getV a) (opBF x b))))) ∧
    exec (.fceq t c d a b) s = .next (afterOp s t c (x.flies (c + 2) (.vreg d (List.zipWith (fun p q => mask32 (fvEq (f32Val p) (f32Val q))) (x.getV a) (opBF x b)))))

/-- Sign, conversion, exponent and special-function lane operations complete (R148, R150, R151). -/
def Obligations.UnaryLaneOps : Prop :=
  ∀ (s : State) (t c d a : Nat) (b : OpB), Issues s t c → (found s t c).Quiet 0 d →
    let x := found s t c
    exec (.fabs t c d a) s = .next (afterOp s t c (x.flies (c + 1) (.vreg d ((x.getV a).map (· &&& 0x7FFFFFFF))))) ∧
    exec (.fneg t c d a) s = .next (afterOp s t c (x.flies (c + 1) (.vreg d ((x.getV a).map (· ^^^ 0x80000000))))) ∧
    exec (.fcvti t c d a) s = .next (afterOp s t c (x.flies (c + 2) (.vreg d ((x.getV a).map f32ToInt)))) ∧
    exec (.icvtf t c d a) s = .next (afterOp s t c (x.flies (c + 2) (.vreg d ((x.getV a).map f32OfInt)))) ∧
    exec (.fscl t c d a b) s = .next (afterOp s t c (x.flies (c + 2) (.vreg d (List.zipWith f32Scale (x.getV a) (opBI x b))))) ∧
    exec (.norm t c d a) s = .next (afterOp s t c (x.flies (c + 2) (.vreg d ((x.getV a).map fun v => BitVec.ofNat 32 (norm32 v))))) ∧
    exec (.expx t c d a) s = .next (afterOp s t c (x.flies (c + 2) (.vreg d ((x.getV a).map fun v => BitVec.ofInt 32 (f32Expx v))))) ∧
    exec (.exp2 t c d a) s = .next (afterOp s t c (x.flies (c + 8) (.vreg d ((x.getV a).map f32Exp2)))) ∧
    exec (.log2 t c d a) s = .next (afterOp s t c (x.flies (c + 8) (.vreg d ((x.getV a).map f32Log2)))) ∧
    exec (.rcp t c d a) s = .next (afterOp s t c (x.flies (c + 8) (.vreg d ((x.getV a).map f32Rcp)))) ∧
    exec (.rsqrt t c d a) s = .next (afterOp s t c (x.flies (c + 8) (.vreg d ((x.getV a).map f32Rsqrt))))

/-- Integer lane operations complete with the results and latencies of the opcode table (R146, R147, R148). -/
def Obligations.IntLaneOps : Prop :=
  ∀ (s : State) (t c d a cc : Nat) (b : OpB), Issues s t c → (found s t c).Quiet 0 d →
    let x := found s t c
    exec (.iadd t c d a b) s = .next (afterOp s t c (x.flies (c + 1) (.vreg d (List.zipWith (· + ·) (x.getV a) (opBI x b))))) ∧
    exec (.isub t c d a b) s = .next (afterOp s t c (x.flies (c + 1) (.vreg d (List.zipWith (· - ·) (x.getV a) (opBI x b))))) ∧
    exec (.imul t c d a b) s = .next (afterOp s t c (x.flies (c + 3) (.vreg d (List.zipWith (· * ·) (x.getV a) (opBI x b))))) ∧
    exec (.andV t c d a b) s = .next (afterOp s t c (x.flies (c + 1) (.vreg d (List.zipWith (· &&& ·) (x.getV a) (opBI x b))))) ∧
    exec (.orV t c d a b) s = .next (afterOp s t c (x.flies (c + 1) (.vreg d (List.zipWith (· ||| ·) (x.getV a) (opBI x b))))) ∧
    exec (.xorV t c d a b) s = .next (afterOp s t c (x.flies (c + 1) (.vreg d (List.zipWith (· ^^^ ·) (x.getV a) (opBI x b))))) ∧
    exec (.shl t c d a b) s = .next (afterOp s t c (x.flies (c + 1) (.vreg d (List.zipWith shl32 (x.getV a) (opBI x b))))) ∧
    exec (.shr t c d a b) s = .next (afterOp s t c (x.flies (c + 1) (.vreg d (List.zipWith shr32 (x.getV a) (opBI x b))))) ∧
    exec (.sra t c d a b) s = .next (afterOp s t c (x.flies (c + 1) (.vreg d (List.zipWith sra32 (x.getV a) (opBI x b))))) ∧
    exec (.imin t c d a b) s = .next (afterOp s t c (x.flies (c + 1) (.vreg d (List.zipWith smin32 (x.getV a) (opBI x b))))) ∧
    exec (.imax t c d a b) s = .next (afterOp s t c (x.flies (c + 1) (.vreg d (List.zipWith smax32 (x.getV a) (opBI x b))))) ∧
    exec (.iclt t c d a b) s = .next (afterOp s t c (x.flies (c + 1) (.vreg d (List.zipWith (fun p q => mask32 (decide (p.toInt < q.toInt))) (x.getV a) (opBI x b))))) ∧
    exec (.iceq t c d a b) s = .next (afterOp s t c (x.flies (c + 1) (.vreg d (List.zipWith (fun p q => mask32 (decide (p = q))) (x.getV a) (opBI x b))))) ∧
    exec (.sel t c d a b cc) s = .next (afterOp s t c (x.flies (c + 1) (.vreg d (zip3 (fun p q r => if r = 0 then q else p) (x.getV a) (opBI x b) (x.getV cc))))) ∧
    exec (.mov t c d b) s = .next (afterOp s t c (x.flies (c + 1) (.vreg d (opBI x b)))) ∧
    exec (.viota t c d b) s = .next (afterOp s t c (x.flies (c + 1) (.vreg d (List.zipWith (fun i v => BitVec.ofNat 32 i + v) (List.range 64) (opBI x b)))))

/-- Grouped and cross-lane operations complete (R148, R149, R150). -/
def Obligations.GroupLaneOps : Prop :=
  ∀ (s : State) (t c d a b : Nat) (imm : W16), Issues s t c → (found s t c).Quiet 0 d → (found s t c).Quiet 1 d →
    let x := found s t c
    exec (.bexp t c d a imm) s = .next (afterOp s t c (x.flies (c + 4) (.vreg d (groupMap (groupLen imm) (bexpOp imm) (x.getV a))))) ∧
    exec (.gred t c d a imm) s = .next (afterOp s t c (x.flies (c + 6) (.vreg d (groupMap (groupLen imm) (gredOp imm) (x.getV a))))) ∧
    exec (.vperm t c d a b) s = .next (afterOp s t c (x.flies (c + 2) (.vreg d ((x.getV b).map fun i => (x.getV a).getD (i.toNat % 64) 0)))) ∧
    exec (.vext t c d a imm) s =
        .next (afterOp s t c (x.flies (c + 2) (.sreg d (((x.getV a).getD (imm.toNat % 64) 0).setWidth 64))))

/-- Scalar operations complete with the results and latencies of the opcode table (R146, R147, R148). -/
def Obligations.ScalarOps : Prop :=
  ∀ (s : State) (t c d a : Nat) (b : OpB) (imm : W16), Issues s t c → (found s t c).Quiet 1 d →
    let x := found s t c
    exec (.sadd t c d a b) s = .next (afterOp s t c (x.flies (c + 1) (.sreg d (x.getS a + opBS x b)))) ∧
    exec (.ssub t c d a b) s = .next (afterOp s t c (x.flies (c + 1) (.sreg d (x.getS a - opBS x b)))) ∧
    exec (.smul t c d a b) s = .next (afterOp s t c (x.flies (c + 3) (.sreg d (x.getS a * opBS x b)))) ∧
    exec (.sand t c d a b) s = .next (afterOp s t c (x.flies (c + 1) (.sreg d (x.getS a &&& opBS x b)))) ∧
    exec (.sor t c d a b) s = .next (afterOp s t c (x.flies (c + 1) (.sreg d (x.getS a ||| opBS x b)))) ∧
    exec (.sxor t c d a b) s = .next (afterOp s t c (x.flies (c + 1) (.sreg d (x.getS a ^^^ opBS x b)))) ∧
    exec (.sshl t c d a b) s = .next (afterOp s t c (x.flies (c + 1) (.sreg d (shl64 (x.getS a) (opBS x b))))) ∧
    exec (.sshr t c d a b) s = .next (afterOp s t c (x.flies (c + 1) (.sreg d (shr64 (x.getS a) (opBS x b))))) ∧
    exec (.ssra t c d a b) s = .next (afterOp s t c (x.flies (c + 1) (.sreg d (sra64 (x.getS a) (opBS x b))))) ∧
    exec (.smin t c d a b) s = .next (afterOp s t c (x.flies (c + 1) (.sreg d (if (x.getS a).toInt ≤ (opBS x b).toInt then x.getS a else opBS x b)))) ∧
    exec (.smax t c d a b) s = .next (afterOp s t c (x.flies (c + 1) (.sreg d (if (x.getS a).toInt ≤ (opBS x b).toInt then opBS x b else x.getS a)))) ∧
    exec (.sclt t c d a b) s = .next (afterOp s t c (x.flies (c + 1) (.sreg d (if (x.getS a).toInt < (opBS x b).toInt then 1 else 0)))) ∧
    exec (.sceq t c d a b) s = .next (afterOp s t c (x.flies (c + 1) (.sreg d (if x.getS a = opBS x b then 1 else 0)))) ∧
    exec (.smov t c d b) s = .next (afterOp s t c (x.flies (c + 1) (.sreg d (opBS x b)))) ∧
    exec (.sshi t c d imm) s = .next (afterOp s t c (x.flies (c + 1) (.sreg d ((x.getS d <<< (16 : Nat)) ||| imm.setWidth 64))))

/-- Address-register operations complete (R148, R153). -/
def Obligations.AddressRegisterOps : Prop :=
  ∀ (s : State) (t c d a : Nat) (imm : W16), Issues s t c →
    let x := found s t c
    (x.Quiet 2 d → exec (.mova t c d a) s = .next (afterOp s t c (x.flies (c + 1) (.areg d ((x.getS a).setWidth 24))))) ∧
    (x.Quiet 3 d → exec (.movb t c d a) s = .next (afterOp s t c (x.flies (c + 1) (.breg d ((x.getS a).setWidth 24))))) ∧
    (x.Quiet 4 d → exec (.movl t c d a) s = .next (afterOp s t c (x.flies (c + 1) (.lreg d ((x.getS a).setWidth 24))))) ∧
    (x.Quiet 1 d → exec (.movsa t c d a) s = .next (afterOp s t c (x.flies (c + 1) (.sreg d ((x.getA a).setWidth 64))))) ∧
    (x.Quiet 2 d → exec (.aadd t c d imm) s = .next (afterOp s t c (x.flies (c + 1) (.areg d (x.adv (x.getA d) d imm.toInt)))))

/-- Operations of the long vector accumulators complete (R141, R142, R152, R156). -/
def Obligations.LongAccumulatorOps : Prop :=
  ∀ (s : State) (t c d a n : Nat) (o : LsOp), Issues s t c →
    let x := found s t c
    (x.laAddOk n c = true → exec (.vsumL t c n a) s =
      .next (afterOp s t c (x.setLA n (2 * c) (laAdd (x.laFrom n c) (laSum (x.getV a)))))) ∧
    (x.laSetOk n c = true → exec (.laclr t c n) s = .next (afterOp s t c (x.setLA n (2 * c + 1) (some 0)))) ∧
    (x.laReadOk n c = true → x.Quiet 0 d → exec (.lard t c d n) s =
      .next (afterOp s t c ((x.noteRead n c).flies (c + 2) (.vreg d (List.replicate 64 (laRound (x.getLA n))))))) ∧
    (x.laSetOk (o.r % 4) c = true → x.Quiet 2 o.an → exec (.lald t c o) s =
      .next (afterOp s t c ((x.setLA (o.r % 4) (2 * c + 1) (laOfBytes (x.laAt o))).modified c o (x.lsUpdate o 8 40)))) ∧
    (x.laReadOk (o.r % 4) c = true → x.Quiet 2 o.an → exec (.last t c o) s =
      .next (afterOp s t c ((((x.noteRead (o.r % 4) c).ends (c + 2)).flies (c + 1) (.xmem o.slotY (List.zipWith (fun i b => (xyBits (alignTo 8 (x.lsBase o 8) + i), b)) (List.range 40)
        (laBytes (x.getLA (o.r % 4)))))).modified c o (x.lsUpdate o 8 40)))) ∧
    (x.laAddOk (o.r % 4) c = true → x.Quiet 2 o.an → exec (.lamrg t c o) s =
      .next (afterOp s t c ((x.setLA (o.r % 4) (2 * c) (laAdd (x.laFrom (o.r % 4) c) (laOfBytes (x.laAt o)))).modified c o (x.lsUpdate o 8 40))))

/-- Loads of the X and Y slots complete (R153, R154, R155, R156, R157, R158). -/
def Obligations.LoadOps : Prop :=
  ∀ (s : State) (t c : Nat) (o : LsOp), Issues s t c → (found s t c).Quiet 0 o.r → (found s t c).Quiet 1 o.r → (found s t c).Quiet 2 o.an →
    let x := found s t c
    let e := cvtSize o.cvt
    exec (.vld t c o) s =
      .next (afterOp s t c ((x.flies (c + 3) (.vreg o.r (x.loadLanes o (x.xyByte o.slotY)))).modified c o (x.lsUpdate o e (vecSize o)))) ∧
    exec (.vldb t c o) s = .next (afterOp s t c ((x.flies (c + 3) (.vreg o.r (List.replicate 64
      (cvtLoad o.cvt (bytesAt (x.xyByte o.slotY) (alignTo e (x.adv (x.lsBase o e) o.an 0)) e))))).modified c o (x.lsUpdate o e e))) ∧
    exec (.sld t c o) s = .next (afterOp s t c ((x.flies (c + 3) (.sreg o.r (BitVec.ofNat 64
      (leNat (bytesAt (x.xyByte o.slotY) (alignTo 8 (x.lsBase o 8)) 8))))).modified c o (x.lsUpdate o 8 8))) ∧
    exec (.ldpk t c o) s = .next (afterOp s t c ((x.flies (c + 3) (.vreg o.r
      ((unpackFields (packW o) (packN o) ((x.packAddrs o).map (x.xyByte o.slotY))).map (signField (packW o)) ++
        List.replicate (64 - packN o) 0))).modified c o (x.lsUpdate o 1 (packLen o)))) ∧
    (x.portFree o.slotY c = true → exec (.vldt t c o) s =
      .next (afterOp s t c (((x.notePort o.slotY c).flies (c + 4) (.vreg o.r (x.loadLanes o (x.land (c + 1)).stByte))).modified c o (x.lsUpdate o e (vecSize o)))))

/-- Stores of the X and Y slots complete, and say which bytes they store (R153, R154, R155, R156, R157, R158). -/
def Obligations.StoreOps : Prop :=
  ∀ (s : State) (t c : Nat) (o : LsOp), Issues s t c → (found s t c).Quiet 2 o.an →
    let x := found s t c
    let e := cvtSize o.cvt
    exec (.vst t c o) s = .next (afterOp s t c (((x.ends (c + 2)).flies (c + 1) (.xmem o.slotY (maskBytes xyBits (x.storeLanes o)))).modified c o
      (x.lsUpdate o e (vecSize o)))) ∧
    exec (.sst t c o) s = .next (afterOp s t c (((x.ends (c + 2)).flies (c + 1) (.xmem o.slotY (maskBytes xyBits (List.zipWith (fun i b =>
      (alignTo 8 (x.lsBase o 8) + i, b)) (List.range 8) (leBytes 8 (x.getS o.r).toNat))))).modified c o (x.lsUpdate o 8 8))) ∧
    exec (.stpk t c o) s = .next (afterOp s t c (((x.ends (c + 2)).flies (c + 1) (.xmem o.slotY (maskBytes xyBits (List.zip (x.packAddrs o)
      (packFields (packW o) (((x.getV o.r).take (packN o)).map BitVec.toNat)))))).modified c o (x.lsUpdate o 1 (packLen o)))) ∧
    (x.portFree o.slotY c = true → exec (.vstt t c o) s =
      .next (afterOp s t c (((x.notePort o.slotY c).flies (c + 2) (.store (maskBytes storeBits (x.storeLanes o)))).modified c o
        (x.lsUpdate o e (vecSize o)))))

/-- Array operations complete where their issue rules are met (R32, R98, R99, R100, R101, R112, R119, R138, R140, R158). -/
def Obligations.ArrayOps : Prop :=
  ∀ (s : State) (t c : Nat) (o : ArrOp) (err : Option ColErr),
    let x := found s t c
    let rd := x.land (c + 1)
    let u := x.getArr o.arr
    let w := u.getSet u.active
    let i := x.blockIx o.sa o.aoff
    let j := x.blockIx o.sb o.boff
    let ret := retiredRow s t o.arr
    let v := reached s t c
    (∀ m, (tileAt v t).run.isSome = true → (tileAt v t).wait = none → x.struck c = some m →
      exec (.mma t c o err) s = .next (residueFault v t m)) ∧
    (Issues s t c → u.spaced c = true →
     ((o.clr || u.used.contains o.acc) = true → w.filled = true → fmtClass w.fmt = fmtClass o.fmt →
      exec (.mma t c o err) s =
        let f : Flight := { cyc := c, acc := o.acc, fmt := o.fmt, clr := o.clr, mask := x.rowMask o.msk, base := i, ret := ret, pc := x.pc,
                            block := x.block i, strip := x.strip (stripOf (aIsL o.fmt w.isL) i), w := w, err := err }
        let u1 : ArrayUnit := { u.take o.acc (c + 64) with lastMma := NMap.insert u.lastMma o.acc c, flights := u.flights ++ [f] }
        .next (arrayStart (afterOp s t c (((x.setArr o.arr (if o.ld then u1.load x o.fmt j c ret else u1)).pushAll (mmaEvents o.arr c err)).ends (c + 137))) t o.arr)) ∧
     exec (.wld t c o) s = .next (arrayStart (afterOp s t c ((x.setArr o.arr { u.load x o.fmt j c ret with freeAt := c + 64 }).ends (c + 64))) t o.arr) ∧
     (u.used.contains o.acc = true → u.settled o.acc c = true → u.portClear (c + 4) (c + 67) = true →
      exec (.rout t c o) s = .next (arrayStart (afterOp s t c (((x.setArr o.arr { u.hold (c + 4) (c + 67) with freeAt := c + 64 }).pushAll
        (((List.range 64).filter (x.rowMask o.msk).getLsbD).map fun m => (c + 5 + m, .outRow o.arr o.acc o.fmt i m))).ends (c + 68))) t o.arr)) ∧
     (u.used.contains o.acc = true → u.settled o.acc c = true → u.portClear (c + 1) (c + 389) = true →
      exec (.lout t c o) s = .next (arrayStart (afterOp s t c ((x.setArr o.arr { u.hold (c + 1) (c + 389) with freeAt := c + 392 }).pushAll
        [(c + 389, .outLong o.arr o.acc i)])) t o.arr)) ∧
     ((o.clr || u.used.contains o.acc) = true → u.settled o.acc c = true → u.portClear (c + 1) (c + 392) = true →
      exec (.lin t c ⟨o, err⟩) s =
        let vals := (List.range 4096).map fun k => anvilOfBytes (bytesAt rd.stByte (4096 * i + 24 * k) 24)
        let miss := (err.filter addMismatch).map fun e => (c + 391, o.arr, e.col, e.row, x.pc)
        .next (arrayStart (afterOp s t c ((x.setArr o.arr ((u.hold (c + 1) (c + 392)).take o.acc (c + 392))).pushAll
          [(c + 392, .inLong o.arr o.acc o.clr ((rd.strip i).take 64) vals miss)])) t o.arr)))

/-- Operand builders and mask registers complete (R107, R110, R111). -/
def Obligations.SkewOps : Prop :=
  ∀ (s : State) (t c : Nat) (o : DmaOp), Issues s t c →
    let x := found s t c
    let fmt := dmaFmt o
    let prm := x.getS o.prm
    let base := (x.getS o.src).toNat % 2 ^ 21
    let i := (x.getS o.dst).toNat / 2 ^ 12 % 512
    let out := if isBf16 fmt then 8192 else 4096
    let fin := fun (isB : Bool) => max (c + 8 + max ((skewSize isB fmt (dmaSrck o) + 127) / 128) (out / 64)) x.lastSkew
    let built := fun (isB : Bool) => skewBytes isB fmt i ((List.range 64).map (x.skewSrc isB fmt (dmaSrck o) base (prm.toNat % 2 ^ 16)))
    let tagged := fun (op n : Nat) => { x with tags := NMap.insert x.tags o.tag ⟨op, some n, false, base, 4096 * i, out⟩ }
    (x.tagFree o.tag = true → exec (.skewa t c o) s = .next (afterOp s t c (((tagged 3 (fin false)).flies (fin false + 1) (.store (built false))).flies
      (fin false + 1) (.mreg o.tag (x.skewMask (dmaMask o) prm))))) ∧
    (x.tagFree o.tag = true → exec (.skewb t c o) s =
      .next (afterOp s t c ((tagged 4 (fin true)).flies (fin true + 1) (.store (built true))))) ∧
    (x.tagFree o.tag = true → exec (.mks t c o) s = .next (afterOp s t c
      (({ x with tags := NMap.insert x.tags o.tag ⟨5, some c, true, 0, 0, 0⟩ } : Tile).flies (c + 1) (.mreg o.tag (x.getS o.src)))))

/-- LD and ST become outstanding and complete as copies between device memory and the tile store (R107, R110, R164, R167). -/
def Obligations.DmaSlotOps : Prop :=
  ∀ (s : State) (t c tag : Nat) (o : DmaOp) (r : Running) (g : TagOp),
    let x := found s t c
    let y := (tileAt s t).land c
    (x.run.isSome = true → x.struck c = none → x.wait = none → x.tagFree o.tag = true → (reached s t c).hst.orphan = false →
      (tileRangeOk (reached s t c) (x.ldArgs o true).1 (x.ldArgs o true).2.2 = true → exec (.ld t c o) s = .next (afterOp s t c { x with
        tags := NMap.insert x.tags o.tag ⟨1, none, false, (x.ldArgs o true).1, (x.ldArgs o true).2.1, (x.ldArgs o true).2.2⟩ })) ∧
      (tileRangeOk (reached s t c) (x.ldArgs o false).1 (x.ldArgs o false).2.2 = true → exec (.st t c o) s = .next (afterOp s t c { x with
        tags := NMap.insert x.tags o.tag ⟨2, none, false, (x.ldArgs o false).1, (x.ldArgs o false).2.1, (x.ldArgs o false).2.2⟩ }))) ∧
    (y.run = some r → y.struck c = none → tag < 16 → NMap.find? y.tags tag = some g → g.done = false →
      (g.op = 1 → badRange s g.src g.len = false → exec (.dmaSkewComplete t c tag) s =
        .next (setTile (noteReads s g.src g.len) t ((y.stored c (loadBytes s r.slice g)).complete c tag g))) ∧
      (g.op = 2 → (devWrite s g.src (bytesAt y.stByte g.dst g.len)).2 = true → exec (.dmaSkewComplete t c tag) s =
        .next (setTile (devWrite s g.src (bytesAt y.stByte g.dst g.len)).1 t (y.complete c tag g))) ∧
      (g.op ≠ 1 → g.op ≠ 2 → ∀ n, g.doneAt = some n → n ≤ c → exec (.dmaSkewComplete t c tag) s = .next (setTile s t (y.complete c tag g))))

/-- The sequencing slot: branches, loops, REPEAT, WAITD, SYNCP and END (R65, R66, R79, R159). -/
def Obligations.SequencerOps : Prop :=
  ∀ (s : State) (t c n target count tag maxw ctr slot : Nat) (r : Running), Issues s t c → (tileAt (reached s t c) t).run = some r →
    let x := found s t c
    (slot ≠ 6 → exec (.slotNop t c slot) s = .next (afterOp s t c x)) ∧
    exec (.slotNop t c 6) s = .next (afterOp s t c x.nextPc) ∧
    exec (.br t c target) s = .next (setTile (reached s t c) t { x with pc := target, cyc := c + 2 }) ∧
    exec (.brz t c n target) s = .next (if x.getS n = 0 then setTile (reached s t c) t { x with pc := target, cyc := c + 2 } else afterOp s t c x.nextPc) ∧
    exec (.brnz t c n target) s = .next (if x.getS n ≠ 0 then setTile (reached s t c) t { x with pc := target, cyc := c + 2 } else afterOp s t c x.nextPc) ∧
    exec (.loop t c count) s = .next (afterOp s t c { x with loops := (x.pc + 1, count) :: x.loops, pc := x.pc + 1 }) ∧
    (∀ start k rest, x.loops = (start, k) :: rest → exec (.endl t c) s = .next (afterOp s t c
      (if 1 < k then { x with loops := (start, k - 1) :: rest, pc := start } else { x with loops := rest, pc := x.pc + 1 }))) ∧
    exec (.repeatN t c count) s = .next (afterOp s t c { x with pc := x.pc + 1, rep := count }) ∧
    (∀ g, NMap.find? x.tags tag = some g → exec (.waitd t c tag maxw) s = .next (afterOp s t c
      (if g.done || dueBy g.doneAt c then { x with tags := NMap.erase x.tags tag, pc := x.pc + 1 }
        else { x with wait := some (tag, c + 16 * maxw), pc := x.pc + 1 }))) ∧
    exec (.syncp t c ctr) s = .next (let y := afterOp s t c x.nextPc
      { y with tkp := { y.tkp with scPend := y.tkp.scPend ++ [(ctr, beatCycles s * r.beat + c + 64)] } }) ∧
    exec (.endK t c) s = .next (afterOp s t c { x with run := x.run.map fun q => { q with ended := true }, pc := x.pc + 1 })

/-- The lid on its input: power up, power down, brownout, overvoltage, rail trip (R21, R22, R23, R24, R25, R26). -/
def Obligations.SupplyEvents : Prop :=
  ∀ (s : State) (mv bulk regs rail : Nat),
    let p : Power := { s.pwr with vinMv := mv, bulkMv := bulk }
    (s.pwr.pwrGood = false → s.pwr.thermtrip = false → 43000 ≤ bulk →
      let up : Power := { s.pwr with pwrEn := true, bulkMv := bulk, railStep := max s.pwr.railStep (min 7 (regs + 1)) }
      (regs < 7 → exec (.powerUp ⟨bulk, regs⟩) s = .next { s with pwr := up }) ∧
      (7 ≤ regs → exec (.powerUp ⟨bulk, regs⟩) s = .next { s with
        pwr := { up with pwrGood := true, stageOne := true }
        tim := { s.tim with raw := 0 }, tkp := { s.tkp with now := 0, beat := 0 }, start := { s.start with step := 1 } })) ∧
    exec .powerDown s = .next { coldLoss s with pwr := { (coldLoss s).pwr with pwrEn := false, thermtrip := false } } ∧
    (s.pwr.pwrGood = true → mv < 42000 →
      (s.pwr.inLow = false → exec (.brownout ⟨mv, bulk⟩) s = .next (interruptIn { s with pwr := { p with inLow := true } })) ∧
      (s.pwr.inLow = true → exec (.brownout ⟨mv, bulk⟩) s = .next { s with pwr := p })) ∧
    (s.pwr.pwrGood = true → s.pwr.inLow = true → 42000 < mv → exec (.brownout ⟨mv, bulk⟩) s =
      .next { s with pwr := { p with inLow := false, interrupted := !s.pwr.stageOne,
                                     fellAt := if s.pwr.stageOne then none else s.pwr.fellAt } }) ∧
    (s.pwr.pwrGood = true → s.pwr.interrupted = true → ∀ f, s.pwr.fellAt = some f →
      (f + 2000000 ≤ s.tim.raw ∨ s.pwr.bulkMv ≤ 30000 → exec .brownoutShutdown s = .next (coldLoss s)) ∧
      (s.tim.raw < f + 2000000 → 30000 < s.pwr.bulkMv → exec .brownoutShutdown s = .next s)) ∧
    (s.pwr.pwrGood = true → 59000 < mv →
      (s.pwr.stageOne = true → exec (.overvolt ⟨mv, bulk⟩) s =
        .next (interruptIn (recordEvent { s with pwr := { p with stageOne := false, overvoltSt := true } } 0xB004 srcHw []))) ∧
      (s.pwr.stageOne = false → exec (.overvolt ⟨mv, bulk⟩) s = .next { s with pwr := p })) ∧
    (s.pwr.pwrGood = true → s.pwr.stageOne = false → mv < 57000 → exec (.overvoltClear mv) s =
      .next { s with pwr := { s.pwr with vinMv := mv, stageOne := true, interrupted := s.pwr.inLow
                                         fellAt := if s.pwr.inLow then s.pwr.fellAt else none } }) ∧
    (s.pwr.pwrGood = true → exec (.railTrip rail) s = .next (coldLoss { s with pwr := { s.pwr with tripLatch := some rail } })) ∧
    (∀ x : State, interruptIn x = holdAll (recordEvent { x with pwr := { x.pwr with
        interrupted := true, brownoutSt := true, fellAt := some (x.pwr.fellAt.getD x.tim.raw) } } 0xB001 srcHw []) ∧
      holdAll x = latchAttn { x with pwr := { x.pwr with holdIn := true } } 4)

/-- Current warning, thermal duty, the governor and telemetry (R26, R29, R30, R34, R35, R36, R399). -/
def Obligations.PowerControl : Prop :=
  ∀ (s : State) (die amps inMw floorMw openMw beats : Nat) (cd hd : List Int) (e : TelEnv),
    (die < 4 → 430 ≤ amps → s.pwr.pwrGood = true → NMap.find? s.pwr.holdDie die = none → exec (.currentWarning die amps) s =
      .next (latchAttn { s with pwr := { s.pwr with holdDie := NMap.insert s.pwr.holdDie die (launch s + 1) } } 4)) ∧
    (s.pwr.pwrGood = true → s.pwr.thermAt ≠ s.tkp.now + 1 → (∀ t ∈ cd ++ hd, t < 880) →
      let res := (List.range 4).map fun d =>
        thermalStep (actingTemp (cd.getD d 0) hd) (NMap.getD s.pwr.thermDuty d 1234) (NMap.find? s.pwr.throttled d).isSome
      let on : NMap Nat := (List.range 4).filterMap fun d => if (res.getD d (1234, false)).2 then some (d, 1) else none
      let t : State := { s with pwr := { s.pwr with hottest := cd ++ hd, throttled := on, thermAt := s.tkp.now + 1
                                                    thermDuty := (List.range 4).map fun d => (d, (res.getD d (1234, false)).1) } }
      exec (.thermalSample cd hd) s = .next (if s.pwr.throttled = [] ∧ on ≠ [] then latchAttn t 4 else t)) ∧
    (s.pwr.pwrGood = true → (∃ t ∈ cd ++ hd, 880 ≤ t) →
      exec (.thermalSample cd hd) s = .next (coldLoss { s with pwr := { s.pwr with thermtrip := true } })) ∧
    (1234 ≤ s.tkp.beat ∨ s.pwr.govAt = s.tkp.now + 1 → exec (.governorDuty inMw floorMw openMw beats) s = .next s) ∧
    (s.tkp.beat < 1234 → s.pwr.govAt ≠ s.tkp.now + 1 →
     (cpState s 7 = 2 → exec (.governorDuty inMw floorMw openMw beats) s = .next { s with pwr := { s.pwr with
       nextDuty := (List.range 4).map fun i => (i, min (s.pwr.duties64.foldl min 1234) (NMap.getD s.pwr.thermDuty i 1234))
       govAt := s.tkp.now + 1 } }) ∧
     (cpState s 7 = 1 →
      let floorDw : Nat := match nextPlan s with
        | none => s.pwr.predFloor
        | some p => match NMap.getD s.pwr.floorHist p.floorMask.toNat [] with | [] => p.floorPred | past => Config.refine p.floorPred past
      let opens : Nat := match nextPlan s with | some p => openTiles p | none => match currentPlan s with | some p => openTiles p | none => 160
      let sysMw : Int := (inMw : Int) - floorMw - openMw
      let c := (capNext s).pwr
      let budget : Int := 1000 * (clampCap c.cap.shadow : Int) - 1000 * (clampMargin c.margin.shadow : Int) - sysMw - 100 * (floorDw : Int)
      let duty : NMap Nat := (List.range 4).map fun d => (d, min (budgetDuty budget s.pwr.kEst opens) (NMap.getD s.pwr.thermDuty d 1234))
      let hist := match currentPlan s with
        | some p => NMap.modify s.pwr.floorHist [] p.floorMask.toNat fun l => (floorMw :: l).take 64
        | none => s.pwr.floorHist
      let t : State := { s with pwr := { s.pwr with nextDuty := duty, nextPred := floorDw, kEst := nextK s.pwr.kEst openMw beats, govAt := s.tkp.now + 1
                                                    duties64 := (duty.foldl (fun m x => min m x.2) 1234 :: s.pwr.duties64).take 64
                                                    floorHist := hist } }
      let v := recordEvent { t with pwr := { t.pwr with capExceeded := true } } 0xB002 7 []
      exec (.governorDuty inMw floorMw openMw beats) s =
        .next (if budget < 0 then (if s.pwr.capExceeded = true then v else latchAttn v 4) else t))) ∧
    (s.pwr.telBase ≠ 0 → s.pwr.telAt ≠ s.tkp.now + 1 →
      let t := devPut s (s.pwr.telBase + 64 * s.pwr.telWidx) (telemetryBytes s e)
      exec (.telemetryRecord e) s =
        .next { t with pwr := { t.pwr with telWidx := (s.pwr.telWidx + 1) % 4096, telAt := s.tkp.now + 1, lastTel := e, sensors := sensorValues s e } })

/-- The start: SP ROM, bundle, link (R26, R352, R457, R458, R460, R492). -/
def Obligations.StartCommands : Prop :=
  ∀ (s : State) (reads : List (List Byte)) (key : List Byte) (b : Bundle) (e : StartEnv) (lanes gts : Nat) (id : List Byte × List Byte × List Byte),
    (s.pwr.pwrGood = true → s.start.step = 1 → s.ras.state = 0 →
      let c := recordEvent s 0x0001 srcSp []
      let t : State := match s.pwr.tripLatch with
        | none => c
        | some rail => let u := recordEvent c 0xB003 srcSp [rail]; { u with pwr := { u.pwr with tripLatch := none } }
      exec (.coldStart true true reads key) s = .next { t with start := { t.start with step := 2 }
                                                               sec := { t.sec with state := 1, pufIndex := majorityOf reads, pufKey := key
                                                                                   pid := (sha3_512 (majorityOf reads)).take 16 } }) ∧
    (s.sec.state = 1 → bundleFail s b = none → identityOf s b = some id →
      exec (.bundleLoad b e) s = .next (startSteps (mbxAnswer (acceptBundle s b id) stOk) b e)) ∧
    (∀ n, s.sec.state = 1 → bundleFail s b = some n → exec (.bundleLoad b e) s = .next (mbxAnswer (refuseBundle s n) (refusalStatus b n))) ∧
    (s.pwr.pwrGood = true → (lanes = 16 ∨ lanes = 8) → (gts = 32 ∨ gts = 16 ∨ gts = 8) → exec (.cxlLinkTraining lanes gts) s =
      .next { s with hst := { s.hst with linkUp := true, linkLanes := lanes, linkGts := gts, cfgReady := true } })

/-- The seam raises the tick by one, and the dusk band freezes the staging and loads the next plan (R44, R45, R47, R50, R54, R383). -/
def Obligations.SeamAndDuskBand : Prop :=
  ∀ (s : State) (e : SeamEnv), s.pwr.pwrGood = true →
    (let a := timedLand (settleGuards s true) true
     let a' := if s.tkp.beat < 1234 then checkSeam a else a
     let b := settleScrubs { a' with tkp := { a'.tkp with beat := max s.tkp.beat 1234 } }
     let c := substitute (if b.tkp.frozen = true then b else duskBegins b)
     let d := debtSeam { c with tkp := { c.tkp with beat := s.tkp.beat } }
     let u := tickOn d e.seamErr
     exec (.seam e) s = .next (seamEffects (match u.tkp.stepAt with | some (n, ns) => stepTo u n ns | none => u) e) ∧
     u.tkp.now = d.tkp.now + 1 ∧ u.tkp.beat = 0 ∧ u.tkp.frozen = false ∧
     u.tim.raw = rawOn d (125000 * (d.tkp.now + 1) + e.seamErr / 4)) ∧
    (1234 ≤ s.tkp.beat → s.tkp.frozen = false → exec .duskBand s = .next (duskBegins s) ∧ (duskBegins s).tkp.frozen = true ∧
      (duskBegins s).pwr.cap.staging = s.pwr.cap.shadow ∧ (duskBegins s).pwr.margin.staging = s.pwr.margin.shadow ∧
      (duskBegins s).tkp.loaded = (if nextReady s = true then some (s.tkp.now + 1) else none))

/-- A plan that passes its checks is sealed in its ring slot; a missing one is substituted (R16, R46, R52, R55). -/
def Obligations.PlanSealAndSubstitute : Prop :=
  ∀ (s : State) (p l : Plan),
    (cpState s 0 = 1 → s.ras.state = 0 → s.hst.ready = true → sealOpen s p.tick = true → floorAllowed s p = true → planOk s p = true → planned s p = false → exec (.planSeal p) s = .next s) ∧
    (cpState s 0 = 1 → s.ras.state = 0 → s.hst.ready = true → sealOpen s p.tick = true → floorAllowed s p = true → planOk s p = true → planned s p = true →
      ∃ t, exec (.planSeal p) s = .next t ∧ NMap.find? t.tkp.plans (p.tick % 16) = some { p with state := .sealed } ∧
        t.tkp.lastPlan = some { p with state := .sealed } ∧ t.slc.shareOrder = (s.slc.shareOrder + 1) % 64) ∧
    (cpState s 0 = 1 → s.ras.state = 0 → s.hst.ready = true → sealOpen s p.tick = true → floorAllowed s p = true → planOk s p = false →
      exec (.planSeal p) s = .next (recordEvent { s with tkp := { s.tkp with faultPlan := satAdd 16 s.tkp.faultPlan 1 } } 0x1004 0 [])) ∧
    (s.pwr.pwrGood = true → 1234 ≤ s.tkp.beat → nextReady s = false → s.tkp.lastPlan = some l →
      ∃ t, exec .planSubstitute s = .next t ∧ t.tkp.loaded = some (s.tkp.now + 1) ∧
        NMap.find? t.tkp.plans ((s.tkp.now + 1) % 16) = some (substituteOf s l (s.tkp.now + 1)))

/-- The overcast word of a beat issues once, each die visits its tiles before it places arrivals, and how a kernel ends (R60, R61, R71, R72, R76, R81, R85, R396, R440). -/
def Obligations.StreamDispatchAndEnds : Prop :=
  ∀ (s : State),
    (let u := settleScrubs (settleGuards s false)
     (u.tkp.beat ≤ 1233 → u.tkp.beat ∉ u.tkp.issued →
       let v := ((wordsNow u).filter fun w => w.beat == u.tkp.beat).foldl (fun y w => w.entries.foldl issueEntry y) (timedGo (timedLand u false))
       exec .overcastWord s = .next { v with tkp := { v.tkp with issued := addSet v.tkp.issued u.tkp.beat } }) ∧
     (∀ arr : List Arrival, u.tkp.beat ≤ 1233 → u.ras.state = 0 → exec (.dispatch arr) s =
       .next (countWindows ((List.range 4).foldl (fun y d => arrive arr.length (arr.filter fun a => a.die == d) y d) ((List.range 160).foldl visitTile { u with dies := { u.dies with enqOut := [] } }))))) ∧
    (∀ (t : Nat) (radio : List RadioOut) (r : Running), (tileAt s t).run = some r →
    (r.ended = true → (tileAt s t).opsOver = true →
      let n := ((tileAt s t).total + beatCycles s - 1) / beatCycles s
      1250 * r.tick + r.beat + n ≤ launch s →
      let x := (tileAt s t).land (tileAt s t).total
      let a := leaveTile (setTile s t x) t r n
      let b := match r.job with | some j => if j.attn.isSome = true ∨ tileRangeOk a j.donePtr 8 = false then a else bumpCounter a j.donePtr | none => a
      let e := match r.job.bind (·.attn) with | some (q, seq, ch) => attnJobEnd b q seq ch | none => b
      (x.miss = none → exec (.kernelEnd t radio) s = .next (if r.context = 1024 then radio.foldl radioOut e else e)) ∧
      (∀ m, x.miss = some m → exec (.kernelEnd t radio) s = .next (residueFault s t m))) ∧
    (r.ended = false → 1250 * r.tick + r.beat + effLen s r.length ≤ launch s →
      let k := ((tileAt s t).land (beatCycles s * effLen s r.length)).struck (beatCycles s * effLen s r.length)
      (∀ m, k = some m → exec (.kernelOverrun t) s = .next (residueFault s t m)) ∧
      (k = none → r.isStatic = true ∨ r.onFloor = true → exec (.kernelOverrun t) s = .next (tileFault s t 0x1005)) ∧
      (k = none → r.isStatic = false → r.onFloor = false →
        let a := leaveTile s t r (effLen s r.length)
        exec (.kernelOverrun t) s = .next (barContext (recordEvent { a with tkp := { a.tkp with faultOverrun := satAdd 16 a.tkp.faultOverrun 1 } }
          0x1005 srcHw [r.imageId]) r.context 0x1005))) ∧
    (∀ tag c, (tileAt s t).wait = some (tag, c) → c < beatCycles s * (launch s - (1250 * r.tick + r.beat) + 1) → ((tileAt s t).land c).struck c = none →
      exec (.waitdTimeout t) s = .next (ruleBreak s t r c)))

/-- Remap, rerun overlay, spare wire, sentinel and stress variant (R438, R440, R441, R443, R445, R447, R448). -/
def Obligations.RepairCommands : Prop :=
  ∀ (s : State) (t die link grp wire : Nat) (o : Overlay) (p : Plan) (e : SentEnv) (bad : List Nat),
    (t < 160 → (tileAt s t).state = .fault → s.ras.state = 0 →
      (NMap.find? s.dies.bindAt t = none → (tileAt s t).arriving < s.tkp.now →
        exec (.tileRemap t) s = .next (bindNext (retireTile s (dieOf t) (physOf s t) 0x1002) t (s.tkp.now + 1))) ∧
      (∀ b, NMap.find? s.dies.bindAt t = some b →
        let a := recordEvent { s with dies := { s.dies with bindAt := NMap.erase s.dies.bindAt t } } 0x1002 srcHw [t, b.1, 0x1002]
        exec (.tileRemap t) s = .next (bindNext
          (retireTile { a with ras := { a.ras with cntTile := satAdd 16 a.ras.cntTile 1 } } (dieOf t) b.1 0x1002) t (s.tkp.now + 2)))) ∧
    (NMap.find? s.tkp.plans (o.tick % 16) = some p → cpState s 0 = 1 → s.ras.state = 0 → o.tick = s.tkp.now + 1 → s.tkp.beat < 1234 →
      p.tick = o.tick → p.state = .sealed → overlayOk s p o = true → exec (.rerunOverlaySeal o) s =
      .next { s with tkp := { s.tkp with overlays := NMap.insert s.tkp.overlays (o.tick % 16) o } }) ∧
    (die < 4 → link < 3 → grp < 1024 → wire < 16 →
      ((∀ w ∈ s.ras.wires, ¬ (w.1 = die ∧ w.2.1 = link ∧ w.2.2.1 = grp)) →
        let f := s.takeFree
        exec (.linkWireFailing die link grp wire) s = .next (retireElement { f.2 with ras := { f.2.ras with
          wires := f.2.ras.wires ++ [(die, link, grp, s.tkp.now + 1)], cntWire := satAdd 16 f.2.ras.cntWire 1 } }
          2 die (link + 4 * grp + 4096 * wire) (f.1.toNat % 65536))) ∧
      ((∃ w ∈ s.ras.wires, w.1 = die ∧ w.2.1 = link ∧ w.2.2.1 = grp) →
        exec (.linkWireFailing die link grp wire) s = .next (deviceFail s 0x1007 srcHw []))) ∧
    (cpState s 7 = 1 → e.die < 4 → e.ptile < 44 → 44 * e.die + e.ptile ∉ s.dies.bad →
      let a := if s.ras.sentBase = 0 then s else devPut s (s.ras.sentBase + 32 * (s.ras.sentRuns % 4096)) (sentRecord s e)
      let b : State := { a with ras := { a.ras with sentRuns := a.ras.sentRuns + 1 } }
      exec (.sentinelRun e) s = .next (if e.match_ = true then b else sentinelMiss b e.die e.ptile)) ∧
    (cpState s 7 = 1 → die < 4 → floorsEmpty s = true → stressDue s die = true →
      exec (.stressVariant die bad) s = .next (stressServed ((bad.filter fun t => dieOf t == die).foldl
        (fun x t => sentinelMiss x die (physOf x t)) { s with ras := { s.ras with stress := satAdd 16 s.ras.stress 1, stressAt := NMap.insert s.ras.stressAt die s.tkp.now } }) die))

/-- Stress requests, the health score, contrail mode and the slowdown window (R396, R448, R449, R451, R452, R453). -/
def Obligations.HealthAndContrail : Prop :=
  ∀ (s : State) (dies corr retries residue src reqId len : Nat) (hot : Int) (body : List Byte) (crc : W64),
    (s.pwr.pwrGood = true → cpState s 7 = 1 →
      (1 ≤ dies → dies < 16 → s.ras.stressAsk = none →
        exec (.stressRun dies) s = .next { s with ras := { s.ras with stressAsk := some (dies, s.tkp.now) } }) ∧
      (∀ (v : State) (d n : Nat), v.ras.stressAsk = some (2 ^ d, n) →
        stressServed v d = vendorReply { v with ras := { v.ras with stressAsk := none } } 0x06 stOk []) ∧
      (∀ (v : State) (b : List Byte), v.ras.conNext = some b → contrailSeam v = { v with ras := { v.ras with
        conNext := none, contrail := fieldAt b 0 1, conPartner := fieldAt b 1 1, conSlices := BitVec.ofNat 64 (fieldAt b 8 8), ready := false
        conSince := v.tkp.now, matched := 0, conMiss := 0, digests := [], theirs := [] } }) ∧
      (body.length = 16 → fieldAt body 0 1 ≤ 2 → fieldAt body 2 6 = 0 →
        exec (.contrailSet body) s = .next (vendorReply { s with ras := { s.ras with conNext := some body } } 0x07 stOk []))) ∧
    (cpState s 7 = 1 → s.ras.scoreNo < windowsEnded s →
      let mem := min 250 (corr / 10)
      let link := min 200 ((retries - 100) / 100)
      let res := min 300 (100 * residue)
      let spares := min 160 (10 * retiredBeyond s)
      let heat := min 100 (10 * (10 - (800 - hot) / 8).toNat)
      exec (.healthScore corr retries residue hot) s = .next { s with ras := { s.ras with
        score := 1000 - (mem + link + res + spares + heat), penMem := mem, penLink := link, penResidue := res, penSpares := spares
        penThermal := heat, scoreNo := windowsEnded s } }) ∧
    (let u := takeMsg s src 0x0120
     let d : Digest := ⟨reqId, len, crc, u.tkp.now⟩
     headIs s src 0x0120 = true → u.ras.contrail ≠ 0 → src = u.ras.conPartner →
      (u.ras.digests.find? (fun x => x.reqId == reqId) = none →
        exec (.contrailDigest src reqId len crc) s = .next { u with ras := { u.ras with theirs := u.ras.theirs ++ [d] } }) ∧
      (∀ own, u.ras.digests.find? (fun x => x.reqId == reqId) = some own →
        exec (.contrailDigest src reqId len crc) s = .next (readyCheck (digestCompare
          { u with ras := { u.ras with digests := u.ras.digests.filter fun x => x.reqId != reqId } } own d)))) ∧
    (let old := fun (d : Digest) => decide (d.tick + 80000 ≤ s.tkp.now)
     exec .contrailUnmatched s = .next { s with ras := { s.ras with
       digests := s.ras.digests.filter fun d => !old d, theirs := s.ras.theirs.filter fun d => !old d
       unmatched := satAdd 16 s.ras.unmatched ((s.ras.digests ++ s.ras.theirs).filter old).length } }) ∧
    (s.slc.winNo < windowsEnded s → exec .slowdownWindow s =
      .next { s with slc := { s.slc with slow := (List.range 64).map fun x => (x, worstDie s x), win := [], winNo := windowsEnded s } })

/-- Code engines take blocks and complete them (R287, R290, R291, R442). -/
def Obligations.CodeEngines : Prop :=
  ∀ (s : State) (hd e : Nat) (b : Block),
    (hd ≤ 1 → e ≤ 27 → engineIdle s hd e = true → ∀ fl, enginePick s hd e = some (fl, b) →
      (∀ n < e, engineIdle s hd n = true → ∀ p, enginePick s hd n = some p → p.2.age ≠ b.age) →
      let take := fun (q : NMap (List Block)) => NMap.modify q [] hd fun l => l.filter fun x => x.age != b.age
      let r : Radio := if fl = true then { s.rad with flashQ := take s.rad.flashQ } else { s.rad with radioQ := take s.rad.radioQ }
      exec (.codeBlockStart hd e) s = .next { s with rad := { r with
        engines := NMap.insert r.engines (32 * hd + e) { b with tick := s.tkp.now, beat := s.tkp.beat } } }) ∧
    (NMap.find? s.rad.engines (32 * hd + e) = some b → 1250 * b.tick + b.beat < launch s →
      let u : State := { s with rad := { s.rad with engines := NMap.erase s.rad.engines (32 * hd + e) } }
      exec (.codeBlockComplete hd e true) s = .next (engineFault (rerunBlock u hd e b) hd e) ∧
      (b.list_ = 0 → exec (.codeBlockComplete hd e false) s =
        .next { u with rad := { u.rad with codeFlash := satAdd 32 u.rad.codeFlash 1 } }) ∧
      (b.list_ ≠ 0 → let v := blockResult u b
        exec (.codeBlockComplete hd e false) s = .next (listStep { v with rad := { v.rad with codeRadio := satAdd 32 v.rad.codeRadio 1 } } b.list_)))

/-- A DMA engine takes a descriptor, completes its burst and stops one at its declared length (R172, R173, R174). -/
def Obligations.DmaEngines : Prop :=
  ∀ (s : State) (eng desc moved : Nat) (body : List Byte) (slice context : Option Nat) (use : BurstUse) (b : Burst),
    (eng ≤ 15 → NMap.find? s.mem.dma eng = none → desc % 64 = 0 → usableRange s desc 64 = true → body = [] ∨ body.length = 64 →
      let u := if body.isEmpty then s else devPut s desc body
      let d := burstOf u desc slice context use
      NMap.find? s.mem.dmaNext eng = some desc ∨
        (NMap.find? s.mem.dmaNext eng = none ∧ fitsBefore u (unitDma eng) d.length = true ∧ standsHold u (unitDma eng) = false) →
      fitsTick u d.length = true → attnSameTick u use (fabricPlace u d.src) = false → badRange u desc 64 = false → descOk u d = true → (d.op = 1 → endpointDenied u d d.src = false) → endpointDenied u d d.dst = false →
      (usesHost d = true → u.hst.busMaster = true) → exec (.dmaDescriptorStart eng desc body slice context use) s =
        .next (burstBegin { u with mem := { u.mem with dmaNext := NMap.erase u.mem.dmaNext eng } } eng d)) ∧
    (NMap.find? s.mem.dma eng = some b →
      (dmaLeft s eng = false → switchRegion s b = none → sourceBad s b = false → b.fail = none →
        exec (.dmaBurstComplete eng) s =
          let w := burstWrite (burstReads s b) b (burstData s b)
          .next (if w.2 = true then burstServed (burstOver (burstStatus w.1 b stOk true) eng b stOk) b
            else burstLost (burstOver (burstStatus w.1 b stDeviceFault true) eng b stDeviceFault) b stDeviceFault false)) ∧
      (1250 * b.tick + b.beat + b.length ≤ launch s →
        let come := if b.op = 1 ∧ spaceOf b.src = 2 then gotRun b.got 0 else b.bytes
        let n := if sourceBad s b = true then 0 else if spaceOf b.dst = 2 then sentRun s eng come / 64 * 64 else min (min moved b.bytes) come / 64 * 64
        let v := (burstWrite (dropOrigins s eng) b ((burstData s b).take n)).1
        exec (.dmaBurstTimeout eng moved) s = .next (burstLost
          (burstOver (devPut (burstStatus v b stTimeout false) (b.desc + 56) (leBytes 4 n)) eng b stTimeout) b stTimeout false)))

/-- A lost channel, the patrol, host reads and writes, bias and pools (R13, R167, R168, R169, R171, R504, R505). -/
def Obligations.DeviceMemory : Prop :=
  ∀ (s : State) (ch line addr len q seq : Nat) (bytes : List Byte) (raced : Bool) (r : JRec),
    (ch ≤ 31 → s.pwr.pwrGood = true → ch ∉ s.mem.lost →
      let u : State := { s with mem := { s.mem with lost := addSet s.mem.lost ch } }
      (ch = 0 ∨ ch = 16 → 16 - ch ∉ s.mem.lost → exec (.channelLost ch) s = .next (recordEvent (latchAttn u 1) 0x2003 srcHw [])) ∧
      (ch = 0 ∨ ch = 16 → 16 - ch ∈ s.mem.lost → exec (.channelLost ch) s = .next (deviceFail u 0x2003 srcHw [])) ∧
      (ch ≠ 0 → ch ≠ 16 → exec (.channelLost ch) s = .next (deviceFail u 0x2004 srcHw []))) ∧
    (let n := noteReads s (64 * line) 64
     line < usableU s / 64 → onLost s (64 * line) = false → s.hst.ecc = true →
      (isPoisoned n (64 * line) = true → exec (.patrolScrub line false true raced) s = .next n) ∧
      (isPoisoned n (64 * line) = false →
        let u : State := recordEvent { n with mem := { n.mem with latent := n.mem.latent.filter (· ≠ line) } } 0x2002 srcHw
          [channelOf n (64 * line), 64 * line]
        exec (.patrolScrub line false true false) s = .next (poisonLine u (64 * line)) ∧
        exec (.patrolScrub line false true true) s = .next u) ∧
      (isPoisoned n (64 * line) = false → isLatent n (64 * line) = false →
        exec (.patrolScrub line true false raced) s = .next (if raced = true then n else devPut n (64 * line) (devRead n (64 * line) 64)))) ∧
    (usableRange s addr len = true → exec (.hostMemRead addr len) s = .next (recordUncorrected (noteReads { s with mem := { s.mem with
      readData := List.zipWith (fun i b => (b, badRange s (addr + i) 1)) (List.range len) (readAs s 0xFF addr len) } } addr len) addr len)) ∧
    (usableRange s addr bytes.length = true →
      (isProtected s addr bytes.length = false → exec (.hostMemWrite addr bytes) s = .next (devWrite s addr bytes).1) ∧
      (isProtected s addr bytes.length = true → exec (.hostMemWrite addr bytes) s = .next (recordEvent s 0x8001 srcHw []))) ∧
    (let u := begun s q seq
     let a := r.par 0 8
     Starts s q seq 0x0100 r → r.params.length = 9 → r.par 8 1 ≤ 1 → a % 2 ^ 21 = 0 → a < usableU u →
      let inPool := u.srv.pools.any fun p => p.2.state != 0 && p.2.extents.any fun e => overlaps a (2 ^ 21) (extentSpan e).1 (extentSpan e).2
      (inPool = true → exec (.biasSet q seq) s = .next (finish u q seq stDenied 0)) ∧
      (inPool = false → pageInUse u a = true → exec (.biasSet q seq) s = .next (modRec u q seq fun x => { x with stage := 1 })) ∧
      (inPool = false → pageInUse u a = false → exec (.biasSet q seq) s = .next (finish { u with mem := { u.mem with
        hostBias := if r.par 8 1 = 1 then addSet u.mem.hostBias (a / 2 ^ 21) else u.mem.hostBias.filter (· ≠ a / 2 ^ 21) } } q seq stOk 0))) ∧
    (let u := begun s q seq
     let d := poolOfParams r []
     let pool := r.par 0 1
     let put := fun (e : Pool) => ({ u with srv := { u.srv with pools := NMap.insert u.srv.pools pool e } } : State)
     let ends := fun (t : State) (st : Nat) => exec (.poolSet q seq) s = .next (finish t q seq st 0)
     Starts s q seq 0x0101 r →
      (poolFieldsOk r d = false → ends u stInvalid) ∧
      (poolFieldsOk r d = true →
        (poolAt u pool = none →
          (d.state = 2 → ends u stInvalid) ∧ (d.state = 0 → ends (put d) stOk) ∧
          (∀ es, d.state = 1 → poolGeometry u pool d = .inl es → ends (installPool u pool { d with extents := es }) stOk) ∧
          (∀ st, d.state = 1 → poolGeometry u pool d = .inr st → ends (extentsRead 1025 u d.extentPtr) st)) ∧
        (∀ cur, poolAt u pool = some cur →
          (sameGeometry cur d = false ∨ d.state = 0 → poolBusy u pool = true → ends u stBusy) ∧
          (d.state = 0 → poolBusy u pool = false → ends (put d) stOk) ∧
          (d.state ≠ 0 → sameGeometry cur d = true → ends (settlePool (put { d with extents := cur.extents }) pool) stOk) ∧
          (∀ es, d.state ≠ 0 → sameGeometry cur d = false → poolBusy u pool = false → poolGeometry u pool d = .inl es →
            ends (settlePool (installPool u pool { d with extents := es }) pool) stOk))))

/-- Steps of the serving engine, reclaim, return of a swapped request, deadlines, adapters (R211, R212, R213, R217, R218, R223). -/
def Obligations.ServingEvents : Prop :=
  ∀ (s : State) (slice pool waiter slot i : Nat) (cfg : StepCfg) (drafts : List (Nat × List Token)) (descs : List (List Byte)) (step : StepRun) (rows : List RowResult) (x : Req)
      (p : Pool) (a : Adapter),
    (NMap.find? s.srv.cfgs (256 * slice + pool) = some cfg → NMap.find? s.srv.steps (256 * slice + pool) = none → servingActive s slice = true →
      (roleOf s slice).role ≠ 2 → s.fw.quiesced = false → s.ras.state = 0 →
      let c := ((candidates (wakeAll s) slice pool).map (·.1)).foldl (pickOne cfg drafts) ⟨wakeAll s, [], 0, 0, [], false⟩
      let v := descs.foldl (placeTable c.rows) c.st
      exec (.stepCompose slice pool ⟨drafts, descs⟩) s = .next (if c.rows = [] then c.st
        else { v with srv := { v.srv with steps := NMap.insert v.srv.steps (256 * slice + pool) ⟨c.rows, segmentsOf v c.rows, descs, [], []⟩ } })) ∧
    (NMap.find? s.srv.steps (256 * slice + pool) = some step → step.descs.length ≤ step.ended.length →
      let u := (List.range step.rows.length).foldl (commitRow step rows) s
      let w := step.waits.foldl (applyWait admitNow) { u with srv := { u.srv with steps := NMap.erase u.srv.steps (256 * slice + pool) } }
      exec (.stepCommit slice pool rows) s =
        .next ((w.srv.reqs.filter fun e => e.2.slice == slice && e.2.pool == pool && e.2.swapAsk && [1, 2, 4, 5].contains e.2.state).foldl
          (fun y e => swapOut y e.1) w)) ∧
    (waiter < 16384 → (reqAt s waiter).state = 5 → (reqAt s waiter).pool = pool → poolActive s pool = true →
      exec (.reclaim pool waiter) s = .next (reclaimStep s pool waiter (reqAt s waiter).prio).1) ∧
    (poolAt s pool = some p → (orderBy pickBefore (s.srv.reqs.filter fun e => e.2.pool == pool && e.2.state == 6)).head? = some (i, x) →
      (∀ e ∈ List.zip (List.range x.pages.length) x.pages, pageAway s x e = false) → (p.lowWater < freeLocal s pool ∨ x.coming = true →
        exec (.swapReturn pool) s = .next (leaveSwap (setReq s i { x with coming := true }) i)) ∧
      (freeLocal s pool ≤ p.lowWater → x.coming = false → exec (.swapReturn pool) s = .next s)) ∧
    (let near := s.srv.reqs.filter fun e => e.2.pool == pool && (e.2.state == 5 || e.2.state == 6) &&
       e.2.deadline != 2 ^ 64 - 1 && decide (e.2.deadline ≤ s.tkp.now + guardOf s e.2)
     s.tkp.beat = 0 → NMap.getD s.srv.ddl pool 0 ≠ s.tkp.now + 1 →
      near.any (fun w => ((victims s fun r => r.pool == pool && decide (r.prio < w.2.prio)).filter fun e =>
        e.1 != w.1 && !(privatePages s e.2).isEmpty).isEmpty) = true →
      (orderBy victimBefore (s.srv.reqs.filter fun e => e.2.pool == pool && e.2.own)).head? = some (i, x) →
      let u : State := { s with srv := { s.srv with aborts := satAdd 32 s.srv.aborts 1, ddl := NMap.insert s.srv.ddl pool (s.tkp.now + 1) } }
      exec (.deadlineRule pool) s = .next (if x.abortAsk.isSome = true then s else if inStep u i = true then addWait (askAbort u i 6) x.slice x.pool (.deadline i x.entryGen) else endReq u i 8 6)) ∧
    (NMap.find? s.srv.adapters slot = some a → a.state = 1 → s.tkp.beat = 0 → a.since < s.tkp.now → badRange s a.weights a.bytes = false →
      let old := s.srv.adapters.map fun (e : Nat × Adapter) =>
        (e.1, if e.2.handle = a.handle ∧ e.2.state = 2 then { e.2 with state := 3, since := s.tkp.now } else e.2)
      exec (.adapterCurrent slot) s = .next (finish { s with srv := { s.srv with
        adapters := NMap.insert old slot { a with state := 2, since := s.tkp.now, copy := devRead s a.weights a.bytes } } } a.cmdQ a.cmdSeq stOk 0))

/-- Admission, abort and query of requests, adapters and grammars (R207, R211, R224, R225, R231, R232, R245). -/
def Obligations.ServingCommands : Prop :=
  ∀ (s : State) (q seq slice ctx i : Nat) (r : JRec) (v : State), let u := begun s q seq
    (Starts s q seq 0x0200 r → sliceOfRec u r = some slice → (stepOf u slice (r.par 49 1)).isSome = true →
      exec (.reqAdmit q seq) s = .next (addWait u slice (r.par 49 1) (.enter q seq))) ∧
    (Starts s q seq 0x0200 r → sliceOfRec u r = some slice → servingCtx u slice = some ctx → stepOf u slice (r.par 49 1) = none →
      let x := reqOfParams r
      (roleOf u slice).role ≠ 2 → admitOk u slice r x = true → inBuckets (quotaOf u slice).buckets x.bucket = true →
      badRange u x.pageList (8 * x.pageCap) = false → badRange u x.tokenLog (4 * x.promptLen) = false → sharedOk u slice x (sharedRun u x) = true →
      (liveOf u slice).length < (quotaOf u slice).entries → freeEntry u = some i → shareRun x.pool (sharedRun u x) u = (v, stOk) →
      exec (.reqAdmit q seq) s = .next (admitReq v q seq slice i r x (sharedRun u x))) ∧
    (r.params.length = 4 → r.par 0 2 ≤ 16383 → (reqAt u (r.par 0 2)).entryGen = r.par 2 2 → (reqAt u (r.par 0 2)).state ≠ 0 →
      (r.pasid ≠ none → sliceOfRec u r = some (reqAt u (r.par 0 2)).slice) →
      (Starts s q seq 0x0201 r → stepOf u (reqAt u (r.par 0 2)).slice (reqAt u (r.par 0 2)).pool = none → (reqAt u (r.par 0 2)).state ∉ [3, 7, 8, 9] →
        exec (.reqAbort q seq) s = .next (finish (endReq u (r.par 0 2) 8 5) q seq stOk 8)) ∧
      (Starts s q seq 0x0201 r → (stepOf u (reqAt u (r.par 0 2)).slice (reqAt u (r.par 0 2)).pool).isSome = true →
        exec (.reqAbort q seq) s = .next (addWait (askAbort u (r.par 0 2) 5) (reqAt u (r.par 0 2)).slice (reqAt u (r.par 0 2)).pool (.abort q seq))) ∧
      (Starts s q seq 0x0202 r →
        exec (.reqQuery q seq) s = .next (finishWith u q seq stOk 0 (reqBytes (reqAt u (r.par 0 2)))))) ∧
    (Starts s q seq 0x0208 r → r.params.length = 24 → r.par 0 2 ≠ 0xFFFF → r.zeros 3 1 = true → 1 ≤ r.par 4 2 → r.par 4 2 ≤ 1024 → r.zeros 6 2 = true →
      (poolAt u (r.par 2 1)).isSome = true → usableRange u (r.par 8 8) (r.par 16 8) = true →
      let top := (u.srv.adapters.filter fun (e : Nat × Adapter) => e.2.handle == r.par 0 2).foldl (fun m e => max m e.2.version) 0
      top + 1 ≤ 65535 → freeAdapter u = some i → exec (.adapterLoad q seq) s = .next { u with srv := { u.srv with
        adapters := NMap.insert u.srv.adapters i { handle := r.par 0 2, version := top + 1, state := 1, pool := r.par 2 1, rank := r.par 4 2, refs := 0
                                                   weights := r.par 8 8, bytes := r.par 16 8, since := u.tkp.now, cmdQ := q, cmdSeq := seq, copy := [] } } }) ∧
    (Starts s q seq 0x0209 r → r.params.length = 2 → (∃ e ∈ u.srv.adapters, e.2.handle = r.par 0 2 ∧ e.2.state = 2) →
      exec (.adapterWithdraw q seq) s = .next (finish { u with srv := { u.srv with adapters := u.srv.adapters.map fun (e : Nat × Adapter) =>
        (e.1, if e.2.handle = r.par 0 2 ∧ e.2.state = 2 then { e.2 with state := 4, since := u.tkp.now } else e.2) } } q seq stOk 0)) ∧
    (Starts s q seq 0x020C r → r.params.length = 65 → r.par 1 1 = 1 → r.zeros 2 3 = true → r.zeros 21 4 = true → r.zeros 49 16 = true →
      let g := grammarOfParams r
      1 ≤ g.vocab → g.vocab ≤ 262144 → 1 ≤ g.states → g.states ≤ 65536 → g.start < g.states →
      (∀ a ∈ gRanges g, usableRange u a.1 a.2 = true ∧ badRange u a.1 a.2 = false) →
      (∀ n < g.states, gStateOk u g n = true) → (∀ n < g.trans, gTransOk u g n = true) → NMap.find? u.srv.grammars (r.par 0 1) = none →
      exec (.grammarLoad q seq) s = .next (finish { u with srv := { u.srv with grammars := NMap.insert u.srv.grammars (r.par 0 1) g } } q seq stOk 0)) ∧
    (∀ g, Starts s q seq 0x020D r → r.params.length = 1 → NMap.find? u.srv.grammars (r.par 0 1) = some g → g.refs = 0 →
      exec (.grammarUnload q seq) s =
        .next (finish { u with srv := { u.srv with grammars := NMap.erase u.srv.grammars (r.par 0 1) } } q seq stOk 0))

/-- ATTN starts its sequences and chains, blocks join the queue of their die, ATTN_MERGE folds parts (R185, R188, R189, R191, R194, R201, R203). -/
def Obligations.AttentionCommands : Prop :=
  ∀ (s : State) (q seq slice ctx chain kernel length argsPtr donePtr : Nat) (r : JRec) (b a : AttnCmd) (h : Chain) (im : Image), let u := begun s q seq
    (q < 2 ^ 16 → Starts s q seq 0x0210 r → sliceOfRec u r = some slice → servingCtx u slice = some ctx → ¬ (r.params.length = 128 ∧ r.par 0 4 = 0x4E545441 ∧ r.par 4 2 ≠ 1) →
      attnDescOk u r = true → poolActive u (r.par 10 1) = true →
      let p := match poolAt u (r.par 10 1) with | some x => x.p | none => 16
      let table := (List.range (r.par 40 2)).map fun i => devRead u (r.par 48 8 + 32 * i) 32
      let globals := if (r.par 6 2).testBit 2 = true then (List.range 64).map fun i => devNat u (r.par 80 8 + 4 * i) 4 else []
      let seqs := table.map fun b => readSeq u b (r.par 10 1) p
      let c : AttnCmd := { q := q, seq := seq, slice := (ctxAt u ctx).slice, desc := r.params, p := p, globals := globals.takeWhile (· != 0xFFFFFFFF)
                           seqs := seqs, chains := [], sat := false, poison := false, lowband := false, rowsDone := 0, jobs := 0, pins := [] }
      let v := (List.range (r.par 40 2)).foldl (fun y i => startSeq y q seq i (pageIds y (table.getD i []) p)) { u with attn := u.attn ++ [c] }
      badRange u (r.par 48 8) (32 * r.par 40 2) = false → globalsOk globals = true → (∀ b ∈ table, seqEntryOk u b p = true ∧ pagesNamed u b (r.par 10 1) p = true) →
      (∀ x ∈ seqs, segsOk x.segs = true) → findAttn v q seq = some b →
      exec (.attn q seq) s = .next (attnSettle (endEmpty (modAttn v { b with chains := chainsOf v b }) q seq) q seq)) ∧
    (∀ (key layer : Nat) (run : StepRun) (d : List Byte), NMap.find? s.srv.steps key = some run → servingCtx s (key / 256) = some ctx →
      run.descs[layer]? = some d → run.ended.length = layer → findAttn s (stepQ key) layer = none →
      exec (.attn (stepQ key) layer) s = .next (attnStart s (stepAttn key layer d) ctx)) ∧
    (findAttn s q seq = some a → a.chains.find? (fun h => h.num == chain) = some h → imageAt s h.die kernel = some im → servingCtx s a.slice = some ctx →
      chainStaged a h = true → kernel ∈ s.dies.attnSet → h.running = false → length ≤ 64 → im.length = length → (NMap.getD s.dies.queues h.die []).length < 1024 →
      let n := NMap.getD s.dies.enqSeq h.die 0
      let j : StealJob := { kernel := kernel, slice := a.slice, length := length, context := ctx, argsPtr := argsPtr, seq := n, donePtr := donePtr
                            attn := some (q, seq, chain) }
      exec (.attnBlockEnqueue q seq chain kernel length argsPtr donePtr) s = .next (modAttn { s with dies := { s.dies with
        queues := NMap.insert s.dies.queues h.die (NMap.getD s.dies.queues h.die [] ++ [j])
        enqSeq := NMap.insert s.dies.enqSeq h.die ((n + 1) % 2 ^ 64) } }
        { a with chains := a.chains.map fun x => if x.num = chain then { x with running := true } else x })) ∧
    (Starts s q seq 0x0211 r → sliceOfRec u r = some slice → servingCtx u slice = some ctx → ¬ (r.params.length = 64 ∧ r.par 0 4 = 0x47524D41 ∧ r.par 4 2 ≠ 1) →
      mergeDescOk u r = true → badRange u (r.par 24 8) (16 * r.par 8 2) = false →
      let parts := (mergeParts u r).map fun p => (partAddr u p.1, p.2)
      (List.zipWith (fun (x y : Nat × Nat × Nat) => x.2.2 == y.2.1) parts (parts.drop 1)).all id = true →
      (∀ p ∈ parts, p.1 < 2 ^ 48 ∧ (p.1 / 2 ^ 40 = u.fab.device → usableRange u (p.1 % 2 ^ 40) (mergeBytes r.params) = true)) →
      let total := mergeBytes r.params
      let pieces := (((List.zip (List.range parts.length) parts).filter fun e => e.2.1 / 2 ^ 40 != u.fab.device).map fun e =>
        (List.range ((total + 4095) / 4096)).map fun i => (2 ^ 32 * e.1 + 4096 * i, e.2.1 + 4096 * i, min 4096 (total - 4096 * i))).flatten
      (∀ p ∈ pieces, inPartition u (p.2.1 / 2 ^ 40) = true) →
      let m : MergeCmd := { q := q, seq := seq, desc := r.params, parts := parts, left := pieces.map (·.1), got := [], fails := [] }
      exec (.attnMerge q seq) s = .next (if pieces.isEmpty then mergeDone u m else pieces.foldl (fun y p => issueReq y (p.2.1 / 2 ^ 40)
        (reqPacket 0x10 p.2.1 p.2.2 (sliceTag u (some (ctxAt u ctx).slice)) false []) (some (mergeTag + q, p.1, seq)))
        { u with merges := u.merges ++ [m] }))

/-- The moves of a request at its source and at its destination (R236, R237, R238, R239, R240, R242, R323). -/
def Obligations.MoveCommands : Prop :=
  ∀ (s : State) (src idx gen q seq : Nat) (m : MoveReserve) (a : MoveReserved) (entry : List Byte) (z : MoveRec) (y : SrcMove) (r : JRec),
    (let u := clearMove (takeMsg s m.srcDev 0x0101) m
     let held := fun (pool : Nat) => (List.range m.keys.length).map fun k => pfxFind u pool (k + 1) (m.keys.getD k []) (some m.dstSlice)
     ∀ pool i v xs ga, headIs s m.srcDev 0x0101 = true → u.ras.state = 0 → tagAccepted u m.dstSlice m.jobTag = true → inPartition u m.srcDev = true → (roleOf u m.dstSlice).role = 1 ∨ (roleOf u m.dstSlice).role = 3 →
      poolOf u m.model m.p = some pool → moveBinds u m pool = true → (liveOf u m.dstSlice).length < (quotaOf u m.dstSlice).entries →
      recsFull u m = false → freeEntry u = some i →
      movePages m.dstSlice pool (held pool) (List.range ((m.len - 1 + m.p - 1) / m.p)) [] u = (v, some xs) →
      let who := some (m.srcDev, m.srcIdx, m.srcGen % 1024)
      let locs := xs.map fun x => match frameAt v pool x.1 with | some f => f.loc | none => 0
      let slot := landSlot (roleOf u m.dstSlice) i
      addGrants v (((List.zip xs locs).filter fun e => !e.1.2.2 && isHere v e.2).map (fun e => Grant.mk m.srcDev (e.2 % 2 ^ 40) (pageBytesOf u pool) who none u.tkp.now) ++
        [⟨m.srcDev, slot.1, (roleOf u m.dstSlice).landStride, who, none, u.tkp.now⟩]) = (ga, true) →
      let x : Req := { state := 9, slice := m.dstSlice, reqId := m.reqId, pool := pool, adapter := m.adapter, adapterVer := m.adapterVer
                       grammar := m.grammar, pages := xs.map fun x => (x.1, x.2.1), pageCount := xs.length, pageList := slot.1, tokenLog := slot.2
                       entryGen := (reqAt u i).entryGen, admitTick := u.tkp.now }
      let w := setReq (takeRefs ga x m.adapterVer) i x
      exec (.moveReserve m) s = .next (replyReserve (recordMove w m i) m ⟨stOk, i, x.entryGen, locs, xs.map (·.2.2), 2 ^ 40 * u.fab.device + slot.1, 2 ^ 40 * u.fab.device + slot.2⟩)) ∧
    (NMap.find? s.mov.src idx = some y →
      (let u := takeMsg s (y.target % 256) 0x0102
       headIs s (y.target % 256) 0x0102 = true → y.phase = 1 → (reqAt u idx).state = 3 → a.status = stOk → a.frames.length = (reqAt u idx).pages.length →
        exec (.moveReserved idx a) s = .next (moveCopied (setSrc u idx { y with phase := 2, dst := a, left := moveRanges u (reqAt u idx) a }) idx)) ∧
      (let u := takeMsg s (y.target % 256) 0x0104
       headIs s (y.target % 256) 0x0104 = true → (reqAt u idx).state = 3 → (reqAt u idx).entryGen % 1024 = gen % 1024 →
        (let v := sendMsg u (y.target % 256) 0x0105 (ownMove u idx) [] []
         let w := dropSrc { v with mov := { v.mov with failStreak := NMap.erase v.mov.failStreak idx } } idx
         exec (.moveAnswer idx gen true) s = .next (freeReq
           (finishWith w (reqAt u idx).cmdQ (reqAt u idx).cmdSeq stOk 0 (resultRecord w idx (reqAt u idx) stOk 0)) idx)) ∧
        exec (.moveAnswer idx gen false) s = .next (revertMove u idx)) ∧
      (y.phase ≠ 2 → y.sentTick + 80 ≤ s.tkp.now → (reqAt s idx).state = 3 → exec (.moveQueryTimer idx) s = .next (sendQuery s idx))) ∧
    (let u := takeMsg s src 0x0103
     headIs s src 0x0103 = true → u.ras.state = 0 → findMove u src idx gen = some z → z.outcome = 0 → entryFits (reqAt u z.dstIdx) entry = true →
      exec (.moveCommit src idx gen entry) s = .next (commitMove u z entry)) ∧
    (headIs s src 0x0106 = true → exec (.moveQuery src idx gen) s = .next (resolveMove (takeMsg s src 0x0106) src idx gen)) ∧
    (headIs s src 0x0107 = true → exec (.moveCancel src idx gen) s = .next (resolveMove (takeMsg s src 0x0107) src idx gen)) ∧
    (let u := takeMsg s src 0x0105
     headIs s src 0x0105 = true → exec (.moveRelease src idx gen) s = .next { u with mov := { u.mov with
       recs := u.mov.recs.filter fun m => !(m.srcDev == src && m.srcIdx == idx && m.srcGen == gen % 1024) } }) ∧
    (let f := NMap.getD s.mov.failStreak idx (0, 0)
     let x := reqAt s idx
     s.tkp.beat = 0 → x.state = 2 → x.prefillPos = x.promptLen → x.recompute = false → 1 ≤ x.genLen → (roleOf s x.slice).role = 0 → 0 < f.1 →
      f.2 < s.tkp.now → exec (.moveRetry idx) s = .next (startMove s idx)) ∧
    (Starts s q seq 0x0206 r → r.params.length = 1 →
      let u := begun s q seq
      let v := (u.mov.src.filter fun e => e.2.target % 256 == r.par 0 1).foldl (fun y e => revertMove y e.1) u
      let w := (v.mov.recs.filter fun m => m.srcDev == r.par 0 1 && m.outcome == 0).foldl abandonMove v
      exec (.peerLost q seq) s =
        .next (finish { w with mov := { w.mov with recs := w.mov.recs.filter fun m => m.srcDev != r.par 0 1 } } q seq stOk 0))

/-- The prefix commands of a slice (R243, R244, R246). -/
def Obligations.PrefixCommands : Prop :=
  ∀ (s : State) (q seq slice ctx : Nat) (r : JRec) (v : State), let u := begun s q seq
    let readable := fun (n : Nat) => 1 ≤ n ∧ n < 2 ^ 24 ∧ usableRange u (r.par 8 8) (4 * n) = true ∧ badRange u (r.par 8 8) (4 * n) = false
    sliceOfRec u r = some slice → servingCtx u slice = some ctx → r.params.length = 16 → r.zeros 2 2 = true → poolActive u (r.par 0 1) = true →
    r.par 8 8 % 64 = 0 →
    (Starts s q seq 0x0214 r → readable (r.par 4 4) → r.par 1 1 ≤ 1 →
      let keys := arrayKeys u (r.par 0 1) (r.par 8 8) (r.par 4 4)
      let run := pfxRun u (r.par 0 1) (some slice) 1 keys
      let devs := if r.par 1 1 = 1 then ((roleOf u slice).caches.map (· % 256)).filter fun d => inPartition u d && d != u.fab.device else []
      let o := { newPfx u r slice 0 keys with local_ := (run.length, pfxPages u run), order := devs, waiting := devs.eraseDups }
      exec (.prefixLookup q seq) s = .next (lookupSettle (o.waiting.foldl
        (fun y d => sendMsgFor y d 0x0110 0 [r.par 0 1] (pfxBody u (r.par 0 1) 0 keys) (q, seq)) (addPfx (pfxUse u run) o)) o)) ∧
    (readable (r.par 4 4 * poolP u (r.par 0 1)) → inPartition u (r.par 1 1) = true →
      let keys := arrayKeys u (r.par 0 1) (r.par 8 8) (r.par 4 4 * poolP u (r.par 0 1))
      let run := pfxRun u (r.par 0 1) (some slice) 1 keys
      (Starts s q seq 0x0215 r → exec (.prefixFetch q seq) s = .next (sendMsgFor (addPfx u (newPfx u r slice (r.par 4 4) keys)) (r.par 1 1) 0x0112 0
        [r.par 4 4] (pfxBody u (r.par 0 1) (r.par 4 4) keys) (q, seq))) ∧
      (Starts s q seq 0x0216 r → r.par 4 4 ≤ run.length → holdFrames (r.par 0 1) (run.map (·.frame)) u = (v, true) →
        exec (.prefixPublish q seq) s = .next (sendMsgFor (addPfx v { newPfx u r slice (r.par 4 4) keys with frames := run.map (·.frame) })
          (r.par 1 1) 0x0113 0 [r.par 4 4] (pfxBody u (r.par 0 1) (r.par 4 4) keys) (q, seq))))

/-- The messages of prefix reuse between devices, and the end of a lease (R244, R246, R330). -/
def Obligations.PrefixMessages : Prop :=
  ∀ (s : State) (src q seq model p depth lease status pool : Nat) (keys : List (List Byte)) (run : List PfxEntry) (pages : List (Nat × Nat)) (locs fs : List Nat)
      (o : PfxOp) (v ga : State) (l : PfxLease),
    (let u := takeMsg s src 0x0110
     headIs s src 0x0110 = true → remoteRun u model p keys = some (pool, run) →
      exec (.prefixAsk src q seq model p keys) s = .next (replyHeld (pfxUse u run) src q seq stOk run.length 0 (pfxPages u run) [])) ∧
    (let u := takeMsg s src 0x0112
     headIs s src 0x0112 = true → remoteRun u model p (keys.take depth) = some (pool, run) → depth ≤ run.length → 1 ≤ depth → holdFrames pool (run.map (·.frame)) (pfxUse u run) = (v, true) →
      let h := addLease v { dev := src, pool := pool, frames := run.map (·.frame), until_ := u.tkp.now + 800, keys := [] }
      exec (.prefixPin src q seq model p depth keys) s =
        .next (replyHeld h.1 src q seq stOk depth h.2 (pfxPages u run) (locsOf u pool (run.map (·.frame))))) ∧
    (let u := takeMsg s src 0x0113
     headIs s src 0x0113 = true → servesCache u = true → inPartition u src = true → poolOf u model p = some pool → offerFrames true pool (List.range depth) u = (v, some fs) →
      let h := addLease v { dev := src, pool := pool, frames := fs, until_ := u.tkp.now + 800, keys := keys.take depth }
      addGrants h.1 (((locsOf v pool fs).filter (isHere u)).map fun a => ⟨src, a % 2 ^ 40, pageBytesOf u pool, none, some h.2, u.tkp.now⟩) = (ga, true) →
      exec (.prefixOffer src q seq model p depth keys) s = .next (replyHeld ga src q seq stOk depth h.2
        (fs.map fun f => (f, match frameAt ga pool f with | some x => x.gen | none => 0)) (locsOf v pool fs))) ∧
    (let u := takeMsg s src 0x0112
     headIs s src 0x0112 = true → NMap.find? u.mov.leases lease = some l → l.dev = src → exec (.prefixUnpin src lease) s = .next (endLease
      ((List.zip (List.range l.frames.length) (List.zip l.keys l.frames)).foldl (fun y e => pfxInsert y l.pool (e.1 + 1) e.2.1 e.2.2 none false) u) lease l)) ∧
    (let u := takeMsg s src 0x0111
     headIs s src 0x0111 = true → findPfx u q seq = some o →
      (o.opcode = 0x0214 → exec (.prefixHeld src q seq status depth lease pages locs) s = .next (lookupAnswer u q seq src depth pages)) ∧
      (o.opcode ≠ 0x0214 → o.dev = src → o.lease = 0 → status = stOk → o.depth ≤ depth → locs.length = o.depth →
        let w := { o with lease := lease, startTick := u.tkp.now }
        exec (.prefixHeld src q seq status depth lease pages locs) s = .next (if o.opcode = 0x0215 then fetchStart (setPfx u w) w locs
          else setPfx u { w with left := List.zipWith (fun a b => (a, pageBytesOf u o.pool, b)) (locsOf u o.pool o.frames) locs }))) ∧
    (NMap.find? s.mov.leases lease = some l → l.until_ ≤ s.tkp.now → lease ≠ 0 →
      let w := endLease s lease l
      exec (.prefixLeaseExpiry lease) s = .next ((w.mov.ops.filter fun o => o.lease == lease && decide (o.startTick + 800 ≤ w.tkp.now)).foldl
        (fun y o => pfxFail y o stTimeout) w))

/-- Flits, ports, write grants and FAB_XFER (R301, R302, R303, R304, R310, R314, R330). -/
def Obligations.PortsAndTransfers : Prop :=
  ∀ (s : State) (port lane fseq fack ty errors e q seq : Nat) (rest : List Byte) (r : JRec),
    let w := wport s port
    (w.state = 2 → lane < 4 → rest.length = 252 →
      let a : State := if 1 ≤ errors ∧ errors ≤ 6 then { s with fab := { s.fab with fecCorr := satAdd 32 s.fab.fecCorr 1 } } else s
      let body := rest.take 248
      let f := (fack + 1) % 4096
      (errors ≤ 6 → crc32c (flitHead fseq fack ty ++ body) = BitVec.ofNat 32 (fieldAt rest 248 4) →
        (ty = 1 ∨ ty = 3 →
          (fseq = w.rxSeq → exec (.flitRx port lane fseq fack ty rest errors) s = .next (modPort a port fun x => takeAhead 512 (takeFlit x body))) ∧
          (0 < (fseq + 4096 - w.rxSeq) % 4096 → (fseq + 4096 - w.rxSeq) % 4096 < 512 → exec (.flitRx port lane fseq fack ty rest errors) s =
            .next (modPort a port fun x => { x with ahead := NMap.insert x.ahead fseq body }))) ∧
        (ty = 2 → nextTry w.resendOf f < 8 → (∃ z ∈ w.store, z.1 = f) → exec (.flitRx port lane fseq fack ty rest errors) s =
          .next (modPort a port fun x => resend { x with resendOf := some (f, nextTry w.resendOf f) } f))) ∧
      (6 < errors ∨ crc32c (flitHead fseq fack ty ++ body) ≠ BitVec.ofNat 32 (fieldAt rest 248 4) →
        let c : State := { a with fab := { a.fab with retry := satAdd 16 a.fab.retry 1 } }
        exec (.flitRx port lane fseq fack ty rest errors) s = .next (if 8 ≤ nextTry w.retryOf w.rxSeq then retrainPort c port
          else modPort c port fun x => askRetry { x with retryOf := some (w.rxSeq, nextTry w.retryOf w.rxSeq) }))) ∧
    (w.state = 1 → let a := modPort s port fun x => { x with state := 2 }
      exec (.portTrained port) s = .next (a.fab.tx.foldl (fun x e => pump x e.1) a)) ∧
    (∀ g, NMap.find? s.fab.grants e = some g → g.offered + 800 ≤ s.tkp.now →
      exec (.writeGrantExpiry e) s = .next { s with fab := { s.fab with grants := NMap.erase s.fab.grants e } }) ∧
    (let u := begun s q seq
     let n := r.par 8 2
     let ctx := (sliceOfRec u r).bind (servingCtx u)
     Starts s q seq 0x0410 r → 1 ≤ n → n ≤ 1024 → r.params.length = 40 + 32 * n → r.par 0 1 ≤ 7 → r.zeros 1 7 = true → r.zeros 12 4 = true →
      r.zeros 32 8 = true → usableRange u (r.par 16 8) (2 * n) = true → usableRange u (r.par 24 8) 8 = true → (r.pasid ≠ none → ctx ≠ none) →
      let l : XList := { num := 0, sync := none, slice := (sliceOfRec u r).getD 64, context := ctx, statusPtr := r.par 16 8, donePtr := r.par 24 8
                         entries := (List.range n).map fun i => entryOfBytes ((r.params.drop (40 + 32 * i)).take 32), next := 0, fenceN := none
                         status := List.replicate n none, cmd := some (q, seq) }
      exec (.fabXfer q seq) s = .next (pushList u (r.par 0 1) l))

/-- Pages go to the flash tier and come back; superblocks are erased and relocated (R248, R250, R252, R253). -/
def Obligations.FlashEvents : Prop :=
  ∀ (s : State) (pool frame sb m : Nat) (failed : Bool) (f : Frame) (b : SuperBlk),
    (frameAt s pool frame = some f → f.state = 2 → f.tier ≤ 1 → f.retired = false →
      (let d := demotePage s pool frame
       exec (.flashDemote pool frame none) s = .next (if d.2 = true then d.1 else losePage d.1 pool frame)) ∧
      (let d := demotePage (programFails s pool m) pool frame
       exec (.flashDemote pool frame (some m)) s = .next (if d.2 = true then d.1 else losePage d.1 pool frame))) ∧
    (frameAt s pool frame = some f → f.state = 1 → f.tier = 3 → f.retired = false →
      exec (.flashPromote pool frame failed) s = .next (if failed = true ∨ flashAbsent s f = true then flashMiss (flashRead s pool frame) pool frame
        else (promotePage (flashRead s pool frame) pool frame 0).1)) ∧
    (NMap.find? s.fla.sbs sb = some b → b.state = 2 → liveIn s sb = [] →
      let v := ((flashFrames s).filter fun e => sbOf e.2 == sb).foldl (fun y e => flashMiss y (e.1 / 2 ^ 24) (e.1 % 2 ^ 24)) s
      (((flashFrames v).any fun e => sbOf e.2 == sb) = true → exec (.superblockErase sb none) s = .next v) ∧
      (((flashFrames v).any fun e => sbOf e.2 == sb) = false →
        exec (.superblockErase sb none) s = .next (eraseSb v sb b) ∧
        (spareFor { v with fla := { v.fla with bad := addSet v.fla.bad (blockKey m (b.members.getD m 0)) } } m (b.members.getD m 0) ≠ none →
          exec (.superblockErase sb (some m)) s = .next (blockFails (eraseSb v sb b) sb m)))) ∧
    (s.fla.state ≠ 3 → relocating s ≠ [] → exec .superblockRelocate s = .next ((relocating s).foldl (fun y e => rewriteFrame y e.1) s)) ∧
    (s.fla.state ≠ 3 → relocating s = [] → (s.fla.sbs.filter fun (b : Nat × SuperBlk) => b.2.state == 0).length < 4 →
      ∀ n, (s.fla.sbs.filter fun (b : Nat × SuperBlk) => b.2.state == 2).foldl (fun (m : Option (Nat × Nat)) b =>
          let k := (liveIn s b.1).length
          match m with | none => some (b.1, k) | some x => if k < x.2 then some (b.1, k) else some x) none = some (sb, n) →
        exec .superblockRelocate s = .next ((liveIn s sb).foldl
          (fun y e => setFrame y (e.1 / 2 ^ 24) (e.1 % 2 ^ 24) { e.2 with state := 2 }) s)) ∧
    (let due := (flashFrames s).filter fun e =>
       (match NMap.find? s.fla.readTick e.1 with | some t => decide (s.tkp.now ≤ t + 24 * 3600 * ticksPerSec) | none => false) &&
       (match NMap.find? s.fla.sbs (sbOf e.2) with | some b => decide (b.opened + retention s < opsecNow s + 3 * 86400) | none => false) &&
       !flashAbsent s e.2
     exec .flashRetentionRewrite s = .next (due.foldl (fun y e => rewriteFrame y e.1) s))

/-- Fronthaul frames, symbols, gain, launches and links (R258, R259, R260, R263, R264, R267, R268, R271, R272). -/
def Obligations.FronthaulEvents : Prop :=
  ∀ (s : State) (port cell first y sym stream waiting c256 : Nat) (f : FhFrame) (ready eaxcs : List Nat) (msgs : List CMessage) (pin peak : Int),
    let x := fhAt s port
    let z := cellAt s cell
    (portWorks s port = true →
      (f.fcsOk = false → exec (.fhFrameRx port f) s = .next (modFh s port fun y => { y with fcs := satAdd 16 y.fcs 1 })) ∧
      (f.fcsOk = true → vlanBad x f = true → exec (.fhFrameRx port f) s = .next (fhUnknown s port)) ∧
      (f.fcsOk = true → vlanBad x f = false →
        (f.etherType = 0xAEFE → x.kind.applied = 0 → exec (.fhFrameRx port f) s = .next (ecpriRx s port f)) ∧
        (f.etherType = 0xFC3D → x.kind.applied = 1 → exec (.fhFrameRx port f) s = .next (tdRx s port f)) ∧
        (f.etherType = 0x88F7 → exec (.fhFrameRx port f) s = .next (modFh s port fun y => { y with cpRx := (0x88F7, f.stampNs) :: y.cpRx })))) ∧
    (z.active = true → 16 * first + y ∉ z.closed → y < 14 → slotPhase z first = 0 → launch s = closeBeat s z (16 * first + y) →
      let a := modCell s cell fun w => { w with closed := addSet (w.closed.filter fun k => 16 * first + y ≤ k + 16384) (16 * first + y)
                                                rxGot := w.rxGot.filter fun k => k / 2 ^ 32 != 16 * first + y }
      exec (.symbolClose cell first y) s = .next (match cellDesc a cell with | some d => incSync a d.rxSync | none => a)) ∧
    (∀ c v b, cellOfEaxc s port stream = some (c, v) → v.bind_ = some b → x.kind.applied = 1 → x.linkUp = true → sym ∈ v.closed →
      let st := NMap.getD s.rad.streams (256 * port + stream) {}
      let got := symSamples v x stream sym
      let zs := got.map fun z => z.getD (0, 0)
      let cp := (symSpan v sym).2.2
      st.last < sym → measured zs cp pin peak c256 = true →
      let lack := got.any fun z => z.isNone
      let n := agcStep x st sym lack pin peak c256
      let a := writeWords s v b ((b.eaxc.drop b.dl).findIdx (· == stream)) n.words
      let d : State := { a with rad := { a.rad with streams := NMap.insert a.rad.streams (256 * port + stream) n } }
      exec (.agcUpdate port stream sym pin peak c256) s = .next (if lack = true then d else symbolFft d c v stream sym st.gain cp zs)) ∧
    (onPort s port cell = true → silentCell z = false →
      (∀ k, cplaneSlot s z = some k → x.kind.applied ≠ 1 → x.uAt.1 ≠ launch s + 1 →
        let ms := (ascending (msgs.map (·.eaxc))).filterMap fun e => msgs.find? fun m => m.eaxc == e
        (portWorks s port = true → exec (.cplaneLaunch port cell msgs) s = .next (ms.foldl (fun y m => sentPacket y port (2 * m.eaxc + 1) (linkFree y port)
          (cFrame y port cell k (NMap.getD (fhAt y port).txSeq (2 * m.eaxc + 1) 0) m)) s)) ∧
        (portWorks s port = false → exec (.cplaneLaunch port cell msgs) s = .next (modFh s port fun y => { y with txLate := satAdd 16 y.txLate ms.length }))) ∧
      (launch s = uplaneBeat s z (launchAir s z sym) → (x.uAt.1 = launch s + 1 → ∀ e ∈ ascending eaxcs, x.uAt.2 < e) →
        let fs := ((ascending eaxcs).map fun e => (uFrames s port cell sym e (NMap.getD x.txSeq (2 * e) 0)).map fun g => (e, ready.contains e, g)).flatten
        (portWorks s port = true → exec (.uplaneLaunch port cell sym ready eaxcs) s =
          .next (launchGo fs (modFh s port fun y => { y with uAt := (launch s + 1, (ascending eaxcs).foldl max 0) }) port cell sym)) ∧
        (portWorks s port = false → exec (.uplaneLaunch port cell sym ready eaxcs) s =
          .next (modFh s port fun y => { y with txLate := satAdd 16 y.txLate fs.length })))) ∧
    (x.linkUp = true →
      let a := modFh s port fun y => { y with linkUp := false, synceSrc := false, linkDowns := satAdd 16 y.linkDowns 1, txLate := satAdd 16 y.txLate waiting }
      let b : State := { a with tim := { a.tim with synceLow := s.tim.synceLow || x.synceSrc } }
      exec (.fhLinkDown port waiting) s = .next (portCells (recordEvent (rateAgain s b) 0x4003 srcHw []) port 4)) ∧
    (x.linkUp = false → x.mode.applied ≠ 0 → laneMerged s port = false →
      let a := modFh s port fun y => { y with linkUp := true, resumeAt := s.tkp.now + 1, trainAt := none }
      let b : State := { a with rad := { a.rad with streams := a.rad.streams.filter fun e => e.1 / 256 != port } }
      exec (.fhLinkUp port) s = .next (if 0 < x.linkDowns then portCells (rateAgain s b) port 5 else rateAgain s b)) ∧
    (∀ t, x.trainAt = some t → t + 8000 ≤ s.tkp.now → x.linkUp = false →
      exec (.fhTrainTimeout port) s = .next (recordEvent (modFh s port fun y => { y with trainAt := none }) 0x4001 srcHw []))

/-- FAPI requests that configure, start and stop a cell (R273, R276, R277, R278, R279, R293, R294, R298, R454). -/
def Obligations.FapiConfiguration : Prop :=
  ∀ (s : State) (m : FapiMsg) (cfg : CellConfig) (phy id t : Nat) (rest : List Nat) (p : Phy),
    let taken := fun (n : Nat) => ({ s with rad := { s.rad with
      phys := NMap.insert s.rad.phys n { p with arrivals := rest, reqHead := (p.reqHead + 1) % 2 ^ 16 } } } : State)
    let u := modCell (taken m.phy) m.cell fun c => { c with phy := some m.phy }
    let c := (cellAt u m.cell).settled
    let e := ringEntry s p
    let b := (devRead s e.1 e.2.1).drop 8
    let bare := bareMsg m.phy m.cell
    s.rad.noL2Bus = false → p.arrivals = t :: rest →
    (NMap.find? s.rad.phys phy = some p → entryId p e = none → exec (.fapiMessageUnsupported phy id) s =
      .next (postInd (taken phy) ⟨phy, .error, 0, 0, 0, .invalidState, stInvalid, 0, [id]⟩)) ∧
    (NMap.find? s.rad.phys m.phy = some p →
      (entryId p e = some 0x00 → exec (.paramRequest m) s = .next (respInd (taken m.phy) m .param .ok)) ∧
      (p.cells.getLsbD m.cell = true → m.cell < 192 →
        ((cellAt u m.cell).active = false →
          (entryId p e = some 0x02 → exec (.configRequest m cfg) s = .next (respInd (cellSet u m.cell (.config cfg)) m .config .ok)) ∧
          (entryId p e = some 0x180 → bindOk u m.cell b = true →
            exec (.cellBindRequest m.phy m.cell) s = .next (respInd (cellSet u m.cell (.bound (bindOf u b))) bare .cellBind .ok)) ∧
          (entryId p e = some 0x181 → twilightOk b = true →
            exec (.twilightCfgRequest m.phy m.cell) s = .next (respInd (cellSet u m.cell (.twilight (twilightOf u b))) bare .twilightCfg .ok))) ∧
        (entryId p e = some 0x04 → c.started = false → startOk u m.cell = true →
          exec (.startRequest m) s = .next (modCell u m.cell fun y => { y with
            startAt := some (firstSlotFrom u c (t + 10)), mode := 3, stopAt := none
            bw := match c.bind_ with | some b => cellBw b | none => 0 })) ∧
        (entryId p e = some 0x05 → c.active = true → exec (.stopRequest m) s = .next (modCell u m.cell fun y => { y with
          stopAt := some (slotNamed u c m.sfn m.slot t + slotTicks c.mu), stopReason := 5 }))))

/-- FAPI slot requests, their deadlines, activation and stop of cells, ring pairs (R277, R278, R280, R294, R298). -/
def Obligations.FapiSlots : Prop :=
  ∀ (s : State) (m : FapiMsg) (cell first t q seq : Nat) (rest : List Nat) (p : Phy) (r : JRec),
    (let u := modCell { s with rad := { s.rad with phys := NMap.insert s.rad.phys m.phy { p with arrivals := rest, reqHead := (p.reqHead + 1) % 2 ^ 16 } } }
        m.cell fun c => { c with phy := some m.phy }
     let e := ringEntry s p
     let o : FapiMsg := { m with body := devRead s e.1 e.2.1 }
     let c := (cellAt u m.cell).settled
     let a := slotNamed u c m.sfn m.slot t
     s.rad.noL2Bus = false → p.arrivals = t :: rest → NMap.find? s.rad.phys m.phy = some p → p.cells.getLsbD m.cell = true → m.cell < 192 →
     c.started = true → m.sfn < 1024 → m.slot < 80 / slotTicks c.mu → a ∉ c.late →
      ((∀ st, c.startAt = some st → st ≤ a) → (∀ e, c.stopAt = some e → a < e) → a ≤ t + 80 + leadTicks u c → t + 10 + leadTicks u c ≤ a →
        (entryId p e = some 0x80 → exec (.dlTtiRequest m) s = .next (modCell u m.cell fun c =>
          Cell.tookOne { c with dl := NMap.insert c.dl a o, noReq := c.noReq.filter (· ≠ a) } a)) ∧
        (entryId p e = some 0x81 → exec (.ulTtiRequest m) s = .next (modCell u m.cell fun c => Cell.tookOne { c with ul := NMap.insert c.ul a o } a)) ∧
        (entryId p e = some 0x83 → exec (.ulDciRequest m) s = .next (modCell u m.cell fun c => Cell.tookOne { c with dci := NMap.insert c.dci a o } a))) ∧
      (entryId p e = some 0x84 → t + leadTicks u c ≤ a → exec (.txDataRequest m) s = .next (modCell u m.cell fun y =>
        let old := match NMap.find? y.tx a with | some w => w.data | none => []
        Cell.tookOne { y with tx := NMap.insert y.tx a { o with data := m.data ++ old } } a))) ∧
    (let x := cellAt s cell
     (x.settled.started = true → first ≤ s.tkp.now + 10 + leadTicks s x.settled → NMap.find? x.settled.dl first = none → first ∉ x.settled.late →
       exec (.slotRequestDeadline cell first) s = .next (modCell s cell fun y => { y with noReq := addSet y.noReq first })) ∧
     (∀ o, NMap.find? x.dl first = some o → first ≤ s.tkp.now + leadTicks s x → x.started = true → first ∉ x.late → first ∉ x.noData →
       let lack := (o.dls.filter fun p => p.kind == .pdsch && (dataOf x first p.index).isNone).map fun p => p.index
       let a := if lack = [] then s else modCell s cell fun y => { y with noData := addSet y.noData first }
       exec (.txDataDeadline cell first) s = .next (lack.foldl (fun y p => cellInd y cell .error first .txErr stLate 0 [p]) a)) ∧
     (∀ a, x.startAt = some a → a ≤ s.tkp.now → exec (.cellActivate cell) s =
       .next (slotBegins (modCell s cell fun y => { y with active := true, startAt := none, mode := 3 }) cell)) ∧
     (∀ a, x.started = true → x.stopAt = some a → a ≤ s.tkp.now →
       exec (.cellStop cell) s = .next (goOff s cell x.stopReason (x.stopReason == 5))) ∧
     (∀ a, x.runStart = some a → x.mode = 2 → a + x.holdS * 8000 ≤ s.tkp.now →
       exec (.twilightHoldExpiry cell) s = .next (goOff s cell 3 true))) ∧
    (let u := begun s q seq
     let n := r.par 0 1
     (Starts s q seq 0x0300 r → l2Ok u r = true → NMap.find? u.rad.phys n = none →
       (∀ e ∈ u.rad.phys, e.2.cells &&& BitVec.ofNat 192 (r.par 40 24) = 0) →
       let y : Phy := { entries := r.par 2 2, reqRing := r.par 8 8, indRing := r.par 16 8, msgBase := r.par 24 8, msgBytes := r.par 32 4
                        cells := BitVec.ofNat 192 (r.par 40 24), indTail := 0, indHead := 0, reqTail := 0, reqHead := 0, arrivals := [], closing := none }
       exec (.radL2Open q seq) s = .next (finish { u with rad := { u.rad with phys := NMap.insert u.rad.phys n y } } q seq stOk
         (BitVec.ofNat 64 (0x110000 + 16 * (512 + n))))) ∧
     (Starts s q seq 0x0301 r → NMap.find? u.rad.phys n = some p → r.params.length = 1 → p.closing = none →
       let v : State := { u with rad := { u.rad with phys := NMap.insert u.rad.phys n { p with closing := some (q, seq) } } }
       exec (.radL2Close q seq) s = .next (settlePhy ((v.rad.cells.filter fun c => c.2.phy == some n && c.2.started).foldl (fun x c =>
         if c.2.active = true then modCell x c.1 fun y => { y with stopAt := some (firstSlotFrom x y (x.tkp.now + 10)), stopReason := 4 }
         else goOff x c.1 4 false) v) n)))

/-- Requests of the fabric at their target: the next of a stream, a combined one, EPOCH, and the acknowledgement of a run (R305, R311, R313, R318, R322, R323, R325, R327, R329, R331). -/
def Obligations.FabricRequests : Prop :=
  ∀ (s : State) (port src : Nat) (p : Packet) (k : Nat × Nat × Nat × W64 × List Byte) (h : AckRun),
    let a := p.addr % 2 ^ 40
    let x := rxAt s p.src
    let n := pktSpan p
    let prior := devNat s a n
    let fresh := launch s ≤ p.stamp + 10000
    let added := (devWrite s a (leBytes n (atomicNew (8 * n) (fieldAt p.payload 0 1 % 8) prior (fieldAt p.payload 8 n) (fieldAt p.payload 16 n)))).1
    let summed := (devWrite s a ((List.range (p.payload.length / 32)).map fun i =>
      accCell (devRead s (a + 32 * i) 32) ((p.payload.drop (32 * i)).take 32)).flatten).1
    let noted := fun (u : State) (st : Nat) (v : W64) => setRx u p.src { rxAt u p.src with window := ((p.psn, st, v) :: (rxAt u p.src).window).take 256 }
    let moved := fun (u : State) => setRx u p.src { rxAt u p.src with expect := (p.psn + 1) % 2 ^ 32 }
    let answered := fun (u : State) (op st : Nat) (d : List Byte) =>
      let v := moved u
      let y := setRx v p.src { rxAt v p.src with grows := false }
      drainBuf 1024 (sendResp y (respPacket y p op st 0 d)) p.src
    let joined := fun (u : State) =>
      let v := moved u
      let r := rxAt v p.src
      let runs := match r.grows, r.runs with
        | true, g :: rest => { g with last := p.psn, path := p.path } :: rest
        | _, rs => ⟨p.psn, p.psn, launch v, p.path⟩ :: rs
      drainBuf 1024 (flushRuns (setRx v p.src { r with runs := runs, grows := true }) p.src fun g =>
        decide (63 ≤ (g.last + 2 ^ 32 - g.first) % 2 ^ 32)) p.src
    let refused := fun (st : Nat) => if st = stDenied then { s with fab := { s.fab with denied := satAdd 32 s.fab.denied 1 } } else s
    let kept := fun (u : State) (v : W64) (d : List Byte) => modPort u port fun y => { y with comb := ((p.src, p.psn, stOk, v, d) :: y.comb).take 256 }
    ((wport s port).state = 2 → inPartition s p.src = true → p.ecrc = packetCrc p → p.prot = s.fab.prot →
      (p.comb = false → x.lost = false → p.epoch = x.epoch → p.psn = x.expect → p.psn < 2 ^ 32 → NMap.find? x.buf p.psn = none → fresh →
        (memCheck s p = stOk →
          (p.op = 0x10 → exec (.load port p) s = .next (answered s 0x22 stOk (viewRead s a p.len))) ∧
          (p.op = 0x11 → (devWrite s a p.payload).2 = true → exec (.store port p) s = .next (joined (devWrite s a p.payload).1)) ∧
          (p.op = 0x12 → exec (.atomic port p) s =
            .next (answered (noted added stOk (BitVec.ofNat 64 prior)) 0x23 stOk (leBytes 8 prior))) ∧
          (p.op = 0x13 → exec (.accL port p) s = .next (joined summed))) ∧
        (∀ st, memCheck s p = st → st ≠ stOk → st ≠ stDeviceFault →
          let t := answered (noted (refused st) st 0) 0x21 st []
          (p.op = 0x10 → exec (.load port p) s = .next t) ∧ (p.op = 0x11 → exec (.store port p) s = .next t) ∧
          (p.op = 0x12 → exec (.atomic port p) s = .next t) ∧ (p.op = 0x13 → exec (.accL port p) s = .next t)) ∧
        (p.op = 0x14 → 8 ≤ p.payload.length → p.payload.length ≤ 4096 → fieldAt p.payload 2 2 = 0 → headOk p = true → p.jobTag = 0 →
          fieldAt p.payload 0 2 ∈ msgClasses →
          (NMap.getD s.fab.inbox p.src []).length < 64 → exec (.msg port p) s =
            .next (joined { s with fab := { s.fab with inbox := NMap.insert s.fab.inbox p.src (NMap.getD s.fab.inbox p.src [] ++ [p]) } }))) ∧
      (p.comb = true →
        let held := (wport s port).comb.find? fun c => c.1 == p.src && c.2.1 == p.psn
        (held = none → fresh → p.retry = false → memCheck s p = stOk →
          (p.op = 0x10 → let u := kept s 0 (viewRead s a p.len)
            exec (.load port p) s = .next (sendResp u (respPacket u p 0x22 stOk 0 (viewRead s a p.len)))) ∧
          (p.op = 0x12 → let u := kept added (BitVec.ofNat 64 prior) (leBytes 8 prior)
            exec (.atomic port p) s = .next (sendResp u (respPacket u p 0x23 stOk 0 (leBytes 8 prior)))) ∧
          (p.op = 0x13 → exec (.accL port p) s = .next (sendAck (kept summed 0 []) p.src p.psn p.psn p.path true p.epoch))) ∧
        (held = none → p.retry = true ∨ ¬ fresh →
          let t := sendResp (countStale s) (respPacket (countStale s) p 0x21 stStale 0 [])
          (p.op = 0x10 → exec (.load port p) s = .next t) ∧ (p.op = 0x12 → exec (.atomic port p) s = .next t) ∧
          (p.op = 0x13 → exec (.accL port p) s = .next t)) ∧
        (held = some k → k.2.2.1 = stOk →
          (p.op = 0x10 → exec (.load port p) s = .next (sendResp s (respPacket s p 0x22 stOk 0 k.2.2.2.2))) ∧
          (p.op = 0x12 → exec (.atomic port p) s = .next (sendResp s (respPacket s p 0x23 stOk 0 k.2.2.2.2))) ∧
          (p.op = 0x13 → exec (.accL port p) s = .next (sendAck s p.src p.psn p.psn p.path true p.epoch)))) ∧
      (p.op = 0x31 → exec (.epoch port p) s = .next (sendAck (setRx s p.src { epoch := fieldAt p.payload 0 1 }) p.src 0 0 p.path false
        (fieldAt p.payload 0 1)))) ∧
    ((rxAt s src).runs = [h] → h.at_ + 10 ≤ launch s → exec (.ackTimer src) s =
      .next (sendAck (setRx s src { rxAt s src with runs := [], grows := false }) src h.first h.last h.path false (rxAt s src).epoch))

/-- Responses, probes, retransmission and the issue of transfer-list entries at the sender (R306, R310, R311, R312, R314, R318, R320, R324). -/
def Obligations.FabricResponses : Prop :=
  ∀ (s : State) (port dst psn i : Nat) (p : Packet) (o : OutReq) (q : Path) (l : XList) (e : XferEntry),
    let ends := fun (t : OutReq → Bool) (st : OutReq → Nat) (bs : List Byte) =>
      tryFences (pump (endReqs (pathAlive s p.src port p.path) p.src
        (fun o => o.pkt.comb == p.comb && (p.comb || o.pkt.epoch == p.epoch) && t o) st bs) p.src)
    ((wport s port).state = 2 → inPartition s p.src = true → p.ecrc = packetCrc p →
      (p.op = 0x20 → (txAt s p.src).epochAsk = none → exec (.ack port p) s = .next (ends (fun o => o.pkt.op != 0x10 && o.pkt.op != 0x12 &&
        inRun (p.addr % 2 ^ 32) (p.addr / 2 ^ 32 % 2 ^ 32) o.pkt.psn) (fun _ => stOk) [])) ∧
      (p.op = 0x21 → exec (.statusP port p) s = .next (ends (fun o => o.pkt.psn == p.psn)
        (fun o => if o.pkt.op = 0x12 ∧ p.status % 4096 = stStale then stOutcomeUnknown else p.status % 4096) [])) ∧
      (p.op = 0x22 → exec (.loadData port p) s = .next (ends (fun o => o.pkt.op == 0x10 && o.pkt.psn == p.psn) (fun _ => stOk) p.payload)) ∧
      (p.op = 0x23 → (txAt s p.src).outst.find? (fun o => o.pkt.op == 0x12 && o.pkt.psn == p.psn) = some o →
        exec (.atomicData port p) s = .next (ends (fun o => o.pkt.op == 0x12 && o.pkt.psn == p.psn) (fun _ => stOk) (p.payload.take (pktSpan o.pkt)))) ∧
      (p.op = 0x30 →
        ((∃ z ∈ pathsOf s p.src, z.index = p.path ∧ z.port = port ∧ z.probed = true) → exec (.probe port p) s = .next (pump (modPaths s p.src fun ps =>
          ps.map fun z => if z.index = p.path ∧ z.port = port then { z with fails := 0, down := false, probed := false } else z) p.src)) ∧
        ((∀ z ∈ pathsOf s p.src, z.index = p.path → z.probed = false) → exec (.probe port p) s = .next (sendResp s (respPacket s p 0x30 0 0 []))))) ∧
    ((txAt s dst).epochAsk = none → (txAt s dst).outst.find? (fun o => o.pkt.psn == psn % 2 ^ 32 && o.pkt.comb == decide (2 ^ 32 ≤ psn)) = some o →
      o.sentAt + 200 ≤ launch s → launch s < o.pkt.stamp + 9000 → o.pkt.stamp ≤ launch s →
      let c := if o.charged then s else chargePath s dst o.pathIx
      healthyTo c dst (o.pathIx + 1) = some (i, q) →
      let a : OutReq := { o with pkt := { o.pkt with retry := true, path := q.index }, sentAt := launch s, port := q.port, pathIx := i, charged := false }
      let b := putPacket (setTx c dst { txAt s dst with outst := (txAt s dst).outst.map fun x =>
        if x.pkt.psn = o.pkt.psn ∧ x.pkt.comb = o.pkt.comb then a else x }) q.port a.pkt
      exec (.retransmitTimeout dst psn) s = .next { b with fab := { b.fab with retx := satAdd 32 b.fab.retx 1 } }) ∧
    (s.fab.probeAt ≤ launch s →
      exec .pathProbeTimer s = .next (s.fab.paths.foldl (fun x e => probePaths x e.1) { s with fab := { s.fab with probeAt := launch s + 10000 } })) ∧
    (let v := endReqs s dst (fun o => o.pkt.comb && tooLate s o) brokenStatus []
     let u := endHeld v dst fun o => o.pkt.comb && tooLate v o
     ((txAt u dst).outst ++ (txAt u dst).held).any (fun o => !o.pkt.comb && tooLate u o) = true → exec (.streamBreak dst) s = .next (tryFences (breakStream u dst))) ∧
    (issuingList s port = some l → l.entries[l.next]? = some e → listRuns s l = true → entryCheck s e = stOk → e.op ≠ 5 →
      (e.comb = true ∨ inCredit (txAt s (entryDst e)) + waiting (txAt s (entryDst e)) < 1024) →
      exec (.xferEntryIssue port) s = .next (issueReq (modList s port l.num fun x => { x with next := x.next + 1 }) (entryDst e) (entryPacket s l e)
        (some (l.num, l.next, e.local_)) (some port)))

/-- Launched jobs: PLAN_LAUNCH, their steps and the barrier timeout (R349, R350, R351). -/
def Obligations.LaunchedJobs : Prop :=
  ∀ (s : State) (q seq len t : Nat) (w0 w1 : W64) (last : Bool) (r : JRec) (j : Job),
    (let u := begun s q seq
     Starts s q seq 0x0510 r → launchFieldsOk u r = true → (∀ sl, sliceOfRec u r = some sl → (ctxAt u (r.par 0 2)).slice = sl) →
      r.tick + 16 ≤ r.par 8 8 → (r.par 2 1 = 1 → u.tim.state = 2) →
      exec (.planLaunch q seq) s = .next { u with tim := { u.tim with jobs := u.tim.jobs ++ [jobOfParams r] } }) ∧
    (findJob s q seq = some j →
      (j.running = true → ctxRuns s j.context = false →
        let u := writeLate s j
        let d := { j with running := false }
        (last = true → exec (.jobStepLaunch q seq last len w0 w1) s = .next (finish { u with tim := { u.tim with
          jobs := u.tim.jobs.filter fun x => !(x.q == q && x.seq == seq) } } q seq stOk 0)) ∧
        (last = false → j.lockstep = true → exec (.jobStepLaunch q seq last len w0 w1) s =
          .next (reportStep (setJob u { d with reportTick := some s.tkp.now }) j)) ∧
        (last = false → j.lockstep = false → exec (.jobStepLaunch q seq last len w0 w1) s = .next (launchStep u d len false none))) ∧
      (j.running = false → j.step = 0 → s.tkp.now = j.start → s.tkp.beat = 0 → exec (.jobStepLaunch q seq last len w0 w1) s = .next (launchStep s j len false none)) ∧
      (j.running = false → j.step ≠ 0 → j.reportTick = some t →
        let w := barrierPair s j w0 w1
        (j.members ≤ w.2 → (s.tkp.now = w.1 / 256 ∧ s.tkp.beat = 0) ∨ (w.1 / 256 < s.tkp.now ∧ j.count < j.members) → exec (.jobStepLaunch q seq last len w0 w1) s =
          .next (launchStep s j len (decide (t + 24 < w.1 / 256) && 255 - w.1 % 256 != s.fab.device) (some (255 - w.1 % 256)))) ∧
        (w.2 < j.members → exec (.jobStepLaunch q seq last len w0 w1) s = .next (setJob s { j with count := w.2 }))) ∧
      (j.reportTick = some t → t + 8000 ≤ s.tkp.now → (barrierPair s j 0 (BitVec.ofNat 64 j.count)).2 < j.members → exec (.barrierTimeout q seq) s = .next (finish { s with tim := { s.tim with
        jobs := s.tim.jobs.filter fun x => !(x.q == q && x.seq == seq) } } q seq stTimeout 0)))

/-- Time: PTP and ESMC messages, PPS, time-of-day lines, loss of the source, holdover and the step (R46, R338, R343, R344, R345, R346). -/
def Obligations.TimeEvents : Prop :=
  ∀ (s : State) (port mt id taken ql ns ms sec t : Nat) (sent : Bool) (m : PtpMsg) (line : List Byte) (lp : Nat),
    (portWorks s port = false → exec (.ptpMessage port mt id taken sent m) s = .next s) ∧
    (portWorks s port = true → mt ∈ [2, 3, 0xA, 0xD] ∨ m.domain ≠ s.tim.domain ∨ m.dest ∉ [0x011B19000000, 0x0180C200000E] →
      exec (.ptpMessage port mt id taken sent m) s = .next s) ∧
    (portWorks s port = true → mt ∉ [2, 3, 0xA, 0xD] → m.domain = s.tim.domain → m.dest ∈ [0x011B19000000, 0x0180C200000E] →
      let x : FhPort := NMap.getD s.fh port {}
      let stamp := stampEntry id mt port (timeAt s (s.tim.raw + m.ns))
      (sent = true → ptpSends s port mt id = true →
        ∃ y : FhPort, exec (.ptpMessage port mt id taken sent m) s = .next { s with fh := NMap.insert s.fh port y } ∧
          (mt < 4 → (x.txq.drop taken).length < 64 → y.txq = x.txq.drop taken ++ [stamp]) ∧
          (mt < 4 → 64 ≤ (x.txq.drop taken).length → y.txq = x.txq.drop taken ∧ y.stampOver = satAdd 16 x.stampOver 1 ∧ (mt = 0 → id ∈ y.noFollow)) ∧
          (4 ≤ mt → y.txq = x.txq.drop taken)) ∧
      (sent = true → mt = 8 → id ∈ x.noFollow → exec (.ptpMessage port mt id taken sent m) s = .next s) ∧
      (sent = false → port = s.tim.ptpPort → s.tim.source = 0 →
        let u : State := { s with fh := NMap.insert s.fh port { x with txq := x.txq.drop taken } }
        let v := if mt = 0xB then announced u m else u
        exec (.ptpMessage port mt id taken sent m) s =
          .next (match m.offset with | some d => if fromMaster v m = true then measure v d else v | none => v))) ∧
    (port = s.tim.syncePort → portWorks s port = true → let u : State := { s with tim := { s.tim with esmc := ql } }
      exec (.esmcMessage port ql) s = .next (if s.tim.state = 3 ∧ syncEGood s ≠ syncEGood u then holdRate u else u)) ∧
    (todFields line = some (sec, 1, lp) → 100 ≤ ms → ms ≤ 900 →
      exec (.todLineRx line ms) s = .next { s with tim := { s.tim with todNext := some sec, leap := some lp } }) ∧
    (let d : Int := (timeAt s ns : Int) - s.tim.ppsDelay
     let u : State := { s with tim := { s.tim with lastEdge := some ns, todNext := none, ppsErr := toSecond d } }
     (s.tim.source = 0 → exec (.ppsInEdge ns) s = .next u) ∧
     (s.tim.source ≠ 0 → s.tim.todNext = some sec → exec (.ppsInEdge ns) s = .next (measure (sourceSeen u) (d - 1000000000 * sec)))) ∧
    (s.pwr.pwrGood = true → s.tim.ppsOut < sec → timeNow s ≤ 1000000000 * sec → 1000000000 * sec < timeNow s + 1000000000 →
      1000000000 * sec < timeAt s (s.tim.raw + 100) → s.tim.ppsRaw = none →
      exec .ppsOut s = .next { s with tim := { s.tim with ppsOut := sec, ppsRaw := some s.tim.raw } }) ∧
    (∀ r, s.tim.ppsRaw = some r → s.tim.leap = some lp →
      (s.tim.raw < r + 500000000 → todDue s = s) ∧
      (r + 500000000 ≤ s.tim.raw → todDue s =
        { s with tim := { s.tim with ppsRaw := none, todSent := todLine (s.tim.ppsOut + 1) (bit1 (todValid s)) lp } })) ∧
    (s.tim.present = true → s.tim.heard + lossTicks s ≤ s.tkp.now → s.tim.state = 2 →
      exec .sourceLost s = .next (enterHoldover { s with tim := { s.tim with present := false, master := none }
                                                         tkp := { s.tkp with step := none, stepAt := none } })) ∧
    (s.tim.state = 3 → s.tim.holdExceeded = false → s.tim.holdTick + 8000 * s.tim.holdLimit ≤ s.tkp.now →
      exec .holdExceeded s = .next (recordEvent { s with tim := { s.tim with holdExceeded := true } } 0x7003 6 [])) ∧
    (s.tkp.step = some t → 1234 ≤ s.tkp.beat → t ≤ s.tkp.now + 1 → s.tim.present = true → s.tim.nostep = false →
      let n := (ns + 124999) / 125000
      125000 * (s.tkp.now + 1) ≤ ns →
        exec (.timeStep ns true) s = .next { s with tkp := { s.tkp with stepAt := some (n, 125000 * n - ns) } }) ∧
    (∀ n, let u := stepTo s n ns
      u.tkp.now = n ∧ u.tkp.locked = true ∧ u.tkp.step = none ∧ u.tkp.stepAt = none ∧ u.tkp.rwtApply = s.tkp.rwtApply + (n - s.tkp.now) ∧
      u.tkp.loaded = s.tkp.loaded.map (· + (n - s.tkp.now)) ∧ u.tim.raw = (s.tim.raw + ns) % 2 ^ 64 ∧ u.tim.baseNs = 125000 * n)

/-- Seam-bound commands of administration start, wait for their seam, and complete OK there with the effect of their rule (R48, R49, R62, R358, R376, R378, R379, R471, R503). -/
def Obligations.SeamBoundAdministration : Prop :=
  ∀ (s v : State) (q seq : Nat) (r : JRec), let u := begun s q seq
    (Starts s q seq 0x0007 r → mirrorFields r u = stOk → exec (.mirrorSet q seq) s = .next (queueSeam u r)) ∧
    (Starts s q seq 0x0500 r → sliceAssignFields r u = stOk → exec (.sliceAssign q seq) s = .next (queueSeam u r)) ∧
    (Starts s q seq 0x0501 r → sliceQuotaFields r u = stOk → exec (.sliceQuota q seq) s = .next (queueSeam u r)) ∧
    (Starts s q seq 0x0507 r → mbxGrantFields r u = stOk → exec (.mbxGrant q seq) s = .next (queueSeam u r)) ∧
    (Starts s q seq 0x0620 r → timeCfgFields r u = stOk → exec (.timeCfg q seq) s = .next (queueSeam u r)) ∧
    (Starts s q seq 0x0720 r → memEncFields r u = stOk → exec (.memEncSet q seq) s = .next (queueSeam u r)) ∧
    (Starts s q seq 0x0320 r → fhCfgFields r u = stOk → exec (.fhCfg q seq) s = .next (queueSeam u r)) ∧
    (findRec (queueSeam u r) q seq = findRec u q seq ∧ (queueSeam u r).tkp.seamQ = u.tkp.seamQ ++ [⟨r.q, r.seq, r.tickArg.getD (applyTick u), false⟩]) ∧
    (seamRecs v (fun c => decide (c.tick ≤ v.tkp.now) && c.checked) = [r] →
      applySeam v = pruneSeam (finish (seamApply r (dropSeam v r)) r.q r.seq stOk 0)) ∧
    (r.opcode = 0x0007 → (r.par 0 1 = 1 → let w := journalReload v
        let x : State := { w with hst := { w.hst with mirrored := true, mirrorLost := false, partner := r.par 1 1, strict := r.par 2 1 == 1, mirrorAt := r.par 8 8 } }
        seamApply r v = x.hst.journal.foldl (fun y j => mirrorStore y j.q j.seq) x) ∧
      (r.par 0 1 ≠ 1 → seamApply r v = v.hst.mirWait.foldl (fun x w => match findRec x w.1 w.2 with | some j => postDone x j false | none => x)
        { v with hst := { v.hst with mirWait := [], mirrored := false, mirrorLost := false } })) ∧
    (r.opcode = 0x0320 → r.par 0 1 < 8 → seamApply r v = v ∧ ∀ x y : FhPort, x = NMap.getD v.fh (r.par 0 1) {} →
      y = NMap.getD (fhStage (seamLand r v)).fh (r.par 0 1) {} →
      y.mode = ⟨bitsOf (r.par 8 4) 1 0, bitsOf (r.par 8 4) 1 0, x.mode.applied⟩ ∧ y.mtu = ⟨bitsOf (r.par 12 4) 29 16, bitsOf (r.par 12 4) 29 16, x.mtu.applied⟩ ∧
      y.vid = ⟨bitsOf (r.par 16 4) 11 0, bitsOf (r.par 16 4) 11 0, x.vid.applied⟩ ∧ y.rxMax = ⟨bitsOf (r.par 20 4) 28 16, bitsOf (r.par 20 4) 28 16, x.rxMax.applied⟩ ∧
      y.txAdvU = ⟨bitsOf (r.par 24 8) 12 0, bitsOf (r.par 24 8) 12 0, x.txAdvU.applied⟩ ∧
      y.maxGain = ⟨bitsOf (r.par 32 8) 31 24, bitsOf (r.par 32 8) 31 24, x.maxGain.applied⟩) ∧
    (Starts s q seq 0x0601 r → powerCapFields r u = stOk → exec (.powerCap q seq) s = .next (queueSeam (if r.tickArg = none then landed (powerCapLand r u) else u) r)) ∧
    (Starts s q seq 0x0603 r → clockModeFields r u = stOk → exec (.clockMode q seq) s = .next (queueSeam (clockModeAsk r u) r)) ∧
    applyTick u = (if u.tkp.beat ≤ 1233 then u.tkp.now + 1 else u.tkp.now + 2) ∧
    (r.opcode = 0x0500 → seamApply r v = { v with slc := { v.slc with
      pasids := (if r.par 5 1 = 1 then NMap.insert v.slc.pasids (r.par 0 4) (r.par 4 1) else NMap.erase v.slc.pasids (r.par 0 4)) } }) ∧
    (r.opcode = 0x0501 → let w := if firstQuotaKeys v (r.par 0 1) = true then drawKeys v (r.par 0 1) else v
      seamApply r v = { w with slc := { w.slc with quotas := NMap.insert w.slc.quotas (r.par 0 1) (quotaOfParams r) } }) ∧
    (r.opcode = 0x0507 → let p := (min (r.par 0 1) (r.par 1 1), max (r.par 0 1) (r.par 1 1))
      seamApply r v = { v with slc := { v.slc with pairs := (if r.par 2 1 = 1 then v.slc.pairs.filter (· ≠ p) ++ [p] else v.slc.pairs.filter (· ≠ p)) } }) ∧
    (r.opcode = 0x0601 → seamApply r v = v ∧ (r.tickArg ≠ none → capLater v r = false → seamLand r v = powerCapLand r v) ∧
      (r.tickArg = none ∨ capLater v r = true → seamLand r v = v)) ∧
    ((powerCapLand r v).pwr.cap.shadow = min (r.par 0 2) 4095 ∧ (powerCapLand r v).pwr.margin.shadow = r.par 2 1) ∧
    (r.opcode = 0x0603 → (seamApply r v).tkp.clock = r.par 0 1) ∧
    (r.opcode = 0x0620 → (seamApply r v).tim.source = r.par 0 1 ∧ (seamApply r v).tim.ptpPort = r.par 1 1 ∧ (seamApply r v).tim.domain = r.par 2 1 ∧
      (seamApply r v).tim.syncePort = r.par 3 1 ∧ (seamApply r v).tim.holdLimit = r.par 8 4) ∧
    (r.opcode = 0x0720 → (r.par 1 1 ≠ 1 → seamApply r v = { v with sec := { v.sec with keys := NMap.erase v.sec.keys (r.par 0 1) } }) ∧
      (r.par 1 1 = 1 → seamApply r v = drawKeys v (r.par 0 1)))

/-- Seam-bound commands of serving and the fabric start, wait for their seam, and complete OK there with the effect of their rule (R213, R215, R233, R252, R310, R317, R328, R331, R332, R503). -/
def Obligations.SeamBoundServingAndFabric : Prop :=
  ∀ (s v : State) (q seq : Nat) (r : JRec), let u := begun s q seq
    (Starts s q seq 0x0203 r → serveCfgFields r u = stOk → exec (.serveCfg q seq) s = .next (queueSeam u r)) ∧
    (Starts s q seq 0x0204 r → budgetSetFields r u = stOk → exec (.budgetSet q seq) s = .next (queueSeam u r)) ∧
    (Starts s q seq 0x0205 r → roleSetFields r u = stOk → exec (.roleSet q seq) s = .next (queueSeam u r)) ∧
    (Starts s q seq 0x0217 r → flashCfgFields r u = stOk → exec (.flashCfg q seq) s = .next (queueSeam u r)) ∧
    (Starts s q seq 0x0400 r → regionSetFields r u = stOk → exec (.regionSet q seq) s = .next (queueSeam u r)) ∧
    (Starts s q seq 0x0401 r → pathSetFields r u = stOk → exec (.pathSet q seq) s = .next (queueSeam u r)) ∧
    (Starts s q seq 0x0402 r → partitionSetFields r u = stOk → exec (.partitionSet q seq) s = .next (queueSeam u r)) ∧
    (Starts s q seq 0x0403 r → portFenceFields r u = stOk → exec (.portFence q seq) s = .next (queueSeam u r)) ∧
    (Starts s q seq 0x0404 r → jobtagSetFields r u = stOk → exec (.jobtagSet q seq) s = .next (queueSeam u r)) ∧
    (findRec (queueSeam u r) q seq = findRec u q seq ∧ (queueSeam u r).tkp.seamQ = u.tkp.seamQ ++ [⟨r.q, r.seq, r.tickArg.getD (applyTick u), false⟩]) ∧
    (seamRecs v (fun c => decide (c.tick ≤ v.tkp.now) && c.checked) = [r] →
      applySeam v = pruneSeam (finish (seamApply r (dropSeam v r)) r.q r.seq stOk 0)) ∧
    (r.opcode = 0x0203 → seamApply r v = { v with srv := { v.srv with
      cfgs := NMap.insert v.srv.cfgs (256 * r.par 0 1 + r.par 1 1) ⟨r.par 4 2, r.par 8 2, r.par 10 2, r.par 12 4, r.par 16 2⟩ } }) ∧
    (r.opcode = 0x0204 → ∃ b : Bucket, (seamApply r v).srv.buckets = NMap.insert v.srv.buckets (r.par 0 2) b ∧ b.rate = r.par 3 4 ∧ b.cap = r.par 7 4 ∧
      (r.par 2 1 = 1 → b.level = (BitVec.ofNat 64 (r.par 11 8)).toInt) ∧ (r.par 2 1 ≠ 1 → b.level = (NMap.getD v.srv.buckets (r.par 0 2) {}).level)) ∧
    (r.opcode = 0x0205 → ∃ ro : Role, (seamApply r v).mov.roles = NMap.insert v.mov.roles (r.par 0 1) ro ∧ ro.role = r.par 1 1 ∧
      ro.landStride = r.par 4 4 ∧ ro.landBase = r.par 8 8 ∧ ro.ringPtr = r.par 16 8) ∧
    (r.opcode = 0x0217 → seamApply r v = { v with fla := { v.fla with retainDays := r.par 0 1 } }) ∧
    (r.opcode = 0x0400 → seamApply r v = { v with fab := { v.fab with
      regions := (List.range (r.par 4 4)).foldl (fun m i => NMap.insert m (r.par 0 4 + i) (regionPar r i v.tkp.now)) v.fab.regions } }) ∧
    (r.opcode = 0x0401 →
      let l : List Machine.Path := (List.range (r.par 1 1)).map (fun i => ⟨r.par (2 + 2 * i) 1, r.par (3 + 2 * i) 1, 0, false, false⟩)
      let w : State := { v with fab := { v.fab with paths := NMap.insert v.fab.paths (r.par 0 1) l } }
      seamApply r v = pump w (r.par 0 1)) ∧
    (r.opcode = 0x0402 → let w : State := { v with fab := { v.fab with mask := BitVec.ofNat 256 (r.par 0 32) } }
      seamApply r v = w.fab.tx.foldl (fun x e => pump (denyHeld x e.1) e.1) w) ∧
    (r.opcode = 0x0403 → r.par 1 1 = 1 →
      seamApply r v = ((List.range 8).filter fun p => bitOf (r.par 0 1) p).foldl (fun x p => portLeaves x p 3) v) ∧
    (r.opcode = 0x0404 → seamApply r v = { v with fab := { v.fab with jobTags := NMap.insert v.fab.jobTags (r.par 0 1) (r.par 2 2) } })

/-- Doorbells, consumption and acceptance of commands, coalescing, and the admin queue (R354, R356, R357, R361, R364, R366, R368, R370, R397, R500). -/
def Obligations.HostQueues : Prop :=
  ∀ (s : State) (q n : Nat) (io : Bool) (x : Queue) (w : W64) (r : JRec),
    (s.hst.ready = true → q < 512 → NMap.find? s.hst.queues q = some x →
      (outstanding { x with tail := n % 2 ^ 16 } ≤ 2 ^ x.sqLog → exec (.submissionDoorbell q n) s = .next (setQueue s q { x with tail := n % 2 ^ 16 })) ∧
      (unconsumed { x with head := n % 2 ^ 16 } ≤ 2 ^ x.cqLog → exec (.completionDoorbell q n) s =
        .next (flushHeld (freeRecs (setQueue s q { x with head := n % 2 ^ 16 }) q) q))) ∧
    (NMap.find? s.hst.queues q = some x → mayConsume s q x (packetOf (nextEntry s x)) = true → (consumeTurn s).map (·.1) = some q →
      let p := packetOf (nextEntry s x)
      let u := trace (setQueue (tookTurn s q (if x.system = true then 4 else 5)) q { x with consumed := x.consumed + 1 }) 0 0 q p.seq
      let v := if p.pdev = true ∧ p.inline = false ∧ (packetParams s x.pas p io).2 = false then recordUncorrected u p.param p.len else u
      (p.seq ≤ acceptedSeq s q → exec (.commandConsume q io) s = .next (postDup u q p)) ∧
      (p.seq = acceptedSeq s q + 1 → packetStatus s q x p io = stOk →
        let y := addRec v (recOf v q x p (packetParams s x.pas p io).1 0)
        exec (.commandConsume q io) s = .next (if s.hst.mirrored = true then mirrorStore y q p.seq else y)) ∧
      (p.seq = acceptedSeq s q + 1 → packetStatus s q x p io ≠ stOk →
        exec (.commandConsume q io) s = .next (finish (takeSeq (addRec v (recOf v q x p
          (if packetStatus s q x p io = stInvalid then [] else (packetParams s x.pas p io).1) 1)) q p.seq) q p.seq (packetStatus s q x p io) 0))) ∧
    (s.hst.journal.find? (fun r => r.q == q && r.stage == 0) = some r → s.hst.mirrored = false ∨ r.mirLeft = 0 →
      (∀ t, r.tickArg = some t → applyTick s ≤ t) →
      exec (.commandAccept q) s = .next (postCpl (takeSeq (modRec { s with hst := { s.hst with order := s.hst.order + 1 } } q r.seq fun x =>
        { x with stage := 1, order := s.hst.order, tick := s.tkp.now, beat := s.tkp.beat }) q r.seq) q (cplBytes r.seq stAccepted 1 0 q r.opcode 0 s.tkp.now))) ∧
    (NMap.find? s.hst.queues q = some x → x.unsig ≠ 0 → x.unsigAt + 10 * x.coUs ≤ launch s → let u := setQueue s q { x with unsig := 0 }
      exec (.interruptCoalesceTimer q) s = .next (signalVec u x.vector)) ∧
    (s.hst.ready = true →
      let u := aqWrite s w
      let y := adminQueue u
      (w.getLsbD 8 = true → NMap.find? s.hst.queues 0 = none → bitsOf w.toNat 63 32 = s.hst.cmdsetRev → 4 ≤ y.sqLog → y.sqLog ≤ 12 → 4 ≤ y.cqLog →
        y.cqLog ≤ 12 → w.getLsbD 9 = true ∨ openRecs s 0 = [] →
        let z := createQueue (orphanEnds u) 0 y (w.getLsbD 9)
        exec (.adminQueueEnable w) s = .next { z with fw := { z.fw with beatTick := s.tkp.now } }) ∧
      (w.getLsbD 8 = false → NMap.find? s.hst.queues 0 ≠ none → openRecs s 0 = [] → exec (.adminQueueDelete w) s = .next (dropQueue u 0))) ∧
    exec .busMasteringEnable s = .next { s with hst := { s.hst with busMaster := true }, rad := { s.rad with noL2Bus := false } }

/-- Heartbeats and orphan mode, live update, stops and restarts of control processors (R404, R405, R408, R409, R410, R411, R412, R413, R414). -/
def Obligations.FirmwareCommands : Prop :=
  ∀ (s : State) (q seq cp cause c : Nat) (w : W64) (l : List (Nat × List Byte)) (b old : Bundle) (r : JRec),
    exec (.heartbeat w) s = .next { s with fw := { s.fw with beatTick := s.tkp.now } } ∧
    (s.hst.ready = true → s.hst.orphan = false →
      (s.fw.beatTick + 800 ≤ s.tkp.now → exec (.orphan l) s = .next (enterOrphan s l)) ∧
      exec (.cxlLinkDown l) s = .next (enterOrphan { s with hst := { s.hst with linkUp := false } } l)) ∧
    (s.hst.orphan = true → s.fw.quiesced = false → s.fw.orphanTick + 8000 * s.fw.orphanHold ≤ s.tkp.now →
      exec .orphanHoldExpiry s = .next ((activeCtxs s).foldl (fun x c => heldCheck (modCtx x c fun y => { y with holding := true, orphaned := true }) c)
        { s with fw := { s.fw with quiesced := true } })) ∧
    (let u := begun s q seq
     Starts s q seq 0x0600 r → u.fw.bundle = some old → r.params.length = 16 → r.par 0 8 % 64 = 0 → r.par 8 4 ≤ 2 ^ 26 → r.zeros 12 4 = true →
      usableRange u (r.par 0 8) (r.par 8 4) = true → u.fw.phase = 0 → cpDown u = false → substNow u = false → mayUpdate u = true →
      bundleFail u (withRunningOwner old b) = none → u.sec.svn ≤ b.svn → b.cmdsetRev = u.hst.cmdsetRev → importsAll old b = true → sameParts old b = true →
      exec (.fwUpdate q seq b) s =
        .next (trace (trace { u with fw := { u.fw with phase := 1, second := some b, updCmd := (q, seq) } } 5 0 0 0) 5 0 1 0)) ∧
    (s.fw.phase = 1 → s.tkp.beat = 0 → 10 ≤ planDepth s →
      exec .updateQuiesce s = .next ((List.range 8).foldl (fun x p => writeRecs x p (writtenRecs s.freeN p))
        (trace { s.takeFree.2 with fw := { s.fw with phase := 2, quiesce := s.tkp.now } } 5 0 2 s.tkp.now))) ∧
    (s.fw.phase = 2 →
      (s.fw.second = some b → s.tkp.now < s.fw.quiesce + 8 → recsGood s b = true →
        let i := (List.range 8).foldl importRecs s
        let u : State := { i with sec := { s.sec with svn := b.svn }, fw := { i.fw with
          phase := 0, second := none, bundle := some b, retained := b.cpImages, build := b.build, updates := satAdd 16 s.fw.updates 1 } }
        exec .updateCommit s = .next (finish (trace (latchAttn (recordEvent (extendM u 6 0 b.manifest) 0x9003 0 []) 2) 5 0 3 s.fw.quiesce)
          s.fw.updCmd.1 s.fw.updCmd.2 stOk 0)) ∧
      (s.fw.quiesce + 8 ≤ s.tkp.now → exec (.updateAbort none) s = .next (abortUpdate s stTimeout 0)) ∧
      exec (.updateAbort (some c)) s = .next (abortUpdate s stAborted (BitVec.ofNat 64 c))) ∧
    (1 ≤ cp → cp ≤ 7 → cpState s cp = 1 → let u := cpStops s cp cause
      exec (.cpStop cp cause) s = .next (if 4 ≤ stopsNow u cp then cpHeld u cp
        else latchAttn (recordEvent (cpRestarts u cp) 0x9001 0 []) 2)) ∧
    (cpState s 0 = 1 → let u := cpStops s.takeFree.2 0 s.takeFree.1.toNat
      stopsNow u 0 < 4 → let v := cpRestarts u 0
      exec .cp0WatchdogExpiry s = .next (buildReport (latchAttn { v with fw := { v.fw with restartAt := restartsWait v (restartTick u 0) } } 2) 4 false))

/-- Slice mailboxes: sending, delivery, timeout, freeing of the ring (R374, R375, R377). -/
def Obligations.Mailboxes : Prop :=
  ∀ (s : State) (page : Nat) (v : W32),
    let x := mbxAt s page
    (page ≤ 64 → x.pending = false →
      let kind := bitsOf v.toNat 1 0
      let index := bitsOf v.toNat 7 2
      (sendStatus s page kind index = stOk → exec (.noticeSend page v) s =
        .next (setMbx s page { x with pending := true, sendTo := (kind, index), sentTick := s.tkp.now, msgSeq := (x.msgSeq + 1) % 2 ^ 32 })) ∧
      (sendStatus s page kind index ≠ stOk → exec (.noticeSend page v) s =
        .next (setMbx s page { x with status := withClass s (sendStatus s page kind index) }))) ∧
    (x.pending = true →
      (receiverTakes s (receiverOf x.sendTo) = true →
        let n := stampNotice x.send (senderOf page) s.tkp.now x.msgSeq
        let d := receiverOf x.sendTo
        let u : State := if d ≤ 64 then ringNotice s d n else { s with slc := { s.slc with cpIn := NMap.modify s.slc.cpIn [] (d - 65) fun l => n :: l } }
        exec (.noticeDeliver page) s = .next (setMbx u page { mbxAt u page with pending := false, status := withClass u stOk })) ∧
      (x.sentTick + sendTicks x ≤ s.tkp.now → exec (.noticeTimeout page) s =
        .next (setMbx s page { x with pending := false, status := withClass s stTimeout }))) ∧
    (page ≤ 64 → (v.toNat % 2 ^ 16 + 2 ^ 16 - x.rxHead) % 2 ^ 16 ≤ ringUsed x →
      exec (.slcRxHeadWrite page v) s = .next (setMbx s page { x with rxHead := v.toNat % 2 ^ 16 }))

/-- NOP, queues, identity, reports, attention, the repair map, and register writes (R5, R88, R355, R359, R360, R362, R367, R372). -/
def Obligations.AdminCommands : Prop :=
  ∀ (s : State) (q seq off : Nat) (w : W64) (r : JRec), let u := begun s q seq
    (r.params = [] →
      (Starts s q seq 0x0000 r → exec (.nop q seq) s = .next (finish u q seq stOk 0)) ∧
      (Starts s q seq 0x0003 r → exec (.identify q seq) s = .next (finishWith u q seq stOk 0 (identityPage u))) ∧
      (Starts s q seq 0x0004 r → exec (.recoveryGet q seq) s = .next (finishWith u q seq stOk 0 u.hst.reportBytes)) ∧
      (Starts s q seq 0x0602 r → exec (.repairMapGet q seq) s = .next (finishWith u q seq stOk 0 (repairMapBytes u)))) ∧
    (Starts s q seq 0x0001 r → queueCreateStatus u r = stOk → exec (.queueCreate q seq) s =
      .next (finish (createQueue u (r.par 0 2) (queueOfParams r) ((r.par 2 2).testBit 0)) q seq stOk 0)) ∧
    (Starts s q seq 0x0002 r → r.params.length = 2 → r.par 0 2 ≠ 0 → NMap.find? u.hst.queues (r.par 0 2) ≠ none → openRecs u (r.par 0 2) = [] →
      exec (.queueDelete q seq) s = .next (finish (dropQueue u (r.par 0 2)) q seq stOk 0)) ∧
    (Starts s q seq 0x0006 r → r.params.length = 1 → r.par 0 1 % 2 = 0 → exec (.attnAck q seq) s = .next (finish { u with hst := { u.hst with
      pending := u.hst.pending.filter fun e => !((r.par 0 1).testBit e.1 && decide (e.2 ≤ r.order)) } } q seq stOk 0)) ∧
    (Starts s q seq 0x0008 r → r.params.length = 1 → exec (.mirrorReport q seq) s =
      .next (finishWith u.takeFree.2 q seq stOk 0 (mirrorReport u.takeFree.2 (r.par 0 1) u.takeFree.1.toNat))) ∧
    exec (.registerWrite false 0x100008 w) s = .next { s with hst := { s.hst with aqSq := w &&& 0xFFFFFFFFFFFFFFC0 } } ∧
    exec (.registerWrite false 0x100010 w) s = .next { s with hst := { s.hst with aqCq := w &&& 0xFFFFFFFFFFFFFFC0 } } ∧
    exec (.registerWrite true 0x1C00000 w) s = .next (landed { s with pwr := { s.pwr with
      cap := s.pwr.cap.write (bitsOf w.toNat 11 0), margin := s.pwr.margin.write (bitsOf w.toNat 23 16) } }) ∧
    exec (.registerWrite false off w) s = .next (hostRegWrite s off w) ∧ exec (.registerWrite true off w) s = .next (firmwareRegWrite s off w)

/-- Resets: how they are asked for, and what a warm, a function and a slice reset do (R14, R395, R471, R474, R481, R497, R498, R499, R500, R501). -/
def Obligations.ResetCommands : Prop :=
  ∀ (s : State) (q seq kind slice : Nat) (b : BistResult) (l : List (Nat × List Byte)) (r : JRec) (a : Nat × Option (Nat × Nat)),
    (let u := begun s q seq
     Starts s q seq 0x0005 r → r.params.length = 2 →
      (r.par 0 1 = 3 → r.par 1 1 ≤ 63 → exec (.resetReq q seq) s = .next (askSlice u (r.par 1 1) (some (q, seq)))) ∧
      (r.par 0 1 = 1 ∨ r.par 0 1 = 2 → u.start.readyOnce = true → exec (.resetReq q seq) s =
        .next (askReset u (if r.par 0 1 = 1 then 2 else 1) [(q, seq)])) ∧
      (∀ k, (q, seq) ∈ (askReset u k [(q, seq)]).start.waiting)) ∧
    (∀ v : State, v.start.sliceAsk = [] → v.start.waiting = [(q, seq)] →
      resetEnds v = finish { v with start := { v.start with reset_ := 0, waiting := [] , sliceAsk := [] } } q seq stOk 0) ∧
    (∀ v : State, v.tkp.beat ≥ 20 → v.slc.scrubBy = [(slice, (q, seq))] →
      settleScrubs v = sliceResetEnds { v with tiles := v.tiles.map fun (t : Nat × Tile) =>
        if t.2.state = .scrub then (t.1, { t.2 with state := idleState v t.1 }) else t } slice q seq) ∧
    (s.pwr.pwrGood = true → cpState s 7 = 1 →
      (kind = 0 → exec (.resetRequest kind slice) s = .next (coldLoss s)) ∧
      (kind = 3 → slice ≤ 63 → exec (.resetRequest kind slice) s = .next (vendorReply (askSlice s slice none) 0x05 stOk [])) ∧
      (kind = 1 ∨ kind = 2 → s.start.readyOnce = true → exec (.resetRequest kind slice) s =
        .next (vendorReply (askReset s (if kind = 1 then 2 else 1) []) 0x05 stOk []))) ∧
    (s.pwr.pwrGood = true → s.start.readyOnce = true → s.ras.state ≠ 2 →
      (s.tkp.beat = 0 →
        let u := discardLines (warmFabric (breakLists (warmRadio (warmStop s)))) l
        let v := buildRepair (debugCloses { u with sec := { u.sec with nonce := none } }) b
        v.2 = none → exec (.warmReset b (BitVec.allOnes 32) l) s = .next (dropDone (warmReady (warmContexts (warmServing (warmFirmware v.1)))))) ∧
      (s.start.reset_ < 2 →
        let u := (s.hst.queues.map fun (x : Nat × Queue) => x.1).foldl dropQueue (discardLines s l)
        let v : State := { u with
          hst := { u.hst with aqSq := 0, aqCq := 0, aqCfg := 0x44, aqVersion := false, aqInvalid := false, aqBusy := false, msix := [], msixTab := [], pba := [], busMaster := false }
          mem := { u.mem with hostBias := [] }
          slc := { u.slc with pages := u.slc.pages.map fun (p : Nat × Page) => (p.1, { p.2 with ctrl := 0x14 }) }
          rad := { u.rad with noL2Bus := true } }
        exec (.functionReset l) s = .next (resetEnds (buildReport (debugCloses v) 3 false)))) ∧
    (s.start.reset_ ≠ 0 → exec (.sliceReset slice) s = .next s) ∧
    (s.start.sliceAsk.find? (fun a => a.1 == slice) = some a → s.tkp.beat = 0 → s.start.reset_ = 0 →
      let cmds := (s.start.sliceAsk.filter fun a => a.1 == slice).filterMap fun a => a.2
      let u := renewKeys (sliceTorn { s with start := { s.start with sliceAsk := s.start.sliceAsk.filter fun a => a.1 != slice } } slice) slice
      let v : State := { u with slc := { u.slc with scrubBy := NMap.insert u.slc.scrubBy slice (cmds.head?.getD (512, 0))
                                                    pages := NMap.modify u.slc.pages {} slice fun x => { x with inReset := true } } }
      exec (.sliceReset slice) s = .next ((cmds.drop 1).foldl (fun x c => finish x c.1 c.2 stOk 0) v))

/-- Contexts: creation, destruction, holds, switches, teardown and release; images (R68, R363, R386, R389, R391, R392, R393, R394). -/
def Obligations.ContextCommands : Prop :=
  ∀ (s : State) (q seq c id : Nat) (x : Ctx) (r : JRec) (im : Image) (e : Nat × Nat), let u := begun s q seq
    (let sl := r.par 0 1
     Starts s q seq 0x0502 r → ctxCreateOk u r = true → (r.par 1 1 = 1 → servingCtx u sl = none) → ctxCount u sl < (quotaOf u sl).contexts →
      memCharged u sl + r.par 16 8 ≤ 2 ^ 20 * (quotaOf u sl).memMib → freeCtx u = some c →
      let y : Ctx := { slice := sl, serving := r.par 1 1 == 1, extents := extentsOfParams r, landing := r.par 8 8, landBytes := r.par 16 8, fresh := true }
      exec (.ctxCreate q seq) s = .next (finish (ctxState { u with slc := { u.slc with ctxs := NMap.insert u.slc.ctxs c y } } c 1) q seq stOk (BitVec.ofNat 64 c))) ∧
    (r.par 0 2 = c → c ≤ 1023 → ctxAt u c = x →
      (Starts s q seq 0x0503 r → r.params.length = 2 → x.state = 1 → (x.serving = true → liveOf u x.slice = []) → ctxOutstanding u c = [] →
        exec (.ctxDestroy q seq) s = .next (finish (ctxFree u c) q seq stOk 0)) ∧
      (Starts s q seq 0x0504 r → r.params.length = 3 → r.par 2 1 ≤ 1 → x.state = 3 → exec (.ctxHold q seq) s =
        .next (heldCheck (modCtx u c fun y => { y with holding := true, holdAsk := y.holdAsk ++ [(q, seq, r.par 2 1 == 1)] }) c)) ∧
      (Starts s q seq 0x0505 r → r.params.length = 2 → x.state = 4 → holdsOut x = false → exec (.ctxResume q seq) s =
        .next (finish (ctxState (modCtx u c fun y => { y with holding := false, orphaned := false }) c 3) q seq stOk 0)) ∧
      (Starts s q seq 0x0506 r → r.params.length = 2 → exec (.ctxQuery q seq) s =
        .next (finishWith u q seq stOk 0 (if x.state = 0 then List.replicate 64 0 else ctxRecord u c)))) ∧
    (s.tkp.beat = 0 → ctxAt s id = x →
      (x.state = 4 → holdsOut x = true → x.changed < s.tkp.now →
        let v := modCtx (ctxState s id 5) id fun y => { y with left := regionsOf y.extents (·.save) }
        exec (.ctxSaveStart id) s = .next (if (ctxAt v id).left = [] then saveDone v id else v)) ∧
      (waitsRestore s x = true → resumeExam s id = 1 →
        (∀ o ∈ rivals s id, waitsRestore s o.2 = true → resumeOrder s o.2 < resumeOrder s x → resumeExam s o.1 ≠ 1) →
        let v := modCtx (ctxState s id 2) id fun y => { y with left := regionsOf y.extents (fun _ => true), restoreAt := none }
        exec (.ctxRestoreStart id) s = .next (modCtx v id fun y => { y with readyAt := if y.left.isEmpty = true then some s.tkp.now else none })) ∧
      (∀ t, x.state = 2 → x.left = [] → x.readyAt = some t → t ≤ s.tkp.now →
        let v := modCtx (ctxState s id 3) id fun y => { y with readyAt := none, resumeAsk := none, fresh := false, holding := false }
        exec (.ctxActivate id) s = .next (match x.resumeAsk with | some (q, seq) => finish v q seq stOk 0 | none => v)) ∧
      (s.dies.torn.find? (fun (e : Nat × Nat) => e.1 == id) = some e → x.state ≠ 0 → x.state ≠ 6 → exec (.contextTeardown id) s =
        .next (tearDown { s with dies := { s.dies with torn := s.dies.torn.filter fun x => x.1 != id } } id e.2 false)) ∧
      (x.state = 6 → x.changed < s.tkp.now → ctxOutstanding s id = [] → exec (.contextRelease id) s = .next (ctxFree s id))) ∧
    (let n := r.par 4 4
     Starts s q seq 0x0508 r → r.params.length = 16 → r.par 0 1 < 16 → r.par 1 1 = 0 → r.par 2 2 ≤ 1023 → 64 ≤ n → n ≤ 64 + 32 * 8192 → r.pdev = false →
      (loadImage u (maskDies (r.par 0 1)) (r.par 2 2) n (hostRead u r.pasid (r.par 8 8) n) false).2 = some im →
      let put := fun (m : NMap Image) => (maskDies (r.par 0 1)).foldl (fun m d => NMap.insert m (1024 * d + r.par 2 2) im) m
      exec (.kernelLoad q seq) s = .next (finish { u with dies := { u.dies with images := put u.dies.images, copies := put u.dies.copies } }
        q seq stOk (BitVec.ofNat 64 im.bound)))

/-- Debug access, the entropy source, and the recorder's windows and persistence (R457, R470, R471, R485, R487, R489). -/
def Obligations.SecurityAndRecorder : Prop :=
  ∀ (s : State) (q seq : Nat) (all : Bool) (r : JRec), let u := begun s q seq
    (Starts s q seq 0x0710 r → r.params = [] → u.sec.noRandom = false → let f := freeWords 4 u
      exec (.debugNonce q seq) s = .next (finishWith { f.2 with sec := { f.2.sec with nonce := some (f.1, u.tkp.now + 80000) } } q seq stOk 0 f.1)) ∧
    (Starts s q seq 0x0711 r → r.params.length = 4699 → r.par 0 4 = 0x4B544244 → 1 ≤ r.par 4 1 → r.par 4 1 ≤ 2 → r.zeros 5 3 = true →
      (r.par 4 1 = 2 → u.sec.keys = []) → tokenOk u r.params = true →
      let v := latchAttn (recordEvent (extendM { u with sec := { u.sec with nonce := none } } 7 0 r.params) 0xA005 srcSp []) 5
      exec (.debugUnlock q seq) s = .next (finish { v with sec := { v.sec with debug := r.par 4 1, tapOpen := true } } q seq stOk 0)) ∧
    (Starts s q seq 0x0712 r → r.params = [] →
      exec (.debugLock q seq) s = .next (finish { u with sec := { u.sec with debug := 0, tapOpen := false } } q seq stOk 0)) ∧
    (s.pwr.pwrGood = true → s.sec.noRandom = false → exec .entropyFail s =
      .next (latchAttn (recordEvent { s with sec := { s.sec with noRandom := true } } 0xA006 srcSp []) 5)) ∧
    (s.evr.sumNo < windowsEnded s → exec .summaryWindow s =
      .next ((s.evr.buckets.map fun (e : Nat × RateB) => e.1).foldl summaryOf { s with evr := { s.evr with sumNo := windowsEnded s } })) ∧
    (s.evr.path = 0 →
      (cpState s 7 = 1 → (all = true → s.evr.batchNo < windowsEnded s) → let v := persistRecs s fun r => all || decide (2 ≤ r.sev)
        exec (.persistBatch all) s = .next (if all = true then persistOps { v with evr := { v.evr with batchNo := windowsEnded s } } else v)) ∧
      (let v := loseCopy s.takeFree.2 (s.takeFree.1.toNat % 2)
       exec .persistPathChange s = .next (recordEvent { v with evr := { v.evr with path := 1, anchorDue := true } } 0xD003 srcHw [])))

/-- The SPDM responder answers each request in its order (R459, R468, R469). -/
def Obligations.SpdmExchange : Prop :=
  ∀ (s : State) (m : Bool) (slot off len i code : Nat) (n chain : List Byte), s.pwr.pwrGood = true →
    exec (.getVersion m false) s = .next (spdmAnswer { s with sec := { s.sec with spdm := 1, transcript := [] } } m 0x84 [] 0x04 [0x13]) ∧
    (1 ≤ s.sec.spdm → exec (.getCapabilities m false) s =
      .next (spdmAnswer { s with sec := { s.sec with spdm := max 2 s.sec.spdm } } m 0xE1 [] 0x61 (leBytes 4 0x36))) ∧
    (2 ≤ s.sec.spdm → exec (.negotiateAlgorithms m false) s =
      .next (spdmAnswer { s with sec := { s.sec with spdm := 3 } } m 0xE3 [] 0x63 (leBytes 1 0x0A ++ leBytes 2 0x4287))) ∧
    (3 ≤ s.sec.spdm →
      (certChain s = some chain →
        exec (.getDigests m false) s = .next (spdmAnswer s m 0x81 [] 0x01 (sha3_512 chain)) ∧
        (slot = 0 → off < chain.length → let part := (chain.drop off).take len
          exec (.getCertificate m false slot off len) s = .next (spdmAnswer s m 0x82 (leBytes 1 slot ++ leBytes 2 off ++ leBytes 2 len) 0x02
            (leBytes 2 part.length ++ leBytes 2 (chain.length - off - part.length) ++ part)))) ∧
      (i ≤ 10 ∨ i = 0xFF → exec (.getMeasurements m false i false n) s = .next (spdmAnswer s m 0xE0 (leBytes 1 i) 0x60 (measContent s i))) ∧
      (s.sec.noRandom = false → s.sec.identity = true → n.length = 32 → let f := freeWords 4 s
        let answer := fun (req : Nat) (body : List Byte) (resp : Nat) (c : List Byte) =>
          let v := spdmLog f.2 req body resp c
          spdmSend v m resp stOk (c ++ Config.sign v.sec.sk v.sec.transcript)
        exec (.challenge m false n) s = .next (answer 0x83 n 0x03 (sha3_512 ((certChain s).getD []) ++ f.1)) ∧
        (i ≤ 10 ∨ i = 0xFF → exec (.getMeasurements m false i true n) s = .next (answer 0xE0 (leBytes 1 i ++ n) 0x60 (measContent s i ++ f.1))))) ∧
    (code ∉ spdmKnown → exec (.unsupportedRequest m false code) s = .next (spdmSend s m 0x7F stOk (leBytes 1 7)))

/-- The I3C sideband: addressing, MCTP control, PLDM and the vendor messages (R4, R475, R476, R479, R480, R481, R488, R489, R490). -/
def Obligations.SidebandCommands : Prop :=
  ∀ (s : State) (n m ty op pc : Nat) (es : List (List Byte)), s.pwr.pwrGood = true →
    (n < 128 → let f := s.takeFree
      exec (.entdaa n) s = .next (respond { f.2 with evr := { f.2.evr with i3cAddr := some n } } 0x100 0
        (beBytes 6 (2 ^ 32 * (f.1.toNat % 2 ^ 16) + 2 ^ 16 * 0x4824 + 2 ^ 12 * (f.1.toNat / 2 ^ 16 % 16) + leNat s.sec.pid % 4096)))) ∧
    (1 ≤ n → n < 255 → exec (.setEndpointId n) s = .next (respond { s with evr := { s.evr with eid := n } } 0 0 (leBytes 1 n))) ∧
    exec .getEndpointId s = .next (respond s 0 0 (leBytes 1 s.evr.eid)) ∧
    (ty ∈ [0x00, 0x01, 0x05, 0x7F, 0xFF] → exec (.getMctpVersionSupport ty) s = .next (respond s.takeFree.2 0 0 (leBytes 8 s.takeFree.1.toNat))) ∧
    exec .getMessageTypeSupport s = .next (respond s 0 0 [0x01, 0x05, 0x7F]) ∧
    exec (.getVendorDefinedMessageSupport 0) s = .next (respond s 0 0 (leBytes 1 0xFF ++ leBytes 1 1 ++ beBytes 4 Config.vendorIana.toNat)) ∧
    (cpState s 7 = 1 →
      exec (.pldmBase 4) s = .next (respond s 1 0 (leBytes 8 0b101)) ∧
      exec .getPdrRepositoryInfo s = .next (respond s 1 0 (leBytes 4 15)) ∧
      (1 ≤ n → n ≤ 15 →
        exec (.getPdr n) s = .next (respond s 1 0 (leBytes 4 n ++ leBytes 1 (sensorUnit n) ++ ((sensorLimits s n).map limitBytes).flatten)) ∧
        exec (.getSensorReading n) s = .next (respond s 1 0 (leBytes 4 (BitVec.ofInt 32 (s.pwr.sensors.getD (n - 1) 0)).toNat))) ∧
      exec (.alertAck n) s = .next (vendorReply (markPersisted { s with evr := { s.evr with ackSeq := max s.evr.ackSeq n } }) 0x02 stOk []) ∧
      exec .anchorGet s = .next (vendorReply s 0x04 stOk (leBytes 5 (opsecNow s) ++ leBytes 3 s.evr.pcc ++ leBytes 2 (keptList s).length ++ (keptList s).flatten)) ∧
      (let u : State := { s with ras := { s.ras with clearRetire := true, retiredHere := [] } }
       let v : State := if s.evr.path = 0 then { u with evr := { u.evr with flashRetire := [] } } else u
       exec .retireClear s = .next (vendorReply (recordEvent v 0xD002 7 []) 0x08 stOk []))) ∧
    (1 ≤ m → m ≤ 32 → let rs := ((recsBySeq s).filter fun r => decide (n ≤ r.seq)).take m
      exec (.recorderRead n m) s = .next (markPersisted (mapRecs (vendorReply s 0x01 stOk (rs.map recordBytes).flatten) fun r =>
        { r with returned := r.returned || rs.any fun x => x.seq == r.seq }))) ∧
    (es.length ≤ 256 → (∀ e ∈ es, e.length = 16) → s.evr.path ≠ 0 → s.evr.early = true →
      let u : State := { s with evr := { s.evr with anchorDue := false, path := 1, unanchored := false } }
      let v := if s.evr.bistDone = true then mapRecs u fun r => { r with unanchored := false } else u
      exec (.anchorSet op pc es) s = .next (vendorReply (anchorList (loadAnchor v (op % 2 ^ 40) (pc % 2 ^ 24)) es) 0x03 stOk []))

/-- A step takes the command at the front of the queue, and with an empty queue one beat passes (R44, R45, R503). -/
def Obligations.StepRunsFront : Prop :=
  (∀ (c : Instr) (rest : List Instr) (s : State),
    step { s with pending := c :: rest } = exec c { s with pending := rest }) ∧
  (∀ s : State, s.pending = [] →
    (s.pwr.pwrGood = false → step s = .next s) ∧
    (s.pwr.pwrGood = true → ∃ t, step s = .next t ∧ t.tkp.beat = min (s.tkp.beat + 1) 1249 ∧
      (s.tkp.beat < 1249 → t.tim.raw = rawOn s (125000 * s.tkp.now + 100 * (s.tkp.beat + 1))) ∧ (1249 ≤ s.tkp.beat → t.tim.raw = s.tim.raw) ∧
      (s.tkp.beat ≠ 1233 → t.pending = [] ∧ t.tkp.now = s.tkp.now ∧ t.mem = s.mem ∧ t.tiles = s.tiles) ∧
      (s.tkp.beat = 1233 → t.tkp.now = (checkSeam s).tkp.now ∧ t.mem = (checkSeam s).mem ∧ t.tiles = (checkSeam s).tiles)))

/-- What reset leaves (R5, R44, R45). -/
def Obligations.ResetState : Prop :=
  State.reset.Inv ∧ State.reset.pending = [] ∧ State.reset.mem.dev = [] ∧ State.reset.mem.host = [] ∧
  State.reset.tkp.now = 0 ∧ State.reset.tkp.beat = 0 ∧ State.reset.pwr.pwrGood = false ∧
  State.reset.pwr.cap.applied = 1800 ∧ State.reset.pwr.cap.shadow = 1800 ∧ State.reset.pwr.margin.applied = 40 ∧
  State.reset.hst.aqSq = 0 ∧ State.reset.hst.aqCq = 0 ∧ State.reset.hst.ready = false ∧ State.reset.hst.orphan = false ∧ State.reset.sec.debug = 0 ∧
  (∀ p, (mbxAt State.reset p).ctrl = 0x14 ∧ (mbxAt State.reset p).rxHead = 0) ∧
  (∀ p, (NMap.getD State.reset.fh p {}).mode.applied = 0 ∧ (NMap.getD State.reset.fh p {}).mtu.applied = 0x2580 ∧
    (NMap.getD State.reset.fh p {}).mantTx.applied = 9 ∧ (NMap.getD State.reset.fh p {}).vid.applied = 0) ∧
  (∀ t n, (tileAt State.reset t).getS n = 0 ∧ (tileAt State.reset t).getA n = 0 ∧ (tileAt State.reset t).getV n = zeroLanes)

/-- Every step keeps the canonical form of both memories, a beat of the tick, and the order of the queue (R45). -/
def Obligations.StepKeepsInv : Prop :=
  ∀ (s s' : State), s.Inv → step s = .next s' → s'.Inv ∧ s'.pending = s.pending.tail

/-- The decoders of the array, vector/signal, load/store and DMA/skew slots read back every word that a well-formed operation is written as (R97, R98, R106, R107, R145, R146, R148, R153, R155, R156, R157). -/
def Obligations.SlotRoundTrip : Prop :=
  ∀ (i : Instr) (w : Nat), i.wellFormed = true →
    (∀ n, arrEnc i = some (n, w) → w < 2 ^ 40 ∧ ∃ t c, arrDec t c n w = .op i) ∧
    (vecEnc i = some w → w < 2 ^ 56 ∧ ∃ t c, vecDec t c w = .op i) ∧
    (∀ y, lsEnc i = some (y, w) → w < 2 ^ 32 ∧ ∃ t c, lsDec t c y w = .op i) ∧
    (dmaEnc i = some w → w < 2 ^ 32 ∧ ∃ t c, dmaDec t c w = .op i)

/-- A result is read from the cycle of its latency on, and not before (R147). -/
def Obligations.ResultVisible : Prop :=
  ∀ (x : Tile) (c lat k n : Nat) (v : List W32) (u : W64) (a : BitVec 24), pendSorted x.pend →
    (x.Quiet 0 n → (c + lat ≤ k → ((x.flies (c + lat) (.vreg n v)).land k).getV n = v) ∧
      (k < c + lat → ((x.flies (c + lat) (.vreg n v)).land k).getV n = x.getV n)) ∧
    (x.Quiet 1 n → (c + lat ≤ k → ((x.flies (c + lat) (.sreg n u)).land k).getS n = u) ∧
      (k < c + lat → ((x.flies (c + lat) (.sreg n u)).land k).getS n = x.getS n)) ∧
    (x.Quiet 2 n → (c + lat ≤ k → ((x.flies (c + lat) (.areg n a)).land k).getA n = a) ∧
      (k < c + lat → ((x.flies (c + lat) (.areg n a)).land k).getA n = x.getA n)) ∧
    pendSorted (x.flies (c + lat) (.vreg n v)).pend

/-- A host write changes the bytes that it names and no other (R13, R167, R169). -/
def Obligations.HostWriteFrame : Prop :=
  ∀ (s : State) (addr : Nat) (bytes : List Byte), s.memOk → usableRange s addr bytes.length = true →
    ∃ t, exec (.hostMemWrite addr bytes) s = .next t ∧ t.mem.host = s.mem.host ∧
      (∀ a, a < addr ∨ addr + bytes.length ≤ a → Memory.read t.mem.dev a = Memory.read s.mem.dev a) ∧
      (isProtected s addr bytes.length = true → t.mem.dev = s.mem.dev) ∧
      (isProtected s addr bytes.length = false → badRange s addr bytes.length = false →
        ∀ i, i < bytes.length → Memory.read t.mem.dev (addr + i) = bytes.getD i 0)

/-- Of several writes to a seam-bound field only the last is applied (R6). -/
def Obligations.LastWriteApplies : Prop :=
  (∀ (s : State) (o : Nat) (v w : W64), ∃ a t, exec (.registerWrite true o v) s = .next a ∧ exec (.registerWrite true o w) a = .next t ∧
    exec (.registerWrite true o w) s = .next t ∧
    a.pwr.cap.applied = s.pwr.cap.applied ∧ a.pwr.cap.staging = s.pwr.cap.staging ∧
    a.pwr.margin.applied = s.pwr.margin.applied ∧ a.pwr.margin.staging = s.pwr.margin.staging ∧
    (∀ p, fhFields (fun r => ⟨0, r.staging, r.applied⟩) (NMap.getD a.fh p {}) = fhFields (fun r => ⟨0, r.staging, r.applied⟩) (NMap.getD s.fh p {})) ∧
    (o = 0x1C00000 → (pwrApply (pwrStage t)).pwr.cap.applied = clampCap (bitsOf w.toNat 11 0) ∧
      (pwrApply (pwrStage t)).pwr.margin.applied = clampMargin (bitsOf w.toNat 23 16))) ∧
  (∀ (r : Rwt) (v w : Nat), ((r.write v).write w).stage.apply.applied = w ∧ (r.write v).applied = r.applied)

/-- The neighbours of a tile are the tiles of its die next to it in the grid of 4 rows and 10 columns (R83). -/
def Obligations.TileNeighbours : Prop :=
  ∀ t, t < 160 →
    (∀ n, n ∈ neighbours t ↔ n < 160 ∧ n / 40 = t / 40 ∧
      ((n % 40 / 10 = t % 40 / 10 ∧ (n % 40 % 10 + 1 = t % 40 % 10 ∨ t % 40 % 10 + 1 = n % 40 % 10)) ∨
       (n % 40 % 10 = t % 40 % 10 ∧ (n % 40 / 10 + 1 = t % 40 / 10 ∨ t % 40 / 10 + 1 = n % 40 / 10)))) ∧
    2 ≤ (neighbours t).length ∧ (neighbours t).length ≤ 4 ∧ (neighbours t).Nodup

/-- A duplicate packet is answered with one completion with DUP and is never executed (R370). -/
def Obligations.DuplicatePackets : Prop :=
  ∀ (s : State) (q : Nat) (io : Bool) (x : Queue), NMap.find? s.hst.queues q = some x →
    let p := packetOf (nextEntry s x)
    let u := trace (setQueue (tookTurn s q (if x.system = true then 4 else 5)) q { x with consumed := x.consumed + 1 }) 0 0 q p.seq
    mayConsume s q x p = true → (consumeTurn s).map (·.1) = some q → p.seq ≤ acceptedSeq s q →
    ∃ (t : State) (c : List Byte), exec (.commandConsume q io) s = .next t ∧ t = postCpl u q c ∧ t.hst.journal = s.hst.journal ∧
      t.hst.accSeq = s.hst.accSeq ∧ fieldAt c 0 8 = p.seq ∧ fieldAt c 11 1 / 2 % 2 = 1 ∧
      (∀ r, findRec s q p.seq = some r → r.stage ≠ 3 → fieldAt c 10 1 = 1 ∧ fieldAt c 8 2 = stAccepted) ∧
      (∀ r, findRec s q p.seq = some r → r.stage = 3 → r.status < 65536 → fieldAt c 10 1 = 2 ∧ fieldAt c 8 2 = r.status ∧ fieldAt c 16 8 = r.value.toNat) ∧
      (findRec s q p.seq = none → fieldAt c 10 1 = 2 ∧ fieldAt c 8 2 = stStale)

/-- While CP7 does not run, PLDM and vendor messages are answered, and MCTP control and SPDM go on (R477). -/
def Obligations.ManagementWhileStopped : Prop :=
  ∀ (s : State), s.pwr.pwrGood = true →
    (cpState s 7 ≠ 1 → ∀ (n m : Nat) (b : List Byte),
      exec (.pldmBase n) s = .next (respond s 1 0x04 []) ∧ exec .getPdrRepositoryInfo s = .next (respond s 1 0x04 []) ∧
      exec (.getPdr n) s = .next (respond s 1 0x04 []) ∧ exec (.getSensorReading n) s = .next (respond s 1 0x04 []) ∧
      exec (.alertAck n) s = .next (vendorReply s 0x02 stBusy []) ∧ exec .anchorGet s = .next (vendorReply s 0x04 stBusy []) ∧
      exec (.resetRequest n m) s = .next (vendorReply s 0x05 stBusy []) ∧ exec (.stressRun n) s = .next (vendorReply s 0x06 stBusy []) ∧
      exec (.contrailSet b) s = .next (vendorReply s 0x07 stBusy []) ∧ exec .retireClear s = .next (vendorReply s 0x08 stBusy [])) ∧
    (∀ (m : Bool) (cps : NMap Nat) (o : Bool) (slot off len i code eid type : Nat) (sign : Bool) (nonce : List Byte) (entries : List (List Byte)),
      ∀ c ∈ [Instr.getVersion m false, .getCapabilities m false, .negotiateAlgorithms m false, .getDigests m false, .getCertificate m false slot off len,
             .challenge m false nonce, .getMeasurements m false i sign nonce, .unsupportedRequest m false code, .setEndpointId eid, .getEndpointId,
             .getMctpVersionSupport type, .getMessageTypeSupport, .getVendorDefinedMessageSupport i, .entdaa eid, .recorderRead off len,
             .anchorSet off len entries],
      ∃ t, exec c s = .next t ∧
        exec c { s with fw := { s.fw with cpState := cps }, hst := { s.hst with orphan := o } } =
          .next { t with fw := { t.fw with cpState := cps }, hst := { t.hst with orphan := o } })
end

