-- ==== Sys2Proof/Laws/Commands.lean ====
section
/-!
SUPPORT. How a host command comes to its effect, said once: one that may start starts, one that may not changes nothing, and a
seam-bound one waits in its shadow (16 R369, R371, R503).
-/
namespace Sys2Proof.Machine

/-- A command that may start has its effect in the state in which it has started. -/
theorem withCmd_starts (s : State) (q seq op : Nat) (r : JRec) (f : JRec → State → State) (h : Starts s q seq op r) :
    withCmd s q seq op f = f r (begun s q seq) := by
  obtain ⟨h1, h2, h3⟩ := h
  simp [withCmd, h1, h2, h3, begun]

/-- The record of a command that may start carries the queue and the sequence number by which it was found. -/
theorem starts_key (s : State) (q seq op : Nat) (r : JRec) (h : Starts s q seq op r) : r.q = q ∧ r.seq = seq := by
  have := List.find?_some h.1
  simpa using this

/-- A command without a record has no effect. -/
theorem withCmd_absent (s : State) (q seq op : Nat) (f : JRec → State → State) (h : findRec s q seq = none) :
    withCmd s q seq op f = s := by
  simp [withCmd, h]

/-- A seam-bound command whose checks pass is queued for its seam. -/
theorem withSeamCmd_ok (s : State) (q seq op : Nat) (r : JRec) (f : JRec → State → Nat) (h : Starts s q seq op r)
    (hf : f r (begun s q seq) = stOk) : withSeamCmd s q seq op f = queueSeam (begun s q seq) r := by
  unfold withSeamCmd
  rw [withCmd_starts _ _ _ _ _ _ h]
  simp [hf]

end Sys2Proof.Machine
end

