-- ==== Sys2Proof/Laws/Exec.lean ====
section
/-!
SUPPORT. What exec is at each command: one call of its meaning.
-/
namespace Sys2Proof.Machine

@[simp] theorem exec_powerUp (v : RailLevels) (s : State) : exec (.powerUp v) s = execPowerUp v s := rfl
@[simp] theorem exec_powerDown (s : State) : exec .powerDown s = execPowerDown s := rfl
@[simp] theorem exec_coldStart (selfTestOk sramOk : Bool) (pufReads : List (List Byte)) (pufKey : List Byte) (s : State) : exec (.coldStart selfTestOk sramOk pufReads pufKey) s = execColdStart selfTestOk sramOk pufReads pufKey s := rfl
@[simp] theorem exec_brownout (v : InputLevels) (s : State) : exec (.brownout v) s = execBrownout v s := rfl
@[simp] theorem exec_brownoutShutdown (s : State) : exec .brownoutShutdown s = execBrownoutShutdown s := rfl
@[simp] theorem exec_overvolt (v : InputLevels) (s : State) : exec (.overvolt v) s = execOvervolt v s := rfl
@[simp] theorem exec_overvoltClear (vinMv : Nat) (s : State) : exec (.overvoltClear vinMv) s = execOvervoltClear vinMv s := rfl
@[simp] theorem exec_currentWarning (die amps : Nat) (s : State) : exec (.currentWarning die amps) s = execCurrentWarning die amps s := rfl
@[simp] theorem exec_railTrip (rail : Nat) (s : State) : exec (.railTrip rail) s = execRailTrip rail s := rfl
@[simp] theorem exec_thermalSample (cd hd : List Int) (s : State) : exec (.thermalSample cd hd) s = execThermalSample cd hd s := rfl
@[simp] theorem exec_governorDuty (inMw floorMw openMw beatsUsed : Nat) (s : State) : exec (.governorDuty inMw floorMw openMw beatsUsed) s = execGovernorDuty inMw floorMw openMw beatsUsed s := rfl
@[simp] theorem exec_telemetryRecord (e : TelEnv) (s : State) : exec (.telemetryRecord e) s = execTelemetryRecord e s := rfl
@[simp] theorem exec_seam (e : SeamEnv) (s : State) : exec (.seam e) s = execSeam e s := rfl
@[simp] theorem exec_duskBand (s : State) : exec .duskBand s = execDuskBand s := rfl
@[simp] theorem exec_planSubstitute (s : State) : exec .planSubstitute s = execPlanSubstitute s := rfl
@[simp] theorem exec_planSeal (p : Plan) (s : State) : exec (.planSeal p) s = execPlanSeal p s := rfl
@[simp] theorem exec_overcastWord (s : State) : exec .overcastWord s = execOvercastWord s := rfl
@[simp] theorem exec_dispatch (arrivals : List Arrival) (s : State) : exec (.dispatch arrivals) s = execDispatch arrivals s := rfl
@[simp] theorem exec_kernelEnd (t : Nat) (radio : List RadioOut) (s : State) : exec (.kernelEnd t radio) s = execKernelEnd t radio s := rfl
@[simp] theorem exec_kernelOverrun (t : Nat) (s : State) : exec (.kernelOverrun t) s = execKernelOverrun t s := rfl
@[simp] theorem exec_waitdTimeout (t : Nat) (s : State) : exec (.waitdTimeout t) s = execWaitdTimeout t s := rfl
@[simp] theorem exec_slotNop (t c slot : Nat) (s : State) : exec (.slotNop t c slot) s = execSlotNop t c slot s := rfl
@[simp] theorem exec_br (t c target : Nat) (s : State) : exec (.br t c target) s = execBr t c target s := rfl
@[simp] theorem exec_brz (t c n target : Nat) (s : State) : exec (.brz t c n target) s = execBrz t c n target s := rfl
@[simp] theorem exec_brnz (t c n target : Nat) (s : State) : exec (.brnz t c n target) s = execBrnz t c n target s := rfl
@[simp] theorem exec_loop (t c count : Nat) (s : State) : exec (.loop t c count) s = execLoop t c count s := rfl
@[simp] theorem exec_endl (t c : Nat) (s : State) : exec (.endl t c) s = execEndl t c s := rfl
@[simp] theorem exec_repeatN (t c n : Nat) (s : State) : exec (.repeatN t c n) s = execRepeatN t c n s := rfl
@[simp] theorem exec_waitd (t c tag maxw : Nat) (s : State) : exec (.waitd t c tag maxw) s = execWaitd t c tag maxw s := rfl
@[simp] theorem exec_syncp (t c ctr : Nat) (s : State) : exec (.syncp t c ctr) s = execSyncp t c ctr s := rfl
@[simp] theorem exec_endK (t c : Nat) (s : State) : exec (.endK t c) s = execEndK t c s := rfl
@[simp] theorem exec_mma (t c : Nat) (o : ArrOp) (err : Option ColErr) (s : State) : exec (.mma t c o err) s = execMma t c o err s := rfl
@[simp] theorem exec_wld (t c : Nat) (o : ArrOp) (s : State) : exec (.wld t c o) s = execWld t c o s := rfl
@[simp] theorem exec_rout (t c : Nat) (o : ArrOp) (s : State) : exec (.rout t c o) s = execRout t c o s := rfl
@[simp] theorem exec_lout (t c : Nat) (o : ArrOp) (s : State) : exec (.lout t c o) s = execLout t c o s := rfl
@[simp] theorem exec_lin (t c : Nat) (o : LinOp) (s : State) : exec (.lin t c o) s = execLin t c o s := rfl
@[simp] theorem exec_ld (t c : Nat) (o : DmaOp) (s : State) : exec (.ld t c o) s = execLd t c o s := rfl
@[simp] theorem exec_st (t c : Nat) (o : DmaOp) (s : State) : exec (.st t c o) s = execSt t c o s := rfl
@[simp] theorem exec_skewa (t c : Nat) (o : DmaOp) (s : State) : exec (.skewa t c o) s = execSkewa t c o s := rfl
@[simp] theorem exec_skewb (t c : Nat) (o : DmaOp) (s : State) : exec (.skewb t c o) s = execSkewb t c o s := rfl
@[simp] theorem exec_mks (t c : Nat) (o : DmaOp) (s : State) : exec (.mks t c o) s = execMks t c o s := rfl
@[simp] theorem exec_dmaSkewComplete (t c tag : Nat) (s : State) : exec (.dmaSkewComplete t c tag) s = execDmaSkewComplete t c tag s := rfl
@[simp] theorem exec_fadd (t c d a : Nat) (b : OpB) (s : State) : exec (.fadd t c d a b) s = execFadd t c d a b s := rfl
@[simp] theorem exec_fsub (t c d a : Nat) (b : OpB) (s : State) : exec (.fsub t c d a b) s = execFsub t c d a b s := rfl
@[simp] theorem exec_fmul (t c d a : Nat) (b : OpB) (s : State) : exec (.fmul t c d a b) s = execFmul t c d a b s := rfl
@[simp] theorem exec_fma (t c d a : Nat) (b : OpB) (cc : Nat) (s : State) : exec (.fma t c d a b cc) s = execFma t c d a b cc s := rfl
@[simp] theorem exec_fnma (t c d a : Nat) (b : OpB) (cc : Nat) (s : State) : exec (.fnma t c d a b cc) s = execFnma t c d a b cc s := rfl
@[simp] theorem exec_fmin (t c d a : Nat) (b : OpB) (s : State) : exec (.fmin t c d a b) s = execFmin t c d a b s := rfl
@[simp] theorem exec_fmax (t c d a : Nat) (b : OpB) (s : State) : exec (.fmax t c d a b) s = execFmax t c d a b s := rfl
@[simp] theorem exec_fabs (t c d a : Nat) (s : State) : exec (.fabs t c d a) s = execFabs t c d a s := rfl
@[simp] theorem exec_fneg (t c d a : Nat) (s : State) : exec (.fneg t c d a) s = execFneg t c d a s := rfl
@[simp] theorem exec_fclt (t c d a : Nat) (b : OpB) (s : State) : exec (.fclt t c d a b) s = execFclt t c d a b s := rfl
@[simp] theorem exec_fcle (t c d a : Nat) (b : OpB) (s : State) : exec (.fcle t c d a b) s = execFcle t c d a b s := rfl
@[simp] theorem exec_fceq (t c d a : Nat) (b : OpB) (s : State) : exec (.fceq t c d a b) s = execFceq t c d a b s := rfl
@[simp] theorem exec_fcvti (t c d a : Nat) (s : State) : exec (.fcvti t c d a) s = execFcvti t c d a s := rfl
@[simp] theorem exec_icvtf (t c d a : Nat) (s : State) : exec (.icvtf t c d a) s = execIcvtf t c d a s := rfl
@[simp] theorem exec_fscl (t c d a : Nat) (b : OpB) (s : State) : exec (.fscl t c d a b) s = execFscl t c d a b s := rfl
@[simp] theorem exec_iadd (t c d a : Nat) (b : OpB) (s : State) : exec (.iadd t c d a b) s = execIadd t c d a b s := rfl
@[simp] theorem exec_isub (t c d a : Nat) (b : OpB) (s : State) : exec (.isub t c d a b) s = execIsub t c d a b s := rfl
@[simp] theorem exec_imul (t c d a : Nat) (b : OpB) (s : State) : exec (.imul t c d a b) s = execImul t c d a b s := rfl
@[simp] theorem exec_andV (t c d a : Nat) (b : OpB) (s : State) : exec (.andV t c d a b) s = execAndV t c d a b s := rfl
@[simp] theorem exec_orV (t c d a : Nat) (b : OpB) (s : State) : exec (.orV t c d a b) s = execOrV t c d a b s := rfl
@[simp] theorem exec_xorV (t c d a : Nat) (b : OpB) (s : State) : exec (.xorV t c d a b) s = execXorV t c d a b s := rfl
@[simp] theorem exec_shl (t c d a : Nat) (b : OpB) (s : State) : exec (.shl t c d a b) s = execShl t c d a b s := rfl
@[simp] theorem exec_shr (t c d a : Nat) (b : OpB) (s : State) : exec (.shr t c d a b) s = execShr t c d a b s := rfl
@[simp] theorem exec_sra (t c d a : Nat) (b : OpB) (s : State) : exec (.sra t c d a b) s = execSra t c d a b s := rfl
@[simp] theorem exec_imin (t c d a : Nat) (b : OpB) (s : State) : exec (.imin t c d a b) s = execImin t c d a b s := rfl
@[simp] theorem exec_imax (t c d a : Nat) (b : OpB) (s : State) : exec (.imax t c d a b) s = execImax t c d a b s := rfl
@[simp] theorem exec_iclt (t c d a : Nat) (b : OpB) (s : State) : exec (.iclt t c d a b) s = execIclt t c d a b s := rfl
@[simp] theorem exec_iceq (t c d a : Nat) (b : OpB) (s : State) : exec (.iceq t c d a b) s = execIceq t c d a b s := rfl
@[simp] theorem exec_sel (t c d a : Nat) (b : OpB) (cc : Nat) (s : State) : exec (.sel t c d a b cc) s = execSel t c d a b cc s := rfl
@[simp] theorem exec_mov (t c d : Nat) (b : OpB) (s : State) : exec (.mov t c d b) s = execMov t c d b s := rfl
@[simp] theorem exec_viota (t c d : Nat) (b : OpB) (s : State) : exec (.viota t c d b) s = execViota t c d b s := rfl
@[simp] theorem exec_norm (t c d a : Nat) (s : State) : exec (.norm t c d a) s = execNorm t c d a s := rfl
@[simp] theorem exec_expx (t c d a : Nat) (s : State) : exec (.expx t c d a) s = execExpx t c d a s := rfl
@[simp] theorem exec_bexp (t c d a : Nat) (imm : W16) (s : State) : exec (.bexp t c d a imm) s = execBexp t c d a imm s := rfl
@[simp] theorem exec_gred (t c d a : Nat) (imm : W16) (s : State) : exec (.gred t c d a imm) s = execGred t c d a imm s := rfl
@[simp] theorem exec_vperm (t c d a b : Nat) (s : State) : exec (.vperm t c d a b) s = execVperm t c d a b s := rfl
@[simp] theorem exec_vext (t c d a : Nat) (imm : W16) (s : State) : exec (.vext t c d a imm) s = execVext t c d a imm s := rfl
@[simp] theorem exec_exp2 (t c d a : Nat) (s : State) : exec (.exp2 t c d a) s = execExp2 t c d a s := rfl
@[simp] theorem exec_log2 (t c d a : Nat) (s : State) : exec (.log2 t c d a) s = execLog2 t c d a s := rfl
@[simp] theorem exec_rcp (t c d a : Nat) (s : State) : exec (.rcp t c d a) s = execRcp t c d a s := rfl
@[simp] theorem exec_rsqrt (t c d a : Nat) (s : State) : exec (.rsqrt t c d a) s = execRsqrt t c d a s := rfl
@[simp] theorem exec_vsumL (t c la a : Nat) (s : State) : exec (.vsumL t c la a) s = execVsumL t c la a s := rfl
@[simp] theorem exec_laclr (t c la : Nat) (s : State) : exec (.laclr t c la) s = execLaclr t c la s := rfl
@[simp] theorem exec_lard (t c d la : Nat) (s : State) : exec (.lard t c d la) s = execLard t c d la s := rfl
@[simp] theorem exec_sadd (t c d a : Nat) (b : OpB) (s : State) : exec (.sadd t c d a b) s = execSadd t c d a b s := rfl
@[simp] theorem exec_ssub (t c d a : Nat) (b : OpB) (s : State) : exec (.ssub t c d a b) s = execSsub t c d a b s := rfl
@[simp] theorem exec_smul (t c d a : Nat) (b : OpB) (s : State) : exec (.smul t c d a b) s = execSmul t c d a b s := rfl
@[simp] theorem exec_sand (t c d a : Nat) (b : OpB) (s : State) : exec (.sand t c d a b) s = execSand t c d a b s := rfl
@[simp] theorem exec_sor (t c d a : Nat) (b : OpB) (s : State) : exec (.sor t c d a b) s = execSor t c d a b s := rfl
@[simp] theorem exec_sxor (t c d a : Nat) (b : OpB) (s : State) : exec (.sxor t c d a b) s = execSxor t c d a b s := rfl
@[simp] theorem exec_sshl (t c d a : Nat) (b : OpB) (s : State) : exec (.sshl t c d a b) s = execSshl t c d a b s := rfl
@[simp] theorem exec_sshr (t c d a : Nat) (b : OpB) (s : State) : exec (.sshr t c d a b) s = execSshr t c d a b s := rfl
@[simp] theorem exec_ssra (t c d a : Nat) (b : OpB) (s : State) : exec (.ssra t c d a b) s = execSsra t c d a b s := rfl
@[simp] theorem exec_smin (t c d a : Nat) (b : OpB) (s : State) : exec (.smin t c d a b) s = execSmin t c d a b s := rfl
@[simp] theorem exec_smax (t c d a : Nat) (b : OpB) (s : State) : exec (.smax t c d a b) s = execSmax t c d a b s := rfl
@[simp] theorem exec_sclt (t c d a : Nat) (b : OpB) (s : State) : exec (.sclt t c d a b) s = execSclt t c d a b s := rfl
@[simp] theorem exec_sceq (t c d a : Nat) (b : OpB) (s : State) : exec (.sceq t c d a b) s = execSceq t c d a b s := rfl
@[simp] theorem exec_smov (t c d : Nat) (b : OpB) (s : State) : exec (.smov t c d b) s = execSmov t c d b s := rfl
@[simp] theorem exec_sshi (t c d : Nat) (imm : W16) (s : State) : exec (.sshi t c d imm) s = execSshi t c d imm s := rfl
@[simp] theorem exec_mova (t c d a : Nat) (s : State) : exec (.mova t c d a) s = execMova t c d a s := rfl
@[simp] theorem exec_movb (t c d a : Nat) (s : State) : exec (.movb t c d a) s = execMovb t c d a s := rfl
@[simp] theorem exec_movl (t c d a : Nat) (s : State) : exec (.movl t c d a) s = execMovl t c d a s := rfl
@[simp] theorem exec_movsa (t c d a : Nat) (s : State) : exec (.movsa t c d a) s = execMovsa t c d a s := rfl
@[simp] theorem exec_aadd (t c d : Nat) (imm : W16) (s : State) : exec (.aadd t c d imm) s = execAadd t c d imm s := rfl
@[simp] theorem exec_vld (t c : Nat) (o : LsOp) (s : State) : exec (.vld t c o) s = execVld t c o s := rfl
@[simp] theorem exec_vst (t c : Nat) (o : LsOp) (s : State) : exec (.vst t c o) s = execVst t c o s := rfl
@[simp] theorem exec_vldb (t c : Nat) (o : LsOp) (s : State) : exec (.vldb t c o) s = execVldb t c o s := rfl
@[simp] theorem exec_sld (t c : Nat) (o : LsOp) (s : State) : exec (.sld t c o) s = execSld t c o s := rfl
@[simp] theorem exec_sst (t c : Nat) (o : LsOp) (s : State) : exec (.sst t c o) s = execSst t c o s := rfl
@[simp] theorem exec_vldt (t c : Nat) (o : LsOp) (s : State) : exec (.vldt t c o) s = execVldt t c o s := rfl
@[simp] theorem exec_vstt (t c : Nat) (o : LsOp) (s : State) : exec (.vstt t c o) s = execVstt t c o s := rfl
@[simp] theorem exec_ldpk (t c : Nat) (o : LsOp) (s : State) : exec (.ldpk t c o) s = execLdpk t c o s := rfl
@[simp] theorem exec_stpk (t c : Nat) (o : LsOp) (s : State) : exec (.stpk t c o) s = execStpk t c o s := rfl
@[simp] theorem exec_lald (t c : Nat) (o : LsOp) (s : State) : exec (.lald t c o) s = execLald t c o s := rfl
@[simp] theorem exec_last (t c : Nat) (o : LsOp) (s : State) : exec (.last t c o) s = execLast t c o s := rfl
@[simp] theorem exec_lamrg (t c : Nat) (o : LsOp) (s : State) : exec (.lamrg t c o) s = execLamrg t c o s := rfl
@[simp] theorem exec_tileRemap (t : Nat) (s : State) : exec (.tileRemap t) s = execTileRemap t s := rfl
@[simp] theorem exec_rerunOverlaySeal (o : Overlay) (s : State) : exec (.rerunOverlaySeal o) s = execRerunOverlaySeal o s := rfl
@[simp] theorem exec_linkWireFailing (die link group wire : Nat) (s : State) : exec (.linkWireFailing die link group wire) s = execLinkWireFailing die link group wire s := rfl
@[simp] theorem exec_sentinelRun (e : SentEnv) (s : State) : exec (.sentinelRun e) s = execSentinelRun e s := rfl
@[simp] theorem exec_stressVariant (die : Nat) (bad : List Nat) (s : State) : exec (.stressVariant die bad) s = execStressVariant die bad s := rfl
@[simp] theorem exec_healthScore (corrPerHour retriesPerSec residue30d : Nat) (hottest : Int) (s : State) : exec (.healthScore corrPerHour retriesPerSec residue30d hottest) s = execHealthScore corrPerHour retriesPerSec residue30d hottest s := rfl
@[simp] theorem exec_slowdownWindow (s : State) : exec .slowdownWindow s = execSlowdownWindow s := rfl
@[simp] theorem exec_codeBlockStart (hd engine : Nat) (s : State) : exec (.codeBlockStart hd engine) s = execCodeBlockStart hd engine s := rfl
@[simp] theorem exec_codeBlockComplete (hd engine : Nat) (engineFault : Bool) (s : State) : exec (.codeBlockComplete hd engine engineFault) s = execCodeBlockComplete hd engine engineFault s := rfl
@[simp] theorem exec_dmaDescriptorStart (eng desc : Nat) (body : List Byte) (slice context : Option Nat) (use : BurstUse) (s : State) : exec (.dmaDescriptorStart eng desc body slice context use) s = execDmaDescriptorStart eng desc body slice context use s := rfl
@[simp] theorem exec_dmaBurstComplete (eng : Nat) (s : State) : exec (.dmaBurstComplete eng) s = execDmaBurstComplete eng s := rfl
@[simp] theorem exec_dmaBurstTimeout (eng moved : Nat) (s : State) : exec (.dmaBurstTimeout eng moved) s = execDmaBurstTimeout eng moved s := rfl
@[simp] theorem exec_channelLost (ch : Nat) (s : State) : exec (.channelLost ch) s = execChannelLost ch s := rfl
@[simp] theorem exec_patrolScrub (line : Nat) (corrected uncorrected raced : Bool) (s : State) : exec (.patrolScrub line corrected uncorrected raced) s = execPatrolScrub line corrected uncorrected raced s := rfl
@[simp] theorem exec_hostMemRead (addr len : Nat) (s : State) : exec (.hostMemRead addr len) s = execHostMemRead addr len s := rfl
@[simp] theorem exec_hostMemWrite (addr : Nat) (bytes : List Byte) (s : State) : exec (.hostMemWrite addr bytes) s = execHostMemWrite addr bytes s := rfl
@[simp] theorem exec_stepCompose (slice pool : Nat) (work : StepWork) (s : State) : exec (.stepCompose slice pool work) s = execStepCompose slice pool work s := rfl
@[simp] theorem exec_stepCommit (slice pool : Nat) (rows : List RowResult) (s : State) : exec (.stepCommit slice pool rows) s = execStepCommit slice pool rows s := rfl
@[simp] theorem exec_reclaim (pool waiter : Nat) (s : State) : exec (.reclaim pool waiter) s = execReclaim pool waiter s := rfl
@[simp] theorem exec_swapReturn (pool : Nat) (s : State) : exec (.swapReturn pool) s = execSwapReturn pool s := rfl
@[simp] theorem exec_deadlineRule (pool : Nat) (s : State) : exec (.deadlineRule pool) s = execDeadlineRule pool s := rfl
@[simp] theorem exec_adapterCurrent (slot : Nat) (s : State) : exec (.adapterCurrent slot) s = execAdapterCurrent slot s := rfl
@[simp] theorem exec_attnBlockEnqueue (q seq chain kernel length argsPtr donePtr : Nat) (s : State) : exec (.attnBlockEnqueue q seq chain kernel length argsPtr donePtr) s = execAttnBlockEnqueue q seq chain kernel length argsPtr donePtr s := rfl
@[simp] theorem exec_moveRetry (idx : Nat) (s : State) : exec (.moveRetry idx) s = execMoveRetry idx s := rfl
@[simp] theorem exec_moveQueryTimer (idx : Nat) (s : State) : exec (.moveQueryTimer idx) s = execMoveQueryTimer idx s := rfl
@[simp] theorem exec_prefixLeaseExpiry (lease : Nat) (s : State) : exec (.prefixLeaseExpiry lease) s = execPrefixLeaseExpiry lease s := rfl
@[simp] theorem exec_writeGrantExpiry (entry : Nat) (s : State) : exec (.writeGrantExpiry entry) s = execWriteGrantExpiry entry s := rfl
@[simp] theorem exec_flashDemote (pool frame : Nat) (fail : Option Nat) (s : State) : exec (.flashDemote pool frame fail) s = execFlashDemote pool frame fail s := rfl
@[simp] theorem exec_flashPromote (pool frame : Nat) (failed : Bool) (s : State) : exec (.flashPromote pool frame failed) s = execFlashPromote pool frame failed s := rfl
@[simp] theorem exec_superblockErase (sb : Nat) (fail : Option Nat) (s : State) : exec (.superblockErase sb fail) s = execSuperblockErase sb fail s := rfl
@[simp] theorem exec_superblockRelocate (s : State) : exec .superblockRelocate s = execSuperblockRelocate s := rfl
@[simp] theorem exec_flashRetentionRewrite (s : State) : exec .flashRetentionRewrite s = execFlashRetentionRewrite s := rfl
@[simp] theorem exec_fhFrameRx (port : Nat) (f : FhFrame) (s : State) : exec (.fhFrameRx port f) s = execFhFrameRx port f s := rfl
@[simp] theorem exec_symbolClose (cell sym miss : Nat) (s : State) : exec (.symbolClose cell sym miss) s = execSymbolClose cell sym miss s := rfl
@[simp] theorem exec_agcUpdate (port stream sym : Nat) (pin winPeak : Int) (corr256 : Nat) (s : State) : exec (.agcUpdate port stream sym pin winPeak corr256) s = execAgcUpdate port stream sym pin winPeak corr256 s := rfl
@[simp] theorem exec_cplaneLaunch (port cell : Nat) (eaxcs : List CMessage) (s : State) : exec (.cplaneLaunch port cell eaxcs) s = execCplaneLaunch port cell eaxcs s := rfl
@[simp] theorem exec_uplaneLaunch (port cell sym : Nat) (skewNs packets : List Nat) (s : State) : exec (.uplaneLaunch port cell sym skewNs packets) s = execUplaneLaunch port cell sym skewNs packets s := rfl
@[simp] theorem exec_fhLinkDown (port waiting : Nat) (s : State) : exec (.fhLinkDown port waiting) s = execFhLinkDown port waiting s := rfl
@[simp] theorem exec_fhLinkUp (port : Nat) (s : State) : exec (.fhLinkUp port) s = execFhLinkUp port s := rfl
@[simp] theorem exec_fhTrainTimeout (port : Nat) (s : State) : exec (.fhTrainTimeout port) s = execFhTrainTimeout port s := rfl
@[simp] theorem exec_paramRequest (m : FapiMsg) (s : State) : exec (.paramRequest m) s = execParamRequest m s := rfl
@[simp] theorem exec_configRequest (m : FapiMsg) (cfg : CellConfig) (s : State) : exec (.configRequest m cfg) s = execConfigRequest m cfg s := rfl
@[simp] theorem exec_startRequest (m : FapiMsg) (s : State) : exec (.startRequest m) s = execStartRequest m s := rfl
@[simp] theorem exec_stopRequest (m : FapiMsg) (s : State) : exec (.stopRequest m) s = execStopRequest m s := rfl
@[simp] theorem exec_dlTtiRequest (m : FapiMsg) (s : State) : exec (.dlTtiRequest m) s = execDlTtiRequest m s := rfl
@[simp] theorem exec_ulTtiRequest (m : FapiMsg) (s : State) : exec (.ulTtiRequest m) s = execUlTtiRequest m s := rfl
@[simp] theorem exec_ulDciRequest (m : FapiMsg) (s : State) : exec (.ulDciRequest m) s = execUlDciRequest m s := rfl
@[simp] theorem exec_txDataRequest (m : FapiMsg) (s : State) : exec (.txDataRequest m) s = execTxDataRequest m s := rfl
@[simp] theorem exec_cellBindRequest (m b : Nat) (s : State) : exec (.cellBindRequest m b) s = execCellBindRequest m b s := rfl
@[simp] theorem exec_twilightCfgRequest (m w : Nat) (s : State) : exec (.twilightCfgRequest m w) s = execTwilightCfgRequest m w s := rfl
@[simp] theorem exec_fapiMessageUnsupported (phy msgId : Nat) (s : State) : exec (.fapiMessageUnsupported phy msgId) s = execFapiMessageUnsupported phy msgId s := rfl
@[simp] theorem exec_slotRequestDeadline (cell first : Nat) (s : State) : exec (.slotRequestDeadline cell first) s = execSlotRequestDeadline cell first s := rfl
@[simp] theorem exec_txDataDeadline (cell first : Nat) (s : State) : exec (.txDataDeadline cell first) s = execTxDataDeadline cell first s := rfl
@[simp] theorem exec_cellActivate (cell : Nat) (s : State) : exec (.cellActivate cell) s = execCellActivate cell s := rfl
@[simp] theorem exec_cellStop (cell : Nat) (s : State) : exec (.cellStop cell) s = execCellStop cell s := rfl
@[simp] theorem exec_twilightHoldExpiry (cell : Nat) (s : State) : exec (.twilightHoldExpiry cell) s = execTwilightHoldExpiry cell s := rfl
@[simp] theorem exec_flitRx (port lane fseq fack type : Nat) (rest : List Byte) (errors : Nat) (s : State) : exec (.flitRx port lane fseq fack type rest errors) s = execFlitRx port lane fseq fack type rest errors s := rfl
@[simp] theorem exec_portTrained (port : Nat) (s : State) : exec (.portTrained port) s = execPortTrained port s := rfl
@[simp] theorem exec_load (port : Nat) (p : Packet) (s : State) : exec (.load port p) s = execLoad port p s := rfl
@[simp] theorem exec_store (port : Nat) (p : Packet) (s : State) : exec (.store port p) s = execStore port p s := rfl
@[simp] theorem exec_atomic (port : Nat) (p : Packet) (s : State) : exec (.atomic port p) s = execAtomic port p s := rfl
@[simp] theorem exec_accL (port : Nat) (p : Packet) (s : State) : exec (.accL port p) s = execAccL port p s := rfl
@[simp] theorem exec_msg (port : Nat) (p : Packet) (s : State) : exec (.msg port p) s = execMsg port p s := rfl
@[simp] theorem exec_ack (port : Nat) (p : Packet) (s : State) : exec (.ack port p) s = execAck port p s := rfl
@[simp] theorem exec_statusP (port : Nat) (p : Packet) (s : State) : exec (.statusP port p) s = execStatusP port p s := rfl
@[simp] theorem exec_loadData (port : Nat) (p : Packet) (s : State) : exec (.loadData port p) s = execLoadData port p s := rfl
@[simp] theorem exec_atomicData (port : Nat) (p : Packet) (s : State) : exec (.atomicData port p) s = execAtomicData port p s := rfl
@[simp] theorem exec_probe (port : Nat) (p : Packet) (s : State) : exec (.probe port p) s = execProbe port p s := rfl
@[simp] theorem exec_epoch (port : Nat) (p : Packet) (s : State) : exec (.epoch port p) s = execEpoch port p s := rfl
@[simp] theorem exec_ackTimer (src : Nat) (s : State) : exec (.ackTimer src) s = execAckTimer src s := rfl
@[simp] theorem exec_retransmitTimeout (dst psn : Nat) (s : State) : exec (.retransmitTimeout dst psn) s = execRetransmitTimeout dst psn s := rfl
@[simp] theorem exec_pathProbeTimer (s : State) : exec .pathProbeTimer s = execPathProbeTimer s := rfl
@[simp] theorem exec_streamBreak (dst : Nat) (s : State) : exec (.streamBreak dst) s = execStreamBreak dst s := rfl
@[simp] theorem exec_xferEntryIssue (port : Nat) (s : State) : exec (.xferEntryIssue port) s = execXferEntryIssue port s := rfl
@[simp] theorem exec_moveReserve (m : MoveReserve) (s : State) : exec (.moveReserve m) s = execMoveReserve m s := rfl
@[simp] theorem exec_moveReserved (idx : Nat) (m : MoveReserved) (s : State) : exec (.moveReserved idx m) s = execMoveReserved idx m s := rfl
@[simp] theorem exec_moveCommit (src idx gen : Nat) (entry : List Byte) (s : State) : exec (.moveCommit src idx gen entry) s = execMoveCommit src idx gen entry s := rfl
@[simp] theorem exec_moveAnswer (idx gen : Nat) (committed : Bool) (s : State) : exec (.moveAnswer idx gen committed) s = execMoveAnswer idx gen committed s := rfl
@[simp] theorem exec_moveRelease (src idx gen : Nat) (s : State) : exec (.moveRelease src idx gen) s = execMoveRelease src idx gen s := rfl
@[simp] theorem exec_moveQuery (src idx gen : Nat) (s : State) : exec (.moveQuery src idx gen) s = execMoveQuery src idx gen s := rfl
@[simp] theorem exec_moveCancel (src idx gen : Nat) (s : State) : exec (.moveCancel src idx gen) s = execMoveCancel src idx gen s := rfl
@[simp] theorem exec_prefixAsk (src q seq model p : Nat) (keys : List (List Byte)) (s : State) : exec (.prefixAsk src q seq model p keys) s = execPrefixAsk src q seq model p keys s := rfl
@[simp] theorem exec_prefixHeld (src q seq status depth lease : Nat) (pages : List (Nat × Nat)) (locs : List Nat) (s : State) : exec (.prefixHeld src q seq status depth lease pages locs) s = execPrefixHeld src q seq status depth lease pages locs s := rfl
@[simp] theorem exec_prefixPin (src q seq model p depth : Nat) (keys : List (List Byte)) (s : State) : exec (.prefixPin src q seq model p depth keys) s = execPrefixPin src q seq model p depth keys s := rfl
@[simp] theorem exec_prefixUnpin (src lease : Nat) (s : State) : exec (.prefixUnpin src lease) s = execPrefixUnpin src lease s := rfl
@[simp] theorem exec_prefixOffer (src q seq model p depth : Nat) (keys : List (List Byte)) (s : State) : exec (.prefixOffer src q seq model p depth keys) s = execPrefixOffer src q seq model p depth keys s := rfl
@[simp] theorem exec_contrailDigest (src reqId genLen : Nat) (crc : W64) (s : State) : exec (.contrailDigest src reqId genLen crc) s = execContrailDigest src reqId genLen crc s := rfl
@[simp] theorem exec_contrailUnmatched (s : State) : exec .contrailUnmatched s = execContrailUnmatched s := rfl
@[simp] theorem exec_barrierTimeout (q seq : Nat) (s : State) : exec (.barrierTimeout q seq) s = execBarrierTimeout q seq s := rfl
@[simp] theorem exec_jobStepLaunch (q seq : Nat) (last : Bool) (len : Nat) (word0 word1 : W64) (s : State) : exec (.jobStepLaunch q seq last len word0 word1) s = execJobStepLaunch q seq last len word0 word1 s := rfl
@[simp] theorem exec_ptpMessage (port msgType seqId taken : Nat) (sent : Bool) (m : PtpMsg) (s : State) : exec (.ptpMessage port msgType seqId taken sent m) s = execPtpMessage port msgType seqId taken sent m s := rfl
@[simp] theorem exec_esmcMessage (port quality : Nat) (s : State) : exec (.esmcMessage port quality) s = execEsmcMessage port quality s := rfl
@[simp] theorem exec_ppsInEdge (rawNs : Nat) (s : State) : exec (.ppsInEdge rawNs) s = execPpsInEdge rawNs s := rfl
@[simp] theorem exec_todLineRx (line : List Byte) (msAfterEdge : Nat) (s : State) : exec (.todLineRx line msAfterEdge) s = execTodLineRx line msAfterEdge s := rfl
@[simp] theorem exec_ppsOut (s : State) : exec .ppsOut s = execPpsOut s := rfl
@[simp] theorem exec_timeStep (sourceNs : Nat) (sourcePresent : Bool) (s : State) : exec (.timeStep sourceNs sourcePresent) s = execTimeStep sourceNs sourcePresent s := rfl
@[simp] theorem exec_sourceLost (s : State) : exec .sourceLost s = execSourceLost s := rfl
@[simp] theorem exec_holdExceeded (s : State) : exec .holdExceeded s = execHoldExceeded s := rfl
@[simp] theorem exec_submissionDoorbell (q tail : Nat) (s : State) : exec (.submissionDoorbell q tail) s = execSubmissionDoorbell q tail s := rfl
@[simp] theorem exec_completionDoorbell (q head : Nat) (s : State) : exec (.completionDoorbell q head) s = execCompletionDoorbell q head s := rfl
@[simp] theorem exec_commandConsume (q : Nat) (ioOk : Bool) (s : State) : exec (.commandConsume q ioOk) s = execCommandConsume q ioOk s := rfl
@[simp] theorem exec_commandAccept (q : Nat) (s : State) : exec (.commandAccept q) s = execCommandAccept q s := rfl
@[simp] theorem exec_interruptCoalesceTimer (q : Nat) (s : State) : exec (.interruptCoalesceTimer q) s = execInterruptCoalesceTimer q s := rfl
@[simp] theorem exec_adminQueueEnable (value : W64) (s : State) : exec (.adminQueueEnable value) s = execAdminQueueEnable value s := rfl
@[simp] theorem exec_adminQueueDelete (value : W64) (s : State) : exec (.adminQueueDelete value) s = execAdminQueueDelete value s := rfl
@[simp] theorem exec_heartbeat (value : W64) (s : State) : exec (.heartbeat value) s = execHeartbeat value s := rfl
@[simp] theorem exec_orphan (refused : List (Nat × List Byte)) (s : State) : exec (.orphan refused) s = execOrphan refused s := rfl
@[simp] theorem exec_cxlLinkDown (refused : List (Nat × List Byte)) (s : State) : exec (.cxlLinkDown refused) s = execCxlLinkDown refused s := rfl
@[simp] theorem exec_orphanHoldExpiry (s : State) : exec .orphanHoldExpiry s = execOrphanHoldExpiry s := rfl
@[simp] theorem exec_noticeSend (page : Nat) (value : W32) (s : State) : exec (.noticeSend page value) s = execNoticeSend page value s := rfl
@[simp] theorem exec_noticeDeliver (page : Nat) (s : State) : exec (.noticeDeliver page) s = execNoticeDeliver page s := rfl
@[simp] theorem exec_noticeTimeout (page : Nat) (s : State) : exec (.noticeTimeout page) s = execNoticeTimeout page s := rfl
@[simp] theorem exec_slcRxHeadWrite (page : Nat) (value : W32) (s : State) : exec (.slcRxHeadWrite page value) s = execSlcRxHeadWrite page value s := rfl
@[simp] theorem exec_registerWrite (firmware : Bool) (offset : Nat) (value : W64) (s : State) : exec (.registerWrite firmware offset value) s = execRegisterWrite firmware offset value s := rfl
@[simp] theorem exec_nop (q seq : Nat) (s : State) : exec (.nop q seq) s = execNop q seq s := rfl
@[simp] theorem exec_queueCreate (q seq : Nat) (s : State) : exec (.queueCreate q seq) s = execQueueCreate q seq s := rfl
@[simp] theorem exec_queueDelete (q seq : Nat) (s : State) : exec (.queueDelete q seq) s = execQueueDelete q seq s := rfl
@[simp] theorem exec_identify (q seq : Nat) (s : State) : exec (.identify q seq) s = execIdentify q seq s := rfl
@[simp] theorem exec_recoveryGet (q seq : Nat) (s : State) : exec (.recoveryGet q seq) s = execRecoveryGet q seq s := rfl
@[simp] theorem exec_resetReq (q seq : Nat) (s : State) : exec (.resetReq q seq) s = execResetReq q seq s := rfl
@[simp] theorem exec_attnAck (q seq : Nat) (s : State) : exec (.attnAck q seq) s = execAttnAck q seq s := rfl
@[simp] theorem exec_mirrorSet (q seq : Nat) (s : State) : exec (.mirrorSet q seq) s = execMirrorSet q seq s := rfl
@[simp] theorem exec_mirrorReport (q seq : Nat) (s : State) : exec (.mirrorReport q seq) s = execMirrorReport q seq s := rfl
@[simp] theorem exec_biasSet (q seq : Nat) (s : State) : exec (.biasSet q seq) s = execBiasSet q seq s := rfl
@[simp] theorem exec_poolSet (q seq : Nat) (s : State) : exec (.poolSet q seq) s = execPoolSet q seq s := rfl
@[simp] theorem exec_reqAdmit (q seq : Nat) (s : State) : exec (.reqAdmit q seq) s = execReqAdmit q seq s := rfl
@[simp] theorem exec_reqAbort (q seq : Nat) (s : State) : exec (.reqAbort q seq) s = execReqAbort q seq s := rfl
@[simp] theorem exec_reqQuery (q seq : Nat) (s : State) : exec (.reqQuery q seq) s = execReqQuery q seq s := rfl
@[simp] theorem exec_serveCfg (q seq : Nat) (s : State) : exec (.serveCfg q seq) s = execServeCfg q seq s := rfl
@[simp] theorem exec_budgetSet (q seq : Nat) (s : State) : exec (.budgetSet q seq) s = execBudgetSet q seq s := rfl
@[simp] theorem exec_roleSet (q seq : Nat) (s : State) : exec (.roleSet q seq) s = execRoleSet q seq s := rfl
@[simp] theorem exec_peerLost (q seq : Nat) (s : State) : exec (.peerLost q seq) s = execPeerLost q seq s := rfl
@[simp] theorem exec_adapterLoad (q seq : Nat) (s : State) : exec (.adapterLoad q seq) s = execAdapterLoad q seq s := rfl
@[simp] theorem exec_adapterWithdraw (q seq : Nat) (s : State) : exec (.adapterWithdraw q seq) s = execAdapterWithdraw q seq s := rfl
@[simp] theorem exec_grammarLoad (q seq : Nat) (s : State) : exec (.grammarLoad q seq) s = execGrammarLoad q seq s := rfl
@[simp] theorem exec_grammarUnload (q seq : Nat) (s : State) : exec (.grammarUnload q seq) s = execGrammarUnload q seq s := rfl
@[simp] theorem exec_attn (q seq : Nat) (s : State) : exec (.attn q seq) s = execAttn q seq s := rfl
@[simp] theorem exec_attnMerge (q seq : Nat) (s : State) : exec (.attnMerge q seq) s = execAttnMerge q seq s := rfl
@[simp] theorem exec_prefixLookup (q seq : Nat) (s : State) : exec (.prefixLookup q seq) s = execPrefixLookup q seq s := rfl
@[simp] theorem exec_prefixFetch (q seq : Nat) (s : State) : exec (.prefixFetch q seq) s = execPrefixFetch q seq s := rfl
@[simp] theorem exec_prefixPublish (q seq : Nat) (s : State) : exec (.prefixPublish q seq) s = execPrefixPublish q seq s := rfl
@[simp] theorem exec_flashCfg (q seq : Nat) (s : State) : exec (.flashCfg q seq) s = execFlashCfg q seq s := rfl
@[simp] theorem exec_radL2Open (q seq : Nat) (s : State) : exec (.radL2Open q seq) s = execRadL2Open q seq s := rfl
@[simp] theorem exec_radL2Close (q seq : Nat) (s : State) : exec (.radL2Close q seq) s = execRadL2Close q seq s := rfl
@[simp] theorem exec_fhCfg (q seq : Nat) (s : State) : exec (.fhCfg q seq) s = execFhCfg q seq s := rfl
@[simp] theorem exec_regionSet (q seq : Nat) (s : State) : exec (.regionSet q seq) s = execRegionSet q seq s := rfl
@[simp] theorem exec_pathSet (q seq : Nat) (s : State) : exec (.pathSet q seq) s = execPathSet q seq s := rfl
@[simp] theorem exec_partitionSet (q seq : Nat) (s : State) : exec (.partitionSet q seq) s = execPartitionSet q seq s := rfl
@[simp] theorem exec_portFence (q seq : Nat) (s : State) : exec (.portFence q seq) s = execPortFence q seq s := rfl
@[simp] theorem exec_jobtagSet (q seq : Nat) (s : State) : exec (.jobtagSet q seq) s = execJobtagSet q seq s := rfl
@[simp] theorem exec_fabXfer (q seq : Nat) (s : State) : exec (.fabXfer q seq) s = execFabXfer q seq s := rfl
@[simp] theorem exec_sliceAssign (q seq : Nat) (s : State) : exec (.sliceAssign q seq) s = execSliceAssign q seq s := rfl
@[simp] theorem exec_sliceQuota (q seq : Nat) (s : State) : exec (.sliceQuota q seq) s = execSliceQuota q seq s := rfl
@[simp] theorem exec_ctxCreate (q seq : Nat) (s : State) : exec (.ctxCreate q seq) s = execCtxCreate q seq s := rfl
@[simp] theorem exec_ctxDestroy (q seq : Nat) (s : State) : exec (.ctxDestroy q seq) s = execCtxDestroy q seq s := rfl
@[simp] theorem exec_ctxHold (q seq : Nat) (s : State) : exec (.ctxHold q seq) s = execCtxHold q seq s := rfl
@[simp] theorem exec_ctxResume (q seq : Nat) (s : State) : exec (.ctxResume q seq) s = execCtxResume q seq s := rfl
@[simp] theorem exec_ctxQuery (q seq : Nat) (s : State) : exec (.ctxQuery q seq) s = execCtxQuery q seq s := rfl
@[simp] theorem exec_ctxSaveStart (ctx : Nat) (s : State) : exec (.ctxSaveStart ctx) s = execCtxSaveStart ctx s := rfl
@[simp] theorem exec_ctxRestoreStart (ctx : Nat) (s : State) : exec (.ctxRestoreStart ctx) s = execCtxRestoreStart ctx s := rfl
@[simp] theorem exec_ctxActivate (ctx : Nat) (s : State) : exec (.ctxActivate ctx) s = execCtxActivate ctx s := rfl
@[simp] theorem exec_contextTeardown (ctx : Nat) (s : State) : exec (.contextTeardown ctx) s = execContextTeardown ctx s := rfl
@[simp] theorem exec_contextRelease (ctx : Nat) (s : State) : exec (.contextRelease ctx) s = execContextRelease ctx s := rfl
@[simp] theorem exec_mbxGrant (q seq : Nat) (s : State) : exec (.mbxGrant q seq) s = execMbxGrant q seq s := rfl
@[simp] theorem exec_kernelLoad (q seq : Nat) (s : State) : exec (.kernelLoad q seq) s = execKernelLoad q seq s := rfl
@[simp] theorem exec_planLaunch (q seq : Nat) (s : State) : exec (.planLaunch q seq) s = execPlanLaunch q seq s := rfl
@[simp] theorem exec_fwUpdate (q seq : Nat) (b : Bundle) (s : State) : exec (.fwUpdate q seq b) s = execFwUpdate q seq b s := rfl
@[simp] theorem exec_updateQuiesce (s : State) : exec .updateQuiesce s = execUpdateQuiesce s := rfl
@[simp] theorem exec_updateCommit (s : State) : exec .updateCommit s = execUpdateCommit s := rfl
@[simp] theorem exec_updateAbort (component : Option Nat) (s : State) : exec (.updateAbort component) s = execUpdateAbort component s := rfl
@[simp] theorem exec_powerCap (q seq : Nat) (s : State) : exec (.powerCap q seq) s = execPowerCap q seq s := rfl
@[simp] theorem exec_repairMapGet (q seq : Nat) (s : State) : exec (.repairMapGet q seq) s = execRepairMapGet q seq s := rfl
@[simp] theorem exec_clockMode (q seq : Nat) (s : State) : exec (.clockMode q seq) s = execClockMode q seq s := rfl
@[simp] theorem exec_timeCfg (q seq : Nat) (s : State) : exec (.timeCfg q seq) s = execTimeCfg q seq s := rfl
@[simp] theorem exec_debugNonce (q seq : Nat) (s : State) : exec (.debugNonce q seq) s = execDebugNonce q seq s := rfl
@[simp] theorem exec_debugUnlock (q seq : Nat) (s : State) : exec (.debugUnlock q seq) s = execDebugUnlock q seq s := rfl
@[simp] theorem exec_debugLock (q seq : Nat) (s : State) : exec (.debugLock q seq) s = execDebugLock q seq s := rfl
@[simp] theorem exec_memEncSet (q seq : Nat) (s : State) : exec (.memEncSet q seq) s = execMemEncSet q seq s := rfl
@[simp] theorem exec_bundleLoad (b : Bundle) (e : StartEnv) (s : State) : exec (.bundleLoad b e) s = execBundleLoad b e s := rfl
@[simp] theorem exec_getVersion (mbx unread : Bool) (s : State) : exec (.getVersion mbx unread) s = execGetVersion mbx unread s := rfl
@[simp] theorem exec_getCapabilities (mbx unread : Bool) (s : State) : exec (.getCapabilities mbx unread) s = execGetCapabilities mbx unread s := rfl
@[simp] theorem exec_negotiateAlgorithms (mbx unread : Bool) (s : State) : exec (.negotiateAlgorithms mbx unread) s = execNegotiateAlgorithms mbx unread s := rfl
@[simp] theorem exec_getDigests (mbx unread : Bool) (s : State) : exec (.getDigests mbx unread) s = execGetDigests mbx unread s := rfl
@[simp] theorem exec_getCertificate (mbx unread : Bool) (slot offset len : Nat) (s : State) : exec (.getCertificate mbx unread slot offset len) s = execGetCertificate mbx unread slot offset len s := rfl
@[simp] theorem exec_challenge (mbx unread : Bool) (nonce : List Byte) (s : State) : exec (.challenge mbx unread nonce) s = execChallenge mbx unread nonce s := rfl
@[simp] theorem exec_getMeasurements (mbx unread : Bool) (index : Nat) (sign : Bool) (nonce : List Byte) (s : State) : exec (.getMeasurements mbx unread index sign nonce) s = execGetMeasurements mbx unread index sign nonce s := rfl
@[simp] theorem exec_entdaa (addr : Nat) (s : State) : exec (.entdaa addr) s = execEntdaa addr s := rfl
@[simp] theorem exec_setEndpointId (eid : Nat) (s : State) : exec (.setEndpointId eid) s = execSetEndpointId eid s := rfl
@[simp] theorem exec_getEndpointId (s : State) : exec .getEndpointId s = execGetEndpointId s := rfl
@[simp] theorem exec_getMctpVersionSupport (type : Nat) (s : State) : exec (.getMctpVersionSupport type) s = execGetMctpVersionSupport type s := rfl
@[simp] theorem exec_getMessageTypeSupport (s : State) : exec .getMessageTypeSupport s = execGetMessageTypeSupport s := rfl
@[simp] theorem exec_getVendorDefinedMessageSupport (selector : Nat) (s : State) : exec (.getVendorDefinedMessageSupport selector) s = execGetVendorDefinedMessageSupport selector s := rfl
@[simp] theorem exec_getPdrRepositoryInfo (s : State) : exec .getPdrRepositoryInfo s = execGetPdrRepositoryInfo s := rfl
@[simp] theorem exec_getPdr (record : Nat) (s : State) : exec (.getPdr record) s = execGetPdr record s := rfl
@[simp] theorem exec_getSensorReading (sensor : Nat) (s : State) : exec (.getSensorReading sensor) s = execGetSensorReading sensor s := rfl
@[simp] theorem exec_recorderRead (from_ count : Nat) (s : State) : exec (.recorderRead from_ count) s = execRecorderRead from_ count s := rfl
@[simp] theorem exec_alertAck (seq : Nat) (s : State) : exec (.alertAck seq) s = execAlertAck seq s := rfl
@[simp] theorem exec_anchorSet (opsec pcc : Nat) (entries : List (List Byte)) (s : State) : exec (.anchorSet opsec pcc entries) s = execAnchorSet opsec pcc entries s := rfl
@[simp] theorem exec_anchorGet (s : State) : exec .anchorGet s = execAnchorGet s := rfl
@[simp] theorem exec_resetRequest (kind slice : Nat) (s : State) : exec (.resetRequest kind slice) s = execResetRequest kind slice s := rfl
@[simp] theorem exec_stressRun (dies : Nat) (s : State) : exec (.stressRun dies) s = execStressRun dies s := rfl
@[simp] theorem exec_contrailSet (body : List Byte) (s : State) : exec (.contrailSet body) s = execContrailSet body s := rfl
@[simp] theorem exec_retireClear (s : State) : exec .retireClear s = execRetireClear s := rfl
@[simp] theorem exec_warmReset (b : BistResult) (trained : BitVec 32) (refused : List (Nat × List Byte)) (s : State) : exec (.warmReset b trained refused) s = execWarmReset b trained refused s := rfl
@[simp] theorem exec_functionReset (refused : List (Nat × List Byte)) (s : State) : exec (.functionReset refused) s = execFunctionReset refused s := rfl
@[simp] theorem exec_sliceReset (slice : Nat) (s : State) : exec (.sliceReset slice) s = execSliceReset slice s := rfl
@[simp] theorem exec_cpStop (cp cause : Nat) (s : State) : exec (.cpStop cp cause) s = execCpStop cp cause s := rfl
@[simp] theorem exec_cp0WatchdogExpiry (s : State) : exec .cp0WatchdogExpiry s = execCp0WatchdogExpiry s := rfl
@[simp] theorem exec_summaryWindow (s : State) : exec .summaryWindow s = execSummaryWindow s := rfl
@[simp] theorem exec_persistBatch (all : Bool) (s : State) : exec (.persistBatch all) s = execPersistBatch all s := rfl
@[simp] theorem exec_persistPathChange (s : State) : exec .persistPathChange s = execPersistPathChange s := rfl
@[simp] theorem exec_cxlLinkTraining (lanes gts : Nat) (s : State) : exec (.cxlLinkTraining lanes gts) s = execCxlLinkTraining lanes gts s := rfl
@[simp] theorem exec_busMasteringEnable (s : State) : exec .busMasteringEnable s = execBusMasteringEnable s := rfl
@[simp] theorem exec_entropyFail (s : State) : exec .entropyFail s = execEntropyFail s := rfl
@[simp] theorem exec_pldmBase (cmd : Nat) (s : State) : exec (.pldmBase cmd) s = execPldmBase cmd s := rfl
@[simp] theorem exec_unsupportedRequest (mbx unread : Bool) (code : Nat) (s : State) : exec (.unsupportedRequest mbx unread code) s = execUnsupportedRequest mbx unread code s := rfl

end Sys2Proof.Machine
end

