-- ==== Sys2Proof/Laws/Fabric.lean ====
section
/-!
SUPPORT. What the target's side of a stream does with the request that is next in it (14 R313).
-/
namespace Sys2Proof.Machine

/-- The next request of a stream, of its epoch, not lost and not held already, is applied, and then what the buffer holds. -/
theorem streamReq_next (s : State) (port : Nat) (p : Packet) (he : p.epoch = (rxAt s p.src).epoch) (hp : p.psn = (rxAt s p.src).expect)
    (hb : NMap.find? (rxAt s p.src).buf p.psn = none) (hl : (rxAt s p.src).lost = false) :
    streamReq s port p = drainBuf 1024 (applyNext s p) p.src := by
  simp [streamReq, hl, he, hp.symm, hb]

end Sys2Proof.Machine
end

