-- ==== Sys2Proof/Laws/NMap.lean ====
section
/-!
SUPPORT. Sparse maps: what a lookup gives after an insertion or a removal, and the canonical form that both keep.
-/
namespace Sys2Proof

variable {α : Type}

/-- After an insertion the key reads as inserted, and every other key as before. -/
theorem NMap.find?_insert (m : NMap α) (k i : Nat) (v : α) :
    NMap.find? (NMap.insert m k v) i = if k = i then some v else NMap.find? m i := by
  induction m with
  | nil => simp [NMap.insert, NMap.find?]
  | cons e m ih =>
    obtain ⟨j, w⟩ := e
    by_cases h : k < j
    · simp [NMap.insert, h, NMap.find?]
    · by_cases h2 : k = j
      · subst h2
        simp only [NMap.insert, Nat.lt_irrefl, if_false, if_true, NMap.find?]
        split <;> rfl
      · simp only [NMap.insert, h, h2, if_false, NMap.find?, ih]
        split <;> split <;> simp_all

/-- As find?_insert, for the reading with a default. -/
theorem NMap.getD_insert (m : NMap α) (k i : Nat) (v d : α) :
    NMap.getD (NMap.insert m k v) i d = if k = i then v else NMap.getD m i d := by
  unfold NMap.getD
  rw [NMap.find?_insert]
  split <;> rfl

/-- The last of two insertions at one key is what counts. -/
theorem NMap.insert_insert (m : NMap α) (k : Nat) (v w : α) :
    NMap.insert (NMap.insert m k v) k w = NMap.insert m k w := by
  induction m with
  | nil => simp [NMap.insert]
  | cons e m ih =>
    obtain ⟨j, u⟩ := e
    by_cases h : k < j
    · simp [NMap.insert, h]
    · by_cases h2 : k = j
      · subst h2; simp [NMap.insert]
      · simp [NMap.insert, h, h2, ih]

/-- Every key of a map is above a bound. -/
def NMap.above (m : NMap α) (b : Nat) : Prop := ∀ e ∈ m, b < e.1

/-- The canonical form of a map with a first entry: every later key is above the first, and the rest is in the form. -/
theorem NMap.sorted_cons (m : NMap α) (j : Nat) (w : α) :
    NMap.sorted ((j, w) :: m) = true ↔ NMap.above m j ∧ NMap.sorted m = true := by
  induction m generalizing j w with
  | nil => simp [NMap.sorted, NMap.above]
  | cons e m ih =>
    obtain ⟨k, u⟩ := e
    rw [NMap.sorted, Bool.and_eq_true, decide_eq_true_eq]
    constructor
    · rintro ⟨h, hs⟩
      refine ⟨?_, hs⟩
      intro e he
      rcases List.mem_cons.mp he with rfl | he
      · exact h
      · exact Nat.lt_trans h (((ih k u).mp hs).1 e he)
    · rintro ⟨h, hs⟩
      exact ⟨h (k, u) (List.mem_cons_self ..), hs⟩

/-- An insertion lists no key but its own and those that were listed. -/
theorem NMap.mem_insert (m : NMap α) (k : Nat) (v : α) (e : Nat × α) (h : e ∈ NMap.insert m k v) : e = (k, v) ∨ e ∈ m := by
  induction m with
  | nil => simpa [NMap.insert] using h
  | cons f m ih =>
    obtain ⟨j, w⟩ := f
    simp only [NMap.insert] at h
    split at h
    · simpa using h
    · split at h
      · rcases List.mem_cons.mp h with h | h
        · exact .inl h
        · exact .inr (List.mem_cons_of_mem _ h)
      · rcases List.mem_cons.mp h with h | h
        · exact .inr (h ▸ List.mem_cons_self ..)
        · rcases ih h with h | h
          · exact .inl h
          · exact .inr (List.mem_cons_of_mem _ h)

/-- What is left after a removal was listed. -/
theorem NMap.mem_erase (m : NMap α) (k : Nat) (e : Nat × α) (h : e ∈ NMap.erase m k) : e ∈ m := by
  induction m with
  | nil => exact h
  | cons f m ih =>
    simp only [NMap.erase] at h
    split at h
    · exact List.mem_cons_of_mem _ h
    · rcases List.mem_cons.mp h with h | h
      · exact h ▸ List.mem_cons_self ..
      · exact List.mem_cons_of_mem _ (ih h)

/-- An insertion keeps the canonical form. -/
theorem NMap.sorted_insert (m : NMap α) (k : Nat) (v : α) (h : NMap.sorted m = true) : NMap.sorted (NMap.insert m k v) = true := by
  induction m with
  | nil => rfl
  | cons e m ih =>
    obtain ⟨j, w⟩ := e
    have hm := (NMap.sorted_cons m j w).mp h
    simp only [NMap.insert]
    split
    · rename_i hk
      refine (NMap.sorted_cons _ _ _).mpr ⟨?_, h⟩
      intro e he
      rcases List.mem_cons.mp he with rfl | he
      · exact hk
      · exact Nat.lt_trans hk (hm.1 e he)
    · split
      · rename_i hk
        subst hk
        exact (NMap.sorted_cons _ _ _).mpr hm
      · refine (NMap.sorted_cons _ _ _).mpr ⟨?_, ih hm.2⟩
        intro e he
        rcases NMap.mem_insert m k v e he with rfl | he
        · exact show j < k by omega
        · exact hm.1 e he

/-- A removal keeps the canonical form. -/
theorem NMap.sorted_erase (m : NMap α) (k : Nat) (h : NMap.sorted m = true) : NMap.sorted (NMap.erase m k) = true := by
  induction m with
  | nil => rfl
  | cons e m ih =>
    obtain ⟨j, w⟩ := e
    have hm := (NMap.sorted_cons m j w).mp h
    simp only [NMap.erase]
    split
    · exact hm.2
    · exact (NMap.sorted_cons _ _ _).mpr ⟨fun e he => hm.1 e (NMap.mem_erase m k e he), ih hm.2⟩

/-- A selection of the entries keeps the canonical form. -/
theorem NMap.sorted_filter (m : NMap α) (p : Nat × α → Bool) (h : NMap.sorted m = true) : NMap.sorted (m.filter p) = true := by
  induction m with
  | nil => rfl
  | cons e m ih =>
    obtain ⟨j, w⟩ := e
    have hm := (NMap.sorted_cons m j w).mp h
    rw [List.filter_cons]
    split
    · exact (NMap.sorted_cons _ _ _).mpr ⟨fun e he => hm.1 e (List.mem_filter.mp he).1, ih hm.2⟩
    · exact ih hm.2

/-- A key that is not listed is not found. -/
theorem NMap.find?_above (m : NMap α) (k : Nat) (h : NMap.above m k) : NMap.find? m k = none := by
  induction m with
  | nil => rfl
  | cons e m ih =>
    obtain ⟨j, w⟩ := e
    have hj : k < j := h (j, w) (List.mem_cons_self ..)
    have hne : ¬ j = k := by omega
    simp only [NMap.find?, hne, if_false]
    exact ih fun e he => h e (List.mem_cons_of_mem _ he)

/-- After a removal from a map in canonical form the key is not found, and every other key as before. -/
theorem NMap.find?_erase (m : NMap α) (k i : Nat) (h : NMap.sorted m = true) :
    NMap.find? (NMap.erase m k) i = if k = i then none else NMap.find? m i := by
  induction m with
  | nil => simp [NMap.erase, NMap.find?]
  | cons e m ih =>
    obtain ⟨j, w⟩ := e
    have hm := (NMap.sorted_cons m j w).mp h
    by_cases hj : j = k
    · subst hj
      simp only [NMap.erase, if_true, NMap.find?]
      split
      · rename_i hi
        subst hi
        exact NMap.find?_above m j hm.1
      · rfl
    · simp only [NMap.erase, hj, if_false, NMap.find?, ih hm.2]
      split <;> split <;> simp_all

end Sys2Proof
end

