-- ==== Sys2Proof/Laws/Memory.lean ====
section
/-!
SUPPORT. The memories: a read after a write, every other byte left alone, and the canonical form that every operation keeps.
-/
namespace Sys2Proof.Machine

/-- A write keeps the canonical form. -/
theorem memory_write_wf (m : List Host.Cell) (a : Nat) (v : Byte) (h : Memory.wf m = true) : Memory.wf (Memory.write m a v) = true := by
  simp only [Memory.wf, Bool.and_eq_true, NMap.noDefault, List.all_eq_true, decide_eq_true_eq] at h ⊢
  unfold Memory.write NMap.setD
  split
  · exact ⟨NMap.sorted_erase _ _ h.1, fun e he => h.2 e (NMap.mem_erase _ _ _ he)⟩
  · rename_i hv
    refine ⟨NMap.sorted_insert _ _ _ h.1, fun e he => ?_⟩
    rcases NMap.mem_insert _ _ _ _ he with rfl | he
    · exact hv
    · exact h.2 e he

/-- A write of several bytes keeps the canonical form. -/
theorem memory_writeN_wf (bs : List Byte) (m : List Host.Cell) (a : Nat) (h : Memory.wf m = true) : Memory.wf (Memory.writeN m a bs) = true := by
  induction bs generalizing m a with
  | nil => exact h
  | cons b bs ih => exact ih _ _ (memory_write_wf _ _ _ h)

/-- A write under a PASID keeps the canonical form. -/
theorem memory_writeUnder_wf (p : Nat) (bs : List Byte) (m : List Host.Cell) (a : Nat) (h : Memory.wf m = true) :
    Memory.wf (Memory.writeUnder p m a bs) = true := by
  induction bs generalizing m a with
  | nil => exact h
  | cons b bs ih => exact ih _ _ (memory_write_wf _ _ _ h)

/-- A selection of the bytes keeps the canonical form. -/
theorem memory_filter_wf (m : List Host.Cell) (p : Host.Cell → Bool) (h : Memory.wf m = true) : Memory.wf (m.filter p) = true := by
  simp only [Memory.wf, Bool.and_eq_true, NMap.noDefault, List.all_eq_true, decide_eq_true_eq] at h ⊢
  exact ⟨NMap.sorted_filter _ _ h.1, fun e he => h.2 e (List.mem_filter.mp he).1⟩

/-- After a write the byte reads as written, and every other byte as before. -/
theorem memory_read_write (m : List Host.Cell) (a b : Nat) (v : Byte) (h : Memory.wf m = true) :
    Memory.read (Memory.write m a v) b = if a = b then v else Memory.read m b := by
  have hs : NMap.sorted m = true := by simp only [Memory.wf, Bool.and_eq_true] at h; exact h.1
  unfold Memory.read Memory.write NMap.setD
  split
  · rename_i hv
    subst hv
    unfold NMap.getD
    rw [NMap.find?_erase _ _ _ hs]
    split <;> rfl
  · exact NMap.getD_insert _ _ _ _ _

/-- A write of several bytes leaves every byte outside them alone. -/
theorem memory_read_writeN_other (bs : List Byte) (m : List Host.Cell) (a b : Nat) (h : Memory.wf m = true) (hb : b < a ∨ a + bs.length ≤ b) :
    Memory.read (Memory.writeN m a bs) b = Memory.read m b := by
  induction bs generalizing m a with
  | nil => rfl
  | cons c bs ih =>
    simp only [Memory.writeN, List.length_cons] at hb ⊢
    rw [ih _ _ (memory_write_wf _ _ _ h) (by omega), memory_read_write _ _ _ _ h, if_neg (by omega)]

/-- After a write of several bytes each of them reads as written. -/
theorem memory_read_writeN_at (bs : List Byte) (m : List Host.Cell) (a i : Nat) (h : Memory.wf m = true) (hi : i < bs.length) :
    Memory.read (Memory.writeN m a bs) (a + i) = bs.getD i 0 := by
  induction bs generalizing m a i with
  | nil => exact absurd hi (Nat.not_lt_zero _)
  | cons c bs ih =>
    simp only [Memory.writeN]
    cases i with
    | zero => 
      rw [memory_read_writeN_other _ _ _ _ (memory_write_wf _ _ _ h) (by omega), memory_read_write _ _ _ _ h]
      simp
    | succ i =>
      have he : a + (i + 1) = a + 1 + i := by omega
      rw [he, ih _ _ _ (memory_write_wf _ _ _ h) (by simpa using hi)]
      rfl

end Sys2Proof.Machine
end

