-- ==== Sys2Proof/Laws/Keeps.lean ====
section
/-!
SUPPORT. What every operation of the block keeps: the canonical form of both memories, a beat of the tick, and the queue.
-/
namespace Sys2Proof.Machine

/-- Both memories, the beat and the queue of a state, by value. -/
def KeepsAll (q p : List Instr) (dev host : List Host.Cell) (beat : Nat) : Prop :=
  Memory.wf dev = true ∧ Memory.wf host = true ∧ beat < 1250 ∧ p = q

/-- A state keeps the canonical form of both memories and a beat of the tick, with this queue. -/
def Keeps (q : List Instr) (s : State) : Prop := KeepsAll q s.pending s.mem.dev s.mem.host s.tkp.beat

/-- An outcome that goes on goes on in a state that keeps them. -/
def KeepsOut (q : List Instr) : Out → Prop
  | .next t => Keeps q t
  | .fault _ => True
  | .refused _ => True

theorem keepsOut_next {q : List Instr} {t : State} (h : Keeps q t) : KeepsOut q (.next t) := h

theorem keeps_of {q : List Instr} {s : State} (h : Keeps q s) : KeepsAll q s.pending s.mem.dev s.mem.host s.tkp.beat := h

/-- A state written out keeps them if its memories, beat and queue do. -/
theorem keeps_lit {q : List Instr} {pending freeN pwr tkp tiles dies mem srv mov fla attn merges fh rad fab tim hst slc fw ras sec evr start} :
    Keeps q ⟨pending, freeN, pwr, tkp, tiles, dies, mem, srv, mov, fla, attn, merges, fh, rad, fab, tim, hst, slc, fw, ras, sec, evr, start⟩ ↔
      KeepsAll q pending mem.dev mem.host tkp.beat := Iff.rfl

theorem keepsAll_writeDev {q p : List Instr} {dev host : List Host.Cell} {beat : Nat} (a : Nat) (bs : List Byte)
    (h : KeepsAll q p dev host beat) : KeepsAll q p (Memory.writeN dev a bs) host beat := ⟨memory_writeN_wf _ _ _ h.1, h.2⟩

theorem keepsAll_writeHost {q p : List Instr} {dev host : List Host.Cell} {beat : Nat} (a : Nat) (bs : List Byte)
    (h : KeepsAll q p dev host beat) : KeepsAll q p dev (Memory.writeN host a bs) beat := ⟨h.1, memory_writeN_wf _ _ _ h.2.1, h.2.2⟩

theorem keepsAll_filterDev {q p : List Instr} {dev host : List Host.Cell} {beat : Nat} (f : Host.Cell → Bool)
    (h : KeepsAll q p dev host beat) : KeepsAll q p (dev.filter f) host beat := ⟨memory_filter_wf _ _ h.1, h.2⟩

/-- A fold keeps them if each of its steps does. -/
theorem keeps_foldl {q : List Instr} {α : Type} (f : State → α → State) (l : List α) {s : State} (hf : ∀ x a, Keeps q x → Keeps q (f x a))
    (h : Keeps q s) : Keeps q (l.foldl f s) := by
  induction l generalizing s with
  | nil => exact h
  | cons a l ih => exact ih (hf s a h)

/-- As keeps_foldl, for a fold that carries a second value. -/
theorem keeps_foldl_fst {q : List Instr} {α β : Type} (f : State × β → α → State × β) (l : List α) {s : State × β}
    (hf : ∀ x a, Keeps q x.1 → Keeps q (f x a).1) (h : Keeps q s.1) : Keeps q (l.foldl f s).1 := by
  induction l generalizing s with
  | nil => exact h
  | cons a l ih => exact ih (hf s a h)

/-- An iteration keeps them if its step does. -/
theorem keeps_iter {q : List Instr} (f : State → State) (n : Nat) {s : State} (hf : ∀ x, Keeps q x → Keeps q (f x)) (h : Keeps q s) :
    Keeps q (iter f n s) := by
  induction n generalizing s with
  | zero => exact h
  | succ n ih => exact ih (hf s h)

/-- What goes on in an outcome that keeps them. -/
theorem keeps_of_next {q : List Instr} {o : Out} {t : State} (h : KeepsOut q o) (e : o = .next t) : Keeps q t := by
  subst e
  exact h

end Sys2Proof.Machine
end

