-- ==== Sys2Proof/Laws/KeepsOps.lean ====
section
/-!
SUPPORT. Every state that a definition of Machine/Ops.lean answers keeps the canonical form of both memories, the beat and the queue.
-/
set_option linter.unusedTactic false
set_option linter.unreachableTactic false
set_option linter.unusedVariables false
set_option linter.unusedSimpArgs false
namespace Sys2Proof.Machine

theorem keeps_State_takeFree {q0 : List Instr} (s : State) (hs : Keeps q0 s) : Keeps q0 (State.takeFree s).2 := by
  unfold State.takeFree
  with_reducible repeat' (first | assumption | intro _ | simp only [keeps_lit] | apply keeps_of | apply keepsAll_writeDev | apply keepsAll_writeHost | apply keepsAll_filterDev | dsimp only | split)

theorem keeps_latchAttn {q0 : List Instr} (s : State) (c : Nat) (hs : Keeps q0 s) : Keeps q0 (latchAttn s c) := by
  unfold latchAttn
  with_reducible repeat' (first | assumption | intro _ | simp only [keeps_lit] | apply keeps_of | apply keepsAll_writeDev | apply keepsAll_writeHost | apply keepsAll_filterDev | dsimp only | split)

theorem keeps_putRecord {q0 : List Instr} (s : State) (code source sev supp : Nat) (summary : Bool) (args : List Nat) (hs : Keeps q0 s) : Keeps q0 (putRecord s code source sev supp summary args) := by
  unfold putRecord
  with_reducible repeat' (first | assumption | intro _ | apply keeps_latchAttn | simp only [keeps_lit] | apply keeps_of | apply keepsAll_writeDev | apply keepsAll_writeHost | apply keepsAll_filterDev | dsimp only | split)

theorem keeps_recordNow {q0 : List Instr} (s : State) (code source : Nat) (args : List Nat) (hs : Keeps q0 s) : Keeps q0 (recordNow s code source args) := by
  unfold recordNow
  with_reducible repeat' (first | assumption | intro _ | apply keeps_putRecord | simp only [keeps_lit] | apply keeps_of | apply keepsAll_writeDev | apply keepsAll_writeHost | apply keepsAll_filterDev | dsimp only | split)

theorem keeps_recordEvent {q0 : List Instr} (s : State) (code source : Nat) (args : List Nat) (hs : Keeps q0 s) : Keeps q0 (recordEvent s code source args) := by
  unfold recordEvent
  with_reducible repeat' (first | assumption | intro _ | apply keeps_recordNow | simp only [keeps_lit] | apply keeps_of | apply keepsAll_writeDev | apply keepsAll_writeHost | apply keepsAll_filterDev | dsimp only | split)

theorem keeps_useCheck {q0 : List Instr} (s : State) (a : Nat) (hs : Keeps q0 s) : Keeps q0 (useCheck s a) := by
  unfold useCheck
  with_reducible repeat' (first | assumption | intro _ | simp only [keeps_lit] | apply keeps_of | apply keepsAll_writeDev | apply keepsAll_writeHost | apply keepsAll_filterDev | dsimp only | split)

theorem keeps_poisonLine {q0 : List Instr} (s : State) (a : Nat) (hs : Keeps q0 s) : Keeps q0 (poisonLine s a) := by
  unfold poisonLine
  with_reducible repeat' (first | assumption | intro _ | simp only [keeps_lit] | apply keeps_of | apply keepsAll_writeDev | apply keepsAll_writeHost | apply keepsAll_filterDev | dsimp only | split)

theorem keeps_findError {q0 : List Instr} (s : State) (line : Nat) (hs : Keeps q0 s) : Keeps q0 (findError s line) := by
  unfold findError
  with_reducible repeat' (first | assumption | intro _ | apply keeps_recordEvent | apply keeps_poisonLine | simp only [keeps_lit] | apply keeps_of | apply keepsAll_writeDev | apply keepsAll_writeHost | apply keepsAll_filterDev | dsimp only | split)

theorem keeps_recordUncorrected {q0 : List Instr} (s : State) (a n : Nat) (hs : Keeps q0 s) : Keeps q0 (recordUncorrected s a n) := by
  unfold recordUncorrected
  with_reducible repeat' (first | assumption | intro _ | refine keeps_foldl _ _ ?_ ?_ | apply keeps_findError | simp only [keeps_lit] | apply keeps_of | apply keepsAll_writeDev | apply keepsAll_writeHost | apply keepsAll_filterDev | dsimp only | split)

theorem keeps_noteReads {q0 : List Instr} (s : State) (a n : Nat) (hs : Keeps q0 s) : Keeps q0 (noteReads s a n) := by
  unfold noteReads
  with_reducible repeat' (first | assumption | intro _ | refine keeps_foldl _ _ ?_ ?_ | apply keeps_useCheck | simp only [keeps_lit] | apply keeps_of | apply keepsAll_writeDev | apply keepsAll_writeHost | apply keepsAll_filterDev | dsimp only | split)

theorem keeps_writeChunk {q0 : List Instr} (s : State) (a : Nat) (bs : List Byte) (hs : Keeps q0 s) : Keeps q0 (writeChunk s a bs).1 := by
  unfold writeChunk
  with_reducible repeat' (first | assumption | intro _ | apply keeps_useCheck | apply keeps_findError | simp only [keeps_lit] | apply keeps_of | apply keepsAll_writeDev | apply keepsAll_writeHost | apply keepsAll_filterDev | dsimp only | split)

theorem keeps_writeChunks {q0 : List Instr}  (z0 : List (Nat × List Byte)) (z1 : State) (hz1 : Keeps q0 z1) : Keeps q0 (writeChunks z0 z1).1 := by
  induction z0 generalizing z1 with
  | nil => exact hz1
  | cons c cs ih => exact ih _ (keeps_writeChunk _ _ _ hz1)


theorem keeps_devWrite {q0 : List Instr} (s : State) (a : Nat) (bs : List Byte) (hs : Keeps q0 s) : Keeps q0 (devWrite s a bs).1 := by
  unfold devWrite
  with_reducible repeat' (first | assumption | intro _ | apply keeps_writeChunks | simp only [keeps_lit] | apply keeps_of | apply keepsAll_writeDev | apply keepsAll_writeHost | apply keepsAll_filterDev | dsimp only | split)

theorem keeps_devPut {q0 : List Instr} (s : State) (a : Nat) (bs : List Byte) (hs : Keeps q0 s) : Keeps q0 (devPut s a bs) := by
  unfold devPut
  with_reducible repeat' (first | assumption | intro _ | apply keeps_devWrite | simp only [keeps_lit] | apply keeps_of | apply keepsAll_writeDev | apply keepsAll_writeHost | apply keepsAll_filterDev | dsimp only | split)

theorem keeps_wholeLines {q0 : List Instr} (s : State) (a n : Nat) (hs : Keeps q0 s) : Keeps q0 (wholeLines s a n) := by
  unfold wholeLines
  with_reducible repeat' (first | assumption | intro _ | simp only [keeps_lit] | apply keeps_of | apply keepsAll_writeDev | apply keepsAll_writeHost | apply keepsAll_filterDev | dsimp only | split)

theorem keeps_bumpCounter {q0 : List Instr} (s : State) (a : Nat) (hs : Keeps q0 s) : Keeps q0 (bumpCounter s a) := by
  unfold bumpCounter
  with_reducible repeat' (first | assumption | intro _ | apply keeps_devWrite | simp only [keeps_lit] | apply keeps_of | apply keepsAll_writeDev | apply keepsAll_writeHost | apply keepsAll_filterDev | dsimp only | split)

theorem keeps_devZero {q0 : List Instr} (s : State) (a n : Nat) (hs : Keeps q0 s) : Keeps q0 (devZero s a n) := by
  unfold devZero
  with_reducible repeat' (first | assumption | intro _ | simp only [keeps_lit] | apply keeps_of | apply keepsAll_writeDev | apply keepsAll_writeHost | apply keepsAll_filterDev | dsimp only | split)

theorem keeps_hostWrite {q0 : List Instr} (s : State) (pas : Option Nat) (a : Nat) (bs : List Byte) (hs : Keeps q0 s) : Keeps q0 (hostWrite s pas a bs) := by
  cases pas with
  | none => exact ⟨hs.1, memory_writeN_wf _ _ _ hs.2.1, hs.2.2⟩
  | some p => exact ⟨hs.1, memory_writeUnder_wf _ _ _ _ hs.2.1, hs.2.2⟩


theorem keeps_trace {q0 : List Instr} (s : State) (point cp arg0 arg1 : Nat) (hs : Keeps q0 s) : Keeps q0 (trace s point cp arg0 arg1) := by
  unfold trace
  with_reducible repeat' (first | assumption | intro _ | apply keeps_devPut | simp only [keeps_lit] | apply keeps_of | apply keepsAll_writeDev | apply keepsAll_writeHost | apply keepsAll_filterDev | dsimp only | split)

theorem keeps_setTile {q0 : List Instr} (s : State) (t : Nat) (x : Tile) (hs : Keeps q0 s) : Keeps q0 (setTile s t x) := by
  unfold setTile
  with_reducible repeat' (first | assumption | intro _ | simp only [keeps_lit] | apply keeps_of | apply keepsAll_writeDev | apply keepsAll_writeHost | apply keepsAll_filterDev | dsimp only | split)

theorem keeps_modTile {q0 : List Instr} (s : State) (t : Nat) (f : Tile → Tile) (hs : Keeps q0 s) : Keeps q0 (modTile s t f) := by
  unfold modTile
  with_reducible repeat' (first | assumption | intro _ | apply keeps_setTile | simp only [keeps_lit] | apply keeps_of | apply keepsAll_writeDev | apply keepsAll_writeHost | apply keepsAll_filterDev | dsimp only | split)

theorem keeps_incSync {q0 : List Instr} (s : State) (ctr : Nat) (hs : Keeps q0 s) : Keeps q0 (incSync s ctr) := by
  unfold incSync
  with_reducible repeat' (first | assumption | intro _ | simp only [keeps_lit] | apply keeps_of | apply keepsAll_writeDev | apply keepsAll_writeHost | apply keepsAll_filterDev | dsimp only | split)

theorem keeps_modCtx {q0 : List Instr} (s : State) (c : Nat) (f : Ctx → Ctx) (hs : Keeps q0 s) : Keeps q0 (modCtx s c f) := by
  unfold modCtx
  with_reducible repeat' (first | assumption | intro _ | simp only [keeps_lit] | apply keeps_of | apply keepsAll_writeDev | apply keepsAll_writeHost | apply keepsAll_filterDev | dsimp only | split)

theorem keeps_ctxState {q0 : List Instr} (s : State) (c st : Nat) (hs : Keeps q0 s) : Keeps q0 (ctxState s c st) := by
  unfold ctxState
  with_reducible repeat' (first | assumption | intro _ | apply keeps_trace | apply keeps_modCtx | simp only [keeps_lit] | apply keeps_of | apply keepsAll_writeDev | apply keepsAll_writeHost | apply keepsAll_filterDev | dsimp only | split)

theorem keeps_barContext {q0 : List Instr} (s : State) (c cause : Nat) (hs : Keeps q0 s) : Keeps q0 (barContext s c cause) := by
  unfold barContext
  with_reducible repeat' (first | assumption | intro _ | simp only [keeps_lit] | apply keeps_of | apply keepsAll_writeDev | apply keepsAll_writeHost | apply keepsAll_filterDev | dsimp only | split)

end Sys2Proof.Machine
end

