-- ==== Sys2Proof/Laws/KeepsFabricOps.lean ====
section
/-!
SUPPORT. Every state that a definition of Machine/FabricOps.lean answers keeps the canonical form of both memories, the beat and the queue.
-/
set_option linter.unusedTactic false
set_option linter.unreachableTactic false
set_option linter.unusedVariables false
set_option linter.unusedSimpArgs false
namespace Sys2Proof.Machine

theorem keeps_modPort {q0 : List Instr} (s : State) (p : Nat) (f : WPort → WPort) (hs : Keeps q0 s) : Keeps q0 (modPort s p f) := by
  unfold modPort
  with_reducible repeat' (first | assumption | intro _ | simp only [keeps_lit] | apply keeps_of | dsimp only | split)

theorem keeps_setTx {q0 : List Instr} (s : State) (d : Nat) (x : TxStream) (hs : Keeps q0 s) : Keeps q0 (setTx s d x) := by
  unfold setTx
  with_reducible repeat' (first | assumption | intro _ | simp only [keeps_lit] | apply keeps_of | dsimp only | split)

theorem keeps_setRx {q0 : List Instr} (s : State) (d : Nat) (x : RxStream) (hs : Keeps q0 s) : Keeps q0 (setRx s d x) := by
  unfold setRx
  with_reducible repeat' (first | assumption | intro _ | simp only [keeps_lit] | apply keeps_of | dsimp only | split)

theorem keeps_modPaths {q0 : List Instr} (s : State) (d : Nat) (f : List Path → List Path) (hs : Keeps q0 s) : Keeps q0 (modPaths s d f) := by
  unfold modPaths
  with_reducible repeat' (first | assumption | intro _ | simp only [keeps_lit] | apply keeps_of | dsimp only | split)

theorem keeps_putPacket {q0 : List Instr} (s : State) (port : Nat) (p : Packet) (hs : Keeps q0 s) : Keeps q0 (putPacket s port p) := by
  unfold putPacket
  with_reducible repeat' (first | assumption | intro _ | refine keeps_foldl _ _ ?_ ?_ | apply keeps_modPort | simp only [keeps_lit] | apply keeps_of | dsimp only | split)

theorem keeps_transmit {q0 : List Instr} (s : State) (d : Nat) (w : OutReq) (hs : Keeps q0 s) : Keeps q0 (transmit s d w).1 := by
  unfold transmit
  with_reducible repeat' (first | assumption | intro _ | apply keeps_putPacket | apply keeps_setTx | simp only [keeps_lit] | apply keeps_of | dsimp only | split)

theorem keeps_hold {q0 : List Instr} (s : State) (d : Nat) (o : OutReq) (hs : Keeps q0 s) : Keeps q0 (hold s d o) := by
  unfold hold
  with_reducible repeat' (first | assumption | intro _ | apply keeps_setTx | simp only [keeps_lit] | apply keeps_of | dsimp only | split)

theorem keeps_issueReq {q0 : List Instr} (s : State) (d : Nat) (pkt : Packet) (origin : Option (Nat × Nat × Nat)) (key : Option Nat) (hs : Keeps q0 s) : Keeps q0 (issueReq s d pkt origin key) := by
  unfold issueReq
  with_reducible repeat' (first | assumption | intro _ | apply keeps_transmit | apply keeps_hold | simp only [keeps_lit] | apply keeps_of | dsimp only | split)

theorem keeps_pumpHeld {q0 : List Instr} (d : Nat) (z0 : List OutReq) (z1 : Bool) (z2 : State) (hz2 : Keeps q0 z2) : Keeps q0 (pumpHeld d z0 z1 z2) := by
  induction z0 generalizing z1 z2 with
  | nil => unfold pumpHeld; with_reducible repeat' (first | assumption | intro _ | apply keeps_transmit | apply keeps_hold | simp only [keeps_lit] | apply keeps_of | dsimp only | split)
  | cons a l ih =>
    unfold pumpHeld
    with_reducible repeat' (first | apply ih | (first | assumption | intro _ | apply keeps_transmit | apply keeps_hold | simp only [keeps_lit] | apply keeps_of | dsimp only | split))


theorem keeps_pump {q0 : List Instr} (s : State) (d : Nat) (hs : Keeps q0 s) : Keeps q0 (pump s d) := by
  unfold pump
  with_reducible repeat' (first | assumption | intro _ | apply keeps_pumpHeld | apply keeps_setTx | simp only [keeps_lit] | apply keeps_of | dsimp only | split)

theorem keeps_sendResp {q0 : List Instr} (s : State) (p : Packet) (hs : Keeps q0 s) : Keeps q0 (sendResp s p) := by
  unfold sendResp
  with_reducible repeat' (first | assumption | intro _ | apply keeps_putPacket | simp only [keeps_lit] | apply keeps_of | dsimp only | split)

theorem keeps_pathDownEvent {q0 : List Instr} (s : State) (hs : Keeps q0 s) : Keeps q0 (pathDownEvent s) := by
  unfold pathDownEvent
  with_reducible repeat' (first | assumption | intro _ | apply keeps_recordEvent | simp only [keeps_lit] | apply keeps_of | dsimp only | split)

theorem keeps_portLeaves {q0 : List Instr} (s : State) (port st : Nat) (hs : Keeps q0 s) : Keeps q0 (portLeaves s port st) := by
  unfold portLeaves
  with_reducible repeat' (first | assumption | intro _ | refine keeps_foldl _ _ ?_ ?_ | apply keeps_modPort | apply keeps_pathDownEvent | simp only [keeps_lit] | apply keeps_of | dsimp only | split)

theorem keeps_sendMsgFor {q0 : List Instr} (s : State) (d cls moveId : Nat) (arg : List Nat) (body : List Byte) (cmd : Nat × Nat) (hs : Keeps q0 s) : Keeps q0 (sendMsgFor s d cls moveId arg body cmd) := by
  unfold sendMsgFor
  with_reducible repeat' (first | assumption | intro _ | refine keeps_foldl _ _ ?_ ?_ | apply keeps_issueReq | simp only [keeps_lit] | apply keeps_of | dsimp only | split)

theorem keeps_sendMsg {q0 : List Instr} (s : State) (d cls moveId : Nat) (arg : List Nat) (body : List Byte) (hs : Keeps q0 s) : Keeps q0 (sendMsg s d cls moveId arg body) := by
  unfold sendMsg
  with_reducible repeat' (first | assumption | intro _ | apply keeps_sendMsgFor | simp only [keeps_lit] | apply keeps_of | dsimp only | split)

end Sys2Proof.Machine
end

