-- ==== Sys2Proof/Laws/KeepsHostOps.lean ====
section
/-!
SUPPORT. Every state that a definition of Machine/HostOps.lean answers keeps the canonical form of both memories, the beat and the queue.
-/
set_option linter.unusedTactic false
set_option linter.unreachableTactic false
set_option linter.unusedVariables false
set_option linter.unusedSimpArgs false
namespace Sys2Proof.Machine

theorem keeps_modRec {q0 : List Instr} (s : State) (q seq : Nat) (f : JRec → JRec) (hs : Keeps q0 s) : Keeps q0 (modRec s q seq f) := by
  unfold modRec
  with_reducible repeat' (first | assumption | intro _ | simp only [keeps_lit] | apply keeps_of | dsimp only | split)

theorem keeps_journalWrite {q0 : List Instr} (s : State) (unit : Nat) (bs : List Byte) (hs : Keeps q0 s) : Keeps q0 (journalWrite s unit bs) := by
  unfold journalWrite
  with_reducible repeat' (first | assumption | intro _ | refine keeps_foldl _ _ ?_ ?_ | apply keeps_devPut | simp only [keeps_lit] | apply keeps_of | dsimp only | split)

theorem keeps_journalPut {q0 : List Instr} (s : State) (r : JRec) (hs : Keeps q0 s) : Keeps q0 (journalPut s r) := by
  unfold journalPut
  with_reducible repeat' (first | assumption | intro _ | apply keeps_journalWrite | simp only [keeps_lit] | apply keeps_of | dsimp only | split)

theorem keeps_journalFaults {q0 : List Instr} (s : State) (copy unit n : Nat) (hs : Keeps q0 s) : Keeps q0 (journalFaults s copy unit n) := by
  unfold journalFaults
  with_reducible repeat' (first | assumption | intro _ | refine keeps_foldl _ _ ?_ ?_ | apply keeps_recordUncorrected | simp only [keeps_lit] | apply keeps_of | dsimp only | split)

theorem keeps_journalRead {q0 : List Instr} (s : State) (unit n : Nat) (hs : Keeps q0 s) : Keeps q0 (journalRead s unit n).1 := by
  unfold journalRead
  with_reducible repeat' (first | assumption | intro _ | refine keeps_foldl _ _ ?_ ?_ | apply keeps_journalFaults | apply keeps_devPut | simp only [keeps_lit] | apply keeps_of | dsimp only | split)

theorem keeps_journalReload {q0 : List Instr} (s : State) (hs : Keeps q0 s) : Keeps q0 (journalReload s) := by
  unfold journalReload
  with_reducible repeat' (first | assumption | intro _ | refine keeps_foldl _ _ ?_ ?_ | apply keeps_journalRead | simp only [keeps_lit] | apply keeps_of | dsimp only | split)

theorem keeps_setQueue {q0 : List Instr} (s : State) (q : Nat) (x : Queue) (hs : Keeps q0 s) : Keeps q0 (setQueue s q x) := by
  unfold setQueue
  with_reducible repeat' (first | assumption | intro _ | simp only [keeps_lit] | apply keeps_of | dsimp only | split)

theorem keeps_signalVec {q0 : List Instr} (s : State) (v : Nat) (hs : Keeps q0 s) : Keeps q0 (signalVec s v) := by
  unfold signalVec
  with_reducible repeat' (first | assumption | intro _ | simp only [keeps_lit] | apply keeps_of | dsimp only | split)

theorem keeps_coalesce {q0 : List Instr} (s : State) (q : Nat) (x : Queue) (hs : Keeps q0 s) : Keeps q0 (coalesce s q x) := by
  unfold coalesce
  with_reducible repeat' (first | assumption | intro _ | apply keeps_signalVec | apply keeps_setQueue | simp only [keeps_lit] | apply keeps_of | dsimp only | split)

theorem keeps_ringPut {q0 : List Instr} (s : State) (q : Nat) (x : Queue) (c : List Byte) (hs : Keeps q0 s) : Keeps q0 (ringPut s q x c) := by
  unfold ringPut
  with_reducible repeat' (first | assumption | intro _ | apply keeps_devPut | apply keeps_hostWrite | apply keeps_coalesce | simp only [keeps_lit] | apply keeps_of | dsimp only | split)

theorem keeps_postCpl {q0 : List Instr} (s : State) (q : Nat) (c : List Byte) (hs : Keeps q0 s) : Keeps q0 (postCpl s q c) := by
  unfold postCpl
  with_reducible repeat' (first | assumption | intro _ | apply keeps_ringPut | apply keeps_setQueue | simp only [keeps_lit] | apply keeps_of | dsimp only | split)

theorem keeps_flushGo {q0 : List Instr}  (z0 : Nat) (z1 : State) (z2 : Nat) (hz1 : Keeps q0 z1) : Keeps q0 (flushGo z0 z1 z2) := by
  induction z0 generalizing z1 with
  | zero => unfold flushGo; with_reducible repeat' (first | assumption | intro _ | apply keeps_ringPut | simp only [keeps_lit] | apply keeps_of | dsimp only | split)
  | succ n ih =>
    unfold flushGo
    with_reducible repeat' (first | apply ih | (first | assumption | intro _ | apply keeps_ringPut | simp only [keeps_lit] | apply keeps_of | dsimp only | split))


theorem keeps_flushHeld {q0 : List Instr} (s : State) (q : Nat) (hs : Keeps q0 s) : Keeps q0 (flushHeld s q) := by
  unfold flushHeld
  with_reducible repeat' (first | assumption | intro _ | apply keeps_flushGo | simp only [keeps_lit] | apply keeps_of | dsimp only | split)

theorem keeps_postDone {q0 : List Instr} (s : State) (r : JRec) (repost : Bool) (hs : Keeps q0 s) : Keeps q0 (postDone s r repost) := by
  unfold postDone
  with_reducible repeat' (first | assumption | intro _ | apply keeps_modRec | apply keeps_postCpl | simp only [keeps_lit] | apply keeps_of | dsimp only | split)

theorem keeps_freeRecs {q0 : List Instr} (s : State) (q : Nat) (hs : Keeps q0 s) : Keeps q0 (freeRecs s q) := by
  unfold freeRecs
  with_reducible repeat' (first | assumption | intro _ | simp only [keeps_lit] | apply keeps_of | dsimp only | split)

theorem keeps_mirrorPiece {q0 : List Instr} (s : State) (r : JRec) (i : Nat) (b : List Byte) (origin : Option (Nat × Nat × Nat)) (hs : Keeps q0 s) : Keeps q0 (mirrorPiece s r i b origin) := by
  unfold mirrorPiece
  with_reducible repeat' (first | assumption | intro _ | apply keeps_issueReq | simp only [keeps_lit] | apply keeps_of | dsimp only | split)

theorem keeps_unmirror {q0 : List Instr} (s : State) (hs : Keeps q0 s) : Keeps q0 (unmirror s) := by
  unfold unmirror
  with_reducible repeat' (first | assumption | intro _ | refine keeps_foldl _ _ ?_ ?_ | apply keeps_postDone | apply keeps_recordEvent | apply keeps_latchAttn | simp only [keeps_lit] | apply keeps_of | dsimp only | split)

theorem keeps_mirrorStore {q0 : List Instr} (s : State) (q seq : Nat) (hs : Keeps q0 s) : Keeps q0 (mirrorStore s q seq) := by
  unfold mirrorStore
  with_reducible repeat' (first | assumption | intro _ | refine keeps_foldl _ _ ?_ ?_ | apply keeps_modRec | apply keeps_mirrorPiece | apply keeps_unmirror | simp only [keeps_lit] | apply keeps_of | dsimp only | split)

theorem keeps_finishAt {q0 : List Instr} (s : State) (q seq status : Nat) (value : W64) (tick : Nat) (hs : Keeps q0 s) : Keeps q0 (finishAt s q seq status value tick) := by
  unfold finishAt
  with_reducible repeat' (first | assumption | intro _ | apply keeps_modRec | apply keeps_journalPut | apply keeps_mirrorStore | apply keeps_postDone | simp only [keeps_lit] | apply keeps_of | dsimp only | split)

theorem keeps_finish {q0 : List Instr} (s : State) (q seq status : Nat) (value : W64) (hs : Keeps q0 s) : Keeps q0 (finish s q seq status value) := by
  unfold finish
  with_reducible repeat' (first | assumption | intro _ | apply keeps_finishAt | simp only [keeps_lit] | apply keeps_of | dsimp only | split)

theorem keeps_writeResult {q0 : List Instr} (s : State) (r : JRec) (bytes : List Byte) (hs : Keeps q0 s) : Keeps q0 (writeResult s r bytes).1 := by
  unfold writeResult
  with_reducible repeat' (first | assumption | intro _ | apply keeps_devWrite | apply keeps_hostWrite | simp only [keeps_lit] | apply keeps_of | dsimp only | split)

theorem keeps_finishWith {q0 : List Instr} (s : State) (q seq status : Nat) (value : W64) (result : List Byte) (hs : Keeps q0 s) : Keeps q0 (finishWith s q seq status value result) := by
  unfold finishWith
  with_reducible repeat' (first | assumption | intro _ | apply keeps_writeResult | apply keeps_finish | simp only [keeps_lit] | apply keeps_of | dsimp only | split)

theorem keeps_withCmd {q0 : List Instr} (s : State) (q seq opcode : Nat) (f : JRec → State → State) (hs : Keeps q0 s) (hf : ∀ y0 y1, Keeps q0 y1 → Keeps q0 (f y0 y1)) : Keeps q0 (withCmd s q seq opcode f) := by
  unfold withCmd
  with_reducible repeat' (first | assumption | intro _ | apply keeps_modRec | apply hf | simp only [keeps_lit] | apply keeps_of | dsimp only | split)

theorem keeps_landed {q0 : List Instr} (s : State) (hs : Keeps q0 s) : Keeps q0 (landed s) := by
  unfold landed
  with_reducible repeat' (first | assumption | intro _ | simp only [keeps_lit] | apply keeps_of | dsimp only | split)

theorem keeps_queueSeam {q0 : List Instr} (s : State) (r : JRec) (hs : Keeps q0 s) : Keeps q0 (queueSeam s r) := by
  unfold queueSeam
  with_reducible repeat' (first | assumption | intro _ | simp only [keeps_lit] | apply keeps_of | dsimp only | split)

theorem keeps_withSeamCmd {q0 : List Instr} (s : State) (q seq opcode : Nat) (check : JRec → State → Nat) (hs : Keeps q0 s) : Keeps q0 (withSeamCmd s q seq opcode check) := by
  unfold withSeamCmd
  with_reducible repeat' (first | assumption | intro _ | apply keeps_withCmd | apply keeps_queueSeam | apply keeps_finishAt | simp only [keeps_lit] | apply keeps_of | dsimp only | split)

theorem keeps_buildReport {q0 : List Instr} (s : State) (cause : Nat) (lost : Bool) (hs : Keeps q0 s) : Keeps q0 (buildReport s cause lost) := by
  unfold buildReport
  with_reducible repeat' (first | assumption | intro _ | apply keeps_latchAttn | simp only [keeps_lit] | apply keeps_of | dsimp only | split)

theorem keeps_dropQueue {q0 : List Instr} (s : State) (q : Nat) (hs : Keeps q0 s) : Keeps q0 (dropQueue s q) := by
  unfold dropQueue
  with_reducible repeat' (first | assumption | intro _ | simp only [keeps_lit] | apply keeps_of | dsimp only | split)

theorem keeps_unpark {q0 : List Instr} (s : State) (q : Nat) (hs : Keeps q0 s) : Keeps q0 (unpark s q) := by
  unfold unpark
  with_reducible repeat' (first | assumption | intro _ | refine keeps_foldl _ _ ?_ ?_ | apply keeps_hostWrite | simp only [keeps_lit] | apply keeps_of | dsimp only | split)

theorem keeps_repostAll {q0 : List Instr} (s : State) (q : Nat) (pasid : Option Nat) (hs : Keeps q0 s) : Keeps q0 (repostAll s q pasid) := by
  unfold repostAll
  with_reducible repeat' (first | assumption | intro _ | refine keeps_foldl _ _ ?_ ?_ | apply keeps_postDone | simp only [keeps_lit] | apply keeps_of | dsimp only | split)

theorem keeps_retryPark {q0 : List Instr} (s : State) (hs : Keeps q0 s) : Keeps q0 (retryPark s) := by
  unfold retryPark
  with_reducible repeat' (first | assumption | intro _ | refine keeps_foldl _ _ ?_ ?_ | apply keeps_finishWith | simp only [keeps_lit] | apply keeps_of | dsimp only | split)

theorem keeps_createQueue {q0 : List Instr} (s : State) (q : Nat) (x : Queue) (recover : Bool) (hs : Keeps q0 s) : Keeps q0 (createQueue s q x recover) := by
  unfold createQueue
  with_reducible repeat' (first | assumption | intro _ | refine keeps_foldl _ _ ?_ ?_ | apply keeps_retryPark | apply keeps_unpark | apply keeps_setQueue | apply keeps_repostAll | apply keeps_postCpl | simp only [keeps_lit] | apply keeps_of | dsimp only | split)

theorem keeps_finishAll {q0 : List Instr} (s : State) (p : JRec → Bool) (status : Nat) (hs : Keeps q0 s) : Keeps q0 (finishAll s p status) := by
  unfold finishAll
  with_reducible repeat' (first | assumption | intro _ | refine keeps_foldl _ _ ?_ ?_ | apply keeps_finish | simp only [keeps_lit] | apply keeps_of | dsimp only | split)

theorem keeps_fenceAll {q0 : List Instr} (s : State) (hs : Keeps q0 s) : Keeps q0 (fenceAll s) := by
  unfold fenceAll
  with_reducible repeat' (first | assumption | intro _ | refine keeps_foldl _ _ ?_ ?_ | apply keeps_portLeaves | simp only [keeps_lit] | apply keeps_of | dsimp only | split)

theorem keeps_deviceFail {q0 : List Instr} (s : State) (code source : Nat) (args : List Nat) (hs : Keeps q0 s) : Keeps q0 (deviceFail s code source args) := by
  unfold deviceFail
  with_reducible repeat' (first | assumption | intro _ | apply keeps_recordEvent | apply keeps_fenceAll | apply keeps_finishAll | simp only [keeps_lit] | apply keeps_of | dsimp only | split)

end Sys2Proof.Machine
end

