-- ==== Sys2Proof/Laws/KeepsAdmin.lean ====
section
/-!
SUPPORT. Every state that a definition of Machine/Admin.lean answers keeps the canonical form of both memories, the beat and the queue.
-/
set_option linter.unusedTactic false
set_option linter.unreachableTactic false
set_option linter.unusedVariables false
set_option linter.unusedSimpArgs false
namespace Sys2Proof.Machine

theorem keeps_execNop {q0 : List Instr} (q seq : Nat) (s : State) (hs : Keeps q0 s) : KeepsOut q0 (execNop q seq s) := by
  unfold execNop
  with_reducible repeat' (first | assumption | intro _ | apply keepsOut_next | apply keeps_withCmd | apply keeps_finish | simp only [keeps_lit] | apply keeps_of | dsimp only | split)

theorem keeps_execQueueCreate {q0 : List Instr} (q seq : Nat) (s : State) (hs : Keeps q0 s) : KeepsOut q0 (execQueueCreate q seq s) := by
  unfold execQueueCreate
  with_reducible repeat' (first | assumption | intro _ | apply keepsOut_next | apply keeps_withCmd | apply keeps_finish | apply keeps_createQueue | simp only [keeps_lit] | apply keeps_of | dsimp only | split)

theorem keeps_execQueueDelete {q0 : List Instr} (q seq : Nat) (s : State) (hs : Keeps q0 s) : KeepsOut q0 (execQueueDelete q seq s) := by
  unfold execQueueDelete
  with_reducible repeat' (first | assumption | intro _ | apply keepsOut_next | apply keeps_withCmd | apply keeps_finish | apply keeps_dropQueue | simp only [keeps_lit] | apply keeps_of | dsimp only | split)

theorem keeps_execIdentify {q0 : List Instr} (q seq : Nat) (s : State) (hs : Keeps q0 s) : KeepsOut q0 (execIdentify q seq s) := by
  unfold execIdentify
  with_reducible repeat' (first | assumption | intro _ | apply keepsOut_next | apply keeps_withCmd | apply keeps_finishWith | apply keeps_finish | simp only [keeps_lit] | apply keeps_of | dsimp only | split)

theorem keeps_execRecoveryGet {q0 : List Instr} (q seq : Nat) (s : State) (hs : Keeps q0 s) : KeepsOut q0 (execRecoveryGet q seq s) := by
  unfold execRecoveryGet
  with_reducible repeat' (first | assumption | intro _ | apply keepsOut_next | apply keeps_withCmd | apply keeps_finishWith | apply keeps_finish | simp only [keeps_lit] | apply keeps_of | dsimp only | split)

theorem keeps_execAttnAck {q0 : List Instr} (q seq : Nat) (s : State) (hs : Keeps q0 s) : KeepsOut q0 (execAttnAck q seq s) := by
  unfold execAttnAck
  with_reducible repeat' (first | assumption | intro _ | apply keepsOut_next | apply keeps_withCmd | apply keeps_finish | simp only [keeps_lit] | apply keeps_of | dsimp only | split)

theorem keeps_mirrorApply {q0 : List Instr} (r : JRec) (s : State) (hs : Keeps q0 s) : Keeps q0 (mirrorApply r s) := by
  unfold mirrorApply
  with_reducible repeat' (first | assumption | intro _ | refine keeps_foldl _ _ ?_ ?_ | apply keeps_journalReload | apply keeps_mirrorStore | apply keeps_postDone | simp only [keeps_lit] | apply keeps_of | dsimp only | split)

theorem keeps_execMirrorSet {q0 : List Instr} (q seq : Nat) (s : State) (hs : Keeps q0 s) : KeepsOut q0 (execMirrorSet q seq s) := by
  unfold execMirrorSet
  with_reducible repeat' (first | assumption | intro _ | apply keepsOut_next | apply keeps_withSeamCmd | simp only [keeps_lit] | apply keeps_of | dsimp only | split)

theorem keeps_execMirrorReport {q0 : List Instr} (q seq : Nat) (s : State) (hs : Keeps q0 s) : KeepsOut q0 (execMirrorReport q seq s) := by
  unfold execMirrorReport
  with_reducible repeat' (first | assumption | intro _ | apply keepsOut_next | apply keeps_withCmd | apply keeps_finish | apply keeps_State_takeFree | apply keeps_finishWith | simp only [keeps_lit] | apply keeps_of | dsimp only | split)

theorem keeps_execRepairMapGet {q0 : List Instr} (q seq : Nat) (s : State) (hs : Keeps q0 s) : KeepsOut q0 (execRepairMapGet q seq s) := by
  unfold execRepairMapGet
  with_reducible repeat' (first | assumption | intro _ | apply keepsOut_next | apply keeps_withCmd | apply keeps_finishWith | apply keeps_finish | simp only [keeps_lit] | apply keeps_of | dsimp only | split)

end Sys2Proof.Machine
end

