-- ==== Sys2Proof/Laws/KeepsTileOps.lean ====
section
/-!
SUPPORT. Every state that a definition of Machine/TileOps.lean answers keeps the canonical form of both memories, the beat and the queue.
-/
set_option linter.unusedTactic false
set_option linter.unreachableTactic false
set_option linter.unusedVariables false
set_option linter.unusedSimpArgs false
namespace Sys2Proof.Machine

theorem keeps_tileStore {q0 : List Instr} (s : State) (t : Nat) (bytes : List (Nat × Byte)) (hs : Keeps q0 s) : Keeps q0 (tileStore s t bytes) := by
  unfold tileStore
  with_reducible repeat' (first | assumption | intro _ | apply keeps_modTile | simp only [keeps_lit] | apply keeps_of | dsimp only | split)

theorem keeps_chargeBeats {q0 : List Instr} (s : State) (t : Nat) (r : Running) (beats : Nat) (hs : Keeps q0 s) : Keeps q0 (chargeBeats s t r beats) := by
  unfold chargeBeats
  with_reducible repeat' (first | assumption | intro _ | apply keeps_modTile | simp only [keeps_lit] | apply keeps_of | dsimp only | split)

theorem keeps_heldCheck {q0 : List Instr} (s : State) (c : Nat) (hs : Keeps q0 s) : Keeps q0 (heldCheck s c) := by
  unfold heldCheck
  with_reducible repeat' (first | assumption | intro _ | refine keeps_foldl _ _ ?_ ?_ | apply keeps_finish | apply keeps_modCtx | apply keeps_ctxState | simp only [keeps_lit] | apply keeps_of | dsimp only | split)

theorem keeps_leaveTile {q0 : List Instr} (s : State) (t : Nat) (r : Running) (beats : Nat) (hs : Keeps q0 s) : Keeps q0 (leaveTile s t r beats) := by
  unfold leaveTile
  with_reducible repeat' (first | assumption | intro _ | apply keeps_chargeBeats | apply keeps_setTile | apply keeps_heldCheck | simp only [keeps_lit] | apply keeps_of | dsimp only | split)

theorem keeps_unverifiedFault {q0 : List Instr} (s : State) (t : Nat) (r : Running) (c : Nat) (hs : Keeps q0 s) : Keeps q0 (unverifiedFault s t r c) := by
  unfold unverifiedFault
  with_reducible repeat' (first | assumption | intro _ | apply keeps_leaveTile | apply keeps_barContext | apply keeps_recordEvent | simp only [keeps_lit] | apply keeps_of | dsimp only | split)

theorem keeps_withdrawStep {q0 : List Instr} (s : State) (c : Nat) (hs : Keeps q0 s) : Keeps q0 (withdrawStep s c) := by
  unfold withdrawStep
  with_reducible repeat' (first | assumption | intro _ | simp only [keeps_lit] | apply keeps_of | dsimp only | split)

theorem keeps_stepAgain {q0 : List Instr} (s : State) (c : Nat) (hs : Keeps q0 s) : Keeps q0 (stepAgain s c) := by
  unfold stepAgain
  with_reducible repeat' (first | assumption | intro _ | simp only [keeps_lit] | apply keeps_of | dsimp only | split)

theorem keeps_giveBack {q0 : List Instr} (s : State) (t : Nat) (j : StealJob) (src : Option Nat) (hs : Keeps q0 s) : Keeps q0 (giveBack s t j src) := by
  unfold giveBack
  with_reducible repeat' (first | assumption | intro _ | apply keeps_modTile | simp only [keeps_lit] | apply keeps_of | dsimp only | split)

theorem keeps_unparkJob {q0 : List Instr} (s : State) (t : Nat) (hs : Keeps q0 s) : Keeps q0 (unparkJob s t) := by
  unfold unparkJob
  with_reducible repeat' (first | assumption | intro _ | apply keeps_giveBack | apply keeps_modTile | simp only [keeps_lit] | apply keeps_of | dsimp only | split)

theorem keeps_rescueWork {q0 : List Instr} (s : State) (t : Nat) (r : Running) (hs : Keeps q0 s) : Keeps q0 (rescueWork s t r) := by
  unfold rescueWork
  with_reducible repeat' (first | assumption | intro _ | apply keeps_withdrawStep | simp only [keeps_lit] | apply keeps_of | dsimp only | split)

theorem keeps_tileFault {q0 : List Instr} (s : State) (t cause : Nat) (hs : Keeps q0 s) : Keeps q0 (tileFault s t cause) := by
  unfold tileFault
  with_reducible repeat' (first | assumption | intro _ | apply keeps_unparkJob | apply keeps_rescueWork | apply keeps_setTile | apply keeps_recordEvent | apply keeps_heldCheck | apply keeps_deviceFail | simp only [keeps_lit] | apply keeps_of | dsimp only | split)

theorem keeps_ruleBreak {q0 : List Instr} (s : State) (t : Nat) (r : Running) (c : Nat) (hs : Keeps q0 s) : Keeps q0 (ruleBreak s t r c) := by
  unfold ruleBreak
  with_reducible repeat' (first | assumption | intro _ | apply keeps_tileFault | apply keeps_unverifiedFault | simp only [keeps_lit] | apply keeps_of | dsimp only | split)

theorem keeps_residueFault {q0 : List Instr} (s : State) (t : Nat) (m : Nat × Nat × Nat × Nat × Nat) (hs : Keeps q0 s) : Keeps q0 (residueFault s t m) := by
  unfold residueFault
  with_reducible repeat' (first | assumption | intro _ | apply keeps_tileFault | apply keeps_recordEvent | simp only [keeps_lit] | apply keeps_of | dsimp only | split)

theorem keeps_timedSend {q0 : List Instr} (s : State) (r : TimedRes) (hs : Keeps q0 s) : Keeps q0 (timedSend s r) := by
  unfold timedSend
  with_reducible repeat' (first | assumption | intro _ | simp only [keeps_lit] | apply keeps_of | dsimp only | split)

theorem keeps_timedArrive {q0 : List Instr} (s : State) (f : Nat × Nat × List (Nat × Byte)) (hs : Keeps q0 s) : Keeps q0 (timedArrive s f) := by
  unfold timedArrive
  with_reducible repeat' (first | assumption | intro _ | apply keeps_modTile | apply keeps_devWrite | simp only [keeps_lit] | apply keeps_of | dsimp only | split)

theorem keeps_timedRun {q0 : List Instr}  (z0 : Nat) (z1 : Nat) (z2 : State) (hz2 : Keeps q0 z2) : Keeps q0 (timedRun z0 z1 z2) := by
  induction z0 generalizing z2 with
  | zero => unfold timedRun; with_reducible repeat' (first | assumption | intro _ | apply keeps_timedArrive | apply keeps_timedSend | simp only [keeps_lit] | apply keeps_of | dsimp only | split)
  | succ n ih =>
    unfold timedRun
    with_reducible repeat' (first | apply ih | (first | assumption | intro _ | apply keeps_timedArrive | apply keeps_timedSend | simp only [keeps_lit] | apply keeps_of | dsimp only | split))


theorem keeps_timedDue {q0 : List Instr} (s : State) (k : Nat) (hs : Keeps q0 s) : Keeps q0 (timedDue s k) := by
  unfold timedDue
  with_reducible repeat' (first | assumption | intro _ | apply keeps_timedRun | simp only [keeps_lit] | apply keeps_of | dsimp only | split)

theorem keeps_slotIssue {q0 : List Instr} (s : State) (t c : Nat) (f : Tile → SlotRes) (hs : Keeps q0 s) : Keeps q0 (slotIssue s t c f) := by
  unfold slotIssue
  with_reducible repeat' (first | assumption | intro _ | apply keeps_residueFault | apply keeps_setTile | apply keeps_ruleBreak | simp only [keeps_lit] | apply keeps_of | dsimp only | split)

theorem keeps_slotOp {q0 : List Instr} (s : State) (t c : Nat) (f : Tile → SlotRes) (hs : Keeps q0 s) : Keeps q0 (slotOp s t c f) := by
  unfold slotOp
  with_reducible repeat' (first | assumption | intro _ | apply keeps_slotIssue | apply keeps_timedDue | simp only [keeps_lit] | apply keeps_of | dsimp only | split)

end Sys2Proof.Machine
end

