-- ==== Sys2Proof/Laws/KeepsArray.lean ====
section
/-!
SUPPORT. Every state that a definition of Machine/Array.lean answers keeps the canonical form of both memories, the beat and the queue.
-/
set_option linter.unusedTactic false
set_option linter.unreachableTactic false
set_option linter.unusedVariables false
set_option linter.unusedSimpArgs false
namespace Sys2Proof.Machine

theorem keeps_arrayStart {q0 : List Instr} (s : State) (t arr : Nat) (hs : Keeps q0 s) : Keeps q0 (arrayStart s t arr) := by
  unfold arrayStart
  with_reducible repeat' (first | assumption | intro _ | apply keeps_modTile | simp only [keeps_lit] | apply keeps_of | dsimp only | split)

theorem keeps_arrayOp {q0 : List Instr} (s : State) (t c arr : Nat) (f : Tile → SlotRes) (hs : Keeps q0 s) : Keeps q0 (arrayOp s t c arr f) := by
  unfold arrayOp
  with_reducible repeat' (first | assumption | intro _ | apply keeps_slotOp | apply keeps_timedDue | apply keeps_arrayStart | simp only [keeps_lit] | apply keeps_of | dsimp only | split)

theorem keeps_execMma {q0 : List Instr} (t c : Nat) (o : ArrOp) (err : Option ColErr) (s : State) (hs : Keeps q0 s) : KeepsOut q0 (execMma t c o err s) := by
  unfold execMma
  with_reducible repeat' (first | assumption | intro _ | apply keepsOut_next | apply keeps_arrayOp | simp only [keeps_lit] | apply keeps_of | dsimp only | split)

theorem keeps_execWld {q0 : List Instr} (t c : Nat) (o : ArrOp) (s : State) (hs : Keeps q0 s) : KeepsOut q0 (execWld t c o s) := by
  unfold execWld
  with_reducible repeat' (first | assumption | intro _ | apply keepsOut_next | apply keeps_arrayOp | simp only [keeps_lit] | apply keeps_of | dsimp only | split)

theorem keeps_execRout {q0 : List Instr} (t c : Nat) (o : ArrOp) (s : State) (hs : Keeps q0 s) : KeepsOut q0 (execRout t c o s) := by
  unfold execRout
  with_reducible repeat' (first | assumption | intro _ | apply keepsOut_next | apply keeps_arrayOp | simp only [keeps_lit] | apply keeps_of | dsimp only | split)

theorem keeps_execLout {q0 : List Instr} (t c : Nat) (o : ArrOp) (s : State) (hs : Keeps q0 s) : KeepsOut q0 (execLout t c o s) := by
  unfold execLout
  with_reducible repeat' (first | assumption | intro _ | apply keepsOut_next | apply keeps_arrayOp | simp only [keeps_lit] | apply keeps_of | dsimp only | split)

theorem keeps_execLin {q0 : List Instr} (t c : Nat) (o : LinOp) (s : State) (hs : Keeps q0 s) : KeepsOut q0 (execLin t c o s) := by
  unfold execLin
  with_reducible repeat' (first | assumption | intro _ | apply keepsOut_next | apply keeps_arrayOp | simp only [keeps_lit] | apply keeps_of | dsimp only | split)

end Sys2Proof.Machine
end

