-- ==== Sys2Proof/Laws/KeepsPageOps.lean ====
section
/-!
SUPPORT. Every state that a definition of Machine/PageOps.lean answers keeps the canonical form of both memories, the beat and the queue.
-/
set_option linter.unusedTactic false
set_option linter.unreachableTactic false
set_option linter.unusedVariables false
set_option linter.unusedSimpArgs false
namespace Sys2Proof.Machine

theorem keeps_setFrame {q0 : List Instr} (s : State) (p id : Nat) (f : Frame) (hs : Keeps q0 s) : Keeps q0 (setFrame s p id f) := by
  unfold setFrame
  with_reducible repeat' (first | assumption | intro _ | simp only [keeps_lit] | apply keeps_of | dsimp only | split)

theorem keeps_setFree {q0 : List Instr} (s : State) (p l : Nat) (xs : List Nat) (hs : Keeps q0 s) : Keeps q0 (setFree s p l xs) := by
  unfold setFree
  with_reducible repeat' (first | assumption | intro _ | simp only [keeps_lit] | apply keeps_of | dsimp only | split)

theorem keeps_settlePool {q0 : List Instr} (s : State) (p : Nat) (hs : Keeps q0 s) : Keeps q0 (settlePool s p) := by
  unfold settlePool
  with_reducible repeat' (first | assumption | intro _ | simp only [keeps_lit] | apply keeps_of | dsimp only | split)

theorem keeps_retireFrame {q0 : List Instr} (s : State) (p id : Nat) (hs : Keeps q0 s) : Keeps q0 (retireFrame s p id) := by
  unfold retireFrame
  with_reducible repeat' (first | assumption | intro _ | apply keeps_recordUncorrected | apply keeps_setFree | apply keeps_setFrame | apply keeps_settlePool | simp only [keeps_lit] | apply keeps_of | dsimp only | split)

theorem keeps_takeFrom {q0 : List Instr}  (z0 : Nat) (z1 : State) (z2 : Nat) (z3 : Nat) (hz1 : Keeps q0 z1) : Keeps q0 (takeFrom z0 z1 z2 z3).1 := by
  induction z0 generalizing z1 with
  | zero => unfold takeFrom; with_reducible repeat' (first | assumption | intro _ | apply keeps_setFree | apply keeps_retireFrame | apply keeps_setFrame | simp only [keeps_lit] | apply keeps_of | dsimp only | split)
  | succ n ih =>
    unfold takeFrom
    with_reducible repeat' (first | apply ih | (first | assumption | intro _ | apply keeps_setFree | apply keeps_retireFrame | apply keeps_setFrame | simp only [keeps_lit] | apply keeps_of | dsimp only | split))


theorem keeps_takeFirst {q0 : List Instr}  (z0 : List (Nat × Nat)) (z1 : State) (z2 : Nat) (hz1 : Keeps q0 z1) : Keeps q0 (takeFirst z0 z1 z2).1 := by
  induction z0 generalizing z1 with
  | nil => unfold takeFirst; with_reducible repeat' (first | assumption | intro _ | apply keeps_takeFrom | simp only [keeps_lit] | apply keeps_of | dsimp only | split)
  | cons a l ih =>
    unfold takeFirst
    with_reducible repeat' (first | apply ih | (first | assumption | intro _ | apply keeps_takeFrom | simp only [keeps_lit] | apply keeps_of | dsimp only | split))


theorem keeps_grantPage {q0 : List Instr} (s : State) (p index : Nat) (hs : Keeps q0 s) : Keeps q0 (grantPage s p index).1 := by
  unfold grantPage
  with_reducible repeat' (first | assumption | intro _ | apply keeps_takeFirst | simp only [keeps_lit] | apply keeps_of | dsimp only | split)

theorem keeps_grantLocal {q0 : List Instr} (s : State) (p index : Nat) (hs : Keeps q0 s) : Keeps q0 (grantLocal s p index).1 := by
  unfold grantLocal
  with_reducible repeat' (first | assumption | intro _ | apply keeps_takeFirst | simp only [keeps_lit] | apply keeps_of | dsimp only | split)

theorem keeps_grantTier {q0 : List Instr} (s : State) (p tier : Nat) (hs : Keeps q0 s) : Keeps q0 (grantTier s p tier).1 := by
  unfold grantTier
  with_reducible repeat' (first | assumption | intro _ | apply keeps_takeFirst | simp only [keeps_lit] | apply keeps_of | dsimp only | split)

theorem keeps_usePrefix {q0 : List Instr} (s : State) (t : PfxEntry → Bool) (hs : Keeps q0 s) : Keeps q0 (usePrefix s t) := by
  unfold usePrefix
  with_reducible repeat' (first | assumption | intro _ | simp only [keeps_lit] | apply keeps_of | dsimp only | split)

theorem keeps_freeFrame {q0 : List Instr} (s : State) (p id : Nat) (f : Frame) (hs : Keeps q0 s) : Keeps q0 (freeFrame s p id f) := by
  unfold freeFrame
  with_reducible repeat' (first | assumption | intro _ | apply keeps_setFrame | apply keeps_setFree | apply keeps_settlePool | simp only [keeps_lit] | apply keeps_of | dsimp only | split)

theorem keeps_moveRead {q0 : List Instr} (s : State) (p id : Nat) (hs : Keeps q0 s) : Keeps q0 (moveRead s p id).1 := by
  unfold moveRead
  with_reducible repeat' (first | assumption | intro _ | apply keeps_retireFrame | simp only [keeps_lit] | apply keeps_of | dsimp only | split)

theorem keeps_sharePage {q0 : List Instr} (s : State) (p id : Nat) (hs : Keeps q0 s) : Keeps q0 (sharePage s p id).1 := by
  unfold sharePage
  with_reducible repeat' (first | assumption | intro _ | apply keeps_retireFrame | apply keeps_setFrame | simp only [keeps_lit] | apply keeps_of | dsimp only | split)

theorem keeps_releasePage {q0 : List Instr} (s : State) (p id : Nat) (hs : Keeps q0 s) : Keeps q0 (releasePage s p id).1 := by
  unfold releasePage
  with_reducible repeat' (first | assumption | intro _ | apply keeps_retireFrame | apply keeps_recordEvent | apply keeps_freeFrame | apply keeps_setFrame | simp only [keeps_lit] | apply keeps_of | dsimp only | split)

theorem keeps_copyCarry {q0 : List Instr} (s : State) (src dst n : Nat) (hs : Keeps q0 s) : Keeps q0 (copyCarry s src dst n) := by
  unfold copyCarry
  with_reducible repeat' (first | assumption | intro _ | refine keeps_foldl _ _ ?_ ?_ | apply keeps_recordUncorrected | apply keeps_devWrite | apply keeps_poisonLine | simp only [keeps_lit] | apply keeps_of | dsimp only | split)

theorem keeps_pagePut {q0 : List Instr} (s : State) (loc off : Nat) (bs : List Byte) (hs : Keeps q0 s) : Keeps q0 (pagePut s loc off bs) := by
  unfold pagePut
  with_reducible repeat' (first | assumption | intro _ | apply keeps_devWrite | apply keeps_issueReq | simp only [keeps_lit] | apply keeps_of | dsimp only | split)

theorem keeps_pageReply {q0 : List Instr} (s : State) (key off loc st n : Nat) (bs : List Byte) (hs : Keeps q0 s) : Keeps q0 (pageReply s key off loc st n bs) := by
  unfold pageReply
  with_reducible repeat' (first | assumption | intro _ | refine keeps_foldl _ _ ?_ ?_ | apply keeps_pagePut | apply keeps_poisonLine | apply keeps_setFrame | simp only [keeps_lit] | apply keeps_of | dsimp only | split)

theorem keeps_copyPage {q0 : List Instr} (s : State) (pool from_ dst n : Nat) (hs : Keeps q0 s) : Keeps q0 (copyPage s pool from_ dst n) := by
  unfold copyPage
  with_reducible repeat' (first | assumption | intro _ | refine keeps_foldl _ _ ?_ ?_ | apply keeps_copyCarry | apply keeps_pagePut | apply keeps_pageReply | apply keeps_setFrame | apply keeps_issueReq | simp only [keeps_lit] | apply keeps_of | dsimp only | split)

theorem keeps_extentsRead {q0 : List Instr}  (z0 : Nat) (z1 : State) (z2 : Nat) (hz1 : Keeps q0 z1) : Keeps q0 (extentsRead z0 z1 z2) := by
  induction z0 generalizing z1 z2 with
  | zero => unfold extentsRead; with_reducible repeat' (first | assumption | intro _ | apply keeps_recordUncorrected | simp only [keeps_lit] | apply keeps_of | dsimp only | split)
  | succ n ih =>
    unfold extentsRead
    with_reducible repeat' (first | apply ih | (first | assumption | intro _ | apply keeps_recordUncorrected | simp only [keeps_lit] | apply keeps_of | dsimp only | split))


theorem keeps_unbias {q0 : List Instr} (s : State) (es : List (Nat × Nat × Nat)) (hs : Keeps q0 s) : Keeps q0 (unbias s es) := by
  unfold unbias
  with_reducible repeat' (first | assumption | intro _ | simp only [keeps_lit] | apply keeps_of | dsimp only | split)

theorem keeps_installPool {q0 : List Instr} (s : State) (pool : Nat) (d : Pool) (hs : Keeps q0 s) : Keeps q0 (installPool s pool d) := by
  unfold installPool
  with_reducible repeat' (first | assumption | intro _ | refine keeps_foldl _ _ ?_ ?_ | apply keeps_unbias | apply keeps_wholeLines | apply keeps_setFree | simp only [keeps_lit] | apply keeps_of | dsimp only | split)

theorem keeps_poolSet {q0 : List Instr} (s : State) (r : JRec) (hs : Keeps q0 s) : Keeps q0 (poolSet s r).1 := by
  unfold poolSet
  with_reducible repeat' (first | assumption | intro _ | apply keeps_installPool | apply keeps_extentsRead | apply keeps_settlePool | simp only [keeps_lit] | apply keeps_of | dsimp only | split)

end Sys2Proof.Machine
end

