-- ==== Sys2Proof/Laws/KeepsAttnOps.lean ====
section
/-!
SUPPORT. Every state that a definition of Machine/AttnOps.lean answers keeps the canonical form of both memories, the beat and the queue.
-/
set_option linter.unusedTactic false
set_option linter.unreachableTactic false
set_option linter.unusedVariables false
set_option linter.unusedSimpArgs false
namespace Sys2Proof.Machine

theorem keeps_writeRow {q0 : List Instr} (s : State) (a : AttnCmd) (x : AttnSeq) (h : Chain) (m k : Nat) (hs : Keeps q0 s) : Keeps q0 (writeRow s a x h m k).1 := by
  unfold writeRow
  with_reducible repeat' (first | assumption | intro _ | apply keeps_devWrite | simp only [keeps_lit] | apply keeps_of | dsimp only | split)

theorem keeps_writeChain {q0 : List Instr} (s : State) (a : AttnCmd) (x : AttnSeq) (h : Chain) (hs : Keeps q0 s) : Keeps q0 (writeChain s a x h).1 := by
  unfold writeChain
  with_reducible repeat' (first | assumption | intro _ | refine keeps_foldl _ _ ?_ ?_ | refine keeps_foldl_fst _ _ ?_ ?_ | apply keeps_writeRow | simp only [keeps_lit] | apply keeps_of | dsimp only | split)

theorem keeps_modAttn {q0 : List Instr} (s : State) (a : AttnCmd) (hs : Keeps q0 s) : Keeps q0 (modAttn s a) := by
  unfold modAttn
  with_reducible repeat' (first | assumption | intro _ | simp only [keeps_lit] | apply keeps_of | dsimp only | split)

theorem keeps_attnEnd {q0 : List Instr} (s : State) (q seq st : Nat) (sts : List Nat) (rec_ : List Byte) (hs : Keeps q0 s) : Keeps q0 (attnEnd s q seq st sts rec_) := by
  unfold attnEnd
  with_reducible repeat' (first | assumption | intro _ | apply keeps_finishWith | simp only [keeps_lit] | apply keeps_of | dsimp only | split)

theorem keeps_attnRefuse {q0 : List Instr} (s : State) (q seq st : Nat) (hs : Keeps q0 s) : Keeps q0 (attnRefuse s q seq st) := by
  unfold attnRefuse
  with_reducible repeat' (first | assumption | intro _ | apply keeps_attnEnd | apply keeps_finish | simp only [keeps_lit] | apply keeps_of | dsimp only | split)

theorem keeps_attnSettle {q0 : List Instr} (s : State) (q seq : Nat) (hs : Keeps q0 s) : Keeps q0 (attnSettle s q seq) := by
  unfold attnSettle
  with_reducible repeat' (first | assumption | intro _ | refine keeps_foldl _ _ ?_ ?_ | refine keeps_foldl_fst _ _ ?_ ?_ | apply keeps_releasePage | apply keeps_attnEnd | apply keeps_modAttn | simp only [keeps_lit] | apply keeps_of | dsimp only | split)

theorem keeps_endChain {q0 : List Instr} (s : State) (a : AttnCmd) (h : Chain) (hs : Keeps q0 s) : Keeps q0 (endChain s a h) := by
  unfold endChain
  with_reducible repeat' (first | assumption | intro _ | apply keeps_writeChain | apply keeps_modAttn | simp only [keeps_lit] | apply keeps_of | dsimp only | split)

theorem keeps_endEmpty {q0 : List Instr} (s : State) (q seq : Nat) (hs : Keeps q0 s) : Keeps q0 (endEmpty s q seq) := by
  unfold endEmpty
  with_reducible repeat' (first | assumption | intro _ | refine keeps_foldl _ _ ?_ ?_ | refine keeps_foldl_fst _ _ ?_ ?_ | apply keeps_endChain | simp only [keeps_lit] | apply keeps_of | dsimp only | split)

theorem keeps_attnJobEnd {q0 : List Instr} (s : State) (q seq chain : Nat) (hs : Keeps q0 s) : Keeps q0 (attnJobEnd s q seq chain) := by
  unfold attnJobEnd
  with_reducible repeat' (first | assumption | intro _ | refine keeps_foldl _ _ ?_ ?_ | refine keeps_foldl_fst _ _ ?_ ?_ | apply keeps_attnSettle | apply keeps_modAttn | apply keeps_recordUncorrected | apply keeps_endEmpty | simp only [keeps_lit] | apply keeps_of | dsimp only | split)

theorem keeps_attnStaged {q0 : List Instr} (s : State) (q seq chain src n dst : Nat) (hs : Keeps q0 s) : Keeps q0 (attnStaged s q seq chain src n dst) := by
  unfold attnStaged
  with_reducible repeat' (first | assumption | intro _ | apply keeps_modAttn | simp only [keeps_lit] | apply keeps_of | dsimp only | split)

theorem keeps_attnFail {q0 : List Instr} (s : State) (q seq chain st : Nat) (hs : Keeps q0 s) : Keeps q0 (attnFail s q seq chain st) := by
  unfold attnFail
  with_reducible repeat' (first | assumption | intro _ | apply keeps_attnSettle | apply keeps_modAttn | simp only [keeps_lit] | apply keeps_of | dsimp only | split)

theorem keeps_attnTimeout {q0 : List Instr} (s : State) (q seq chain src : Nat) (hs : Keeps q0 s) : Keeps q0 (attnTimeout s q seq chain src) := by
  unfold attnTimeout
  with_reducible repeat' (first | assumption | intro _ | apply keeps_attnFail | apply keeps_modAttn | simp only [keeps_lit] | apply keeps_of | dsimp only | split)

theorem keeps_writeMerged {q0 : List Instr} (s : State) (c : MergeCmd) (row : Nat) (st : Option AttnState) (hs : Keeps q0 s) : Keeps q0 (writeMerged s c row st).1 := by
  unfold writeMerged
  with_reducible repeat' (first | assumption | intro _ | apply keeps_devWrite | simp only [keeps_lit] | apply keeps_of | dsimp only | split)

theorem keeps_mergeDone {q0 : List Instr} (s : State) (c : MergeCmd) (hs : Keeps q0 s) : Keeps q0 (mergeDone s c) := by
  unfold mergeDone
  with_reducible repeat' (first | assumption | intro _ | refine keeps_foldl _ _ ?_ ?_ | refine keeps_foldl_fst _ _ ?_ ?_ | apply keeps_finish | apply keeps_recordUncorrected | apply keeps_writeMerged | apply keeps_finishWith | simp only [keeps_lit] | apply keeps_of | dsimp only | split)

theorem keeps_mergeGot {q0 : List Instr} (s : State) (q seq piece st : Nat) (bs : List Byte) (hs : Keeps q0 s) : Keeps q0 (mergeGot s q seq piece st bs) := by
  unfold mergeGot
  with_reducible repeat' (first | assumption | intro _ | apply keeps_mergeDone | simp only [keeps_lit] | apply keeps_of | dsimp only | split)

end Sys2Proof.Machine
end

