-- ==== Sys2Proof/Laws/KeepsAttn.lean ====
section
/-!
SUPPORT. Every state that a definition of Machine/Attn.lean answers keeps the canonical form of both memories, the beat and the queue.
-/
set_option linter.unusedTactic false
set_option linter.unreachableTactic false
set_option linter.unusedVariables false
set_option linter.unusedSimpArgs false
namespace Sys2Proof.Machine

theorem keeps_pinFrame {q0 : List Instr} (s : State) (a : AttnCmd) (id : Nat) (hs : Keeps q0 s) : Keeps q0 (pinFrame s a id) := by
  unfold pinFrame
  with_reducible repeat' (first | assumption | intro _ | apply keeps_modAttn | apply keeps_setFrame | simp only [keeps_lit] | apply keeps_of | dsimp only | split)

theorem keeps_retireBad {q0 : List Instr} (s : State) (a : AttnCmd) (x : AttnSeq) (ids : List Nat) (hs : Keeps q0 s) : Keeps q0 (retireBad s a x ids) := by
  unfold retireBad
  with_reducible repeat' (first | assumption | intro _ | refine keeps_foldl _ _ ?_ ?_ | apply keeps_retireFrame | simp only [keeps_lit] | apply keeps_of | dsimp only | split)

theorem keeps_startSeq {q0 : List Instr} (s0 : State) (q seq i : Nat) (ids : List Nat) (hs0 : Keeps q0 s0) : Keeps q0 (startSeq s0 q seq i ids) := by
  unfold startSeq
  with_reducible repeat' (first | assumption | intro _ | refine keeps_foldl _ _ ?_ ?_ | apply keeps_retireBad | apply keeps_modAttn | apply keeps_recordUncorrected | apply keeps_pinFrame | simp only [keeps_lit] | apply keeps_of | dsimp only | split)

theorem keeps_attnStart {q0 : List Instr} (s : State) (r : JRec) (c : Nat) (hs : Keeps q0 s) : Keeps q0 (attnStart s r c) := by
  unfold attnStart
  with_reducible repeat' (first | assumption | intro _ | refine keeps_foldl _ _ ?_ ?_ | apply keeps_attnRefuse | apply keeps_recordUncorrected | apply keeps_startSeq | apply keeps_attnSettle | apply keeps_endEmpty | apply keeps_modAttn | simp only [keeps_lit] | apply keeps_of | dsimp only | split)

theorem keeps_issueStepAttn {q0 : List Instr} (s : State) (key layer : Nat) (hs : Keeps q0 s) : Keeps q0 (issueStepAttn s key layer) := by
  unfold issueStepAttn
  with_reducible repeat' (first | assumption | intro _ | apply keeps_attnStart | simp only [keeps_lit] | apply keeps_of | dsimp only | split)

theorem keeps_execAttn {q0 : List Instr} (q seq : Nat) (s : State) (hs : Keeps q0 s) : KeepsOut q0 (execAttn q seq s) := by
  unfold execAttn
  with_reducible repeat' (first | assumption | intro _ | apply keepsOut_next | apply keeps_issueStepAttn | apply keeps_withCmd | apply keeps_finish | apply keeps_attnStart | simp only [keeps_lit] | apply keeps_of | dsimp only | split)

theorem keeps_execAttnBlockEnqueue {q0 : List Instr} (q seq chain kernel length argsPtr donePtr : Nat) (s : State) (hs : Keeps q0 s) : KeepsOut q0 (execAttnBlockEnqueue q seq chain kernel length argsPtr donePtr s) := by
  unfold execAttnBlockEnqueue
  with_reducible repeat' (first | assumption | intro _ | apply keepsOut_next | apply keeps_modAttn | simp only [keeps_lit] | apply keeps_of | dsimp only | split)

theorem keeps_execAttnMerge {q0 : List Instr} (q seq : Nat) (s : State) (hs : Keeps q0 s) : KeepsOut q0 (execAttnMerge q seq s) := by
  unfold execAttnMerge
  with_reducible repeat' (first | assumption | intro _ | apply keepsOut_next | refine keeps_foldl _ _ ?_ ?_ | apply keeps_withCmd | apply keeps_finish | apply keeps_recordUncorrected | apply keeps_mergeDone | apply keeps_issueReq | simp only [keeps_lit] | apply keeps_of | dsimp only | split)

end Sys2Proof.Machine
end

