-- ==== Sys2Proof/Laws/KeepsLanes.lean ====
section
/-!
SUPPORT. Every state that a definition of Machine/Lanes.lean answers keeps the canonical form of both memories, the beat and the queue.
-/
set_option linter.unusedTactic false
set_option linter.unreachableTactic false
set_option linter.unusedVariables false
set_option linter.unusedSimpArgs false
namespace Sys2Proof.Machine

theorem keeps_laneOp {q0 : List Instr} (s : State) (t c d lat : Nat) (g : Tile → List W32) (hs : Keeps q0 s) : Keeps q0 (laneOp s t c d lat g) := by
  unfold laneOp
  with_reducible repeat' (first | assumption | intro _ | apply keeps_slotOp | simp only [keeps_lit] | apply keeps_of | dsimp only | split)

theorem keeps_execFadd {q0 : List Instr} (t c d a : Nat) (b : OpB) (s : State) (hs : Keeps q0 s) : KeepsOut q0 (execFadd t c d a b s) := by
  unfold execFadd
  with_reducible repeat' (first | assumption | intro _ | apply keepsOut_next | apply keeps_laneOp | simp only [keeps_lit] | apply keeps_of | dsimp only | split)

theorem keeps_execFsub {q0 : List Instr} (t c d a : Nat) (b : OpB) (s : State) (hs : Keeps q0 s) : KeepsOut q0 (execFsub t c d a b s) := by
  unfold execFsub
  with_reducible repeat' (first | assumption | intro _ | apply keepsOut_next | apply keeps_laneOp | simp only [keeps_lit] | apply keeps_of | dsimp only | split)

theorem keeps_execFmul {q0 : List Instr} (t c d a : Nat) (b : OpB) (s : State) (hs : Keeps q0 s) : KeepsOut q0 (execFmul t c d a b s) := by
  unfold execFmul
  with_reducible repeat' (first | assumption | intro _ | apply keepsOut_next | apply keeps_laneOp | simp only [keeps_lit] | apply keeps_of | dsimp only | split)

theorem keeps_execFma {q0 : List Instr} (t c d a : Nat) (b : OpB) (cc : Nat) (s : State) (hs : Keeps q0 s) : KeepsOut q0 (execFma t c d a b cc s) := by
  unfold execFma
  with_reducible repeat' (first | assumption | intro _ | apply keepsOut_next | apply keeps_laneOp | simp only [keeps_lit] | apply keeps_of | dsimp only | split)

theorem keeps_execFnma {q0 : List Instr} (t c d a : Nat) (b : OpB) (cc : Nat) (s : State) (hs : Keeps q0 s) : KeepsOut q0 (execFnma t c d a b cc s) := by
  unfold execFnma
  with_reducible repeat' (first | assumption | intro _ | apply keepsOut_next | apply keeps_laneOp | simp only [keeps_lit] | apply keeps_of | dsimp only | split)

theorem keeps_execFmin {q0 : List Instr} (t c d a : Nat) (b : OpB) (s : State) (hs : Keeps q0 s) : KeepsOut q0 (execFmin t c d a b s) := by
  unfold execFmin
  with_reducible repeat' (first | assumption | intro _ | apply keepsOut_next | apply keeps_laneOp | simp only [keeps_lit] | apply keeps_of | dsimp only | split)

theorem keeps_execFmax {q0 : List Instr} (t c d a : Nat) (b : OpB) (s : State) (hs : Keeps q0 s) : KeepsOut q0 (execFmax t c d a b s) := by
  unfold execFmax
  with_reducible repeat' (first | assumption | intro _ | apply keepsOut_next | apply keeps_laneOp | simp only [keeps_lit] | apply keeps_of | dsimp only | split)

theorem keeps_execFabs {q0 : List Instr} (t c d a : Nat) (s : State) (hs : Keeps q0 s) : KeepsOut q0 (execFabs t c d a s) := by
  unfold execFabs
  with_reducible repeat' (first | assumption | intro _ | apply keepsOut_next | apply keeps_laneOp | simp only [keeps_lit] | apply keeps_of | dsimp only | split)

theorem keeps_execFneg {q0 : List Instr} (t c d a : Nat) (s : State) (hs : Keeps q0 s) : KeepsOut q0 (execFneg t c d a s) := by
  unfold execFneg
  with_reducible repeat' (first | assumption | intro _ | apply keepsOut_next | apply keeps_laneOp | simp only [keeps_lit] | apply keeps_of | dsimp only | split)

theorem keeps_execFclt {q0 : List Instr} (t c d a : Nat) (b : OpB) (s : State) (hs : Keeps q0 s) : KeepsOut q0 (execFclt t c d a b s) := by
  unfold execFclt
  with_reducible repeat' (first | assumption | intro _ | apply keepsOut_next | apply keeps_laneOp | simp only [keeps_lit] | apply keeps_of | dsimp only | split)

theorem keeps_execFcle {q0 : List Instr} (t c d a : Nat) (b : OpB) (s : State) (hs : Keeps q0 s) : KeepsOut q0 (execFcle t c d a b s) := by
  unfold execFcle
  with_reducible repeat' (first | assumption | intro _ | apply keepsOut_next | apply keeps_laneOp | simp only [keeps_lit] | apply keeps_of | dsimp only | split)

theorem keeps_execFceq {q0 : List Instr} (t c d a : Nat) (b : OpB) (s : State) (hs : Keeps q0 s) : KeepsOut q0 (execFceq t c d a b s) := by
  unfold execFceq
  with_reducible repeat' (first | assumption | intro _ | apply keepsOut_next | apply keeps_laneOp | simp only [keeps_lit] | apply keeps_of | dsimp only | split)

theorem keeps_execFcvti {q0 : List Instr} (t c d a : Nat) (s : State) (hs : Keeps q0 s) : KeepsOut q0 (execFcvti t c d a s) := by
  unfold execFcvti
  with_reducible repeat' (first | assumption | intro _ | apply keepsOut_next | apply keeps_laneOp | simp only [keeps_lit] | apply keeps_of | dsimp only | split)

theorem keeps_execIcvtf {q0 : List Instr} (t c d a : Nat) (s : State) (hs : Keeps q0 s) : KeepsOut q0 (execIcvtf t c d a s) := by
  unfold execIcvtf
  with_reducible repeat' (first | assumption | intro _ | apply keepsOut_next | apply keeps_laneOp | simp only [keeps_lit] | apply keeps_of | dsimp only | split)

theorem keeps_execFscl {q0 : List Instr} (t c d a : Nat) (b : OpB) (s : State) (hs : Keeps q0 s) : KeepsOut q0 (execFscl t c d a b s) := by
  unfold execFscl
  with_reducible repeat' (first | assumption | intro _ | apply keepsOut_next | apply keeps_laneOp | simp only [keeps_lit] | apply keeps_of | dsimp only | split)

theorem keeps_execIadd {q0 : List Instr} (t c d a : Nat) (b : OpB) (s : State) (hs : Keeps q0 s) : KeepsOut q0 (execIadd t c d a b s) := by
  unfold execIadd
  with_reducible repeat' (first | assumption | intro _ | apply keepsOut_next | apply keeps_laneOp | simp only [keeps_lit] | apply keeps_of | dsimp only | split)

theorem keeps_execIsub {q0 : List Instr} (t c d a : Nat) (b : OpB) (s : State) (hs : Keeps q0 s) : KeepsOut q0 (execIsub t c d a b s) := by
  unfold execIsub
  with_reducible repeat' (first | assumption | intro _ | apply keepsOut_next | apply keeps_laneOp | simp only [keeps_lit] | apply keeps_of | dsimp only | split)

theorem keeps_execImul {q0 : List Instr} (t c d a : Nat) (b : OpB) (s : State) (hs : Keeps q0 s) : KeepsOut q0 (execImul t c d a b s) := by
  unfold execImul
  with_reducible repeat' (first | assumption | intro _ | apply keepsOut_next | apply keeps_laneOp | simp only [keeps_lit] | apply keeps_of | dsimp only | split)

theorem keeps_execAndV {q0 : List Instr} (t c d a : Nat) (b : OpB) (s : State) (hs : Keeps q0 s) : KeepsOut q0 (execAndV t c d a b s) := by
  unfold execAndV
  with_reducible repeat' (first | assumption | intro _ | apply keepsOut_next | apply keeps_laneOp | simp only [keeps_lit] | apply keeps_of | dsimp only | split)

theorem keeps_execOrV {q0 : List Instr} (t c d a : Nat) (b : OpB) (s : State) (hs : Keeps q0 s) : KeepsOut q0 (execOrV t c d a b s) := by
  unfold execOrV
  with_reducible repeat' (first | assumption | intro _ | apply keepsOut_next | apply keeps_laneOp | simp only [keeps_lit] | apply keeps_of | dsimp only | split)

theorem keeps_execXorV {q0 : List Instr} (t c d a : Nat) (b : OpB) (s : State) (hs : Keeps q0 s) : KeepsOut q0 (execXorV t c d a b s) := by
  unfold execXorV
  with_reducible repeat' (first | assumption | intro _ | apply keepsOut_next | apply keeps_laneOp | simp only [keeps_lit] | apply keeps_of | dsimp only | split)

theorem keeps_execShl {q0 : List Instr} (t c d a : Nat) (b : OpB) (s : State) (hs : Keeps q0 s) : KeepsOut q0 (execShl t c d a b s) := by
  unfold execShl
  with_reducible repeat' (first | assumption | intro _ | apply keepsOut_next | apply keeps_laneOp | simp only [keeps_lit] | apply keeps_of | dsimp only | split)

theorem keeps_execShr {q0 : List Instr} (t c d a : Nat) (b : OpB) (s : State) (hs : Keeps q0 s) : KeepsOut q0 (execShr t c d a b s) := by
  unfold execShr
  with_reducible repeat' (first | assumption | intro _ | apply keepsOut_next | apply keeps_laneOp | simp only [keeps_lit] | apply keeps_of | dsimp only | split)

theorem keeps_execSra {q0 : List Instr} (t c d a : Nat) (b : OpB) (s : State) (hs : Keeps q0 s) : KeepsOut q0 (execSra t c d a b s) := by
  unfold execSra
  with_reducible repeat' (first | assumption | intro _ | apply keepsOut_next | apply keeps_laneOp | simp only [keeps_lit] | apply keeps_of | dsimp only | split)

theorem keeps_execImin {q0 : List Instr} (t c d a : Nat) (b : OpB) (s : State) (hs : Keeps q0 s) : KeepsOut q0 (execImin t c d a b s) := by
  unfold execImin
  with_reducible repeat' (first | assumption | intro _ | apply keepsOut_next | apply keeps_laneOp | simp only [keeps_lit] | apply keeps_of | dsimp only | split)

theorem keeps_execImax {q0 : List Instr} (t c d a : Nat) (b : OpB) (s : State) (hs : Keeps q0 s) : KeepsOut q0 (execImax t c d a b s) := by
  unfold execImax
  with_reducible repeat' (first | assumption | intro _ | apply keepsOut_next | apply keeps_laneOp | simp only [keeps_lit] | apply keeps_of | dsimp only | split)

theorem keeps_execIclt {q0 : List Instr} (t c d a : Nat) (b : OpB) (s : State) (hs : Keeps q0 s) : KeepsOut q0 (execIclt t c d a b s) := by
  unfold execIclt
  with_reducible repeat' (first | assumption | intro _ | apply keepsOut_next | apply keeps_laneOp | simp only [keeps_lit] | apply keeps_of | dsimp only | split)

theorem keeps_execIceq {q0 : List Instr} (t c d a : Nat) (b : OpB) (s : State) (hs : Keeps q0 s) : KeepsOut q0 (execIceq t c d a b s) := by
  unfold execIceq
  with_reducible repeat' (first | assumption | intro _ | apply keepsOut_next | apply keeps_laneOp | simp only [keeps_lit] | apply keeps_of | dsimp only | split)

theorem keeps_execSel {q0 : List Instr} (t c d a : Nat) (b : OpB) (cc : Nat) (s : State) (hs : Keeps q0 s) : KeepsOut q0 (execSel t c d a b cc s) := by
  unfold execSel
  with_reducible repeat' (first | assumption | intro _ | apply keepsOut_next | apply keeps_laneOp | simp only [keeps_lit] | apply keeps_of | dsimp only | split)

theorem keeps_execMov {q0 : List Instr} (t c d : Nat) (b : OpB) (s : State) (hs : Keeps q0 s) : KeepsOut q0 (execMov t c d b s) := by
  unfold execMov
  with_reducible repeat' (first | assumption | intro _ | apply keepsOut_next | apply keeps_laneOp | simp only [keeps_lit] | apply keeps_of | dsimp only | split)

theorem keeps_execViota {q0 : List Instr} (t c d : Nat) (b : OpB) (s : State) (hs : Keeps q0 s) : KeepsOut q0 (execViota t c d b s) := by
  unfold execViota
  with_reducible repeat' (first | assumption | intro _ | apply keepsOut_next | apply keeps_laneOp | simp only [keeps_lit] | apply keeps_of | dsimp only | split)

theorem keeps_execNorm {q0 : List Instr} (t c d a : Nat) (s : State) (hs : Keeps q0 s) : KeepsOut q0 (execNorm t c d a s) := by
  unfold execNorm
  with_reducible repeat' (first | assumption | intro _ | apply keepsOut_next | apply keeps_laneOp | simp only [keeps_lit] | apply keeps_of | dsimp only | split)

theorem keeps_execExpx {q0 : List Instr} (t c d a : Nat) (s : State) (hs : Keeps q0 s) : KeepsOut q0 (execExpx t c d a s) := by
  unfold execExpx
  with_reducible repeat' (first | assumption | intro _ | apply keepsOut_next | apply keeps_laneOp | simp only [keeps_lit] | apply keeps_of | dsimp only | split)

theorem keeps_execBexp {q0 : List Instr} (t c d a : Nat) (imm : W16) (s : State) (hs : Keeps q0 s) : KeepsOut q0 (execBexp t c d a imm s) := by
  unfold execBexp
  with_reducible repeat' (first | assumption | intro _ | apply keepsOut_next | apply keeps_laneOp | simp only [keeps_lit] | apply keeps_of | dsimp only | split)

theorem keeps_execGred {q0 : List Instr} (t c d a : Nat) (imm : W16) (s : State) (hs : Keeps q0 s) : KeepsOut q0 (execGred t c d a imm s) := by
  unfold execGred
  with_reducible repeat' (first | assumption | intro _ | apply keepsOut_next | apply keeps_laneOp | simp only [keeps_lit] | apply keeps_of | dsimp only | split)

theorem keeps_execVperm {q0 : List Instr} (t c d a b : Nat) (s : State) (hs : Keeps q0 s) : KeepsOut q0 (execVperm t c d a b s) := by
  unfold execVperm
  with_reducible repeat' (first | assumption | intro _ | apply keepsOut_next | apply keeps_laneOp | simp only [keeps_lit] | apply keeps_of | dsimp only | split)

theorem keeps_execVext {q0 : List Instr} (t c d a : Nat) (imm : W16) (s : State) (hs : Keeps q0 s) : KeepsOut q0 (execVext t c d a imm s) := by
  unfold execVext
  with_reducible repeat' (first | assumption | intro _ | apply keepsOut_next | apply keeps_slotOp | simp only [keeps_lit] | apply keeps_of | dsimp only | split)

theorem keeps_execExp2 {q0 : List Instr} (t c d a : Nat) (s : State) (hs : Keeps q0 s) : KeepsOut q0 (execExp2 t c d a s) := by
  unfold execExp2
  with_reducible repeat' (first | assumption | intro _ | apply keepsOut_next | apply keeps_laneOp | simp only [keeps_lit] | apply keeps_of | dsimp only | split)

theorem keeps_execLog2 {q0 : List Instr} (t c d a : Nat) (s : State) (hs : Keeps q0 s) : KeepsOut q0 (execLog2 t c d a s) := by
  unfold execLog2
  with_reducible repeat' (first | assumption | intro _ | apply keepsOut_next | apply keeps_laneOp | simp only [keeps_lit] | apply keeps_of | dsimp only | split)

theorem keeps_execRcp {q0 : List Instr} (t c d a : Nat) (s : State) (hs : Keeps q0 s) : KeepsOut q0 (execRcp t c d a s) := by
  unfold execRcp
  with_reducible repeat' (first | assumption | intro _ | apply keepsOut_next | apply keeps_laneOp | simp only [keeps_lit] | apply keeps_of | dsimp only | split)

theorem keeps_execRsqrt {q0 : List Instr} (t c d a : Nat) (s : State) (hs : Keeps q0 s) : KeepsOut q0 (execRsqrt t c d a s) := by
  unfold execRsqrt
  with_reducible repeat' (first | assumption | intro _ | apply keepsOut_next | apply keeps_laneOp | simp only [keeps_lit] | apply keeps_of | dsimp only | split)

end Sys2Proof.Machine
end

