-- ==== Sys2Proof/Laws/KeepsLoadStore.lean ====
section
/-!
SUPPORT. Every state that a definition of Machine/LoadStore.lean answers keeps the canonical form of both memories, the beat and the queue.
-/
set_option linter.unusedTactic false
set_option linter.unreachableTactic false
set_option linter.unusedVariables false
set_option linter.unusedSimpArgs false
namespace Sys2Proof.Machine

theorem keeps_execVld {q0 : List Instr} (t c : Nat) (o : LsOp) (s : State) (hs : Keeps q0 s) : KeepsOut q0 (execVld t c o s) := by
  unfold execVld
  with_reducible repeat' (first | assumption | intro _ | apply keepsOut_next | apply keeps_slotOp | simp only [keeps_lit] | apply keeps_of | dsimp only | split)

theorem keeps_execVst {q0 : List Instr} (t c : Nat) (o : LsOp) (s : State) (hs : Keeps q0 s) : KeepsOut q0 (execVst t c o s) := by
  unfold execVst
  with_reducible repeat' (first | assumption | intro _ | apply keepsOut_next | apply keeps_slotOp | simp only [keeps_lit] | apply keeps_of | dsimp only | split)

theorem keeps_execVldb {q0 : List Instr} (t c : Nat) (o : LsOp) (s : State) (hs : Keeps q0 s) : KeepsOut q0 (execVldb t c o s) := by
  unfold execVldb
  with_reducible repeat' (first | assumption | intro _ | apply keepsOut_next | apply keeps_slotOp | simp only [keeps_lit] | apply keeps_of | dsimp only | split)

theorem keeps_execSld {q0 : List Instr} (t c : Nat) (o : LsOp) (s : State) (hs : Keeps q0 s) : KeepsOut q0 (execSld t c o s) := by
  unfold execSld
  with_reducible repeat' (first | assumption | intro _ | apply keepsOut_next | apply keeps_slotOp | simp only [keeps_lit] | apply keeps_of | dsimp only | split)

theorem keeps_execSst {q0 : List Instr} (t c : Nat) (o : LsOp) (s : State) (hs : Keeps q0 s) : KeepsOut q0 (execSst t c o s) := by
  unfold execSst
  with_reducible repeat' (first | assumption | intro _ | apply keepsOut_next | apply keeps_slotOp | simp only [keeps_lit] | apply keeps_of | dsimp only | split)

theorem keeps_execVldt {q0 : List Instr} (t c : Nat) (o : LsOp) (s : State) (hs : Keeps q0 s) : KeepsOut q0 (execVldt t c o s) := by
  unfold execVldt
  with_reducible repeat' (first | assumption | intro _ | apply keepsOut_next | apply keeps_slotOp | simp only [keeps_lit] | apply keeps_of | dsimp only | split)

theorem keeps_execVstt {q0 : List Instr} (t c : Nat) (o : LsOp) (s : State) (hs : Keeps q0 s) : KeepsOut q0 (execVstt t c o s) := by
  unfold execVstt
  with_reducible repeat' (first | assumption | intro _ | apply keepsOut_next | apply keeps_slotOp | simp only [keeps_lit] | apply keeps_of | dsimp only | split)

theorem keeps_execLdpk {q0 : List Instr} (t c : Nat) (o : LsOp) (s : State) (hs : Keeps q0 s) : KeepsOut q0 (execLdpk t c o s) := by
  unfold execLdpk
  with_reducible repeat' (first | assumption | intro _ | apply keepsOut_next | apply keeps_slotOp | simp only [keeps_lit] | apply keeps_of | dsimp only | split)

theorem keeps_execStpk {q0 : List Instr} (t c : Nat) (o : LsOp) (s : State) (hs : Keeps q0 s) : KeepsOut q0 (execStpk t c o s) := by
  unfold execStpk
  with_reducible repeat' (first | assumption | intro _ | apply keepsOut_next | apply keeps_slotOp | simp only [keeps_lit] | apply keeps_of | dsimp only | split)

end Sys2Proof.Machine
end

