-- ==== Sys2Proof/Laws/KeepsLong.lean ====
section
/-!
SUPPORT. Every state that a definition of Machine/Long.lean answers keeps the canonical form of both memories, the beat and the queue.
-/
set_option linter.unusedTactic false
set_option linter.unreachableTactic false
set_option linter.unusedVariables false
set_option linter.unusedSimpArgs false
namespace Sys2Proof.Machine

theorem keeps_execVsumL {q0 : List Instr} (t c la a : Nat) (s : State) (hs : Keeps q0 s) : KeepsOut q0 (execVsumL t c la a s) := by
  unfold execVsumL
  with_reducible repeat' (first | assumption | intro _ | apply keepsOut_next | apply keeps_slotOp | simp only [keeps_lit] | apply keeps_of | dsimp only | split)

theorem keeps_execLaclr {q0 : List Instr} (t c la : Nat) (s : State) (hs : Keeps q0 s) : KeepsOut q0 (execLaclr t c la s) := by
  unfold execLaclr
  with_reducible repeat' (first | assumption | intro _ | apply keepsOut_next | apply keeps_slotOp | simp only [keeps_lit] | apply keeps_of | dsimp only | split)

theorem keeps_execLard {q0 : List Instr} (t c d la : Nat) (s : State) (hs : Keeps q0 s) : KeepsOut q0 (execLard t c d la s) := by
  unfold execLard
  with_reducible repeat' (first | assumption | intro _ | apply keepsOut_next | apply keeps_slotOp | simp only [keeps_lit] | apply keeps_of | dsimp only | split)

theorem keeps_execLald {q0 : List Instr} (t c : Nat) (o : LsOp) (s : State) (hs : Keeps q0 s) : KeepsOut q0 (execLald t c o s) := by
  unfold execLald
  with_reducible repeat' (first | assumption | intro _ | apply keepsOut_next | apply keeps_slotOp | simp only [keeps_lit] | apply keeps_of | dsimp only | split)

theorem keeps_execLast {q0 : List Instr} (t c : Nat) (o : LsOp) (s : State) (hs : Keeps q0 s) : KeepsOut q0 (execLast t c o s) := by
  unfold execLast
  with_reducible repeat' (first | assumption | intro _ | apply keepsOut_next | apply keeps_slotOp | simp only [keeps_lit] | apply keeps_of | dsimp only | split)

theorem keeps_execLamrg {q0 : List Instr} (t c : Nat) (o : LsOp) (s : State) (hs : Keeps q0 s) : KeepsOut q0 (execLamrg t c o s) := by
  unfold execLamrg
  with_reducible repeat' (first | assumption | intro _ | apply keepsOut_next | apply keeps_slotOp | simp only [keeps_lit] | apply keeps_of | dsimp only | split)

end Sys2Proof.Machine
end

