-- ==== Sys2Proof/Laws/KeepsScalar.lean ====
section
/-!
SUPPORT. Every state that a definition of Machine/Scalar.lean answers keeps the canonical form of both memories, the beat and the queue.
-/
set_option linter.unusedTactic false
set_option linter.unreachableTactic false
set_option linter.unusedVariables false
set_option linter.unusedSimpArgs false
namespace Sys2Proof.Machine

theorem keeps_scalarOp {q0 : List Instr} (s : State) (t c d a : Nat) (b : OpB) (lat : Nat) (g : W64 → W64 → W64) (hs : Keeps q0 s) : Keeps q0 (scalarOp s t c d a b lat g) := by
  unfold scalarOp
  with_reducible repeat' (first | assumption | intro _ | apply keeps_slotOp | simp only [keeps_lit] | apply keeps_of | dsimp only | split)

theorem keeps_execSadd {q0 : List Instr} (t c d a : Nat) (b : OpB) (s : State) (hs : Keeps q0 s) : KeepsOut q0 (execSadd t c d a b s) := by
  unfold execSadd
  with_reducible repeat' (first | assumption | intro _ | apply keepsOut_next | apply keeps_scalarOp | simp only [keeps_lit] | apply keeps_of | dsimp only | split)

theorem keeps_execSsub {q0 : List Instr} (t c d a : Nat) (b : OpB) (s : State) (hs : Keeps q0 s) : KeepsOut q0 (execSsub t c d a b s) := by
  unfold execSsub
  with_reducible repeat' (first | assumption | intro _ | apply keepsOut_next | apply keeps_scalarOp | simp only [keeps_lit] | apply keeps_of | dsimp only | split)

theorem keeps_execSmul {q0 : List Instr} (t c d a : Nat) (b : OpB) (s : State) (hs : Keeps q0 s) : KeepsOut q0 (execSmul t c d a b s) := by
  unfold execSmul
  with_reducible repeat' (first | assumption | intro _ | apply keepsOut_next | apply keeps_scalarOp | simp only [keeps_lit] | apply keeps_of | dsimp only | split)

theorem keeps_execSand {q0 : List Instr} (t c d a : Nat) (b : OpB) (s : State) (hs : Keeps q0 s) : KeepsOut q0 (execSand t c d a b s) := by
  unfold execSand
  with_reducible repeat' (first | assumption | intro _ | apply keepsOut_next | apply keeps_scalarOp | simp only [keeps_lit] | apply keeps_of | dsimp only | split)

theorem keeps_execSor {q0 : List Instr} (t c d a : Nat) (b : OpB) (s : State) (hs : Keeps q0 s) : KeepsOut q0 (execSor t c d a b s) := by
  unfold execSor
  with_reducible repeat' (first | assumption | intro _ | apply keepsOut_next | apply keeps_scalarOp | simp only [keeps_lit] | apply keeps_of | dsimp only | split)

theorem keeps_execSxor {q0 : List Instr} (t c d a : Nat) (b : OpB) (s : State) (hs : Keeps q0 s) : KeepsOut q0 (execSxor t c d a b s) := by
  unfold execSxor
  with_reducible repeat' (first | assumption | intro _ | apply keepsOut_next | apply keeps_scalarOp | simp only [keeps_lit] | apply keeps_of | dsimp only | split)

theorem keeps_execSshl {q0 : List Instr} (t c d a : Nat) (b : OpB) (s : State) (hs : Keeps q0 s) : KeepsOut q0 (execSshl t c d a b s) := by
  unfold execSshl
  with_reducible repeat' (first | assumption | intro _ | apply keepsOut_next | apply keeps_scalarOp | simp only [keeps_lit] | apply keeps_of | dsimp only | split)

theorem keeps_execSshr {q0 : List Instr} (t c d a : Nat) (b : OpB) (s : State) (hs : Keeps q0 s) : KeepsOut q0 (execSshr t c d a b s) := by
  unfold execSshr
  with_reducible repeat' (first | assumption | intro _ | apply keepsOut_next | apply keeps_scalarOp | simp only [keeps_lit] | apply keeps_of | dsimp only | split)

theorem keeps_execSsra {q0 : List Instr} (t c d a : Nat) (b : OpB) (s : State) (hs : Keeps q0 s) : KeepsOut q0 (execSsra t c d a b s) := by
  unfold execSsra
  with_reducible repeat' (first | assumption | intro _ | apply keepsOut_next | apply keeps_scalarOp | simp only [keeps_lit] | apply keeps_of | dsimp only | split)

theorem keeps_execSmin {q0 : List Instr} (t c d a : Nat) (b : OpB) (s : State) (hs : Keeps q0 s) : KeepsOut q0 (execSmin t c d a b s) := by
  unfold execSmin
  with_reducible repeat' (first | assumption | intro _ | apply keepsOut_next | apply keeps_scalarOp | simp only [keeps_lit] | apply keeps_of | dsimp only | split)

theorem keeps_execSmax {q0 : List Instr} (t c d a : Nat) (b : OpB) (s : State) (hs : Keeps q0 s) : KeepsOut q0 (execSmax t c d a b s) := by
  unfold execSmax
  with_reducible repeat' (first | assumption | intro _ | apply keepsOut_next | apply keeps_scalarOp | simp only [keeps_lit] | apply keeps_of | dsimp only | split)

theorem keeps_execSclt {q0 : List Instr} (t c d a : Nat) (b : OpB) (s : State) (hs : Keeps q0 s) : KeepsOut q0 (execSclt t c d a b s) := by
  unfold execSclt
  with_reducible repeat' (first | assumption | intro _ | apply keepsOut_next | apply keeps_scalarOp | simp only [keeps_lit] | apply keeps_of | dsimp only | split)

theorem keeps_execSceq {q0 : List Instr} (t c d a : Nat) (b : OpB) (s : State) (hs : Keeps q0 s) : KeepsOut q0 (execSceq t c d a b s) := by
  unfold execSceq
  with_reducible repeat' (first | assumption | intro _ | apply keepsOut_next | apply keeps_scalarOp | simp only [keeps_lit] | apply keeps_of | dsimp only | split)

theorem keeps_execSmov {q0 : List Instr} (t c d : Nat) (b : OpB) (s : State) (hs : Keeps q0 s) : KeepsOut q0 (execSmov t c d b s) := by
  unfold execSmov
  with_reducible repeat' (first | assumption | intro _ | apply keepsOut_next | apply keeps_slotOp | simp only [keeps_lit] | apply keeps_of | dsimp only | split)

theorem keeps_execSshi {q0 : List Instr} (t c d : Nat) (imm : W16) (s : State) (hs : Keeps q0 s) : KeepsOut q0 (execSshi t c d imm s) := by
  unfold execSshi
  with_reducible repeat' (first | assumption | intro _ | apply keepsOut_next | apply keeps_slotOp | simp only [keeps_lit] | apply keeps_of | dsimp only | split)

theorem keeps_execMova {q0 : List Instr} (t c d a : Nat) (s : State) (hs : Keeps q0 s) : KeepsOut q0 (execMova t c d a s) := by
  unfold execMova
  with_reducible repeat' (first | assumption | intro _ | apply keepsOut_next | apply keeps_slotOp | simp only [keeps_lit] | apply keeps_of | dsimp only | split)

theorem keeps_execMovb {q0 : List Instr} (t c d a : Nat) (s : State) (hs : Keeps q0 s) : KeepsOut q0 (execMovb t c d a s) := by
  unfold execMovb
  with_reducible repeat' (first | assumption | intro _ | apply keepsOut_next | apply keeps_slotOp | simp only [keeps_lit] | apply keeps_of | dsimp only | split)

theorem keeps_execMovl {q0 : List Instr} (t c d a : Nat) (s : State) (hs : Keeps q0 s) : KeepsOut q0 (execMovl t c d a s) := by
  unfold execMovl
  with_reducible repeat' (first | assumption | intro _ | apply keepsOut_next | apply keeps_slotOp | simp only [keeps_lit] | apply keeps_of | dsimp only | split)

theorem keeps_execMovsa {q0 : List Instr} (t c d a : Nat) (s : State) (hs : Keeps q0 s) : KeepsOut q0 (execMovsa t c d a s) := by
  unfold execMovsa
  with_reducible repeat' (first | assumption | intro _ | apply keepsOut_next | apply keeps_slotOp | simp only [keeps_lit] | apply keeps_of | dsimp only | split)

theorem keeps_execAadd {q0 : List Instr} (t c d : Nat) (imm : W16) (s : State) (hs : Keeps q0 s) : KeepsOut q0 (execAadd t c d imm s) := by
  unfold execAadd
  with_reducible repeat' (first | assumption | intro _ | apply keepsOut_next | apply keeps_slotOp | simp only [keeps_lit] | apply keeps_of | dsimp only | split)

end Sys2Proof.Machine
end

