-- ==== Sys2Proof/Laws/KeepsSkew.lean ====
section
/-!
SUPPORT. Every state that a definition of Machine/Skew.lean answers keeps the canonical form of both memories, the beat and the queue.
-/
set_option linter.unusedTactic false
set_option linter.unreachableTactic false
set_option linter.unusedVariables false
set_option linter.unusedSimpArgs false
namespace Sys2Proof.Machine

theorem keeps_memStop {q0 : List Instr} (s : State) (t : Nat) (r : Running) (c cause : Nat) (hs : Keeps q0 s) : Keeps q0 (memStop s t r c cause) := by
  unfold memStop
  with_reducible repeat' (first | assumption | intro _ | apply keeps_barContext | apply keeps_leaveTile | simp only [keeps_lit] | apply keeps_of | dsimp only | split)

theorem keeps_memRange {q0 : List Instr} (s : State) (t : Nat) (r : Running) (c : Nat) (hs : Keeps q0 s) : Keeps q0 (memRange s t r c) := by
  unfold memRange
  with_reducible repeat' (first | assumption | intro _ | apply keeps_memStop | apply keeps_recordEvent | simp only [keeps_lit] | apply keeps_of | dsimp only | split)

theorem keeps_attnSeqFault {q0 : List Instr} (s : State) (q seq chain : Nat) (hs : Keeps q0 s) : Keeps q0 (attnSeqFault s q seq chain) := by
  unfold attnSeqFault
  with_reducible repeat' (first | assumption | intro _ | simp only [keeps_lit] | apply keeps_of | dsimp only | split)

theorem keeps_tileUncorrected {q0 : List Instr} (s : State) (t : Nat) (r : Running) (c a n : Nat) (hs : Keeps q0 s) : Keeps q0 (tileUncorrected s t r c a n) := by
  unfold tileUncorrected
  with_reducible repeat' (first | assumption | intro _ | apply keeps_recordUncorrected | apply keeps_attnSeqFault | apply keeps_memStop | simp only [keeps_lit] | apply keeps_of | dsimp only | split)

theorem keeps_issueDma {q0 : List Instr} (s0 : State) (t c : Nat) (o : DmaOp) (op : Nat) (hs0 : Keeps q0 s0) : Keeps q0 (issueDma s0 t c o op) := by
  unfold issueDma
  with_reducible repeat' (first | assumption | intro _ | apply keeps_timedDue | apply keeps_residueFault | apply keeps_ruleBreak | apply keeps_memRange | apply keeps_setTile | simp only [keeps_lit] | apply keeps_of | dsimp only | split)

theorem keeps_execLd {q0 : List Instr} (t c : Nat) (o : DmaOp) (s : State) (hs : Keeps q0 s) : KeepsOut q0 (execLd t c o s) := by
  unfold execLd
  with_reducible repeat' (first | assumption | intro _ | apply keepsOut_next | apply keeps_issueDma | simp only [keeps_lit] | apply keeps_of | dsimp only | split)

theorem keeps_execSt {q0 : List Instr} (t c : Nat) (o : DmaOp) (s : State) (hs : Keeps q0 s) : KeepsOut q0 (execSt t c o s) := by
  unfold execSt
  with_reducible repeat' (first | assumption | intro _ | apply keepsOut_next | apply keeps_issueDma | simp only [keeps_lit] | apply keeps_of | dsimp only | split)

theorem keeps_execSkewa {q0 : List Instr} (t c : Nat) (o : DmaOp) (s : State) (hs : Keeps q0 s) : KeepsOut q0 (execSkewa t c o s) := by
  unfold execSkewa
  with_reducible repeat' (first | assumption | intro _ | apply keepsOut_next | apply keeps_slotOp | simp only [keeps_lit] | apply keeps_of | dsimp only | split)

theorem keeps_execSkewb {q0 : List Instr} (t c : Nat) (o : DmaOp) (s : State) (hs : Keeps q0 s) : KeepsOut q0 (execSkewb t c o s) := by
  unfold execSkewb
  with_reducible repeat' (first | assumption | intro _ | apply keepsOut_next | apply keeps_slotOp | simp only [keeps_lit] | apply keeps_of | dsimp only | split)

theorem keeps_execMks {q0 : List Instr} (t c : Nat) (o : DmaOp) (s : State) (hs : Keeps q0 s) : KeepsOut q0 (execMks t c o s) := by
  unfold execMks
  with_reducible repeat' (first | assumption | intro _ | apply keepsOut_next | apply keeps_slotOp | simp only [keeps_lit] | apply keeps_of | dsimp only | split)

theorem keeps_lateComplete {q0 : List Instr} (s : State) (t c k : Nat) (hs : Keeps q0 s) : Keeps q0 (lateComplete s t c k) := by
  unfold lateComplete
  with_reducible repeat' (first | assumption | intro _ | apply keeps_modTile | apply keeps_recordUncorrected | apply keeps_devWrite | simp only [keeps_lit] | apply keeps_of | dsimp only | split)

theorem keeps_execDmaSkewComplete {q0 : List Instr} (t c tag : Nat) (s : State) (hs : Keeps q0 s) : KeepsOut q0 (execDmaSkewComplete t c tag s) := by
  unfold execDmaSkewComplete
  with_reducible repeat' (first | assumption | intro _ | apply keepsOut_next | apply keeps_lateComplete | apply keeps_residueFault | apply keeps_tileUncorrected | apply keeps_setTile | apply keeps_noteReads | apply keeps_devWrite | simp only [keeps_lit] | apply keeps_of | dsimp only | split)

end Sys2Proof.Machine
end

