-- ==== Sys2Proof/Laws/KeepsBundle.lean ====
section
/-!
SUPPORT. Every state that a definition of Machine/Bundle.lean answers keeps the canonical form of both memories, the beat and the queue.
-/
set_option linter.unusedTactic false
set_option linter.unreachableTactic false
set_option linter.unusedVariables false
set_option linter.unusedSimpArgs false
namespace Sys2Proof.Machine

theorem keeps_slotExec {q0 : List Instr} (i : Instr) (s : State) (hs : Keeps q0 s) : KeepsOut q0 (slotExec i s) := by
  unfold slotExec
  with_reducible repeat' (first | assumption | intro _ | apply keepsOut_next | apply keeps_execMma | apply keeps_execWld | apply keeps_execRout | apply keeps_execLout | apply keeps_execLin | apply keeps_execLd | apply keeps_execSt | apply keeps_execSkewa | apply keeps_execSkewb | apply keeps_execMks | apply keeps_execFadd | apply keeps_execFsub | apply keeps_execFmul | apply keeps_execFma | apply keeps_execFnma | apply keeps_execFmin | apply keeps_execFmax | apply keeps_execFabs | apply keeps_execFneg | apply keeps_execFclt | apply keeps_execFcle | apply keeps_execFceq | apply keeps_execFcvti | apply keeps_execIcvtf | apply keeps_execFscl | apply keeps_execIadd | apply keeps_execIsub | apply keeps_execImul | apply keeps_execAndV | apply keeps_execOrV | apply keeps_execXorV | apply keeps_execShl | apply keeps_execShr | apply keeps_execSra | apply keeps_execImin | apply keeps_execImax | apply keeps_execIclt | apply keeps_execIceq | apply keeps_execSel | apply keeps_execMov | apply keeps_execViota | apply keeps_execNorm | apply keeps_execExpx | apply keeps_execBexp | apply keeps_execGred | apply keeps_execVperm | apply keeps_execVext | apply keeps_execExp2 | apply keeps_execLog2 | apply keeps_execRcp | apply keeps_execRsqrt | apply keeps_execVsumL | apply keeps_execLaclr | apply keeps_execLard | apply keeps_execSadd | apply keeps_execSsub | apply keeps_execSmul | apply keeps_execSand | apply keeps_execSor | apply keeps_execSxor | apply keeps_execSshl | apply keeps_execSshr | apply keeps_execSsra | apply keeps_execSmin | apply keeps_execSmax | apply keeps_execSclt | apply keeps_execSceq | apply keeps_execSmov | apply keeps_execSshi | apply keeps_execMova | apply keeps_execMovb | apply keeps_execMovl | apply keeps_execMovsa | apply keeps_execAadd | apply keeps_execVld | apply keeps_execVst | apply keeps_execVldb | apply keeps_execSld | apply keeps_execSst | apply keeps_execVldt | apply keeps_execVstt | apply keeps_execLdpk | apply keeps_execStpk | apply keeps_execLald | apply keeps_execLast | apply keeps_execLamrg | simp only [keeps_lit] | apply keeps_of | dsimp only | split)

theorem keeps_issueSlots {q0 : List Instr} (s : State) (t c : Nat) (b : BitVec 256) (hs : Keeps q0 s) : Keeps q0 (issueSlots s t c b) := by
  unfold issueSlots
  refine keeps_foldl _ _ (fun x d h => ?_) hs
  split
  · split
    · exact keeps_of_next (keeps_slotExec _ _ h) (by assumption)
    · exact h
  · exact h


end Sys2Proof.Machine
end

