-- ==== Sys2Proof/Laws/KeepsTickOps.lean ====
section
/-!
SUPPORT. Every state that a definition of Machine/TickOps.lean answers keeps the canonical form of both memories, the beat and the queue.
-/
set_option linter.unusedTactic false
set_option linter.unreachableTactic false
set_option linter.unusedVariables false
set_option linter.unusedSimpArgs false
namespace Sys2Proof.Machine

theorem keeps_retireElement {q0 : List Instr} (s : State) (kind die index cause : Nat) (hs : Keeps q0 s) : Keeps q0 (retireElement s kind die index cause) := by
  unfold retireElement
  with_reducible repeat' (first | assumption | intro _ | simp only [keeps_lit] | apply keeps_of | dsimp only | split)

end Sys2Proof.Machine
end

