-- ==== Sys2Proof/Laws/KeepsCode.lean ====
section
/-!
SUPPORT. Every state that a definition of Machine/Code.lean answers keeps the canonical form of both memories, the beat and the queue.
-/
set_option linter.unusedTactic false
set_option linter.unreachableTactic false
set_option linter.unusedVariables false
set_option linter.unusedSimpArgs false
namespace Sys2Proof.Machine

theorem keeps_listStep {q0 : List Instr} (s : State) (n : Nat) (hs : Keeps q0 s) : Keeps q0 (listStep s n) := by
  unfold listStep
  with_reducible repeat' (first | assumption | intro _ | apply keeps_incSync | simp only [keeps_lit] | apply keeps_of | dsimp only | split)

theorem keeps_codeEntryDone {q0 : List Instr} (s : State) (addr status outcome : Nat) (hs : Keeps q0 s) : Keeps q0 (codeEntryDone s addr status outcome) := by
  unfold codeEntryDone
  with_reducible repeat' (first | assumption | intro _ | apply keeps_devWrite | simp only [keeps_lit] | apply keeps_of | dsimp only | split)

theorem keeps_startCodeList {q0 : List Instr} (s : State) (g ptr : Nat) (hs : Keeps q0 s) : Keeps q0 (startCodeList s g ptr) := by
  unfold startCodeList
  with_reducible repeat' (first | assumption | intro _ | refine keeps_foldl _ _ ?_ ?_ | apply keeps_recordUncorrected | apply keeps_codeEntryDone | apply keeps_incSync | simp only [keeps_lit] | apply keeps_of | dsimp only | split)

theorem keeps_execCodeBlockStart {q0 : List Instr} (hd engine : Nat) (s : State) (hs : Keeps q0 s) : KeepsOut q0 (execCodeBlockStart hd engine s) := by
  unfold execCodeBlockStart
  with_reducible repeat' (first | assumption | intro _ | apply keepsOut_next | simp only [keeps_lit] | apply keeps_of | dsimp only | split)

theorem keeps_rerunBlock {q0 : List Instr} (s : State) (hd e : Nat) (b : Block) (hs : Keeps q0 s) : Keeps q0 (rerunBlock s hd e b) := by
  unfold rerunBlock
  with_reducible repeat' (first | assumption | intro _ | simp only [keeps_lit] | apply keeps_of | dsimp only | split)

theorem keeps_engineFault {q0 : List Instr} (s : State) (hd e : Nat) (hs : Keeps q0 s) : Keeps q0 (engineFault s hd e) := by
  unfold engineFault
  with_reducible repeat' (first | assumption | intro _ | apply keeps_recordEvent | apply keeps_retireElement | simp only [keeps_lit] | apply keeps_of | dsimp only | split)

theorem keeps_blockResult {q0 : List Instr} (s : State) (b : Block) (hs : Keeps q0 s) : Keeps q0 (blockResult s b) := by
  unfold blockResult
  with_reducible repeat' (first | assumption | intro _ | apply keeps_codeEntryDone | apply keeps_recordUncorrected | apply keeps_devWrite | simp only [keeps_lit] | apply keeps_of | dsimp only | split)

theorem keeps_execCodeBlockComplete {q0 : List Instr} (hd engine : Nat) (fault : Bool) (s : State) (hs : Keeps q0 s) : KeepsOut q0 (execCodeBlockComplete hd engine fault s) := by
  unfold execCodeBlockComplete
  with_reducible repeat' (first | assumption | intro _ | apply keepsOut_next | apply keeps_engineFault | apply keeps_rerunBlock | apply keeps_blockResult | apply keeps_listStep | simp only [keeps_lit] | apply keeps_of | dsimp only | split)

end Sys2Proof.Machine
end

