-- ==== Sys2Proof/Laws/KeepsServOps.lean ====
section
/-!
SUPPORT. Every state that a definition of Machine/ServOps.lean answers keeps the canonical form of both memories, the beat and the queue.
-/
set_option linter.unusedTactic false
set_option linter.unreachableTactic false
set_option linter.unusedVariables false
set_option linter.unusedSimpArgs false
namespace Sys2Proof.Machine

theorem keeps_setReq {q0 : List Instr} (s : State) (i : Nat) (r : Req) (hs : Keeps q0 s) : Keeps q0 (setReq s i r) := by
  unfold setReq
  with_reducible repeat' (first | assumption | intro _ | simp only [keeps_lit] | apply keeps_of | dsimp only | split)

theorem keeps_putPage {q0 : List Instr} (s : State) (r : Req) (i id gen : Nat) (hs : Keeps q0 s) : Keeps q0 (putPage s r i id gen) := by
  unfold putPage
  with_reducible repeat' (first | assumption | intro _ | apply keeps_devWrite | simp only [keeps_lit] | apply keeps_of | dsimp only | split)

theorem keeps_releaseHeld {q0 : List Instr} (s : State) (i p id : Nat) (hs : Keeps q0 s) : Keeps q0 (releaseHeld s i p id) := by
  unfold releaseHeld
  with_reducible repeat' (first | assumption | intro _ | apply keeps_releasePage | apply keeps_usePrefix | simp only [keeps_lit] | apply keeps_of | dsimp only | split)

theorem keeps_releasePages {q0 : List Instr} (s : State) (i : Nat) (r : Req) (from_ : Nat) (hs : Keeps q0 s) : Keeps q0 (releasePages s i r from_) := by
  unfold releasePages
  with_reducible repeat' (first | assumption | intro _ | refine keeps_foldl _ _ ?_ ?_ | apply keeps_releaseHeld | simp only [keeps_lit] | apply keeps_of | dsimp only | split)

theorem keeps_moveNotice {q0 : List Instr} (s : State) (i : Nat) (r : Req) (status reason kind : Nat) (hs : Keeps q0 s) : Keeps q0 (moveNotice s i r status reason kind) := by
  unfold moveNotice
  with_reducible repeat' (first | assumption | intro _ | apply keeps_devPut | apply keeps_bumpCounter | simp only [keeps_lit] | apply keeps_of | dsimp only | split)

theorem keeps_digestCompare {q0 : List Instr} (s : State) (own theirs : Digest) (hs : Keeps q0 s) : Keeps q0 (digestCompare s own theirs) := by
  unfold digestCompare
  with_reducible repeat' (first | assumption | intro _ | apply keeps_sendMsg | apply keeps_recordEvent | simp only [keeps_lit] | apply keeps_of | dsimp only | split)

theorem keeps_readyCheck {q0 : List Instr} (s : State) (hs : Keeps q0 s) : Keeps q0 (readyCheck s) := by
  unfold readyCheck
  with_reducible repeat' (first | assumption | intro _ | simp only [keeps_lit] | apply keeps_of | dsimp only | split)

theorem keeps_ownDigest {q0 : List Instr} (s : State) (d : Digest) (hs : Keeps q0 s) : Keeps q0 (ownDigest s d) := by
  unfold ownDigest
  with_reducible repeat' (first | assumption | intro _ | apply keeps_readyCheck | apply keeps_digestCompare | simp only [keeps_lit] | apply keeps_of | dsimp only | split)

theorem keeps_formDigest {q0 : List Instr} (s : State) (r : Req) (reason : Nat) (hs : Keeps q0 s) : Keeps q0 (formDigest s r reason) := by
  unfold formDigest
  with_reducible repeat' (first | assumption | intro _ | apply keeps_sendMsg | apply keeps_ownDigest | simp only [keeps_lit] | apply keeps_of | dsimp only | split)

theorem keeps_dropRefs {q0 : List Instr} (s : State) (r : Req) (hs : Keeps q0 s) : Keeps q0 (dropRefs s r) := by
  unfold dropRefs
  with_reducible repeat' (first | assumption | intro _ | simp only [keeps_lit] | apply keeps_of | dsimp only | split)

theorem keeps_clearEntry {q0 : List Instr} (s : State) (i : Nat) (r : Req) (hs : Keeps q0 s) : Keeps q0 (clearEntry s i r) := by
  unfold clearEntry
  with_reducible repeat' (first | assumption | intro _ | apply keeps_dropRefs | apply keeps_setReq | simp only [keeps_lit] | apply keeps_of | dsimp only | split)

theorem keeps_freeEnded {q0 : List Instr} (s : State) (i : Nat) (hs : Keeps q0 s) : Keeps q0 (freeEnded s i) := by
  unfold freeEnded
  with_reducible repeat' (first | assumption | intro _ | apply keeps_clearEntry | simp only [keeps_lit] | apply keeps_of | dsimp only | split)

theorem keeps_endReq {q0 : List Instr} (s : State) (i state reason : Nat) (hs : Keeps q0 s) : Keeps q0 (endReq s i state reason) := by
  unfold endReq
  with_reducible repeat' (first | assumption | intro _ | apply keeps_releasePages | apply keeps_formDigest | apply keeps_setReq | apply keeps_moveNotice | apply keeps_finishWith | apply keeps_freeEnded | simp only [keeps_lit] | apply keeps_of | dsimp only | split)

theorem keeps_freeReq {q0 : List Instr} (s : State) (i : Nat) (hs : Keeps q0 s) : Keeps q0 (freeReq s i) := by
  unfold freeReq
  with_reducible repeat' (first | assumption | intro _ | apply keeps_clearEntry | apply keeps_releasePages | simp only [keeps_lit] | apply keeps_of | dsimp only | split)

end Sys2Proof.Machine
end

