-- ==== Sys2Proof/Laws/KeepsMoveOps.lean ====
section
/-!
SUPPORT. Every state that a definition of Machine/MoveOps.lean answers keeps the canonical form of both memories, the beat and the queue.
-/
set_option linter.unusedTactic false
set_option linter.unreachableTactic false
set_option linter.unusedVariables false
set_option linter.unusedSimpArgs false
namespace Sys2Proof.Machine

theorem keeps_pfxUse {q0 : List Instr} (s : State) (es : List PfxEntry) (hs : Keeps q0 s) : Keeps q0 (pfxUse s es) := by
  unfold pfxUse
  with_reducible repeat' (first | assumption | intro _ | refine keeps_foldl _ _ ?_ ?_ | apply keeps_usePrefix | simp only [keeps_lit] | apply keeps_of | dsimp only | split)

theorem keeps_pfxRemove {q0 : List Instr} (s : State) (e : PfxEntry) (hs : Keeps q0 s) : Keeps q0 (pfxRemove s e) := by
  unfold pfxRemove
  with_reducible repeat' (first | assumption | intro _ | apply keeps_releasePage | simp only [keeps_lit] | apply keeps_of | dsimp only | split)

theorem keeps_absentSeam {q0 : List Instr} (s : State) (hs : Keeps q0 s) : Keeps q0 (absentSeam s) := by
  unfold absentSeam
  with_reducible repeat' (first | assumption | intro _ | refine keeps_foldl _ _ ?_ ?_ | apply keeps_pfxRemove | simp only [keeps_lit] | apply keeps_of | dsimp only | split)

theorem keeps_pfxInsert {q0 : List Instr} (s : State) (pool depth : Nat) (key : List Byte) (frame : Nat) (slice : Option Nat) (copied : Bool) (hs : Keeps q0 s) : Keeps q0 (pfxInsert s pool depth key frame slice copied) := by
  have room : ∀ s1, (if s.mov.index.length < 65536 then some s else (oldestOf (s.mov.index.filter (refsOne s))).map (pfxRemove s)) = some s1 →
      Keeps q0 s1 := by
    intro s1 h
    split at h
    · exact Option.some.inj h ▸ hs
    · obtain ⟨e, _, h⟩ := Option.map_eq_some_iff.mp h
      exact h ▸ keeps_pfxRemove _ _ hs
  unfold pfxInsert
  with_reducible repeat' (first | (rename_i h; exact room _ h) | (have k := room _ (by assumption); revert k; intro k; refine keeps_sharePage _ _ _ k) | (first | assumption | intro _ | apply keeps_pfxRemove | apply keeps_sharePage | simp only [keeps_lit] | apply keeps_of | dsimp only | split))


theorem keeps_takeMsg {q0 : List Instr} (s : State) (src cls : Nat) (hs : Keeps q0 s) : Keeps q0 (takeMsg s src cls) := by
  unfold takeMsg
  with_reducible repeat' (first | assumption | intro _ | simp only [keeps_lit] | apply keeps_of | dsimp only | split)

theorem keeps_dropStaleMsg {q0 : List Instr} (s : State) (cls idx : Nat) (hs : Keeps q0 s) : Keeps q0 (dropStaleMsg s cls idx) := by
  unfold dropStaleMsg
  with_reducible repeat' (first | assumption | intro _ | refine keeps_foldl _ _ ?_ ?_ | apply keeps_takeMsg | simp only [keeps_lit] | apply keeps_of | dsimp only | split)

theorem keeps_addGrants {q0 : List Instr} (s : State) (gs : List Grant) (hs : Keeps q0 s) : Keeps q0 (addGrants s gs).1 := by
  unfold addGrants
  with_reducible repeat' (first | assumption | intro _ | simp only [keeps_lit] | apply keeps_of | dsimp only | split)

theorem keeps_dropGrants {q0 : List Instr} (s : State) (t : Grant → Bool) (hs : Keeps q0 s) : Keeps q0 (dropGrants s t) := by
  unfold dropGrants
  with_reducible repeat' (first | assumption | intro _ | simp only [keeps_lit] | apply keeps_of | dsimp only | split)

theorem keeps_setSrc {q0 : List Instr} (s : State) (i : Nat) (m : SrcMove) (hs : Keeps q0 s) : Keeps q0 (setSrc s i m) := by
  unfold setSrc
  with_reducible repeat' (first | assumption | intro _ | simp only [keeps_lit] | apply keeps_of | dsimp only | split)

theorem keeps_dropSrc {q0 : List Instr} (s : State) (i : Nat) (hs : Keeps q0 s) : Keeps q0 (dropSrc s i) := by
  unfold dropSrc
  with_reducible repeat' (first | assumption | intro _ | simp only [keeps_lit] | apply keeps_of | dsimp only | split)

theorem keeps_reserveTo {q0 : List Instr} (s : State) (i t tried : Nat) (hs : Keeps q0 s) : Keeps q0 (reserveTo s i t tried) := by
  unfold reserveTo
  with_reducible repeat' (first | assumption | intro _ | apply keeps_sendMsg | apply keeps_setSrc | simp only [keeps_lit] | apply keeps_of | dsimp only | split)

theorem keeps_revertMove {q0 : List Instr} (s : State) (i : Nat) (hs : Keeps q0 s) : Keeps q0 (revertMove s i) := by
  unfold revertMove
  with_reducible repeat' (first | assumption | intro _ | apply keeps_dropSrc | apply keeps_setReq | apply keeps_recordEvent | simp only [keeps_lit] | apply keeps_of | dsimp only | split)

theorem keeps_reserveGo {q0 : List Instr} (i : Nat) (z0 : Nat) (z1 : Nat) (z2 : State) (hz2 : Keeps q0 z2) : Keeps q0 (reserveGo i z0 z1 z2) := by
  induction z0 generalizing z1 z2 with
  | zero => unfold reserveGo; with_reducible repeat' (first | assumption | intro _ | apply keeps_reserveTo | apply keeps_revertMove | simp only [keeps_lit] | apply keeps_of | dsimp only | split)
  | succ n ih =>
    unfold reserveGo
    with_reducible repeat' (first | apply ih | (first | assumption | intro _ | apply keeps_reserveTo | apply keeps_revertMove | simp only [keeps_lit] | apply keeps_of | dsimp only | split))


theorem keeps_sendReserve {q0 : List Instr} (s : State) (i tried : Nat) (hs : Keeps q0 s) : Keeps q0 (sendReserve s i tried) := by
  unfold sendReserve
  with_reducible repeat' (first | assumption | intro _ | apply keeps_reserveGo | simp only [keeps_lit] | apply keeps_of | dsimp only | split)

theorem keeps_startMove {q0 : List Instr} (s : State) (i : Nat) (hs : Keeps q0 s) : Keeps q0 (startMove s i) := by
  unfold startMove
  with_reducible repeat' (first | assumption | intro _ | apply keeps_sendReserve | apply keeps_setReq | simp only [keeps_lit] | apply keeps_of | dsimp only | split)

theorem keeps_sendQuery {q0 : List Instr} (s : State) (i : Nat) (hs : Keeps q0 s) : Keeps q0 (sendQuery s i) := by
  unfold sendQuery
  with_reducible repeat' (first | assumption | intro _ | apply keeps_sendMsg | apply keeps_setSrc | simp only [keeps_lit] | apply keeps_of | dsimp only | split)

theorem keeps_moveCopied {q0 : List Instr} (s : State) (i : Nat) (hs : Keeps q0 s) : Keeps q0 (moveCopied s i) := by
  unfold moveCopied
  with_reducible repeat' (first | assumption | intro _ | apply keeps_sendMsg | apply keeps_setSrc | simp only [keeps_lit] | apply keeps_of | dsimp only | split)

theorem keeps_moveBurst {q0 : List Instr} (s : State) (i src n dst : Nat) (hs : Keeps q0 s) : Keeps q0 (moveBurst s i src n dst) := by
  unfold moveBurst
  with_reducible repeat' (first | assumption | intro _ | apply keeps_moveCopied | apply keeps_setSrc | simp only [keeps_lit] | apply keeps_of | dsimp only | split)

theorem keeps_movePoisoned {q0 : List Instr} (s : State) (i src : Nat) (hs : Keeps q0 s) : Keeps q0 (movePoisoned s i src) := by
  unfold movePoisoned
  with_reducible repeat' (first | assumption | intro _ | apply keeps_revertMove | apply keeps_sendMsg | apply keeps_setReq | simp only [keeps_lit] | apply keeps_of | dsimp only | split)

theorem keeps_modMove {q0 : List Instr} (s : State) (src idx gen : Nat) (f : MoveRec → MoveRec) (hs : Keeps q0 s) : Keeps q0 (modMove s src idx gen f) := by
  unfold modMove
  with_reducible repeat' (first | assumption | intro _ | simp only [keeps_lit] | apply keeps_of | dsimp only | split)

theorem keeps_dropMoveGrants {q0 : List Instr} (s : State) (src idx gen : Nat) (hs : Keeps q0 s) : Keeps q0 (dropMoveGrants s src idx gen) := by
  unfold dropMoveGrants
  with_reducible repeat' (first | assumption | intro _ | apply keeps_dropGrants | simp only [keeps_lit] | apply keeps_of | dsimp only | split)

theorem keeps_answerMove {q0 : List Instr} (s : State) (src idx gen outcome : Nat) (hs : Keeps q0 s) : Keeps q0 (answerMove s src idx gen outcome) := by
  unfold answerMove
  with_reducible repeat' (first | assumption | intro _ | apply keeps_sendMsg | simp only [keeps_lit] | apply keeps_of | dsimp only | split)

theorem keeps_abandonMove {q0 : List Instr} (s : State) (m : MoveRec) (hs : Keeps q0 s) : Keeps q0 (abandonMove s m) := by
  unfold abandonMove
  with_reducible repeat' (first | assumption | intro _ | apply keeps_freeReq | apply keeps_modMove | apply keeps_dropMoveGrants | simp only [keeps_lit] | apply keeps_of | dsimp only | split)

theorem keeps_movesEnd {q0 : List Instr} (s : State) (slice : Nat) (hs : Keeps q0 s) : Keeps q0 (movesEnd s slice) := by
  unfold movesEnd
  with_reducible repeat' (first | assumption | intro _ | refine keeps_foldl _ _ ?_ ?_ | apply keeps_abandonMove | apply keeps_dropSrc | apply keeps_sendMsg | simp only [keeps_lit] | apply keeps_of | dsimp only | split)

theorem keeps_setPfx {q0 : List Instr} (s : State) (o : PfxOp) (hs : Keeps q0 s) : Keeps q0 (setPfx s o) := by
  unfold setPfx
  with_reducible repeat' (first | assumption | intro _ | simp only [keeps_lit] | apply keeps_of | dsimp only | split)

theorem keeps_dropPfx {q0 : List Instr} (s : State) (q seq : Nat) (hs : Keeps q0 s) : Keeps q0 (dropPfx s q seq) := by
  unfold dropPfx
  with_reducible repeat' (first | assumption | intro _ | simp only [keeps_lit] | apply keeps_of | dsimp only | split)

theorem keeps_pfxRelease {q0 : List Instr} (s : State) (o : PfxOp) (hs : Keeps q0 s) : Keeps q0 (pfxRelease s o) := by
  unfold pfxRelease
  with_reducible repeat' (first | assumption | intro _ | refine keeps_foldl _ _ ?_ ?_ | apply keeps_releasePage | simp only [keeps_lit] | apply keeps_of | dsimp only | split)

theorem keeps_pfxDone {q0 : List Instr} (s : State) (o : PfxOp) (hs : Keeps q0 s) : Keeps q0 (pfxDone s o) := by
  unfold pfxDone
  with_reducible repeat' (first | assumption | intro _ | refine keeps_foldl _ _ ?_ ?_ | apply keeps_sendMsg | apply keeps_pfxInsert | apply keeps_finish | apply keeps_pfxRelease | apply keeps_dropPfx | simp only [keeps_lit] | apply keeps_of | dsimp only | split)

theorem keeps_pfxFail {q0 : List Instr} (s : State) (o : PfxOp) (st : Nat) (hs : Keeps q0 s) : Keeps q0 (pfxFail s o st) := by
  unfold pfxFail
  with_reducible repeat' (first | assumption | intro _ | apply keeps_sendMsg | apply keeps_finish | apply keeps_pfxRelease | apply keeps_dropPfx | simp only [keeps_lit] | apply keeps_of | dsimp only | split)

theorem keeps_lookupSettle {q0 : List Instr} (s : State) (o : PfxOp) (hs : Keeps q0 s) : Keeps q0 (lookupSettle s o) := by
  unfold lookupSettle
  with_reducible repeat' (first | assumption | intro _ | refine keeps_foldl _ _ ?_ ?_ | apply keeps_finishWith | apply keeps_dropPfx | simp only [keeps_lit] | apply keeps_of | dsimp only | split)

theorem keeps_lookupAnswer {q0 : List Instr} (s : State) (q seq d depth : Nat) (pages : List (Nat × Nat)) (hs : Keeps q0 s) : Keeps q0 (lookupAnswer s q seq d depth pages) := by
  unfold lookupAnswer
  with_reducible repeat' (first | assumption | intro _ | apply keeps_lookupSettle | apply keeps_setPfx | simp only [keeps_lit] | apply keeps_of | dsimp only | split)

theorem keeps_pfxUnsent {q0 : List Instr} (s : State) (q seq d st : Nat) (hs : Keeps q0 s) : Keeps q0 (pfxUnsent s q seq d st) := by
  unfold pfxUnsent
  with_reducible repeat' (first | assumption | intro _ | apply keeps_lookupAnswer | apply keeps_pfxFail | simp only [keeps_lit] | apply keeps_of | dsimp only | split)

theorem keeps_pfxBurst {q0 : List Instr} (s : State) (q seq src n dst : Nat) (hs : Keeps q0 s) : Keeps q0 (pfxBurst s q seq src n dst) := by
  unfold pfxBurst
  with_reducible repeat' (first | assumption | intro _ | apply keeps_pfxDone | apply keeps_setPfx | simp only [keeps_lit] | apply keeps_of | dsimp only | split)

end Sys2Proof.Machine
end

