-- ==== Sys2Proof/Laws/KeepsFlashOps.lean ====
section
/-!
SUPPORT. Every state that a definition of Machine/FlashOps.lean answers keeps the canonical form of both memories, the beat and the queue.
-/
set_option linter.unusedTactic false
set_option linter.unreachableTactic false
set_option linter.unusedVariables false
set_option linter.unusedSimpArgs false
namespace Sys2Proof.Machine

theorem keeps_modSb {q0 : List Instr} (s : State) (i : Nat) (f : SuperBlk → SuperBlk) (hs : Keeps q0 s) : Keeps q0 (modSb s i f) := by
  unfold modSb
  with_reducible repeat' (first | assumption | intro _ | simp only [keeps_lit] | apply keeps_of | dsimp only | split)

theorem keeps_openSb {q0 : List Instr} (s : State) (hs : Keeps q0 s) : Keeps q0 (openSb s).1 := by
  unfold openSb
  with_reducible repeat' (first | assumption | intro _ | apply keeps_modSb | simp only [keeps_lit] | apply keeps_of | dsimp only | split)

theorem keeps_allocStripes {q0 : List Instr} (s : State) (n : Nat) (hs : Keeps q0 s) : Keeps q0 (allocStripes s n).1 := by
  unfold allocStripes
  with_reducible repeat' (first | assumption | intro _ | apply keeps_modSb | apply keeps_openSb | simp only [keeps_lit] | apply keeps_of | dsimp only | split)

theorem keeps_flashBlocks {q0 : List Instr} (s : State) (op n : Nat) (hs : Keeps q0 s) : Keeps q0 (flashBlocks s op n) := by
  unfold flashBlocks
  with_reducible repeat' (first | assumption | intro _ | refine keeps_iter _ _ ?_ ?_ | simp only [keeps_lit] | apply keeps_of | dsimp only | split)

theorem keeps_flashStore {q0 : List Instr} (s : State) (p id : Nat) (bs : List Byte) (hs : Keeps q0 s) : Keeps q0 (flashStore s p id bs).1 := by
  unfold flashStore
  with_reducible repeat' (first | assumption | intro _ | apply keeps_allocStripes | apply keeps_setFrame | apply keeps_flashBlocks | simp only [keeps_lit] | apply keeps_of | dsimp only | split)

theorem keeps_rehomeReq {q0 : List Instr} (s : State) (i : Nat) (id new gen : Nat) (hs : Keeps q0 s) : Keeps q0 (rehomeReq s i id new gen) := by
  unfold rehomeReq
  with_reducible repeat' (first | assumption | intro _ | refine keeps_foldl _ _ ?_ ?_ | apply keeps_putPage | apply keeps_setReq | simp only [keeps_lit] | apply keeps_of | dsimp only | split)

theorem keeps_rehome {q0 : List Instr} (s : State) (p old new : Nat) (hs : Keeps q0 s) : Keeps q0 (rehome s p old new) := by
  unfold rehome
  with_reducible repeat' (first | assumption | intro _ | refine keeps_foldl _ _ ?_ ?_ | apply keeps_rehomeReq | apply keeps_setFrame | apply keeps_retireFrame | apply keeps_freeFrame | simp only [keeps_lit] | apply keeps_of | dsimp only | split)

theorem keeps_dropPage {q0 : List Instr} (s : State) (i id : Nat) (hs : Keeps q0 s) : Keeps q0 (dropPage s i id) := by
  unfold dropPage
  with_reducible repeat' (first | assumption | intro _ | refine keeps_foldl _ _ ?_ ?_ | apply keeps_setReq | simp only [keeps_lit] | apply keeps_of | dsimp only | split)

theorem keeps_dropEntriesOf {q0 : List Instr} (s : State) (p id : Nat) (hs : Keeps q0 s) : Keeps q0 (dropEntriesOf s p id) := by
  unfold dropEntriesOf
  with_reducible repeat' (first | assumption | intro _ | refine keeps_foldl _ _ ?_ ?_ | apply keeps_releasePage | simp only [keeps_lit] | apply keeps_of | dsimp only | split)

theorem keeps_flashMiss {q0 : List Instr} (s : State) (p id : Nat) (hs : Keeps q0 s) : Keeps q0 (flashMiss s p id) := by
  unfold flashMiss
  with_reducible repeat' (first | assumption | intro _ | refine keeps_foldl _ _ ?_ ?_ | apply keeps_recordEvent | apply keeps_dropEntriesOf | apply keeps_releasePage | apply keeps_dropPage | apply keeps_grantLocal | apply keeps_poisonLine | apply keeps_rehome | simp only [keeps_lit] | apply keeps_of | dsimp only | split)

theorem keeps_flashDisable {q0 : List Instr} (s : State) (hs : Keeps q0 s) : Keeps q0 (flashDisable s) := by
  unfold flashDisable
  with_reducible repeat' (first | assumption | intro _ | refine keeps_foldl _ _ ?_ ?_ | apply keeps_dropEntriesOf | simp only [keeps_lit] | apply keeps_of | dsimp only | split)

theorem keeps_flashState {q0 : List Instr} (s : State) (hs : Keeps q0 s) : Keeps q0 (flashState s) := by
  unfold flashState
  with_reducible repeat' (first | assumption | intro _ | apply keeps_flashDisable | apply keeps_latchAttn | apply keeps_recordEvent | simp only [keeps_lit] | apply keeps_of | dsimp only | split)

theorem keeps_blockFails {q0 : List Instr} (s : State) (sb ch : Nat) (hs : Keeps q0 s) : Keeps q0 (blockFails s sb ch) := by
  unfold blockFails
  with_reducible repeat' (first | assumption | intro _ | apply keeps_modSb | apply keeps_flashState | apply keeps_flashDisable | simp only [keeps_lit] | apply keeps_of | dsimp only | split)

theorem keeps_programFails {q0 : List Instr} (s : State) (p ch : Nat) (hs : Keeps q0 s) : Keeps q0 (programFails s p ch) := by
  unfold programFails
  with_reducible repeat' (first | assumption | intro _ | apply keeps_allocStripes | apply keeps_blockFails | simp only [keeps_lit] | apply keeps_of | dsimp only | split)

theorem keeps_moveLost {q0 : List Instr} (s : State) (p id : Nat) (hs : Keeps q0 s) : Keeps q0 (moveLost s p id) := by
  unfold moveLost
  with_reducible repeat' (first | assumption | intro _ | refine keeps_foldl _ _ ?_ ?_ | apply keeps_dropPage | simp only [keeps_lit] | apply keeps_of | dsimp only | split)

theorem keeps_demotePage {q0 : List Instr} (s0 : State) (p id : Nat) (hs0 : Keeps q0 s0) : Keeps q0 (demotePage s0 p id).1 := by
  unfold demotePage
  with_reducible repeat' (first | assumption | intro _ | apply keeps_moveRead | apply keeps_moveLost | apply keeps_recordUncorrected | apply keeps_grantTier | apply keeps_flashStore | apply keeps_rehome | apply keeps_releasePage | simp only [keeps_lit] | apply keeps_of | dsimp only | split)

theorem keeps_promotePage {q0 : List Instr} (s0 : State) (p id index : Nat) (hs0 : Keeps q0 s0) : Keeps q0 (promotePage s0 p id index).1 := by
  unfold promotePage
  with_reducible repeat' (first | assumption | intro _ | apply keeps_moveRead | apply keeps_moveLost | apply keeps_grantLocal | apply keeps_devWrite | apply keeps_flashBlocks | apply keeps_rehome | simp only [keeps_lit] | apply keeps_of | dsimp only | split)

theorem keeps_flashRead {q0 : List Instr} (s : State) (p id : Nat) (hs : Keeps q0 s) : Keeps q0 (flashRead s p id) := by
  unfold flashRead
  with_reducible repeat' (first | assumption | intro _ | simp only [keeps_lit] | apply keeps_of | dsimp only | split)

end Sys2Proof.Machine
end

