-- ==== Sys2Proof/Laws/KeepsStepOps.lean ====
section
/-!
SUPPORT. Every state that a definition of Machine/StepOps.lean answers keeps the canonical form of both memories, the beat and the queue.
-/
set_option linter.unusedTactic false
set_option linter.unreachableTactic false
set_option linter.unusedVariables false
set_option linter.unusedSimpArgs false
namespace Sys2Proof.Machine

theorem keeps_grantFor {q0 : List Instr} (s : State) (r : Req) (index : Nat) (hs : Keeps q0 s) : Keeps q0 (grantFor s r index).1 := by
  unfold grantFor
  with_reducible repeat' (first | assumption | intro _ | apply keeps_grantPage | simp only [keeps_lit] | apply keeps_of | dsimp only | split)

theorem keeps_setPage {q0 : List Instr} (s : State) (i index id gen : Nat) (hs : Keeps q0 s) : Keeps q0 (setPage s i index id gen) := by
  unfold setPage
  with_reducible repeat' (first | assumption | intro _ | apply keeps_setReq | apply keeps_putPage | simp only [keeps_lit] | apply keeps_of | dsimp only | split)

theorem keeps_securePage {q0 : List Instr} (s : State) (i index : Nat) (hs : Keeps q0 s) : Keeps q0 (securePage s i index).1 := by
  unfold securePage
  with_reducible repeat' (first | assumption | intro _ | apply keeps_grantFor | apply keeps_setPage | apply keeps_releaseHeld | apply keeps_copyPage | simp only [keeps_lit] | apply keeps_of | dsimp only | split)

theorem keeps_securePages {q0 : List Instr} (s : State) (i : Nat) (z0 : List Nat) (hs : Keeps q0 s) : Keeps q0 (securePages s i z0).1 := by
  induction z0 generalizing s with
  | nil => unfold securePages; with_reducible repeat' (first | assumption | intro _ | apply keeps_securePage | simp only [keeps_lit] | apply keeps_of | dsimp only | split)
  | cons a l ih =>
    unfold securePages
    with_reducible repeat' (first | apply ih | (first | assumption | intro _ | apply keeps_securePage | simp only [keeps_lit] | apply keeps_of | dsimp only | split))


theorem keeps_toWait {q0 : List Instr} (s : State) (i : Nat) (res : Bool) (hs : Keeps q0 s) : Keeps q0 (toWait s i res) := by
  unfold toWait
  with_reducible repeat' (first | assumption | intro _ | apply keeps_setReq | simp only [keeps_lit] | apply keeps_of | dsimp only | split)

theorem keeps_wake {q0 : List Instr} (s : State) (i : Nat) (hs : Keeps q0 s) : Keeps q0 (wake s i) := by
  unfold wake
  with_reducible repeat' (first | assumption | intro _ | apply keeps_setReq | simp only [keeps_lit] | apply keeps_of | dsimp only | split)

theorem keeps_wakeAll {q0 : List Instr} (s : State) (hs : Keeps q0 s) : Keeps q0 (wakeAll s) := by
  unfold wakeAll
  with_reducible repeat' (first | assumption | intro _ | refine keeps_foldl _ _ ?_ ?_ | apply keeps_wake | simp only [keeps_lit] | apply keeps_of | dsimp only | split)

theorem keeps_pickOne {q0 : List Instr} (cfg : StepCfg) (drafts : List (Nat × List Token)) (c : Compose) (i : Nat) (hc : Keeps q0 c.st) : Keeps q0 (pickOne cfg drafts c i).st := by
  unfold pickOne
  extract_lets s r p eff
  repeat' split
  all_goals try dsimp only
  all_goals first | (with_reducible first | exact hc | apply keeps_endReq | apply keeps_toWait | apply keeps_setReq) |
    exact keeps_setReq _ _ _ (keeps_securePages _ _ _ hc)
  all_goals first | exact keeps_recordUncorrected _ _ _ (keeps_recordUncorrected _ _ _ hc) | exact keeps_securePages _ _ _ hc


theorem keeps_trimPages {q0 : List Instr} (s : State) (i e : Nat) (hs : Keeps q0 s) : Keeps q0 (trimPages s i e) := by
  unfold trimPages
  with_reducible repeat' (first | assumption | intro _ | apply keeps_releasePages | apply keeps_setReq | simp only [keeps_lit] | apply keeps_of | dsimp only | split)

theorem keeps_chargeBucket {q0 : List Instr} (s : State) (b n : Nat) (hs : Keeps q0 s) : Keeps q0 (chargeBucket s b n) := by
  unfold chargeBucket
  with_reducible repeat' (first | assumption | intro _ | simp only [keeps_lit] | apply keeps_of | dsimp only | split)

theorem keeps_appendLog {q0 : List Instr} (s : State) (r : Req) (toks : List Nat) (hs : Keeps q0 s) : Keeps q0 (appendLog s r toks).1 := by
  unfold appendLog
  with_reducible repeat' (first | assumption | intro _ | apply keeps_devWrite | simp only [keeps_lit] | apply keeps_of | dsimp only | split)

theorem keeps_acceptToks {q0 : List Instr} (s : State) (i : Nat) (a : Accepted) (hs : Keeps q0 s) : Keeps q0 (acceptToks s i a).1 := by
  unfold acceptToks
  with_reducible repeat' (first | assumption | intro _ | apply keeps_appendLog | apply keeps_setReq | simp only [keeps_lit] | apply keeps_of | dsimp only | split)

theorem keeps_insertChunk {q0 : List Instr} (s : State) (i pos n : Nat) (hs : Keeps q0 s) : Keeps q0 (insertChunk s i pos n) := by
  unfold insertChunk
  with_reducible repeat' (first | assumption | intro _ | refine keeps_foldl _ _ ?_ ?_ | apply keeps_pfxInsert | simp only [keeps_lit] | apply keeps_of | dsimp only | split)

theorem keeps_afterPrompt {q0 : List Instr} (s : State) (i : Nat) (hs : Keeps q0 s) : Keeps q0 (afterPrompt s i) := by
  unfold afterPrompt
  with_reducible repeat' (first | assumption | intro _ | apply keeps_startMove | apply keeps_setReq | simp only [keeps_lit] | apply keeps_of | dsimp only | split)

theorem keeps_commitChunk {q0 : List Instr} (s : State) (row : StepRow) (logits : List (List W32)) (hs : Keeps q0 s) : Keeps q0 (commitChunk s row logits) := by
  unfold commitChunk
  with_reducible repeat' (first | assumption | intro _ | apply keeps_chargeBucket | apply keeps_insertChunk | apply keeps_setReq | apply keeps_trimPages | apply keeps_acceptToks | apply keeps_endReq | apply keeps_afterPrompt | simp only [keeps_lit] | apply keeps_of | dsimp only | split)

theorem keeps_commitDecode {q0 : List Instr} (s : State) (row : StepRow) (logits : List (List W32)) (hs : Keeps q0 s) : Keeps q0 (commitDecode s row logits) := by
  unfold commitDecode
  with_reducible repeat' (first | assumption | intro _ | apply keeps_acceptToks | apply keeps_chargeBucket | apply keeps_trimPages | apply keeps_setReq | apply keeps_endReq | simp only [keeps_lit] | apply keeps_of | dsimp only | split)

theorem keeps_startRecompute {q0 : List Instr} (s : State) (i pos : Nat) (hs : Keeps q0 s) : Keeps q0 (startRecompute s i pos) := by
  unfold startRecompute
  with_reducible repeat' (first | assumption | intro _ | apply keeps_recordEvent | apply keeps_setReq | simp only [keeps_lit] | apply keeps_of | dsimp only | split)

theorem keeps_commitRow {q0 : List Instr} (run : StepRun) (results : List RowResult) (s : State) (k : Nat) (hs : Keeps q0 s) : Keeps q0 (commitRow run results s k) := by
  unfold commitRow
  with_reducible repeat' (first | assumption | intro _ | apply keeps_toWait | apply keeps_endReq | apply keeps_startRecompute | apply keeps_commitChunk | apply keeps_commitDecode | simp only [keeps_lit] | apply keeps_of | dsimp only | split)

theorem keeps_withReq {q0 : List Instr} (s : State) (r : JRec) (f : Nat → Req → State) (hs : Keeps q0 s) (hf : ∀ y0 y1, Keeps q0 (f y0 y1)) : Keeps q0 (withReq s r f) := by
  unfold withReq
  with_reducible repeat' (first | assumption | intro _ | apply keeps_finish | apply hf | simp only [keeps_lit] | apply keeps_of | dsimp only | split)

theorem keeps_abortNow {q0 : List Instr} (s : State) (r : JRec) (hs : Keeps q0 s) : Keeps q0 (abortNow s r) := by
  unfold abortNow
  with_reducible repeat' (first | assumption | intro _ | apply keeps_withReq | apply keeps_finish | apply keeps_endReq | simp only [keeps_lit] | apply keeps_of | dsimp only | split)

theorem keeps_addWait {q0 : List Instr} (s : State) (slice pool : Nat) (b : Boundary) (hs : Keeps q0 s) : Keeps q0 (addWait s slice pool b) := by
  unfold addWait
  with_reducible repeat' (first | assumption | intro _ | simp only [keeps_lit] | apply keeps_of | dsimp only | split)

theorem keeps_askAbort {q0 : List Instr} (s : State) (i reason : Nat) (hs : Keeps q0 s) : Keeps q0 (askAbort s i reason) := by
  unfold askAbort
  with_reducible repeat' (first | assumption | intro _ | apply keeps_setReq | simp only [keeps_lit] | apply keeps_of | dsimp only | split)

theorem keeps_applyWait {q0 : List Instr} (take : State → JRec → State) (s : State) (z0 : Boundary) (hs : Keeps q0 s) (htake : ∀ y0 y1, Keeps q0 y0 → Keeps q0 (take y0 y1)) : Keeps q0 (applyWait take s z0) := by
  cases z0 <;> unfold applyWait <;> with_reducible repeat' (first | apply htake | (first | assumption | intro _ | apply keeps_abortNow | apply keeps_endReq | apply htake | simp only [keeps_lit] | apply keeps_of | dsimp only | split))


theorem keeps_placeTable {q0 : List Instr} (rows : List StepRow) (s : State) (desc : List Byte) (hs : Keeps q0 s) : Keeps q0 (placeTable rows s desc) := by
  unfold placeTable
  with_reducible repeat' (first | assumption | intro _ | apply keeps_devWrite | simp only [keeps_lit] | apply keeps_of | dsimp only | split)

theorem keeps_swapPage {q0 : List Instr} (s0 : State) (i : Nat) (x : Nat × Nat) (hs0 : Keeps q0 s0) : Keeps q0 (swapPage s0 i x) := by
  unfold swapPage
  with_reducible repeat' (first | assumption | intro _ | apply keeps_moveRead | apply keeps_releaseHeld | apply keeps_setReq | apply keeps_grantTier | apply keeps_rehome | apply keeps_copyPage | apply keeps_setFrame | simp only [keeps_lit] | apply keeps_of | dsimp only | split)

theorem keeps_swapOut {q0 : List Instr} (s : State) (i : Nat) (hs : Keeps q0 s) : Keeps q0 (swapOut s i) := by
  unfold swapOut
  with_reducible repeat' (first | assumption | intro _ | refine keeps_foldl _ _ ?_ ?_ | apply keeps_setReq | apply keeps_swapPage | simp only [keeps_lit] | apply keeps_of | dsimp only | split)

theorem keeps_chooseVictim {q0 : List Instr} (s : State) (i : Nat) (hs : Keeps q0 s) : Keeps q0 (chooseVictim s i) := by
  unfold chooseVictim
  with_reducible repeat' (first | assumption | intro _ | apply keeps_setReq | apply keeps_swapOut | simp only [keeps_lit] | apply keeps_of | dsimp only | split)

theorem keeps_reclaimIndex {q0 : List Instr} (s : State) (pool : Nat) (hs : Keeps q0 s) : Keeps q0 (reclaimIndex s pool).1 := by
  unfold reclaimIndex
  with_reducible repeat' (first | assumption | intro _ | apply keeps_pfxRemove | apply keeps_setFrame | simp only [keeps_lit] | apply keeps_of | dsimp only | split)

theorem keeps_reclaimStep {q0 : List Instr} (s : State) (pool waiter prio : Nat) (hs : Keeps q0 s) : Keeps q0 (reclaimStep s pool waiter prio).1 := by
  unfold reclaimStep
  with_reducible repeat' (first | assumption | intro _ | apply keeps_reclaimIndex | apply keeps_chooseVictim | simp only [keeps_lit] | apply keeps_of | dsimp only | split)

end Sys2Proof.Machine
end

