-- ==== Sys2Proof/Laws/KeepsContexts.lean ====
section
/-!
SUPPORT. Every state that a definition of Machine/Contexts.lean answers keeps the canonical form of both memories, the beat and the queue.
-/
set_option linter.unusedTactic false
set_option linter.unreachableTactic false
set_option linter.unusedVariables false
set_option linter.unusedSimpArgs false
namespace Sys2Proof.Machine

theorem keeps_execCtxCreate {q0 : List Instr} (q seq : Nat) (s : State) (hs : Keeps q0 s) : KeepsOut q0 (execCtxCreate q seq s) := by
  unfold execCtxCreate
  with_reducible repeat' (first | assumption | intro _ | apply keepsOut_next | apply keeps_withCmd | apply keeps_finish | apply keeps_ctxState | simp only [keeps_lit] | apply keeps_of | dsimp only | split)

theorem keeps_ctxFree {q0 : List Instr} (s : State) (c : Nat) (hs : Keeps q0 s) : Keeps q0 (ctxFree s c) := by
  unfold ctxFree
  with_reducible repeat' (first | assumption | intro _ | apply keeps_ctxState | simp only [keeps_lit] | apply keeps_of | dsimp only | split)

theorem keeps_withCtx {q0 : List Instr} (s : State) (r : JRec) (len : Nat) (f : Nat → Ctx → State) (hs : Keeps q0 s) (hf : ∀ y0 y1, Keeps q0 (f y0 y1)) : Keeps q0 (withCtx s r len f) := by
  unfold withCtx
  with_reducible repeat' (first | assumption | intro _ | apply keeps_finish | apply hf | simp only [keeps_lit] | apply keeps_of | dsimp only | split)

theorem keeps_execCtxDestroy {q0 : List Instr} (q seq : Nat) (s : State) (hs : Keeps q0 s) : KeepsOut q0 (execCtxDestroy q seq s) := by
  unfold execCtxDestroy
  with_reducible repeat' (first | assumption | intro _ | apply keepsOut_next | apply keeps_withCmd | apply keeps_withCtx | apply keeps_finish | apply keeps_ctxFree | simp only [keeps_lit] | apply keeps_of | dsimp only | split)

theorem keeps_execCtxHold {q0 : List Instr} (q seq : Nat) (s : State) (hs : Keeps q0 s) : KeepsOut q0 (execCtxHold q seq s) := by
  unfold execCtxHold
  with_reducible repeat' (first | assumption | intro _ | apply keepsOut_next | apply keeps_withCmd | apply keeps_finish | apply keeps_modCtx | apply keeps_heldCheck | simp only [keeps_lit] | apply keeps_of | dsimp only | split)

theorem keeps_execCtxResume {q0 : List Instr} (q seq : Nat) (s : State) (hs : Keeps q0 s) : KeepsOut q0 (execCtxResume q seq s) := by
  unfold execCtxResume
  with_reducible repeat' (first | assumption | intro _ | apply keepsOut_next | apply keeps_withCmd | apply keeps_withCtx | apply keeps_finish | apply keeps_ctxState | apply keeps_modCtx | simp only [keeps_lit] | apply keeps_of | dsimp only | split)

theorem keeps_execCtxQuery {q0 : List Instr} (q seq : Nat) (s : State) (hs : Keeps q0 s) : KeepsOut q0 (execCtxQuery q seq s) := by
  unfold execCtxQuery
  with_reducible repeat' (first | assumption | intro _ | apply keepsOut_next | apply keeps_withCmd | apply keeps_finish | apply keeps_finishWith | simp only [keeps_lit] | apply keeps_of | dsimp only | split)

theorem keeps_saveDone {q0 : List Instr} (s : State) (c : Nat) (hs : Keeps q0 s) : Keeps q0 (saveDone s c) := by
  unfold saveDone
  with_reducible repeat' (first | assumption | intro _ | refine keeps_foldl _ _ ?_ ?_ | apply keeps_finish | apply keeps_modCtx | apply keeps_ctxState | simp only [keeps_lit] | apply keeps_of | dsimp only | split)

theorem keeps_execCtxSaveStart {q0 : List Instr} (ctx : Nat) (s : State) (hs : Keeps q0 s) : KeepsOut q0 (execCtxSaveStart ctx s) := by
  unfold execCtxSaveStart
  with_reducible repeat' (first | assumption | intro _ | apply keepsOut_next | apply keeps_modCtx | apply keeps_ctxState | apply keeps_saveDone | simp only [keeps_lit] | apply keeps_of | dsimp only | split)

theorem keeps_execCtxRestoreStart {q0 : List Instr} (ctx : Nat) (s : State) (hs : Keeps q0 s) : KeepsOut q0 (execCtxRestoreStart ctx s) := by
  unfold execCtxRestoreStart
  with_reducible repeat' (first | assumption | intro _ | apply keepsOut_next | apply keeps_modCtx | apply keeps_ctxState | apply keeps_finish | simp only [keeps_lit] | apply keeps_of | dsimp only | split)

theorem keeps_execCtxActivate {q0 : List Instr} (ctx : Nat) (s : State) (hs : Keeps q0 s) : KeepsOut q0 (execCtxActivate ctx s) := by
  unfold execCtxActivate
  with_reducible repeat' (first | assumption | intro _ | apply keepsOut_next | apply keeps_modCtx | apply keeps_ctxState | apply keeps_finish | simp only [keeps_lit] | apply keeps_of | dsimp only | split)

theorem keeps_dropEntries {q0 : List Instr} (s : State) (c : Nat) (hs : Keeps q0 s) : Keeps q0 (dropEntries s c) := by
  unfold dropEntries
  with_reducible repeat' (first | assumption | intro _ | simp only [keeps_lit] | apply keeps_of | dsimp only | split)

theorem keeps_cutLists {q0 : List Instr} (s : State) (c : Nat) (hs : Keeps q0 s) : Keeps q0 (cutLists s c) := by
  unfold cutLists
  with_reducible repeat' (first | assumption | intro _ | simp only [keeps_lit] | apply keeps_of | dsimp only | split)

theorem keeps_endSlice {q0 : List Instr} (s : State) (slice : Nat) (reset : Bool) (hs : Keeps q0 s) : Keeps q0 (endSlice s slice reset) := by
  unfold endSlice
  with_reducible repeat' (first | assumption | intro _ | refine keeps_foldl _ _ ?_ ?_ | apply keeps_movesEnd | apply keeps_endReq | apply keeps_applyWait | apply keeps_finish | simp only [keeps_lit] | apply keeps_of | dsimp only | split)

theorem keeps_dropDone {q0 : List Instr} (s : State) (hs : Keeps q0 s) : Keeps q0 (dropDone s) := by
  unfold dropDone
  with_reducible repeat' (first | assumption | intro _ | refine keeps_foldl _ _ ?_ ?_ | apply keeps_releasePage | apply keeps_pfxRelease | apply keeps_dropPfx | simp only [keeps_lit] | apply keeps_of | dsimp only | split)

theorem keeps_tearDown {q0 : List Instr} (s : State) (c cause : Nat) (reset : Bool) (hs : Keeps q0 s) : Keeps q0 (tearDown s c cause reset) := by
  unfold tearDown
  with_reducible repeat' (first | assumption | intro _ | refine keeps_foldl _ _ ?_ ?_ | apply keeps_cutLists | apply keeps_dropEntries | apply keeps_modCtx | apply keeps_ctxState | apply keeps_endSlice | apply keeps_finishAll | apply keeps_dropDone | apply keeps_devZero | apply keeps_recordEvent | simp only [keeps_lit] | apply keeps_of | dsimp only | split)

theorem keeps_execContextTeardown {q0 : List Instr} (ctx : Nat) (s : State) (hs : Keeps q0 s) : KeepsOut q0 (execContextTeardown ctx s) := by
  unfold execContextTeardown
  with_reducible repeat' (first | assumption | intro _ | apply keepsOut_next | apply keeps_tearDown | simp only [keeps_lit] | apply keeps_of | dsimp only | split)

theorem keeps_execContextRelease {q0 : List Instr} (ctx : Nat) (s : State) (hs : Keeps q0 s) : KeepsOut q0 (execContextRelease ctx s) := by
  unfold execContextRelease
  with_reducible repeat' (first | assumption | intro _ | apply keepsOut_next | apply keeps_ctxFree | simp only [keeps_lit] | apply keeps_of | dsimp only | split)

end Sys2Proof.Machine
end

