-- ==== Sys2Proof/Laws/KeepsRadioOps.lean ====
section
/-!
SUPPORT. Every state that a definition of Machine/RadioOps.lean answers keeps the canonical form of both memories, the beat and the queue.
-/
set_option linter.unusedTactic false
set_option linter.unreachableTactic false
set_option linter.unusedVariables false
set_option linter.unusedSimpArgs false
namespace Sys2Proof.Machine

theorem keeps_modCell {q0 : List Instr} (s : State) (c : Nat) (f : Cell → Cell) (hs : Keeps q0 s) : Keeps q0 (modCell s c f) := by
  unfold modCell
  with_reducible repeat' (first | assumption | intro _ | simp only [keeps_lit] | apply keeps_of | dsimp only | split)

theorem keeps_modFh {q0 : List Instr} (s : State) (p : Nat) (f : FhPort → FhPort) (hs : Keeps q0 s) : Keeps q0 (modFh s p f) := by
  unfold modFh
  with_reducible repeat' (first | assumption | intro _ | simp only [keeps_lit] | apply keeps_of | dsimp only | split)

theorem keeps_cellSet {q0 : List Instr} (s : State) (c : Nat) (e : CellSet) (hs : Keeps q0 s) : Keeps q0 (cellSet s c e) := by
  unfold cellSet
  with_reducible repeat' (first | assumption | intro _ | apply keeps_modCell | simp only [keeps_lit] | apply keeps_of | dsimp only | split)

theorem keeps_writeInd {q0 : List Instr} (s : State) (p : Phy) (i : Ind) (hs : Keeps q0 s) : Keeps q0 (writeInd s p i) := by
  unfold writeInd
  with_reducible repeat' (first | assumption | intro _ | apply keeps_devPut | apply keeps_hostWrite | simp only [keeps_lit] | apply keeps_of | dsimp only | split)

theorem keeps_postInd {q0 : List Instr} (s : State) (i : Ind) (hs : Keeps q0 s) : Keeps q0 (postInd s i) := by
  unfold postInd
  with_reducible repeat' (first | assumption | intro _ | apply keeps_recordEvent | apply keeps_writeInd | simp only [keeps_lit] | apply keeps_of | dsimp only | split)

theorem keeps_cellInd {q0 : List Instr} (s : State) (c : Nat) (k : IndKind) (first : Nat) (err : FapiErr) (status reason : Nat) (args : List Nat) (hs : Keeps q0 s) : Keeps q0 (cellInd s c k first err status reason args) := by
  unfold cellInd
  with_reducible repeat' (first | assumption | intro _ | apply keeps_postInd | simp only [keeps_lit] | apply keeps_of | dsimp only | split)

theorem keeps_errInd {q0 : List Instr} (s : State) (phy cell sfn slot : Nat) (e : FapiErr) (status reason : Nat) (hs : Keeps q0 s) : Keeps q0 (errInd s phy cell sfn slot e status reason) := by
  unfold errInd
  with_reducible repeat' (first | assumption | intro _ | apply keeps_postInd | simp only [keeps_lit] | apply keeps_of | dsimp only | split)

theorem keeps_txErrOnce {q0 : List Instr} (s : State) (c first reason : Nat) (hs : Keeps q0 s) : Keeps q0 (txErrOnce s c first reason) := by
  unfold txErrOnce
  with_reducible repeat' (first | assumption | intro _ | apply keeps_cellInd | apply keeps_modCell | simp only [keeps_lit] | apply keeps_of | dsimp only | split)

theorem keeps_cellState {q0 : List Instr} (s : State) (c st reason : Nat) (hs : Keeps q0 s) : Keeps q0 (cellState s c st reason) := by
  unfold cellState
  with_reducible repeat' (first | assumption | intro _ | apply keeps_cellInd | simp only [keeps_lit] | apply keeps_of | dsimp only | split)

theorem keeps_settlePhy {q0 : List Instr} (s : State) (phy : Nat) (hs : Keeps q0 s) : Keeps q0 (settlePhy s phy) := by
  unfold settlePhy
  with_reducible repeat' (first | assumption | intro _ | apply keeps_finish | simp only [keeps_lit] | apply keeps_of | dsimp only | split)

theorem keeps_goOff {q0 : List Instr} (s : State) (c reason : Nat) (stopInd : Bool) (hs : Keeps q0 s) : Keeps q0 (goOff s c reason stopInd) := by
  unfold goOff
  with_reducible repeat' (first | assumption | intro _ | apply keeps_modCell | apply keeps_cellInd | apply keeps_cellState | apply keeps_settlePhy | simp only [keeps_lit] | apply keeps_of | dsimp only | split)

theorem keeps_goTwilight {q0 : List Instr} (s : State) (c reason : Nat) (hs : Keeps q0 s) : Keeps q0 (goTwilight s c reason) := by
  unfold goTwilight
  with_reducible repeat' (first | assumption | intro _ | apply keeps_modCell | apply keeps_cellState | apply keeps_goOff | simp only [keeps_lit] | apply keeps_of | dsimp only | split)

theorem keeps_goNormal {q0 : List Instr} (s : State) (c : Nat) (hs : Keeps q0 s) : Keeps q0 (goNormal s c) := by
  unfold goNormal
  with_reducible repeat' (first | assumption | intro _ | apply keeps_cellState | apply keeps_modCell | simp only [keeps_lit] | apply keeps_of | dsimp only | split)

theorem keeps_slotBegins {q0 : List Instr} (s : State) (c : Nat) (hs : Keeps q0 s) : Keeps q0 (slotBegins s c) := by
  unfold slotBegins
  with_reducible repeat' (first | assumption | intro _ | apply keeps_postInd | apply keeps_modCell | apply keeps_goTwilight | apply keeps_goNormal | simp only [keeps_lit] | apply keeps_of | dsimp only | split)

theorem keeps_cellSeam {q0 : List Instr} (s : State) (c : Nat) (hs : Keeps q0 s) : Keeps q0 (cellSeam s c) := by
  unfold cellSeam
  with_reducible repeat' (first | assumption | intro _ | apply keeps_slotBegins | apply keeps_goTwilight | apply keeps_goNormal | simp only [keeps_lit] | apply keeps_of | dsimp only | split)

theorem keeps_harqStore {q0 : List Instr} (s : State) (c : Nat) (u : UlPdu) (buf : List Int) (hs : Keeps q0 s) : Keeps q0 (harqStore s c u buf).1 := by
  unfold harqStore
  with_reducible repeat' (first | assumption | intro _ | apply keeps_devPut | apply keeps_modCell | simp only [keeps_lit] | apply keeps_of | dsimp only | split)

theorem keeps_harqFree {q0 : List Instr} (s : State) (c k : Nat) (hs : Keeps q0 s) : Keeps q0 (harqFree s c k) := by
  unfold harqFree
  with_reducible repeat' (first | assumption | intro _ | apply keeps_modCell | simp only [keeps_lit] | apply keeps_of | dsimp only | split)

theorem keeps_ulServed {q0 : List Instr} (s : State) (c first rnti harq : Nat) (hs : Keeps q0 s) : Keeps q0 (ulServed s c first rnti harq) := by
  unfold ulServed
  with_reducible repeat' (first | assumption | intro _ | apply keeps_modCell | simp only [keeps_lit] | apply keeps_of | dsimp only | split)

theorem keeps_puschLost {q0 : List Instr} (s : State) (c first rnti harq reason : Nat) (freed : Bool) (hs : Keeps q0 s) : Keeps q0 (puschLost s c first rnti harq reason freed) := by
  unfold puschLost
  with_reducible repeat' (first | assumption | intro _ | apply keeps_ulServed | apply keeps_harqFree | apply keeps_cellInd | simp only [keeps_lit] | apply keeps_of | dsimp only | split)

theorem keeps_slotLost {q0 : List Instr} (s : State) (c first reason : Nat) (hs : Keeps q0 s) : Keeps q0 (slotLost s c first reason) := by
  unfold slotLost
  with_reducible repeat' (first | assumption | intro _ | refine keeps_foldl _ _ ?_ ?_ | apply keeps_puschLost | apply keeps_txErrOnce | simp only [keeps_lit] | apply keeps_of | dsimp only | split)

theorem keeps_planUnitLost {q0 : List Instr} (s : State) (p : Plan) (u reason : Nat) (hs : Keeps q0 s) : Keeps q0 (planUnitLost s p u reason) := by
  unfold planUnitLost
  with_reducible repeat' (first | assumption | intro _ | refine keeps_foldl _ _ ?_ ?_ | apply keeps_slotLost | simp only [keeps_lit] | apply keeps_of | dsimp only | split)

theorem keeps_unitLost {q0 : List Instr} (s : State) (u reason : Nat) (hs : Keeps q0 s) : Keeps q0 (unitLost s u reason) := by
  unfold unitLost
  with_reducible repeat' (first | assumption | intro _ | apply keeps_planUnitLost | simp only [keeps_lit] | apply keeps_of | dsimp only | split)

end Sys2Proof.Machine
end

