-- ==== Sys2Proof/Laws/KeepsXferOps.lean ====
section
/-!
SUPPORT. Every state that a definition of Machine/XferOps.lean answers keeps the canonical form of both memories, the beat and the queue.
-/
set_option linter.unusedTactic false
set_option linter.unreachableTactic false
set_option linter.unusedVariables false
set_option linter.unusedSimpArgs false
namespace Sys2Proof.Machine

theorem keeps_modList {q0 : List Instr} (s : State) (port n : Nat) (f : XList → XList) (hs : Keeps q0 s) : Keeps q0 (modList s port n f) := by
  unfold modList
  with_reducible repeat' (first | assumption | intro _ | apply keeps_modPort | simp only [keeps_lit] | apply keeps_of | dsimp only | split)

theorem keeps_settleList {q0 : List Instr} (s : State) (port n : Nat) (hs : Keeps q0 s) : Keeps q0 (settleList s port n) := by
  unfold settleList
  with_reducible repeat' (first | assumption | intro _ | apply keeps_modPort | apply keeps_bumpCounter | apply keeps_incSync | apply keeps_finish | simp only [keeps_lit] | apply keeps_of | dsimp only | split)

theorem keeps_entryDone {q0 : List Instr} (s : State) (port n i st : Nat) (hs : Keeps q0 s) : Keeps q0 (entryDone s port n i st) := by
  unfold entryDone
  with_reducible repeat' (first | assumption | intro _ | apply keeps_modList | apply keeps_devWrite | apply keeps_settleList | simp only [keeps_lit] | apply keeps_of | dsimp only | split)

theorem keeps_mirrorAcked {q0 : List Instr} (s : State) (r : JRec) (hs : Keeps q0 s) : Keeps q0 (mirrorAcked s r) := by
  unfold mirrorAcked
  with_reducible repeat' (first | assumption | intro _ | apply keeps_modRec | apply keeps_postDone | simp only [keeps_lit] | apply keeps_of | dsimp only | split)

theorem keeps_mirrorAgain {q0 : List Instr} (s : State) (r : JRec) (piece : Nat) (hs : Keeps q0 s) : Keeps q0 (mirrorAgain s r piece) := by
  unfold mirrorAgain
  with_reducible repeat' (first | assumption | intro _ | apply keeps_mirrorPiece | simp only [keeps_lit] | apply keeps_of | dsimp only | split)

theorem keeps_mirrorFailed {q0 : List Instr} (s : State) (r : JRec) (piece : Nat) (hs : Keeps q0 s) : Keeps q0 (mirrorFailed s r piece) := by
  unfold mirrorFailed
  with_reducible repeat' (first | assumption | intro _ | apply keeps_mirrorAgain | apply keeps_unmirror | simp only [keeps_lit] | apply keeps_of | dsimp only | split)

theorem keeps_mirrorDone {q0 : List Instr} (s : State) (loc seq st : Nat) (hs : Keeps q0 s) : Keeps q0 (mirrorDone s loc seq st) := by
  unfold mirrorDone
  with_reducible repeat' (first | assumption | intro _ | apply keeps_mirrorAcked | apply keeps_mirrorFailed | simp only [keeps_lit] | apply keeps_of | dsimp only | split)

theorem keeps_landData {q0 : List Instr} (s : State) (loc : Nat) (bs : List Byte) (hs : Keeps q0 s) : Keeps q0 (landData s loc bs).1 := by
  unfold landData
  with_reducible repeat' (first | assumption | intro _ | apply keeps_devWrite | simp only [keeps_lit] | apply keeps_of | dsimp only | split)

theorem keeps_landList {q0 : List Instr} (s : State) (ctx : Option Nat) (loc : Nat) (bs : List Byte) (hs : Keeps q0 s) : Keeps q0 (landList s ctx loc bs).1 := by
  unfold landList
  split
  · exact keeps_landData _ _ _ hs
  · refine keeps_foldl_fst _ _ (fun y p h => ?_) hs
    split
    · exact keeps_devWrite _ _ _ h
    · exact h


theorem keeps_modBurst {q0 : List Instr} (s : State) (eng : Nat) (f : Burst → Burst) (hs : Keeps q0 s) : Keeps q0 (modBurst s eng f) := by
  unfold modBurst
  with_reducible repeat' (first | assumption | intro _ | simp only [keeps_lit] | apply keeps_of | dsimp only | split)

theorem keeps_noteFail {q0 : List Instr} (s : State) (d key num st : Nat) (hs : Keeps q0 s) : Keeps q0 (noteFail s d key num st) := by
  unfold noteFail
  with_reducible repeat' (first | assumption | intro _ | simp only [keeps_lit] | apply keeps_of | dsimp only | split)

theorem keeps_burstDenied {q0 : List Instr} (s : State) (eng : Nat) (b : Burst) (d : Nat) (hs : Keeps q0 s) : Keeps q0 (burstDenied s eng b d) := by
  unfold burstDenied
  with_reducible repeat' (first | assumption | intro _ | apply keeps_modBurst | apply keeps_noteFail | simp only [keeps_lit] | apply keeps_of | dsimp only | split)

theorem keeps_burstStore {q0 : List Instr} (s : State) (eng off : Nat) (bs : List Byte) (hs : Keeps q0 s) : Keeps q0 (burstStore s eng off bs) := by
  unfold burstStore
  with_reducible repeat' (first | assumption | intro _ | refine keeps_foldl _ _ ?_ ?_ | apply keeps_burstDenied | apply keeps_issueReq | simp only [keeps_lit] | apply keeps_of | dsimp only | split)

theorem keeps_burstReply {q0 : List Instr} (s : State) (eng off kind st : Nat) (bs : List Byte) (hs : Keeps q0 s) : Keeps q0 (burstReply s eng off kind st bs) := by
  unfold burstReply
  with_reducible repeat' (first | assumption | intro _ | apply keeps_modBurst | apply keeps_burstStore | simp only [keeps_lit] | apply keeps_of | dsimp only | split)

theorem keeps_barrierDone {q0 : List Instr} (s : State) (q seq st : Nat) (hs : Keeps q0 s) : Keeps q0 (barrierDone s q seq st) := by
  unfold barrierDone
  with_reducible repeat' (first | assumption | intro _ | apply keeps_finish | simp only [keeps_lit] | apply keeps_of | dsimp only | split)

theorem keeps_reqDone {q0 : List Instr} (s : State) (d : Nat) (o : OutReq) (st : Nat) (bs : List Byte) (hs : Keeps q0 s) : Keeps q0 (reqDone s d o st bs) := by
  unfold reqDone
  with_reducible repeat' (first | assumption | intro _ | apply keeps_barrierDone | apply keeps_pageReply | apply keeps_mergeGot | apply keeps_mirrorDone | apply keeps_issueReq | apply keeps_pfxUnsent | apply keeps_burstReply | apply keeps_landList | apply keeps_entryDone | simp only [keeps_lit] | apply keeps_of | dsimp only | split)

theorem keeps_noteEnd {q0 : List Instr} (s : State) (d : Nat) (o : OutReq) (st : Nat) (hs : Keeps q0 s) : Keeps q0 (noteEnd s d o st) := by
  unfold noteEnd
  with_reducible repeat' (first | assumption | intro _ | apply keeps_noteFail | simp only [keeps_lit] | apply keeps_of | dsimp only | split)

theorem keeps_reqEnd {q0 : List Instr} (s : State) (d : Nat) (o : OutReq) (st : Nat) (bs : List Byte) (hs : Keeps q0 s) : Keeps q0 (reqEnd s d o st bs) := by
  unfold reqEnd
  with_reducible repeat' (first | assumption | intro _ | apply keeps_reqDone | apply keeps_noteEnd | simp only [keeps_lit] | apply keeps_of | dsimp only | split)

theorem keeps_endReqs {q0 : List Instr} (s : State) (d : Nat) (t : OutReq → Bool) (st : OutReq → Nat) (bs : List Byte) (hs : Keeps q0 s) : Keeps q0 (endReqs s d t st bs) := by
  unfold endReqs
  with_reducible repeat' (first | assumption | intro _ | refine keeps_foldl _ _ ?_ ?_ | apply keeps_reqEnd | apply keeps_setTx | simp only [keeps_lit] | apply keeps_of | dsimp only | split)

theorem keeps_sendEpoch {q0 : List Instr} (s : State) (d : Nat) (hs : Keeps q0 s) : Keeps q0 (sendEpoch s d) := by
  unfold sendEpoch
  with_reducible repeat' (first | assumption | intro _ | apply keeps_setTx | apply keeps_putPacket | simp only [keeps_lit] | apply keeps_of | dsimp only | split)

theorem keeps_breakStream {q0 : List Instr} (s : State) (d : Nat) (hs : Keeps q0 s) : Keeps q0 (breakStream s d) := by
  unfold breakStream
  with_reducible repeat' (first | assumption | intro _ | refine keeps_foldl _ _ ?_ ?_ | apply keeps_setTx | apply keeps_reqEnd | apply keeps_sendEpoch | simp only [keeps_lit] | apply keeps_of | dsimp only | split)

end Sys2Proof.Machine
end

