-- ==== Sys2Proof/Laws/KeepsDma.lean ====
section
/-!
SUPPORT. Every state that a definition of Machine/Dma.lean answers keeps the canonical form of both memories, the beat and the queue.
-/
set_option linter.unusedTactic false
set_option linter.unreachableTactic false
set_option linter.unusedVariables false
set_option linter.unusedSimpArgs false
namespace Sys2Proof.Machine

theorem keeps_burstStatus {q0 : List Instr} (s : State) (b : Burst) (st : Nat) (signal : Bool) (hs : Keeps q0 s) : Keeps q0 (burstStatus s b st signal) := by
  unfold burstStatus
  with_reducible repeat' (first | assumption | intro _ | apply keeps_devPut | apply keeps_bumpCounter | simp only [keeps_lit] | apply keeps_of | dsimp only | split)

theorem keeps_burstLoads {q0 : List Instr} (s : State) (eng : Nat) (b : Burst) (hs : Keeps q0 s) : Keeps q0 (burstLoads s eng b) := by
  unfold burstLoads
  with_reducible repeat' (first | assumption | intro _ | refine keeps_foldl _ _ ?_ ?_ | apply keeps_burstDenied | apply keeps_issueReq | simp only [keeps_lit] | apply keeps_of | dsimp only | split)

theorem keeps_burstWrite {q0 : List Instr} (s : State) (b : Burst) (bs : List Byte) (hs : Keeps q0 s) : Keeps q0 (burstWrite s b bs).1 := by
  unfold burstWrite
  with_reducible repeat' (first | assumption | intro _ | apply keeps_devWrite | apply keeps_tileStore | apply keeps_hostWrite | simp only [keeps_lit] | apply keeps_of | dsimp only | split)

theorem keeps_burstReads {q0 : List Instr} (s : State) (b : Burst) (hs : Keeps q0 s) : Keeps q0 (burstReads s b) := by
  unfold burstReads
  with_reducible repeat' (first | assumption | intro _ | apply keeps_noteReads | simp only [keeps_lit] | apply keeps_of | dsimp only | split)

theorem keeps_burstBegin {q0 : List Instr} (s : State) (eng : Nat) (b : Burst) (hs : Keeps q0 s) : Keeps q0 (burstBegin s eng b) := by
  unfold burstBegin
  with_reducible repeat' (first | assumption | intro _ | apply keeps_burstLoads | apply keeps_burstStore | simp only [keeps_lit] | apply keeps_of | dsimp only | split)

theorem keeps_execDmaDescriptorStart {q0 : List Instr} (eng desc : Nat) (body : List Byte) (slice context : Option Nat) (use : BurstUse) (s0 : State) (hs0 : Keeps q0 s0) : KeepsOut q0 (execDmaDescriptorStart eng desc body slice context use s0) := by
  unfold execDmaDescriptorStart
  with_reducible repeat' (first | assumption | intro _ | apply keepsOut_next | apply keeps_devPut | apply keeps_recordUncorrected | apply keeps_burstStatus | apply keeps_burstBegin | simp only [keeps_lit] | apply keeps_of | dsimp only | split)

theorem keeps_switchDone {q0 : List Instr} (s : State) (c k src dst : Nat) (hs : Keeps q0 s) : Keeps q0 (switchDone s c k src dst) := by
  unfold switchDone
  with_reducible repeat' (first | assumption | intro _ | apply keeps_devZero | apply keeps_copyCarry | apply keeps_modCtx | apply keeps_saveDone | simp only [keeps_lit] | apply keeps_of | dsimp only | split)

theorem keeps_burstServed {q0 : List Instr} (s : State) (b : Burst) (hs : Keeps q0 s) : Keeps q0 (burstServed s b) := by
  unfold burstServed
  with_reducible repeat' (first | assumption | intro _ | apply keeps_attnStaged | apply keeps_moveBurst | apply keeps_pfxBurst | simp only [keeps_lit] | apply keeps_of | dsimp only | split)

theorem keeps_burstLost {q0 : List Instr} (s : State) (b : Burst) (st : Nat) (bad : Bool) (hs : Keeps q0 s) : Keeps q0 (burstLost s b st bad) := by
  unfold burstLost
  with_reducible repeat' (first | assumption | intro _ | apply keeps_barContext | apply keeps_attnTimeout | apply keeps_attnFail | apply keeps_txErrOnce | apply keeps_puschLost | apply keeps_movePoisoned | apply keeps_sendQuery | apply keeps_pfxFail | simp only [keeps_lit] | apply keeps_of | dsimp only | split)

theorem keeps_burstOver {q0 : List Instr} (s : State) (eng : Nat) (b : Burst) (st : Nat) (hs : Keeps q0 s) : Keeps q0 (burstOver s eng b st) := by
  unfold burstOver
  with_reducible repeat' (first | assumption | intro _ | simp only [keeps_lit] | apply keeps_of | dsimp only | split)

theorem keeps_execDmaBurstComplete {q0 : List Instr} (eng : Nat) (s : State) (hs : Keeps q0 s) : KeepsOut q0 (execDmaBurstComplete eng s) := by
  unfold execDmaBurstComplete
  with_reducible repeat' (first | assumption | intro _ | apply keepsOut_next | apply keeps_burstOver | apply keeps_burstStatus | apply keeps_switchDone | apply keeps_burstLost | apply keeps_recordUncorrected | apply keeps_burstWrite | apply keeps_burstReads | apply keeps_burstServed | simp only [keeps_lit] | apply keeps_of | dsimp only | split)

theorem keeps_dropOrigins {q0 : List Instr} (s : State) (eng : Nat) (hs : Keeps q0 s) : Keeps q0 (dropOrigins s eng) := by
  unfold dropOrigins
  with_reducible repeat' (first | assumption | intro _ | simp only [keeps_lit] | apply keeps_of | dsimp only | split)

theorem keeps_execDmaBurstTimeout {q0 : List Instr} (eng moved : Nat) (s : State) (hs : Keeps q0 s) : KeepsOut q0 (execDmaBurstTimeout eng moved s) := by
  unfold execDmaBurstTimeout
  with_reducible repeat' (first | assumption | intro _ | apply keepsOut_next | apply keeps_burstWrite | apply keeps_dropOrigins | apply keeps_devPut | apply keeps_burstStatus | apply keeps_burstLost | apply keeps_burstOver | simp only [keeps_lit] | apply keeps_of | dsimp only | split)

end Sys2Proof.Machine
end

