-- ==== Sys2Proof/Laws/KeepsFabric.lean ====
section
/-!
SUPPORT. Every state that a definition of Machine/Fabric.lean answers keeps the canonical form of both memories, the beat and the queue.
-/
set_option linter.unusedTactic false
set_option linter.unreachableTactic false
set_option linter.unusedVariables false
set_option linter.unusedSimpArgs false
namespace Sys2Proof.Machine

theorem keeps_retrainPort {q0 : List Instr} (s : State) (port : Nat) (hs : Keeps q0 s) : Keeps q0 (retrainPort s port) := by
  unfold retrainPort
  with_reducible repeat' (first | assumption | intro _ | apply keeps_portLeaves | simp only [keeps_lit] | apply keeps_of | dsimp only | split)

theorem keeps_execFlitRx {q0 : List Instr} (port lane fseq fack type : Nat) (rest : List Byte) (errors : Nat) (s : State) (hs : Keeps q0 s) : KeepsOut q0 (execFlitRx port lane fseq fack type rest errors s) := by
  unfold execFlitRx
  with_reducible repeat' (first | assumption | intro _ | apply keepsOut_next | apply keeps_retrainPort | apply keeps_modPort | simp only [keeps_lit] | apply keeps_of | dsimp only | split)

theorem keeps_execPortTrained {q0 : List Instr} (port : Nat) (s : State) (hs : Keeps q0 s) : KeepsOut q0 (execPortTrained port s) := by
  unfold execPortTrained
  with_reducible repeat' (first | assumption | intro _ | apply keepsOut_next | refine keeps_foldl _ _ ?_ ?_ | apply keeps_modPort | apply keeps_pump | simp only [keeps_lit] | apply keeps_of | dsimp only | split)

theorem keeps_execWriteGrantExpiry {q0 : List Instr} (entry : Nat) (s : State) (hs : Keeps q0 s) : KeepsOut q0 (execWriteGrantExpiry entry s) := by
  unfold execWriteGrantExpiry
  with_reducible repeat' (first | assumption | intro _ | apply keepsOut_next | simp only [keeps_lit] | apply keeps_of | dsimp only | split)

theorem keeps_regionSetApply {q0 : List Instr} (r : JRec) (s : State) (hs : Keeps q0 s) : Keeps q0 (regionSetApply r s) := by
  unfold regionSetApply
  with_reducible repeat' (first | assumption | intro _ | refine keeps_foldl _ _ ?_ ?_ | simp only [keeps_lit] | apply keeps_of | dsimp only | split)

theorem keeps_execRegionSet {q0 : List Instr} (q seq : Nat) (s : State) (hs : Keeps q0 s) : KeepsOut q0 (execRegionSet q seq s) := by
  unfold execRegionSet
  with_reducible repeat' (first | assumption | intro _ | apply keepsOut_next | apply keeps_withSeamCmd | simp only [keeps_lit] | apply keeps_of | dsimp only | split)

theorem keeps_pathSetApply {q0 : List Instr} (r : JRec) (s : State) (hs : Keeps q0 s) : Keeps q0 (pathSetApply r s) := by
  unfold pathSetApply
  with_reducible repeat' (first | assumption | intro _ | apply keeps_pump | simp only [keeps_lit] | apply keeps_of | dsimp only | split)

theorem keeps_execPathSet {q0 : List Instr} (q seq : Nat) (s : State) (hs : Keeps q0 s) : KeepsOut q0 (execPathSet q seq s) := by
  unfold execPathSet
  with_reducible repeat' (first | assumption | intro _ | apply keepsOut_next | apply keeps_withSeamCmd | simp only [keeps_lit] | apply keeps_of | dsimp only | split)

theorem keeps_denyHeld {q0 : List Instr} (s : State) (d : Nat) (hs : Keeps q0 s) : Keeps q0 (denyHeld s d) := by
  unfold denyHeld
  with_reducible repeat' (first | assumption | intro _ | refine keeps_foldl _ _ ?_ ?_ | apply keeps_reqEnd | apply keeps_setTx | simp only [keeps_lit] | apply keeps_of | dsimp only | split)

theorem keeps_partitionSetApply {q0 : List Instr} (r : JRec) (s : State) (hs : Keeps q0 s) : Keeps q0 (partitionSetApply r s) := by
  unfold partitionSetApply
  with_reducible repeat' (first | assumption | intro _ | refine keeps_foldl _ _ ?_ ?_ | apply keeps_pump | apply keeps_denyHeld | simp only [keeps_lit] | apply keeps_of | dsimp only | split)

theorem keeps_execPartitionSet {q0 : List Instr} (q seq : Nat) (s : State) (hs : Keeps q0 s) : KeepsOut q0 (execPartitionSet q seq s) := by
  unfold execPartitionSet
  with_reducible repeat' (first | assumption | intro _ | apply keepsOut_next | apply keeps_withSeamCmd | simp only [keeps_lit] | apply keeps_of | dsimp only | split)

theorem keeps_portFenceApply {q0 : List Instr} (r : JRec) (s : State) (hs : Keeps q0 s) : Keeps q0 (portFenceApply r s) := by
  unfold portFenceApply
  with_reducible repeat' (first | assumption | intro _ | refine keeps_foldl _ _ ?_ ?_ | apply keeps_portLeaves | simp only [keeps_lit] | apply keeps_of | dsimp only | split)

theorem keeps_execPortFence {q0 : List Instr} (q seq : Nat) (s : State) (hs : Keeps q0 s) : KeepsOut q0 (execPortFence q seq s) := by
  unfold execPortFence
  with_reducible repeat' (first | assumption | intro _ | apply keepsOut_next | apply keeps_withSeamCmd | simp only [keeps_lit] | apply keeps_of | dsimp only | split)

theorem keeps_jobtagSetApply {q0 : List Instr} (r : JRec) (s : State) (hs : Keeps q0 s) : Keeps q0 (jobtagSetApply r s) := by
  unfold jobtagSetApply
  with_reducible repeat' (first | assumption | intro _ | simp only [keeps_lit] | apply keeps_of | dsimp only | split)

theorem keeps_execJobtagSet {q0 : List Instr} (q seq : Nat) (s : State) (hs : Keeps q0 s) : KeepsOut q0 (execJobtagSet q seq s) := by
  unfold execJobtagSet
  with_reducible repeat' (first | assumption | intro _ | apply keepsOut_next | apply keeps_withSeamCmd | simp only [keeps_lit] | apply keeps_of | dsimp only | split)

theorem keeps_pushList {q0 : List Instr} (s : State) (port : Nat) (l : XList) (hs : Keeps q0 s) : Keeps q0 (pushList s port l) := by
  unfold pushList
  with_reducible repeat' (first | assumption | intro _ | apply keeps_modPort | simp only [keeps_lit] | apply keeps_of | dsimp only | split)

theorem keeps_startXferList {q0 : List Instr} (s : State) (port ptr : Nat) (ctx : Option Nat) (hs : Keeps q0 s) : Keeps q0 (startXferList s port ptr ctx) := by
  unfold startXferList
  with_reducible repeat' (first | assumption | intro _ | apply keeps_recordUncorrected | apply keeps_pushList | simp only [keeps_lit] | apply keeps_of | dsimp only | split)

theorem keeps_execFabXfer {q0 : List Instr} (q seq : Nat) (s : State) (hs : Keeps q0 s) : KeepsOut q0 (execFabXfer q seq s) := by
  unfold execFabXfer
  with_reducible repeat' (first | assumption | intro _ | apply keepsOut_next | apply keeps_withCmd | apply keeps_finish | apply keeps_pushList | simp only [keeps_lit] | apply keeps_of | dsimp only | split)

end Sys2Proof.Machine
end

