-- ==== Sys2Proof/Laws/KeepsVerify.lean ====
section
/-!
SUPPORT. Every state that a definition of Machine/Verify.lean answers keeps the canonical form of both memories, the beat and the queue.
-/
set_option linter.unusedTactic false
set_option linter.unreachableTactic false
set_option linter.unusedVariables false
set_option linter.unusedSimpArgs false
namespace Sys2Proof.Machine

theorem keeps_extendM {q0 : List Instr} (s : State) (reg place : Nat) (item : List Byte) (hs : Keeps q0 s) : Keeps q0 (extendM s reg place item) := by
  unfold extendM
  with_reducible repeat' (first | assumption | intro _ | simp only [keeps_lit] | apply keeps_of | dsimp only | split)

theorem keeps_extendAll {q0 : List Instr} (reg : Nat) (z0 : Nat) (z1 : List (List Byte)) (z2 : State) (hz2 : Keeps q0 z2) : Keeps q0 (extendAll reg z0 z1 z2) := by
  induction z1 generalizing z0 z2 with
  | nil => unfold extendAll; with_reducible repeat' (first | assumption | intro _ | apply keeps_extendM | simp only [keeps_lit] | apply keeps_of | dsimp only | split)
  | cons a l ih =>
    unfold extendAll
    with_reducible repeat' (first | apply ih | (first | assumption | intro _ | apply keeps_extendM | simp only [keeps_lit] | apply keeps_of | dsimp only | split))


theorem keeps_refuseBundle {q0 : List Instr} (s : State) (order : Nat) (hs : Keeps q0 s) : Keeps q0 (refuseBundle s order) := by
  unfold refuseBundle
  with_reducible repeat' (first | assumption | intro _ | apply keeps_recordEvent | apply keeps_latchAttn | simp only [keeps_lit] | apply keeps_of | dsimp only | split)

theorem keeps_freeWords {q0 : List Instr}  (z0 : Nat) (z1 : State) (hz1 : Keeps q0 z1) : Keeps q0 (freeWords z0 z1).2 := by
  induction z0 generalizing z1 with
  | zero => unfold freeWords; with_reducible repeat' (first | assumption | intro _ | apply keeps_State_takeFree | simp only [keeps_lit] | apply keeps_of | dsimp only | split)
  | succ n ih =>
    unfold freeWords
    with_reducible repeat' (first | apply ih | (first | assumption | intro _ | apply keeps_State_takeFree | simp only [keeps_lit] | apply keeps_of | dsimp only | split))


theorem keeps_drawKeys {q0 : List Instr} (s : State) (slice : Nat) (hs : Keeps q0 s) : Keeps q0 (drawKeys s slice) := by
  unfold drawKeys
  with_reducible repeat' (first | assumption | intro _ | apply keeps_freeWords | simp only [keeps_lit] | apply keeps_of | dsimp only | split)

end Sys2Proof.Machine
end

