-- ==== Sys2Proof/Laws/KeepsFirmware.lean ====
section
/-!
SUPPORT. Every state that a definition of Machine/Firmware.lean answers keeps the canonical form of both memories, the beat and the queue.
-/
set_option linter.unusedTactic false
set_option linter.unreachableTactic false
set_option linter.unusedVariables false
set_option linter.unusedSimpArgs false
namespace Sys2Proof.Machine

theorem keeps_discardLines {q0 : List Instr} (s : State) (refused : List (Nat × List Byte)) (hs : Keeps q0 s) : Keeps q0 (discardLines s refused) := by
  unfold discardLines
  with_reducible repeat' (first | assumption | intro _ | refine keeps_foldl _ _ ?_ ?_ | apply keeps_recordEvent | apply keeps_hostWrite | simp only [keeps_lit] | apply keeps_of | dsimp only | split)

theorem keeps_execHeartbeat {q0 : List Instr} (w_ : W64) (s : State) (hs : Keeps q0 s) : KeepsOut q0 (execHeartbeat w_ s) := by
  unfold execHeartbeat
  with_reducible repeat' (first | assumption | intro _ | apply keepsOut_next | simp only [keeps_lit] | apply keeps_of | dsimp only | split)

theorem keeps_enterOrphan {q0 : List Instr} (s : State) (refused : List (Nat × List Byte)) (hs : Keeps q0 s) : Keeps q0 (enterOrphan s refused) := by
  unfold enterOrphan
  with_reducible repeat' (first | assumption | intro _ | refine keeps_foldl _ _ ?_ ?_ | apply keeps_trace | apply keeps_recordEvent | apply keeps_latchAttn | apply keeps_dropQueue | apply keeps_buildReport | apply keeps_discardLines | simp only [keeps_lit] | apply keeps_of | dsimp only | split)

theorem keeps_execOrphan {q0 : List Instr} (refused : List (Nat × List Byte)) (s : State) (hs : Keeps q0 s) : KeepsOut q0 (execOrphan refused s) := by
  unfold execOrphan
  with_reducible repeat' (first | assumption | intro _ | apply keepsOut_next | apply keeps_enterOrphan | simp only [keeps_lit] | apply keeps_of | dsimp only | split)

theorem keeps_execCxlLinkDown {q0 : List Instr} (refused : List (Nat × List Byte)) (s : State) (hs : Keeps q0 s) : KeepsOut q0 (execCxlLinkDown refused s) := by
  unfold execCxlLinkDown
  with_reducible repeat' (first | assumption | intro _ | apply keepsOut_next | apply keeps_enterOrphan | simp only [keeps_lit] | apply keeps_of | dsimp only | split)

theorem keeps_execOrphanHoldExpiry {q0 : List Instr} (s : State) (hs : Keeps q0 s) : KeepsOut q0 (execOrphanHoldExpiry s) := by
  unfold execOrphanHoldExpiry
  with_reducible repeat' (first | assumption | intro _ | apply keepsOut_next | refine keeps_foldl _ _ ?_ ?_ | apply keeps_heldCheck | apply keeps_modCtx | simp only [keeps_lit] | apply keeps_of | dsimp only | split)

theorem keeps_execFwUpdate {q0 : List Instr} (q seq : Nat) (b : Bundle) (s : State) (hs : Keeps q0 s) : KeepsOut q0 (execFwUpdate q seq b s) := by
  unfold execFwUpdate
  with_reducible repeat' (first | assumption | intro _ | apply keepsOut_next | apply keeps_withCmd | apply keeps_finish | apply keeps_refuseBundle | apply keeps_trace | simp only [keeps_lit] | apply keeps_of | dsimp only | split)

theorem keeps_writeRecs {q0 : List Instr} (s : State) (cp : Nat) (rs : List StateRec) (hs : Keeps q0 s) : Keeps q0 (writeRecs s cp rs) := by
  unfold writeRecs
  with_reducible repeat' (first | assumption | intro _ | apply keeps_devWrite | simp only [keeps_lit] | apply keeps_of | dsimp only | split)

theorem keeps_importRecs {q0 : List Instr} (s : State) (cp : Nat) (hs : Keeps q0 s) : Keeps q0 (importRecs s cp) := by
  unfold importRecs
  with_reducible repeat' (first | assumption | intro _ | simp only [keeps_lit] | apply keeps_of | dsimp only | split)

theorem keeps_execUpdateQuiesce {q0 : List Instr} (s : State) (hs : Keeps q0 s) : KeepsOut q0 (execUpdateQuiesce s) := by
  unfold execUpdateQuiesce
  with_reducible repeat' (first | assumption | intro _ | apply keepsOut_next | refine keeps_foldl _ _ ?_ ?_ | apply keeps_writeRecs | apply keeps_trace | apply keeps_State_takeFree | simp only [keeps_lit] | apply keeps_of | dsimp only | split)


theorem keeps_execUpdateCommit {q0 : List Instr} (s : State) (hs : Keeps q0 s) : KeepsOut q0 (execUpdateCommit s) := by
  unfold execUpdateCommit
  with_reducible repeat' (first | assumption | intro _ | apply keepsOut_next | refine keeps_foldl _ _ ?_ ?_ | apply keeps_importRecs | apply keeps_trace | apply keeps_latchAttn | apply keeps_recordEvent | apply keeps_extendM | apply keeps_finish | simp only [keeps_lit] | apply keeps_of | dsimp only | split)

theorem keeps_abortUpdate {q0 : List Instr} (s : State) (status : Nat) (component : W64) (hs : Keeps q0 s) : Keeps q0 (abortUpdate s status component) := by
  unfold abortUpdate
  with_reducible repeat' (first | assumption | intro _ | apply keeps_trace | apply keeps_recordEvent | apply keeps_finish | simp only [keeps_lit] | apply keeps_of | dsimp only | split)

theorem keeps_execUpdateAbort {q0 : List Instr} (component : Option Nat) (s : State) (hs : Keeps q0 s) : KeepsOut q0 (execUpdateAbort component s) := by
  unfold execUpdateAbort
  with_reducible repeat' (first | assumption | intro _ | apply keepsOut_next | apply keeps_abortUpdate | simp only [keeps_lit] | apply keeps_of | dsimp only | split)

theorem keeps_cpStops {q0 : List Instr} (s : State) (cp cause : Nat) (hs : Keeps q0 s) : Keeps q0 (cpStops s cp cause) := by
  unfold cpStops
  with_reducible repeat' (first | assumption | intro _ | apply keeps_trace | apply keeps_State_takeFree | apply keeps_abortUpdate | simp only [keeps_lit] | apply keeps_of | dsimp only | split)

theorem keeps_cpHeld {q0 : List Instr} (s : State) (cp : Nat) (hs : Keeps q0 s) : Keeps q0 (cpHeld s cp) := by
  unfold cpHeld
  with_reducible repeat' (first | assumption | intro _ | apply keeps_deviceFail | simp only [keeps_lit] | apply keeps_of | dsimp only | split)

theorem keeps_cpRestarts {q0 : List Instr} (s : State) (cp : Nat) (hs : Keeps q0 s) : Keeps q0 (cpRestarts s cp) := by
  unfold cpRestarts
  with_reducible repeat' (first | assumption | intro _ | simp only [keeps_lit] | apply keeps_of | dsimp only | split)

theorem keeps_execCpStop {q0 : List Instr} (cp cause : Nat) (s : State) (hs : Keeps q0 s) : KeepsOut q0 (execCpStop cp cause s) := by
  unfold execCpStop
  with_reducible repeat' (first | assumption | intro _ | apply keepsOut_next | apply keeps_cpStops | apply keeps_cpHeld | apply keeps_latchAttn | apply keeps_recordEvent | apply keeps_cpRestarts | simp only [keeps_lit] | apply keeps_of | dsimp only | split)

theorem keeps_execCp0WatchdogExpiry {q0 : List Instr} (s : State) (hs : Keeps q0 s) : KeepsOut q0 (execCp0WatchdogExpiry s) := by
  unfold execCp0WatchdogExpiry
  with_reducible repeat' (first | assumption | intro _ | apply keepsOut_next | apply keeps_State_takeFree | apply keeps_cpStops | apply keeps_cpHeld | apply keeps_cpRestarts | apply keeps_buildReport | apply keeps_latchAttn | simp only [keeps_lit] | apply keeps_of | dsimp only | split)

theorem keeps_flushStaged {q0 : List Instr} (s : State) (hs : Keeps q0 s) : Keeps q0 (flushStaged s) := by
  unfold flushStaged
  with_reducible repeat' (first | assumption | intro _ | refine keeps_foldl _ _ ?_ ?_ | apply keeps_recordNow | simp only [keeps_lit] | apply keeps_of | dsimp only | split)

theorem keeps_cpBack {q0 : List Instr} (s : State) (cp : Nat) (hs : Keeps q0 s) : Keeps q0 (cpBack s cp) := by
  unfold cpBack
  with_reducible repeat' (first | assumption | intro _ | apply keeps_trace | apply keeps_importRecs | apply keeps_flushStaged | simp only [keeps_lit] | apply keeps_of | dsimp only | split)

theorem keeps_cpsSeam {q0 : List Instr} (s : State) (hs : Keeps q0 s) : Keeps q0 (cpsSeam s) := by
  unfold cpsSeam
  with_reducible repeat' (first | assumption | intro _ | refine keeps_foldl _ _ ?_ ?_ | apply keeps_cpBack | simp only [keeps_lit] | apply keeps_of | dsimp only | split)

end Sys2Proof.Machine
end

