-- ==== Sys2Proof/Laws/KeepsFlash.lean ====
section
/-!
SUPPORT. Every state that a definition of Machine/Flash.lean answers keeps the canonical form of both memories, the beat and the queue.
-/
set_option linter.unusedTactic false
set_option linter.unreachableTactic false
set_option linter.unusedVariables false
set_option linter.unusedSimpArgs false
namespace Sys2Proof.Machine

theorem keeps_losePage {q0 : List Instr} (s : State) (p id : Nat) (hs : Keeps q0 s) : Keeps q0 (losePage s p id) := by
  unfold losePage
  with_reducible repeat' (first | assumption | intro _ | refine keeps_foldl _ _ ?_ ?_ | apply keeps_releasePage | apply keeps_dropPage | apply keeps_dropEntriesOf | simp only [keeps_lit] | apply keeps_of | dsimp only | split)

theorem keeps_execFlashDemote {q0 : List Instr} (pool frame : Nat) (fail : Option Nat) (s : State) (hs : Keeps q0 s) : KeepsOut q0 (execFlashDemote pool frame fail s) := by
  unfold execFlashDemote
  with_reducible repeat' (first | assumption | intro _ | apply keepsOut_next | apply keeps_programFails | apply keeps_demotePage | apply keeps_losePage | simp only [keeps_lit] | apply keeps_of | dsimp only | split)

theorem keeps_execFlashPromote {q0 : List Instr} (pool frame : Nat) (failed : Bool) (s : State) (hs : Keeps q0 s) : KeepsOut q0 (execFlashPromote pool frame failed s) := by
  unfold execFlashPromote
  with_reducible repeat' (first | assumption | intro _ | apply keepsOut_next | apply keeps_flashRead | apply keeps_flashMiss | apply keeps_promotePage | simp only [keeps_lit] | apply keeps_of | dsimp only | split)

theorem keeps_eraseSb {q0 : List Instr} (s : State) (sb : Nat) (b : SuperBlk) (hs : Keeps q0 s) : Keeps q0 (eraseSb s sb b) := by
  unfold eraseSb
  with_reducible repeat' (first | assumption | intro _ | refine keeps_foldl _ _ ?_ ?_ | apply keeps_modSb | simp only [keeps_lit] | apply keeps_of | dsimp only | split)

theorem keeps_execSuperblockErase {q0 : List Instr} (sb : Nat) (fail : Option Nat) (s : State) (hs : Keeps q0 s) : KeepsOut q0 (execSuperblockErase sb fail s) := by
  unfold execSuperblockErase
  with_reducible repeat' (first | assumption | intro _ | apply keepsOut_next | refine keeps_foldl _ _ ?_ ?_ | apply keeps_flashMiss | apply keeps_eraseSb | apply keeps_blockFails | simp only [keeps_lit] | apply keeps_of | dsimp only | split)

theorem keeps_rewriteFrame {q0 : List Instr} (s0 : State) (key : Nat) (hs0 : Keeps q0 s0) : Keeps q0 (rewriteFrame s0 key) := by
  unfold rewriteFrame
  with_reducible repeat' (first | assumption | intro _ | apply keeps_State_takeFree | apply keeps_moveRead | apply keeps_moveLost | apply keeps_programFails | apply keeps_flashStore | apply keeps_setFrame | simp only [keeps_lit] | apply keeps_of | dsimp only | split)

theorem keeps_execSuperblockRelocate {q0 : List Instr} (s : State) (hs : Keeps q0 s) : KeepsOut q0 (execSuperblockRelocate s) := by
  unfold execSuperblockRelocate
  with_reducible repeat' (first | assumption | intro _ | apply keepsOut_next | refine keeps_foldl _ _ ?_ ?_ | apply keeps_rewriteFrame | apply keeps_setFrame | simp only [keeps_lit] | apply keeps_of | dsimp only | split)

theorem keeps_execFlashRetentionRewrite {q0 : List Instr} (s : State) (hs : Keeps q0 s) : KeepsOut q0 (execFlashRetentionRewrite s) := by
  unfold execFlashRetentionRewrite
  with_reducible repeat' (first | assumption | intro _ | apply keepsOut_next | refine keeps_foldl _ _ ?_ ?_ | apply keeps_rewriteFrame | simp only [keeps_lit] | apply keeps_of | dsimp only | split)

theorem keeps_flashCfgApply {q0 : List Instr} (r : JRec) (s : State) (hs : Keeps q0 s) : Keeps q0 (flashCfgApply r s) := by
  unfold flashCfgApply
  with_reducible repeat' (first | assumption | intro _ | simp only [keeps_lit] | apply keeps_of | dsimp only | split)

theorem keeps_execFlashCfg {q0 : List Instr} (q seq : Nat) (s : State) (hs : Keeps q0 s) : KeepsOut q0 (execFlashCfg q seq s) := by
  unfold execFlashCfg
  with_reducible repeat' (first | assumption | intro _ | apply keepsOut_next | apply keeps_withSeamCmd | simp only [keeps_lit] | apply keeps_of | dsimp only | split)

end Sys2Proof.Machine
end

