-- ==== Sys2Proof/Laws/KeepsTime.lean ====
section
/-!
SUPPORT. Every state that a definition of Machine/Time.lean answers keeps the canonical form of both memories, the beat and the queue.
-/
set_option linter.unusedTactic false
set_option linter.unreachableTactic false
set_option linter.unusedVariables false
set_option linter.unusedSimpArgs false
namespace Sys2Proof.Machine

theorem keeps_setRate {q0 : List Instr} (s : State) (r : Int) (hs : Keeps q0 s) : Keeps q0 (setRate s r) := by
  unfold setRate
  with_reducible repeat' (first | assumption | intro _ | simp only [keeps_lit] | apply keeps_of | dsimp only | split)

theorem keeps_steer {q0 : List Instr} (s : State) (hs : Keeps q0 s) : Keeps q0 (steer s) := by
  unfold steer
  with_reducible repeat' (first | assumption | intro _ | apply keeps_State_takeFree | apply keeps_setRate | simp only [keeps_lit] | apply keeps_of | dsimp only | split)

theorem keeps_holdRate {q0 : List Instr} (s : State) (hs : Keeps q0 s) : Keeps q0 (holdRate s) := by
  unfold holdRate
  with_reducible repeat' (first | assumption | intro _ | apply keeps_State_takeFree | apply keeps_setRate | simp only [keeps_lit] | apply keeps_of | dsimp only | split)

theorem keeps_rateAgain {q0 : List Instr} (s s1 : State) (hs : Keeps q0 s) (hs1 : Keeps q0 s1) : Keeps q0 (rateAgain s s1) := by
  unfold rateAgain
  with_reducible repeat' (first | assumption | intro _ | apply keeps_holdRate | simp only [keeps_lit] | apply keeps_of | dsimp only | split)

theorem keeps_enterHoldover {q0 : List Instr} (s : State) (hs : Keeps q0 s) : Keeps q0 (enterHoldover s) := by
  unfold enterHoldover
  with_reducible repeat' (first | assumption | intro _ | apply keeps_holdRate | apply keeps_recordEvent | simp only [keeps_lit] | apply keeps_of | dsimp only | split)

theorem keeps_sourceSeen {q0 : List Instr} (s : State) (hs : Keeps q0 s) : Keeps q0 (sourceSeen s) := by
  unfold sourceSeen
  with_reducible repeat' (first | assumption | intro _ | simp only [keeps_lit] | apply keeps_of | dsimp only | split)

theorem keeps_measure {q0 : List Instr} (s : State) (d : Int) (hs : Keeps q0 s) : Keeps q0 (measure s d) := by
  unfold measure
  with_reducible repeat' (first | assumption | intro _ | apply keeps_steer | simp only [keeps_lit] | apply keeps_of | dsimp only | split)

theorem keeps_announced {q0 : List Instr} (s : State) (m : PtpMsg) (hs : Keeps q0 s) : Keeps q0 (announced s m) := by
  unfold announced
  with_reducible repeat' (first | assumption | intro _ | apply keeps_sourceSeen | simp only [keeps_lit] | apply keeps_of | dsimp only | split)

theorem keeps_execPtpMessage {q0 : List Instr} (port msgType seqId taken : Nat) (sent : Bool) (m : PtpMsg) (s : State) (hs : Keeps q0 s) : KeepsOut q0 (execPtpMessage port msgType seqId taken sent m s) := by
  unfold execPtpMessage
  with_reducible repeat' (first | assumption | intro _ | apply keepsOut_next | apply keeps_announced | apply keeps_measure | simp only [keeps_lit] | apply keeps_of | dsimp only | split)

theorem keeps_execEsmcMessage {q0 : List Instr} (port quality : Nat) (s : State) (hs : Keeps q0 s) : KeepsOut q0 (execEsmcMessage port quality s) := by
  unfold execEsmcMessage
  with_reducible repeat' (first | assumption | intro _ | apply keepsOut_next | apply keeps_rateAgain | simp only [keeps_lit] | apply keeps_of | dsimp only | split)

theorem keeps_execTodLineRx {q0 : List Instr} (line : List Byte) (msAfterEdge : Nat) (s : State) (hs : Keeps q0 s) : KeepsOut q0 (execTodLineRx line msAfterEdge s) := by
  unfold execTodLineRx
  with_reducible repeat' (first | assumption | intro _ | apply keepsOut_next | simp only [keeps_lit] | apply keeps_of | dsimp only | split)

theorem keeps_execPpsInEdge {q0 : List Instr} (rawNs : Nat) (s : State) (hs : Keeps q0 s) : KeepsOut q0 (execPpsInEdge rawNs s) := by
  unfold execPpsInEdge
  with_reducible repeat' (first | assumption | intro _ | apply keepsOut_next | apply keeps_measure | apply keeps_sourceSeen | simp only [keeps_lit] | apply keeps_of | dsimp only | split)

theorem keeps_todDue {q0 : List Instr} (s : State) (hs : Keeps q0 s) : Keeps q0 (todDue s) := by
  unfold todDue
  with_reducible repeat' (first | assumption | intro _ | apply keeps_State_takeFree | simp only [keeps_lit] | apply keeps_of | dsimp only | split)

theorem keeps_execPpsOut {q0 : List Instr} (s : State) (hs : Keeps q0 s) : KeepsOut q0 (execPpsOut s) := by
  unfold execPpsOut
  with_reducible repeat' (first | assumption | intro _ | apply keepsOut_next | apply keeps_todDue | simp only [keeps_lit] | apply keeps_of | dsimp only | split)

theorem keeps_sourceGone {q0 : List Instr} (s : State) (hs : Keeps q0 s) : Keeps q0 (sourceGone s) := by
  unfold sourceGone
  with_reducible repeat' (first | assumption | intro _ | apply keeps_setRate | apply keeps_enterHoldover | simp only [keeps_lit] | apply keeps_of | dsimp only | split)

theorem keeps_execSourceLost {q0 : List Instr} (s : State) (hs : Keeps q0 s) : KeepsOut q0 (execSourceLost s) := by
  unfold execSourceLost
  with_reducible repeat' (first | assumption | intro _ | apply keepsOut_next | apply keeps_sourceGone | simp only [keeps_lit] | apply keeps_of | dsimp only | split)

theorem keeps_execHoldExceeded {q0 : List Instr} (s : State) (hs : Keeps q0 s) : KeepsOut q0 (execHoldExceeded s) := by
  unfold execHoldExceeded
  with_reducible repeat' (first | assumption | intro _ | apply keepsOut_next | apply keeps_recordEvent | simp only [keeps_lit] | apply keeps_of | dsimp only | split)

theorem keeps_shiftTimers {q0 : List Instr} (d : Nat) (s : State) (hs : Keeps q0 s) : Keeps q0 (shiftTimers d s) := by
  unfold shiftTimers
  with_reducible repeat' (first | assumption | intro _ | simp only [keeps_lit] | apply keeps_of | dsimp only | split)

theorem keeps_stepTo {q0 : List Instr} (s : State) (n ns : Nat) (hs : Keeps q0 s) : Keeps q0 (stepTo s n ns) := by
  unfold stepTo
  with_reducible repeat' (first | assumption | intro _ | apply keeps_shiftTimers | simp only [keeps_lit] | apply keeps_of | dsimp only | split)

theorem keeps_execTimeStep {q0 : List Instr} (sourceNs : Nat) (sourcePresent : Bool) (s : State) (hs : Keeps q0 s) : KeepsOut q0 (execTimeStep sourceNs sourcePresent s) := by
  unfold execTimeStep
  with_reducible repeat' (first | assumption | intro _ | apply keepsOut_next | apply keeps_sourceGone | simp only [keeps_lit] | apply keeps_of | dsimp only | split)

theorem keeps_timeCfgApply {q0 : List Instr} (r : JRec) (s : State) (hs : Keeps q0 s) : Keeps q0 (timeCfgApply r s) := by
  unfold timeCfgApply
  with_reducible repeat' (first | assumption | intro _ | refine keeps_foldl _ _ ?_ ?_ | apply keeps_rateAgain | simp only [keeps_lit] | apply keeps_of | dsimp only | split)

theorem keeps_execTimeCfg {q0 : List Instr} (q seq : Nat) (s : State) (hs : Keeps q0 s) : KeepsOut q0 (execTimeCfg q seq s) := by
  unfold execTimeCfg
  with_reducible repeat' (first | assumption | intro _ | apply keepsOut_next | apply keeps_withSeamCmd | simp only [keeps_lit] | apply keeps_of | dsimp only | split)

end Sys2Proof.Machine
end

