-- ==== Sys2Proof/Laws/KeepsFronthaul.lean ====
section
/-!
SUPPORT. Every state that a definition of Machine/Fronthaul.lean answers keeps the canonical form of both memories, the beat and the queue.
-/
set_option linter.unusedTactic false
set_option linter.unreachableTactic false
set_option linter.unusedVariables false
set_option linter.unusedSimpArgs false
namespace Sys2Proof.Machine

theorem keeps_fhUnknown {q0 : List Instr} (s : State) (p : Nat) (hs : Keeps q0 s) : Keeps q0 (fhUnknown s p) := by
  unfold fhUnknown
  with_reducible repeat' (first | assumption | intro _ | apply keeps_modFh | simp only [keeps_lit] | apply keeps_of | dsimp only | split)

theorem keeps_takeSection {q0 : List Instr} (s : State) (p c : Nat) (f : FhFrame) (sec : Nat × Nat × Bool × Nat × Nat) (at_ : Nat) (hs : Keeps q0 s) : Keeps q0 (takeSection s p c f sec at_) := by
  unfold takeSection
  with_reducible repeat' (first | assumption | intro _ | refine keeps_foldl _ _ ?_ ?_ | apply keeps_fhUnknown | apply keeps_modFh | apply keeps_modCell | simp only [keeps_lit] | apply keeps_of | dsimp only | split)

theorem keeps_takeSections {q0 : List Instr} (p c : Nat) (f : FhFrame) (z0 : List (Nat × Nat × Bool × Nat × Nat)) (z1 : Nat) (z2 : State) (hz2 : Keeps q0 z2) : Keeps q0 (takeSections p c f z0 z1 z2) := by
  induction z0 generalizing z1 z2 with
  | nil => unfold takeSections; with_reducible repeat' (first | assumption | intro _ | apply keeps_takeSection | simp only [keeps_lit] | apply keeps_of | dsimp only | split)
  | cons a l ih =>
    unfold takeSections
    with_reducible repeat' (first | apply ih | (first | assumption | intro _ | apply keeps_takeSection | simp only [keeps_lit] | apply keeps_of | dsimp only | split))


theorem keeps_windowed {q0 : List Instr} (s : State) (p : Nat) (f : FhFrame) (t : Nat) (k : State → State) (hs : Keeps q0 s) (hk : ∀ y0, Keeps q0 y0 → Keeps q0 (k y0)) : Keeps q0 (windowed s p f t k) := by
  unfold windowed
  with_reducible repeat' (first | assumption | intro _ | apply keeps_modFh | apply hk | simp only [keeps_lit] | apply keeps_of | dsimp only | split)

theorem keeps_ecpriRx {q0 : List Instr} (s : State) (p : Nat) (f : FhFrame) (hs : Keeps q0 s) : Keeps q0 (ecpriRx s p f) := by
  unfold ecpriRx
  with_reducible repeat' (first | assumption | intro _ | apply keeps_fhUnknown | apply keeps_windowed | apply keeps_takeSections | simp only [keeps_lit] | apply keeps_of | dsimp only | split)

theorem keeps_tdRx {q0 : List Instr} (s : State) (p : Nat) (f : FhFrame) (hs : Keeps q0 s) : Keeps q0 (tdRx s p f) := by
  unfold tdRx
  with_reducible repeat' (first | assumption | intro _ | apply keeps_fhUnknown | apply keeps_windowed | apply keeps_modFh | apply keeps_modCell | simp only [keeps_lit] | apply keeps_of | dsimp only | split)

theorem keeps_execFhFrameRx {q0 : List Instr} (port : Nat) (f : FhFrame) (s : State) (hs : Keeps q0 s) : KeepsOut q0 (execFhFrameRx port f s) := by
  unfold execFhFrameRx
  with_reducible repeat' (first | assumption | intro _ | apply keepsOut_next | apply keeps_modFh | apply keeps_fhUnknown | apply keeps_ecpriRx | apply keeps_tdRx | simp only [keeps_lit] | apply keeps_of | dsimp only | split)

theorem keeps_execSymbolClose {q0 : List Instr} (cell first y : Nat) (s : State) (hs : Keeps q0 s) : KeepsOut q0 (execSymbolClose cell first y s) := by
  unfold execSymbolClose
  with_reducible repeat' (first | assumption | intro _ | apply keepsOut_next | apply keeps_modCell | apply keeps_incSync | simp only [keeps_lit] | apply keeps_of | dsimp only | split)

theorem keeps_writeWords {q0 : List Instr} (s : State) (x : Cell) (b : CellBind) (i : Nat) (ws : NMap W32) (hs : Keeps q0 s) : Keeps q0 (writeWords s x b i ws) := by
  unfold writeWords
  with_reducible repeat' (first | assumption | intro _ | refine keeps_foldl _ _ ?_ ?_ | apply keeps_devPut | simp only [keeps_lit] | apply keeps_of | dsimp only | split)

theorem keeps_symbolFft {q0 : List Instr} (s : State) (c : Nat) (x : Cell) (flow sym g cp : Nat) (zs : List (Int × Int)) (hs : Keeps q0 s) : Keeps q0 (symbolFft s c x flow sym g cp zs) := by
  unfold symbolFft
  with_reducible repeat' (first | assumption | intro _ | refine keeps_foldl _ _ ?_ ?_ | apply keeps_modCell | simp only [keeps_lit] | apply keeps_of | dsimp only | split)

theorem keeps_execAgcUpdate {q0 : List Instr} (port stream sym : Nat) (pin winPeak : Int) (corr256 : Nat) (s : State) (hs : Keeps q0 s) : KeepsOut q0 (execAgcUpdate port stream sym pin winPeak corr256 s) := by
  unfold execAgcUpdate
  with_reducible repeat' (first | assumption | intro _ | apply keepsOut_next | apply keeps_writeWords | apply keeps_symbolFft | simp only [keeps_lit] | apply keeps_of | dsimp only | split)

theorem keeps_sentPacket {q0 : List Instr} (s : State) (p key at_ : Nat) (frame : List Byte) (hs : Keeps q0 s) : Keeps q0 (sentPacket s p key at_ frame) := by
  unfold sentPacket
  with_reducible repeat' (first | assumption | intro _ | apply keeps_modFh | simp only [keeps_lit] | apply keeps_of | dsimp only | split)

theorem keeps_execCplaneLaunch {q0 : List Instr} (port cell : Nat) (msgs : List CMessage) (s : State) (hs : Keeps q0 s) : KeepsOut q0 (execCplaneLaunch port cell msgs s) := by
  unfold execCplaneLaunch
  with_reducible repeat' (first | assumption | intro _ | apply keepsOut_next | refine keeps_foldl _ _ ?_ ?_ | apply keeps_sentPacket | apply keeps_modFh | simp only [keeps_lit] | apply keeps_of | dsimp only | split)

theorem keeps_notSent {q0 : List Instr} (s : State) (port cell first : Nat) (hs : Keeps q0 s) : Keeps q0 (notSent s port cell first) := by
  unfold notSent
  with_reducible repeat' (first | assumption | intro _ | apply keeps_modFh | apply keeps_recordEvent | apply keeps_txErrOnce | simp only [keeps_lit] | apply keeps_of | dsimp only | split)

theorem keeps_launchGo {q0 : List Instr}  (z0 : List (Nat × Bool × List Byte)) (z1 : State) (z2 : Nat) (z3 : Nat) (z4 : Nat) (hz1 : Keeps q0 z1) : Keeps q0 (launchGo z0 z1 z2 z3 z4) := by
  induction z0 generalizing z1 with
  | nil => unfold launchGo; with_reducible repeat' (first | assumption | intro _ | apply keeps_sentPacket | apply keeps_notSent | simp only [keeps_lit] | apply keeps_of | dsimp only | split)
  | cons a l ih =>
    unfold launchGo
    with_reducible repeat' (first | apply ih | (first | assumption | intro _ | apply keeps_sentPacket | apply keeps_notSent | simp only [keeps_lit] | apply keeps_of | dsimp only | split))


theorem keeps_execUplaneLaunch {q0 : List Instr} (port cell sym : Nat) (ready eaxcs : List Nat) (s : State) (hs : Keeps q0 s) : KeepsOut q0 (execUplaneLaunch port cell sym ready eaxcs s) := by
  unfold execUplaneLaunch
  with_reducible repeat' (first | assumption | intro _ | apply keepsOut_next | refine keeps_foldl _ _ ?_ ?_ | apply keeps_launchGo | apply keeps_modFh | simp only [keeps_lit] | apply keeps_of | dsimp only | split)

theorem keeps_portCells {q0 : List Instr} (s : State) (port st : Nat) (hs : Keeps q0 s) : Keeps q0 (portCells s port st) := by
  unfold portCells
  with_reducible repeat' (first | assumption | intro _ | refine keeps_foldl _ _ ?_ ?_ | apply keeps_cellState | simp only [keeps_lit] | apply keeps_of | dsimp only | split)

theorem keeps_execFhLinkDown {q0 : List Instr} (port waiting : Nat) (s : State) (hs : Keeps q0 s) : KeepsOut q0 (execFhLinkDown port waiting s) := by
  unfold execFhLinkDown
  with_reducible repeat' (first | assumption | intro _ | apply keepsOut_next | apply keeps_modFh | apply keeps_portCells | apply keeps_recordEvent | apply keeps_rateAgain | simp only [keeps_lit] | apply keeps_of | dsimp only | split)

theorem keeps_execFhLinkUp {q0 : List Instr} (port : Nat) (s : State) (hs : Keeps q0 s) : KeepsOut q0 (execFhLinkUp port s) := by
  unfold execFhLinkUp
  with_reducible repeat' (first | assumption | intro _ | apply keepsOut_next | apply keeps_modFh | apply keeps_portCells | apply keeps_rateAgain | simp only [keeps_lit] | apply keeps_of | dsimp only | split)

theorem keeps_execFhTrainTimeout {q0 : List Instr} (port : Nat) (s : State) (hs : Keeps q0 s) : KeepsOut q0 (execFhTrainTimeout port s) := by
  unfold execFhTrainTimeout
  with_reducible repeat' (first | assumption | intro _ | apply keepsOut_next | apply keeps_recordEvent | apply keeps_modFh | simp only [keeps_lit] | apply keeps_of | dsimp only | split)

theorem keeps_fhCfgLand {q0 : List Instr} (r : JRec) (s : State) (hs : Keeps q0 s) : Keeps q0 (fhCfgLand r s) := by
  unfold fhCfgLand
  with_reducible repeat' (first | assumption | intro _ | apply keeps_modFh | simp only [keeps_lit] | apply keeps_of | dsimp only | split)

theorem keeps_execFhCfg {q0 : List Instr} (q seq : Nat) (s : State) (hs : Keeps q0 s) : KeepsOut q0 (execFhCfg q seq s) := by
  unfold execFhCfg
  with_reducible repeat' (first | assumption | intro _ | apply keepsOut_next | apply keeps_withSeamCmd | simp only [keeps_lit] | apply keeps_of | dsimp only | split)

theorem keeps_fhStage {q0 : List Instr} (s : State) (hs : Keeps q0 s) : Keeps q0 (fhStage s) := by
  unfold fhStage
  with_reducible repeat' (first | assumption | intro _ | simp only [keeps_lit] | apply keeps_of | dsimp only | split)

theorem keeps_fhApply {q0 : List Instr} (s : State) (hs : Keeps q0 s) : Keeps q0 (fhApply s) := by
  unfold fhApply
  with_reducible repeat' (first | assumption | intro _ | apply keeps_rateAgain | simp only [keeps_lit] | apply keeps_of | dsimp only | split)

end Sys2Proof.Machine
end

