-- ==== Sys2Proof/Laws/KeepsHost.lean ====
section
/-!
SUPPORT. Every state that a definition of Machine/Host.lean answers keeps the canonical form of both memories, the beat and the queue.
-/
set_option linter.unusedTactic false
set_option linter.unreachableTactic false
set_option linter.unusedVariables false
set_option linter.unusedSimpArgs false
namespace Sys2Proof.Machine

theorem keeps_doorbellRange {q0 : List Instr} (s : State) (hs : Keeps q0 s) : Keeps q0 (doorbellRange s) := by
  unfold doorbellRange
  with_reducible repeat' (first | assumption | intro _ | apply keeps_recordEvent | simp only [keeps_lit] | apply keeps_of | dsimp only | split)

theorem keeps_fapiTail {q0 : List Instr} (s : State) (phy tail : Nat) (hs : Keeps q0 s) : Keeps q0 (fapiTail s phy tail) := by
  unfold fapiTail
  with_reducible repeat' (first | assumption | intro _ | apply keeps_doorbellRange | simp only [keeps_lit] | apply keeps_of | dsimp only | split)

theorem keeps_fapiHead {q0 : List Instr} (s : State) (phy head : Nat) (hs : Keeps q0 s) : Keeps q0 (fapiHead s phy head) := by
  unfold fapiHead
  with_reducible repeat' (first | assumption | intro _ | apply keeps_doorbellRange | simp only [keeps_lit] | apply keeps_of | dsimp only | split)

theorem keeps_execSubmissionDoorbell {q0 : List Instr} (q tail : Nat) (s : State) (hs : Keeps q0 s) : KeepsOut q0 (execSubmissionDoorbell q tail s) := by
  unfold execSubmissionDoorbell
  with_reducible repeat' (first | assumption | intro _ | apply keepsOut_next | apply keeps_fapiTail | apply keeps_doorbellRange | apply keeps_setQueue | simp only [keeps_lit] | apply keeps_of | dsimp only | split)

theorem keeps_execCompletionDoorbell {q0 : List Instr} (q head : Nat) (s : State) (hs : Keeps q0 s) : KeepsOut q0 (execCompletionDoorbell q head s) := by
  unfold execCompletionDoorbell
  with_reducible repeat' (first | assumption | intro _ | apply keepsOut_next | apply keeps_fapiHead | apply keeps_doorbellRange | apply keeps_flushHeld | apply keeps_freeRecs | apply keeps_setQueue | simp only [keeps_lit] | apply keeps_of | dsimp only | split)

theorem keeps_postDup {q0 : List Instr} (s : State) (q : Nat) (p : CmdPacket) (hs : Keeps q0 s) : Keeps q0 (postDup s q p) := by
  unfold postDup
  with_reducible repeat' (first | assumption | intro _ | apply keeps_postCpl | simp only [keeps_lit] | apply keeps_of | dsimp only | split)

theorem keeps_addRec {q0 : List Instr} (s0 : State) (r : JRec) (hs0 : Keeps q0 s0) : Keeps q0 (addRec s0 r) := by
  unfold addRec
  with_reducible repeat' (first | assumption | intro _ | apply keeps_journalPut | simp only [keeps_lit] | apply keeps_of | dsimp only | split)

theorem keeps_takeSeq {q0 : List Instr} (s : State) (q seq : Nat) (hs : Keeps q0 s) : Keeps q0 (takeSeq s q seq) := by
  unfold takeSeq
  with_reducible repeat' (first | assumption | intro _ | simp only [keeps_lit] | apply keeps_of | dsimp only | split)

theorem keeps_tookTurn {q0 : List Instr} (s : State) (q k : Nat) (hs : Keeps q0 s) : Keeps q0 (tookTurn s q k) := by
  unfold tookTurn
  with_reducible repeat' (first | assumption | intro _ | simp only [keeps_lit] | apply keeps_of | dsimp only | split)

theorem keeps_execCommandConsume {q0 : List Instr} (q : Nat) (ioOk : Bool) (s : State) (hs : Keeps q0 s) : KeepsOut q0 (execCommandConsume q ioOk s) := by
  unfold execCommandConsume
  with_reducible repeat' (first | assumption | intro _ | apply keepsOut_next | apply keeps_trace | apply keeps_setQueue | apply keeps_tookTurn | apply keeps_postDup | apply keeps_postCpl | apply keeps_recordUncorrected | apply keeps_addRec | apply keeps_mirrorStore | apply keeps_finish | apply keeps_takeSeq | simp only [keeps_lit] | apply keeps_of | dsimp only | split)

theorem keeps_execCommandAccept {q0 : List Instr} (q : Nat) (s : State) (hs : Keeps q0 s) : KeepsOut q0 (execCommandAccept q s) := by
  unfold execCommandAccept
  with_reducible repeat' (first | assumption | intro _ | apply keepsOut_next | apply keeps_takeSeq | apply keeps_modRec | apply keeps_finish | apply keeps_postCpl | simp only [keeps_lit] | apply keeps_of | dsimp only | split)

theorem keeps_execInterruptCoalesceTimer {q0 : List Instr} (q : Nat) (s : State) (hs : Keeps q0 s) : KeepsOut q0 (execInterruptCoalesceTimer q s) := by
  unfold execInterruptCoalesceTimer
  with_reducible repeat' (first | assumption | intro _ | apply keepsOut_next | apply keeps_signalVec | apply keeps_setQueue | simp only [keeps_lit] | apply keeps_of | dsimp only | split)

theorem keeps_aqWrite {q0 : List Instr} (s : State) (v : W64) (hs : Keeps q0 s) : Keeps q0 (aqWrite s v) := by
  unfold aqWrite
  with_reducible repeat' (first | assumption | intro _ | simp only [keeps_lit] | apply keeps_of | dsimp only | split)

theorem keeps_orphanEnds {q0 : List Instr} (s : State) (hs : Keeps q0 s) : Keeps q0 (orphanEnds s) := by
  unfold orphanEnds
  with_reducible repeat' (first | assumption | intro _ | apply keeps_trace | simp only [keeps_lit] | apply keeps_of | dsimp only | split)

theorem keeps_execAdminQueueEnable {q0 : List Instr} (value : W64) (s : State) (hs : Keeps q0 s) : KeepsOut q0 (execAdminQueueEnable value s) := by
  unfold execAdminQueueEnable
  with_reducible repeat' (first | assumption | intro _ | apply keepsOut_next | apply keeps_aqWrite | apply keeps_createQueue | apply keeps_orphanEnds | simp only [keeps_lit] | apply keeps_of | dsimp only | split)

theorem keeps_execAdminQueueDelete {q0 : List Instr} (value : W64) (s : State) (hs : Keeps q0 s) : KeepsOut q0 (execAdminQueueDelete value s) := by
  unfold execAdminQueueDelete
  with_reducible repeat' (first | assumption | intro _ | apply keepsOut_next | apply keeps_aqWrite | apply keeps_dropQueue | simp only [keeps_lit] | apply keeps_of | dsimp only | split)

theorem keeps_execBusMasteringEnable {q0 : List Instr} (s : State) (hs : Keeps q0 s) : KeepsOut q0 (execBusMasteringEnable s) := by
  unfold execBusMasteringEnable
  with_reducible repeat' (first | assumption | intro _ | apply keepsOut_next | simp only [keeps_lit] | apply keeps_of | dsimp only | split)

end Sys2Proof.Machine
end

