-- ==== Sys2Proof/Laws/KeepsKernels.lean ====
section
/-!
SUPPORT. Every state that a definition of Machine/Kernels.lean answers keeps the canonical form of both memories, the beat and the queue.
-/
set_option linter.unusedTactic false
set_option linter.unreachableTactic false
set_option linter.unusedVariables false
set_option linter.unusedSimpArgs false
namespace Sys2Proof.Machine

theorem keeps_dropTag {q0 : List Instr} (s : State) (tag : Nat) (hs : Keeps q0 s) : Keeps q0 (dropTag s tag) := by
  unfold dropTag
  with_reducible repeat' (first | assumption | intro _ | apply keeps_modTile | simp only [keeps_lit] | apply keeps_of | dsimp only | split)

theorem keeps_walkDma {q0 : List Instr} (s : State) (t c : Nat) (o : DmaOp) (op : Nat) (hs : Keeps q0 s) : Keeps q0 (walkDma s t c o op) := by
  unfold walkDma
  with_reducible repeat' (first | assumption | intro _ | apply keeps_slotOp | simp only [keeps_lit] | apply keeps_of | dsimp only | split)

theorem keeps_walkSlots {q0 : List Instr} (s : State) (t c : Nat) (b : BitVec 256) (hs : Keeps q0 s) : Keeps q0 (walkSlots s t c b) := by
  unfold walkSlots
  refine keeps_foldl _ _ (fun x d h => ?_) hs
  with_reducible repeat' (first | assumption | apply keeps_walkDma | (refine keeps_of_next (keeps_slotExec _ _ ?_) (by assumption)) | split)


theorem keeps_joinImage {q0 : List Instr} (s : State) (dies : List Nat) (kindex : Nat) (im : Image) (hs : Keeps q0 s) : Keeps q0 (joinImage s dies kindex im) := by
  unfold joinImage
  with_reducible repeat' (first | assumption | intro _ | refine keeps_foldl _ _ ?_ ?_ | simp only [keeps_lit] | apply keeps_of | dsimp only | split)

theorem keeps_execKernelLoad {q0 : List Instr} (q seq : Nat) (s : State) (hs : Keeps q0 s) : KeepsOut q0 (execKernelLoad q seq s) := by
  unfold execKernelLoad
  with_reducible repeat' (first | assumption | intro _ | apply keepsOut_next | apply keeps_withCmd | apply keeps_finish | apply keeps_recordUncorrected | apply keeps_joinImage | simp only [keeps_lit] | apply keeps_of | dsimp only | split)

end Sys2Proof.Machine
end

