-- ==== Sys2Proof/Laws/KeepsLaunch.lean ====
section
/-!
SUPPORT. Every state that a definition of Machine/Launch.lean answers keeps the canonical form of both memories, the beat and the queue.
-/
set_option linter.unusedTactic false
set_option linter.unreachableTactic false
set_option linter.unusedVariables false
set_option linter.unusedSimpArgs false
namespace Sys2Proof.Machine

theorem keeps_setJob {q0 : List Instr} (s : State) (j : Job) (hs : Keeps q0 s) : Keeps q0 (setJob s j) := by
  unfold setJob
  with_reducible repeat' (first | assumption | intro _ | simp only [keeps_lit] | apply keeps_of | dsimp only | split)

theorem keeps_execPlanLaunch {q0 : List Instr} (q seq : Nat) (s : State) (hs : Keeps q0 s) : KeepsOut q0 (execPlanLaunch q seq s) := by
  unfold execPlanLaunch
  with_reducible repeat' (first | assumption | intro _ | apply keepsOut_next | apply keeps_withCmd | apply keeps_finish | simp only [keeps_lit] | apply keeps_of | dsimp only | split)

theorem keeps_barrierAtomic {q0 : List Instr} (s : State) (j : Job) (addr sub operand : Nat) (hs : Keeps q0 s) : Keeps q0 (barrierAtomic s j addr sub operand) := by
  unfold barrierAtomic
  with_reducible repeat' (first | assumption | intro _ | apply keeps_devWrite | apply keeps_issueReq | simp only [keeps_lit] | apply keeps_of | dsimp only | split)

theorem keeps_reportStep {q0 : List Instr} (s : State) (j : Job) (hs : Keeps q0 s) : Keeps q0 (reportStep s j) := by
  unfold reportStep
  with_reducible repeat' (first | assumption | intro _ | apply keeps_barrierAtomic | simp only [keeps_lit] | apply keeps_of | dsimp only | split)

theorem keeps_writeLate {q0 : List Instr} (s : State) (j : Job) (hs : Keeps q0 s) : Keeps q0 (writeLate s j) := by
  unfold writeLate
  with_reducible repeat' (first | assumption | intro _ | apply keeps_State_takeFree | apply keeps_devWrite | simp only [keeps_lit] | apply keeps_of | dsimp only | split)

theorem keeps_launchStep {q0 : List Instr} (s : State) (j : Job) (len : Nat) (waited : Bool) (named : Option Nat) (hs : Keeps q0 s) : Keeps q0 (launchStep s j len waited named) := by
  unfold launchStep
  with_reducible repeat' (first | assumption | intro _ | apply keeps_setJob | simp only [keeps_lit] | apply keeps_of | dsimp only | split)

theorem keeps_execJobStepLaunch {q0 : List Instr} (q seq : Nat) (last : Bool) (len : Nat) (word0 word1 : W64) (s : State) (hs : Keeps q0 s) : KeepsOut q0 (execJobStepLaunch q seq last len word0 word1 s) := by
  unfold execJobStepLaunch
  with_reducible repeat' (first | assumption | intro _ | apply keepsOut_next | apply keeps_writeLate | apply keeps_finish | apply keeps_reportStep | apply keeps_setJob | apply keeps_launchStep | simp only [keeps_lit] | apply keeps_of | dsimp only | split)

theorem keeps_execBarrierTimeout {q0 : List Instr} (q seq : Nat) (s : State) (hs : Keeps q0 s) : KeepsOut q0 (execBarrierTimeout q seq s) := by
  unfold execBarrierTimeout
  with_reducible repeat' (first | assumption | intro _ | apply keepsOut_next | apply keeps_finish | simp only [keeps_lit] | apply keeps_of | dsimp only | split)

end Sys2Proof.Machine
end

