-- ==== Sys2Proof/Laws/KeepsRegView.lean ====
section
/-!
SUPPORT. Every state that a definition of Machine/RegView.lean answers keeps the canonical form of both memories, the beat and the queue.
-/
set_option linter.unusedTactic false
set_option linter.unreachableTactic false
set_option linter.unusedVariables false
set_option linter.unusedSimpArgs false
namespace Sys2Proof.Machine

theorem keeps_setMbx {q0 : List Instr} (s : State) (p : Nat) (x : Page) (hs : Keeps q0 s) : Keeps q0 (setMbx s p x) := by
  unfold setMbx
  with_reducible repeat' (first | assumption | intro _ | simp only [keeps_lit] | apply keeps_of | dsimp only | split)

theorem keeps_afterRead {q0 : List Instr} (s : State) (o : Nat) (hs : Keeps q0 s) : Keeps q0 (afterRead s o) := by
  unfold afterRead
  with_reducible repeat' (first | assumption | intro _ | simp only [keeps_lit] | apply keeps_of | dsimp only | split)

end Sys2Proof.Machine
end

