-- ==== Sys2Proof/Laws/KeepsMailbox.lean ====
section
/-!
SUPPORT. Every state that a definition of Machine/Mailbox.lean answers keeps the canonical form of both memories, the beat and the queue.
-/
set_option linter.unusedTactic false
set_option linter.unreachableTactic false
set_option linter.unusedVariables false
set_option linter.unusedSimpArgs false
namespace Sys2Proof.Machine

theorem keeps_execNoticeSend {q0 : List Instr} (page : Nat) (value : W32) (s : State) (hs : Keeps q0 s) : KeepsOut q0 (execNoticeSend page value s) := by
  unfold execNoticeSend
  with_reducible repeat' (first | assumption | intro _ | apply keepsOut_next | apply keeps_setMbx | simp only [keeps_lit] | apply keeps_of | dsimp only | split)

theorem keeps_notify {q0 : List Instr} (s : State) (p : Nat) (hs : Keeps q0 s) : Keeps q0 (notify s p) := by
  unfold notify
  with_reducible repeat' (first | assumption | intro _ | apply keeps_postCpl | simp only [keeps_lit] | apply keeps_of | dsimp only | split)

theorem keeps_ringNotice {q0 : List Instr} (s : State) (p : Nat) (n : BitVec 512) (hs : Keeps q0 s) : Keeps q0 (ringNotice s p n) := by
  unfold ringNotice
  with_reducible repeat' (first | assumption | intro _ | apply keeps_notify | apply keeps_setMbx | simp only [keeps_lit] | apply keeps_of | dsimp only | split)

theorem keeps_execNoticeDeliver {q0 : List Instr} (page : Nat) (s : State) (hs : Keeps q0 s) : KeepsOut q0 (execNoticeDeliver page s) := by
  unfold execNoticeDeliver
  with_reducible repeat' (first | assumption | intro _ | apply keepsOut_next | apply keeps_ringNotice | apply keeps_setMbx | simp only [keeps_lit] | apply keeps_of | dsimp only | split)

theorem keeps_execNoticeTimeout {q0 : List Instr} (page : Nat) (s : State) (hs : Keeps q0 s) : KeepsOut q0 (execNoticeTimeout page s) := by
  unfold execNoticeTimeout
  with_reducible repeat' (first | assumption | intro _ | apply keepsOut_next | apply keeps_setMbx | simp only [keeps_lit] | apply keeps_of | dsimp only | split)

theorem keeps_execSlcRxHeadWrite {q0 : List Instr} (page : Nat) (value : W32) (s : State) (hs : Keeps q0 s) : KeepsOut q0 (execSlcRxHeadWrite page value s) := by
  unfold execSlcRxHeadWrite
  with_reducible repeat' (first | assumption | intro _ | apply keepsOut_next | apply keeps_setMbx | simp only [keeps_lit] | apply keeps_of | dsimp only | split)

theorem keeps_mbxGrantApply {q0 : List Instr} (r : JRec) (s : State) (hs : Keeps q0 s) : Keeps q0 (mbxGrantApply r s) := by
  unfold mbxGrantApply
  with_reducible repeat' (first | assumption | intro _ | simp only [keeps_lit] | apply keeps_of | dsimp only | split)

theorem keeps_execMbxGrant {q0 : List Instr} (q seq : Nat) (s : State) (hs : Keeps q0 s) : KeepsOut q0 (execMbxGrant q seq s) := by
  unfold execMbxGrant
  with_reducible repeat' (first | assumption | intro _ | apply keepsOut_next | apply keeps_withSeamCmd | simp only [keeps_lit] | apply keeps_of | dsimp only | split)

end Sys2Proof.Machine
end

