-- ==== Sys2Proof/Laws/KeepsMem.lean ====
section
/-!
SUPPORT. Every state that a definition of Machine/Mem.lean answers keeps the canonical form of both memories, the beat and the queue.
-/
set_option linter.unusedTactic false
set_option linter.unreachableTactic false
set_option linter.unusedVariables false
set_option linter.unusedSimpArgs false
namespace Sys2Proof.Machine

theorem keeps_execChannelLost {q0 : List Instr} (ch : Nat) (s : State) (hs : Keeps q0 s) : KeepsOut q0 (execChannelLost ch s) := by
  unfold execChannelLost
  with_reducible repeat' (first | assumption | intro _ | apply keepsOut_next | apply keeps_deviceFail | apply keeps_recordEvent | apply keeps_latchAttn | simp only [keeps_lit] | apply keeps_of | dsimp only | split)

theorem keeps_execPatrolScrub {q0 : List Instr} (line : Nat) (corrected uncorrected raced : Bool) (s0 : State) (hs0 : Keeps q0 s0) : KeepsOut q0 (execPatrolScrub line corrected uncorrected raced s0) := by
  unfold execPatrolScrub
  with_reducible repeat' (first | assumption | intro _ | apply keepsOut_next | apply keeps_noteReads | apply keeps_recordEvent | apply keeps_poisonLine | apply keeps_devPut | simp only [keeps_lit] | apply keeps_of | dsimp only | split)

theorem keeps_execHostMemRead {q0 : List Instr} (addr len : Nat) (s : State) (hs : Keeps q0 s) : KeepsOut q0 (execHostMemRead addr len s) := by
  unfold execHostMemRead
  with_reducible repeat' (first | assumption | intro _ | apply keepsOut_next | apply keeps_recordUncorrected | apply keeps_noteReads | simp only [keeps_lit] | apply keeps_of | dsimp only | split)

theorem keeps_execHostMemWrite {q0 : List Instr} (addr : Nat) (bytes : List Byte) (s : State) (hs : Keeps q0 s) : KeepsOut q0 (execHostMemWrite addr bytes s) := by
  unfold execHostMemWrite
  with_reducible repeat' (first | assumption | intro _ | apply keepsOut_next | apply keeps_recordEvent | apply keeps_devWrite | simp only [keeps_lit] | apply keeps_of | dsimp only | split)

theorem keeps_execBiasSet {q0 : List Instr} (q seq : Nat) (s : State) (hs : Keeps q0 s) : KeepsOut q0 (execBiasSet q seq s) := by
  unfold execBiasSet
  with_reducible repeat' (first | assumption | intro _ | apply keepsOut_next | apply keeps_withCmd | apply keeps_finish | apply keeps_modRec | simp only [keeps_lit] | apply keeps_of | dsimp only | split)

theorem keeps_execPoolSet {q0 : List Instr} (q seq : Nat) (s : State) (hs : Keeps q0 s) : KeepsOut q0 (execPoolSet q seq s) := by
  unfold execPoolSet
  with_reducible repeat' (first | assumption | intro _ | apply keepsOut_next | apply keeps_withCmd | apply keeps_poolSet | apply keeps_finish | simp only [keeps_lit] | apply keeps_of | dsimp only | split)

end Sys2Proof.Machine
end

