-- ==== Sys2Proof/Laws/KeepsServing.lean ====
section
/-!
SUPPORT. Every state that a definition of Machine/Serving.lean answers keeps the canonical form of both memories, the beat and the queue.
-/
set_option linter.unusedTactic false
set_option linter.unreachableTactic false
set_option linter.unusedVariables false
set_option linter.unusedSimpArgs false
namespace Sys2Proof.Machine

theorem keeps_execReclaim {q0 : List Instr} (pool waiter : Nat) (s : State) (hs : Keeps q0 s) : KeepsOut q0 (execReclaim pool waiter s) := by
  unfold execReclaim
  with_reducible repeat' (first | assumption | intro _ | apply keepsOut_next | apply keeps_chooseVictim | apply keeps_reclaimStep | simp only [keeps_lit] | apply keeps_of | dsimp only | split)

theorem keeps_returnPage {q0 : List Instr} (s0 : State) (pool : Nat) (x : Nat × Nat × Nat) (hs0 : Keeps q0 s0) : Keeps q0 (returnPage s0 pool x) := by
  unfold returnPage
  with_reducible repeat' (first | assumption | intro _ | apply keeps_moveRead | apply keeps_moveLost | apply keeps_grantLocal | apply keeps_rehome | apply keeps_copyPage | simp only [keeps_lit] | apply keeps_of | dsimp only | split)

theorem keeps_leaveSwap {q0 : List Instr} (s : State) (i : Nat) (hs : Keeps q0 s) : Keeps q0 (leaveSwap s i) := by
  unfold leaveSwap
  with_reducible repeat' (first | assumption | intro _ | refine keeps_foldl _ _ ?_ ?_ | apply keeps_setReq | simp only [keeps_lit] | apply keeps_of | dsimp only | split)

theorem keeps_execSwapReturn {q0 : List Instr} (pool : Nat) (s : State) (hs : Keeps q0 s) : KeepsOut q0 (execSwapReturn pool s) := by
  unfold execSwapReturn
  with_reducible repeat' (first | assumption | intro _ | apply keepsOut_next | refine keeps_foldl _ _ ?_ ?_ | apply keeps_setReq | apply keeps_returnPage | apply keeps_leaveSwap | simp only [keeps_lit] | apply keeps_of | dsimp only | split)

theorem keeps_execDeadlineRule {q0 : List Instr} (pool : Nat) (s : State) (hs : Keeps q0 s) : KeepsOut q0 (execDeadlineRule pool s) := by
  unfold execDeadlineRule
  with_reducible repeat' (first | assumption | intro _ | apply keepsOut_next | apply keeps_addWait | apply keeps_askAbort | apply keeps_endReq | simp only [keeps_lit] | apply keeps_of | dsimp only | split)

theorem keeps_shareRun {q0 : List Instr} (pool : Nat) (z0 : List (Nat × Nat)) (z1 : State) (hz1 : Keeps q0 z1) : Keeps q0 (shareRun pool z0 z1).1 := by
  induction z0 generalizing z1 with
  | nil => unfold shareRun; with_reducible repeat' (first | assumption | intro _ | apply keeps_sharePage | apply keeps_releasePage | simp only [keeps_lit] | apply keeps_of | dsimp only | split)
  | cons a l ih =>
    unfold shareRun
    with_reducible repeat' (first | apply ih | (first | assumption | intro _ | apply keeps_sharePage | apply keeps_releasePage | simp only [keeps_lit] | apply keeps_of | dsimp only | split))


theorem keeps_takeRefs {q0 : List Instr} (s : State) (x : Req) (ver : Nat) (hs : Keeps q0 s) : Keeps q0 (takeRefs s x ver) := by
  unfold takeRefs
  with_reducible repeat' (first | assumption | intro _ | simp only [keeps_lit] | apply keeps_of | dsimp only | split)

theorem keeps_admitReq {q0 : List Instr} (s : State) (q seq slice i : Nat) (r : JRec) (x : Req) (run : List (Nat × Nat)) (hs : Keeps q0 s) : Keeps q0 (admitReq s q seq slice i r x run) := by
  unfold admitReq
  with_reducible repeat' (first | assumption | intro _ | refine keeps_foldl _ _ ?_ ?_ | apply keeps_usePrefix | apply keeps_takeRefs | apply keeps_setReq | simp only [keeps_lit] | apply keeps_of | dsimp only | split)

theorem keeps_admitNow {q0 : List Instr} (s : State) (r : JRec) (hs : Keeps q0 s) : Keeps q0 (admitNow s r) := by
  unfold admitNow
  with_reducible repeat' (first | assumption | intro _ | apply keeps_finish | apply keeps_recordUncorrected | apply keeps_shareRun | apply keeps_admitReq | simp only [keeps_lit] | apply keeps_of | dsimp only | split)

theorem keeps_execReqAdmit {q0 : List Instr} (q seq : Nat) (s : State) (hs : Keeps q0 s) : KeepsOut q0 (execReqAdmit q seq s) := by
  unfold execReqAdmit
  with_reducible repeat' (first | assumption | intro _ | apply keepsOut_next | apply keeps_withCmd | apply keeps_addWait | apply keeps_admitNow | simp only [keeps_lit] | apply keeps_of | dsimp only | split)

theorem keeps_execReqAbort {q0 : List Instr} (q seq : Nat) (s : State) (hs : Keeps q0 s) : KeepsOut q0 (execReqAbort q seq s) := by
  unfold execReqAbort
  with_reducible repeat' (first | assumption | intro _ | apply keepsOut_next | apply keeps_withCmd | apply keeps_withReq | apply keeps_addWait | apply keeps_askAbort | apply keeps_abortNow | simp only [keeps_lit] | apply keeps_of | dsimp only | split)

theorem keeps_execReqQuery {q0 : List Instr} (q seq : Nat) (s : State) (hs : Keeps q0 s) : KeepsOut q0 (execReqQuery q seq s) := by
  unfold execReqQuery
  with_reducible repeat' (first | assumption | intro _ | apply keepsOut_next | apply keeps_withCmd | apply keeps_withReq | apply keeps_finishWith | simp only [keeps_lit] | apply keeps_of | dsimp only | split)

theorem keeps_execStepCompose {q0 : List Instr} (slice pool : Nat) (work : StepWork) (s : State) (hs : Keeps q0 s) : KeepsOut q0 (execStepCompose slice pool work s) := by
  have hk : ∀ (cfg : StepCfg) (l : List Nat) (c : Compose), Keeps q0 c.st → Keeps q0 (l.foldl (pickOne cfg work.drafts) c).st := by
    intro cfg l
    induction l with
    | nil => exact fun _ h => h
    | cons a l ih => exact fun c h => ih _ (keeps_pickOne _ _ _ _ h)
  unfold execStepCompose
  with_reducible repeat' (first | apply hk | (first | assumption | intro _ | apply keepsOut_next | refine keeps_foldl _ _ ?_ ?_ | apply keeps_wakeAll | apply keeps_pickOne | apply keeps_placeTable | simp only [keeps_lit] | apply keeps_of | dsimp only | split))


theorem keeps_execStepCommit {q0 : List Instr} (slice pool : Nat) (rows : List RowResult) (s : State) (hs : Keeps q0 s) : KeepsOut q0 (execStepCommit slice pool rows s) := by
  unfold execStepCommit
  with_reducible repeat' (first | assumption | intro _ | apply keepsOut_next | refine keeps_foldl _ _ ?_ ?_ | apply keeps_commitRow | apply keeps_applyWait | apply keeps_admitNow | apply keeps_swapOut | simp only [keeps_lit] | apply keeps_of | dsimp only | split)

theorem keeps_serveCfgApply {q0 : List Instr} (r : JRec) (s : State) (hs : Keeps q0 s) : Keeps q0 (serveCfgApply r s) := by
  unfold serveCfgApply
  with_reducible repeat' (first | assumption | intro _ | simp only [keeps_lit] | apply keeps_of | dsimp only | split)

theorem keeps_execServeCfg {q0 : List Instr} (q seq : Nat) (s : State) (hs : Keeps q0 s) : KeepsOut q0 (execServeCfg q seq s) := by
  unfold execServeCfg
  with_reducible repeat' (first | assumption | intro _ | apply keepsOut_next | apply keeps_withSeamCmd | simp only [keeps_lit] | apply keeps_of | dsimp only | split)

theorem keeps_budgetSetApply {q0 : List Instr} (r : JRec) (s : State) (hs : Keeps q0 s) : Keeps q0 (budgetSetApply r s) := by
  unfold budgetSetApply
  with_reducible repeat' (first | assumption | intro _ | simp only [keeps_lit] | apply keeps_of | dsimp only | split)

theorem keeps_execBudgetSet {q0 : List Instr} (q seq : Nat) (s : State) (hs : Keeps q0 s) : KeepsOut q0 (execBudgetSet q seq s) := by
  unfold execBudgetSet
  with_reducible repeat' (first | assumption | intro _ | apply keepsOut_next | apply keeps_withSeamCmd | simp only [keeps_lit] | apply keeps_of | dsimp only | split)

theorem keeps_budgetSeam {q0 : List Instr} (s : State) (hs : Keeps q0 s) : Keeps q0 (budgetSeam s) := by
  unfold budgetSeam
  with_reducible repeat' (first | assumption | intro _ | simp only [keeps_lit] | apply keeps_of | dsimp only | split)

theorem keeps_execAdapterLoad {q0 : List Instr} (q seq : Nat) (s : State) (hs : Keeps q0 s) : KeepsOut q0 (execAdapterLoad q seq s) := by
  unfold execAdapterLoad
  with_reducible repeat' (first | assumption | intro _ | apply keepsOut_next | refine keeps_foldl _ _ ?_ ?_ | apply keeps_withCmd | apply keeps_finish | simp only [keeps_lit] | apply keeps_of | dsimp only | split)

theorem keeps_execAdapterCurrent {q0 : List Instr} (slot : Nat) (s : State) (hs : Keeps q0 s) : KeepsOut q0 (execAdapterCurrent slot s) := by
  unfold execAdapterCurrent
  with_reducible repeat' (first | assumption | intro _ | apply keepsOut_next | apply keeps_finish | apply keeps_recordUncorrected | simp only [keeps_lit] | apply keeps_of | dsimp only | split)

theorem keeps_execAdapterWithdraw {q0 : List Instr} (q seq : Nat) (s : State) (hs : Keeps q0 s) : KeepsOut q0 (execAdapterWithdraw q seq s) := by
  unfold execAdapterWithdraw
  with_reducible repeat' (first | assumption | intro _ | apply keepsOut_next | apply keeps_withCmd | apply keeps_finish | simp only [keeps_lit] | apply keeps_of | dsimp only | split)

theorem keeps_adapterSeam {q0 : List Instr} (s : State) (hs : Keeps q0 s) : Keeps q0 (adapterSeam s) := by
  unfold adapterSeam
  with_reducible repeat' (first | assumption | intro _ | simp only [keeps_lit] | apply keeps_of | dsimp only | split)

theorem keeps_execGrammarLoad {q0 : List Instr} (q seq : Nat) (s : State) (hs : Keeps q0 s) : KeepsOut q0 (execGrammarLoad q seq s) := by
  unfold execGrammarLoad
  with_reducible repeat' (first | assumption | intro _ | apply keepsOut_next | refine keeps_foldl _ _ ?_ ?_ | apply keeps_withCmd | apply keeps_finish | apply keeps_recordUncorrected | simp only [keeps_lit] | apply keeps_of | dsimp only | split)

theorem keeps_execGrammarUnload {q0 : List Instr} (q seq : Nat) (s : State) (hs : Keeps q0 s) : KeepsOut q0 (execGrammarUnload q seq s) := by
  unfold execGrammarUnload
  with_reducible repeat' (first | assumption | intro _ | apply keepsOut_next | apply keeps_withCmd | apply keeps_finish | simp only [keeps_lit] | apply keeps_of | dsimp only | split)

end Sys2Proof.Machine
end

