-- ==== Sys2Proof/Laws/KeepsMoves.lean ====
section
/-!
SUPPORT. Every state that a definition of Machine/Moves.lean answers keeps the canonical form of both memories, the beat and the queue.
-/
set_option linter.unusedTactic false
set_option linter.unreachableTactic false
set_option linter.unusedVariables false
set_option linter.unusedSimpArgs false
namespace Sys2Proof.Machine

theorem keeps_movePage {q0 : List Instr} (s : State) (slice pool : Nat) (held : Option PfxEntry) (k : Nat) (got : List Nat) (hs : Keeps q0 s) : Keeps q0 (movePage s slice pool held k got).1 := by
  unfold movePage
  with_reducible repeat' (first | assumption | intro _ | apply keeps_grantPage | apply keeps_sharePage | simp only [keeps_lit] | apply keeps_of | dsimp only | split)

theorem keeps_movePages {q0 : List Instr} (slice pool : Nat) (held : List (Option PfxEntry)) (z0 : List Nat) (z1 : List Nat) (z2 : State) (hz2 : Keeps q0 z2) : Keeps q0 (movePages slice pool held z0 z1 z2).1 := by
  induction z0 generalizing z1 z2 with
  | nil => unfold movePages; with_reducible repeat' (first | assumption | intro _ | apply keeps_movePage | apply keeps_releasePage | simp only [keeps_lit] | apply keeps_of | dsimp only | split)
  | cons a l ih =>
    unfold movePages
    with_reducible repeat' (first | apply ih | (first | assumption | intro _ | apply keeps_movePage | apply keeps_releasePage | simp only [keeps_lit] | apply keeps_of | dsimp only | split))


theorem keeps_replyReserve {q0 : List Instr} (s : State) (m : MoveReserve) (a : MoveReserved) (hs : Keeps q0 s) : Keeps q0 (replyReserve s m a) := by
  unfold replyReserve
  with_reducible repeat' (first | assumption | intro _ | apply keeps_sendMsg | simp only [keeps_lit] | apply keeps_of | dsimp only | split)

theorem keeps_refuseReserve {q0 : List Instr} (s : State) (m : MoveReserve) (st : Nat) (hs : Keeps q0 s) : Keeps q0 (refuseReserve s m st) := by
  unfold refuseReserve
  with_reducible repeat' (first | assumption | intro _ | apply keeps_replyReserve | simp only [keeps_lit] | apply keeps_of | dsimp only | split)

theorem keeps_recordMove {q0 : List Instr} (s : State) (m : MoveReserve) (i : Nat) (hs : Keeps q0 s) : Keeps q0 (recordMove s m i) := by
  unfold recordMove
  with_reducible repeat' (first | assumption | intro _ | apply keeps_modMove | simp only [keeps_lit] | apply keeps_of | dsimp only | split)

theorem keeps_clearMove {q0 : List Instr} (s : State) (m : MoveReserve) (hs : Keeps q0 s) : Keeps q0 (clearMove s m) := by
  unfold clearMove
  with_reducible repeat' (first | assumption | intro _ | apply keeps_abandonMove | simp only [keeps_lit] | apply keeps_of | dsimp only | split)

theorem keeps_execMoveReserve {q0 : List Instr} (m : MoveReserve) (s0 : State) (hs0 : Keeps q0 s0) : KeepsOut q0 (execMoveReserve m s0) := by
  unfold execMoveReserve
  extract_lets s ro
  have h : Keeps q0 s := keeps_clearMove _ _ (keeps_takeMsg _ _ _ hs0)
  have hr : ∀ x st, Keeps q0 x → KeepsOut q0 (.next (refuseReserve x m st)) := fun x st h => keeps_refuseReserve x m st h
  have hm : ∀ a b hd l tk, Keeps q0 (movePages a b hd l tk s).1 := fun a b hd l tk => keeps_movePages a b hd l tk s h
  split; · exact hs0
  iterate 7 (split; · exact hr _ _ h)
  extract_lets held pg slot
  split
  · exact hr _ _ (hm _ _ _ _ _)
  · extract_lets locs gs ga x s1
    split
    · exact hr _ _ (keeps_foldl _ _ (fun y e hy => keeps_releasePage y _ _ hy) (hm _ _ _ _ _))
    · refine keeps_replyReserve _ _ _ ?_
      have ha : Keeps q0 ga.1 := keeps_addGrants _ _ (hm _ _ _ _ _)
      have hs1 : Keeps q0 s1 := keeps_setReq _ _ _ (keeps_takeRefs _ _ _ ha)
      exact keeps_recordMove _ _ _ hs1


theorem keeps_journalCommit {q0 : List Instr} (s : State) (r : JRec) (hs : Keeps q0 s) : Keeps q0 (journalCommit s r) := by
  unfold journalCommit
  with_reducible repeat' (first | assumption | intro _ | refine keeps_foldl _ _ ?_ ?_ | apply keeps_journalPut | apply keeps_mirrorPiece | simp only [keeps_lit] | apply keeps_of | dsimp only | split)

theorem keeps_commitMove {q0 : List Instr} (s : State) (m : MoveRec) (b : List Byte) (hs : Keeps q0 s) : Keeps q0 (commitMove s m b) := by
  unfold commitMove
  exact keeps_answerMove _ _ _ _ _ (keeps_moveNotice _ _ _ _ _ _ (keeps_modMove _ _ _ _ _ (keeps_dropMoveGrants _ _ _ _
    (keeps_journalCommit _ _ (keeps_foldl _ _ (fun _ _ h => keeps_putPage _ _ _ _ _ h) (keeps_setReq _ _ _ hs))))))


theorem keeps_execMoveCommit {q0 : List Instr} (src idx gen : Nat) (entry : List Byte) (s0 : State) (hs0 : Keeps q0 s0) : KeepsOut q0 (execMoveCommit src idx gen entry s0) := by
  unfold execMoveCommit
  with_reducible repeat' (first | assumption | intro _ | apply keepsOut_next | apply keeps_takeMsg | apply keeps_answerMove | apply keeps_commitMove | apply keeps_abandonMove | simp only [keeps_lit] | apply keeps_of | dsimp only | split)

theorem keeps_resolveMove {q0 : List Instr} (s : State) (src idx gen : Nat) (hs : Keeps q0 s) : Keeps q0 (resolveMove s src idx gen) := by
  unfold resolveMove
  with_reducible repeat' (first | assumption | intro _ | apply keeps_answerMove | apply keeps_abandonMove | simp only [keeps_lit] | apply keeps_of | dsimp only | split)

theorem keeps_execMoveQuery {q0 : List Instr} (src idx gen : Nat) (s : State) (hs : Keeps q0 s) : KeepsOut q0 (execMoveQuery src idx gen s) := by
  unfold execMoveQuery
  with_reducible repeat' (first | assumption | intro _ | apply keepsOut_next | apply keeps_resolveMove | apply keeps_takeMsg | simp only [keeps_lit] | apply keeps_of | dsimp only | split)

theorem keeps_execMoveCancel {q0 : List Instr} (src idx gen : Nat) (s : State) (hs : Keeps q0 s) : KeepsOut q0 (execMoveCancel src idx gen s) := by
  unfold execMoveCancel
  with_reducible repeat' (first | assumption | intro _ | apply keepsOut_next | apply keeps_resolveMove | apply keeps_takeMsg | simp only [keeps_lit] | apply keeps_of | dsimp only | split)

theorem keeps_execMoveRelease {q0 : List Instr} (src idx gen : Nat) (s0 : State) (hs0 : Keeps q0 s0) : KeepsOut q0 (execMoveRelease src idx gen s0) := by
  unfold execMoveRelease
  with_reducible repeat' (first | assumption | intro _ | apply keepsOut_next | apply keeps_takeMsg | simp only [keeps_lit] | apply keeps_of | dsimp only | split)

theorem keeps_execMoveReserved {q0 : List Instr} (idx : Nat) (m : MoveReserved) (s0 : State) (hs0 : Keeps q0 s0) : KeepsOut q0 (execMoveReserved idx m s0) := by
  unfold execMoveReserved
  with_reducible repeat' (first | assumption | intro _ | apply keepsOut_next | apply keeps_dropStaleMsg | apply keeps_takeMsg | apply keeps_moveCopied | apply keeps_setSrc | apply keeps_sendReserve | apply keeps_revertMove | simp only [keeps_lit] | apply keeps_of | dsimp only | split)

theorem keeps_execMoveAnswer {q0 : List Instr} (idx gen : Nat) (committed : Bool) (s0 : State) (hs0 : Keeps q0 s0) : KeepsOut q0 (execMoveAnswer idx gen committed s0) := by
  unfold execMoveAnswer
  with_reducible repeat' (first | assumption | intro _ | apply keepsOut_next | apply keeps_dropStaleMsg | apply keeps_takeMsg | apply keeps_sendMsg | apply keeps_dropSrc | apply keeps_freeReq | apply keeps_finishWith | apply keeps_revertMove | simp only [keeps_lit] | apply keeps_of | dsimp only | split)

theorem keeps_execMoveRetry {q0 : List Instr} (idx : Nat) (s : State) (hs : Keeps q0 s) : KeepsOut q0 (execMoveRetry idx s) := by
  unfold execMoveRetry
  with_reducible repeat' (first | assumption | intro _ | apply keepsOut_next | apply keeps_startMove | simp only [keeps_lit] | apply keeps_of | dsimp only | split)

theorem keeps_execMoveQueryTimer {q0 : List Instr} (idx : Nat) (s : State) (hs : Keeps q0 s) : KeepsOut q0 (execMoveQueryTimer idx s) := by
  unfold execMoveQueryTimer
  with_reducible repeat' (first | assumption | intro _ | apply keepsOut_next | apply keeps_sendQuery | simp only [keeps_lit] | apply keeps_of | dsimp only | split)

theorem keeps_execPeerLost {q0 : List Instr} (q seq : Nat) (s : State) (hs : Keeps q0 s) : KeepsOut q0 (execPeerLost q seq s) := by
  unfold execPeerLost
  with_reducible repeat' (first | assumption | intro _ | apply keepsOut_next | refine keeps_foldl _ _ ?_ ?_ | apply keeps_withCmd | apply keeps_finish | apply keeps_revertMove | apply keeps_abandonMove | simp only [keeps_lit] | apply keeps_of | dsimp only | split)

theorem keeps_roleSetApply {q0 : List Instr} (r : JRec) (s : State) (hs : Keeps q0 s) : Keeps q0 (roleSetApply r s) := by
  unfold roleSetApply
  with_reducible repeat' (first | assumption | intro _ | simp only [keeps_lit] | apply keeps_of | dsimp only | split)

theorem keeps_execRoleSet {q0 : List Instr} (q seq : Nat) (s : State) (hs : Keeps q0 s) : KeepsOut q0 (execRoleSet q seq s) := by
  unfold execRoleSet
  with_reducible repeat' (first | assumption | intro _ | apply keepsOut_next | apply keeps_withSeamCmd | simp only [keeps_lit] | apply keeps_of | dsimp only | split)

end Sys2Proof.Machine
end

