-- ==== Sys2Proof/Laws/KeepsPower.lean ====
section
/-!
SUPPORT. Every state that a definition of Machine/Power.lean answers keeps the canonical form of both memories, the beat and the queue.
-/
set_option linter.unusedTactic false
set_option linter.unreachableTactic false
set_option linter.unusedVariables false
set_option linter.unusedSimpArgs false
namespace Sys2Proof.Machine

theorem keeps_coldLoss {q0 : List Instr} (s : State) (hs : Keeps q0 s) : Keeps q0 (coldLoss s) := by
  exact ⟨rfl, hs.2.1, by show (0 : Nat) < 1250; decide, hs.2.2.2⟩


theorem keeps_lidShutdown {q0 : List Instr} (s : State) (hs : Keeps q0 s) : Keeps q0 (lidShutdown s) := by
  unfold lidShutdown
  with_reducible repeat' (first | assumption | intro _ | apply keeps_coldLoss | simp only [keeps_lit] | apply keeps_of | apply keepsAll_writeDev | apply keepsAll_writeHost | apply keepsAll_filterDev | dsimp only | split)

theorem keeps_execPowerUp {q0 : List Instr} (v : RailLevels) (s : State) (hs : Keeps q0 s) : KeepsOut q0 (execPowerUp v s) := by
  unfold execPowerUp
  repeat' first | exact hs | exact ⟨hs.1, hs.2.1, by show (0 : Nat) < 1250; decide, hs.2.2.2⟩ | split


theorem keeps_execPowerDown {q0 : List Instr} (s : State) (hs : Keeps q0 s) : KeepsOut q0 (execPowerDown s) := by
  unfold execPowerDown
  with_reducible repeat' (first | assumption | intro _ | apply keepsOut_next | apply keeps_coldLoss | simp only [keeps_lit] | apply keeps_of | apply keepsAll_writeDev | apply keepsAll_writeHost | apply keepsAll_filterDev | dsimp only | split)

theorem keeps_holdAll {q0 : List Instr} (s : State) (hs : Keeps q0 s) : Keeps q0 (holdAll s) := by
  unfold holdAll
  with_reducible repeat' (first | assumption | intro _ | apply keeps_latchAttn | simp only [keeps_lit] | apply keeps_of | apply keepsAll_writeDev | apply keepsAll_writeHost | apply keepsAll_filterDev | dsimp only | split)

theorem keeps_interruptIn {q0 : List Instr} (s : State) (hs : Keeps q0 s) : Keeps q0 (interruptIn s) := by
  unfold interruptIn
  with_reducible repeat' (first | assumption | intro _ | apply keeps_holdAll | apply keeps_recordEvent | simp only [keeps_lit] | apply keeps_of | apply keepsAll_writeDev | apply keepsAll_writeHost | apply keepsAll_filterDev | dsimp only | split)

theorem keeps_execBrownout {q0 : List Instr} (v : InputLevels) (s : State) (hs : Keeps q0 s) : KeepsOut q0 (execBrownout v s) := by
  unfold execBrownout
  with_reducible repeat' (first | assumption | intro _ | apply keepsOut_next | apply keeps_interruptIn | simp only [keeps_lit] | apply keeps_of | apply keepsAll_writeDev | apply keepsAll_writeHost | apply keepsAll_filterDev | dsimp only | split)

theorem keeps_execBrownoutShutdown {q0 : List Instr} (s : State) (hs : Keeps q0 s) : KeepsOut q0 (execBrownoutShutdown s) := by
  unfold execBrownoutShutdown
  with_reducible repeat' (first | assumption | intro _ | apply keepsOut_next | apply keeps_lidShutdown | simp only [keeps_lit] | apply keeps_of | apply keepsAll_writeDev | apply keepsAll_writeHost | apply keepsAll_filterDev | dsimp only | split)

theorem keeps_execOvervolt {q0 : List Instr} (v : InputLevels) (s : State) (hs : Keeps q0 s) : KeepsOut q0 (execOvervolt v s) := by
  unfold execOvervolt
  with_reducible repeat' (first | assumption | intro _ | apply keepsOut_next | apply keeps_interruptIn | apply keeps_recordEvent | simp only [keeps_lit] | apply keeps_of | apply keepsAll_writeDev | apply keepsAll_writeHost | apply keepsAll_filterDev | dsimp only | split)

theorem keeps_execOvervoltClear {q0 : List Instr} (vinMv : Nat) (s : State) (hs : Keeps q0 s) : KeepsOut q0 (execOvervoltClear vinMv s) := by
  unfold execOvervoltClear
  with_reducible repeat' (first | assumption | intro _ | apply keepsOut_next | simp only [keeps_lit] | apply keeps_of | apply keepsAll_writeDev | apply keepsAll_writeHost | apply keepsAll_filterDev | dsimp only | split)

theorem keeps_execCurrentWarning {q0 : List Instr} (die amps : Nat) (s : State) (hs : Keeps q0 s) : KeepsOut q0 (execCurrentWarning die amps s) := by
  unfold execCurrentWarning
  with_reducible repeat' (first | assumption | intro _ | apply keepsOut_next | apply keeps_latchAttn | simp only [keeps_lit] | apply keeps_of | apply keepsAll_writeDev | apply keepsAll_writeHost | apply keepsAll_filterDev | dsimp only | split)

theorem keeps_execRailTrip {q0 : List Instr} (rail : Nat) (s : State) (hs : Keeps q0 s) : KeepsOut q0 (execRailTrip rail s) := by
  unfold execRailTrip
  with_reducible repeat' (first | assumption | intro _ | apply keepsOut_next | apply keeps_lidShutdown | simp only [keeps_lit] | apply keeps_of | apply keepsAll_writeDev | apply keepsAll_writeHost | apply keepsAll_filterDev | dsimp only | split)

theorem keeps_execThermalSample {q0 : List Instr} (cd hd : List Int) (s : State) (hs : Keeps q0 s) : KeepsOut q0 (execThermalSample cd hd s) := by
  unfold execThermalSample
  with_reducible repeat' (first | assumption | intro _ | apply keepsOut_next | apply keeps_lidShutdown | apply keeps_latchAttn | simp only [keeps_lit] | apply keeps_of | apply keepsAll_writeDev | apply keepsAll_writeHost | apply keepsAll_filterDev | dsimp only | split)

theorem keeps_powerCapLand {q0 : List Instr} (r : JRec) (s : State) (hs : Keeps q0 s) : Keeps q0 (powerCapLand r s) := by
  unfold powerCapLand
  with_reducible repeat' (first | assumption | intro _ | simp only [keeps_lit] | apply keeps_of | apply keepsAll_writeDev | apply keepsAll_writeHost | apply keepsAll_filterDev | dsimp only | split)

theorem keeps_capNext {q0 : List Instr} (s : State) (hs : Keeps q0 s) : Keeps q0 (capNext s) := by
  unfold capNext
  with_reducible repeat' (first | assumption | intro _ | refine keeps_foldl _ _ ?_ ?_ | apply keeps_powerCapLand | simp only [keeps_lit] | apply keeps_of | apply keepsAll_writeDev | apply keepsAll_writeHost | apply keepsAll_filterDev | dsimp only | split)

theorem keeps_execGovernorDuty {q0 : List Instr} (inMw floorMw openMw beatsUsed : Nat) (s : State) (hs : Keeps q0 s) : KeepsOut q0 (execGovernorDuty inMw floorMw openMw beatsUsed s) := by
  unfold execGovernorDuty
  with_reducible repeat' (first | assumption | intro _ | apply keepsOut_next | refine keeps_foldl _ _ ?_ ?_ | apply keeps_capNext | apply keeps_recordEvent | apply keeps_latchAttn | simp only [keeps_lit] | apply keeps_of | apply keepsAll_writeDev | apply keepsAll_writeHost | apply keepsAll_filterDev | dsimp only | split)

theorem keeps_execTelemetryRecord {q0 : List Instr} (e : TelEnv) (s : State) (hs : Keeps q0 s) : KeepsOut q0 (execTelemetryRecord e s) := by
  unfold execTelemetryRecord
  with_reducible repeat' (first | assumption | intro _ | apply keepsOut_next | apply keeps_devPut | simp only [keeps_lit] | apply keeps_of | apply keepsAll_writeDev | apply keepsAll_writeHost | apply keepsAll_filterDev | dsimp only | split)

theorem keeps_powerCapAsk {q0 : List Instr} (r : JRec) (s : State) (hs : Keeps q0 s) : Keeps q0 (powerCapAsk r s) := by
  unfold powerCapAsk
  with_reducible repeat' (first | assumption | intro _ | apply keeps_landed | apply keeps_powerCapLand | simp only [keeps_lit] | apply keeps_of | apply keepsAll_writeDev | apply keepsAll_writeHost | apply keepsAll_filterDev | dsimp only | split)

theorem keeps_execPowerCap {q0 : List Instr} (q seq : Nat) (s : State) (hs : Keeps q0 s) : KeepsOut q0 (execPowerCap q seq s) := by
  unfold execPowerCap
  with_reducible repeat' (first | assumption | intro _ | apply keepsOut_next | apply keeps_withCmd | apply keeps_queueSeam | apply keeps_powerCapAsk | apply keeps_finishAt | simp only [keeps_lit] | apply keeps_of | apply keepsAll_writeDev | apply keepsAll_writeHost | apply keepsAll_filterDev | dsimp only | split)

theorem keeps_pwrStage {q0 : List Instr} (s : State) (hs : Keeps q0 s) : Keeps q0 (pwrStage s) := by
  unfold pwrStage
  with_reducible repeat' (first | assumption | intro _ | simp only [keeps_lit] | apply keeps_of | apply keepsAll_writeDev | apply keepsAll_writeHost | apply keepsAll_filterDev | dsimp only | split)

theorem keeps_pwrApply {q0 : List Instr} (s : State) (hs : Keeps q0 s) : Keeps q0 (pwrApply s) := by
  unfold pwrApply
  with_reducible repeat' (first | assumption | intro _ | simp only [keeps_lit] | apply keeps_of | apply keepsAll_writeDev | apply keepsAll_writeHost | apply keepsAll_filterDev | dsimp only | split)

theorem keeps_pwrSeam {q0 : List Instr} (s : State) (e : SeamEnv) (substituted : Bool) (hs : Keeps q0 s) : Keeps q0 (pwrSeam s e substituted) := by
  unfold pwrSeam
  with_reducible repeat' (first | assumption | intro _ | simp only [keeps_lit] | apply keeps_of | apply keepsAll_writeDev | apply keepsAll_writeHost | apply keepsAll_filterDev | dsimp only | split)

end Sys2Proof.Machine
end

