-- ==== Sys2Proof/Laws/KeepsPrefixes.lean ====
section
/-!
SUPPORT. Every state that a definition of Machine/Prefixes.lean answers keeps the canonical form of both memories, the beat and the queue.
-/
set_option linter.unusedTactic false
set_option linter.unreachableTactic false
set_option linter.unusedVariables false
set_option linter.unusedSimpArgs false
namespace Sys2Proof.Machine

theorem keeps_withPfx {q0 : List Instr} (s : State) (r : JRec) (tokens : Nat) (f : Nat → State) (hs : Keeps q0 s) (hf : ∀ y0, Keeps q0 (f y0)) : Keeps q0 (withPfx s r tokens f) := by
  unfold withPfx
  with_reducible repeat' (first | assumption | intro _ | apply keeps_finish | apply keeps_recordUncorrected | apply hf | simp only [keeps_lit] | apply keeps_of | dsimp only | split)

theorem keeps_addPfx {q0 : List Instr} (s : State) (o : PfxOp) (hs : Keeps q0 s) : Keeps q0 (addPfx s o) := by
  unfold addPfx
  with_reducible repeat' (first | assumption | intro _ | simp only [keeps_lit] | apply keeps_of | dsimp only | split)

theorem keeps_execPrefixLookup {q0 : List Instr} (q seq : Nat) (s : State) (hs : Keeps q0 s) : KeepsOut q0 (execPrefixLookup q seq s) := by
  unfold execPrefixLookup
  with_reducible repeat' (first | assumption | intro _ | apply keepsOut_next | refine keeps_foldl _ _ ?_ ?_ | apply keeps_withCmd | apply keeps_withPfx | apply keeps_finish | apply keeps_pfxUse | apply keeps_lookupSettle | apply keeps_sendMsgFor | apply keeps_addPfx | simp only [keeps_lit] | apply keeps_of | dsimp only | split)

theorem keeps_execPrefixFetch {q0 : List Instr} (q seq : Nat) (s : State) (hs : Keeps q0 s) : KeepsOut q0 (execPrefixFetch q seq s) := by
  unfold execPrefixFetch
  with_reducible repeat' (first | assumption | intro _ | apply keepsOut_next | apply keeps_withCmd | apply keeps_withPfx | apply keeps_finish | apply keeps_sendMsgFor | apply keeps_addPfx | simp only [keeps_lit] | apply keeps_of | dsimp only | split)

theorem keeps_holdFrames {q0 : List Instr} (pool : Nat) (z0 : List Nat) (z1 : State) (hz1 : Keeps q0 z1) : Keeps q0 (holdFrames pool z0 z1).1 := by
  induction z0 generalizing z1 with
  | nil => unfold holdFrames; with_reducible repeat' (first | assumption | intro _ | apply keeps_sharePage | apply keeps_releasePage | simp only [keeps_lit] | apply keeps_of | dsimp only | split)
  | cons a l ih =>
    unfold holdFrames
    with_reducible repeat' (first | apply ih | (first | assumption | intro _ | apply keeps_sharePage | apply keeps_releasePage | simp only [keeps_lit] | apply keeps_of | dsimp only | split))


theorem keeps_execPrefixPublish {q0 : List Instr} (q seq : Nat) (s : State) (hs : Keeps q0 s) : KeepsOut q0 (execPrefixPublish q seq s) := by
  unfold execPrefixPublish
  with_reducible repeat' (first | assumption | intro _ | apply keepsOut_next | apply keeps_withCmd | apply keeps_withPfx | apply keeps_finish | apply keeps_holdFrames | apply keeps_sendMsgFor | apply keeps_addPfx | simp only [keeps_lit] | apply keeps_of | dsimp only | split)

theorem keeps_replyHeld {q0 : List Instr} (s : State) (src q seq status depth lease : Nat) (pages : List (Nat × Nat)) (locs : List Nat) (hs : Keeps q0 s) : Keeps q0 (replyHeld s src q seq status depth lease pages locs) := by
  unfold replyHeld
  with_reducible repeat' (first | assumption | intro _ | apply keeps_sendMsg | simp only [keeps_lit] | apply keeps_of | dsimp only | split)

theorem keeps_execPrefixAsk {q0 : List Instr} (src q seq model p : Nat) (keys : List (List Byte)) (s0 : State) (hs0 : Keeps q0 s0) : KeepsOut q0 (execPrefixAsk src q seq model p keys s0) := by
  unfold execPrefixAsk
  with_reducible repeat' (first | assumption | intro _ | apply keepsOut_next | apply keeps_takeMsg | apply keeps_replyHeld | apply keeps_pfxUse | simp only [keeps_lit] | apply keeps_of | dsimp only | split)

theorem keeps_addLease {q0 : List Instr} (s : State) (l : PfxLease) (hs : Keeps q0 s) : Keeps q0 (addLease s l).1 := by
  unfold addLease
  with_reducible repeat' (first | assumption | intro _ | simp only [keeps_lit] | apply keeps_of | dsimp only | split)

theorem keeps_execPrefixPin {q0 : List Instr} (src q seq model p depth : Nat) (keys : List (List Byte)) (s0 : State) (hs0 : Keeps q0 s0) : KeepsOut q0 (execPrefixPin src q seq model p depth keys s0) := by
  unfold execPrefixPin
  with_reducible repeat' (first | assumption | intro _ | apply keepsOut_next | apply keeps_takeMsg | apply keeps_replyHeld | apply keeps_holdFrames | apply keeps_pfxUse | apply keeps_addLease | simp only [keeps_lit] | apply keeps_of | dsimp only | split)

theorem keeps_reclaimNow {q0 : List Instr} (s : State) (pool : Nat) (hs : Keeps q0 s) : Keeps q0 (reclaimNow s pool).1 := by
  unfold reclaimNow
  with_reducible repeat' (first | assumption | intro _ | apply keeps_pfxRemove | apply keeps_demotePage | simp only [keeps_lit] | apply keeps_of | dsimp only | split)

theorem keeps_cacheGrant {q0 : List Instr} (pool k : Nat) (z0 : Nat) (z1 : State) (hz1 : Keeps q0 z1) : Keeps q0 (cacheGrant pool k z0 z1).1 := by
  induction z0 generalizing z1 with
  | zero => unfold cacheGrant; with_reducible repeat' (first | assumption | intro _ | apply keeps_grantPage | apply keeps_reclaimNow | simp only [keeps_lit] | apply keeps_of | dsimp only | split)
  | succ n ih =>
    unfold cacheGrant
    with_reducible repeat' (first | apply ih | (first | assumption | intro _ | apply keeps_grantPage | apply keeps_reclaimNow | simp only [keeps_lit] | apply keeps_of | dsimp only | split))


theorem keeps_offerFrames {q0 : List Instr} (cache : Bool) (pool : Nat) (z0 : List Nat) (z1 : State) (hz1 : Keeps q0 z1) : Keeps q0 (offerFrames cache pool z0 z1).1 := by
  induction z0 generalizing z1 with
  | nil => unfold offerFrames; with_reducible repeat' (first | assumption | intro _ | apply keeps_cacheGrant | apply keeps_releasePage | simp only [keeps_lit] | apply keeps_of | dsimp only | split)
  | cons a l ih =>
    unfold offerFrames
    with_reducible repeat' (first | apply ih | (first | assumption | intro _ | apply keeps_cacheGrant | apply keeps_releasePage | simp only [keeps_lit] | apply keeps_of | dsimp only | split))


theorem keeps_execPrefixOffer {q0 : List Instr} (src q seq model p depth : Nat) (keys : List (List Byte)) (s0 : State) (hs0 : Keeps q0 s0) : KeepsOut q0 (execPrefixOffer src q seq model p depth keys s0) := by
  unfold execPrefixOffer
  with_reducible repeat' (first | assumption | intro _ | apply keepsOut_next | refine keeps_foldl _ _ ?_ ?_ | apply keeps_takeMsg | apply keeps_replyHeld | apply keeps_offerFrames | apply keeps_addLease | apply keeps_addGrants | apply keeps_releasePage | simp only [keeps_lit] | apply keeps_of | dsimp only | split)

theorem keeps_endLease {q0 : List Instr} (s : State) (n : Nat) (l : PfxLease) (hs : Keeps q0 s) : Keeps q0 (endLease s n l) := by
  unfold endLease
  with_reducible repeat' (first | assumption | intro _ | refine keeps_foldl _ _ ?_ ?_ | apply keeps_dropGrants | apply keeps_releasePage | simp only [keeps_lit] | apply keeps_of | dsimp only | split)

theorem keeps_execPrefixUnpin {q0 : List Instr} (src lease : Nat) (s0 : State) (hs0 : Keeps q0 s0) : KeepsOut q0 (execPrefixUnpin src lease s0) := by
  unfold execPrefixUnpin
  with_reducible repeat' (first | assumption | intro _ | apply keepsOut_next | refine keeps_foldl _ _ ?_ ?_ | apply keeps_takeMsg | apply keeps_pfxInsert | apply keeps_endLease | simp only [keeps_lit] | apply keeps_of | dsimp only | split)

theorem keeps_fetchStart {q0 : List Instr} (s : State) (o : PfxOp) (locs : List Nat) (hs : Keeps q0 s) : Keeps q0 (fetchStart s o locs) := by
  unfold fetchStart
  with_reducible repeat' (first | assumption | intro _ | apply keeps_offerFrames | apply keeps_pfxFail | apply keeps_setPfx | simp only [keeps_lit] | apply keeps_of | dsimp only | split)

theorem keeps_execPrefixHeld {q0 : List Instr} (src q seq status depth lease : Nat) (pages : List (Nat × Nat)) (locs : List Nat) (s0 : State) (hs0 : Keeps q0 s0) : KeepsOut q0 (execPrefixHeld src q seq status depth lease pages locs s0) := by
  unfold execPrefixHeld
  with_reducible repeat' (first | assumption | intro _ | apply keepsOut_next | apply keeps_takeMsg | apply keeps_lookupAnswer | apply keeps_pfxFail | apply keeps_fetchStart | apply keeps_setPfx | simp only [keeps_lit] | apply keeps_of | dsimp only | split)

theorem keeps_execPrefixLeaseExpiry {q0 : List Instr} (lease : Nat) (s : State) (hs : Keeps q0 s) : KeepsOut q0 (execPrefixLeaseExpiry lease s) := by
  unfold execPrefixLeaseExpiry
  with_reducible repeat' (first | assumption | intro _ | apply keepsOut_next | refine keeps_foldl _ _ ?_ ?_ | apply keeps_endLease | apply keeps_pfxFail | simp only [keeps_lit] | apply keeps_of | dsimp only | split)

end Sys2Proof.Machine
end

