-- ==== Sys2Proof/Laws/KeepsRadio.lean ====
section
/-!
SUPPORT. Every state that a definition of Machine/Radio.lean answers keeps the canonical form of both memories, the beat and the queue.
-/
set_option linter.unusedTactic false
set_option linter.unreachableTactic false
set_option linter.unusedVariables false
set_option linter.unusedSimpArgs false
namespace Sys2Proof.Machine

theorem keeps_takeFapi {q0 : List Instr} (s : State) (phy : Nat) (id : Option Nat) (f : Nat → List Byte → State → State) (hs : Keeps q0 s) (hf : ∀ y0 y1 y2, Keeps q0 y2 → Keeps q0 (f y0 y1 y2)) : Keeps q0 (takeFapi s phy id f) := by
  unfold takeFapi
  with_reducible repeat' (first | assumption | intro _ | apply hf | simp only [keeps_lit] | apply keeps_of | dsimp only | split)

theorem keeps_withCell {q0 : List Instr} (s : State) (m : FapiMsg) (id : Nat) (f : Nat → List Byte → State → State) (hs : Keeps q0 s) (hf : ∀ y0 y1 y2, Keeps q0 y2 → Keeps q0 (f y0 y1 y2)) : Keeps q0 (withCell s m id f) := by
  unfold withCell
  with_reducible repeat' (first | assumption | intro _ | apply keeps_takeFapi | apply keeps_modCell | apply keeps_errInd | apply hf | simp only [keeps_lit] | apply keeps_of | dsimp only | split)

theorem keeps_whileIdle {q0 : List Instr} (s : State) (m : FapiMsg) (id : Nat) (f : List Byte → State → State) (hs : Keeps q0 s) (hf : ∀ y0 y1, Keeps q0 y1 → Keeps q0 (f y0 y1)) : Keeps q0 (whileIdle s m id f) := by
  unfold whileIdle
  with_reducible repeat' (first | assumption | intro _ | apply keeps_withCell | apply keeps_errInd | apply hf | simp only [keeps_lit] | apply keeps_of | dsimp only | split)

theorem keeps_respInd {q0 : List Instr} (s : State) (m : FapiMsg) (k : IndKind) (e : FapiErr) (hs : Keeps q0 s) : Keeps q0 (respInd s m k e) := by
  unfold respInd
  with_reducible repeat' (first | assumption | intro _ | apply keeps_postInd | simp only [keeps_lit] | apply keeps_of | dsimp only | split)

theorem keeps_execParamRequest {q0 : List Instr} (m : FapiMsg) (s : State) (hs : Keeps q0 s) : KeepsOut q0 (execParamRequest m s) := by
  unfold execParamRequest
  with_reducible repeat' (first | assumption | intro _ | apply keepsOut_next | apply keeps_takeFapi | apply keeps_respInd | simp only [keeps_lit] | apply keeps_of | dsimp only | split)

theorem keeps_execConfigRequest {q0 : List Instr} (m : FapiMsg) (cfg : CellConfig) (s : State) (hs : Keeps q0 s) : KeepsOut q0 (execConfigRequest m cfg s) := by
  unfold execConfigRequest
  with_reducible repeat' (first | assumption | intro _ | apply keepsOut_next | apply keeps_whileIdle | apply keeps_respInd | apply keeps_cellSet | simp only [keeps_lit] | apply keeps_of | dsimp only | split)

theorem keeps_execCellBindRequest {q0 : List Instr} (phy cell : Nat) (s : State) (hs : Keeps q0 s) : KeepsOut q0 (execCellBindRequest phy cell s) := by
  unfold execCellBindRequest
  with_reducible repeat' (first | assumption | intro _ | apply keepsOut_next | apply keeps_whileIdle | apply keeps_respInd | apply keeps_cellSet | simp only [keeps_lit] | apply keeps_of | dsimp only | split)

theorem keeps_execTwilightCfgRequest {q0 : List Instr} (phy cell : Nat) (s : State) (hs : Keeps q0 s) : KeepsOut q0 (execTwilightCfgRequest phy cell s) := by
  unfold execTwilightCfgRequest
  with_reducible repeat' (first | assumption | intro _ | apply keepsOut_next | apply keeps_whileIdle | apply keeps_respInd | apply keeps_cellSet | simp only [keeps_lit] | apply keeps_of | dsimp only | split)

theorem keeps_execFapiMessageUnsupported {q0 : List Instr} (phy msgId : Nat) (s : State) (hs : Keeps q0 s) : KeepsOut q0 (execFapiMessageUnsupported phy msgId s) := by
  unfold execFapiMessageUnsupported
  with_reducible repeat' (first | assumption | intro _ | apply keepsOut_next | apply keeps_takeFapi | apply keeps_postInd | simp only [keeps_lit] | apply keeps_of | dsimp only | split)

theorem keeps_execStartRequest {q0 : List Instr} (m : FapiMsg) (s : State) (hs : Keeps q0 s) : KeepsOut q0 (execStartRequest m s) := by
  unfold execStartRequest
  with_reducible repeat' (first | assumption | intro _ | apply keepsOut_next | apply keeps_withCell | apply keeps_errInd | apply keeps_modCell | simp only [keeps_lit] | apply keeps_of | dsimp only | split)

theorem keeps_execCellActivate {q0 : List Instr} (cell : Nat) (s : State) (hs : Keeps q0 s) : KeepsOut q0 (execCellActivate cell s) := by
  unfold execCellActivate
  with_reducible repeat' (first | assumption | intro _ | apply keepsOut_next | apply keeps_modCell | apply keeps_slotBegins | simp only [keeps_lit] | apply keeps_of | dsimp only | split)

theorem keeps_execStopRequest {q0 : List Instr} (m : FapiMsg) (s : State) (hs : Keeps q0 s) : KeepsOut q0 (execStopRequest m s) := by
  unfold execStopRequest
  with_reducible repeat' (first | assumption | intro _ | apply keepsOut_next | apply keeps_withCell | apply keeps_errInd | apply keeps_goOff | apply keeps_modCell | simp only [keeps_lit] | apply keeps_of | dsimp only | split)

theorem keeps_execCellStop {q0 : List Instr} (cell : Nat) (s : State) (hs : Keeps q0 s) : KeepsOut q0 (execCellStop cell s) := by
  unfold execCellStop
  with_reducible repeat' (first | assumption | intro _ | apply keepsOut_next | apply keeps_goOff | simp only [keeps_lit] | apply keeps_of | dsimp only | split)

theorem keeps_execTwilightHoldExpiry {q0 : List Instr} (cell : Nat) (s : State) (hs : Keeps q0 s) : KeepsOut q0 (execTwilightHoldExpiry cell s) := by
  unfold execTwilightHoldExpiry
  with_reducible repeat' (first | assumption | intro _ | apply keepsOut_next | apply keeps_goOff | simp only [keeps_lit] | apply keeps_of | dsimp only | split)

theorem keeps_discardSlot {q0 : List Instr} (s : State) (phy c a : Nat) (hs : Keeps q0 s) : Keeps q0 (discardSlot s phy c a) := by
  unfold discardSlot
  with_reducible repeat' (first | assumption | intro _ | refine keeps_iter _ _ ?_ ?_ | apply keeps_modCell | apply keeps_errInd | simp only [keeps_lit] | apply keeps_of | dsimp only | split)

theorem keeps_slotRequest {q0 : List Instr} (s : State) (m : FapiMsg) (id : Nat) (put : Nat → FapiMsg → Cell → Cell) (hs : Keeps q0 s) : Keeps q0 (slotRequest s m id put) := by
  unfold slotRequest
  with_reducible repeat' (first | assumption | intro _ | apply keeps_withCell | apply keeps_errInd | apply keeps_discardSlot | apply keeps_modCell | simp only [keeps_lit] | apply keeps_of | dsimp only | split)

theorem keeps_execDlTtiRequest {q0 : List Instr} (m : FapiMsg) (s : State) (hs : Keeps q0 s) : KeepsOut q0 (execDlTtiRequest m s) := by
  unfold execDlTtiRequest
  with_reducible repeat' (first | assumption | intro _ | apply keepsOut_next | apply keeps_slotRequest | simp only [keeps_lit] | apply keeps_of | dsimp only | split)

theorem keeps_execUlTtiRequest {q0 : List Instr} (m : FapiMsg) (s : State) (hs : Keeps q0 s) : KeepsOut q0 (execUlTtiRequest m s) := by
  unfold execUlTtiRequest
  with_reducible repeat' (first | assumption | intro _ | apply keepsOut_next | apply keeps_slotRequest | simp only [keeps_lit] | apply keeps_of | dsimp only | split)

theorem keeps_execUlDciRequest {q0 : List Instr} (m : FapiMsg) (s : State) (hs : Keeps q0 s) : KeepsOut q0 (execUlDciRequest m s) := by
  unfold execUlDciRequest
  with_reducible repeat' (first | assumption | intro _ | apply keepsOut_next | apply keeps_slotRequest | simp only [keeps_lit] | apply keeps_of | dsimp only | split)

theorem keeps_execTxDataRequest {q0 : List Instr} (m : FapiMsg) (s : State) (hs : Keeps q0 s) : KeepsOut q0 (execTxDataRequest m s) := by
  unfold execTxDataRequest
  with_reducible repeat' (first | assumption | intro _ | apply keepsOut_next | apply keeps_withCell | apply keeps_errInd | apply keeps_modCell | simp only [keeps_lit] | apply keeps_of | dsimp only | split)

theorem keeps_execSlotRequestDeadline {q0 : List Instr} (cell first : Nat) (s : State) (hs : Keeps q0 s) : KeepsOut q0 (execSlotRequestDeadline cell first s) := by
  unfold execSlotRequestDeadline
  with_reducible repeat' (first | assumption | intro _ | apply keepsOut_next | apply keeps_modCell | simp only [keeps_lit] | apply keeps_of | dsimp only | split)

theorem keeps_execTxDataDeadline {q0 : List Instr} (cell first : Nat) (s : State) (hs : Keeps q0 s) : KeepsOut q0 (execTxDataDeadline cell first s) := by
  unfold execTxDataDeadline
  with_reducible repeat' (first | assumption | intro _ | apply keepsOut_next | refine keeps_foldl _ _ ?_ ?_ | apply keeps_modCell | apply keeps_cellInd | simp only [keeps_lit] | apply keeps_of | dsimp only | split)

theorem keeps_execRadL2Open {q0 : List Instr} (q seq : Nat) (s : State) (hs : Keeps q0 s) : KeepsOut q0 (execRadL2Open q seq s) := by
  unfold execRadL2Open
  with_reducible repeat' (first | assumption | intro _ | apply keepsOut_next | apply keeps_withCmd | apply keeps_finish | simp only [keeps_lit] | apply keeps_of | dsimp only | split)

theorem keeps_execRadL2Close {q0 : List Instr} (q seq : Nat) (s : State) (hs : Keeps q0 s) : KeepsOut q0 (execRadL2Close q seq s) := by
  unfold execRadL2Close
  with_reducible repeat' (first | assumption | intro _ | apply keepsOut_next | refine keeps_foldl _ _ ?_ ?_ | apply keeps_withCmd | apply keeps_finish | apply keeps_modCell | apply keeps_goOff | apply keeps_settlePhy | simp only [keeps_lit] | apply keeps_of | dsimp only | split)

end Sys2Proof.Machine
end

