-- ==== Sys2Proof/Laws/KeepsMgmtOps.lean ====
section
/-!
SUPPORT. Every state that a definition of Machine/MgmtOps.lean answers keeps the canonical form of both memories, the beat and the queue.
-/
set_option linter.unusedTactic false
set_option linter.unreachableTactic false
set_option linter.unusedVariables false
set_option linter.unusedSimpArgs false
namespace Sys2Proof.Machine

theorem keeps_respond {q0 : List Instr} (s : State) (type status : Nat) (body : List Byte) (hs : Keeps q0 s) : Keeps q0 (respond s type status body) := by
  unfold respond
  with_reducible repeat' (first | assumption | intro _ | simp only [keeps_lit] | apply keeps_of | dsimp only | split)

theorem keeps_vendorReply {q0 : List Instr} (s : State) (cmd status : Nat) (data : List Byte) (hs : Keeps q0 s) : Keeps q0 (vendorReply s cmd status data) := by
  unfold vendorReply
  with_reducible repeat' (first | assumption | intro _ | apply keeps_respond | simp only [keeps_lit] | apply keeps_of | dsimp only | split)

theorem keeps_vendorSp {q0 : List Instr} (s : State) (f : State → State) (hs : Keeps q0 s) (hf : ∀ y0, Keeps q0 y0 → Keeps q0 (f y0)) : Keeps q0 (vendorSp s f) := by
  unfold vendorSp
  with_reducible repeat' (first | assumption | intro _ | apply hf | simp only [keeps_lit] | apply keeps_of | dsimp only | split)

theorem keeps_vendorCp7 {q0 : List Instr} (s : State) (cmd : Nat) (f : State → State) (hs : Keeps q0 s) (hf : ∀ y0, Keeps q0 y0 → Keeps q0 (f y0)) : Keeps q0 (vendorCp7 s cmd f) := by
  unfold vendorCp7
  with_reducible repeat' (first | assumption | intro _ | apply keeps_vendorReply | apply hf | simp only [keeps_lit] | apply keeps_of | dsimp only | split)

theorem keeps_mapRecs {q0 : List Instr} (s : State) (f : Rec → Rec) (hs : Keeps q0 s) : Keeps q0 (mapRecs s f) := by
  unfold mapRecs
  with_reducible repeat' (first | assumption | intro _ | simp only [keeps_lit] | apply keeps_of | dsimp only | split)

theorem keeps_markPersisted {q0 : List Instr} (s : State) (hs : Keeps q0 s) : Keeps q0 (markPersisted s) := by
  unfold markPersisted
  with_reducible repeat' (first | assumption | intro _ | apply keeps_mapRecs | simp only [keeps_lit] | apply keeps_of | dsimp only | split)

theorem keeps_loadAnchor {q0 : List Instr} (s : State) (opsec pcc : Nat) (hs : Keeps q0 s) : Keeps q0 (loadAnchor s opsec pcc) := by
  unfold loadAnchor
  with_reducible repeat' (first | assumption | intro _ | apply keeps_mapRecs | simp only [keeps_lit] | apply keeps_of | dsimp only | split)

theorem keeps_persistRecs {q0 : List Instr} (s : State) (t : Rec → Bool) (hs : Keeps q0 s) : Keeps q0 (persistRecs s t) := by
  unfold persistRecs
  with_reducible repeat' (first | assumption | intro _ | apply keeps_mapRecs | simp only [keeps_lit] | apply keeps_of | dsimp only | split)

end Sys2Proof.Machine
end

