-- ==== Sys2Proof/Laws/KeepsRas.lean ====
section
/-!
SUPPORT. Every state that a definition of Machine/Ras.lean answers keeps the canonical form of both memories, the beat and the queue.
-/
set_option linter.unusedTactic false
set_option linter.unreachableTactic false
set_option linter.unusedVariables false
set_option linter.unusedSimpArgs false
namespace Sys2Proof.Machine

theorem keeps_bindNext {q0 : List Instr} (s : State) (t tick : Nat) (hs : Keeps q0 s) : Keeps q0 (bindNext s t tick) := by
  unfold bindNext
  with_reducible repeat' (first | assumption | intro _ | apply keeps_deviceFail | simp only [keeps_lit] | apply keeps_of | dsimp only | split)

theorem keeps_retireTile {q0 : List Instr} (s : State) (d p cause : Nat) (hs : Keeps q0 s) : Keeps q0 (retireTile s d p cause) := by
  unfold retireTile
  with_reducible repeat' (first | assumption | intro _ | apply keeps_retireElement | simp only [keeps_lit] | apply keeps_of | dsimp only | split)

theorem keeps_execTileRemap {q0 : List Instr} (t : Nat) (s : State) (hs : Keeps q0 s) : KeepsOut q0 (execTileRemap t s) := by
  unfold execTileRemap
  with_reducible repeat' (first | assumption | intro _ | apply keepsOut_next | apply keeps_recordEvent | apply keeps_retireTile | apply keeps_bindNext | simp only [keeps_lit] | apply keeps_of | dsimp only | split)

theorem keeps_execRerunOverlaySeal {q0 : List Instr} (o : Overlay) (s : State) (hs : Keeps q0 s) : KeepsOut q0 (execRerunOverlaySeal o s) := by
  unfold execRerunOverlaySeal
  with_reducible repeat' (first | assumption | intro _ | apply keepsOut_next | simp only [keeps_lit] | apply keeps_of | dsimp only | split)

theorem keeps_execLinkWireFailing {q0 : List Instr} (die link group wire : Nat) (s : State) (hs : Keeps q0 s) : KeepsOut q0 (execLinkWireFailing die link group wire s) := by
  unfold execLinkWireFailing
  with_reducible repeat' (first | assumption | intro _ | apply keepsOut_next | apply keeps_deviceFail | apply keeps_State_takeFree | apply keeps_retireElement | simp only [keeps_lit] | apply keeps_of | dsimp only | split)

theorem keeps_sentinelMiss {q0 : List Instr} (s : State) (d p : Nat) (hs : Keeps q0 s) : Keeps q0 (sentinelMiss s d p) := by
  unfold sentinelMiss
  with_reducible repeat' (first | assumption | intro _ | apply keeps_recordEvent | apply keeps_tileFault | apply keeps_retireTile | simp only [keeps_lit] | apply keeps_of | dsimp only | split)

theorem keeps_execSentinelRun {q0 : List Instr} (e : SentEnv) (s : State) (hs : Keeps q0 s) : KeepsOut q0 (execSentinelRun e s) := by
  unfold execSentinelRun
  with_reducible repeat' (first | assumption | intro _ | apply keepsOut_next | apply keeps_devPut | apply keeps_sentinelMiss | simp only [keeps_lit] | apply keeps_of | dsimp only | split)

theorem keeps_stressServed {q0 : List Instr} (s : State) (die : Nat) (hs : Keeps q0 s) : Keeps q0 (stressServed s die) := by
  unfold stressServed
  with_reducible repeat' (first | assumption | intro _ | apply keeps_vendorReply | simp only [keeps_lit] | apply keeps_of | dsimp only | split)

theorem keeps_execStressVariant {q0 : List Instr} (die : Nat) (bad : List Nat) (s : State) (hs : Keeps q0 s) : KeepsOut q0 (execStressVariant die bad s) := by
  unfold execStressVariant
  with_reducible repeat' (first | assumption | intro _ | apply keepsOut_next | refine keeps_foldl _ _ ?_ ?_ | apply keeps_sentinelMiss | apply keeps_stressServed | simp only [keeps_lit] | apply keeps_of | dsimp only | split)

theorem keeps_execStressRun {q0 : List Instr} (dies : Nat) (s : State) (hs : Keeps q0 s) : KeepsOut q0 (execStressRun dies s) := by
  unfold execStressRun
  with_reducible repeat' (first | assumption | intro _ | apply keepsOut_next | apply keeps_vendorCp7 | apply keeps_vendorReply | simp only [keeps_lit] | apply keeps_of | dsimp only | split)

theorem keeps_stressSeam {q0 : List Instr} (s : State) (hs : Keeps q0 s) : Keeps q0 (stressSeam s) := by
  unfold stressSeam
  with_reducible repeat' (first | assumption | intro _ | apply keeps_vendorReply | simp only [keeps_lit] | apply keeps_of | dsimp only | split)

theorem keeps_execHealthScore {q0 : List Instr} (corrPerHour retriesPerSec residue30d : Nat) (hottest : Int) (s : State) (hs : Keeps q0 s) : KeepsOut q0 (execHealthScore corrPerHour retriesPerSec residue30d hottest s) := by
  unfold execHealthScore
  with_reducible repeat' (first | assumption | intro _ | apply keepsOut_next | simp only [keeps_lit] | apply keeps_of | dsimp only | split)

theorem keeps_execContrailSet {q0 : List Instr} (body : List Byte) (s : State) (hs : Keeps q0 s) : KeepsOut q0 (execContrailSet body s) := by
  unfold execContrailSet
  with_reducible repeat' (first | assumption | intro _ | apply keepsOut_next | apply keeps_vendorCp7 | apply keeps_vendorReply | simp only [keeps_lit] | apply keeps_of | dsimp only | split)

theorem keeps_contrailSeam {q0 : List Instr} (s : State) (hs : Keeps q0 s) : Keeps q0 (contrailSeam s) := by
  unfold contrailSeam
  with_reducible repeat' (first | assumption | intro _ | apply keeps_readyCheck | simp only [keeps_lit] | apply keeps_of | dsimp only | split)

theorem keeps_execContrailDigest {q0 : List Instr} (src reqId genLen : Nat) (crc : W64) (s0 : State) (hs0 : Keeps q0 s0) : KeepsOut q0 (execContrailDigest src reqId genLen crc s0) := by
  unfold execContrailDigest
  with_reducible repeat' (first | assumption | intro _ | apply keepsOut_next | apply keeps_takeMsg | apply keeps_readyCheck | apply keeps_digestCompare | simp only [keeps_lit] | apply keeps_of | dsimp only | split)

theorem keeps_execContrailUnmatched {q0 : List Instr} (s : State) (hs : Keeps q0 s) : KeepsOut q0 (execContrailUnmatched s) := by
  unfold execContrailUnmatched
  with_reducible repeat' (first | assumption | intro _ | apply keepsOut_next | simp only [keeps_lit] | apply keeps_of | dsimp only | split)

end Sys2Proof.Machine
end

