-- ==== Sys2Proof/Laws/KeepsRecorder.lean ====
section
/-!
SUPPORT. Every state that a definition of Machine/Recorder.lean answers keeps the canonical form of both memories, the beat and the queue.
-/
set_option linter.unusedTactic false
set_option linter.unreachableTactic false
set_option linter.unusedVariables false
set_option linter.unusedSimpArgs false
namespace Sys2Proof.Machine

theorem keeps_summaryOf {q0 : List Instr} (s : State) (code : Nat) (hs : Keeps q0 s) : Keeps q0 (summaryOf s code) := by
  unfold summaryOf
  with_reducible repeat' (first | assumption | intro _ | apply keeps_putRecord | simp only [keeps_lit] | apply keeps_of | dsimp only | split)

theorem keeps_execSummaryWindow {q0 : List Instr} (s : State) (hs : Keeps q0 s) : KeepsOut q0 (execSummaryWindow s) := by
  unfold execSummaryWindow
  with_reducible repeat' (first | assumption | intro _ | apply keepsOut_next | refine keeps_foldl _ _ ?_ ?_ | apply keeps_summaryOf | simp only [keeps_lit] | apply keeps_of | dsimp only | split)

theorem keeps_persistOps {q0 : List Instr} (s : State) (hs : Keeps q0 s) : Keeps q0 (persistOps s) := by
  unfold persistOps
  with_reducible repeat' (first | assumption | intro _ | simp only [keeps_lit] | apply keeps_of | dsimp only | split)

theorem keeps_execPersistBatch {q0 : List Instr} (all : Bool) (s : State) (hs : Keeps q0 s) : KeepsOut q0 (execPersistBatch all s) := by
  unfold execPersistBatch
  with_reducible repeat' (first | assumption | intro _ | apply keepsOut_next | apply keeps_persistRecs | apply keeps_persistOps | simp only [keeps_lit] | apply keeps_of | dsimp only | split)

theorem keeps_loseCopy {q0 : List Instr} (s : State) (copy : Nat) (hs : Keeps q0 s) : Keeps q0 (loseCopy s copy) := by
  unfold loseCopy
  with_reducible repeat' (first | assumption | intro _ | refine keeps_foldl _ _ ?_ ?_ | simp only [keeps_lit] | apply keeps_of | dsimp only | split)

theorem keeps_execPersistPathChange {q0 : List Instr} (s : State) (hs : Keeps q0 s) : KeepsOut q0 (execPersistPathChange s) := by
  unfold execPersistPathChange
  with_reducible repeat' (first | assumption | intro _ | apply keepsOut_next | apply keeps_State_takeFree | apply keeps_loseCopy | apply keeps_recordEvent | simp only [keeps_lit] | apply keeps_of | dsimp only | split)

end Sys2Proof.Machine
end

