-- ==== Sys2Proof/Laws/KeepsRegs.lean ====
section
/-!
SUPPORT. Every state that a definition of Machine/Regs.lean answers keeps the canonical form of both memories, the beat and the queue.
-/
set_option linter.unusedTactic false
set_option linter.unreachableTactic false
set_option linter.unusedVariables false
set_option linter.unusedSimpArgs false
namespace Sys2Proof.Machine

theorem keeps_slcWrite {q0 : List Instr} (s : State) (o : Nat) (v : W64) (hs : Keeps q0 s) : Keeps q0 (slcWrite s o v) := by
  unfold slcWrite
  with_reducible repeat' (first | assumption | intro _ | apply keeps_setMbx | simp only [keeps_lit] | apply keeps_of | dsimp only | split)

theorem keeps_secWrite {q0 : List Instr} (s : State) (o : Nat) (v : W64) (hs : Keeps q0 s) : Keeps q0 (secWrite s o v) := by
  unfold secWrite
  with_reducible repeat' (first | assumption | intro _ | refine keeps_foldl _ _ ?_ ?_ | simp only [keeps_lit] | apply keeps_of | dsimp only | split)

theorem keeps_bar2Write {q0 : List Instr} (s : State) (o : Nat) (v : W64) (hs : Keeps q0 s) : Keeps q0 (bar2Write s o v) := by
  unfold bar2Write
  with_reducible repeat' (first | assumption | intro _ | apply keeps_signalVec | simp only [keeps_lit] | apply keeps_of | dsimp only | split)

theorem keeps_hostRegWrite {q0 : List Instr} (s : State) (o : Nat) (v : W64) (hs : Keeps q0 s) : Keeps q0 (hostRegWrite s o v) := by
  unfold hostRegWrite
  with_reducible repeat' (first | assumption | intro _ | apply keeps_slcWrite | apply keeps_secWrite | apply keeps_bar2Write | simp only [keeps_lit] | apply keeps_of | dsimp only | split)

theorem keeps_firmwareRegWrite {q0 : List Instr} (s : State) (o : Nat) (v : W64) (hs : Keeps q0 s) : Keeps q0 (firmwareRegWrite s o v) := by
  unfold firmwareRegWrite
  with_reducible repeat' (first | assumption | intro _ | apply keeps_landed | simp only [keeps_lit] | apply keeps_of | dsimp only | split)

theorem keeps_execRegisterWrite {q0 : List Instr} (firmware : Bool) (offset : Nat) (value : W64) (s : State) (hs : Keeps q0 s) : KeepsOut q0 (execRegisterWrite firmware offset value s) := by
  unfold execRegisterWrite
  with_reducible repeat' (first | assumption | intro _ | apply keepsOut_next | apply keeps_firmwareRegWrite | apply keeps_hostRegWrite | simp only [keeps_lit] | apply keeps_of | dsimp only | split)

end Sys2Proof.Machine
end

