-- ==== Sys2Proof/Laws/KeepsSecurity.lean ====
section
/-!
SUPPORT. Every state that a definition of Machine/Security.lean answers keeps the canonical form of both memories, the beat and the queue.
-/
set_option linter.unusedTactic false
set_option linter.unreachableTactic false
set_option linter.unusedVariables false
set_option linter.unusedSimpArgs false
namespace Sys2Proof.Machine

theorem keeps_execDebugNonce {q0 : List Instr} (q seq : Nat) (s : State) (hs : Keeps q0 s) : KeepsOut q0 (execDebugNonce q seq s) := by
  unfold execDebugNonce
  with_reducible repeat' (first | assumption | intro _ | apply keepsOut_next | apply keeps_withCmd | apply keeps_finish | apply keeps_freeWords | apply keeps_finishWith | simp only [keeps_lit] | apply keeps_of | dsimp only | split)

theorem keeps_execDebugUnlock {q0 : List Instr} (q seq : Nat) (s : State) (hs : Keeps q0 s) : KeepsOut q0 (execDebugUnlock q seq s) := by
  unfold execDebugUnlock
  with_reducible repeat' (first | assumption | intro _ | apply keepsOut_next | apply keeps_withCmd | apply keeps_finish | apply keeps_extendM | apply keeps_latchAttn | apply keeps_recordEvent | simp only [keeps_lit] | apply keeps_of | dsimp only | split)

theorem keeps_debugCloses {q0 : List Instr} (s : State) (hs : Keeps q0 s) : Keeps q0 (debugCloses s) := by
  unfold debugCloses
  with_reducible repeat' (first | assumption | intro _ | simp only [keeps_lit] | apply keeps_of | dsimp only | split)

theorem keeps_execDebugLock {q0 : List Instr} (q seq : Nat) (s : State) (hs : Keeps q0 s) : KeepsOut q0 (execDebugLock q seq s) := by
  unfold execDebugLock
  with_reducible repeat' (first | assumption | intro _ | apply keepsOut_next | apply keeps_withCmd | apply keeps_finish | apply keeps_debugCloses | simp only [keeps_lit] | apply keeps_of | dsimp only | split)

theorem keeps_memEncApply {q0 : List Instr} (r : JRec) (s : State) (hs : Keeps q0 s) : Keeps q0 (memEncApply r s) := by
  unfold memEncApply
  with_reducible repeat' (first | assumption | intro _ | apply keeps_drawKeys | simp only [keeps_lit] | apply keeps_of | dsimp only | split)

theorem keeps_execMemEncSet {q0 : List Instr} (q seq : Nat) (s : State) (hs : Keeps q0 s) : KeepsOut q0 (execMemEncSet q seq s) := by
  unfold execMemEncSet
  with_reducible repeat' (first | assumption | intro _ | apply keepsOut_next | apply keeps_withSeamCmd | simp only [keeps_lit] | apply keeps_of | dsimp only | split)

theorem keeps_execEntropyFail {q0 : List Instr} (s : State) (hs : Keeps q0 s) : KeepsOut q0 (execEntropyFail s) := by
  unfold execEntropyFail
  with_reducible repeat' (first | assumption | intro _ | apply keepsOut_next | apply keeps_latchAttn | apply keeps_recordEvent | simp only [keeps_lit] | apply keeps_of | dsimp only | split)

end Sys2Proof.Machine
end

