-- ==== Sys2Proof/Laws/KeepsStart.lean ====
section
/-!
SUPPORT. Every state that a definition of Machine/Start.lean answers keeps the canonical form of both memories, the beat and the queue.
-/
set_option linter.unusedTactic false
set_option linter.unreachableTactic false
set_option linter.unusedVariables false
set_option linter.unusedSimpArgs false
namespace Sys2Proof.Machine

theorem keeps_startFault {q0 : List Instr} (s : State) (cause : Nat) (hs : Keeps q0 s) : Keeps q0 (startFault s cause) := by
  unfold startFault
  with_reducible repeat' (first | assumption | intro _ | simp only [keeps_lit] | apply keeps_of | dsimp only | split)

theorem keeps_startFaultOpen {q0 : List Instr} (s : State) (hs : Keeps q0 s) : Keeps q0 (startFaultOpen s) := by
  unfold startFaultOpen
  with_reducible repeat' (first | assumption | intro _ | apply keeps_State_takeFree | apply keeps_startFault | simp only [keeps_lit] | apply keeps_of | dsimp only | split)

theorem keeps_readTrip {q0 : List Instr} (s : State) (hs : Keeps q0 s) : Keeps q0 (readTrip s) := by
  unfold readTrip
  with_reducible repeat' (first | assumption | intro _ | apply keeps_recordEvent | simp only [keeps_lit] | apply keeps_of | dsimp only | split)

theorem keeps_execColdStart {q0 : List Instr} (selfTestOk sramOk : Bool) (pufReads : List (List Byte)) (pufKey : List Byte) (s : State) (hs : Keeps q0 s) : KeepsOut q0 (execColdStart selfTestOk sramOk pufReads pufKey s) := by
  unfold execColdStart
  with_reducible repeat' (first | assumption | intro _ | apply keepsOut_next | apply keeps_readTrip | apply keeps_recordEvent | apply keeps_startFault | apply keeps_startFaultOpen | simp only [keeps_lit] | apply keeps_of | dsimp only | split)

theorem keeps_buildRepair {q0 : List Instr} (s : State) (b : BistResult) (hs : Keeps q0 s) : Keeps q0 (buildRepair s b).1 := by
  unfold buildRepair
  with_reducible repeat' (first | assumption | intro _ | simp only [keeps_lit] | apply keeps_of | dsimp only | split)

theorem keeps_bistFault {q0 : List Instr} (s : State) (cause : Nat) (hs : Keeps q0 s) : Keeps q0 (bistFault s cause) := by
  unfold bistFault
  with_reducible repeat' (first | assumption | intro _ | apply keeps_startFaultOpen | apply keeps_startFault | apply keeps_recordEvent | simp only [keeps_lit] | apply keeps_of | dsimp only | split)

theorem keeps_acceptBundle {q0 : List Instr} (s : State) (b : Bundle) (id : List Byte × List Byte × List Byte) (hs : Keeps q0 s) : Keeps q0 (acceptBundle s b id) := by
  unfold acceptBundle
  with_reducible repeat' (first | assumption | intro _ | apply keeps_extendAll | apply keeps_recordEvent | simp only [keeps_lit] | apply keeps_of | dsimp only | split)

theorem keeps_startCps {q0 : List Instr} (s : State) (b : Bundle) (bases : List Nat) (areas : List (Nat × Nat)) (hs : Keeps q0 s) : Keeps q0 (startCps s b bases areas) := by
  unfold startCps
  with_reducible repeat' (first | assumption | intro _ | refine keeps_foldl _ _ ?_ ?_ | apply keeps_recordEvent | simp only [keeps_lit] | apply keeps_of | dsimp only | split)

theorem keeps_startPath {q0 : List Instr} (s : State) (e : StartEnv) (hs : Keeps q0 s) : Keeps q0 (startPath s e) := by
  unfold startPath
  with_reducible repeat' (first | assumption | intro _ | apply keeps_loadAnchor | simp only [keeps_lit] | apply keeps_of | dsimp only | split)

theorem keeps_endBist {q0 : List Instr} (s : State) (hs : Keeps q0 s) : Keeps q0 (endBist s) := by
  unfold endBist
  with_reducible repeat' (first | assumption | intro _ | apply keeps_recordEvent | apply keeps_mapRecs | simp only [keeps_lit] | apply keeps_of | dsimp only | split)

theorem keeps_startFlash {q0 : List Instr} (s : State) (e : StartEnv) (hs : Keeps q0 s) : Keeps q0 (startFlash s e) := by
  unfold startFlash
  with_reducible repeat' (first | assumption | intro _ | refine keeps_foldl _ _ ?_ ?_ | apply keeps_recordEvent | apply keeps_flashState | simp only [keeps_lit] | apply keeps_of | dsimp only | split)

theorem keeps_startMem {q0 : List Instr} (s : State) (clamshell ecc : Bool) (hs : Keeps q0 s) : Keeps q0 (startMem s clamshell ecc) := by
  unfold startMem
  with_reducible repeat' (first | assumption | intro _ | simp only [keeps_lit] | apply keeps_of | dsimp only | split)

theorem keeps_startMiss {q0 : List Instr} (s : State) (t : Nat) (hs : Keeps q0 s) : Keeps q0 (startMiss s t) := by
  unfold startMiss
  with_reducible repeat' (first | assumption | intro _ | apply keeps_recordEvent | apply keeps_retireTile | apply keeps_startFault | simp only [keeps_lit] | apply keeps_of | dsimp only | split)

theorem keeps_startImages {q0 : List Instr} (s : State) (b : Bundle) (hs : Keeps q0 s) : Keeps q0 (startImages s b) := by
  unfold startImages
  with_reducible repeat' (first | assumption | intro _ | refine keeps_foldl _ _ ?_ ?_ | apply keeps_joinImage | simp only [keeps_lit] | apply keeps_of | dsimp only | split)

theorem keeps_startReady {q0 : List Instr} (s : State) (ports : List Nat) (hs : Keeps q0 s) : Keeps q0 (startReady s ports) := by
  unfold startReady
  with_reducible repeat' (first | assumption | intro _ | refine keeps_foldl _ _ ?_ ?_ | apply keeps_modPort | apply keeps_buildReport | simp only [keeps_lit] | apply keeps_of | dsimp only | split)

theorem keeps_trainingFault {q0 : List Instr} (s : State) (chs : List Nat) (hs : Keeps q0 s) : Keeps q0 (trainingFault s chs) := by
  unfold trainingFault
  with_reducible repeat' (first | assumption | intro _ | refine keeps_foldl _ _ ?_ ?_ | apply keeps_startFault | apply keeps_recordEvent | simp only [keeps_lit] | apply keeps_of | dsimp only | split)

theorem keeps_startSteps {q0 : List Instr} (s : State) (b : Bundle) (e : StartEnv) (hs : Keeps q0 s) : Keeps q0 (startSteps s b e) := by
  unfold startSteps
  with_reducible repeat' (first | assumption | intro _ | refine keeps_foldl _ _ ?_ ?_ | apply keeps_startPath | apply keeps_startFlash | apply keeps_startCps | apply keeps_buildRepair | apply keeps_bistFault | apply keeps_endBist | apply keeps_trainingFault | apply keeps_startFault | apply keeps_recordEvent | apply keeps_startMem | apply keeps_startMiss | apply keeps_startReady | apply keeps_startImages | simp only [keeps_lit] | apply keeps_of | dsimp only | split)

theorem keeps_mbxAnswer {q0 : List Instr} (s : State) (status : Nat) (hs : Keeps q0 s) : Keeps q0 (mbxAnswer s status) := by
  unfold mbxAnswer
  with_reducible repeat' (first | assumption | intro _ | simp only [keeps_lit] | apply keeps_of | dsimp only | split)

theorem keeps_execBundleLoad {q0 : List Instr} (b : Bundle) (e : StartEnv) (s : State) (hs : Keeps q0 s) : KeepsOut q0 (execBundleLoad b e s) := by
  unfold execBundleLoad
  with_reducible repeat' (first | assumption | intro _ | apply keepsOut_next | apply keeps_mbxAnswer | apply keeps_State_takeFree | apply keeps_refuseBundle | apply keeps_startSteps | apply keeps_acceptBundle | simp only [keeps_lit] | apply keeps_of | dsimp only | split)

theorem keeps_execCxlLinkTraining {q0 : List Instr} (lanes gts : Nat) (s : State) (hs : Keeps q0 s) : KeepsOut q0 (execCxlLinkTraining lanes gts s) := by
  unfold execCxlLinkTraining
  with_reducible repeat' (first | assumption | intro _ | apply keepsOut_next | simp only [keeps_lit] | apply keeps_of | dsimp only | split)

end Sys2Proof.Machine
end

