-- ==== Sys2Proof/Laws/KeepsReset.lean ====
section
/-!
SUPPORT. Every state that a definition of Machine/Reset.lean answers keeps the canonical form of both memories, the beat and the queue.
-/
set_option linter.unusedTactic false
set_option linter.unreachableTactic false
set_option linter.unusedVariables false
set_option linter.unusedSimpArgs false
namespace Sys2Proof.Machine

theorem keeps_askReset {q0 : List Instr} (s : State) (kind : Nat) (cmd : List (Nat × Nat)) (hs : Keeps q0 s) : Keeps q0 (askReset s kind cmd) := by
  unfold askReset
  with_reducible repeat' (first | assumption | intro _ | simp only [keeps_lit] | apply keeps_of | dsimp only | split)

theorem keeps_askSlice {q0 : List Instr} (s : State) (slice : Nat) (cmd : Option (Nat × Nat)) (hs : Keeps q0 s) : Keeps q0 (askSlice s slice cmd) := by
  unfold askSlice
  with_reducible repeat' (first | assumption | intro _ | simp only [keeps_lit] | apply keeps_of | dsimp only | split)

theorem keeps_execResetReq {q0 : List Instr} (q seq : Nat) (s : State) (hs : Keeps q0 s) : KeepsOut q0 (execResetReq q seq s) := by
  unfold execResetReq
  with_reducible repeat' (first | assumption | intro _ | apply keepsOut_next | apply keeps_withCmd | apply keeps_finish | apply keeps_askSlice | apply keeps_askReset | simp only [keeps_lit] | apply keeps_of | dsimp only | split)

theorem keeps_execResetRequest {q0 : List Instr} (kind slice : Nat) (s : State) (hs : Keeps q0 s) : KeepsOut q0 (execResetRequest kind slice s) := by
  unfold execResetRequest
  with_reducible repeat' (first | assumption | intro _ | apply keepsOut_next | apply keeps_vendorCp7 | apply keeps_vendorReply | apply keeps_coldLoss | apply keeps_askSlice | apply keeps_askReset | simp only [keeps_lit] | apply keeps_of | dsimp only | split)

theorem keeps_resetEnds {q0 : List Instr} (s : State) (hs : Keeps q0 s) : Keeps q0 (resetEnds s) := by
  unfold resetEnds
  with_reducible repeat' (first | assumption | intro _ | refine keeps_foldl _ _ ?_ ?_ | apply keeps_finish | simp only [keeps_lit] | apply keeps_of | dsimp only | split)

theorem keeps_breakList {q0 : List Instr} (s : State) (port : Nat) (l : XList) (hs : Keeps q0 s) : Keeps q0 (breakList s port l) := by
  unfold breakList
  with_reducible repeat' (first | assumption | intro _ | refine keeps_foldl _ _ ?_ ?_ | apply keeps_entryDone | simp only [keeps_lit] | apply keeps_of | dsimp only | split)

theorem keeps_breakLists {q0 : List Instr} (s : State) (hs : Keeps q0 s) : Keeps q0 (breakLists s) := by
  unfold breakLists
  with_reducible repeat' (first | assumption | intro _ | refine keeps_foldl _ _ ?_ ?_ | apply keeps_breakList | simp only [keeps_lit] | apply keeps_of | dsimp only | split)

theorem keeps_breakXfer {q0 : List Instr} (s : State) (r : JRec) (hs : Keeps q0 s) : Keeps q0 (breakXfer s r) := by
  unfold breakXfer
  with_reducible repeat' (first | assumption | intro _ | apply keeps_devWrite | apply keeps_bumpCounter | apply keeps_finish | simp only [keeps_lit] | apply keeps_of | dsimp only | split)

theorem keeps_warmCommands {q0 : List Instr} (s : State) (hs : Keeps q0 s) : Keeps q0 (warmCommands s) := by
  unfold warmCommands
  with_reducible repeat' (first | assumption | intro _ | refine keeps_foldl _ _ ?_ ?_ | apply keeps_finishAll | apply keeps_journalReload | apply keeps_breakXfer | apply keeps_finish | simp only [keeps_lit] | apply keeps_of | dsimp only | split)

theorem keeps_warmRadio {q0 : List Instr} (s : State) (hs : Keeps q0 s) : Keeps q0 (warmRadio s) := by
  unfold warmRadio
  with_reducible repeat' (first | assumption | intro _ | refine keeps_foldl _ _ ?_ ?_ | apply keeps_goOff | simp only [keeps_lit] | apply keeps_of | dsimp only | split)

theorem keeps_warmContexts {q0 : List Instr} (s : State) (hs : Keeps q0 s) : Keeps q0 (warmContexts s) := by
  unfold warmContexts
  with_reducible repeat' (first | assumption | intro _ | refine keeps_foldl _ _ ?_ ?_ | apply keeps_ctxState | apply keeps_modCtx | simp only [keeps_lit] | apply keeps_of | dsimp only | split)

theorem keeps_warmServing {q0 : List Instr} (s : State) (hs : Keeps q0 s) : Keeps q0 (warmServing s) := by
  unfold warmServing
  with_reducible repeat' (first | assumption | intro _ | refine keeps_foldl _ _ ?_ ?_ | apply keeps_applyWait | apply keeps_admitNow | apply keeps_swapOut | apply keeps_sendQuery | simp only [keeps_lit] | apply keeps_of | dsimp only | split)

theorem keeps_warmStop {q0 : List Instr} (s : State) (hs : Keeps q0 s) : Keeps q0 (warmStop s) := by
  unfold warmStop
  with_reducible repeat' (first | assumption | intro _ | apply keeps_devZero | simp only [keeps_lit] | apply keeps_of | dsimp only | split)

theorem keeps_warmFabric {q0 : List Instr} (s : State) (hs : Keeps q0 s) : Keeps q0 (warmFabric s) := by
  unfold warmFabric
  with_reducible repeat' (first | assumption | intro _ | refine keeps_foldl _ _ ?_ ?_ | apply keeps_portLeaves | apply keeps_breakStream | simp only [keeps_lit] | apply keeps_of | dsimp only | split)

theorem keeps_warmFirmware {q0 : List Instr} (s : State) (hs : Keeps q0 s) : Keeps q0 (warmFirmware s) := by
  unfold warmFirmware
  with_reducible repeat' (first | assumption | intro _ | apply keeps_State_takeFree | apply keeps_abortUpdate | apply keeps_flushStaged | simp only [keeps_lit] | apply keeps_of | dsimp only | split)

theorem keeps_warmReady {q0 : List Instr} (s : State) (hs : Keeps q0 s) : Keeps q0 (warmReady s) := by
  unfold warmReady
  with_reducible repeat' (first | assumption | intro _ | refine keeps_foldl _ _ ?_ ?_ | apply keeps_dropQueue | apply keeps_resetEnds | apply keeps_buildReport | apply keeps_warmCommands | simp only [keeps_lit] | apply keeps_of | dsimp only | split)

theorem keeps_execWarmReset {q0 : List Instr} (b : BistResult) (trained : BitVec 32) (refused : List (Nat × List Byte)) (s : State) (hs : Keeps q0 s) : KeepsOut q0 (execWarmReset b trained refused s) := by
  unfold execWarmReset
  with_reducible repeat' (first | assumption | intro _ | apply keepsOut_next | apply keeps_discardLines | apply keeps_warmFabric | apply keeps_breakLists | apply keeps_warmRadio | apply keeps_warmStop | apply keeps_debugCloses | apply keeps_buildRepair | apply keeps_bistFault | apply keeps_warmContexts | apply keeps_warmServing | apply keeps_trainingFault | apply keeps_dropDone | apply keeps_warmReady | apply keeps_warmFirmware | simp only [keeps_lit] | apply keeps_of | dsimp only | split)

theorem keeps_execFunctionReset {q0 : List Instr} (refused : List (Nat × List Byte)) (s : State) (hs : Keeps q0 s) : KeepsOut q0 (execFunctionReset refused s) := by
  unfold execFunctionReset
  with_reducible repeat' (first | assumption | intro _ | apply keepsOut_next | refine keeps_foldl _ _ ?_ ?_ | apply keeps_dropQueue | apply keeps_discardLines | apply keeps_resetEnds | apply keeps_buildReport | apply keeps_debugCloses | simp only [keeps_lit] | apply keeps_of | dsimp only | split)

theorem keeps_renewKeys {q0 : List Instr} (s : State) (slice : Nat) (hs : Keeps q0 s) : Keeps q0 (renewKeys s slice) := by
  unfold renewKeys
  with_reducible repeat' (first | assumption | intro _ | apply keeps_drawKeys | simp only [keeps_lit] | apply keeps_of | dsimp only | split)

theorem keeps_sliceTorn {q0 : List Instr} (s : State) (slice : Nat) (hs : Keeps q0 s) : Keeps q0 (sliceTorn s slice) := by
  unfold sliceTorn
  with_reducible repeat' (first | assumption | intro _ | refine keeps_foldl _ _ ?_ ?_ | apply keeps_State_takeFree | apply keeps_tearDown | apply keeps_dropDone | apply keeps_finishAll | simp only [keeps_lit] | apply keeps_of | dsimp only | split)

theorem keeps_execSliceReset {q0 : List Instr} (slice : Nat) (s : State) (hs : Keeps q0 s) : KeepsOut q0 (execSliceReset slice s) := by
  unfold execSliceReset
  with_reducible repeat' (first | assumption | intro _ | apply keepsOut_next | refine keeps_foldl _ _ ?_ ?_ | apply keeps_renewKeys | apply keeps_sliceTorn | apply keeps_finish | simp only [keeps_lit] | apply keeps_of | dsimp only | split)

end Sys2Proof.Machine
end

