-- ==== Sys2Proof/Laws/KeepsTarget.lean ====
section
/-!
SUPPORT. Every state that a definition of Machine/Target.lean answers keeps the canonical form of both memories, the beat and the queue.
-/
set_option linter.unusedTactic false
set_option linter.unreachableTactic false
set_option linter.unusedVariables false
set_option linter.unusedSimpArgs false
namespace Sys2Proof.Machine

theorem keeps_dropPacket {q0 : List Instr} (s : State) (hs : Keeps q0 s) : Keeps q0 (dropPacket s) := by
  unfold dropPacket
  with_reducible repeat' (first | assumption | intro _ | simp only [keeps_lit] | apply keeps_of | dsimp only | split)

theorem keeps_foreignPacket {q0 : List Instr} (s : State) (p : Packet) (hs : Keeps q0 s) : Keeps q0 (foreignPacket s p) := by
  unfold foreignPacket
  with_reducible repeat' (first | assumption | intro _ | apply keeps_recordEvent | simp only [keeps_lit] | apply keeps_of | dsimp only | split)

theorem keeps_ingress {q0 : List Instr} (s : State) (port : Nat) (p : Packet) (op : Nat) (k : State → State) (hs : Keeps q0 s) (hk : ∀ y0, Keeps q0 y0 → Keeps q0 (k y0)) : Keeps q0 (ingress s port p op k) := by
  unfold ingress
  with_reducible repeat' (first | assumption | intro _ | apply keeps_foreignPacket | apply keeps_dropPacket | apply hk | simp only [keeps_lit] | apply keeps_of | dsimp only | split)

theorem keeps_reqIngress {q0 : List Instr} (s : State) (port : Nat) (p : Packet) (op : Nat) (k : State → State) (hs : Keeps q0 s) (hk : ∀ y0, Keeps q0 y0 → Keeps q0 (k y0)) : Keeps q0 (reqIngress s port p op k) := by
  unfold reqIngress
  with_reducible repeat' (first | assumption | intro _ | apply keeps_ingress | apply keeps_recordEvent | apply hk | simp only [keeps_lit] | apply keeps_of | dsimp only | split)

theorem keeps_applyMem {q0 : List Instr} (s : State) (p : Packet) (hs : Keeps q0 s) : Keeps q0 (applyMem s p).1 := by
  unfold applyMem
  with_reducible repeat' (first | assumption | intro _ | apply keeps_recordUncorrected | apply keeps_devWrite | simp only [keeps_lit] | apply keeps_of | dsimp only | split)

theorem keeps_applyMsg {q0 : List Instr} (s : State) (p : Packet) (hs : Keeps q0 s) : Keeps q0 (applyMsg s p).1 := by
  unfold applyMsg
  with_reducible repeat' (first | assumption | intro _ | simp only [keeps_lit] | apply keeps_of | dsimp only | split)

theorem keeps_applyReq {q0 : List Instr} (s : State) (p : Packet) (hs : Keeps q0 s) : Keeps q0 (applyReq s p).1 := by
  unfold applyReq
  with_reducible repeat' (first | assumption | intro _ | apply keeps_applyMsg | apply keeps_applyMem | simp only [keeps_lit] | apply keeps_of | dsimp only | split)

theorem keeps_countStale {q0 : List Instr} (s : State) (hs : Keeps q0 s) : Keeps q0 (countStale s) := by
  unfold countStale
  with_reducible repeat' (first | assumption | intro _ | simp only [keeps_lit] | apply keeps_of | dsimp only | split)

theorem keeps_sendAck {q0 : List Instr} (s : State) (src first last path : Nat) (comb : Bool) (epoch : Nat) (hs : Keeps q0 s) : Keeps q0 (sendAck s src first last path comb epoch) := by
  unfold sendAck
  with_reducible repeat' (first | assumption | intro _ | apply keeps_sendResp | simp only [keeps_lit] | apply keeps_of | dsimp only | split)

theorem keeps_flushRuns {q0 : List Instr} (s : State) (src : Nat) (t : AckRun → Bool) (hs : Keeps q0 s) : Keeps q0 (flushRuns s src t) := by
  unfold flushRuns
  with_reducible repeat' (first | assumption | intro _ | refine keeps_foldl _ _ ?_ ?_ | apply keeps_sendAck | apply keeps_setRx | simp only [keeps_lit] | apply keeps_of | dsimp only | split)

theorem keeps_answerPkt {q0 : List Instr} (s : State) (p : Packet) (r : Answer) (hs : Keeps q0 s) : Keeps q0 (answerPkt s p r) := by
  unfold answerPkt
  with_reducible repeat' (first | assumption | intro _ | apply keeps_sendResp | apply keeps_sendAck | simp only [keeps_lit] | apply keeps_of | dsimp only | split)

theorem keeps_recordOutcome {q0 : List Instr} (s : State) (p : Packet) (r : Answer) (hs : Keeps q0 s) : Keeps q0 (recordOutcome s p r) := by
  unfold recordOutcome
  with_reducible repeat' (first | assumption | intro _ | apply keeps_setRx | simp only [keeps_lit] | apply keeps_of | dsimp only | split)

theorem keeps_runWith {q0 : List Instr} (s : State) (p : Packet) (joins : Bool) (hs : Keeps q0 s) : Keeps q0 (runWith s p joins) := by
  unfold runWith
  with_reducible repeat' (first | assumption | intro _ | apply keeps_setRx | apply keeps_flushRuns | simp only [keeps_lit] | apply keeps_of | dsimp only | split)

theorem keeps_applyNext {q0 : List Instr} (s : State) (p : Packet) (hs : Keeps q0 s) : Keeps q0 (applyNext s p) := by
  unfold applyNext
  with_reducible repeat' (first | assumption | intro _ | apply keeps_countStale | apply keeps_applyReq | apply keeps_recordOutcome | apply keeps_setRx | apply keeps_runWith | apply keeps_answerPkt | simp only [keeps_lit] | apply keeps_of | dsimp only | split)

theorem keeps_drainBuf {q0 : List Instr}  (z0 : Nat) (z1 : State) (z2 : Nat) (hz1 : Keeps q0 z1) : Keeps q0 (drainBuf z0 z1 z2) := by
  induction z0 generalizing z1 with
  | zero => unfold drainBuf; with_reducible repeat' (first | assumption | intro _ | apply keeps_applyNext | apply keeps_setRx | simp only [keeps_lit] | apply keeps_of | dsimp only | split)
  | succ n ih =>
    unfold drainBuf
    with_reducible repeat' (first | apply ih | (first | assumption | intro _ | apply keeps_applyNext | apply keeps_setRx | simp only [keeps_lit] | apply keeps_of | dsimp only | split))


theorem keeps_answerDup {q0 : List Instr} (s : State) (p : Packet) (hs : Keeps q0 s) : Keeps q0 (answerDup s p) := by
  unfold answerDup
  with_reducible repeat' (first | assumption | intro _ | apply keeps_dropPacket | apply keeps_answerPkt | apply keeps_countStale | apply keeps_applyReq | simp only [keeps_lit] | apply keeps_of | dsimp only | split)

theorem keeps_streamReq {q0 : List Instr} (s : State) (port : Nat) (p : Packet) (hs : Keeps q0 s) : Keeps q0 (streamReq s port p) := by
  unfold streamReq
  with_reducible repeat' (first | assumption | intro _ | apply keeps_answerDup | apply keeps_dropPacket | apply keeps_drainBuf | apply keeps_applyNext | apply keeps_answerPkt | apply keeps_recordOutcome | apply keeps_countStale | apply keeps_setRx | simp only [keeps_lit] | apply keeps_of | dsimp only | split)

theorem keeps_combReq {q0 : List Instr} (s : State) (port : Nat) (p : Packet) (hs : Keeps q0 s) : Keeps q0 (combReq s port p) := by
  unfold combReq
  with_reducible repeat' (first | assumption | intro _ | apply keeps_answerPkt | apply keeps_countStale | apply keeps_applyReq | apply keeps_modPort | simp only [keeps_lit] | apply keeps_of | dsimp only | split)

theorem keeps_targetReq {q0 : List Instr} (s : State) (port : Nat) (p : Packet) (op : Nat) (hs : Keeps q0 s) : Keeps q0 (targetReq s port p op) := by
  unfold targetReq
  with_reducible repeat' (first | assumption | intro _ | apply keeps_reqIngress | apply keeps_combReq | apply keeps_streamReq | simp only [keeps_lit] | apply keeps_of | dsimp only | split)

theorem keeps_execLoad {q0 : List Instr} (port : Nat) (p : Packet) (s : State) (hs : Keeps q0 s) : KeepsOut q0 (execLoad port p s) := by
  unfold execLoad
  with_reducible repeat' (first | assumption | intro _ | apply keepsOut_next | apply keeps_targetReq | simp only [keeps_lit] | apply keeps_of | dsimp only | split)

theorem keeps_execStore {q0 : List Instr} (port : Nat) (p : Packet) (s : State) (hs : Keeps q0 s) : KeepsOut q0 (execStore port p s) := by
  unfold execStore
  with_reducible repeat' (first | assumption | intro _ | apply keepsOut_next | apply keeps_targetReq | simp only [keeps_lit] | apply keeps_of | dsimp only | split)

theorem keeps_execAtomic {q0 : List Instr} (port : Nat) (p : Packet) (s : State) (hs : Keeps q0 s) : KeepsOut q0 (execAtomic port p s) := by
  unfold execAtomic
  with_reducible repeat' (first | assumption | intro _ | apply keepsOut_next | apply keeps_targetReq | simp only [keeps_lit] | apply keeps_of | dsimp only | split)

theorem keeps_execAccL {q0 : List Instr} (port : Nat) (p : Packet) (s : State) (hs : Keeps q0 s) : KeepsOut q0 (execAccL port p s) := by
  unfold execAccL
  with_reducible repeat' (first | assumption | intro _ | apply keepsOut_next | apply keeps_targetReq | simp only [keeps_lit] | apply keeps_of | dsimp only | split)

theorem keeps_execMsg {q0 : List Instr} (port : Nat) (p : Packet) (s : State) (hs : Keeps q0 s) : KeepsOut q0 (execMsg port p s) := by
  unfold execMsg
  with_reducible repeat' (first | assumption | intro _ | apply keepsOut_next | apply keeps_reqIngress | apply keeps_streamReq | simp only [keeps_lit] | apply keeps_of | dsimp only | split)

theorem keeps_execEpoch {q0 : List Instr} (port : Nat) (p : Packet) (s : State) (hs : Keeps q0 s) : KeepsOut q0 (execEpoch port p s) := by
  unfold execEpoch
  with_reducible repeat' (first | assumption | intro _ | apply keepsOut_next | apply keeps_reqIngress | apply keeps_sendAck | apply keeps_setRx | simp only [keeps_lit] | apply keeps_of | dsimp only | split)

theorem keeps_execAckTimer {q0 : List Instr} (src : Nat) (s : State) (hs : Keeps q0 s) : KeepsOut q0 (execAckTimer src s) := by
  unfold execAckTimer
  with_reducible repeat' (first | assumption | intro _ | apply keepsOut_next | apply keeps_flushRuns | simp only [keeps_lit] | apply keeps_of | dsimp only | split)

end Sys2Proof.Machine
end

