-- ==== Sys2Proof/Laws/KeepsSender.lean ====
section
/-!
SUPPORT. Every state that a definition of Machine/Sender.lean answers keeps the canonical form of both memories, the beat and the queue.
-/
set_option linter.unusedTactic false
set_option linter.unreachableTactic false
set_option linter.unusedVariables false
set_option linter.unusedSimpArgs false
namespace Sys2Proof.Machine

theorem keeps_pathAlive {q0 : List Instr} (s : State) (d port ix : Nat) (hs : Keeps q0 s) : Keeps q0 (pathAlive s d port ix) := by
  unfold pathAlive
  with_reducible repeat' (first | assumption | intro _ | apply keeps_modPaths | simp only [keeps_lit] | apply keeps_of | dsimp only | split)

theorem keeps_tryFence {q0 : List Instr} (s : State) (port : Nat) (hs : Keeps q0 s) : Keeps q0 (tryFence s port) := by
  unfold tryFence
  with_reducible repeat' (first | assumption | intro _ | apply keeps_entryDone | apply keeps_modList | simp only [keeps_lit] | apply keeps_of | dsimp only | split)

theorem keeps_tryFences {q0 : List Instr} (s : State) (hs : Keeps q0 s) : Keeps q0 (tryFences s) := by
  unfold tryFences
  with_reducible repeat' (first | assumption | intro _ | refine keeps_foldl _ _ ?_ ?_ | apply keeps_tryFence | simp only [keeps_lit] | apply keeps_of | dsimp only | split)

theorem keeps_response {q0 : List Instr} (s : State) (port : Nat) (p : Packet) (op : Nat) (t : OutReq → Bool) (st : OutReq → Nat) (bs : List Byte) (hs : Keeps q0 s) : Keeps q0 (response s port p op t st bs) := by
  unfold response
  with_reducible repeat' (first | assumption | intro _ | apply keeps_ingress | apply keeps_tryFences | apply keeps_pump | apply keeps_endReqs | apply keeps_pathAlive | simp only [keeps_lit] | apply keeps_of | dsimp only | split)

theorem keeps_execAck {q0 : List Instr} (port : Nat) (p : Packet) (s : State) (hs : Keeps q0 s) : KeepsOut q0 (execAck port p s) := by
  unfold execAck
  with_reducible repeat' (first | assumption | intro _ | apply keepsOut_next | apply keeps_ingress | apply keeps_pump | apply keeps_setTx | apply keeps_pathAlive | apply keeps_response | simp only [keeps_lit] | apply keeps_of | dsimp only | split)

theorem keeps_execStatusP {q0 : List Instr} (port : Nat) (p : Packet) (s : State) (hs : Keeps q0 s) : KeepsOut q0 (execStatusP port p s) := by
  unfold execStatusP
  with_reducible repeat' (first | assumption | intro _ | apply keepsOut_next | apply keeps_response | simp only [keeps_lit] | apply keeps_of | dsimp only | split)

theorem keeps_execLoadData {q0 : List Instr} (port : Nat) (p : Packet) (s : State) (hs : Keeps q0 s) : KeepsOut q0 (execLoadData port p s) := by
  unfold execLoadData
  with_reducible repeat' (first | assumption | intro _ | apply keepsOut_next | apply keeps_response | simp only [keeps_lit] | apply keeps_of | dsimp only | split)

theorem keeps_execAtomicData {q0 : List Instr} (port : Nat) (p : Packet) (s : State) (hs : Keeps q0 s) : KeepsOut q0 (execAtomicData port p s) := by
  unfold execAtomicData
  with_reducible repeat' (first | assumption | intro _ | apply keepsOut_next | apply keeps_response | simp only [keeps_lit] | apply keeps_of | dsimp only | split)

theorem keeps_execProbe {q0 : List Instr} (port : Nat) (p : Packet) (s : State) (hs : Keeps q0 s) : KeepsOut q0 (execProbe port p s) := by
  unfold execProbe
  with_reducible repeat' (first | assumption | intro _ | apply keepsOut_next | apply keeps_ingress | apply keeps_pump | apply keeps_modPaths | apply keeps_sendResp | simp only [keeps_lit] | apply keeps_of | dsimp only | split)

theorem keeps_chargePath {q0 : List Instr} (s : State) (d i : Nat) (hs : Keeps q0 s) : Keeps q0 (chargePath s d i) := by
  unfold chargePath
  with_reducible repeat' (first | assumption | intro _ | apply keeps_modPaths | apply keeps_pathDownEvent | simp only [keeps_lit] | apply keeps_of | dsimp only | split)

theorem keeps_execRetransmitTimeout {q0 : List Instr} (dst psn : Nat) (s : State) (hs : Keeps q0 s) : KeepsOut q0 (execRetransmitTimeout dst psn s) := by
  unfold execRetransmitTimeout
  with_reducible repeat' (first | assumption | intro _ | apply keepsOut_next | apply keeps_sendEpoch | apply keeps_chargePath | apply keeps_setTx | apply keeps_putPacket | simp only [keeps_lit] | apply keeps_of | dsimp only | split)

theorem keeps_probePaths {q0 : List Instr} (s : State) (d : Nat) (hs : Keeps q0 s) : Keeps q0 (probePaths s d) := by
  unfold probePaths
  with_reducible repeat' (first | assumption | intro _ | refine keeps_foldl _ _ ?_ ?_ | apply keeps_modPaths | apply keeps_putPacket | simp only [keeps_lit] | apply keeps_of | dsimp only | split)

theorem keeps_execPathProbeTimer {q0 : List Instr} (s : State) (hs : Keeps q0 s) : KeepsOut q0 (execPathProbeTimer s) := by
  unfold execPathProbeTimer
  with_reducible repeat' (first | assumption | intro _ | apply keepsOut_next | refine keeps_foldl _ _ ?_ ?_ | apply keeps_probePaths | simp only [keeps_lit] | apply keeps_of | dsimp only | split)

theorem keeps_endHeld {q0 : List Instr} (s : State) (d : Nat) (t : OutReq → Bool) (hs : Keeps q0 s) : Keeps q0 (endHeld s d t) := by
  unfold endHeld
  with_reducible repeat' (first | assumption | intro _ | refine keeps_foldl _ _ ?_ ?_ | apply keeps_reqEnd | apply keeps_setTx | simp only [keeps_lit] | apply keeps_of | dsimp only | split)

theorem keeps_execStreamBreak {q0 : List Instr} (dst : Nat) (s : State) (hs : Keeps q0 s) : KeepsOut q0 (execStreamBreak dst s) := by
  unfold execStreamBreak
  with_reducible repeat' (first | assumption | intro _ | apply keepsOut_next | apply keeps_endReqs | apply keeps_endHeld | apply keeps_tryFences | apply keeps_breakStream | simp only [keeps_lit] | apply keeps_of | dsimp only | split)

theorem keeps_execXferEntryIssue {q0 : List Instr} (port : Nat) (s : State) (hs : Keeps q0 s) : KeepsOut q0 (execXferEntryIssue port s) := by
  unfold execXferEntryIssue
  with_reducible repeat' (first | assumption | intro _ | apply keepsOut_next | apply keeps_modList | apply keeps_noteFail | apply keeps_entryDone | apply keeps_recordUncorrected | apply keeps_tryFence | apply keeps_issueReq | simp only [keeps_lit] | apply keeps_of | dsimp only | split)

end Sys2Proof.Machine
end

