-- ==== Sys2Proof/Laws/KeepsSeq.lean ====
section
/-!
SUPPORT. Every state that a definition of Machine/Seq.lean answers keeps the canonical form of both memories, the beat and the queue.
-/
set_option linter.unusedTactic false
set_option linter.unreachableTactic false
set_option linter.unusedVariables false
set_option linter.unusedSimpArgs false
namespace Sys2Proof.Machine

theorem keeps_execSlotNop {q0 : List Instr} (t c slot : Nat) (s : State) (hs : Keeps q0 s) : KeepsOut q0 (execSlotNop t c slot s) := by
  unfold execSlotNop
  with_reducible repeat' (first | assumption | intro _ | apply keepsOut_next | apply keeps_slotOp | simp only [keeps_lit] | apply keeps_of | dsimp only | split)

theorem keeps_execBr {q0 : List Instr} (t c target : Nat) (s : State) (hs : Keeps q0 s) : KeepsOut q0 (execBr t c target s) := by
  unfold execBr
  with_reducible repeat' (first | assumption | intro _ | apply keepsOut_next | apply keeps_slotOp | simp only [keeps_lit] | apply keeps_of | dsimp only | split)

theorem keeps_execBrz {q0 : List Instr} (t c n target : Nat) (s : State) (hs : Keeps q0 s) : KeepsOut q0 (execBrz t c n target s) := by
  unfold execBrz
  with_reducible repeat' (first | assumption | intro _ | apply keepsOut_next | apply keeps_slotOp | simp only [keeps_lit] | apply keeps_of | dsimp only | split)

theorem keeps_execBrnz {q0 : List Instr} (t c n target : Nat) (s : State) (hs : Keeps q0 s) : KeepsOut q0 (execBrnz t c n target s) := by
  unfold execBrnz
  with_reducible repeat' (first | assumption | intro _ | apply keepsOut_next | apply keeps_slotOp | simp only [keeps_lit] | apply keeps_of | dsimp only | split)

theorem keeps_execLoop {q0 : List Instr} (t c count : Nat) (s : State) (hs : Keeps q0 s) : KeepsOut q0 (execLoop t c count s) := by
  unfold execLoop
  with_reducible repeat' (first | assumption | intro _ | apply keepsOut_next | apply keeps_slotOp | simp only [keeps_lit] | apply keeps_of | dsimp only | split)

theorem keeps_execEndl {q0 : List Instr} (t c : Nat) (s : State) (hs : Keeps q0 s) : KeepsOut q0 (execEndl t c s) := by
  unfold execEndl
  with_reducible repeat' (first | assumption | intro _ | apply keepsOut_next | apply keeps_slotOp | simp only [keeps_lit] | apply keeps_of | dsimp only | split)

theorem keeps_execRepeatN {q0 : List Instr} (t c n : Nat) (s : State) (hs : Keeps q0 s) : KeepsOut q0 (execRepeatN t c n s) := by
  unfold execRepeatN
  with_reducible repeat' (first | assumption | intro _ | apply keepsOut_next | apply keeps_slotOp | simp only [keeps_lit] | apply keeps_of | dsimp only | split)

theorem keeps_execWaitd {q0 : List Instr} (t c tag maxw : Nat) (s : State) (hs : Keeps q0 s) : KeepsOut q0 (execWaitd t c tag maxw s) := by
  unfold execWaitd
  with_reducible repeat' (first | assumption | intro _ | apply keepsOut_next | apply keeps_slotOp | simp only [keeps_lit] | apply keeps_of | dsimp only | split)

theorem keeps_execSyncp {q0 : List Instr} (t c ctr : Nat) (s : State) (hs : Keeps q0 s) : KeepsOut q0 (execSyncp t c ctr s) := by
  unfold execSyncp
  with_reducible repeat' (first | assumption | intro _ | apply keepsOut_next | apply keeps_timedDue | apply keeps_slotOp | simp only [keeps_lit] | apply keeps_of | dsimp only | split)

theorem keeps_execEndK {q0 : List Instr} (t c : Nat) (s : State) (hs : Keeps q0 s) : KeepsOut q0 (execEndK t c s) := by
  unfold execEndK
  with_reducible repeat' (first | assumption | intro _ | apply keepsOut_next | apply keeps_slotOp | simp only [keeps_lit] | apply keeps_of | dsimp only | split)

end Sys2Proof.Machine
end

