-- ==== Sys2Proof/Laws/KeepsSideband.lean ====
section
/-!
SUPPORT. Every state that a definition of Machine/Sideband.lean answers keeps the canonical form of both memories, the beat and the queue.
-/
set_option linter.unusedTactic false
set_option linter.unreachableTactic false
set_option linter.unusedVariables false
set_option linter.unusedSimpArgs false
namespace Sys2Proof.Machine

theorem keeps_execEntdaa {q0 : List Instr} (addr : Nat) (s : State) (hs : Keeps q0 s) : KeepsOut q0 (execEntdaa addr s) := by
  unfold execEntdaa
  with_reducible repeat' (first | assumption | intro _ | apply keepsOut_next | apply keeps_State_takeFree | apply keeps_respond | simp only [keeps_lit] | apply keeps_of | dsimp only | split)

theorem keeps_mctpControl {q0 : List Instr} (s : State) (f : State → State) (hs : Keeps q0 s) (hf : ∀ y0, Keeps q0 y0 → Keeps q0 (f y0)) : Keeps q0 (mctpControl s f) := by
  unfold mctpControl
  with_reducible repeat' (first | assumption | intro _ | apply hf | simp only [keeps_lit] | apply keeps_of | dsimp only | split)

theorem keeps_execSetEndpointId {q0 : List Instr} (eid : Nat) (s : State) (hs : Keeps q0 s) : KeepsOut q0 (execSetEndpointId eid s) := by
  unfold execSetEndpointId
  with_reducible repeat' (first | assumption | intro _ | apply keepsOut_next | apply keeps_mctpControl | apply keeps_respond | simp only [keeps_lit] | apply keeps_of | dsimp only | split)

theorem keeps_execGetEndpointId {q0 : List Instr} (s : State) (hs : Keeps q0 s) : KeepsOut q0 (execGetEndpointId s) := by
  unfold execGetEndpointId
  with_reducible repeat' (first | assumption | intro _ | apply keepsOut_next | apply keeps_mctpControl | apply keeps_respond | simp only [keeps_lit] | apply keeps_of | dsimp only | split)

theorem keeps_execGetMctpVersionSupport {q0 : List Instr} (type : Nat) (s : State) (hs : Keeps q0 s) : KeepsOut q0 (execGetMctpVersionSupport type s) := by
  unfold execGetMctpVersionSupport
  with_reducible repeat' (first | assumption | intro _ | apply keepsOut_next | apply keeps_mctpControl | apply keeps_State_takeFree | apply keeps_respond | simp only [keeps_lit] | apply keeps_of | dsimp only | split)

theorem keeps_execGetMessageTypeSupport {q0 : List Instr} (s : State) (hs : Keeps q0 s) : KeepsOut q0 (execGetMessageTypeSupport s) := by
  unfold execGetMessageTypeSupport
  with_reducible repeat' (first | assumption | intro _ | apply keepsOut_next | apply keeps_mctpControl | apply keeps_respond | simp only [keeps_lit] | apply keeps_of | dsimp only | split)

theorem keeps_execGetVendorDefinedMessageSupport {q0 : List Instr} (selector : Nat) (s : State) (hs : Keeps q0 s) : KeepsOut q0 (execGetVendorDefinedMessageSupport selector s) := by
  unfold execGetVendorDefinedMessageSupport
  with_reducible repeat' (first | assumption | intro _ | apply keepsOut_next | apply keeps_mctpControl | apply keeps_respond | simp only [keeps_lit] | apply keeps_of | dsimp only | split)

theorem keeps_pldm {q0 : List Instr} (s : State) (f : State → State) (hs : Keeps q0 s) (hf : ∀ y0, Keeps q0 y0 → Keeps q0 (f y0)) : Keeps q0 (pldm s f) := by
  unfold pldm
  with_reducible repeat' (first | assumption | intro _ | apply keeps_respond | apply hf | simp only [keeps_lit] | apply keeps_of | dsimp only | split)

theorem keeps_execPldmBase {q0 : List Instr} (cmd : Nat) (s : State) (hs : Keeps q0 s) : KeepsOut q0 (execPldmBase cmd s) := by
  unfold execPldmBase
  with_reducible repeat' (first | assumption | intro _ | apply keepsOut_next | apply keeps_pldm | apply keeps_respond | apply keeps_State_takeFree | simp only [keeps_lit] | apply keeps_of | dsimp only | split)

theorem keeps_execGetPdrRepositoryInfo {q0 : List Instr} (s : State) (hs : Keeps q0 s) : KeepsOut q0 (execGetPdrRepositoryInfo s) := by
  unfold execGetPdrRepositoryInfo
  with_reducible repeat' (first | assumption | intro _ | apply keepsOut_next | apply keeps_pldm | apply keeps_respond | simp only [keeps_lit] | apply keeps_of | dsimp only | split)

theorem keeps_execGetPdr {q0 : List Instr} (record : Nat) (s : State) (hs : Keeps q0 s) : KeepsOut q0 (execGetPdr record s) := by
  unfold execGetPdr
  with_reducible repeat' (first | assumption | intro _ | apply keepsOut_next | apply keeps_pldm | apply keeps_respond | simp only [keeps_lit] | apply keeps_of | dsimp only | split)

theorem keeps_execGetSensorReading {q0 : List Instr} (sensor : Nat) (s : State) (hs : Keeps q0 s) : KeepsOut q0 (execGetSensorReading sensor s) := by
  unfold execGetSensorReading
  with_reducible repeat' (first | assumption | intro _ | apply keepsOut_next | apply keeps_pldm | apply keeps_respond | simp only [keeps_lit] | apply keeps_of | dsimp only | split)

theorem keeps_execRecorderRead {q0 : List Instr} (from_ count : Nat) (s : State) (hs : Keeps q0 s) : KeepsOut q0 (execRecorderRead from_ count s) := by
  unfold execRecorderRead
  with_reducible repeat' (first | assumption | intro _ | apply keepsOut_next | apply keeps_vendorSp | apply keeps_vendorReply | apply keeps_markPersisted | apply keeps_mapRecs | simp only [keeps_lit] | apply keeps_of | dsimp only | split)

theorem keeps_execAlertAck {q0 : List Instr} (seq : Nat) (s : State) (hs : Keeps q0 s) : KeepsOut q0 (execAlertAck seq s) := by
  unfold execAlertAck
  with_reducible repeat' (first | assumption | intro _ | apply keepsOut_next | apply keeps_vendorCp7 | apply keeps_vendorReply | apply keeps_markPersisted | simp only [keeps_lit] | apply keeps_of | dsimp only | split)

theorem keeps_anchorList {q0 : List Instr} (s : State) (entries : List (List Byte)) (hs : Keeps q0 s) : Keeps q0 (anchorList s entries) := by
  unfold anchorList
  with_reducible repeat' (first | assumption | intro _ | refine keeps_foldl _ _ ?_ ?_ | simp only [keeps_lit] | apply keeps_of | dsimp only | split)

theorem keeps_execAnchorSet {q0 : List Instr} (opsec pcc : Nat) (entries : List (List Byte)) (s0 : State) (hs0 : Keeps q0 s0) : KeepsOut q0 (execAnchorSet opsec pcc entries s0) := by
  unfold execAnchorSet
  with_reducible repeat' (first | assumption | intro _ | apply keepsOut_next | apply keeps_vendorSp | apply keeps_vendorReply | apply keeps_mapRecs | apply keeps_anchorList | apply keeps_loadAnchor | simp only [keeps_lit] | apply keeps_of | dsimp only | split)

theorem keeps_execAnchorGet {q0 : List Instr} (s : State) (hs : Keeps q0 s) : KeepsOut q0 (execAnchorGet s) := by
  unfold execAnchorGet
  with_reducible repeat' (first | assumption | intro _ | apply keepsOut_next | apply keeps_vendorCp7 | apply keeps_vendorReply | simp only [keeps_lit] | apply keeps_of | dsimp only | split)

theorem keeps_execRetireClear {q0 : List Instr} (s : State) (hs : Keeps q0 s) : KeepsOut q0 (execRetireClear s) := by
  unfold execRetireClear
  with_reducible repeat' (first | assumption | intro _ | apply keepsOut_next | apply keeps_vendorCp7 | apply keeps_vendorReply | apply keeps_recordEvent | simp only [keeps_lit] | apply keeps_of | dsimp only | split)

end Sys2Proof.Machine
end

