-- ==== Sys2Proof/Laws/KeepsSlices.lean ====
section
/-!
SUPPORT. Every state that a definition of Machine/Slices.lean answers keeps the canonical form of both memories, the beat and the queue.
-/
set_option linter.unusedTactic false
set_option linter.unreachableTactic false
set_option linter.unusedVariables false
set_option linter.unusedSimpArgs false
namespace Sys2Proof.Machine

theorem keeps_sliceAssignApply {q0 : List Instr} (r : JRec) (s : State) (hs : Keeps q0 s) : Keeps q0 (sliceAssignApply r s) := by
  unfold sliceAssignApply
  with_reducible repeat' (first | assumption | intro _ | simp only [keeps_lit] | apply keeps_of | dsimp only | split)

theorem keeps_execSliceAssign {q0 : List Instr} (q seq : Nat) (s : State) (hs : Keeps q0 s) : KeepsOut q0 (execSliceAssign q seq s) := by
  unfold execSliceAssign
  with_reducible repeat' (first | assumption | intro _ | apply keepsOut_next | apply keeps_withSeamCmd | simp only [keeps_lit] | apply keeps_of | dsimp only | split)

theorem keeps_sliceQuotaApply {q0 : List Instr} (r : JRec) (s : State) (hs : Keeps q0 s) : Keeps q0 (sliceQuotaApply r s) := by
  unfold sliceQuotaApply
  with_reducible repeat' (first | assumption | intro _ | apply keeps_drawKeys | simp only [keeps_lit] | apply keeps_of | dsimp only | split)

theorem keeps_execSliceQuota {q0 : List Instr} (q seq : Nat) (s : State) (hs : Keeps q0 s) : KeepsOut q0 (execSliceQuota q seq s) := by
  unfold execSliceQuota
  with_reducible repeat' (first | assumption | intro _ | apply keepsOut_next | apply keeps_withSeamCmd | simp only [keeps_lit] | apply keeps_of | dsimp only | split)

theorem keeps_debtSeam {q0 : List Instr} (s : State) (hs : Keeps q0 s) : Keeps q0 (debtSeam s) := by
  unfold debtSeam
  with_reducible repeat' (first | assumption | intro _ | refine keeps_foldl _ _ ?_ ?_ | simp only [keeps_lit] | apply keeps_of | dsimp only | split)

theorem keeps_execSlowdownWindow {q0 : List Instr} (s : State) (hs : Keeps q0 s) : KeepsOut q0 (execSlowdownWindow s) := by
  unfold execSlowdownWindow
  with_reducible repeat' (first | assumption | intro _ | apply keepsOut_next | simp only [keeps_lit] | apply keeps_of | dsimp only | split)

end Sys2Proof.Machine
end

