-- ==== Sys2Proof/Laws/KeepsSpdm.lean ====
section
/-!
SUPPORT. Every state that a definition of Machine/Spdm.lean answers keeps the canonical form of both memories, the beat and the queue.
-/
set_option linter.unusedTactic false
set_option linter.unreachableTactic false
set_option linter.unusedVariables false
set_option linter.unusedSimpArgs false
namespace Sys2Proof.Machine

theorem keeps_spdmSend {q0 : List Instr} (s : State) (mbx : Bool) (code status : Nat) (content : List Byte) (hs : Keeps q0 s) : Keeps q0 (spdmSend s mbx code status content) := by
  unfold spdmSend
  with_reducible repeat' (first | assumption | intro _ | apply keeps_respond | simp only [keeps_lit] | apply keeps_of | dsimp only | split)

theorem keeps_spdmError {q0 : List Instr} (s : State) (mbx : Bool) (e status : Nat) (hs : Keeps q0 s) : Keeps q0 (spdmError s mbx e status) := by
  unfold spdmError
  with_reducible repeat' (first | assumption | intro _ | apply keeps_spdmSend | simp only [keeps_lit] | apply keeps_of | dsimp only | split)

theorem keeps_spdmLog {q0 : List Instr} (s : State) (req : Nat) (reqContent : List Byte) (resp : Nat) (content : List Byte) (hs : Keeps q0 s) : Keeps q0 (spdmLog s req reqContent resp content) := by
  unfold spdmLog
  with_reducible repeat' (first | assumption | intro _ | simp only [keeps_lit] | apply keeps_of | dsimp only | split)

theorem keeps_spdmTake {q0 : List Instr} (s : State) (mbx unread : Bool) (f : State → State) (hs : Keeps q0 s) (hf : ∀ y0, Keeps q0 y0 → Keeps q0 (f y0)) : Keeps q0 (spdmTake s mbx unread f) := by
  unfold spdmTake
  with_reducible repeat' (first | assumption | intro _ | apply keeps_spdmError | apply hf | simp only [keeps_lit] | apply keeps_of | dsimp only | split)

theorem keeps_spdmIn {q0 : List Instr} (s : State) (mbx unread : Bool) (need : Nat) (f : State → State) (hs : Keeps q0 s) (hf : ∀ y0, Keeps q0 y0 → Keeps q0 (f y0)) : Keeps q0 (spdmIn s mbx unread need f) := by
  unfold spdmIn
  with_reducible repeat' (first | assumption | intro _ | apply keeps_spdmTake | apply keeps_spdmError | apply hf | simp only [keeps_lit] | apply keeps_of | dsimp only | split)

theorem keeps_spdmAnswer {q0 : List Instr} (s : State) (mbx : Bool) (req : Nat) (reqContent : List Byte) (resp : Nat) (content : List Byte) (hs : Keeps q0 s) : Keeps q0 (spdmAnswer s mbx req reqContent resp content) := by
  unfold spdmAnswer
  with_reducible repeat' (first | assumption | intro _ | apply keeps_spdmSend | apply keeps_spdmLog | simp only [keeps_lit] | apply keeps_of | dsimp only | split)

theorem keeps_execGetVersion {q0 : List Instr} (mbx unread : Bool) (s : State) (hs : Keeps q0 s) : KeepsOut q0 (execGetVersion mbx unread s) := by
  unfold execGetVersion
  with_reducible repeat' (first | assumption | intro _ | apply keepsOut_next | apply keeps_spdmTake | apply keeps_spdmAnswer | simp only [keeps_lit] | apply keeps_of | dsimp only | split)

theorem keeps_execGetCapabilities {q0 : List Instr} (mbx unread : Bool) (s : State) (hs : Keeps q0 s) : KeepsOut q0 (execGetCapabilities mbx unread s) := by
  unfold execGetCapabilities
  with_reducible repeat' (first | assumption | intro _ | apply keepsOut_next | apply keeps_spdmIn | apply keeps_spdmAnswer | simp only [keeps_lit] | apply keeps_of | dsimp only | split)

theorem keeps_execNegotiateAlgorithms {q0 : List Instr} (mbx unread : Bool) (s : State) (hs : Keeps q0 s) : KeepsOut q0 (execNegotiateAlgorithms mbx unread s) := by
  unfold execNegotiateAlgorithms
  with_reducible repeat' (first | assumption | intro _ | apply keepsOut_next | apply keeps_spdmIn | apply keeps_spdmAnswer | simp only [keeps_lit] | apply keeps_of | dsimp only | split)

theorem keeps_execGetDigests {q0 : List Instr} (mbx unread : Bool) (s : State) (hs : Keeps q0 s) : KeepsOut q0 (execGetDigests mbx unread s) := by
  unfold execGetDigests
  with_reducible repeat' (first | assumption | intro _ | apply keepsOut_next | apply keeps_spdmIn | apply keeps_spdmAnswer | apply keeps_spdmError | simp only [keeps_lit] | apply keeps_of | dsimp only | split)

theorem keeps_execGetCertificate {q0 : List Instr} (mbx unread : Bool) (slot offset len : Nat) (s : State) (hs : Keeps q0 s) : KeepsOut q0 (execGetCertificate mbx unread slot offset len s) := by
  unfold execGetCertificate
  with_reducible repeat' (first | assumption | intro _ | apply keepsOut_next | apply keeps_spdmIn | apply keeps_spdmError | apply keeps_spdmAnswer | simp only [keeps_lit] | apply keeps_of | dsimp only | split)

theorem keeps_spdmSigned {q0 : List Instr} (s : State) (mbx : Bool) (req : Nat) (reqContent : List Byte) (resp : Nat) (content : List Byte → List Byte) (hs : Keeps q0 s) : Keeps q0 (spdmSigned s mbx req reqContent resp content) := by
  unfold spdmSigned
  with_reducible repeat' (first | assumption | intro _ | apply keeps_spdmError | apply keeps_freeWords | apply keeps_spdmLog | apply keeps_spdmSend | simp only [keeps_lit] | apply keeps_of | dsimp only | split)

theorem keeps_execChallenge {q0 : List Instr} (mbx unread : Bool) (nonce : List Byte) (s : State) (hs : Keeps q0 s) : KeepsOut q0 (execChallenge mbx unread nonce s) := by
  unfold execChallenge
  with_reducible repeat' (first | assumption | intro _ | apply keepsOut_next | apply keeps_spdmIn | apply keeps_spdmError | apply keeps_spdmSigned | simp only [keeps_lit] | apply keeps_of | dsimp only | split)

theorem keeps_execGetMeasurements {q0 : List Instr} (mbx unread : Bool) (index : Nat) (sign : Bool) (nonce : List Byte) (s : State) (hs : Keeps q0 s) : KeepsOut q0 (execGetMeasurements mbx unread index sign nonce s) := by
  unfold execGetMeasurements
  with_reducible repeat' (first | assumption | intro _ | apply keepsOut_next | apply keeps_spdmIn | apply keeps_spdmError | apply keeps_spdmSigned | apply keeps_spdmAnswer | simp only [keeps_lit] | apply keeps_of | dsimp only | split)

theorem keeps_execUnsupportedRequest {q0 : List Instr} (mbx unread : Bool) (code : Nat) (s : State) (hs : Keeps q0 s) : KeepsOut q0 (execUnsupportedRequest mbx unread code s) := by
  unfold execUnsupportedRequest
  with_reducible repeat' (first | assumption | intro _ | apply keepsOut_next | apply keeps_spdmTake | apply keeps_spdmError | simp only [keeps_lit] | apply keeps_of | dsimp only | split)

end Sys2Proof.Machine
end

