-- ==== Sys2Proof/Laws/KeepsPhy.lean ====
section
/-!
SUPPORT. Every state that a definition of Machine/Phy.lean answers keeps the canonical form of both memories, the beat and the queue.
-/
set_option linter.unusedTactic false
set_option linter.unreachableTactic false
set_option linter.unusedVariables false
set_option linter.unusedSimpArgs false
namespace Sys2Proof.Machine

theorem keeps_puschDone {q0 : List Instr} (s : State) (c first rnti harq : Nat) (hs : Keeps q0 s) : Keeps q0 (puschDone s c first rnti harq) := by
  unfold puschDone
  with_reducible repeat' (first | assumption | intro _ | apply keeps_harqStore | apply keeps_harqFree | apply keeps_cellInd | apply keeps_ulServed | simp only [keeps_lit] | apply keeps_of | dsimp only | split)

theorem keeps_uciDone {q0 : List Instr} (s : State) (c first i : Nat) (hs : Keeps q0 s) : Keeps q0 (uciDone s c first i) := by
  unfold uciDone
  with_reducible repeat' (first | assumption | intro _ | apply keeps_cellInd | simp only [keeps_lit] | apply keeps_of | dsimp only | split)

theorem keeps_srsDone {q0 : List Instr} (s : State) (c first i : Nat) (hs : Keeps q0 s) : Keeps q0 (srsDone s c first i) := by
  unfold srsDone
  with_reducible repeat' (first | assumption | intro _ | apply keeps_cellInd | apply keeps_modCell | simp only [keeps_lit] | apply keeps_of | dsimp only | split)

theorem keeps_rachDone {q0 : List Instr} (s : State) (c first i : Nat) (hs : Keeps q0 s) : Keeps q0 (rachDone s c first i) := by
  unfold rachDone
  with_reducible repeat' (first | assumption | intro _ | apply keeps_cellInd | simp only [keeps_lit] | apply keeps_of | dsimp only | split)

theorem keeps_downlinkDone {q0 : List Instr} (s : State) (c first index : Nat) (hs : Keeps q0 s) : Keeps q0 (downlinkDone s c first index) := by
  unfold downlinkDone
  with_reducible repeat' (first | assumption | intro _ | refine keeps_foldl _ _ ?_ ?_ | apply keeps_modCell | simp only [keeps_lit] | apply keeps_of | dsimp only | split)

theorem keeps_radioOut {q0 : List Instr} (s : State) (z0 : RadioOut) (hs : Keeps q0 s) : Keeps q0 (radioOut s z0) := by
  unfold radioOut
  with_reducible repeat' (first | assumption | intro _ | apply keeps_puschDone | apply keeps_uciDone | apply keeps_srsDone | apply keeps_rachDone | apply keeps_downlinkDone | simp only [keeps_lit] | apply keeps_of | dsimp only | split)


end Sys2Proof.Machine
end

