-- ==== Sys2Proof/Laws/KeepsTiles.lean ====
section
/-!
SUPPORT. Every state that a definition of Machine/Tiles.lean answers keeps the canonical form of both memories, the beat and the queue.
-/
set_option linter.unusedTactic false
set_option linter.unreachableTactic false
set_option linter.unusedVariables false
set_option linter.unusedSimpArgs false
namespace Sys2Proof.Machine

theorem keeps_startKernel {q0 : List Instr} (s0 : State) (t : Nat) (kernel : Nat) (im : Image) (args : List W64) (slice context : Nat) (isStatic : Bool) (job : Option StealJob) (hs0 : Keeps q0 s0) : Keeps q0 (startKernel s0 t kernel im args slice context isStatic job) := by
  unfold startKernel
  with_reducible repeat' (first | assumption | intro _ | apply keeps_unparkJob | apply keeps_setTile | simp only [keeps_lit] | apply keeps_of | dsimp only | split)

theorem keeps_holdUnit {q0 : List Instr} (s : State) (u : Nat) (hs : Keeps q0 s) : Keeps q0 (holdUnit s u) := by
  unfold holdUnit
  with_reducible repeat' (first | assumption | intro _ | apply keeps_modTile | apply keeps_hold | simp only [keeps_lit] | apply keeps_of | dsimp only | split)

theorem keeps_guardFails {q0 : List Instr} (s : State) (u ctr : Nat) (hs : Keeps q0 s) : Keeps q0 (guardFails s u ctr) := by
  unfold guardFails
  with_reducible repeat' (first | assumption | intro _ | refine keeps_foldl _ _ ?_ ?_ | apply keeps_holdUnit | apply keeps_recordEvent | apply keeps_withdrawStep | apply keeps_unitLost | simp only [keeps_lit] | apply keeps_of | dsimp only | split)

theorem keeps_settleGuards {q0 : List Instr} (s : State) (all : Bool) (hs : Keeps q0 s) : Keeps q0 (settleGuards s all) := by
  unfold settleGuards
  with_reducible repeat' (first | assumption | intro _ | refine keeps_foldl _ _ ?_ ?_ | apply keeps_guardFails | simp only [keeps_lit] | apply keeps_of | dsimp only | split)

theorem keeps_sliceResetEnds {q0 : List Instr} (s : State) (slice q seq : Nat) (hs : Keeps q0 s) : Keeps q0 (sliceResetEnds s slice q seq) := by
  unfold sliceResetEnds
  with_reducible repeat' (first | assumption | intro _ | apply keeps_finish | simp only [keeps_lit] | apply keeps_of | dsimp only | split)

theorem keeps_settleScrubs {q0 : List Instr} (s : State) (hs : Keeps q0 s) : Keeps q0 (settleScrubs s) := by
  unfold settleScrubs
  with_reducible repeat' (first | assumption | intro _ | refine keeps_foldl _ _ ?_ ?_ | apply keeps_sliceResetEnds | simp only [keeps_lit] | apply keeps_of | dsimp only | split)

theorem keeps_startTile {q0 : List Instr} (s : State) (t kernel argset : Nat) (hs : Keeps q0 s) : Keeps q0 (startTile s t kernel argset) := by
  unfold startTile
  with_reducible repeat' (first | assumption | intro _ | apply keeps_withdrawStep | apply keeps_stepAgain | apply keeps_startKernel | apply keeps_unitLost | simp only [keeps_lit] | apply keeps_of | dsimp only | split)

theorem keeps_startJob {q0 : List Instr} (s : State) (u job : Nat) (hs : Keeps q0 s) : Keeps q0 (startJob s u job) := by
  have go : ∀ j own, Keeps q0 (startJob.go s u j own) := by
    intro j own
    unfold startJob.go
    with_reducible repeat' (first | assumption | intro _ | apply keeps_withdrawStep | apply keeps_startCodeList | apply keeps_startXferList | simp only [keeps_lit] | apply keeps_of | dsimp only | split)
  unfold startJob
  with_reducible repeat' (first | apply go | (first | assumption | intro _ | apply keeps_withdrawStep | apply keeps_startCodeList | apply keeps_startXferList | simp only [keeps_lit] | apply keeps_of | dsimp only | split))


theorem keeps_issueEntry {q0 : List Instr} (s : State) (e : Nat × Act) (hs : Keeps q0 s) : Keeps q0 (issueEntry s e) := by
  unfold issueEntry
  with_reducible repeat' (first | assumption | intro _ | apply keeps_hold | apply keeps_holdUnit | apply keeps_modTile | apply keeps_startTile | apply keeps_startJob | simp only [keeps_lit] | apply keeps_of | dsimp only | split)

theorem keeps_timedLand {q0 : List Instr} (s : State) (all : Bool) (hs : Keeps q0 s) : Keeps q0 (timedLand s all) := by
  unfold timedLand
  with_reducible repeat' (first | assumption | intro _ | apply keeps_timedDue | simp only [keeps_lit] | apply keeps_of | dsimp only | split)

theorem keeps_timedGo {q0 : List Instr} (s : State) (hs : Keeps q0 s) : Keeps q0 (timedGo s) := by
  unfold timedGo
  with_reducible repeat' (first | assumption | intro _ | refine keeps_foldl _ _ ?_ ?_ | simp only [keeps_lit] | apply keeps_of | dsimp only | split)

theorem keeps_execOvercastWord {q0 : List Instr} (s0 : State) (hs0 : Keeps q0 s0) : KeepsOut q0 (execOvercastWord s0) := by
  unfold execOvercastWord
  with_reducible repeat' (first | assumption | intro _ | apply keepsOut_next | refine keeps_foldl _ _ ?_ ?_ | apply keeps_settleScrubs | apply keeps_settleGuards | apply keeps_issueEntry | apply keeps_timedGo | apply keeps_timedLand | simp only [keeps_lit] | apply keeps_of | dsimp only | split)

theorem keeps_takeJob {q0 : List Instr} (s : State) (t : Nat) (j : StealJob) (src : Option Nat) (hs : Keeps q0 s) : Keeps q0 (takeJob s t j src) := by
  unfold takeJob
  with_reducible repeat' (first | assumption | intro _ | apply keeps_modTile | simp only [keeps_lit] | apply keeps_of | dsimp only | split)

theorem keeps_startJobOn {q0 : List Instr} (s : State) (t : Nat) (j : StealJob) (src : Option Nat) (hs : Keeps q0 s) : Keeps q0 (startJobOn s t j src) := by
  unfold startJobOn
  with_reducible repeat' (first | assumption | intro _ | apply keeps_modTile | apply keeps_barContext | apply keeps_recordEvent | apply keeps_recordUncorrected | apply keeps_startKernel | simp only [keeps_lit] | apply keeps_of | dsimp only | split)

theorem keeps_retryNext {q0 : List Instr} (s : State) (t : Nat) (hs : Keeps q0 s) : Keeps q0 (retryNext s t) := by
  unfold retryNext
  with_reducible repeat' (first | assumption | intro _ | apply keeps_modTile | apply keeps_startJobOn | apply keeps_giveBack | simp only [keeps_lit] | apply keeps_of | dsimp only | split)

theorem keeps_visitTile {q0 : List Instr} (s : State) (t : Nat) (hs : Keeps q0 s) : Keeps q0 (visitTile s t) := by
  unfold visitTile
  with_reducible repeat' (first | assumption | intro _ | apply keeps_retryNext | apply keeps_startJobOn | apply keeps_takeJob | simp only [keeps_lit] | apply keeps_of | dsimp only | split)

theorem keeps_placeJob {q0 : List Instr} (s : State) (die : Nat) (tile : Option Nat) (j : StealJob) (hs : Keeps q0 s) : Keeps q0 (placeJob s die tile j) := by
  unfold placeJob
  with_reducible repeat' (first | assumption | intro _ | apply keeps_modTile | apply keeps_startJobOn | simp only [keeps_lit] | apply keeps_of | dsimp only | split)

theorem keeps_numberJob {q0 : List Instr} (s : State) (d : Nat) (j : StealJob) (hs : Keeps q0 s) : Keeps q0 (numberJob s d j).1 := by
  unfold numberJob
  with_reducible repeat' (first | assumption | intro _ | simp only [keeps_lit] | apply keeps_of | dsimp only | split)

theorem keeps_takeArrival {q0 : List Instr} (s : State) (d : Nat) (a : Arrival) (hs : Keeps q0 s) : Keeps q0 (takeArrival s d a) := by
  unfold takeArrival
  with_reducible repeat' (first | assumption | intro _ | apply keeps_placeJob | apply keeps_numberJob | simp only [keeps_lit] | apply keeps_of | dsimp only | split)

theorem keeps_arrive {q0 : List Instr}  (z0 : Nat) (z1 : List Arrival) (z2 : State) (z3 : Nat) (hz2 : Keeps q0 z2) : Keeps q0 (arrive z0 z1 z2 z3) := by
  induction z0 generalizing z1 z2 with
  | zero => unfold arrive; with_reducible repeat' (first | assumption | intro _ | apply keeps_takeArrival | simp only [keeps_lit] | apply keeps_of | dsimp only | split)
  | succ n ih =>
    unfold arrive
    with_reducible repeat' (first | apply ih | (first | assumption | intro _ | apply keeps_takeArrival | simp only [keeps_lit] | apply keeps_of | dsimp only | split))


theorem keeps_countWindow {q0 : List Instr} (s : State) (d : Nat) (entries : List StealJob) (sl : Nat) (hs : Keeps q0 s) : Keeps q0 (countWindow s d entries sl) := by
  unfold countWindow
  with_reducible repeat' (first | assumption | intro _ | apply keeps_hold | simp only [keeps_lit] | apply keeps_of | dsimp only | split)

theorem keeps_countWindows {q0 : List Instr} (s : State) (hs : Keeps q0 s) : Keeps q0 (countWindows s) := by
  unfold countWindows
  with_reducible repeat' (first | assumption | intro _ | refine keeps_foldl _ _ ?_ ?_ | apply keeps_countWindow | simp only [keeps_lit] | apply keeps_of | dsimp only | split)

theorem keeps_execDispatch {q0 : List Instr} (arrivals : List Arrival) (s0 : State) (hs0 : Keeps q0 s0) : KeepsOut q0 (execDispatch arrivals s0) := by
  unfold execDispatch
  with_reducible repeat' (first | assumption | intro _ | apply keepsOut_next | refine keeps_foldl _ _ ?_ ?_ | apply keeps_settleScrubs | apply keeps_settleGuards | apply keeps_visitTile | apply keeps_arrive | apply keeps_countWindows | simp only [keeps_lit] | apply keeps_of | dsimp only | split)

theorem keeps_execKernelEnd {q0 : List Instr} (t : Nat) (radio : List RadioOut) (s : State) (hs : Keeps q0 s) : KeepsOut q0 (execKernelEnd t radio s) := by
  unfold execKernelEnd
  with_reducible repeat' (first | assumption | intro _ | apply keepsOut_next | refine keeps_foldl _ _ ?_ ?_ | apply keeps_residueFault | apply keeps_leaveTile | apply keeps_setTile | apply keeps_bumpCounter | apply keeps_attnJobEnd | apply keeps_radioOut | simp only [keeps_lit] | apply keeps_of | dsimp only | split)

theorem keeps_execKernelOverrun {q0 : List Instr} (t : Nat) (s : State) (hs : Keeps q0 s) : KeepsOut q0 (execKernelOverrun t s) := by
  unfold execKernelOverrun
  with_reducible repeat' (first | assumption | intro _ | apply keepsOut_next | apply keeps_residueFault | apply keeps_tileFault | apply keeps_leaveTile | apply keeps_barContext | apply keeps_recordEvent | simp only [keeps_lit] | apply keeps_of | dsimp only | split)

theorem keeps_execWaitdTimeout {q0 : List Instr} (t : Nat) (s : State) (hs : Keeps q0 s) : KeepsOut q0 (execWaitdTimeout t s) := by
  unfold execWaitdTimeout
  with_reducible repeat' (first | assumption | intro _ | apply keepsOut_next | apply keeps_residueFault | apply keeps_ruleBreak | simp only [keeps_lit] | apply keeps_of | dsimp only | split)

end Sys2Proof.Machine
end

