-- ==== Sys2Proof/Laws/KeepsTick.lean ====
section
/-!
SUPPORT. Every state that a definition of Machine/Tick.lean answers keeps the canonical form of both memories, the beat and the queue.
-/
set_option linter.unusedTactic false
set_option linter.unreachableTactic false
set_option linter.unusedVariables false
set_option linter.unusedSimpArgs false
namespace Sys2Proof.Machine

theorem keeps_sealPlan {q0 : List Instr} (s : State) (p : Plan) (hs : Keeps q0 s) : Keeps q0 (sealPlan s p) := by
  unfold sealPlan
  with_reducible repeat' (first | assumption | intro _ | apply keeps_trace | simp only [keeps_lit] | apply keeps_of | dsimp only | split)

theorem keeps_execPlanSeal {q0 : List Instr} (p : Plan) (s : State) (hs : Keeps q0 s) : KeepsOut q0 (execPlanSeal p s) := by
  unfold execPlanSeal
  with_reducible repeat' (first | assumption | intro _ | apply keepsOut_next | apply keeps_sealPlan | apply keeps_recordEvent | simp only [keeps_lit] | apply keeps_of | dsimp only | split)

theorem keeps_substitute {q0 : List Instr} (s : State) (hs : Keeps q0 s) : Keeps q0 (substitute s) := by
  unfold substitute
  with_reducible repeat' (first | assumption | intro _ | apply keeps_trace | simp only [keeps_lit] | apply keeps_of | dsimp only | split)

theorem keeps_execPlanSubstitute {q0 : List Instr} (s : State) (hs : Keeps q0 s) : KeepsOut q0 (execPlanSubstitute s) := by
  unfold execPlanSubstitute
  with_reducible repeat' (first | assumption | intro _ | apply keepsOut_next | apply keeps_substitute | simp only [keeps_lit] | apply keeps_of | dsimp only | split)

theorem keeps_clockModeAsk {q0 : List Instr} (r : JRec) (s : State) (hs : Keeps q0 s) : Keeps q0 (clockModeAsk r s) := by
  unfold clockModeAsk
  with_reducible repeat' (first | assumption | intro _ | simp only [keeps_lit] | apply keeps_of | dsimp only | split)

theorem keeps_execClockMode {q0 : List Instr} (q seq : Nat) (s : State) (hs : Keeps q0 s) : KeepsOut q0 (execClockMode q seq s) := by
  unfold execClockMode
  with_reducible repeat' (first | assumption | intro _ | apply keepsOut_next | apply keeps_withCmd | apply keeps_queueSeam | apply keeps_clockModeAsk | apply keeps_finishAt | simp only [keeps_lit] | apply keeps_of | dsimp only | split)

theorem keeps_clockModeApply {q0 : List Instr} (r : JRec) (s : State) (hs : Keeps q0 s) : Keeps q0 (clockModeApply r s) := by
  unfold clockModeApply
  with_reducible repeat' (first | assumption | intro _ | simp only [keeps_lit] | apply keeps_of | dsimp only | split)

theorem keeps_seamLand {q0 : List Instr} (r : JRec) (s : State) (hs : Keeps q0 s) : Keeps q0 (seamLand r s) := by
  unfold seamLand
  with_reducible repeat' (first | assumption | intro _ | apply keeps_fhCfgLand | apply keeps_powerCapLand | simp only [keeps_lit] | apply keeps_of | dsimp only | split)

theorem keeps_seamApply {q0 : List Instr} (r : JRec) (s : State) (hs : Keeps q0 s) : Keeps q0 (seamApply r s) := by
  unfold seamApply
  with_reducible repeat' (first | assumption | intro _ | apply keeps_mirrorApply | apply keeps_serveCfgApply | apply keeps_budgetSetApply | apply keeps_roleSetApply | apply keeps_flashCfgApply | apply keeps_regionSetApply | apply keeps_pathSetApply | apply keeps_partitionSetApply | apply keeps_portFenceApply | apply keeps_jobtagSetApply | apply keeps_sliceAssignApply | apply keeps_sliceQuotaApply | apply keeps_mbxGrantApply | apply keeps_clockModeApply | apply keeps_timeCfgApply | apply keeps_memEncApply | simp only [keeps_lit] | apply keeps_of | dsimp only | split)

theorem keeps_pruneSeam {q0 : List Instr} (s : State) (hs : Keeps q0 s) : Keeps q0 (pruneSeam s) := by
  unfold pruneSeam
  with_reducible repeat' (first | assumption | intro _ | simp only [keeps_lit] | apply keeps_of | dsimp only | split)

theorem keeps_markChecked {q0 : List Instr} (s : State) (r : JRec) (hs : Keeps q0 s) : Keeps q0 (markChecked s r) := by
  unfold markChecked
  with_reducible repeat' (first | assumption | intro _ | simp only [keeps_lit] | apply keeps_of | dsimp only | split)

theorem keeps_dropSeam {q0 : List Instr} (s : State) (r : JRec) (hs : Keeps q0 s) : Keeps q0 (dropSeam s r) := by
  unfold dropSeam
  with_reducible repeat' (first | assumption | intro _ | simp only [keeps_lit] | apply keeps_of | dsimp only | split)

theorem keeps_checkSeam {q0 : List Instr} (s : State) (hs : Keeps q0 s) : Keeps q0 (checkSeam s) := by
  have hc : ∀ (sv : State × State) (r : JRec), Keeps q0 sv.1 → Keeps q0 (checkSeamCmd sv r).1 := by
    intro sv r h
    unfold checkSeamCmd
    with_reducible repeat' (first | assumption | apply keeps_markChecked | apply keeps_seamLand | apply keeps_finishAt | apply keeps_dropSeam | simp only [keeps_lit] | apply keeps_of | dsimp only | split)
  unfold checkSeam
  exact keeps_foldl_fst _ _ (fun x r h => hc x r h) hs


theorem keeps_applySeamCmd {q0 : List Instr} (s : State) (r : JRec) (hs : Keeps q0 s) : Keeps q0 (applySeamCmd s r) := by
  unfold applySeamCmd
  with_reducible repeat' (first | assumption | intro _ | apply keeps_finish | apply keeps_seamApply | apply keeps_dropSeam | simp only [keeps_lit] | apply keeps_of | dsimp only | split)

theorem keeps_applySeam {q0 : List Instr} (s : State) (hs : Keeps q0 s) : Keeps q0 (applySeam s) := by
  unfold applySeam
  with_reducible repeat' (first | assumption | intro _ | refine keeps_foldl _ _ ?_ ?_ | apply keeps_pruneSeam | apply keeps_applySeamCmd | simp only [keeps_lit] | apply keeps_of | dsimp only | split)

theorem keeps_loadNext {q0 : List Instr} (s : State) (hs : Keeps q0 s) : Keeps q0 (loadNext s) := by
  unfold loadNext
  with_reducible repeat' (first | assumption | intro _ | simp only [keeps_lit] | apply keeps_of | dsimp only | split)

theorem keeps_duskBegins {q0 : List Instr} (s : State) (hs : Keeps q0 s) : Keeps q0 (duskBegins s) := by
  unfold duskBegins
  with_reducible repeat' (first | assumption | intro _ | apply keeps_loadNext | apply keeps_fhStage | apply keeps_pwrStage | simp only [keeps_lit] | apply keeps_of | dsimp only | split)

theorem keeps_execDuskBand {q0 : List Instr} (s : State) (hs : Keeps q0 s) : KeepsOut q0 (execDuskBand s) := by
  unfold execDuskBand
  with_reducible repeat' (first | assumption | intro _ | apply keepsOut_next | apply keeps_duskBegins | simp only [keeps_lit] | apply keeps_of | dsimp only | split)

theorem keeps_tickOn {q0 : List Instr} (s : State) (e : Int) (hs : Keeps q0 s) : Keeps q0 (tickOn s e) := by
  exact ⟨hs.1, hs.2.1, by show (0 : Nat) < 1250; decide, hs.2.2.2⟩


theorem keeps_plansSeam {q0 : List Instr} (s : State) (hs : Keeps q0 s) : Keeps q0 (plansSeam s) := by
  unfold plansSeam
  with_reducible repeat' (first | assumption | intro _ | simp only [keeps_lit] | apply keeps_of | dsimp only | split)

theorem keeps_substSeam {q0 : List Instr} (s : State) (hs : Keeps q0 s) : Keeps q0 (substSeam s) := by
  unfold substSeam
  with_reducible repeat' (first | assumption | intro _ | apply keeps_recordEvent | simp only [keeps_lit] | apply keeps_of | dsimp only | split)

theorem keeps_seamErrSeam {q0 : List Instr} (s : State) (e : Int) (hs : Keeps q0 s) : Keeps q0 (seamErrSeam s e) := by
  unfold seamErrSeam
  with_reducible repeat' (first | assumption | intro _ | apply keeps_recordEvent | simp only [keeps_lit] | apply keeps_of | dsimp only | split)

theorem keeps_streamSeam {q0 : List Instr} (s : State) (hs : Keeps q0 s) : Keeps q0 (streamSeam s) := by
  unfold streamSeam
  with_reducible repeat' (first | assumption | intro _ | simp only [keeps_lit] | apply keeps_of | dsimp only | split)

theorem keeps_tilesSeam {q0 : List Instr} (s : State) (hs : Keeps q0 s) : Keeps q0 (tilesSeam s) := by
  unfold tilesSeam
  with_reducible repeat' (first | assumption | intro _ | refine keeps_foldl _ _ ?_ ?_ | simp only [keeps_lit] | apply keeps_of | dsimp only | split)

theorem keeps_bindTile {q0 : List Instr} (s : State) (t p : Nat) (hs : Keeps q0 s) : Keeps q0 (bindTile s t p) := by
  unfold bindTile
  with_reducible repeat' (first | assumption | intro _ | apply keeps_setTile | simp only [keeps_lit] | apply keeps_of | dsimp only | split)

theorem keeps_bindSeam {q0 : List Instr} (s : State) (hs : Keeps q0 s) : Keeps q0 (bindSeam s) := by
  unfold bindSeam
  with_reducible repeat' (first | assumption | intro _ | refine keeps_foldl _ _ ?_ ?_ | apply keeps_bindTile | simp only [keeps_lit] | apply keeps_of | dsimp only | split)

theorem keeps_rerunLost {q0 : List Instr} (s : State) (e : Nat × Nat) (hs : Keeps q0 s) : Keeps q0 (rerunLost s e) := by
  unfold rerunLost
  with_reducible repeat' (first | assumption | intro _ | apply keeps_planUnitLost | simp only [keeps_lit] | apply keeps_of | dsimp only | split)

theorem keeps_rerunSeam {q0 : List Instr} (s : State) (hs : Keeps q0 s) : Keeps q0 (rerunSeam s) := by
  unfold rerunSeam
  with_reducible repeat' (first | assumption | intro _ | refine keeps_foldl _ _ ?_ ?_ | apply keeps_rerunLost | simp only [keeps_lit] | apply keeps_of | dsimp only | split)

theorem keeps_setupSeam {q0 : List Instr} (s : State) (hs : Keeps q0 s) : Keeps q0 (setupSeam s) := by
  unfold setupSeam
  with_reducible repeat' (first | assumption | intro _ | simp only [keeps_lit] | apply keeps_of | dsimp only | split)

theorem keeps_cellsSeam {q0 : List Instr} (s : State) (hs : Keeps q0 s) : Keeps q0 (cellsSeam s) := by
  unfold cellsSeam
  with_reducible repeat' (first | assumption | intro _ | refine keeps_foldl _ _ ?_ ?_ | apply keeps_goOff | apply keeps_cellSeam | simp only [keeps_lit] | apply keeps_of | dsimp only | split)

theorem keeps_dropImage {q0 : List Instr} (s : State) (e : Nat × Nat) (hs : Keeps q0 s) : Keeps q0 (dropImage s e) := by
  unfold dropImage
  with_reducible repeat' (first | assumption | intro _ | simp only [keeps_lit] | apply keeps_of | dsimp only | split)

theorem keeps_seamEffects {q0 : List Instr} (s : State) (e : SeamEnv) (hs : Keeps q0 s) : Keeps q0 (seamEffects s e) := by
  unfold seamEffects
  with_reducible repeat' (first | assumption | intro _ | refine keeps_foldl _ _ ?_ ?_ | apply keeps_substSeam | apply keeps_plansSeam | apply keeps_todDue | apply keeps_seamErrSeam | apply keeps_pwrSeam | apply keeps_fhApply | apply keeps_pwrApply | apply keeps_bindSeam | apply keeps_tilesSeam | apply keeps_streamSeam | apply keeps_adapterSeam | apply keeps_applySeam | apply keeps_budgetSeam | apply keeps_cpsSeam | apply keeps_rerunSeam | apply keeps_wakeAll | apply keeps_absentSeam | apply keeps_freeEnded | apply keeps_dropImage | apply keeps_contrailSeam | apply keeps_stressSeam | apply keeps_cellsSeam | apply keeps_setupSeam | simp only [keeps_lit] | apply keeps_of | dsimp only | split)

theorem keeps_stepSeamNow {q0 : List Instr} (s : State) (hs : Keeps q0 s) : Keeps q0 (stepSeamNow s) := by
  unfold stepSeamNow
  with_reducible repeat' (first | assumption | intro _ | apply keeps_stepTo | simp only [keeps_lit] | apply keeps_of | dsimp only | split)

theorem keeps_execSeam {q0 : List Instr} (e : SeamEnv) (s : State) (hs : Keeps q0 s) : KeepsOut q0 (execSeam e s) := by
  unfold execSeam
  split
  · exact hs
  · have hb : s.tkp.beat < 1250 := hs.2.2.1
    have h0 : Keeps q0 (timedLand (settleGuards s true) true) := keeps_timedLand _ _ (keeps_settleGuards s true hs)
    generalize timedLand (settleGuards s true) true = x0 at h0
    have h1 : Keeps q0 (if s.tkp.beat < 1234 then checkSeam x0 else x0) := by
      split
      · exact keeps_checkSeam _ h0
      · exact h0
    refine keeps_seamEffects _ _ (keeps_stepSeamNow _ (keeps_tickOn _ _ (keeps_debtSeam _ ?_)))
    dsimp only
    generalize (if s.tkp.beat < 1234 then checkSeam x0 else x0) = x1 at h1 ⊢
    have h3 : Keeps q0 (settleScrubs { x1 with tkp := { x1.tkp with beat := max s.tkp.beat 1234 } }) :=
      keeps_settleScrubs _ ⟨h1.1, h1.2.1, by show max s.tkp.beat 1234 < 1250; omega, h1.2.2.2⟩
    generalize settleScrubs _ = s1 at h3 ⊢
    have h5 : Keeps q0 (substitute (if s1.tkp.frozen then s1 else duskBegins s1)) := by
      refine keeps_substitute _ ?_
      split
      · exact h3
      · exact keeps_duskBegins _ h3
    exact ⟨h5.1, h5.2.1, hb, h5.2.2.2⟩


end Sys2Proof.Machine
end

