-- ==== Sys2Proof/Laws/KeepsDispatch.lean ====
section
/-!
SUPPORT. Every state that a definition of Machine/Dispatch.lean answers keeps the canonical form of both memories, the beat and the queue.
-/
set_option linter.unusedTactic false
set_option linter.unreachableTactic false
set_option linter.unusedVariables false
set_option linter.unusedSimpArgs false
namespace Sys2Proof.Machine

theorem keeps_exec {q0 : List Instr} (i : Instr) (s : State) (hs : Keeps q0 s) : KeepsOut q0 (exec i s) := by
  match i with
  | .powerUp v => exact keeps_execPowerUp v s hs
  | .powerDown => exact keeps_execPowerDown s hs
  | .coldStart selfTestOk sramOk pufReads pufKey => exact keeps_execColdStart selfTestOk sramOk pufReads pufKey s hs
  | .brownout v => exact keeps_execBrownout v s hs
  | .brownoutShutdown => exact keeps_execBrownoutShutdown s hs
  | .overvolt v => exact keeps_execOvervolt v s hs
  | .overvoltClear vinMv => exact keeps_execOvervoltClear vinMv s hs
  | .currentWarning die amps => exact keeps_execCurrentWarning die amps s hs
  | .railTrip rail => exact keeps_execRailTrip rail s hs
  | .thermalSample cd hd => exact keeps_execThermalSample cd hd s hs
  | .governorDuty inMw floorMw openMw beatsUsed => exact keeps_execGovernorDuty inMw floorMw openMw beatsUsed s hs
  | .telemetryRecord e => exact keeps_execTelemetryRecord e s hs
  | .seam e => exact keeps_execSeam e s hs
  | .duskBand => exact keeps_execDuskBand s hs
  | .planSubstitute => exact keeps_execPlanSubstitute s hs
  | .planSeal p => exact keeps_execPlanSeal p s hs
  | .overcastWord => exact keeps_execOvercastWord s hs
  | .dispatch arrivals => exact keeps_execDispatch arrivals s hs
  | .kernelEnd t radio => exact keeps_execKernelEnd t radio s hs
  | .kernelOverrun t => exact keeps_execKernelOverrun t s hs
  | .waitdTimeout t => exact keeps_execWaitdTimeout t s hs
  | .slotNop t c slot => exact keeps_execSlotNop t c slot s hs
  | .br t c target => exact keeps_execBr t c target s hs
  | .brz t c n target => exact keeps_execBrz t c n target s hs
  | .brnz t c n target => exact keeps_execBrnz t c n target s hs
  | .loop t c count => exact keeps_execLoop t c count s hs
  | .endl t c => exact keeps_execEndl t c s hs
  | .repeatN t c n => exact keeps_execRepeatN t c n s hs
  | .waitd t c tag maxw => exact keeps_execWaitd t c tag maxw s hs
  | .syncp t c ctr => exact keeps_execSyncp t c ctr s hs
  | .endK t c => exact keeps_execEndK t c s hs
  | .mma t c o err => exact keeps_execMma t c o err s hs
  | .wld t c o => exact keeps_execWld t c o s hs
  | .rout t c o => exact keeps_execRout t c o s hs
  | .lout t c o => exact keeps_execLout t c o s hs
  | .lin t c o => exact keeps_execLin t c o s hs
  | .ld t c o => exact keeps_execLd t c o s hs
  | .st t c o => exact keeps_execSt t c o s hs
  | .skewa t c o => exact keeps_execSkewa t c o s hs
  | .skewb t c o => exact keeps_execSkewb t c o s hs
  | .mks t c o => exact keeps_execMks t c o s hs
  | .dmaSkewComplete t c tag => exact keeps_execDmaSkewComplete t c tag s hs
  | .fadd t c d a b => exact keeps_execFadd t c d a b s hs
  | .fsub t c d a b => exact keeps_execFsub t c d a b s hs
  | .fmul t c d a b => exact keeps_execFmul t c d a b s hs
  | .fma t c d a b cc => exact keeps_execFma t c d a b cc s hs
  | .fnma t c d a b cc => exact keeps_execFnma t c d a b cc s hs
  | .fmin t c d a b => exact keeps_execFmin t c d a b s hs
  | .fmax t c d a b => exact keeps_execFmax t c d a b s hs
  | .fabs t c d a => exact keeps_execFabs t c d a s hs
  | .fneg t c d a => exact keeps_execFneg t c d a s hs
  | .fclt t c d a b => exact keeps_execFclt t c d a b s hs
  | .fcle t c d a b => exact keeps_execFcle t c d a b s hs
  | .fceq t c d a b => exact keeps_execFceq t c d a b s hs
  | .fcvti t c d a => exact keeps_execFcvti t c d a s hs
  | .icvtf t c d a => exact keeps_execIcvtf t c d a s hs
  | .fscl t c d a b => exact keeps_execFscl t c d a b s hs
  | .iadd t c d a b => exact keeps_execIadd t c d a b s hs
  | .isub t c d a b => exact keeps_execIsub t c d a b s hs
  | .imul t c d a b => exact keeps_execImul t c d a b s hs
  | .andV t c d a b => exact keeps_execAndV t c d a b s hs
  | .orV t c d a b => exact keeps_execOrV t c d a b s hs
  | .xorV t c d a b => exact keeps_execXorV t c d a b s hs
  | .shl t c d a b => exact keeps_execShl t c d a b s hs
  | .shr t c d a b => exact keeps_execShr t c d a b s hs
  | .sra t c d a b => exact keeps_execSra t c d a b s hs
  | .imin t c d a b => exact keeps_execImin t c d a b s hs
  | .imax t c d a b => exact keeps_execImax t c d a b s hs
  | .iclt t c d a b => exact keeps_execIclt t c d a b s hs
  | .iceq t c d a b => exact keeps_execIceq t c d a b s hs
  | .sel t c d a b cc => exact keeps_execSel t c d a b cc s hs
  | .mov t c d b => exact keeps_execMov t c d b s hs
  | .viota t c d b => exact keeps_execViota t c d b s hs
  | .norm t c d a => exact keeps_execNorm t c d a s hs
  | .expx t c d a => exact keeps_execExpx t c d a s hs
  | .bexp t c d a imm => exact keeps_execBexp t c d a imm s hs
  | .gred t c d a imm => exact keeps_execGred t c d a imm s hs
  | .vperm t c d a b => exact keeps_execVperm t c d a b s hs
  | .vext t c d a imm => exact keeps_execVext t c d a imm s hs
  | .exp2 t c d a => exact keeps_execExp2 t c d a s hs
  | .log2 t c d a => exact keeps_execLog2 t c d a s hs
  | .rcp t c d a => exact keeps_execRcp t c d a s hs
  | .rsqrt t c d a => exact keeps_execRsqrt t c d a s hs
  | .vsumL t c la a => exact keeps_execVsumL t c la a s hs
  | .laclr t c la => exact keeps_execLaclr t c la s hs
  | .lard t c d la => exact keeps_execLard t c d la s hs
  | .sadd t c d a b => exact keeps_execSadd t c d a b s hs
  | .ssub t c d a b => exact keeps_execSsub t c d a b s hs
  | .smul t c d a b => exact keeps_execSmul t c d a b s hs
  | .sand t c d a b => exact keeps_execSand t c d a b s hs
  | .sor t c d a b => exact keeps_execSor t c d a b s hs
  | .sxor t c d a b => exact keeps_execSxor t c d a b s hs
  | .sshl t c d a b => exact keeps_execSshl t c d a b s hs
  | .sshr t c d a b => exact keeps_execSshr t c d a b s hs
  | .ssra t c d a b => exact keeps_execSsra t c d a b s hs
  | .smin t c d a b => exact keeps_execSmin t c d a b s hs
  | .smax t c d a b => exact keeps_execSmax t c d a b s hs
  | .sclt t c d a b => exact keeps_execSclt t c d a b s hs
  | .sceq t c d a b => exact keeps_execSceq t c d a b s hs
  | .smov t c d b => exact keeps_execSmov t c d b s hs
  | .sshi t c d imm => exact keeps_execSshi t c d imm s hs
  | .mova t c d a => exact keeps_execMova t c d a s hs
  | .movb t c d a => exact keeps_execMovb t c d a s hs
  | .movl t c d a => exact keeps_execMovl t c d a s hs
  | .movsa t c d a => exact keeps_execMovsa t c d a s hs
  | .aadd t c d imm => exact keeps_execAadd t c d imm s hs
  | .vld t c o => exact keeps_execVld t c o s hs
  | .vst t c o => exact keeps_execVst t c o s hs
  | .vldb t c o => exact keeps_execVldb t c o s hs
  | .sld t c o => exact keeps_execSld t c o s hs
  | .sst t c o => exact keeps_execSst t c o s hs
  | .vldt t c o => exact keeps_execVldt t c o s hs
  | .vstt t c o => exact keeps_execVstt t c o s hs
  | .ldpk t c o => exact keeps_execLdpk t c o s hs
  | .stpk t c o => exact keeps_execStpk t c o s hs
  | .lald t c o => exact keeps_execLald t c o s hs
  | .last t c o => exact keeps_execLast t c o s hs
  | .lamrg t c o => exact keeps_execLamrg t c o s hs
  | .tileRemap t => exact keeps_execTileRemap t s hs
  | .rerunOverlaySeal o => exact keeps_execRerunOverlaySeal o s hs
  | .linkWireFailing die link group wire => exact keeps_execLinkWireFailing die link group wire s hs
  | .sentinelRun e => exact keeps_execSentinelRun e s hs
  | .stressVariant die bad => exact keeps_execStressVariant die bad s hs
  | .healthScore corrPerHour retriesPerSec residue30d hottest => exact keeps_execHealthScore corrPerHour retriesPerSec residue30d hottest s hs
  | .slowdownWindow => exact keeps_execSlowdownWindow s hs
  | .codeBlockStart hd engine => exact keeps_execCodeBlockStart hd engine s hs
  | .codeBlockComplete hd engine engineFault => exact keeps_execCodeBlockComplete hd engine engineFault s hs
  | .dmaDescriptorStart eng desc body slice context use => exact keeps_execDmaDescriptorStart eng desc body slice context use s hs
  | .dmaBurstComplete eng => exact keeps_execDmaBurstComplete eng s hs
  | .dmaBurstTimeout eng moved => exact keeps_execDmaBurstTimeout eng moved s hs
  | .channelLost ch => exact keeps_execChannelLost ch s hs
  | .patrolScrub line corrected uncorrected raced => exact keeps_execPatrolScrub line corrected uncorrected raced s hs
  | .hostMemRead addr len => exact keeps_execHostMemRead addr len s hs
  | .hostMemWrite addr bytes => exact keeps_execHostMemWrite addr bytes s hs
  | .stepCompose slice pool work => exact keeps_execStepCompose slice pool work s hs
  | .stepCommit slice pool rows => exact keeps_execStepCommit slice pool rows s hs
  | .reclaim pool waiter => exact keeps_execReclaim pool waiter s hs
  | .swapReturn pool => exact keeps_execSwapReturn pool s hs
  | .deadlineRule pool => exact keeps_execDeadlineRule pool s hs
  | .adapterCurrent slot => exact keeps_execAdapterCurrent slot s hs
  | .attnBlockEnqueue q seq chain kernel length argsPtr donePtr => exact keeps_execAttnBlockEnqueue q seq chain kernel length argsPtr donePtr s hs
  | .moveRetry idx => exact keeps_execMoveRetry idx s hs
  | .moveQueryTimer idx => exact keeps_execMoveQueryTimer idx s hs
  | .prefixLeaseExpiry lease => exact keeps_execPrefixLeaseExpiry lease s hs
  | .writeGrantExpiry entry => exact keeps_execWriteGrantExpiry entry s hs
  | .flashDemote pool frame fail => exact keeps_execFlashDemote pool frame fail s hs
  | .flashPromote pool frame failed => exact keeps_execFlashPromote pool frame failed s hs
  | .superblockErase sb fail => exact keeps_execSuperblockErase sb fail s hs
  | .superblockRelocate => exact keeps_execSuperblockRelocate s hs
  | .flashRetentionRewrite => exact keeps_execFlashRetentionRewrite s hs
  | .fhFrameRx port f => exact keeps_execFhFrameRx port f s hs
  | .symbolClose cell sym miss => exact keeps_execSymbolClose cell sym miss s hs
  | .agcUpdate port stream sym pin winPeak corr256 => exact keeps_execAgcUpdate port stream sym pin winPeak corr256 s hs
  | .cplaneLaunch port cell eaxcs => exact keeps_execCplaneLaunch port cell eaxcs s hs
  | .uplaneLaunch port cell sym skewNs packets => exact keeps_execUplaneLaunch port cell sym skewNs packets s hs
  | .fhLinkDown port waiting => exact keeps_execFhLinkDown port waiting s hs
  | .fhLinkUp port => exact keeps_execFhLinkUp port s hs
  | .fhTrainTimeout port => exact keeps_execFhTrainTimeout port s hs
  | .paramRequest m => exact keeps_execParamRequest m s hs
  | .configRequest m cfg => exact keeps_execConfigRequest m cfg s hs
  | .startRequest m => exact keeps_execStartRequest m s hs
  | .stopRequest m => exact keeps_execStopRequest m s hs
  | .dlTtiRequest m => exact keeps_execDlTtiRequest m s hs
  | .ulTtiRequest m => exact keeps_execUlTtiRequest m s hs
  | .ulDciRequest m => exact keeps_execUlDciRequest m s hs
  | .txDataRequest m => exact keeps_execTxDataRequest m s hs
  | .cellBindRequest m b => exact keeps_execCellBindRequest m b s hs
  | .twilightCfgRequest m w => exact keeps_execTwilightCfgRequest m w s hs
  | .fapiMessageUnsupported phy msgId => exact keeps_execFapiMessageUnsupported phy msgId s hs
  | .slotRequestDeadline cell first => exact keeps_execSlotRequestDeadline cell first s hs
  | .txDataDeadline cell first => exact keeps_execTxDataDeadline cell first s hs
  | .cellActivate cell => exact keeps_execCellActivate cell s hs
  | .cellStop cell => exact keeps_execCellStop cell s hs
  | .twilightHoldExpiry cell => exact keeps_execTwilightHoldExpiry cell s hs
  | .flitRx port lane fseq fack type rest errors => exact keeps_execFlitRx port lane fseq fack type rest errors s hs
  | .portTrained port => exact keeps_execPortTrained port s hs
  | .load port p => exact keeps_execLoad port p s hs
  | .store port p => exact keeps_execStore port p s hs
  | .atomic port p => exact keeps_execAtomic port p s hs
  | .accL port p => exact keeps_execAccL port p s hs
  | .msg port p => exact keeps_execMsg port p s hs
  | .ack port p => exact keeps_execAck port p s hs
  | .statusP port p => exact keeps_execStatusP port p s hs
  | .loadData port p => exact keeps_execLoadData port p s hs
  | .atomicData port p => exact keeps_execAtomicData port p s hs
  | .probe port p => exact keeps_execProbe port p s hs
  | .epoch port p => exact keeps_execEpoch port p s hs
  | .ackTimer src => exact keeps_execAckTimer src s hs
  | .retransmitTimeout dst psn => exact keeps_execRetransmitTimeout dst psn s hs
  | .pathProbeTimer => exact keeps_execPathProbeTimer s hs
  | .streamBreak dst => exact keeps_execStreamBreak dst s hs
  | .xferEntryIssue port => exact keeps_execXferEntryIssue port s hs
  | .moveReserve m => exact keeps_execMoveReserve m s hs
  | .moveReserved idx m => exact keeps_execMoveReserved idx m s hs
  | .moveCommit src idx gen entry => exact keeps_execMoveCommit src idx gen entry s hs
  | .moveAnswer idx gen committed => exact keeps_execMoveAnswer idx gen committed s hs
  | .moveRelease src idx gen => exact keeps_execMoveRelease src idx gen s hs
  | .moveQuery src idx gen => exact keeps_execMoveQuery src idx gen s hs
  | .moveCancel src idx gen => exact keeps_execMoveCancel src idx gen s hs
  | .prefixAsk src q seq model p keys => exact keeps_execPrefixAsk src q seq model p keys s hs
  | .prefixHeld src q seq status depth lease pages locs => exact keeps_execPrefixHeld src q seq status depth lease pages locs s hs
  | .prefixPin src q seq model p depth keys => exact keeps_execPrefixPin src q seq model p depth keys s hs
  | .prefixUnpin src lease => exact keeps_execPrefixUnpin src lease s hs
  | .prefixOffer src q seq model p depth keys => exact keeps_execPrefixOffer src q seq model p depth keys s hs
  | .contrailDigest src reqId genLen crc => exact keeps_execContrailDigest src reqId genLen crc s hs
  | .contrailUnmatched => exact keeps_execContrailUnmatched s hs
  | .barrierTimeout q seq => exact keeps_execBarrierTimeout q seq s hs
  | .jobStepLaunch q seq last len word0 word1 => exact keeps_execJobStepLaunch q seq last len word0 word1 s hs
  | .ptpMessage port msgType seqId taken sent m => exact keeps_execPtpMessage port msgType seqId taken sent m s hs
  | .esmcMessage port quality => exact keeps_execEsmcMessage port quality s hs
  | .ppsInEdge rawNs => exact keeps_execPpsInEdge rawNs s hs
  | .todLineRx line msAfterEdge => exact keeps_execTodLineRx line msAfterEdge s hs
  | .ppsOut => exact keeps_execPpsOut s hs
  | .timeStep sourceNs sourcePresent => exact keeps_execTimeStep sourceNs sourcePresent s hs
  | .sourceLost => exact keeps_execSourceLost s hs
  | .holdExceeded => exact keeps_execHoldExceeded s hs
  | .submissionDoorbell q tail => exact keeps_execSubmissionDoorbell q tail s hs
  | .completionDoorbell q head => exact keeps_execCompletionDoorbell q head s hs
  | .commandConsume q ioOk => exact keeps_execCommandConsume q ioOk s hs
  | .commandAccept q => exact keeps_execCommandAccept q s hs
  | .interruptCoalesceTimer q => exact keeps_execInterruptCoalesceTimer q s hs
  | .adminQueueEnable value => exact keeps_execAdminQueueEnable value s hs
  | .adminQueueDelete value => exact keeps_execAdminQueueDelete value s hs
  | .heartbeat value => exact keeps_execHeartbeat value s hs
  | .orphan refused => exact keeps_execOrphan refused s hs
  | .cxlLinkDown refused => exact keeps_execCxlLinkDown refused s hs
  | .orphanHoldExpiry => exact keeps_execOrphanHoldExpiry s hs
  | .noticeSend page value => exact keeps_execNoticeSend page value s hs
  | .noticeDeliver page => exact keeps_execNoticeDeliver page s hs
  | .noticeTimeout page => exact keeps_execNoticeTimeout page s hs
  | .slcRxHeadWrite page value => exact keeps_execSlcRxHeadWrite page value s hs
  | .registerWrite firmware offset value => exact keeps_execRegisterWrite firmware offset value s hs
  | .nop q seq => exact keeps_execNop q seq s hs
  | .queueCreate q seq => exact keeps_execQueueCreate q seq s hs
  | .queueDelete q seq => exact keeps_execQueueDelete q seq s hs
  | .identify q seq => exact keeps_execIdentify q seq s hs
  | .recoveryGet q seq => exact keeps_execRecoveryGet q seq s hs
  | .resetReq q seq => exact keeps_execResetReq q seq s hs
  | .attnAck q seq => exact keeps_execAttnAck q seq s hs
  | .mirrorSet q seq => exact keeps_execMirrorSet q seq s hs
  | .mirrorReport q seq => exact keeps_execMirrorReport q seq s hs
  | .biasSet q seq => exact keeps_execBiasSet q seq s hs
  | .poolSet q seq => exact keeps_execPoolSet q seq s hs
  | .reqAdmit q seq => exact keeps_execReqAdmit q seq s hs
  | .reqAbort q seq => exact keeps_execReqAbort q seq s hs
  | .reqQuery q seq => exact keeps_execReqQuery q seq s hs
  | .serveCfg q seq => exact keeps_execServeCfg q seq s hs
  | .budgetSet q seq => exact keeps_execBudgetSet q seq s hs
  | .roleSet q seq => exact keeps_execRoleSet q seq s hs
  | .peerLost q seq => exact keeps_execPeerLost q seq s hs
  | .adapterLoad q seq => exact keeps_execAdapterLoad q seq s hs
  | .adapterWithdraw q seq => exact keeps_execAdapterWithdraw q seq s hs
  | .grammarLoad q seq => exact keeps_execGrammarLoad q seq s hs
  | .grammarUnload q seq => exact keeps_execGrammarUnload q seq s hs
  | .attn q seq => exact keeps_execAttn q seq s hs
  | .attnMerge q seq => exact keeps_execAttnMerge q seq s hs
  | .prefixLookup q seq => exact keeps_execPrefixLookup q seq s hs
  | .prefixFetch q seq => exact keeps_execPrefixFetch q seq s hs
  | .prefixPublish q seq => exact keeps_execPrefixPublish q seq s hs
  | .flashCfg q seq => exact keeps_execFlashCfg q seq s hs
  | .radL2Open q seq => exact keeps_execRadL2Open q seq s hs
  | .radL2Close q seq => exact keeps_execRadL2Close q seq s hs
  | .fhCfg q seq => exact keeps_execFhCfg q seq s hs
  | .regionSet q seq => exact keeps_execRegionSet q seq s hs
  | .pathSet q seq => exact keeps_execPathSet q seq s hs
  | .partitionSet q seq => exact keeps_execPartitionSet q seq s hs
  | .portFence q seq => exact keeps_execPortFence q seq s hs
  | .jobtagSet q seq => exact keeps_execJobtagSet q seq s hs
  | .fabXfer q seq => exact keeps_execFabXfer q seq s hs
  | .sliceAssign q seq => exact keeps_execSliceAssign q seq s hs
  | .sliceQuota q seq => exact keeps_execSliceQuota q seq s hs
  | .ctxCreate q seq => exact keeps_execCtxCreate q seq s hs
  | .ctxDestroy q seq => exact keeps_execCtxDestroy q seq s hs
  | .ctxHold q seq => exact keeps_execCtxHold q seq s hs
  | .ctxResume q seq => exact keeps_execCtxResume q seq s hs
  | .ctxQuery q seq => exact keeps_execCtxQuery q seq s hs
  | .ctxSaveStart ctx => exact keeps_execCtxSaveStart ctx s hs
  | .ctxRestoreStart ctx => exact keeps_execCtxRestoreStart ctx s hs
  | .ctxActivate ctx => exact keeps_execCtxActivate ctx s hs
  | .contextTeardown ctx => exact keeps_execContextTeardown ctx s hs
  | .contextRelease ctx => exact keeps_execContextRelease ctx s hs
  | .mbxGrant q seq => exact keeps_execMbxGrant q seq s hs
  | .kernelLoad q seq => exact keeps_execKernelLoad q seq s hs
  | .planLaunch q seq => exact keeps_execPlanLaunch q seq s hs
  | .fwUpdate q seq b => exact keeps_execFwUpdate q seq b s hs
  | .updateQuiesce => exact keeps_execUpdateQuiesce s hs
  | .updateCommit => exact keeps_execUpdateCommit s hs
  | .updateAbort component => exact keeps_execUpdateAbort component s hs
  | .powerCap q seq => exact keeps_execPowerCap q seq s hs
  | .repairMapGet q seq => exact keeps_execRepairMapGet q seq s hs
  | .clockMode q seq => exact keeps_execClockMode q seq s hs
  | .timeCfg q seq => exact keeps_execTimeCfg q seq s hs
  | .debugNonce q seq => exact keeps_execDebugNonce q seq s hs
  | .debugUnlock q seq => exact keeps_execDebugUnlock q seq s hs
  | .debugLock q seq => exact keeps_execDebugLock q seq s hs
  | .memEncSet q seq => exact keeps_execMemEncSet q seq s hs
  | .bundleLoad b e => exact keeps_execBundleLoad b e s hs
  | .getVersion mbx unread => exact keeps_execGetVersion mbx unread s hs
  | .getCapabilities mbx unread => exact keeps_execGetCapabilities mbx unread s hs
  | .negotiateAlgorithms mbx unread => exact keeps_execNegotiateAlgorithms mbx unread s hs
  | .getDigests mbx unread => exact keeps_execGetDigests mbx unread s hs
  | .getCertificate mbx unread slot offset len => exact keeps_execGetCertificate mbx unread slot offset len s hs
  | .challenge mbx unread nonce => exact keeps_execChallenge mbx unread nonce s hs
  | .getMeasurements mbx unread index sign nonce => exact keeps_execGetMeasurements mbx unread index sign nonce s hs
  | .entdaa addr => exact keeps_execEntdaa addr s hs
  | .setEndpointId eid => exact keeps_execSetEndpointId eid s hs
  | .getEndpointId => exact keeps_execGetEndpointId s hs
  | .getMctpVersionSupport type => exact keeps_execGetMctpVersionSupport type s hs
  | .getMessageTypeSupport => exact keeps_execGetMessageTypeSupport s hs
  | .getVendorDefinedMessageSupport selector => exact keeps_execGetVendorDefinedMessageSupport selector s hs
  | .getPdrRepositoryInfo => exact keeps_execGetPdrRepositoryInfo s hs
  | .getPdr record => exact keeps_execGetPdr record s hs
  | .getSensorReading sensor => exact keeps_execGetSensorReading sensor s hs
  | .recorderRead from_ count => exact keeps_execRecorderRead from_ count s hs
  | .alertAck seq => exact keeps_execAlertAck seq s hs
  | .anchorSet opsec pcc entries => exact keeps_execAnchorSet opsec pcc entries s hs
  | .anchorGet => exact keeps_execAnchorGet s hs
  | .resetRequest kind slice => exact keeps_execResetRequest kind slice s hs
  | .stressRun dies => exact keeps_execStressRun dies s hs
  | .contrailSet body => exact keeps_execContrailSet body s hs
  | .retireClear => exact keeps_execRetireClear s hs
  | .warmReset b trained refused => exact keeps_execWarmReset b trained refused s hs
  | .functionReset refused => exact keeps_execFunctionReset refused s hs
  | .sliceReset slice => exact keeps_execSliceReset slice s hs
  | .cpStop cp cause => exact keeps_execCpStop cp cause s hs
  | .cp0WatchdogExpiry => exact keeps_execCp0WatchdogExpiry s hs
  | .summaryWindow => exact keeps_execSummaryWindow s hs
  | .persistBatch all => exact keeps_execPersistBatch all s hs
  | .persistPathChange => exact keeps_execPersistPathChange s hs
  | .cxlLinkTraining lanes gts => exact keeps_execCxlLinkTraining lanes gts s hs
  | .busMasteringEnable => exact keeps_execBusMasteringEnable s hs
  | .entropyFail => exact keeps_execEntropyFail s hs
  | .pldmBase cmd => exact keeps_execPldmBase cmd s hs
  | .unsupportedRequest mbx unread code => exact keeps_execUnsupportedRequest mbx unread code s hs


end Sys2Proof.Machine
end

