-- ==== Sys2Proof/Laws/KeepsIdle.lean ====
section
/-!
SUPPORT. Every state that a definition of Machine/Idle.lean answers keeps the canonical form of both memories, the beat and the queue.
-/
set_option linter.unusedTactic false
set_option linter.unreachableTactic false
set_option linter.unusedVariables false
set_option linter.unusedSimpArgs false
namespace Sys2Proof.Machine

theorem keeps_beatEnds {q0 : List Instr} (s : State) (hs : Keeps q0 s) : Keeps q0 (beatEnds s) := by
  unfold beatEnds
  with_reducible repeat' (first | assumption | intro _ | apply keeps_checkSeam | simp only [keeps_lit] | apply keeps_of | dsimp only | split)

theorem keeps_beatPasses {q0 : List Instr} (s : State) (hs : Keeps q0 s) : Keeps q0 (beatPasses s) := by
  unfold beatPasses
  split
  · have h := keeps_timedDue (beatEnds s) (beatCycles s * (s.tkp.beat + 1)) (keeps_beatEnds s hs)
    exact keeps_todDue _ ⟨h.1, h.2.1, by show min (s.tkp.beat + 1) 1249 < 1250; omega, h.2.2.2⟩
  · exact hs


end Sys2Proof.Machine
end

