-- ==== Sys2Proof/Laws/Residue.lean ====
section
/-!
SUPPORT. The residue check of the arrays (05 R116, R117): the residue path computes the column sum's residue modulo 127, and
the foot sees an error of the sum exactly if its value is no multiple of 127.
-/
namespace Sys2Proof.Machine

/-- The foot's residue of a sum that fits the 72-bit window is its residue (R116). -/
theorem footResidue_eq (z : Int) (hlo : -(2 ^ 71) ≤ z) (hhi : z < 2 ^ 71) : (footResidue z : Int) = z % 127 := by
  unfold footResidue
  norm_num at *
  split <;> omega

/-- A power of two counts modulo 127 by its exponent modulo 7. -/
theorem two_pow_mod_127 (n : Nat) : 2 ^ n % 127 = 2 ^ (n % 7) % 127 := by
  conv_lhs => rw [← Nat.div_add_mod n 7, pow_add, pow_mul, Nat.mul_mod, Nat.pow_mod]
  norm_num

/-- The residue path's value for a term is the residue of what the term adds to the window (R116). -/
theorem termResidue_eq (neg : Bool) (p : Nat) (w tau : Int) :
    let placed := if w ≤ tau then p * 2 ^ (tau - w).toNat else p / 2 ^ (w - tau).toNat
    (termResidue neg p placed w tau : Int) % 127 = sgn neg placed % 127 := by
  intro placed
  have h : (if w ≤ tau then p % 127 * 2 ^ ((tau - w).toNat % 7) % 127 else placed % 127) = placed % 127 := by
    split
    · next hw =>
      simp only [placed, if_pos hw]
      rw [Nat.mul_mod, ← two_pow_mod_127, Nat.mod_mod, ← Nat.mul_mod]
    · rfl
  unfold termResidue sgn
  rw [h]
  cases neg
  · simp
  · simp; omega

/-- One more term keeps the residue path at the residue of the column sum (R116). -/
theorem addTerm_residue (w a : Int) (acc : ColSum) (x y : Elem) (tau : Int) (bad : Bool)
    (h : (acc.res : Int) = acc.win % 127) :
    ((addTerm w a acc x y tau bad).res : Int) = (addTerm w a acc x y tau bad).win % 127 := by
  have t := termResidue_eq (decide (x.i * y.i < 0)) (x.i * y.i).natAbs w tau
  simp only [addTerm] at t ⊢
  omega

/-- The residue path's sum of an output is the residue of its column sum (R116). -/
theorem mmaOut_residue (fmt : Nat) (bL : Bool) (a : Int) (as bs sa sb : Nat → Byte) :
    ((mmaOut fmt bL a as bs sa sb).res : Int) = (mmaOut fmt bL a as bs sa sb).win % 127 := by
  have go : ∀ (f : ColSum → Nat → ColSum) (l : List Nat) (c : ColSum),
      (∀ c i, (c.res : Int) = c.win % 127 → ((f c i).res : Int) = (f c i).win % 127) →
      (c.res : Int) = c.win % 127 → ((l.foldl f c).res : Int) = (l.foldl f c).win % 127 := by
    intro f l
    induction l with
    | nil => intro c _ h; exact h
    | cons i l ih => intro c hf h; exact ih _ hf (hf c i h)
  unfold mmaOut
  exact go _ _ _ (fun c i h => addTerm_residue _ _ _ _ _ _ _ h) (by simp)

/-- The check detects every error in a column sum whose value is not a multiple of 127, and no other (R117). -/
theorem footMismatch_iff (fmt : Nat) (bL : Bool) (a : Int) (as bs sa sb : Nat → Byte) (e : ColErr) (he : e.place = .sum)
    (hlo : -(2 ^ 71) ≤ (mmaOut fmt bL a as bs sa sb).win + e.value) (hhi : (mmaOut fmt bL a as bs sa sb).win + e.value < 2 ^ 71) :
    footMismatch (mmaOut fmt bL a as bs sa sb) e = true ↔ ¬ (127 : Int) ∣ e.value := by
  have f := footResidue_eq _ hlo hhi
  have r := mmaOut_residue fmt bL a as bs sa sb
  simp only [footMismatch, he, bne_iff_ne, ne_eq]
  omega

end Sys2Proof.Machine
end

