-- ==== Sys2Proof/Laws/State.lean ====
section
/-!
SUPPORT. What each named update of State leaves alone, field by field, and what is read back after it.
-/
namespace Sys2Proof.Machine

@[simp] theorem setTile_pending (s : State) (t : Nat) (x : Tile) : (setTile s t x).pending = s.pending := rfl
@[simp] theorem setTile_freeN (s : State) (t : Nat) (x : Tile) : (setTile s t x).freeN = s.freeN := rfl
@[simp] theorem setTile_pwr (s : State) (t : Nat) (x : Tile) : (setTile s t x).pwr = s.pwr := rfl
@[simp] theorem setTile_tkp (s : State) (t : Nat) (x : Tile) : (setTile s t x).tkp = s.tkp := rfl
@[simp] theorem setTile_dies (s : State) (t : Nat) (x : Tile) : (setTile s t x).dies = s.dies := rfl
@[simp] theorem setTile_mem (s : State) (t : Nat) (x : Tile) : (setTile s t x).mem = s.mem := rfl
@[simp] theorem setTile_srv (s : State) (t : Nat) (x : Tile) : (setTile s t x).srv = s.srv := rfl
@[simp] theorem setTile_mov (s : State) (t : Nat) (x : Tile) : (setTile s t x).mov = s.mov := rfl
@[simp] theorem setTile_fla (s : State) (t : Nat) (x : Tile) : (setTile s t x).fla = s.fla := rfl
@[simp] theorem setTile_attn (s : State) (t : Nat) (x : Tile) : (setTile s t x).attn = s.attn := rfl
@[simp] theorem setTile_merges (s : State) (t : Nat) (x : Tile) : (setTile s t x).merges = s.merges := rfl
@[simp] theorem setTile_fh (s : State) (t : Nat) (x : Tile) : (setTile s t x).fh = s.fh := rfl
@[simp] theorem setTile_rad (s : State) (t : Nat) (x : Tile) : (setTile s t x).rad = s.rad := rfl
@[simp] theorem setTile_fab (s : State) (t : Nat) (x : Tile) : (setTile s t x).fab = s.fab := rfl
@[simp] theorem setTile_tim (s : State) (t : Nat) (x : Tile) : (setTile s t x).tim = s.tim := rfl
@[simp] theorem setTile_hst (s : State) (t : Nat) (x : Tile) : (setTile s t x).hst = s.hst := rfl
@[simp] theorem setTile_slc (s : State) (t : Nat) (x : Tile) : (setTile s t x).slc = s.slc := rfl
@[simp] theorem setTile_fw (s : State) (t : Nat) (x : Tile) : (setTile s t x).fw = s.fw := rfl
@[simp] theorem setTile_ras (s : State) (t : Nat) (x : Tile) : (setTile s t x).ras = s.ras := rfl
@[simp] theorem setTile_sec (s : State) (t : Nat) (x : Tile) : (setTile s t x).sec = s.sec := rfl
@[simp] theorem setTile_evr (s : State) (t : Nat) (x : Tile) : (setTile s t x).evr = s.evr := rfl
@[simp] theorem setTile_start (s : State) (t : Nat) (x : Tile) : (setTile s t x).start = s.start := rfl

@[simp] theorem modRec_pending (s : State) (q seq : Nat) (f : JRec → JRec) : (modRec s q seq f).pending = s.pending := rfl
@[simp] theorem modRec_freeN (s : State) (q seq : Nat) (f : JRec → JRec) : (modRec s q seq f).freeN = s.freeN := rfl
@[simp] theorem modRec_pwr (s : State) (q seq : Nat) (f : JRec → JRec) : (modRec s q seq f).pwr = s.pwr := rfl
@[simp] theorem modRec_tkp (s : State) (q seq : Nat) (f : JRec → JRec) : (modRec s q seq f).tkp = s.tkp := rfl
@[simp] theorem modRec_tiles (s : State) (q seq : Nat) (f : JRec → JRec) : (modRec s q seq f).tiles = s.tiles := rfl
@[simp] theorem modRec_dies (s : State) (q seq : Nat) (f : JRec → JRec) : (modRec s q seq f).dies = s.dies := rfl
@[simp] theorem modRec_mem (s : State) (q seq : Nat) (f : JRec → JRec) : (modRec s q seq f).mem = s.mem := rfl
@[simp] theorem modRec_srv (s : State) (q seq : Nat) (f : JRec → JRec) : (modRec s q seq f).srv = s.srv := rfl
@[simp] theorem modRec_mov (s : State) (q seq : Nat) (f : JRec → JRec) : (modRec s q seq f).mov = s.mov := rfl
@[simp] theorem modRec_fla (s : State) (q seq : Nat) (f : JRec → JRec) : (modRec s q seq f).fla = s.fla := rfl
@[simp] theorem modRec_attn (s : State) (q seq : Nat) (f : JRec → JRec) : (modRec s q seq f).attn = s.attn := rfl
@[simp] theorem modRec_merges (s : State) (q seq : Nat) (f : JRec → JRec) : (modRec s q seq f).merges = s.merges := rfl
@[simp] theorem modRec_fh (s : State) (q seq : Nat) (f : JRec → JRec) : (modRec s q seq f).fh = s.fh := rfl
@[simp] theorem modRec_rad (s : State) (q seq : Nat) (f : JRec → JRec) : (modRec s q seq f).rad = s.rad := rfl
@[simp] theorem modRec_fab (s : State) (q seq : Nat) (f : JRec → JRec) : (modRec s q seq f).fab = s.fab := rfl
@[simp] theorem modRec_tim (s : State) (q seq : Nat) (f : JRec → JRec) : (modRec s q seq f).tim = s.tim := rfl
@[simp] theorem modRec_slc (s : State) (q seq : Nat) (f : JRec → JRec) : (modRec s q seq f).slc = s.slc := rfl
@[simp] theorem modRec_fw (s : State) (q seq : Nat) (f : JRec → JRec) : (modRec s q seq f).fw = s.fw := rfl
@[simp] theorem modRec_ras (s : State) (q seq : Nat) (f : JRec → JRec) : (modRec s q seq f).ras = s.ras := rfl
@[simp] theorem modRec_sec (s : State) (q seq : Nat) (f : JRec → JRec) : (modRec s q seq f).sec = s.sec := rfl
@[simp] theorem modRec_evr (s : State) (q seq : Nat) (f : JRec → JRec) : (modRec s q seq f).evr = s.evr := rfl
@[simp] theorem modRec_start (s : State) (q seq : Nat) (f : JRec → JRec) : (modRec s q seq f).start = s.start := rfl

@[simp] theorem takeSeq_pending (s : State) (q seq : Nat) : (takeSeq s q seq).pending = s.pending := rfl
@[simp] theorem takeSeq_freeN (s : State) (q seq : Nat) : (takeSeq s q seq).freeN = s.freeN := rfl
@[simp] theorem takeSeq_pwr (s : State) (q seq : Nat) : (takeSeq s q seq).pwr = s.pwr := rfl
@[simp] theorem takeSeq_tkp (s : State) (q seq : Nat) : (takeSeq s q seq).tkp = s.tkp := rfl
@[simp] theorem takeSeq_tiles (s : State) (q seq : Nat) : (takeSeq s q seq).tiles = s.tiles := rfl
@[simp] theorem takeSeq_dies (s : State) (q seq : Nat) : (takeSeq s q seq).dies = s.dies := rfl
@[simp] theorem takeSeq_mem (s : State) (q seq : Nat) : (takeSeq s q seq).mem = s.mem := rfl
@[simp] theorem takeSeq_srv (s : State) (q seq : Nat) : (takeSeq s q seq).srv = s.srv := rfl
@[simp] theorem takeSeq_mov (s : State) (q seq : Nat) : (takeSeq s q seq).mov = s.mov := rfl
@[simp] theorem takeSeq_fla (s : State) (q seq : Nat) : (takeSeq s q seq).fla = s.fla := rfl
@[simp] theorem takeSeq_attn (s : State) (q seq : Nat) : (takeSeq s q seq).attn = s.attn := rfl
@[simp] theorem takeSeq_merges (s : State) (q seq : Nat) : (takeSeq s q seq).merges = s.merges := rfl
@[simp] theorem takeSeq_fh (s : State) (q seq : Nat) : (takeSeq s q seq).fh = s.fh := rfl
@[simp] theorem takeSeq_rad (s : State) (q seq : Nat) : (takeSeq s q seq).rad = s.rad := rfl
@[simp] theorem takeSeq_fab (s : State) (q seq : Nat) : (takeSeq s q seq).fab = s.fab := rfl
@[simp] theorem takeSeq_tim (s : State) (q seq : Nat) : (takeSeq s q seq).tim = s.tim := rfl
@[simp] theorem takeSeq_slc (s : State) (q seq : Nat) : (takeSeq s q seq).slc = s.slc := rfl
@[simp] theorem takeSeq_fw (s : State) (q seq : Nat) : (takeSeq s q seq).fw = s.fw := rfl
@[simp] theorem takeSeq_ras (s : State) (q seq : Nat) : (takeSeq s q seq).ras = s.ras := rfl
@[simp] theorem takeSeq_sec (s : State) (q seq : Nat) : (takeSeq s q seq).sec = s.sec := rfl
@[simp] theorem takeSeq_evr (s : State) (q seq : Nat) : (takeSeq s q seq).evr = s.evr := rfl
@[simp] theorem takeSeq_start (s : State) (q seq : Nat) : (takeSeq s q seq).start = s.start := rfl

@[simp] theorem setQueue_pending (s : State) (q : Nat) (x : Queue) : (setQueue s q x).pending = s.pending := rfl
@[simp] theorem setQueue_freeN (s : State) (q : Nat) (x : Queue) : (setQueue s q x).freeN = s.freeN := rfl
@[simp] theorem setQueue_pwr (s : State) (q : Nat) (x : Queue) : (setQueue s q x).pwr = s.pwr := rfl
@[simp] theorem setQueue_tkp (s : State) (q : Nat) (x : Queue) : (setQueue s q x).tkp = s.tkp := rfl
@[simp] theorem setQueue_tiles (s : State) (q : Nat) (x : Queue) : (setQueue s q x).tiles = s.tiles := rfl
@[simp] theorem setQueue_dies (s : State) (q : Nat) (x : Queue) : (setQueue s q x).dies = s.dies := rfl
@[simp] theorem setQueue_mem (s : State) (q : Nat) (x : Queue) : (setQueue s q x).mem = s.mem := rfl
@[simp] theorem setQueue_srv (s : State) (q : Nat) (x : Queue) : (setQueue s q x).srv = s.srv := rfl
@[simp] theorem setQueue_mov (s : State) (q : Nat) (x : Queue) : (setQueue s q x).mov = s.mov := rfl
@[simp] theorem setQueue_fla (s : State) (q : Nat) (x : Queue) : (setQueue s q x).fla = s.fla := rfl
@[simp] theorem setQueue_attn (s : State) (q : Nat) (x : Queue) : (setQueue s q x).attn = s.attn := rfl
@[simp] theorem setQueue_merges (s : State) (q : Nat) (x : Queue) : (setQueue s q x).merges = s.merges := rfl
@[simp] theorem setQueue_fh (s : State) (q : Nat) (x : Queue) : (setQueue s q x).fh = s.fh := rfl
@[simp] theorem setQueue_rad (s : State) (q : Nat) (x : Queue) : (setQueue s q x).rad = s.rad := rfl
@[simp] theorem setQueue_fab (s : State) (q : Nat) (x : Queue) : (setQueue s q x).fab = s.fab := rfl
@[simp] theorem setQueue_tim (s : State) (q : Nat) (x : Queue) : (setQueue s q x).tim = s.tim := rfl
@[simp] theorem setQueue_slc (s : State) (q : Nat) (x : Queue) : (setQueue s q x).slc = s.slc := rfl
@[simp] theorem setQueue_fw (s : State) (q : Nat) (x : Queue) : (setQueue s q x).fw = s.fw := rfl
@[simp] theorem setQueue_ras (s : State) (q : Nat) (x : Queue) : (setQueue s q x).ras = s.ras := rfl
@[simp] theorem setQueue_sec (s : State) (q : Nat) (x : Queue) : (setQueue s q x).sec = s.sec := rfl
@[simp] theorem setQueue_evr (s : State) (q : Nat) (x : Queue) : (setQueue s q x).evr = s.evr := rfl
@[simp] theorem setQueue_start (s : State) (q : Nat) (x : Queue) : (setQueue s q x).start = s.start := rfl

@[simp] theorem queueSeam_pending (s : State) (r : JRec) : (queueSeam s r).pending = s.pending := rfl
@[simp] theorem queueSeam_freeN (s : State) (r : JRec) : (queueSeam s r).freeN = s.freeN := rfl
@[simp] theorem queueSeam_pwr (s : State) (r : JRec) : (queueSeam s r).pwr = s.pwr := rfl
@[simp] theorem queueSeam_tiles (s : State) (r : JRec) : (queueSeam s r).tiles = s.tiles := rfl
@[simp] theorem queueSeam_dies (s : State) (r : JRec) : (queueSeam s r).dies = s.dies := rfl
@[simp] theorem queueSeam_mem (s : State) (r : JRec) : (queueSeam s r).mem = s.mem := rfl
@[simp] theorem queueSeam_srv (s : State) (r : JRec) : (queueSeam s r).srv = s.srv := rfl
@[simp] theorem queueSeam_mov (s : State) (r : JRec) : (queueSeam s r).mov = s.mov := rfl
@[simp] theorem queueSeam_fla (s : State) (r : JRec) : (queueSeam s r).fla = s.fla := rfl
@[simp] theorem queueSeam_attn (s : State) (r : JRec) : (queueSeam s r).attn = s.attn := rfl
@[simp] theorem queueSeam_merges (s : State) (r : JRec) : (queueSeam s r).merges = s.merges := rfl
@[simp] theorem queueSeam_fh (s : State) (r : JRec) : (queueSeam s r).fh = s.fh := rfl
@[simp] theorem queueSeam_rad (s : State) (r : JRec) : (queueSeam s r).rad = s.rad := rfl
@[simp] theorem queueSeam_fab (s : State) (r : JRec) : (queueSeam s r).fab = s.fab := rfl
@[simp] theorem queueSeam_tim (s : State) (r : JRec) : (queueSeam s r).tim = s.tim := rfl
@[simp] theorem queueSeam_hst (s : State) (r : JRec) : (queueSeam s r).hst = s.hst := rfl
@[simp] theorem queueSeam_slc (s : State) (r : JRec) : (queueSeam s r).slc = s.slc := rfl
@[simp] theorem queueSeam_fw (s : State) (r : JRec) : (queueSeam s r).fw = s.fw := rfl
@[simp] theorem queueSeam_ras (s : State) (r : JRec) : (queueSeam s r).ras = s.ras := rfl
@[simp] theorem queueSeam_sec (s : State) (r : JRec) : (queueSeam s r).sec = s.sec := rfl
@[simp] theorem queueSeam_evr (s : State) (r : JRec) : (queueSeam s r).evr = s.evr := rfl
@[simp] theorem queueSeam_start (s : State) (r : JRec) : (queueSeam s r).start = s.start := rfl

@[simp] theorem latchAttn_pending (s : State) (c : Nat) : (latchAttn s c).pending = s.pending := rfl
@[simp] theorem latchAttn_freeN (s : State) (c : Nat) : (latchAttn s c).freeN = s.freeN := rfl
@[simp] theorem latchAttn_pwr (s : State) (c : Nat) : (latchAttn s c).pwr = s.pwr := rfl
@[simp] theorem latchAttn_tkp (s : State) (c : Nat) : (latchAttn s c).tkp = s.tkp := rfl
@[simp] theorem latchAttn_tiles (s : State) (c : Nat) : (latchAttn s c).tiles = s.tiles := rfl
@[simp] theorem latchAttn_dies (s : State) (c : Nat) : (latchAttn s c).dies = s.dies := rfl
@[simp] theorem latchAttn_mem (s : State) (c : Nat) : (latchAttn s c).mem = s.mem := rfl
@[simp] theorem latchAttn_srv (s : State) (c : Nat) : (latchAttn s c).srv = s.srv := rfl
@[simp] theorem latchAttn_mov (s : State) (c : Nat) : (latchAttn s c).mov = s.mov := rfl
@[simp] theorem latchAttn_fla (s : State) (c : Nat) : (latchAttn s c).fla = s.fla := rfl
@[simp] theorem latchAttn_attn (s : State) (c : Nat) : (latchAttn s c).attn = s.attn := rfl
@[simp] theorem latchAttn_merges (s : State) (c : Nat) : (latchAttn s c).merges = s.merges := rfl
@[simp] theorem latchAttn_fh (s : State) (c : Nat) : (latchAttn s c).fh = s.fh := rfl
@[simp] theorem latchAttn_rad (s : State) (c : Nat) : (latchAttn s c).rad = s.rad := rfl
@[simp] theorem latchAttn_fab (s : State) (c : Nat) : (latchAttn s c).fab = s.fab := rfl
@[simp] theorem latchAttn_tim (s : State) (c : Nat) : (latchAttn s c).tim = s.tim := rfl
@[simp] theorem latchAttn_slc (s : State) (c : Nat) : (latchAttn s c).slc = s.slc := rfl
@[simp] theorem latchAttn_fw (s : State) (c : Nat) : (latchAttn s c).fw = s.fw := rfl
@[simp] theorem latchAttn_ras (s : State) (c : Nat) : (latchAttn s c).ras = s.ras := rfl
@[simp] theorem latchAttn_sec (s : State) (c : Nat) : (latchAttn s c).sec = s.sec := rfl
@[simp] theorem latchAttn_evr (s : State) (c : Nat) : (latchAttn s c).evr = s.evr := rfl
@[simp] theorem latchAttn_start (s : State) (c : Nat) : (latchAttn s c).start = s.start := rfl

@[simp] theorem setTx_pending (s : State) (d : Nat) (x : TxStream) : (setTx s d x).pending = s.pending := rfl
@[simp] theorem setTx_freeN (s : State) (d : Nat) (x : TxStream) : (setTx s d x).freeN = s.freeN := rfl
@[simp] theorem setTx_pwr (s : State) (d : Nat) (x : TxStream) : (setTx s d x).pwr = s.pwr := rfl
@[simp] theorem setTx_tkp (s : State) (d : Nat) (x : TxStream) : (setTx s d x).tkp = s.tkp := rfl
@[simp] theorem setTx_tiles (s : State) (d : Nat) (x : TxStream) : (setTx s d x).tiles = s.tiles := rfl
@[simp] theorem setTx_dies (s : State) (d : Nat) (x : TxStream) : (setTx s d x).dies = s.dies := rfl
@[simp] theorem setTx_mem (s : State) (d : Nat) (x : TxStream) : (setTx s d x).mem = s.mem := rfl
@[simp] theorem setTx_srv (s : State) (d : Nat) (x : TxStream) : (setTx s d x).srv = s.srv := rfl
@[simp] theorem setTx_mov (s : State) (d : Nat) (x : TxStream) : (setTx s d x).mov = s.mov := rfl
@[simp] theorem setTx_fla (s : State) (d : Nat) (x : TxStream) : (setTx s d x).fla = s.fla := rfl
@[simp] theorem setTx_attn (s : State) (d : Nat) (x : TxStream) : (setTx s d x).attn = s.attn := rfl
@[simp] theorem setTx_merges (s : State) (d : Nat) (x : TxStream) : (setTx s d x).merges = s.merges := rfl
@[simp] theorem setTx_fh (s : State) (d : Nat) (x : TxStream) : (setTx s d x).fh = s.fh := rfl
@[simp] theorem setTx_rad (s : State) (d : Nat) (x : TxStream) : (setTx s d x).rad = s.rad := rfl
@[simp] theorem setTx_tim (s : State) (d : Nat) (x : TxStream) : (setTx s d x).tim = s.tim := rfl
@[simp] theorem setTx_hst (s : State) (d : Nat) (x : TxStream) : (setTx s d x).hst = s.hst := rfl
@[simp] theorem setTx_slc (s : State) (d : Nat) (x : TxStream) : (setTx s d x).slc = s.slc := rfl
@[simp] theorem setTx_fw (s : State) (d : Nat) (x : TxStream) : (setTx s d x).fw = s.fw := rfl
@[simp] theorem setTx_ras (s : State) (d : Nat) (x : TxStream) : (setTx s d x).ras = s.ras := rfl
@[simp] theorem setTx_sec (s : State) (d : Nat) (x : TxStream) : (setTx s d x).sec = s.sec := rfl
@[simp] theorem setTx_evr (s : State) (d : Nat) (x : TxStream) : (setTx s d x).evr = s.evr := rfl
@[simp] theorem setTx_start (s : State) (d : Nat) (x : TxStream) : (setTx s d x).start = s.start := rfl

@[simp] theorem setRx_pending (s : State) (d : Nat) (x : RxStream) : (setRx s d x).pending = s.pending := rfl
@[simp] theorem setRx_freeN (s : State) (d : Nat) (x : RxStream) : (setRx s d x).freeN = s.freeN := rfl
@[simp] theorem setRx_pwr (s : State) (d : Nat) (x : RxStream) : (setRx s d x).pwr = s.pwr := rfl
@[simp] theorem setRx_tkp (s : State) (d : Nat) (x : RxStream) : (setRx s d x).tkp = s.tkp := rfl
@[simp] theorem setRx_tiles (s : State) (d : Nat) (x : RxStream) : (setRx s d x).tiles = s.tiles := rfl
@[simp] theorem setRx_dies (s : State) (d : Nat) (x : RxStream) : (setRx s d x).dies = s.dies := rfl
@[simp] theorem setRx_mem (s : State) (d : Nat) (x : RxStream) : (setRx s d x).mem = s.mem := rfl
@[simp] theorem setRx_srv (s : State) (d : Nat) (x : RxStream) : (setRx s d x).srv = s.srv := rfl
@[simp] theorem setRx_mov (s : State) (d : Nat) (x : RxStream) : (setRx s d x).mov = s.mov := rfl
@[simp] theorem setRx_fla (s : State) (d : Nat) (x : RxStream) : (setRx s d x).fla = s.fla := rfl
@[simp] theorem setRx_attn (s : State) (d : Nat) (x : RxStream) : (setRx s d x).attn = s.attn := rfl
@[simp] theorem setRx_merges (s : State) (d : Nat) (x : RxStream) : (setRx s d x).merges = s.merges := rfl
@[simp] theorem setRx_fh (s : State) (d : Nat) (x : RxStream) : (setRx s d x).fh = s.fh := rfl
@[simp] theorem setRx_rad (s : State) (d : Nat) (x : RxStream) : (setRx s d x).rad = s.rad := rfl
@[simp] theorem setRx_tim (s : State) (d : Nat) (x : RxStream) : (setRx s d x).tim = s.tim := rfl
@[simp] theorem setRx_hst (s : State) (d : Nat) (x : RxStream) : (setRx s d x).hst = s.hst := rfl
@[simp] theorem setRx_slc (s : State) (d : Nat) (x : RxStream) : (setRx s d x).slc = s.slc := rfl
@[simp] theorem setRx_fw (s : State) (d : Nat) (x : RxStream) : (setRx s d x).fw = s.fw := rfl
@[simp] theorem setRx_ras (s : State) (d : Nat) (x : RxStream) : (setRx s d x).ras = s.ras := rfl
@[simp] theorem setRx_sec (s : State) (d : Nat) (x : RxStream) : (setRx s d x).sec = s.sec := rfl
@[simp] theorem setRx_evr (s : State) (d : Nat) (x : RxStream) : (setRx s d x).evr = s.evr := rfl
@[simp] theorem setRx_start (s : State) (d : Nat) (x : RxStream) : (setRx s d x).start = s.start := rfl

@[simp] theorem modPort_pending (s : State) (p : Nat) (f : WPort → WPort) : (modPort s p f).pending = s.pending := rfl
@[simp] theorem modPort_freeN (s : State) (p : Nat) (f : WPort → WPort) : (modPort s p f).freeN = s.freeN := rfl
@[simp] theorem modPort_pwr (s : State) (p : Nat) (f : WPort → WPort) : (modPort s p f).pwr = s.pwr := rfl
@[simp] theorem modPort_tkp (s : State) (p : Nat) (f : WPort → WPort) : (modPort s p f).tkp = s.tkp := rfl
@[simp] theorem modPort_tiles (s : State) (p : Nat) (f : WPort → WPort) : (modPort s p f).tiles = s.tiles := rfl
@[simp] theorem modPort_dies (s : State) (p : Nat) (f : WPort → WPort) : (modPort s p f).dies = s.dies := rfl
@[simp] theorem modPort_mem (s : State) (p : Nat) (f : WPort → WPort) : (modPort s p f).mem = s.mem := rfl
@[simp] theorem modPort_srv (s : State) (p : Nat) (f : WPort → WPort) : (modPort s p f).srv = s.srv := rfl
@[simp] theorem modPort_mov (s : State) (p : Nat) (f : WPort → WPort) : (modPort s p f).mov = s.mov := rfl
@[simp] theorem modPort_fla (s : State) (p : Nat) (f : WPort → WPort) : (modPort s p f).fla = s.fla := rfl
@[simp] theorem modPort_attn (s : State) (p : Nat) (f : WPort → WPort) : (modPort s p f).attn = s.attn := rfl
@[simp] theorem modPort_merges (s : State) (p : Nat) (f : WPort → WPort) : (modPort s p f).merges = s.merges := rfl
@[simp] theorem modPort_fh (s : State) (p : Nat) (f : WPort → WPort) : (modPort s p f).fh = s.fh := rfl
@[simp] theorem modPort_rad (s : State) (p : Nat) (f : WPort → WPort) : (modPort s p f).rad = s.rad := rfl
@[simp] theorem modPort_tim (s : State) (p : Nat) (f : WPort → WPort) : (modPort s p f).tim = s.tim := rfl
@[simp] theorem modPort_hst (s : State) (p : Nat) (f : WPort → WPort) : (modPort s p f).hst = s.hst := rfl
@[simp] theorem modPort_slc (s : State) (p : Nat) (f : WPort → WPort) : (modPort s p f).slc = s.slc := rfl
@[simp] theorem modPort_fw (s : State) (p : Nat) (f : WPort → WPort) : (modPort s p f).fw = s.fw := rfl
@[simp] theorem modPort_ras (s : State) (p : Nat) (f : WPort → WPort) : (modPort s p f).ras = s.ras := rfl
@[simp] theorem modPort_sec (s : State) (p : Nat) (f : WPort → WPort) : (modPort s p f).sec = s.sec := rfl
@[simp] theorem modPort_evr (s : State) (p : Nat) (f : WPort → WPort) : (modPort s p f).evr = s.evr := rfl
@[simp] theorem modPort_start (s : State) (p : Nat) (f : WPort → WPort) : (modPort s p f).start = s.start := rfl

@[simp] theorem modPaths_pending (s : State) (d : Nat) (f : List Path → List Path) : (modPaths s d f).pending = s.pending := rfl
@[simp] theorem modPaths_freeN (s : State) (d : Nat) (f : List Path → List Path) : (modPaths s d f).freeN = s.freeN := rfl
@[simp] theorem modPaths_pwr (s : State) (d : Nat) (f : List Path → List Path) : (modPaths s d f).pwr = s.pwr := rfl
@[simp] theorem modPaths_tkp (s : State) (d : Nat) (f : List Path → List Path) : (modPaths s d f).tkp = s.tkp := rfl
@[simp] theorem modPaths_tiles (s : State) (d : Nat) (f : List Path → List Path) : (modPaths s d f).tiles = s.tiles := rfl
@[simp] theorem modPaths_dies (s : State) (d : Nat) (f : List Path → List Path) : (modPaths s d f).dies = s.dies := rfl
@[simp] theorem modPaths_mem (s : State) (d : Nat) (f : List Path → List Path) : (modPaths s d f).mem = s.mem := rfl
@[simp] theorem modPaths_srv (s : State) (d : Nat) (f : List Path → List Path) : (modPaths s d f).srv = s.srv := rfl
@[simp] theorem modPaths_mov (s : State) (d : Nat) (f : List Path → List Path) : (modPaths s d f).mov = s.mov := rfl
@[simp] theorem modPaths_fla (s : State) (d : Nat) (f : List Path → List Path) : (modPaths s d f).fla = s.fla := rfl
@[simp] theorem modPaths_attn (s : State) (d : Nat) (f : List Path → List Path) : (modPaths s d f).attn = s.attn := rfl
@[simp] theorem modPaths_merges (s : State) (d : Nat) (f : List Path → List Path) : (modPaths s d f).merges = s.merges := rfl
@[simp] theorem modPaths_fh (s : State) (d : Nat) (f : List Path → List Path) : (modPaths s d f).fh = s.fh := rfl
@[simp] theorem modPaths_rad (s : State) (d : Nat) (f : List Path → List Path) : (modPaths s d f).rad = s.rad := rfl
@[simp] theorem modPaths_tim (s : State) (d : Nat) (f : List Path → List Path) : (modPaths s d f).tim = s.tim := rfl
@[simp] theorem modPaths_hst (s : State) (d : Nat) (f : List Path → List Path) : (modPaths s d f).hst = s.hst := rfl
@[simp] theorem modPaths_slc (s : State) (d : Nat) (f : List Path → List Path) : (modPaths s d f).slc = s.slc := rfl
@[simp] theorem modPaths_fw (s : State) (d : Nat) (f : List Path → List Path) : (modPaths s d f).fw = s.fw := rfl
@[simp] theorem modPaths_ras (s : State) (d : Nat) (f : List Path → List Path) : (modPaths s d f).ras = s.ras := rfl
@[simp] theorem modPaths_sec (s : State) (d : Nat) (f : List Path → List Path) : (modPaths s d f).sec = s.sec := rfl
@[simp] theorem modPaths_evr (s : State) (d : Nat) (f : List Path → List Path) : (modPaths s d f).evr = s.evr := rfl
@[simp] theorem modPaths_start (s : State) (d : Nat) (f : List Path → List Path) : (modPaths s d f).start = s.start := rfl

@[simp] theorem pushList_pending (s : State) (port : Nat) (l : XList) : (pushList s port l).pending = s.pending := rfl
@[simp] theorem pushList_freeN (s : State) (port : Nat) (l : XList) : (pushList s port l).freeN = s.freeN := rfl
@[simp] theorem pushList_pwr (s : State) (port : Nat) (l : XList) : (pushList s port l).pwr = s.pwr := rfl
@[simp] theorem pushList_tkp (s : State) (port : Nat) (l : XList) : (pushList s port l).tkp = s.tkp := rfl
@[simp] theorem pushList_tiles (s : State) (port : Nat) (l : XList) : (pushList s port l).tiles = s.tiles := rfl
@[simp] theorem pushList_dies (s : State) (port : Nat) (l : XList) : (pushList s port l).dies = s.dies := rfl
@[simp] theorem pushList_mem (s : State) (port : Nat) (l : XList) : (pushList s port l).mem = s.mem := rfl
@[simp] theorem pushList_srv (s : State) (port : Nat) (l : XList) : (pushList s port l).srv = s.srv := rfl
@[simp] theorem pushList_mov (s : State) (port : Nat) (l : XList) : (pushList s port l).mov = s.mov := rfl
@[simp] theorem pushList_fla (s : State) (port : Nat) (l : XList) : (pushList s port l).fla = s.fla := rfl
@[simp] theorem pushList_attn (s : State) (port : Nat) (l : XList) : (pushList s port l).attn = s.attn := rfl
@[simp] theorem pushList_merges (s : State) (port : Nat) (l : XList) : (pushList s port l).merges = s.merges := rfl
@[simp] theorem pushList_fh (s : State) (port : Nat) (l : XList) : (pushList s port l).fh = s.fh := rfl
@[simp] theorem pushList_rad (s : State) (port : Nat) (l : XList) : (pushList s port l).rad = s.rad := rfl
@[simp] theorem pushList_tim (s : State) (port : Nat) (l : XList) : (pushList s port l).tim = s.tim := rfl
@[simp] theorem pushList_hst (s : State) (port : Nat) (l : XList) : (pushList s port l).hst = s.hst := rfl
@[simp] theorem pushList_slc (s : State) (port : Nat) (l : XList) : (pushList s port l).slc = s.slc := rfl
@[simp] theorem pushList_fw (s : State) (port : Nat) (l : XList) : (pushList s port l).fw = s.fw := rfl
@[simp] theorem pushList_ras (s : State) (port : Nat) (l : XList) : (pushList s port l).ras = s.ras := rfl
@[simp] theorem pushList_sec (s : State) (port : Nat) (l : XList) : (pushList s port l).sec = s.sec := rfl
@[simp] theorem pushList_evr (s : State) (port : Nat) (l : XList) : (pushList s port l).evr = s.evr := rfl
@[simp] theorem pushList_start (s : State) (port : Nat) (l : XList) : (pushList s port l).start = s.start := rfl

@[simp] theorem setReq_pending (s : State) (i : Nat) (r : Req) : (setReq s i r).pending = s.pending := rfl
@[simp] theorem setReq_freeN (s : State) (i : Nat) (r : Req) : (setReq s i r).freeN = s.freeN := rfl
@[simp] theorem setReq_pwr (s : State) (i : Nat) (r : Req) : (setReq s i r).pwr = s.pwr := rfl
@[simp] theorem setReq_tkp (s : State) (i : Nat) (r : Req) : (setReq s i r).tkp = s.tkp := rfl
@[simp] theorem setReq_tiles (s : State) (i : Nat) (r : Req) : (setReq s i r).tiles = s.tiles := rfl
@[simp] theorem setReq_dies (s : State) (i : Nat) (r : Req) : (setReq s i r).dies = s.dies := rfl
@[simp] theorem setReq_mem (s : State) (i : Nat) (r : Req) : (setReq s i r).mem = s.mem := rfl
@[simp] theorem setReq_mov (s : State) (i : Nat) (r : Req) : (setReq s i r).mov = s.mov := rfl
@[simp] theorem setReq_fla (s : State) (i : Nat) (r : Req) : (setReq s i r).fla = s.fla := rfl
@[simp] theorem setReq_attn (s : State) (i : Nat) (r : Req) : (setReq s i r).attn = s.attn := rfl
@[simp] theorem setReq_merges (s : State) (i : Nat) (r : Req) : (setReq s i r).merges = s.merges := rfl
@[simp] theorem setReq_fh (s : State) (i : Nat) (r : Req) : (setReq s i r).fh = s.fh := rfl
@[simp] theorem setReq_rad (s : State) (i : Nat) (r : Req) : (setReq s i r).rad = s.rad := rfl
@[simp] theorem setReq_fab (s : State) (i : Nat) (r : Req) : (setReq s i r).fab = s.fab := rfl
@[simp] theorem setReq_tim (s : State) (i : Nat) (r : Req) : (setReq s i r).tim = s.tim := rfl
@[simp] theorem setReq_hst (s : State) (i : Nat) (r : Req) : (setReq s i r).hst = s.hst := rfl
@[simp] theorem setReq_slc (s : State) (i : Nat) (r : Req) : (setReq s i r).slc = s.slc := rfl
@[simp] theorem setReq_fw (s : State) (i : Nat) (r : Req) : (setReq s i r).fw = s.fw := rfl
@[simp] theorem setReq_ras (s : State) (i : Nat) (r : Req) : (setReq s i r).ras = s.ras := rfl
@[simp] theorem setReq_sec (s : State) (i : Nat) (r : Req) : (setReq s i r).sec = s.sec := rfl
@[simp] theorem setReq_evr (s : State) (i : Nat) (r : Req) : (setReq s i r).evr = s.evr := rfl
@[simp] theorem setReq_start (s : State) (i : Nat) (r : Req) : (setReq s i r).start = s.start := rfl

@[simp] theorem setFrame_pending (s : State) (p id : Nat) (f : Frame) : (setFrame s p id f).pending = s.pending := rfl
@[simp] theorem setFrame_freeN (s : State) (p id : Nat) (f : Frame) : (setFrame s p id f).freeN = s.freeN := rfl
@[simp] theorem setFrame_pwr (s : State) (p id : Nat) (f : Frame) : (setFrame s p id f).pwr = s.pwr := rfl
@[simp] theorem setFrame_tkp (s : State) (p id : Nat) (f : Frame) : (setFrame s p id f).tkp = s.tkp := rfl
@[simp] theorem setFrame_tiles (s : State) (p id : Nat) (f : Frame) : (setFrame s p id f).tiles = s.tiles := rfl
@[simp] theorem setFrame_dies (s : State) (p id : Nat) (f : Frame) : (setFrame s p id f).dies = s.dies := rfl
@[simp] theorem setFrame_mem (s : State) (p id : Nat) (f : Frame) : (setFrame s p id f).mem = s.mem := rfl
@[simp] theorem setFrame_mov (s : State) (p id : Nat) (f : Frame) : (setFrame s p id f).mov = s.mov := rfl
@[simp] theorem setFrame_fla (s : State) (p id : Nat) (f : Frame) : (setFrame s p id f).fla = s.fla := rfl
@[simp] theorem setFrame_attn (s : State) (p id : Nat) (f : Frame) : (setFrame s p id f).attn = s.attn := rfl
@[simp] theorem setFrame_merges (s : State) (p id : Nat) (f : Frame) : (setFrame s p id f).merges = s.merges := rfl
@[simp] theorem setFrame_fh (s : State) (p id : Nat) (f : Frame) : (setFrame s p id f).fh = s.fh := rfl
@[simp] theorem setFrame_rad (s : State) (p id : Nat) (f : Frame) : (setFrame s p id f).rad = s.rad := rfl
@[simp] theorem setFrame_fab (s : State) (p id : Nat) (f : Frame) : (setFrame s p id f).fab = s.fab := rfl
@[simp] theorem setFrame_tim (s : State) (p id : Nat) (f : Frame) : (setFrame s p id f).tim = s.tim := rfl
@[simp] theorem setFrame_hst (s : State) (p id : Nat) (f : Frame) : (setFrame s p id f).hst = s.hst := rfl
@[simp] theorem setFrame_slc (s : State) (p id : Nat) (f : Frame) : (setFrame s p id f).slc = s.slc := rfl
@[simp] theorem setFrame_fw (s : State) (p id : Nat) (f : Frame) : (setFrame s p id f).fw = s.fw := rfl
@[simp] theorem setFrame_ras (s : State) (p id : Nat) (f : Frame) : (setFrame s p id f).ras = s.ras := rfl
@[simp] theorem setFrame_sec (s : State) (p id : Nat) (f : Frame) : (setFrame s p id f).sec = s.sec := rfl
@[simp] theorem setFrame_evr (s : State) (p id : Nat) (f : Frame) : (setFrame s p id f).evr = s.evr := rfl
@[simp] theorem setFrame_start (s : State) (p id : Nat) (f : Frame) : (setFrame s p id f).start = s.start := rfl

@[simp] theorem setFree_pending (s : State) (p l : Nat) (xs : List Nat) : (setFree s p l xs).pending = s.pending := rfl
@[simp] theorem setFree_freeN (s : State) (p l : Nat) (xs : List Nat) : (setFree s p l xs).freeN = s.freeN := rfl
@[simp] theorem setFree_pwr (s : State) (p l : Nat) (xs : List Nat) : (setFree s p l xs).pwr = s.pwr := rfl
@[simp] theorem setFree_tkp (s : State) (p l : Nat) (xs : List Nat) : (setFree s p l xs).tkp = s.tkp := rfl
@[simp] theorem setFree_tiles (s : State) (p l : Nat) (xs : List Nat) : (setFree s p l xs).tiles = s.tiles := rfl
@[simp] theorem setFree_dies (s : State) (p l : Nat) (xs : List Nat) : (setFree s p l xs).dies = s.dies := rfl
@[simp] theorem setFree_mem (s : State) (p l : Nat) (xs : List Nat) : (setFree s p l xs).mem = s.mem := rfl
@[simp] theorem setFree_mov (s : State) (p l : Nat) (xs : List Nat) : (setFree s p l xs).mov = s.mov := rfl
@[simp] theorem setFree_fla (s : State) (p l : Nat) (xs : List Nat) : (setFree s p l xs).fla = s.fla := rfl
@[simp] theorem setFree_attn (s : State) (p l : Nat) (xs : List Nat) : (setFree s p l xs).attn = s.attn := rfl
@[simp] theorem setFree_merges (s : State) (p l : Nat) (xs : List Nat) : (setFree s p l xs).merges = s.merges := rfl
@[simp] theorem setFree_fh (s : State) (p l : Nat) (xs : List Nat) : (setFree s p l xs).fh = s.fh := rfl
@[simp] theorem setFree_rad (s : State) (p l : Nat) (xs : List Nat) : (setFree s p l xs).rad = s.rad := rfl
@[simp] theorem setFree_fab (s : State) (p l : Nat) (xs : List Nat) : (setFree s p l xs).fab = s.fab := rfl
@[simp] theorem setFree_tim (s : State) (p l : Nat) (xs : List Nat) : (setFree s p l xs).tim = s.tim := rfl
@[simp] theorem setFree_hst (s : State) (p l : Nat) (xs : List Nat) : (setFree s p l xs).hst = s.hst := rfl
@[simp] theorem setFree_slc (s : State) (p l : Nat) (xs : List Nat) : (setFree s p l xs).slc = s.slc := rfl
@[simp] theorem setFree_fw (s : State) (p l : Nat) (xs : List Nat) : (setFree s p l xs).fw = s.fw := rfl
@[simp] theorem setFree_ras (s : State) (p l : Nat) (xs : List Nat) : (setFree s p l xs).ras = s.ras := rfl
@[simp] theorem setFree_sec (s : State) (p l : Nat) (xs : List Nat) : (setFree s p l xs).sec = s.sec := rfl
@[simp] theorem setFree_evr (s : State) (p l : Nat) (xs : List Nat) : (setFree s p l xs).evr = s.evr := rfl
@[simp] theorem setFree_start (s : State) (p l : Nat) (xs : List Nat) : (setFree s p l xs).start = s.start := rfl

@[simp] theorem modCtx_pending (s : State) (c : Nat) (f : Ctx → Ctx) : (modCtx s c f).pending = s.pending := rfl
@[simp] theorem modCtx_freeN (s : State) (c : Nat) (f : Ctx → Ctx) : (modCtx s c f).freeN = s.freeN := rfl
@[simp] theorem modCtx_pwr (s : State) (c : Nat) (f : Ctx → Ctx) : (modCtx s c f).pwr = s.pwr := rfl
@[simp] theorem modCtx_tkp (s : State) (c : Nat) (f : Ctx → Ctx) : (modCtx s c f).tkp = s.tkp := rfl
@[simp] theorem modCtx_tiles (s : State) (c : Nat) (f : Ctx → Ctx) : (modCtx s c f).tiles = s.tiles := rfl
@[simp] theorem modCtx_dies (s : State) (c : Nat) (f : Ctx → Ctx) : (modCtx s c f).dies = s.dies := rfl
@[simp] theorem modCtx_mem (s : State) (c : Nat) (f : Ctx → Ctx) : (modCtx s c f).mem = s.mem := rfl
@[simp] theorem modCtx_srv (s : State) (c : Nat) (f : Ctx → Ctx) : (modCtx s c f).srv = s.srv := rfl
@[simp] theorem modCtx_mov (s : State) (c : Nat) (f : Ctx → Ctx) : (modCtx s c f).mov = s.mov := rfl
@[simp] theorem modCtx_fla (s : State) (c : Nat) (f : Ctx → Ctx) : (modCtx s c f).fla = s.fla := rfl
@[simp] theorem modCtx_attn (s : State) (c : Nat) (f : Ctx → Ctx) : (modCtx s c f).attn = s.attn := rfl
@[simp] theorem modCtx_merges (s : State) (c : Nat) (f : Ctx → Ctx) : (modCtx s c f).merges = s.merges := rfl
@[simp] theorem modCtx_fh (s : State) (c : Nat) (f : Ctx → Ctx) : (modCtx s c f).fh = s.fh := rfl
@[simp] theorem modCtx_rad (s : State) (c : Nat) (f : Ctx → Ctx) : (modCtx s c f).rad = s.rad := rfl
@[simp] theorem modCtx_fab (s : State) (c : Nat) (f : Ctx → Ctx) : (modCtx s c f).fab = s.fab := rfl
@[simp] theorem modCtx_tim (s : State) (c : Nat) (f : Ctx → Ctx) : (modCtx s c f).tim = s.tim := rfl
@[simp] theorem modCtx_hst (s : State) (c : Nat) (f : Ctx → Ctx) : (modCtx s c f).hst = s.hst := rfl
@[simp] theorem modCtx_fw (s : State) (c : Nat) (f : Ctx → Ctx) : (modCtx s c f).fw = s.fw := rfl
@[simp] theorem modCtx_ras (s : State) (c : Nat) (f : Ctx → Ctx) : (modCtx s c f).ras = s.ras := rfl
@[simp] theorem modCtx_sec (s : State) (c : Nat) (f : Ctx → Ctx) : (modCtx s c f).sec = s.sec := rfl
@[simp] theorem modCtx_evr (s : State) (c : Nat) (f : Ctx → Ctx) : (modCtx s c f).evr = s.evr := rfl
@[simp] theorem modCtx_start (s : State) (c : Nat) (f : Ctx → Ctx) : (modCtx s c f).start = s.start := rfl

@[simp] theorem modCell_pending (s : State) (c : Nat) (f : Cell → Cell) : (modCell s c f).pending = s.pending := rfl
@[simp] theorem modCell_freeN (s : State) (c : Nat) (f : Cell → Cell) : (modCell s c f).freeN = s.freeN := rfl
@[simp] theorem modCell_pwr (s : State) (c : Nat) (f : Cell → Cell) : (modCell s c f).pwr = s.pwr := rfl
@[simp] theorem modCell_tkp (s : State) (c : Nat) (f : Cell → Cell) : (modCell s c f).tkp = s.tkp := rfl
@[simp] theorem modCell_tiles (s : State) (c : Nat) (f : Cell → Cell) : (modCell s c f).tiles = s.tiles := rfl
@[simp] theorem modCell_dies (s : State) (c : Nat) (f : Cell → Cell) : (modCell s c f).dies = s.dies := rfl
@[simp] theorem modCell_mem (s : State) (c : Nat) (f : Cell → Cell) : (modCell s c f).mem = s.mem := rfl
@[simp] theorem modCell_srv (s : State) (c : Nat) (f : Cell → Cell) : (modCell s c f).srv = s.srv := rfl
@[simp] theorem modCell_mov (s : State) (c : Nat) (f : Cell → Cell) : (modCell s c f).mov = s.mov := rfl
@[simp] theorem modCell_fla (s : State) (c : Nat) (f : Cell → Cell) : (modCell s c f).fla = s.fla := rfl
@[simp] theorem modCell_attn (s : State) (c : Nat) (f : Cell → Cell) : (modCell s c f).attn = s.attn := rfl
@[simp] theorem modCell_merges (s : State) (c : Nat) (f : Cell → Cell) : (modCell s c f).merges = s.merges := rfl
@[simp] theorem modCell_fh (s : State) (c : Nat) (f : Cell → Cell) : (modCell s c f).fh = s.fh := rfl
@[simp] theorem modCell_fab (s : State) (c : Nat) (f : Cell → Cell) : (modCell s c f).fab = s.fab := rfl
@[simp] theorem modCell_tim (s : State) (c : Nat) (f : Cell → Cell) : (modCell s c f).tim = s.tim := rfl
@[simp] theorem modCell_hst (s : State) (c : Nat) (f : Cell → Cell) : (modCell s c f).hst = s.hst := rfl
@[simp] theorem modCell_slc (s : State) (c : Nat) (f : Cell → Cell) : (modCell s c f).slc = s.slc := rfl
@[simp] theorem modCell_fw (s : State) (c : Nat) (f : Cell → Cell) : (modCell s c f).fw = s.fw := rfl
@[simp] theorem modCell_ras (s : State) (c : Nat) (f : Cell → Cell) : (modCell s c f).ras = s.ras := rfl
@[simp] theorem modCell_sec (s : State) (c : Nat) (f : Cell → Cell) : (modCell s c f).sec = s.sec := rfl
@[simp] theorem modCell_evr (s : State) (c : Nat) (f : Cell → Cell) : (modCell s c f).evr = s.evr := rfl
@[simp] theorem modCell_start (s : State) (c : Nat) (f : Cell → Cell) : (modCell s c f).start = s.start := rfl

@[simp] theorem modFh_pending (s : State) (p : Nat) (f : FhPort → FhPort) : (modFh s p f).pending = s.pending := rfl
@[simp] theorem modFh_freeN (s : State) (p : Nat) (f : FhPort → FhPort) : (modFh s p f).freeN = s.freeN := rfl
@[simp] theorem modFh_pwr (s : State) (p : Nat) (f : FhPort → FhPort) : (modFh s p f).pwr = s.pwr := rfl
@[simp] theorem modFh_tkp (s : State) (p : Nat) (f : FhPort → FhPort) : (modFh s p f).tkp = s.tkp := rfl
@[simp] theorem modFh_tiles (s : State) (p : Nat) (f : FhPort → FhPort) : (modFh s p f).tiles = s.tiles := rfl
@[simp] theorem modFh_dies (s : State) (p : Nat) (f : FhPort → FhPort) : (modFh s p f).dies = s.dies := rfl
@[simp] theorem modFh_mem (s : State) (p : Nat) (f : FhPort → FhPort) : (modFh s p f).mem = s.mem := rfl
@[simp] theorem modFh_srv (s : State) (p : Nat) (f : FhPort → FhPort) : (modFh s p f).srv = s.srv := rfl
@[simp] theorem modFh_mov (s : State) (p : Nat) (f : FhPort → FhPort) : (modFh s p f).mov = s.mov := rfl
@[simp] theorem modFh_fla (s : State) (p : Nat) (f : FhPort → FhPort) : (modFh s p f).fla = s.fla := rfl
@[simp] theorem modFh_attn (s : State) (p : Nat) (f : FhPort → FhPort) : (modFh s p f).attn = s.attn := rfl
@[simp] theorem modFh_merges (s : State) (p : Nat) (f : FhPort → FhPort) : (modFh s p f).merges = s.merges := rfl
@[simp] theorem modFh_rad (s : State) (p : Nat) (f : FhPort → FhPort) : (modFh s p f).rad = s.rad := rfl
@[simp] theorem modFh_fab (s : State) (p : Nat) (f : FhPort → FhPort) : (modFh s p f).fab = s.fab := rfl
@[simp] theorem modFh_tim (s : State) (p : Nat) (f : FhPort → FhPort) : (modFh s p f).tim = s.tim := rfl
@[simp] theorem modFh_hst (s : State) (p : Nat) (f : FhPort → FhPort) : (modFh s p f).hst = s.hst := rfl
@[simp] theorem modFh_slc (s : State) (p : Nat) (f : FhPort → FhPort) : (modFh s p f).slc = s.slc := rfl
@[simp] theorem modFh_fw (s : State) (p : Nat) (f : FhPort → FhPort) : (modFh s p f).fw = s.fw := rfl
@[simp] theorem modFh_ras (s : State) (p : Nat) (f : FhPort → FhPort) : (modFh s p f).ras = s.ras := rfl
@[simp] theorem modFh_sec (s : State) (p : Nat) (f : FhPort → FhPort) : (modFh s p f).sec = s.sec := rfl
@[simp] theorem modFh_evr (s : State) (p : Nat) (f : FhPort → FhPort) : (modFh s p f).evr = s.evr := rfl
@[simp] theorem modFh_start (s : State) (p : Nat) (f : FhPort → FhPort) : (modFh s p f).start = s.start := rfl

@[simp] theorem setMbx_pending (s : State) (p : Nat) (x : Page) : (setMbx s p x).pending = s.pending := rfl
@[simp] theorem setMbx_freeN (s : State) (p : Nat) (x : Page) : (setMbx s p x).freeN = s.freeN := rfl
@[simp] theorem setMbx_pwr (s : State) (p : Nat) (x : Page) : (setMbx s p x).pwr = s.pwr := rfl
@[simp] theorem setMbx_tkp (s : State) (p : Nat) (x : Page) : (setMbx s p x).tkp = s.tkp := rfl
@[simp] theorem setMbx_tiles (s : State) (p : Nat) (x : Page) : (setMbx s p x).tiles = s.tiles := rfl
@[simp] theorem setMbx_dies (s : State) (p : Nat) (x : Page) : (setMbx s p x).dies = s.dies := rfl
@[simp] theorem setMbx_mem (s : State) (p : Nat) (x : Page) : (setMbx s p x).mem = s.mem := rfl
@[simp] theorem setMbx_srv (s : State) (p : Nat) (x : Page) : (setMbx s p x).srv = s.srv := rfl
@[simp] theorem setMbx_mov (s : State) (p : Nat) (x : Page) : (setMbx s p x).mov = s.mov := rfl
@[simp] theorem setMbx_fla (s : State) (p : Nat) (x : Page) : (setMbx s p x).fla = s.fla := rfl
@[simp] theorem setMbx_attn (s : State) (p : Nat) (x : Page) : (setMbx s p x).attn = s.attn := rfl
@[simp] theorem setMbx_merges (s : State) (p : Nat) (x : Page) : (setMbx s p x).merges = s.merges := rfl
@[simp] theorem setMbx_fh (s : State) (p : Nat) (x : Page) : (setMbx s p x).fh = s.fh := rfl
@[simp] theorem setMbx_rad (s : State) (p : Nat) (x : Page) : (setMbx s p x).rad = s.rad := rfl
@[simp] theorem setMbx_fab (s : State) (p : Nat) (x : Page) : (setMbx s p x).fab = s.fab := rfl
@[simp] theorem setMbx_tim (s : State) (p : Nat) (x : Page) : (setMbx s p x).tim = s.tim := rfl
@[simp] theorem setMbx_hst (s : State) (p : Nat) (x : Page) : (setMbx s p x).hst = s.hst := rfl
@[simp] theorem setMbx_fw (s : State) (p : Nat) (x : Page) : (setMbx s p x).fw = s.fw := rfl
@[simp] theorem setMbx_ras (s : State) (p : Nat) (x : Page) : (setMbx s p x).ras = s.ras := rfl
@[simp] theorem setMbx_sec (s : State) (p : Nat) (x : Page) : (setMbx s p x).sec = s.sec := rfl
@[simp] theorem setMbx_evr (s : State) (p : Nat) (x : Page) : (setMbx s p x).evr = s.evr := rfl
@[simp] theorem setMbx_start (s : State) (p : Nat) (x : Page) : (setMbx s p x).start = s.start := rfl

@[simp] theorem setSrc_pending (s : State) (i : Nat) (m : SrcMove) : (setSrc s i m).pending = s.pending := rfl
@[simp] theorem setSrc_freeN (s : State) (i : Nat) (m : SrcMove) : (setSrc s i m).freeN = s.freeN := rfl
@[simp] theorem setSrc_pwr (s : State) (i : Nat) (m : SrcMove) : (setSrc s i m).pwr = s.pwr := rfl
@[simp] theorem setSrc_tkp (s : State) (i : Nat) (m : SrcMove) : (setSrc s i m).tkp = s.tkp := rfl
@[simp] theorem setSrc_tiles (s : State) (i : Nat) (m : SrcMove) : (setSrc s i m).tiles = s.tiles := rfl
@[simp] theorem setSrc_dies (s : State) (i : Nat) (m : SrcMove) : (setSrc s i m).dies = s.dies := rfl
@[simp] theorem setSrc_mem (s : State) (i : Nat) (m : SrcMove) : (setSrc s i m).mem = s.mem := rfl
@[simp] theorem setSrc_srv (s : State) (i : Nat) (m : SrcMove) : (setSrc s i m).srv = s.srv := rfl
@[simp] theorem setSrc_fla (s : State) (i : Nat) (m : SrcMove) : (setSrc s i m).fla = s.fla := rfl
@[simp] theorem setSrc_attn (s : State) (i : Nat) (m : SrcMove) : (setSrc s i m).attn = s.attn := rfl
@[simp] theorem setSrc_merges (s : State) (i : Nat) (m : SrcMove) : (setSrc s i m).merges = s.merges := rfl
@[simp] theorem setSrc_fh (s : State) (i : Nat) (m : SrcMove) : (setSrc s i m).fh = s.fh := rfl
@[simp] theorem setSrc_rad (s : State) (i : Nat) (m : SrcMove) : (setSrc s i m).rad = s.rad := rfl
@[simp] theorem setSrc_fab (s : State) (i : Nat) (m : SrcMove) : (setSrc s i m).fab = s.fab := rfl
@[simp] theorem setSrc_tim (s : State) (i : Nat) (m : SrcMove) : (setSrc s i m).tim = s.tim := rfl
@[simp] theorem setSrc_hst (s : State) (i : Nat) (m : SrcMove) : (setSrc s i m).hst = s.hst := rfl
@[simp] theorem setSrc_slc (s : State) (i : Nat) (m : SrcMove) : (setSrc s i m).slc = s.slc := rfl
@[simp] theorem setSrc_fw (s : State) (i : Nat) (m : SrcMove) : (setSrc s i m).fw = s.fw := rfl
@[simp] theorem setSrc_ras (s : State) (i : Nat) (m : SrcMove) : (setSrc s i m).ras = s.ras := rfl
@[simp] theorem setSrc_sec (s : State) (i : Nat) (m : SrcMove) : (setSrc s i m).sec = s.sec := rfl
@[simp] theorem setSrc_evr (s : State) (i : Nat) (m : SrcMove) : (setSrc s i m).evr = s.evr := rfl
@[simp] theorem setSrc_start (s : State) (i : Nat) (m : SrcMove) : (setSrc s i m).start = s.start := rfl

@[simp] theorem dropSrc_pending (s : State) (i : Nat) : (dropSrc s i).pending = s.pending := rfl
@[simp] theorem dropSrc_freeN (s : State) (i : Nat) : (dropSrc s i).freeN = s.freeN := rfl
@[simp] theorem dropSrc_pwr (s : State) (i : Nat) : (dropSrc s i).pwr = s.pwr := rfl
@[simp] theorem dropSrc_tkp (s : State) (i : Nat) : (dropSrc s i).tkp = s.tkp := rfl
@[simp] theorem dropSrc_tiles (s : State) (i : Nat) : (dropSrc s i).tiles = s.tiles := rfl
@[simp] theorem dropSrc_dies (s : State) (i : Nat) : (dropSrc s i).dies = s.dies := rfl
@[simp] theorem dropSrc_mem (s : State) (i : Nat) : (dropSrc s i).mem = s.mem := rfl
@[simp] theorem dropSrc_srv (s : State) (i : Nat) : (dropSrc s i).srv = s.srv := rfl
@[simp] theorem dropSrc_fla (s : State) (i : Nat) : (dropSrc s i).fla = s.fla := rfl
@[simp] theorem dropSrc_attn (s : State) (i : Nat) : (dropSrc s i).attn = s.attn := rfl
@[simp] theorem dropSrc_merges (s : State) (i : Nat) : (dropSrc s i).merges = s.merges := rfl
@[simp] theorem dropSrc_fh (s : State) (i : Nat) : (dropSrc s i).fh = s.fh := rfl
@[simp] theorem dropSrc_rad (s : State) (i : Nat) : (dropSrc s i).rad = s.rad := rfl
@[simp] theorem dropSrc_fab (s : State) (i : Nat) : (dropSrc s i).fab = s.fab := rfl
@[simp] theorem dropSrc_tim (s : State) (i : Nat) : (dropSrc s i).tim = s.tim := rfl
@[simp] theorem dropSrc_hst (s : State) (i : Nat) : (dropSrc s i).hst = s.hst := rfl
@[simp] theorem dropSrc_slc (s : State) (i : Nat) : (dropSrc s i).slc = s.slc := rfl
@[simp] theorem dropSrc_fw (s : State) (i : Nat) : (dropSrc s i).fw = s.fw := rfl
@[simp] theorem dropSrc_ras (s : State) (i : Nat) : (dropSrc s i).ras = s.ras := rfl
@[simp] theorem dropSrc_sec (s : State) (i : Nat) : (dropSrc s i).sec = s.sec := rfl
@[simp] theorem dropSrc_evr (s : State) (i : Nat) : (dropSrc s i).evr = s.evr := rfl
@[simp] theorem dropSrc_start (s : State) (i : Nat) : (dropSrc s i).start = s.start := rfl

@[simp] theorem modMove_pending (s : State) (src idx gen : Nat) (f : MoveRec → MoveRec) : (modMove s src idx gen f).pending = s.pending := rfl
@[simp] theorem modMove_freeN (s : State) (src idx gen : Nat) (f : MoveRec → MoveRec) : (modMove s src idx gen f).freeN = s.freeN := rfl
@[simp] theorem modMove_pwr (s : State) (src idx gen : Nat) (f : MoveRec → MoveRec) : (modMove s src idx gen f).pwr = s.pwr := rfl
@[simp] theorem modMove_tkp (s : State) (src idx gen : Nat) (f : MoveRec → MoveRec) : (modMove s src idx gen f).tkp = s.tkp := rfl
@[simp] theorem modMove_tiles (s : State) (src idx gen : Nat) (f : MoveRec → MoveRec) : (modMove s src idx gen f).tiles = s.tiles := rfl
@[simp] theorem modMove_dies (s : State) (src idx gen : Nat) (f : MoveRec → MoveRec) : (modMove s src idx gen f).dies = s.dies := rfl
@[simp] theorem modMove_mem (s : State) (src idx gen : Nat) (f : MoveRec → MoveRec) : (modMove s src idx gen f).mem = s.mem := rfl
@[simp] theorem modMove_srv (s : State) (src idx gen : Nat) (f : MoveRec → MoveRec) : (modMove s src idx gen f).srv = s.srv := rfl
@[simp] theorem modMove_fla (s : State) (src idx gen : Nat) (f : MoveRec → MoveRec) : (modMove s src idx gen f).fla = s.fla := rfl
@[simp] theorem modMove_attn (s : State) (src idx gen : Nat) (f : MoveRec → MoveRec) : (modMove s src idx gen f).attn = s.attn := rfl
@[simp] theorem modMove_merges (s : State) (src idx gen : Nat) (f : MoveRec → MoveRec) : (modMove s src idx gen f).merges = s.merges := rfl
@[simp] theorem modMove_fh (s : State) (src idx gen : Nat) (f : MoveRec → MoveRec) : (modMove s src idx gen f).fh = s.fh := rfl
@[simp] theorem modMove_rad (s : State) (src idx gen : Nat) (f : MoveRec → MoveRec) : (modMove s src idx gen f).rad = s.rad := rfl
@[simp] theorem modMove_fab (s : State) (src idx gen : Nat) (f : MoveRec → MoveRec) : (modMove s src idx gen f).fab = s.fab := rfl
@[simp] theorem modMove_tim (s : State) (src idx gen : Nat) (f : MoveRec → MoveRec) : (modMove s src idx gen f).tim = s.tim := rfl
@[simp] theorem modMove_hst (s : State) (src idx gen : Nat) (f : MoveRec → MoveRec) : (modMove s src idx gen f).hst = s.hst := rfl
@[simp] theorem modMove_slc (s : State) (src idx gen : Nat) (f : MoveRec → MoveRec) : (modMove s src idx gen f).slc = s.slc := rfl
@[simp] theorem modMove_fw (s : State) (src idx gen : Nat) (f : MoveRec → MoveRec) : (modMove s src idx gen f).fw = s.fw := rfl
@[simp] theorem modMove_ras (s : State) (src idx gen : Nat) (f : MoveRec → MoveRec) : (modMove s src idx gen f).ras = s.ras := rfl
@[simp] theorem modMove_sec (s : State) (src idx gen : Nat) (f : MoveRec → MoveRec) : (modMove s src idx gen f).sec = s.sec := rfl
@[simp] theorem modMove_evr (s : State) (src idx gen : Nat) (f : MoveRec → MoveRec) : (modMove s src idx gen f).evr = s.evr := rfl
@[simp] theorem modMove_start (s : State) (src idx gen : Nat) (f : MoveRec → MoveRec) : (modMove s src idx gen f).start = s.start := rfl

@[simp] theorem setPfx_pending (s : State) (o : PfxOp) : (setPfx s o).pending = s.pending := rfl
@[simp] theorem setPfx_freeN (s : State) (o : PfxOp) : (setPfx s o).freeN = s.freeN := rfl
@[simp] theorem setPfx_pwr (s : State) (o : PfxOp) : (setPfx s o).pwr = s.pwr := rfl
@[simp] theorem setPfx_tkp (s : State) (o : PfxOp) : (setPfx s o).tkp = s.tkp := rfl
@[simp] theorem setPfx_tiles (s : State) (o : PfxOp) : (setPfx s o).tiles = s.tiles := rfl
@[simp] theorem setPfx_dies (s : State) (o : PfxOp) : (setPfx s o).dies = s.dies := rfl
@[simp] theorem setPfx_mem (s : State) (o : PfxOp) : (setPfx s o).mem = s.mem := rfl
@[simp] theorem setPfx_srv (s : State) (o : PfxOp) : (setPfx s o).srv = s.srv := rfl
@[simp] theorem setPfx_fla (s : State) (o : PfxOp) : (setPfx s o).fla = s.fla := rfl
@[simp] theorem setPfx_attn (s : State) (o : PfxOp) : (setPfx s o).attn = s.attn := rfl
@[simp] theorem setPfx_merges (s : State) (o : PfxOp) : (setPfx s o).merges = s.merges := rfl
@[simp] theorem setPfx_fh (s : State) (o : PfxOp) : (setPfx s o).fh = s.fh := rfl
@[simp] theorem setPfx_rad (s : State) (o : PfxOp) : (setPfx s o).rad = s.rad := rfl
@[simp] theorem setPfx_fab (s : State) (o : PfxOp) : (setPfx s o).fab = s.fab := rfl
@[simp] theorem setPfx_tim (s : State) (o : PfxOp) : (setPfx s o).tim = s.tim := rfl
@[simp] theorem setPfx_hst (s : State) (o : PfxOp) : (setPfx s o).hst = s.hst := rfl
@[simp] theorem setPfx_slc (s : State) (o : PfxOp) : (setPfx s o).slc = s.slc := rfl
@[simp] theorem setPfx_fw (s : State) (o : PfxOp) : (setPfx s o).fw = s.fw := rfl
@[simp] theorem setPfx_ras (s : State) (o : PfxOp) : (setPfx s o).ras = s.ras := rfl
@[simp] theorem setPfx_sec (s : State) (o : PfxOp) : (setPfx s o).sec = s.sec := rfl
@[simp] theorem setPfx_evr (s : State) (o : PfxOp) : (setPfx s o).evr = s.evr := rfl
@[simp] theorem setPfx_start (s : State) (o : PfxOp) : (setPfx s o).start = s.start := rfl

@[simp] theorem modSb_pending (s : State) (i : Nat) (f : SuperBlk → SuperBlk) : (modSb s i f).pending = s.pending := rfl
@[simp] theorem modSb_freeN (s : State) (i : Nat) (f : SuperBlk → SuperBlk) : (modSb s i f).freeN = s.freeN := rfl
@[simp] theorem modSb_pwr (s : State) (i : Nat) (f : SuperBlk → SuperBlk) : (modSb s i f).pwr = s.pwr := rfl
@[simp] theorem modSb_tkp (s : State) (i : Nat) (f : SuperBlk → SuperBlk) : (modSb s i f).tkp = s.tkp := rfl
@[simp] theorem modSb_tiles (s : State) (i : Nat) (f : SuperBlk → SuperBlk) : (modSb s i f).tiles = s.tiles := rfl
@[simp] theorem modSb_dies (s : State) (i : Nat) (f : SuperBlk → SuperBlk) : (modSb s i f).dies = s.dies := rfl
@[simp] theorem modSb_mem (s : State) (i : Nat) (f : SuperBlk → SuperBlk) : (modSb s i f).mem = s.mem := rfl
@[simp] theorem modSb_srv (s : State) (i : Nat) (f : SuperBlk → SuperBlk) : (modSb s i f).srv = s.srv := rfl
@[simp] theorem modSb_mov (s : State) (i : Nat) (f : SuperBlk → SuperBlk) : (modSb s i f).mov = s.mov := rfl
@[simp] theorem modSb_attn (s : State) (i : Nat) (f : SuperBlk → SuperBlk) : (modSb s i f).attn = s.attn := rfl
@[simp] theorem modSb_merges (s : State) (i : Nat) (f : SuperBlk → SuperBlk) : (modSb s i f).merges = s.merges := rfl
@[simp] theorem modSb_fh (s : State) (i : Nat) (f : SuperBlk → SuperBlk) : (modSb s i f).fh = s.fh := rfl
@[simp] theorem modSb_rad (s : State) (i : Nat) (f : SuperBlk → SuperBlk) : (modSb s i f).rad = s.rad := rfl
@[simp] theorem modSb_fab (s : State) (i : Nat) (f : SuperBlk → SuperBlk) : (modSb s i f).fab = s.fab := rfl
@[simp] theorem modSb_tim (s : State) (i : Nat) (f : SuperBlk → SuperBlk) : (modSb s i f).tim = s.tim := rfl
@[simp] theorem modSb_hst (s : State) (i : Nat) (f : SuperBlk → SuperBlk) : (modSb s i f).hst = s.hst := rfl
@[simp] theorem modSb_slc (s : State) (i : Nat) (f : SuperBlk → SuperBlk) : (modSb s i f).slc = s.slc := rfl
@[simp] theorem modSb_fw (s : State) (i : Nat) (f : SuperBlk → SuperBlk) : (modSb s i f).fw = s.fw := rfl
@[simp] theorem modSb_ras (s : State) (i : Nat) (f : SuperBlk → SuperBlk) : (modSb s i f).ras = s.ras := rfl
@[simp] theorem modSb_sec (s : State) (i : Nat) (f : SuperBlk → SuperBlk) : (modSb s i f).sec = s.sec := rfl
@[simp] theorem modSb_evr (s : State) (i : Nat) (f : SuperBlk → SuperBlk) : (modSb s i f).evr = s.evr := rfl
@[simp] theorem modSb_start (s : State) (i : Nat) (f : SuperBlk → SuperBlk) : (modSb s i f).start = s.start := rfl

@[simp] theorem modBurst_pending (s : State) (eng : Nat) (f : Burst → Burst) : (modBurst s eng f).pending = s.pending := rfl
@[simp] theorem modBurst_freeN (s : State) (eng : Nat) (f : Burst → Burst) : (modBurst s eng f).freeN = s.freeN := rfl
@[simp] theorem modBurst_pwr (s : State) (eng : Nat) (f : Burst → Burst) : (modBurst s eng f).pwr = s.pwr := rfl
@[simp] theorem modBurst_tkp (s : State) (eng : Nat) (f : Burst → Burst) : (modBurst s eng f).tkp = s.tkp := rfl
@[simp] theorem modBurst_tiles (s : State) (eng : Nat) (f : Burst → Burst) : (modBurst s eng f).tiles = s.tiles := rfl
@[simp] theorem modBurst_dies (s : State) (eng : Nat) (f : Burst → Burst) : (modBurst s eng f).dies = s.dies := rfl
@[simp] theorem modBurst_srv (s : State) (eng : Nat) (f : Burst → Burst) : (modBurst s eng f).srv = s.srv := rfl
@[simp] theorem modBurst_mov (s : State) (eng : Nat) (f : Burst → Burst) : (modBurst s eng f).mov = s.mov := rfl
@[simp] theorem modBurst_fla (s : State) (eng : Nat) (f : Burst → Burst) : (modBurst s eng f).fla = s.fla := rfl
@[simp] theorem modBurst_attn (s : State) (eng : Nat) (f : Burst → Burst) : (modBurst s eng f).attn = s.attn := rfl
@[simp] theorem modBurst_merges (s : State) (eng : Nat) (f : Burst → Burst) : (modBurst s eng f).merges = s.merges := rfl
@[simp] theorem modBurst_fh (s : State) (eng : Nat) (f : Burst → Burst) : (modBurst s eng f).fh = s.fh := rfl
@[simp] theorem modBurst_rad (s : State) (eng : Nat) (f : Burst → Burst) : (modBurst s eng f).rad = s.rad := rfl
@[simp] theorem modBurst_fab (s : State) (eng : Nat) (f : Burst → Burst) : (modBurst s eng f).fab = s.fab := rfl
@[simp] theorem modBurst_tim (s : State) (eng : Nat) (f : Burst → Burst) : (modBurst s eng f).tim = s.tim := rfl
@[simp] theorem modBurst_hst (s : State) (eng : Nat) (f : Burst → Burst) : (modBurst s eng f).hst = s.hst := rfl
@[simp] theorem modBurst_slc (s : State) (eng : Nat) (f : Burst → Burst) : (modBurst s eng f).slc = s.slc := rfl
@[simp] theorem modBurst_fw (s : State) (eng : Nat) (f : Burst → Burst) : (modBurst s eng f).fw = s.fw := rfl
@[simp] theorem modBurst_ras (s : State) (eng : Nat) (f : Burst → Burst) : (modBurst s eng f).ras = s.ras := rfl
@[simp] theorem modBurst_sec (s : State) (eng : Nat) (f : Burst → Burst) : (modBurst s eng f).sec = s.sec := rfl
@[simp] theorem modBurst_evr (s : State) (eng : Nat) (f : Burst → Burst) : (modBurst s eng f).evr = s.evr := rfl
@[simp] theorem modBurst_start (s : State) (eng : Nat) (f : Burst → Burst) : (modBurst s eng f).start = s.start := rfl

@[simp] theorem poisonLine_pending (s : State) (a : Nat) : (poisonLine s a).pending = s.pending := rfl
@[simp] theorem poisonLine_freeN (s : State) (a : Nat) : (poisonLine s a).freeN = s.freeN := rfl
@[simp] theorem poisonLine_pwr (s : State) (a : Nat) : (poisonLine s a).pwr = s.pwr := rfl
@[simp] theorem poisonLine_tkp (s : State) (a : Nat) : (poisonLine s a).tkp = s.tkp := rfl
@[simp] theorem poisonLine_tiles (s : State) (a : Nat) : (poisonLine s a).tiles = s.tiles := rfl
@[simp] theorem poisonLine_dies (s : State) (a : Nat) : (poisonLine s a).dies = s.dies := rfl
@[simp] theorem poisonLine_srv (s : State) (a : Nat) : (poisonLine s a).srv = s.srv := rfl
@[simp] theorem poisonLine_mov (s : State) (a : Nat) : (poisonLine s a).mov = s.mov := rfl
@[simp] theorem poisonLine_fla (s : State) (a : Nat) : (poisonLine s a).fla = s.fla := rfl
@[simp] theorem poisonLine_attn (s : State) (a : Nat) : (poisonLine s a).attn = s.attn := rfl
@[simp] theorem poisonLine_merges (s : State) (a : Nat) : (poisonLine s a).merges = s.merges := rfl
@[simp] theorem poisonLine_fh (s : State) (a : Nat) : (poisonLine s a).fh = s.fh := rfl
@[simp] theorem poisonLine_rad (s : State) (a : Nat) : (poisonLine s a).rad = s.rad := rfl
@[simp] theorem poisonLine_fab (s : State) (a : Nat) : (poisonLine s a).fab = s.fab := rfl
@[simp] theorem poisonLine_tim (s : State) (a : Nat) : (poisonLine s a).tim = s.tim := rfl
@[simp] theorem poisonLine_hst (s : State) (a : Nat) : (poisonLine s a).hst = s.hst := rfl
@[simp] theorem poisonLine_slc (s : State) (a : Nat) : (poisonLine s a).slc = s.slc := rfl
@[simp] theorem poisonLine_fw (s : State) (a : Nat) : (poisonLine s a).fw = s.fw := rfl
@[simp] theorem poisonLine_ras (s : State) (a : Nat) : (poisonLine s a).ras = s.ras := rfl
@[simp] theorem poisonLine_sec (s : State) (a : Nat) : (poisonLine s a).sec = s.sec := rfl
@[simp] theorem poisonLine_evr (s : State) (a : Nat) : (poisonLine s a).evr = s.evr := rfl
@[simp] theorem poisonLine_start (s : State) (a : Nat) : (poisonLine s a).start = s.start := rfl

@[simp] theorem hostWrite_pending (s : State) (pas : Option Nat) (a : Nat) (bs : List Byte) : (hostWrite s pas a bs).pending = s.pending := rfl
@[simp] theorem hostWrite_freeN (s : State) (pas : Option Nat) (a : Nat) (bs : List Byte) : (hostWrite s pas a bs).freeN = s.freeN := rfl
@[simp] theorem hostWrite_pwr (s : State) (pas : Option Nat) (a : Nat) (bs : List Byte) : (hostWrite s pas a bs).pwr = s.pwr := rfl
@[simp] theorem hostWrite_tkp (s : State) (pas : Option Nat) (a : Nat) (bs : List Byte) : (hostWrite s pas a bs).tkp = s.tkp := rfl
@[simp] theorem hostWrite_tiles (s : State) (pas : Option Nat) (a : Nat) (bs : List Byte) : (hostWrite s pas a bs).tiles = s.tiles := rfl
@[simp] theorem hostWrite_dies (s : State) (pas : Option Nat) (a : Nat) (bs : List Byte) : (hostWrite s pas a bs).dies = s.dies := rfl
@[simp] theorem hostWrite_srv (s : State) (pas : Option Nat) (a : Nat) (bs : List Byte) : (hostWrite s pas a bs).srv = s.srv := rfl
@[simp] theorem hostWrite_mov (s : State) (pas : Option Nat) (a : Nat) (bs : List Byte) : (hostWrite s pas a bs).mov = s.mov := rfl
@[simp] theorem hostWrite_fla (s : State) (pas : Option Nat) (a : Nat) (bs : List Byte) : (hostWrite s pas a bs).fla = s.fla := rfl
@[simp] theorem hostWrite_attn (s : State) (pas : Option Nat) (a : Nat) (bs : List Byte) : (hostWrite s pas a bs).attn = s.attn := rfl
@[simp] theorem hostWrite_merges (s : State) (pas : Option Nat) (a : Nat) (bs : List Byte) : (hostWrite s pas a bs).merges = s.merges := rfl
@[simp] theorem hostWrite_fh (s : State) (pas : Option Nat) (a : Nat) (bs : List Byte) : (hostWrite s pas a bs).fh = s.fh := rfl
@[simp] theorem hostWrite_rad (s : State) (pas : Option Nat) (a : Nat) (bs : List Byte) : (hostWrite s pas a bs).rad = s.rad := rfl
@[simp] theorem hostWrite_fab (s : State) (pas : Option Nat) (a : Nat) (bs : List Byte) : (hostWrite s pas a bs).fab = s.fab := rfl
@[simp] theorem hostWrite_tim (s : State) (pas : Option Nat) (a : Nat) (bs : List Byte) : (hostWrite s pas a bs).tim = s.tim := rfl
@[simp] theorem hostWrite_hst (s : State) (pas : Option Nat) (a : Nat) (bs : List Byte) : (hostWrite s pas a bs).hst = s.hst := rfl
@[simp] theorem hostWrite_slc (s : State) (pas : Option Nat) (a : Nat) (bs : List Byte) : (hostWrite s pas a bs).slc = s.slc := rfl
@[simp] theorem hostWrite_fw (s : State) (pas : Option Nat) (a : Nat) (bs : List Byte) : (hostWrite s pas a bs).fw = s.fw := rfl
@[simp] theorem hostWrite_ras (s : State) (pas : Option Nat) (a : Nat) (bs : List Byte) : (hostWrite s pas a bs).ras = s.ras := rfl
@[simp] theorem hostWrite_sec (s : State) (pas : Option Nat) (a : Nat) (bs : List Byte) : (hostWrite s pas a bs).sec = s.sec := rfl
@[simp] theorem hostWrite_evr (s : State) (pas : Option Nat) (a : Nat) (bs : List Byte) : (hostWrite s pas a bs).evr = s.evr := rfl
@[simp] theorem hostWrite_start (s : State) (pas : Option Nat) (a : Nat) (bs : List Byte) : (hostWrite s pas a bs).start = s.start := rfl

@[simp] theorem respond_pending (s : State) (type status : Nat) (body : List Byte) : (respond s type status body).pending = s.pending := rfl
@[simp] theorem respond_freeN (s : State) (type status : Nat) (body : List Byte) : (respond s type status body).freeN = s.freeN := rfl
@[simp] theorem respond_pwr (s : State) (type status : Nat) (body : List Byte) : (respond s type status body).pwr = s.pwr := rfl
@[simp] theorem respond_tkp (s : State) (type status : Nat) (body : List Byte) : (respond s type status body).tkp = s.tkp := rfl
@[simp] theorem respond_tiles (s : State) (type status : Nat) (body : List Byte) : (respond s type status body).tiles = s.tiles := rfl
@[simp] theorem respond_dies (s : State) (type status : Nat) (body : List Byte) : (respond s type status body).dies = s.dies := rfl
@[simp] theorem respond_mem (s : State) (type status : Nat) (body : List Byte) : (respond s type status body).mem = s.mem := rfl
@[simp] theorem respond_srv (s : State) (type status : Nat) (body : List Byte) : (respond s type status body).srv = s.srv := rfl
@[simp] theorem respond_mov (s : State) (type status : Nat) (body : List Byte) : (respond s type status body).mov = s.mov := rfl
@[simp] theorem respond_fla (s : State) (type status : Nat) (body : List Byte) : (respond s type status body).fla = s.fla := rfl
@[simp] theorem respond_attn (s : State) (type status : Nat) (body : List Byte) : (respond s type status body).attn = s.attn := rfl
@[simp] theorem respond_merges (s : State) (type status : Nat) (body : List Byte) : (respond s type status body).merges = s.merges := rfl
@[simp] theorem respond_fh (s : State) (type status : Nat) (body : List Byte) : (respond s type status body).fh = s.fh := rfl
@[simp] theorem respond_rad (s : State) (type status : Nat) (body : List Byte) : (respond s type status body).rad = s.rad := rfl
@[simp] theorem respond_fab (s : State) (type status : Nat) (body : List Byte) : (respond s type status body).fab = s.fab := rfl
@[simp] theorem respond_tim (s : State) (type status : Nat) (body : List Byte) : (respond s type status body).tim = s.tim := rfl
@[simp] theorem respond_hst (s : State) (type status : Nat) (body : List Byte) : (respond s type status body).hst = s.hst := rfl
@[simp] theorem respond_slc (s : State) (type status : Nat) (body : List Byte) : (respond s type status body).slc = s.slc := rfl
@[simp] theorem respond_fw (s : State) (type status : Nat) (body : List Byte) : (respond s type status body).fw = s.fw := rfl
@[simp] theorem respond_ras (s : State) (type status : Nat) (body : List Byte) : (respond s type status body).ras = s.ras := rfl
@[simp] theorem respond_sec (s : State) (type status : Nat) (body : List Byte) : (respond s type status body).sec = s.sec := rfl
@[simp] theorem respond_start (s : State) (type status : Nat) (body : List Byte) : (respond s type status body).start = s.start := rfl

@[simp] theorem mapRecs_pending (s : State) (f : Rec → Rec) : (mapRecs s f).pending = s.pending := rfl
@[simp] theorem mapRecs_freeN (s : State) (f : Rec → Rec) : (mapRecs s f).freeN = s.freeN := rfl
@[simp] theorem mapRecs_pwr (s : State) (f : Rec → Rec) : (mapRecs s f).pwr = s.pwr := rfl
@[simp] theorem mapRecs_tkp (s : State) (f : Rec → Rec) : (mapRecs s f).tkp = s.tkp := rfl
@[simp] theorem mapRecs_tiles (s : State) (f : Rec → Rec) : (mapRecs s f).tiles = s.tiles := rfl
@[simp] theorem mapRecs_dies (s : State) (f : Rec → Rec) : (mapRecs s f).dies = s.dies := rfl
@[simp] theorem mapRecs_mem (s : State) (f : Rec → Rec) : (mapRecs s f).mem = s.mem := rfl
@[simp] theorem mapRecs_srv (s : State) (f : Rec → Rec) : (mapRecs s f).srv = s.srv := rfl
@[simp] theorem mapRecs_mov (s : State) (f : Rec → Rec) : (mapRecs s f).mov = s.mov := rfl
@[simp] theorem mapRecs_fla (s : State) (f : Rec → Rec) : (mapRecs s f).fla = s.fla := rfl
@[simp] theorem mapRecs_attn (s : State) (f : Rec → Rec) : (mapRecs s f).attn = s.attn := rfl
@[simp] theorem mapRecs_merges (s : State) (f : Rec → Rec) : (mapRecs s f).merges = s.merges := rfl
@[simp] theorem mapRecs_fh (s : State) (f : Rec → Rec) : (mapRecs s f).fh = s.fh := rfl
@[simp] theorem mapRecs_rad (s : State) (f : Rec → Rec) : (mapRecs s f).rad = s.rad := rfl
@[simp] theorem mapRecs_fab (s : State) (f : Rec → Rec) : (mapRecs s f).fab = s.fab := rfl
@[simp] theorem mapRecs_tim (s : State) (f : Rec → Rec) : (mapRecs s f).tim = s.tim := rfl
@[simp] theorem mapRecs_hst (s : State) (f : Rec → Rec) : (mapRecs s f).hst = s.hst := rfl
@[simp] theorem mapRecs_slc (s : State) (f : Rec → Rec) : (mapRecs s f).slc = s.slc := rfl
@[simp] theorem mapRecs_fw (s : State) (f : Rec → Rec) : (mapRecs s f).fw = s.fw := rfl
@[simp] theorem mapRecs_ras (s : State) (f : Rec → Rec) : (mapRecs s f).ras = s.ras := rfl
@[simp] theorem mapRecs_sec (s : State) (f : Rec → Rec) : (mapRecs s f).sec = s.sec := rfl
@[simp] theorem mapRecs_start (s : State) (f : Rec → Rec) : (mapRecs s f).start = s.start := rfl

@[simp] theorem takeMsg_pending (s : State) (src cls : Nat) : (takeMsg s src cls).pending = s.pending := rfl
@[simp] theorem takeMsg_freeN (s : State) (src cls : Nat) : (takeMsg s src cls).freeN = s.freeN := rfl
@[simp] theorem takeMsg_pwr (s : State) (src cls : Nat) : (takeMsg s src cls).pwr = s.pwr := rfl
@[simp] theorem takeMsg_tkp (s : State) (src cls : Nat) : (takeMsg s src cls).tkp = s.tkp := rfl
@[simp] theorem takeMsg_tiles (s : State) (src cls : Nat) : (takeMsg s src cls).tiles = s.tiles := rfl
@[simp] theorem takeMsg_dies (s : State) (src cls : Nat) : (takeMsg s src cls).dies = s.dies := rfl
@[simp] theorem takeMsg_mem (s : State) (src cls : Nat) : (takeMsg s src cls).mem = s.mem := rfl
@[simp] theorem takeMsg_srv (s : State) (src cls : Nat) : (takeMsg s src cls).srv = s.srv := rfl
@[simp] theorem takeMsg_mov (s : State) (src cls : Nat) : (takeMsg s src cls).mov = s.mov := rfl
@[simp] theorem takeMsg_fla (s : State) (src cls : Nat) : (takeMsg s src cls).fla = s.fla := rfl
@[simp] theorem takeMsg_attn (s : State) (src cls : Nat) : (takeMsg s src cls).attn = s.attn := rfl
@[simp] theorem takeMsg_merges (s : State) (src cls : Nat) : (takeMsg s src cls).merges = s.merges := rfl
@[simp] theorem takeMsg_fh (s : State) (src cls : Nat) : (takeMsg s src cls).fh = s.fh := rfl
@[simp] theorem takeMsg_rad (s : State) (src cls : Nat) : (takeMsg s src cls).rad = s.rad := rfl
@[simp] theorem takeMsg_tim (s : State) (src cls : Nat) : (takeMsg s src cls).tim = s.tim := rfl
@[simp] theorem takeMsg_hst (s : State) (src cls : Nat) : (takeMsg s src cls).hst = s.hst := rfl
@[simp] theorem takeMsg_slc (s : State) (src cls : Nat) : (takeMsg s src cls).slc = s.slc := rfl
@[simp] theorem takeMsg_fw (s : State) (src cls : Nat) : (takeMsg s src cls).fw = s.fw := rfl
@[simp] theorem takeMsg_ras (s : State) (src cls : Nat) : (takeMsg s src cls).ras = s.ras := rfl
@[simp] theorem takeMsg_sec (s : State) (src cls : Nat) : (takeMsg s src cls).sec = s.sec := rfl
@[simp] theorem takeMsg_evr (s : State) (src cls : Nat) : (takeMsg s src cls).evr = s.evr := rfl
@[simp] theorem takeMsg_start (s : State) (src cls : Nat) : (takeMsg s src cls).start = s.start := rfl

@[simp] theorem modAttn_pending (s : State) (a : AttnCmd) : (modAttn s a).pending = s.pending := rfl
@[simp] theorem modAttn_freeN (s : State) (a : AttnCmd) : (modAttn s a).freeN = s.freeN := rfl
@[simp] theorem modAttn_pwr (s : State) (a : AttnCmd) : (modAttn s a).pwr = s.pwr := rfl
@[simp] theorem modAttn_tkp (s : State) (a : AttnCmd) : (modAttn s a).tkp = s.tkp := rfl
@[simp] theorem modAttn_tiles (s : State) (a : AttnCmd) : (modAttn s a).tiles = s.tiles := rfl
@[simp] theorem modAttn_dies (s : State) (a : AttnCmd) : (modAttn s a).dies = s.dies := rfl
@[simp] theorem modAttn_mem (s : State) (a : AttnCmd) : (modAttn s a).mem = s.mem := rfl
@[simp] theorem modAttn_srv (s : State) (a : AttnCmd) : (modAttn s a).srv = s.srv := rfl
@[simp] theorem modAttn_mov (s : State) (a : AttnCmd) : (modAttn s a).mov = s.mov := rfl
@[simp] theorem modAttn_fla (s : State) (a : AttnCmd) : (modAttn s a).fla = s.fla := rfl
@[simp] theorem modAttn_merges (s : State) (a : AttnCmd) : (modAttn s a).merges = s.merges := rfl
@[simp] theorem modAttn_fh (s : State) (a : AttnCmd) : (modAttn s a).fh = s.fh := rfl
@[simp] theorem modAttn_rad (s : State) (a : AttnCmd) : (modAttn s a).rad = s.rad := rfl
@[simp] theorem modAttn_fab (s : State) (a : AttnCmd) : (modAttn s a).fab = s.fab := rfl
@[simp] theorem modAttn_tim (s : State) (a : AttnCmd) : (modAttn s a).tim = s.tim := rfl
@[simp] theorem modAttn_hst (s : State) (a : AttnCmd) : (modAttn s a).hst = s.hst := rfl
@[simp] theorem modAttn_slc (s : State) (a : AttnCmd) : (modAttn s a).slc = s.slc := rfl
@[simp] theorem modAttn_fw (s : State) (a : AttnCmd) : (modAttn s a).fw = s.fw := rfl
@[simp] theorem modAttn_ras (s : State) (a : AttnCmd) : (modAttn s a).ras = s.ras := rfl
@[simp] theorem modAttn_sec (s : State) (a : AttnCmd) : (modAttn s a).sec = s.sec := rfl
@[simp] theorem modAttn_evr (s : State) (a : AttnCmd) : (modAttn s a).evr = s.evr := rfl
@[simp] theorem modAttn_start (s : State) (a : AttnCmd) : (modAttn s a).start = s.start := rfl

@[simp] theorem setJob_pending (s : State) (j : Job) : (setJob s j).pending = s.pending := rfl
@[simp] theorem setJob_freeN (s : State) (j : Job) : (setJob s j).freeN = s.freeN := rfl
@[simp] theorem setJob_pwr (s : State) (j : Job) : (setJob s j).pwr = s.pwr := rfl
@[simp] theorem setJob_tkp (s : State) (j : Job) : (setJob s j).tkp = s.tkp := rfl
@[simp] theorem setJob_tiles (s : State) (j : Job) : (setJob s j).tiles = s.tiles := rfl
@[simp] theorem setJob_dies (s : State) (j : Job) : (setJob s j).dies = s.dies := rfl
@[simp] theorem setJob_mem (s : State) (j : Job) : (setJob s j).mem = s.mem := rfl
@[simp] theorem setJob_srv (s : State) (j : Job) : (setJob s j).srv = s.srv := rfl
@[simp] theorem setJob_mov (s : State) (j : Job) : (setJob s j).mov = s.mov := rfl
@[simp] theorem setJob_fla (s : State) (j : Job) : (setJob s j).fla = s.fla := rfl
@[simp] theorem setJob_attn (s : State) (j : Job) : (setJob s j).attn = s.attn := rfl
@[simp] theorem setJob_merges (s : State) (j : Job) : (setJob s j).merges = s.merges := rfl
@[simp] theorem setJob_fh (s : State) (j : Job) : (setJob s j).fh = s.fh := rfl
@[simp] theorem setJob_rad (s : State) (j : Job) : (setJob s j).rad = s.rad := rfl
@[simp] theorem setJob_fab (s : State) (j : Job) : (setJob s j).fab = s.fab := rfl
@[simp] theorem setJob_hst (s : State) (j : Job) : (setJob s j).hst = s.hst := rfl
@[simp] theorem setJob_slc (s : State) (j : Job) : (setJob s j).slc = s.slc := rfl
@[simp] theorem setJob_fw (s : State) (j : Job) : (setJob s j).fw = s.fw := rfl
@[simp] theorem setJob_ras (s : State) (j : Job) : (setJob s j).ras = s.ras := rfl
@[simp] theorem setJob_sec (s : State) (j : Job) : (setJob s j).sec = s.sec := rfl
@[simp] theorem setJob_evr (s : State) (j : Job) : (setJob s j).evr = s.evr := rfl
@[simp] theorem setJob_start (s : State) (j : Job) : (setJob s j).start = s.start := rfl

@[simp] theorem landed_pending (s : State) : (landed s).pending = s.pending := rfl
@[simp] theorem landed_freeN (s : State) : (landed s).freeN = s.freeN := rfl
@[simp] theorem landed_pwr (s : State) : (landed s).pwr = s.pwr := rfl
@[simp] theorem landed_tiles (s : State) : (landed s).tiles = s.tiles := rfl
@[simp] theorem landed_dies (s : State) : (landed s).dies = s.dies := rfl
@[simp] theorem landed_mem (s : State) : (landed s).mem = s.mem := rfl
@[simp] theorem landed_srv (s : State) : (landed s).srv = s.srv := rfl
@[simp] theorem landed_mov (s : State) : (landed s).mov = s.mov := rfl
@[simp] theorem landed_fla (s : State) : (landed s).fla = s.fla := rfl
@[simp] theorem landed_attn (s : State) : (landed s).attn = s.attn := rfl
@[simp] theorem landed_merges (s : State) : (landed s).merges = s.merges := rfl
@[simp] theorem landed_fh (s : State) : (landed s).fh = s.fh := rfl
@[simp] theorem landed_rad (s : State) : (landed s).rad = s.rad := rfl
@[simp] theorem landed_fab (s : State) : (landed s).fab = s.fab := rfl
@[simp] theorem landed_tim (s : State) : (landed s).tim = s.tim := rfl
@[simp] theorem landed_hst (s : State) : (landed s).hst = s.hst := rfl
@[simp] theorem landed_slc (s : State) : (landed s).slc = s.slc := rfl
@[simp] theorem landed_fw (s : State) : (landed s).fw = s.fw := rfl
@[simp] theorem landed_ras (s : State) : (landed s).ras = s.ras := rfl
@[simp] theorem landed_sec (s : State) : (landed s).sec = s.sec := rfl
@[simp] theorem landed_evr (s : State) : (landed s).evr = s.evr := rfl
@[simp] theorem landed_start (s : State) : (landed s).start = s.start := rfl

@[simp] theorem incSync_pending (s : State) (ctr : Nat) : (incSync s ctr).pending = s.pending := rfl
@[simp] theorem incSync_freeN (s : State) (ctr : Nat) : (incSync s ctr).freeN = s.freeN := rfl
@[simp] theorem incSync_pwr (s : State) (ctr : Nat) : (incSync s ctr).pwr = s.pwr := rfl
@[simp] theorem incSync_tiles (s : State) (ctr : Nat) : (incSync s ctr).tiles = s.tiles := rfl
@[simp] theorem incSync_dies (s : State) (ctr : Nat) : (incSync s ctr).dies = s.dies := rfl
@[simp] theorem incSync_mem (s : State) (ctr : Nat) : (incSync s ctr).mem = s.mem := rfl
@[simp] theorem incSync_srv (s : State) (ctr : Nat) : (incSync s ctr).srv = s.srv := rfl
@[simp] theorem incSync_mov (s : State) (ctr : Nat) : (incSync s ctr).mov = s.mov := rfl
@[simp] theorem incSync_fla (s : State) (ctr : Nat) : (incSync s ctr).fla = s.fla := rfl
@[simp] theorem incSync_attn (s : State) (ctr : Nat) : (incSync s ctr).attn = s.attn := rfl
@[simp] theorem incSync_merges (s : State) (ctr : Nat) : (incSync s ctr).merges = s.merges := rfl
@[simp] theorem incSync_fh (s : State) (ctr : Nat) : (incSync s ctr).fh = s.fh := rfl
@[simp] theorem incSync_rad (s : State) (ctr : Nat) : (incSync s ctr).rad = s.rad := rfl
@[simp] theorem incSync_fab (s : State) (ctr : Nat) : (incSync s ctr).fab = s.fab := rfl
@[simp] theorem incSync_tim (s : State) (ctr : Nat) : (incSync s ctr).tim = s.tim := rfl
@[simp] theorem incSync_hst (s : State) (ctr : Nat) : (incSync s ctr).hst = s.hst := rfl
@[simp] theorem incSync_slc (s : State) (ctr : Nat) : (incSync s ctr).slc = s.slc := rfl
@[simp] theorem incSync_fw (s : State) (ctr : Nat) : (incSync s ctr).fw = s.fw := rfl
@[simp] theorem incSync_ras (s : State) (ctr : Nat) : (incSync s ctr).ras = s.ras := rfl
@[simp] theorem incSync_sec (s : State) (ctr : Nat) : (incSync s ctr).sec = s.sec := rfl
@[simp] theorem incSync_evr (s : State) (ctr : Nat) : (incSync s ctr).evr = s.evr := rfl
@[simp] theorem incSync_start (s : State) (ctr : Nat) : (incSync s ctr).start = s.start := rfl

@[simp] theorem dropPacket_pending (s : State) : (dropPacket s).pending = s.pending := rfl
@[simp] theorem dropPacket_freeN (s : State) : (dropPacket s).freeN = s.freeN := rfl
@[simp] theorem dropPacket_pwr (s : State) : (dropPacket s).pwr = s.pwr := rfl
@[simp] theorem dropPacket_tkp (s : State) : (dropPacket s).tkp = s.tkp := rfl
@[simp] theorem dropPacket_tiles (s : State) : (dropPacket s).tiles = s.tiles := rfl
@[simp] theorem dropPacket_dies (s : State) : (dropPacket s).dies = s.dies := rfl
@[simp] theorem dropPacket_mem (s : State) : (dropPacket s).mem = s.mem := rfl
@[simp] theorem dropPacket_srv (s : State) : (dropPacket s).srv = s.srv := rfl
@[simp] theorem dropPacket_mov (s : State) : (dropPacket s).mov = s.mov := rfl
@[simp] theorem dropPacket_fla (s : State) : (dropPacket s).fla = s.fla := rfl
@[simp] theorem dropPacket_attn (s : State) : (dropPacket s).attn = s.attn := rfl
@[simp] theorem dropPacket_merges (s : State) : (dropPacket s).merges = s.merges := rfl
@[simp] theorem dropPacket_fh (s : State) : (dropPacket s).fh = s.fh := rfl
@[simp] theorem dropPacket_rad (s : State) : (dropPacket s).rad = s.rad := rfl
@[simp] theorem dropPacket_tim (s : State) : (dropPacket s).tim = s.tim := rfl
@[simp] theorem dropPacket_hst (s : State) : (dropPacket s).hst = s.hst := rfl
@[simp] theorem dropPacket_slc (s : State) : (dropPacket s).slc = s.slc := rfl
@[simp] theorem dropPacket_fw (s : State) : (dropPacket s).fw = s.fw := rfl
@[simp] theorem dropPacket_ras (s : State) : (dropPacket s).ras = s.ras := rfl
@[simp] theorem dropPacket_sec (s : State) : (dropPacket s).sec = s.sec := rfl
@[simp] theorem dropPacket_evr (s : State) : (dropPacket s).evr = s.evr := rfl
@[simp] theorem dropPacket_start (s : State) : (dropPacket s).start = s.start := rfl

@[simp] theorem countStale_pending (s : State) : (countStale s).pending = s.pending := rfl
@[simp] theorem countStale_freeN (s : State) : (countStale s).freeN = s.freeN := rfl
@[simp] theorem countStale_pwr (s : State) : (countStale s).pwr = s.pwr := rfl
@[simp] theorem countStale_tkp (s : State) : (countStale s).tkp = s.tkp := rfl
@[simp] theorem countStale_tiles (s : State) : (countStale s).tiles = s.tiles := rfl
@[simp] theorem countStale_dies (s : State) : (countStale s).dies = s.dies := rfl
@[simp] theorem countStale_mem (s : State) : (countStale s).mem = s.mem := rfl
@[simp] theorem countStale_srv (s : State) : (countStale s).srv = s.srv := rfl
@[simp] theorem countStale_mov (s : State) : (countStale s).mov = s.mov := rfl
@[simp] theorem countStale_fla (s : State) : (countStale s).fla = s.fla := rfl
@[simp] theorem countStale_attn (s : State) : (countStale s).attn = s.attn := rfl
@[simp] theorem countStale_merges (s : State) : (countStale s).merges = s.merges := rfl
@[simp] theorem countStale_fh (s : State) : (countStale s).fh = s.fh := rfl
@[simp] theorem countStale_rad (s : State) : (countStale s).rad = s.rad := rfl
@[simp] theorem countStale_tim (s : State) : (countStale s).tim = s.tim := rfl
@[simp] theorem countStale_hst (s : State) : (countStale s).hst = s.hst := rfl
@[simp] theorem countStale_slc (s : State) : (countStale s).slc = s.slc := rfl
@[simp] theorem countStale_fw (s : State) : (countStale s).fw = s.fw := rfl
@[simp] theorem countStale_ras (s : State) : (countStale s).ras = s.ras := rfl
@[simp] theorem countStale_sec (s : State) : (countStale s).sec = s.sec := rfl
@[simp] theorem countStale_evr (s : State) : (countStale s).evr = s.evr := rfl
@[simp] theorem countStale_start (s : State) : (countStale s).start = s.start := rfl

@[simp] theorem tickOn_pending (s : State) (e : Int) : (tickOn s e).pending = s.pending := rfl
@[simp] theorem tickOn_freeN (s : State) (e : Int) : (tickOn s e).freeN = s.freeN := rfl
@[simp] theorem tickOn_pwr (s : State) (e : Int) : (tickOn s e).pwr = s.pwr := rfl
@[simp] theorem tickOn_tiles (s : State) (e : Int) : (tickOn s e).tiles = s.tiles := rfl
@[simp] theorem tickOn_dies (s : State) (e : Int) : (tickOn s e).dies = s.dies := rfl
@[simp] theorem tickOn_mem (s : State) (e : Int) : (tickOn s e).mem = s.mem := rfl
@[simp] theorem tickOn_srv (s : State) (e : Int) : (tickOn s e).srv = s.srv := rfl
@[simp] theorem tickOn_mov (s : State) (e : Int) : (tickOn s e).mov = s.mov := rfl
@[simp] theorem tickOn_fla (s : State) (e : Int) : (tickOn s e).fla = s.fla := rfl
@[simp] theorem tickOn_attn (s : State) (e : Int) : (tickOn s e).attn = s.attn := rfl
@[simp] theorem tickOn_merges (s : State) (e : Int) : (tickOn s e).merges = s.merges := rfl
@[simp] theorem tickOn_fh (s : State) (e : Int) : (tickOn s e).fh = s.fh := rfl
@[simp] theorem tickOn_rad (s : State) (e : Int) : (tickOn s e).rad = s.rad := rfl
@[simp] theorem tickOn_fab (s : State) (e : Int) : (tickOn s e).fab = s.fab := rfl
@[simp] theorem tickOn_hst (s : State) (e : Int) : (tickOn s e).hst = s.hst := rfl
@[simp] theorem tickOn_slc (s : State) (e : Int) : (tickOn s e).slc = s.slc := rfl
@[simp] theorem tickOn_fw (s : State) (e : Int) : (tickOn s e).fw = s.fw := rfl
@[simp] theorem tickOn_ras (s : State) (e : Int) : (tickOn s e).ras = s.ras := rfl
@[simp] theorem tickOn_sec (s : State) (e : Int) : (tickOn s e).sec = s.sec := rfl
@[simp] theorem tickOn_evr (s : State) (e : Int) : (tickOn s e).evr = s.evr := rfl
@[simp] theorem tickOn_start (s : State) (e : Int) : (tickOn s e).start = s.start := rfl

/-! ### Read back -/

@[simp] theorem setTile_same (s : State) (t : Nat) (x : Tile) : tileAt (setTile s t x) t = x := by simp [tileAt, setTile, NMap.getD_insert]
theorem setTile_other (s : State) (t i : Nat) (x : Tile) (h : t ≠ i) : tileAt (setTile s t x) i = tileAt s i := by
  simp [tileAt, setTile, NMap.getD_insert, h]
@[simp] theorem setTx_same (s : State) (d : Nat) (x : TxStream) : txAt (setTx s d x) d = x := by simp [txAt, setTx, NMap.getD_insert]
theorem setTx_other (s : State) (d i : Nat) (x : TxStream) (h : d ≠ i) : txAt (setTx s d x) i = txAt s i := by
  simp [txAt, setTx, NMap.getD_insert, h]
@[simp] theorem setRx_same (s : State) (d : Nat) (x : RxStream) : rxAt (setRx s d x) d = x := by simp [rxAt, setRx, NMap.getD_insert]
theorem setRx_other (s : State) (d i : Nat) (x : RxStream) (h : d ≠ i) : rxAt (setRx s d x) i = rxAt s i := by
  simp [rxAt, setRx, NMap.getD_insert, h]
@[simp] theorem modCell_same (s : State) (c : Nat) (f : Cell → Cell) : cellAt (modCell s c f) c = f (cellAt s c) := by
  simp [cellAt, modCell, NMap.getD_insert]
theorem modCell_other (s : State) (c i : Nat) (f : Cell → Cell) (h : c ≠ i) : cellAt (modCell s c f) i = cellAt s i := by
  simp [cellAt, modCell, NMap.getD_insert, h]
@[simp] theorem modFh_same (s : State) (p : Nat) (f : FhPort → FhPort) : fhAt (modFh s p f) p = f (fhAt s p) := by
  simp [fhAt, modFh, NMap.getD_insert]
theorem modFh_other (s : State) (p i : Nat) (f : FhPort → FhPort) (h : p ≠ i) : fhAt (modFh s p f) i = fhAt s i := by
  simp [fhAt, modFh, NMap.getD_insert, h]
@[simp] theorem setReq_same (s : State) (i : Nat) (r : Req) : reqAt (setReq s i r) i = r := by simp [reqAt, setReq, NMap.getD_insert]
theorem setReq_other (s : State) (i j : Nat) (r : Req) (h : i ≠ j) : reqAt (setReq s i r) j = reqAt s j := by
  simp [reqAt, setReq, NMap.getD_insert, h]
@[simp] theorem setMbx_same (s : State) (p : Nat) (x : Page) : mbxAt (setMbx s p x) p = x := by simp [mbxAt, setMbx, NMap.getD_insert]
theorem setMbx_other (s : State) (p i : Nat) (x : Page) (h : p ≠ i) : mbxAt (setMbx s p x) i = mbxAt s i := by
  simp [mbxAt, setMbx, NMap.getD_insert, h]

end Sys2Proof.Machine
end

