-- ==== Sys2Proof/Laws/Tiles.lean ====
section
/-!
SUPPORT. What the operations of a tile do, said once: a slot operation that issues, a write in flight, and the landing of the
writes that are visible (04 R65, 07 R147, R160).
-/
namespace Sys2Proof.Machine

/-! ### Issue -/

/-- A slot operation that issues and breaks no rule leaves the tile as its effect says. -/
theorem slotOp_done (s : State) (t c : Nat) (f : Tile → SlotRes) (y : Tile) (h : Issues s t c)
    (e : f (found s t c) = .done y) : slotOp s t c f = afterOp s t c y := by
  obtain ⟨h1, h2, h3⟩ := h
  obtain ⟨r, hr⟩ := Option.isSome_iff_exists.mp h1
  unfold found at e h3
  rw [slotOp, ← reached]
  simp only [slotIssue, hr, h2, h3, Option.isSome_none, Bool.false_eq_true, if_false, e, afterOp]

/-- A slot operation that breaks an issue rule has the consequence of R61 and R72. -/
theorem slotOp_broke (s : State) (t c : Nat) (f : Tile → SlotRes) (r : Running) (h : Issues s t c)
    (hr : (tileAt (reached s t c) t).run = some r) (e : f (found s t c) = .broke) : slotOp s t c f = ruleBreak (reached s t c) t r c := by
  obtain ⟨_, hw, hm⟩ := h
  unfold found at e hm
  rw [slotOp, ← reached]
  simp only [slotIssue, hr, hw, hm, Option.isSome_none, Bool.false_eq_true, if_false, e]

/-- After a mismatch nothing issues: the tile faults (05 R119). -/
theorem slotOp_struck (s : State) (t c : Nat) (f : Tile → SlotRes) (m : Nat × Nat × Nat × Nat × Nat)
    (h1 : (tileAt (reached s t c) t).run.isSome = true) (h2 : (tileAt (reached s t c) t).wait = none)
    (h3 : (found s t c).struck c = some m) : slotOp s t c f = residueFault (reached s t c) t m := by
  obtain ⟨r, hr⟩ := Option.isSome_iff_exists.mp h1
  unfold found at h3
  rw [slotOp, ← reached]
  simp only [slotIssue, hr, h2, h3, Option.isSome_none, Bool.false_eq_true, if_false]

/-- On a tile with no kernel nothing issues. -/
theorem slotOp_noRun (s : State) (t c : Nat) (f : Tile → SlotRes) (h : (tileAt (reached s t c) t).run = none) :
    slotOp s t c f = reached s t c := by
  rw [slotOp, ← reached]
  simp only [slotIssue, h]

/-- While a WAITD holds issue nothing issues. -/
theorem slotOp_waits (s : State) (t c : Nat) (f : Tile → SlotRes) (h : (tileAt (reached s t c) t).wait.isSome = true) :
    slotOp s t c f = reached s t c := by
  rw [slotOp, ← reached]
  unfold slotIssue
  cases hr : (tileAt (reached s t c) t).run with
  | none => simp only [hr]
  | some r => simp only [hr, h, if_true]

/-! ### Writes in flight -/

theorem mem_addPend (l : List (Nat × TWrite)) (w p : Nat × TWrite) (h : p ∈ addPend l w) : p = w ∨ p ∈ l := by
  induction l with
  | nil => exact .inl (by simpa [addPend] using h)
  | cons a l ih =>
    simp only [addPend] at h
    split at h
    · rcases List.mem_cons.mp h with h | h
      · simp [h]
      · rcases ih h with h | h <;> simp [h]
    · simpa using h

/-- A write of a register that no write in flight names breaks no rule. -/
theorem push_quiet (x : Tile) (vis f n : Nat) (w : TWrite) (hw : w.reg = some (f, n)) (h : x.Quiet f n) :
    x.push vis w = .done (x.flies vis w) := by
  unfold Tile.push clash Tile.flies
  simp only [hw]
  rw [if_neg]
  simp only [List.any_eq_true, Bool.and_eq_true, not_exists, not_and]
  intro p hp _ h2
  cases hr : p.2.reg with
  | none => simp [hr] at h2
  | some q => simp [hr, h p hp q hr] at h2

/-- A write of memory or of a mask register breaks no rule. -/
theorem push_mem (x : Tile) (vis : Nat) (w : TWrite) (hw : w.reg = none) : x.push vis w = .done (x.flies vis w) := by
  unfold Tile.push clash Tile.flies
  simp only [hw, Bool.false_eq_true, if_false]

/-- Two writes of one register that become visible in one cycle break the one-writer rule. -/
theorem push_clash (x : Tile) (vis f n : Nat) (w v : TWrite) (hw : w.reg = some (f, n)) (hv : v.reg = some (f, n))
    (h : (vis, v) ∈ x.pend) : x.push vis w = .broke := by
  unfold Tile.push clash
  simp only [hw]
  rw [if_pos]
  exact List.any_eq_true.mpr ⟨(vis, v), h, by simp [hv, regsMeet]⟩

theorem quiet_flies (x : Tile) (vis f n : Nat) (w : TWrite) (hw : ∀ r, w.reg = some r → regsMeet (f, n) r = false) (h : x.Quiet f n) :
    (x.flies vis w).Quiet f n := by
  intro p hp
  rcases mem_addPend _ _ _ hp with rfl | hp
  · exact hw
  · exact h p hp

/-- The post-modification of an address register that no write in flight names. -/
theorem postMod_done (c : Nat) (o : LsOp) (v : Option (BitVec 24)) (x : Tile) (h : x.Quiet 2 o.an) :
    postMod c o v x = .done (x.modified c o v) := by
  unfold postMod Tile.modified
  cases v with
  | none => rfl
  | some a => exact push_quiet _ _ _ _ _ rfl h

/-! ### Landing -/

/-- What of a tile no landing write changes: the kernel, its wait, its place in its image, its tags and the tile's state. -/
def sameIssue (x y : Tile) : Prop :=
  (y.run, y.wait, y.pc, y.loops, y.rep, y.cyc, y.tags, y.state) = (x.run, x.wait, x.pc, x.loops, x.rep, x.cyc, x.tags, x.state)

theorem applyWrite_frame (v : Nat) (x : Tile) (w : TWrite) : sameIssue x (applyWrite v x w) := by
  cases w <;> simp only [applyWrite, Tile.stored, Tile.checkRow, Tile.setArr, sameIssue] <;> repeat' first | rfl | split

theorem landGo_frame (l : List (Nat × TWrite)) (c : Nat) (x : Tile) : sameIssue x (landGo l c x) := by
  induction l generalizing x with
  | nil => rfl
  | cons p ps ih =>
    unfold landGo
    split
    · exact (ih _).trans (applyWrite_frame p.1 x p.2)
    · rfl

theorem land_frame (x : Tile) (c : Nat) : sameIssue x (x.land c) := landGo_frame x.pend c x

/-- Landing changes neither the kernel, nor its wait, nor its tags. -/
@[simp] theorem land_run (x : Tile) (c : Nat) : (x.land c).run = x.run := congrArg (·.1) (land_frame x c)
@[simp] theorem land_wait (x : Tile) (c : Nat) : (x.land c).wait = x.wait := congrArg (·.2.1) (land_frame x c)
@[simp] theorem land_pc (x : Tile) (c : Nat) : (x.land c).pc = x.pc := congrArg (·.2.2.1) (land_frame x c)
@[simp] theorem land_tags (x : Tile) (c : Nat) : (x.land c).tags = x.tags := congrArg (·.2.2.2.2.2.2.1) (land_frame x c)
@[simp] theorem found_run (s : State) (t c : Nat) : (found s t c).run = (tileAt (reached s t c) t).run := land_run _ _
@[simp] theorem found_wait (s : State) (t c : Nat) : (found s t c).wait = (tileAt (reached s t c) t).wait := land_wait _ _

end Sys2Proof.Machine
end

