-- ==== Sys2Proof/Tests/Slice0.lean ====
section
/-!
SUPPORT. Tests: an ill-formed command for each check of well-formedness, slot words written out bit by bit from the spec, small
steps with results taken from the spec, and for each statement with hypotheses a concrete state and operands that meet them.
-/
namespace Sys2Proof.Tests
open Sys2Proof Sys2Proof.Machine
set_option Elab.async false

/-! ### Well-formedness: a term for each check, which the check refuses -/

/-- The fields of an array slot with every field 0 and every row present. -/
def arr0 : ArrOp := { arr := 0, fmt := 0, sa := 0, aoff := 0, sb := 0, boff := 0, acc := 0, clr := false, ld := false, msk := 31 }
/-- The fields of an X slot with every field 0. -/
def ls0 : LsOp := { slotY := false, r := 0, an := 0, pm := 0, cvt := 0, off := 0 }
/-- The fields of a DMA/skew slot with every field 0. -/
def dma0 : DmaOp := { tag := 0, src := 0, dst := 0, prm := 0, imm := 0 }

theorem test_wellFormed_refuses : ∀ i ∈ ([
    .kernelEnd 160 [], .fadd 0 0 32 0 (.reg 0), .fadd 0 0 0 32 (.reg 0), .fadd 0 0 0 0 (.reg 32), .fadd 0 0 0 0 (.sreg 32),
    .fma 0 0 0 0 (.reg 0) 32, .vld 0 0 { ls0 with r := 32 }, .vld 0 0 { ls0 with an := 16 }, .vld 0 0 { ls0 with pm := 3 },
    .vld 0 0 { ls0 with cvt := 6 }, .sld 0 0 { ls0 with cvt := 1 }, .ldpk 0 0 { ls0 with off := 0x800 }, .ldpk 0 0 { ls0 with pm := 2 },
    .bexp 0 0 0 0 0x1000, .bexp 0 0 0 0 0x0840, .gred 0 0 0 0 0x0180, .wld 0 0 { arr0 with msk := 0, arr := 2 },
    .mma 0 0 { arr0 with acc := 4 } none, .mma 0 0 { arr0 with msk := 16 } none, .mma 0 0 { arr0 with sa := 32 } none,
    .mma 0 0 { arr0 with fmt := 15 } none, .wld 0 0 { arr0 with msk := 0, ld := true }, .rout 0 0 { arr0 with sb := 1 },
    .rout 0 0 { arr0 with fmt := 6 }, .lout 0 0 { arr0 with msk := 0, clr := true }, .lin 0 0 ⟨{ arr0 with msk := 1 }, none⟩,
    .ld 0 0 { dma0 with tag := 16 }, .ld 0 0 { dma0 with imm := 1 }, .skewa 0 0 { dma0 with imm := 0x40 }, .skewa 0 0 { dma0 with imm := 0xC0 },
    .skewb 0 0 { dma0 with imm := 0x10 }, .mova 0 0 16 0, .movb 0 0 8 0, .movsa 0 0 0 16, .vsumL 0 0 4 0, .br 0 0 8192, .loop 0 0 65536,
    .waitd 0 0 16 0, .waitd 0 0 0 32768, .loop 0 0 0, .repeatN 0 0 0, .repeatN 0 0 65536, .syncp 0 0 64, .slotNop 0 0 7, .currentWarning 4 0, .linkWireFailing 0 3 0 0, .codeBlockStart 2 0, .codeBlockStart 0 28,
    .dmaBurstComplete 16, .channelLost 32, .stepCompose 64 0 ⟨[], []⟩, .reclaim 256 0, .moveRetry 16384, .fhLinkUp 8, .cellActivate 192,
    .symbolClose 0 0 14, .ackTimer 256, .submissionDoorbell 520 0, .commandAccept 512, .noticeDeliver 65, .ctxActivate 1024,
    .resetRequest 5 0, .stressRun 0, .cpStop 8 0, .retransmitTimeout 0 (2 ^ 33)] : List Instr), i.wellFormed = false := by decide

/-! ### Slot words, written out from 04 R66, 05 R97, R106, 07 R145, R153 -/

-- OP 0x01 MMA, FMT 0x9, SA 3, AOFF 1, SB 4, BOFF 2, ACC 2, CLR 1, LD 1, MK 0x1F
theorem test_word_mma : arrDec 5 7 1 0b00001_1001_00011_00001_00100_00010_10_1_1_11111_00 = .op (.mma 5 7
    { arr := 1, fmt := 9, sa := 3, aoff := 1, sb := 4, boff := 2, acc := 2, clr := true, ld := true, msk := 31 } none) := by decide
-- OP 0x03 ROUT, FMT 0x1 (BF16), SA 5, AOFF 31, ACC 3, MK 0x0F; the other fields are reserved
theorem test_word_rout : arrDec 5 7 0 0b00011_0001_00101_11111_00000_00000_11_0_0_01111_00 = .op (.rout 5 7
    { arr := 0, fmt := 1, sa := 5, aoff := 31, sb := 0, boff := 0, acc := 3, clr := false, ld := false, msk := 15 }) := by decide
-- OP 0x04 FMA, D 1, A 2, B 3, C 4, BSEL 0b00
theorem test_word_fma : vecDec 5 7 0b0000100_00001_00010_00011_00100_00_0000000000000000_00000000000 = .op (.fma 5 7 1 2 (.reg 3) 4) := by decide
-- OP 0x40 SADD, D 31, A 30, BSEL 0b10, IMM 0x8001
theorem test_word_sadd : vecDec 5 7 0b1000000_11111_11110_00000_00000_10_1000000000000001_00000000000 = .op (.sadd 5 7 31 30 (.imm 0x8001)) := by decide
-- OP 0x06 VLDT, R 9, AN 15, PM 0b10, CVT 1, OFF 0x1FFF
theorem test_word_vldt : lsDec 5 7 true 0b00110_01001_1111_10_001_1111111111111 = .op (.vldt 5 7
    { slotY := true, r := 9, an := 15, pm := 2, cvt := 1, off := 0x1FFF }) := by decide
-- OP 0x03 SKEWA, TAG 11, SRC 1, DST 2, PRM 3, FMT 0x9, MASK 1, SRCK 2
theorem test_word_skewa : dmaDec 5 7 0b00011_1011_00001_00010_00011_10_01_1001 = .op (.skewa 5 7
    { tag := 11, src := 1, dst := 2, prm := 3, imm := 0x99 }) := by decide
-- OP 0x03 BRNZ, Sn 17, target 0x1ABC; OP 0x07 WAITD, tag 5, maximum wait 100 units
theorem test_word_sequencing : seqDec 0b00011_0_10001_1101010111100 = .brnz 17 0x1ABC ∧ seqDec 0b00111_000000001100100_0101 = .waitd 5 100 ∧
    seqDec 0b01001_0000000000000000000 = .endK := by decide
-- A reserved opcode, and a reserved field that is not 0
theorem test_word_reserved : arrDec 5 7 0 0b00110_0000_00000_00000_00000_00000_00_0_0_11111_00 = .bad ∧
    vecDec 5 7 0b0000100_00001_00010_00011_00100_11_0000000000000000_00000000000 = .bad ∧
    dmaDec 5 7 0b00001_0000_00000_00000_00000_00000001 = .bad := by decide

/-! ### A kernel on the last tile -/

/-- A dynamic kernel of slice 2, context 5, started at beat 1 of tick 0 with a declared length of 100 beats. -/
def runK : Running := { kernel := 9, imageId := 4, tick := 0, beat := 1, length := 100, slice := 2, context := 5, verified := false
                        isStatic := false, onFloor := false, job := none, ended := false }
/-- The state after reset with that kernel on tile 159, whose registers are given. -/
def runS (x : Tile) : State := setTile State.reset 159 { x with run := some runK }
/-- The tile with nothing in its registers. -/
def wRun : State := runS {}
/-- Tile 159 after a command, as cycle `k` finds it. -/
def tileAfter (i : Instr) (s : State) (k : Nat) : Tile :=
  match exec i s with
  | .next t => (tileAt t 159).land k
  | _ => {}
/-- A tile with one value in every lane of V1, V2, V3 and with S1, S2. -/
def regsT (a b c : W32) (p q : W64) : Tile :=
  { v := [(1, List.replicate 64 a), (2, List.replicate 64 b), (3, List.replicate 64 c)], s := [(1, p), (2, q)] }
/-- Lane 63 of V0 after a command, as cycle `k` finds it. -/
def lane (i : Instr) (x : Tile) (k : Nat) : W32 := ((tileAfter i (runS x) k).getV 0).getD 63 0xDEAD
/-- S0 after a command, as cycle `k` finds it. -/
def scal (i : Instr) (x : Tile) (k : Nat) : W64 := (tileAfter i (runS x) k).getS 0

theorem witness_FpLaneOps : Issues wRun 159 0 ∧ (found wRun 159 0).Quiet 0 31 := by
  simp only [Issues, Tile.Quiet]; decide +kernel
theorem witness_UnaryLaneOps : Issues wRun 159 1 ∧ (found wRun 159 1).Quiet 0 0 := by
  simp only [Issues, Tile.Quiet]; decide +kernel
theorem witness_IntLaneOps : Issues wRun 159 2 ∧ (found wRun 159 2).Quiet 0 31 := by
  simp only [Issues, Tile.Quiet]; decide +kernel
theorem witness_GroupLaneOps : Issues wRun 159 3 ∧ (found wRun 159 3).Quiet 0 7 ∧ (found wRun 159 3).Quiet 1 7 := by
  simp only [Issues, Tile.Quiet]; decide +kernel
theorem witness_ScalarOps : Issues wRun 159 4 ∧ (found wRun 159 4).Quiet 1 31 := by
  simp only [Issues, Tile.Quiet]; decide +kernel
theorem witness_AddressRegisterOps : let x := found wRun 159 5
    Issues wRun 159 5 ∧ x.Quiet 2 15 ∧ x.Quiet 3 7 ∧ x.Quiet 4 7 ∧ x.Quiet 1 31 := by
  simp only [Issues, Tile.Quiet]; decide +kernel
theorem witness_LongAccumulatorOps : let x := found wRun 159 6
    Issues wRun 159 6 ∧ x.laAddOk 3 6 = true ∧ x.laSetOk 3 6 = true ∧ x.laReadOk 3 6 = true ∧ x.Quiet 0 31 ∧ x.Quiet 2 15 := by
  simp only [Issues, Tile.Quiet]; decide +kernel
theorem witness_LoadOps : let x := found wRun 159 7
    Issues wRun 159 7 ∧ x.Quiet 0 31 ∧ x.Quiet 1 31 ∧ x.Quiet 2 15 ∧ x.portFree true 7 = true := by
  simp only [Issues, Tile.Quiet]; decide +kernel
theorem witness_StoreOps : let x := found wRun 159 8
    Issues wRun 159 8 ∧ x.Quiet 2 15 ∧ x.portFree false 8 = true := by
  simp only [Issues, Tile.Quiet]; decide +kernel

/-- Tile 159 with an accumulator block in use and a weight set filled with E4M3 elements. -/
def arrT : Tile := { ar1 := { used := [3], set0 := { filled := true, fmt := 2 } } }
/-- An operation on array 1 and block 3. -/
def arrO : ArrOp := { arr := 1, fmt := 2, sa := 31, aoff := 31, sb := 31, boff := 31, acc := 3, clr := false, ld := true, msk := 31 }
theorem witness_ArrayOps : Issues (runS arrT) 159 9 ∧ (let x := found (runS arrT) 159 9
    let u := x.getArr arrO.arr
    let w := u.getSet u.active
    u.spaced 9 = true ∧ (arrO.clr || u.used.contains arrO.acc) = true ∧ w.filled = true ∧ fmtClass w.fmt = fmtClass arrO.fmt ∧
    u.used.contains arrO.acc = true ∧ u.settled arrO.acc 9 = true ∧ u.portClear 13 76 = true ∧ u.portClear 10 398 = true ∧ u.portClear 10 401 = true) := by
  simp only [Issues]; decide +kernel
theorem witness_ArrayOps_struck : let s := runS { miss := some (8, 1, 63, 62, 7) }
    (tileAt s 159).run.isSome = true ∧ (tileAt s 159).wait = none ∧ (found s 159 9).struck 9 = some (8, 1, 63, 62, 7) := by decide +kernel
theorem witness_SkewOps : Issues wRun 159 10 ∧ (found wRun 159 10).tagFree 15 = true := by
  simp only [Issues]; decide +kernel

/-- Reset with 1 GiB of usable memory. -/
def memS : State := { State.reset with hst := { State.reset.hst with usableGib := 1 } }
/-- A DMA tile: S1 a device address of the last 64 bytes, S2 a tile-store address, S3 a length of 64, and tags that run. -/
def dmaT : Tile := { s := [(1, 0x3FFFFFC0), (2, 0x1FFFC0), (3, 64)], tags := [(4, ⟨1, none, false, 0x3FFFFFC0, 0x1FFFC0, 64⟩),
                     (5, ⟨2, none, false, 0x3FFFFFC0, 0x1FFFC0, 64⟩), (6, ⟨3, some 40, false, 0, 0, 4096⟩)] }
/-- The state with that tile. -/
def dmaS : State := setTile memS 159 { dmaT with run := some runK }
theorem witness_DmaSlotOps : let x := found dmaS 159 40
    x.run = some runK ∧ x.struck 40 = none ∧ x.wait = none ∧ x.tagFree 15 = true ∧ dmaS.hst.orphan = false ∧
    tileRangeOk dmaS (x.ldArgs { dma0 with tag := 15, src := 1, dst := 2, prm := 3 } true).1 64 = true ∧
    tileRangeOk dmaS (x.ldArgs { dma0 with tag := 15, src := 2, dst := 1, prm := 3 } false).1 64 = true ∧
    (∃ g, NMap.find? x.tags 4 = some g ∧ g.done = false ∧ g.op = 1 ∧ badRange dmaS g.src g.len = false) ∧
    (∃ g, NMap.find? x.tags 5 = some g ∧ g.done = false ∧ g.op = 2 ∧ (devWrite dmaS g.src (bytesAt x.stByte g.dst g.len)).2 = true) ∧
    (∃ g, NMap.find? x.tags 6 = some g ∧ g.done = false ∧ 3 ≤ g.op ∧ g.doneAt = some 40) := by
  refine ⟨?_, ?_, ?_, ?_, ?_, ?_, ?_, ⟨_, rfl, ?_⟩, ⟨_, rfl, ?_⟩, _, rfl, ?_⟩ <;> decide +kernel
theorem witness_SequencerOps : Issues (runS { loops := [(1, 2)], tags := [(3, ⟨1, none, false, 0, 0, 64⟩)] }) 159 11 ∧
    (tileAt (runS { loops := [(1, 2)], tags := [(3, ⟨1, none, false, 0, 0, 64⟩)] }) 159).run = some runK ∧
    (found (runS { loops := [(1, 2)], tags := [(3, ⟨1, none, false, 0, 0, 64⟩)] }) 159 11).loops = [(1, 2)] ∧
    NMap.find? (found (runS { loops := [(1, 2)], tags := [(3, ⟨1, none, false, 0, 0, 64⟩)] }) 159 11).tags 3 = some ⟨1, none, false, 0, 0, 64⟩ := by
  simp only [Issues]; decide +kernel
theorem witness_ResultVisible : pendSorted (found wRun 159 0).pend ∧ (found wRun 159 0).Quiet 0 31 ∧ (found wRun 159 0).Quiet 1 31 ∧
    (found wRun 159 0).Quiet 2 15 := by
  have h : (found wRun 159 0).pend = [] := by decide +kernel
  simp [Tile.Quiet, pendSorted, h]

/-! ### Results of slot operations -/

-- 07 R148: FADD has latency 4: 1.0 + 2.0 = 3.0 is seen from c + 4 on, and not at c + 3.
theorem test_fadd : lane (.fadd 159 10 0 1 (.reg 2)) (regsT 0x3F800000 0x40000000 0 0 0) 14 = 0x40400000 ∧
    lane (.fadd 159 10 0 1 (.reg 2)) (regsT 0x3F800000 0x40000000 0 0 0) 13 = 0 := by decide +kernel
-- 07 R143: subnormals are supported, and 2^-126 − 2^-149 is the greatest of them.
theorem test_fsub_subnormal : lane (.fsub 159 0 0 1 (.reg 2)) (regsT 0x00800000 0x00000001 0 0 0) 4 = 0x007FFFFF := by decide +kernel
-- FMA rounds once: (1 + 2^-23)^2 − 1 = 2^-22 + 2^-46, which is 0x34800001 (ulp 2^-45, tie to even gives 0x34800000).
theorem test_fma_once : lane (.fma 159 0 0 1 (.reg 1) 3) (regsT 0x3F800001 0 0xBF800000 0 0) 4 = 0x34800000 := by decide +kernel
-- FNMA: c − a × b = 10 − 2 × 3 = 4.
theorem test_fnma : lane (.fnma 159 0 0 1 (.reg 2) 3) (regsT 0x40000000 0x40400000 0x41200000 0 0) 4 = 0x40800000 := by decide +kernel
-- FCVTI rounds 2.5 to 2 and saturates; a NaN gives 0.
theorem test_fcvti : lane (.fcvti 159 0 0 1) (regsT 0x40200000 0 0 0 0) 2 = 2 ∧ lane (.fcvti 159 0 0 1) (regsT 0x4F800000 0 0 0 0) 2 = 0x7FFFFFFF ∧
    lane (.fcvti 159 0 0 1) (regsT 0x7FC00000 0 0 0 0) 2 = 0 := by decide +kernel
-- IADD wraps; ISUB is a − b.
theorem test_iadd : lane (.iadd 159 0 0 1 (.reg 2)) (regsT 0xFFFFFFFF 3 0 0 0) 1 = 2 ∧
    lane (.isub 159 0 0 1 (.reg 2)) (regsT 1 3 0 0 0) 1 = 0xFFFFFFFE := by decide +kernel
-- A shift count of 32 or more gives 0, or copies of the sign for SRA.
theorem test_shifts : lane (.shl 159 0 0 1 (.reg 2)) (regsT 1 32 0 0 0) 1 = 0 ∧ lane (.sra 159 0 0 1 (.reg 2)) (regsT 0x80000000 33 0 0 0) 1 = 0xFFFFFFFF ∧
    lane (.shr 159 0 0 1 (.reg 2)) (regsT 0x80000000 31 0 0 0) 1 = 1 := by decide +kernel
-- SEL: a if c ≠ 0, otherwise b.
theorem test_sel : lane (.sel 159 0 0 1 (.reg 2) 3) (regsT 5 6 1 0 0) 1 = 5 ∧ lane (.sel 159 0 0 1 (.reg 2) 3) (regsT 5 6 0 0 0) 1 = 6 := by decide +kernel
-- VIOTA: lane i receives i + b.
theorem test_viota : lane (.viota 159 0 0 (.reg 1)) (regsT 100 0 0 0 0) 1 = 163 := by decide +kernel
-- SSHI: (Sd shifted left by 16) OR IMM; SMAX is signed.
theorem test_sshi : (tileAfter (.sshi 159 0 1 0xBEEF) (runS (regsT 0 0 0 0xDEAD 0)) 1).getS 1 = 0xDEADBEEF := by decide +kernel
theorem test_smax : scal (.smax 159 0 0 1 (.sreg 2)) (regsT 0 0 0 0xFFFFFFFFFFFFFFFF 1) 1 = 1 := by decide +kernel
-- 07 R153: AADD wraps within a circular buffer of 8 bytes at 0x100: 0x106 + 4 is 0x102.
theorem test_aadd_circular : (tileAfter (.aadd 159 0 0 4) (runS { a := [(0, 0x106)], b := [(0, 0x100)], l := [(0, 8)] }) 1).getA 0 = 0x102 := by decide +kernel
-- VST with post-increment: the last lane is stored at A + 252, and A advances by 256.
theorem test_vst : (tileAfter (.vst 159 0 { ls0 with r := 1, an := 1, pm := 1 }) (runS (regsT 0x04030201 0 0 0 0)) 2).getA 1 = 256 ∧
    ((tileAfter (.vst 159 0 { ls0 with r := 1, an := 1, pm := 1 }) (runS (regsT 0x04030201 0 0 0 0)) 2).xyByte false 253) = 2 := by decide +kernel
-- 04 R66: a taken branch costs 3 cycles; ENDL with one run left leaves the loop.
theorem test_br : (tileAfter (.br 159 20 0x1FFF) wRun 20).pc = 0x1FFF ∧ (tileAfter (.br 159 20 0x1FFF) wRun 20).cyc = 22 := by decide +kernel
theorem test_endl : (tileAfter (.endl 159 0) (runS { pc := 7, loops := [(2, 1)] }) 0).pc = 8 ∧
    (tileAfter (.endl 159 0) (runS { pc := 7, loops := [(2, 2)] }) 0).pc = 2 := by decide +kernel
-- 05 R98: MMA with CLR and an all-zero A and B gives zero, and the array is free again at c + 64.
theorem test_mma_occupies : ((tileAfter (.mma 159 10 arrO none) (runS arrT) 10).getArr 1).freeAt = 74 := by decide +kernel

/-! ### Power, start, ticks -/

/-- A device in service: power good, READY, every control processor running, 1 GiB of memory all interleaved, with inline ECC, at beat 0 of tick 1,000. -/
def wOn : State :=
  { State.reset with
    pwr := { State.reset.pwr with pwrGood := true, pwrEn := true, bulkMv := 48000, telBase := 0x10000 }
    tkp := { State.reset.tkp with now := 1000 }
    hst := { State.reset.hst with ready := true, usableGib := 1, interGib := 1, ecc := true, linkUp := true }
    fw := { State.reset.fw with cpState := (List.range 8).map fun i => (i, 1) }
    start := { State.reset.start with readyOnce := true, step := 12 } }
/-- The device at a beat of a tick. -/
def wAt (n b : Nat) : State := { wOn with tkp := { wOn.tkp with now := n, beat := b } }

/-- The device while its input is interrupted since time 5 ms. -/
def wFell (raw : Nat) : State :=
  { wOn with pwr := { wOn.pwr with interrupted := true, inLow := true, fellAt := some 5000000 }, tim := { wOn.tim with raw := raw } }
theorem witness_SupplyEvents :
    (State.reset.pwr.pwrGood = false ∧ State.reset.pwr.thermtrip = false ∧ 43000 ≤ 43000 ∧ 6 < 7 ∧ 7 ≤ 7) ∧
    (wOn.pwr.pwrGood = true ∧ 41999 < 42000 ∧ wOn.pwr.inLow = false ∧ (wFell 0).pwr.inLow = true) ∧ ((wFell 0).pwr.pwrGood = true ∧ (wFell 0).pwr.inLow = true ∧ 42000 < 42001) ∧
    ((wFell 7000000).pwr.pwrGood = true ∧ (wFell 7000000).pwr.interrupted = true ∧ (wFell 7000000).pwr.fellAt = some 5000000 ∧
      (5000000 + 2000000 ≤ (wFell 7000000).tim.raw ∨ (wFell 7000000).pwr.bulkMv ≤ 30000)) ∧
    ((wFell 6999999).tim.raw < 5000000 + 2000000 ∧ 30000 < (wFell 6999999).pwr.bulkMv) ∧
    (let s : State := { wOn with pwr := { wOn.pwr with stageOne := true } }; s.pwr.pwrGood = true ∧ s.pwr.stageOne = true ∧ 59000 < 59001) ∧
    (let s : State := { wOn with pwr := { wOn.pwr with stageOne := false } }
     s.pwr.pwrGood = true ∧ s.pwr.stageOne = false ∧ 56999 < 57000) := by decide +kernel
theorem witness_PowerControl :
    (3 < 4 ∧ 430 ≤ 430 ∧ wOn.pwr.pwrGood = true ∧ NMap.find? wOn.pwr.holdDie 3 = none) ∧
    (wOn.pwr.pwrGood = true ∧ wOn.pwr.thermAt ≠ wOn.tkp.now + 1 ∧ ∀ t ∈ ([879, 0, 0, 0] : List Int) ++ [879, 0], t < 880) ∧
    (∃ t ∈ ([0, 0, 0, 0] : List Int) ++ [0, 880], 880 ≤ t) ∧
    (1234 ≤ (wAt 1000 1234).tkp.beat ∨ (wAt 1000 1234).pwr.govAt = (wAt 1000 1234).tkp.now + 1) ∧
    ((wAt 1000 1233).tkp.beat < 1234 ∧ (wAt 1000 1233).pwr.govAt ≠ (wAt 1000 1233).tkp.now + 1 ∧ cpState (wAt 1000 1233) 7 = 1) ∧
    (let s : State := { wOn with fw := { wOn.fw with cpState := [(7, 2)] } }
     s.tkp.beat < 1234 ∧ s.pwr.govAt ≠ s.tkp.now + 1 ∧ cpState s 7 = 2) ∧ wOn.pwr.telBase ≠ 0 ∧ wOn.pwr.telAt ≠ wOn.tkp.now + 1 := by decide +kernel
-- 02 R21: a shorter interruption ends in a shutdown only once the bulk is at 30 V.
theorem test_bulk : ([30001, 30000].map fun v => let s := wFell 5100000
    match exec .brownoutShutdown { s with pwr := { s.pwr with bulkMv := v } } with | .next t => t.pwr.pwrGood | _ => true) = [true, false] := by decide +kernel
-- 02 R35, R36: a junction at 95 °C is below THERMTRIP_N at 110 °C; one at 110 °C powers the device down.
theorem test_thermtrip : (match exec (.thermalSample [0, 0, 0, 880] [0, 0]) wOn with | .next t => (t.pwr.pwrGood, t.pwr.thermtrip) | _ => (true, false)) =
    (false, true) := by decide +kernel
-- 02 R22: an input below 42 V latches attention class 4 and raises BROWNOUT.
theorem test_brownout : (match exec (.brownout ⟨41999, 48000⟩) wOn with
    | .next t => (t.pwr.brownoutSt, t.pwr.holdIn, (NMap.find? t.hst.pending 4).isSome) | _ => (false, false, false)) = (true, true, true) := by decide +kernel

/-- The device after step 1 of the start, and with its SP waiting for a bundle. -/
def wStart : State := { State.reset with pwr := { State.reset.pwr with pwrGood := true }, start := { State.reset.start with step := 1 } }
/-- A bundle of which nothing is right. -/
def bundle0 : Bundle :=
  { headerOk := false, formatOk := false, svn := 0, cmdsetRev := 0, header := [], rootKey := [], signerCert := [], signerKey := [], signerSig := []
    ownerCert := [], ownerSigR := [], ownerOk := false, ownerFlags := 0, minSvn := 0, scope := [], ownerKey := [], devices := [], manifest := []
    vsig := [], osig := [], parts := [], cpImages := [], spImage := [], kernelSets := [], cardProfile := [], domainProfile := [], repairMap := []
    vendorTiles := [], vendorRows := [], build := 0, eccOn := false, orphanHold := 600, traceMask := 0, stressH := 24, deviceNum := 0
    senderTrusted := false, ports := [], paths := [], exports := [], imports := [], components := [], images := [], attnSet := [] }
/-- The device that waits for a bundle. -/
def wWait : State := { wStart with sec := { wStart.sec with state := 1 } }
theorem witness_StartCommands :
    (wStart.pwr.pwrGood = true ∧ wStart.start.step = 1 ∧ wStart.ras.state = 0) ∧
    (wWait.sec.state = 1 ∧ bundleFail wWait bundle0 = some 1) ∧
    (wStart.pwr.pwrGood = true ∧ (8 = 16 ∨ 8 = 8) ∧ (32 = 32 ∨ 32 = 16 ∨ 32 = 8)) := by
  refine ⟨by decide +kernel, ⟨by decide +kernel, ?_⟩, by decide +kernel⟩
  rfl
-- A bundle that the open verification of signatures takes has an identity, so the clause of acceptance has its state.
theorem witness_StartCommands_accepts (b : Bundle) (h : bundleFail wWait b = none) :
    wWait.sec.state = 1 ∧ bundleFail wWait b = none ∧ ∃ id, identityOf wWait b = some id := by
  refine ⟨rfl, h, ?_⟩
  cases q : identityOf wWait b with
  | some id => exact ⟨id, rfl⟩
  | none =>
    simp [bundleFail, bundleChecks, q, firstFail] at h
    split_ifs at h

/-- A tick plan of tick 1,001 with an empty floor, and sealed. -/
def plan0 : Plan :=
  { tick := 1001, state := .building, clock := 0, floorMask := 0, overcastPtr := 0, words := 0, stream := [], floorPred := 0, sharePtr := 0, shares := []
    cellPtr := 0, cells := [], jobs := [], timed := [], owners := [], lengths := [], workTiles := [], work := [], expect := [], sealW := 0 }
/-- That plan with its SEAL. -/
def planS : Plan := { plan0 with sealW := crc64 (planHead { plan0 with state := .sealed }) }
/-- The plan of the next tick as it stands in the ring. -/
def planR : Plan := { planS with state := .sealed }
/-- A plan with a share that no planner gave, with its SEAL. -/
def planB : Plan := let p := { plan0 with shares := [(2, 5)] }; { p with sealW := crc64 (planHead { p with state := .sealed }) }
/-- A plan whose clock mode does not exist. -/
def planC : Plan := { plan0 with clock := 3 }
theorem planS_seal : sealOk planS = true := by simp [sealOk, planS, planHead]
theorem planS_ok : planOk wOn planS = true := by simp only [planOk, planS_seal, Bool.and_true]; decide +kernel
theorem planB_ok : planOk wOn planB = true := by
  have h : sealOk planB = true := by simp [sealOk, planB, planHead]
  simp only [planOk, h, Bool.and_true]; decide +kernel
theorem witness_SeamAndDuskBand : wOn.pwr.pwrGood = true ∧ 1234 ≤ (wAt 1000 1234).tkp.beat ∧ (wAt 1000 1234).tkp.frozen = false ∧
    (let s : State := { wAt 1000 1249 with tkp := { (wAt 1000 1249).tkp with plans := [(9, planR)] } }
     s.pwr.pwrGood = true ∧ s.tkp.frozen = false ∧ nextReady (fhStage (pwrStage (checkSeam s))) = true) := by decide +kernel
theorem witness_PlanSealAndSubstitute :
    (cpState wOn 0 = 1 ∧ wOn.ras.state = 0 ∧ wOn.hst.ready = true ∧ sealOpen wOn 1001 = true ∧ floorAllowed wOn planS = true) ∧
    (planOk wOn planS = true ∧ planned wOn planS = true) ∧
    (sealOpen wOn planB.tick = true ∧ floorAllowed wOn planB = true ∧ planOk wOn planB = true ∧ planned wOn planB = false) ∧
    (sealOpen wOn planC.tick = true ∧ floorAllowed wOn planC = true ∧ planOk wOn planC = false) ∧
    (let s : State := { wAt 1000 1234 with tkp := { (wAt 1000 1234).tkp with lastPlan := some plan0 } }
     s.pwr.pwrGood = true ∧ 1234 ≤ s.tkp.beat ∧ nextReady s = false ∧ s.tkp.lastPlan = some plan0) := by
  refine ⟨?_, ⟨planS_ok, ?_⟩, ⟨?_, ?_, planB_ok, ?_⟩, ?_, ?_⟩ <;> decide +kernel
-- 03 R45: the seam opens the next tick at beat 0.
theorem test_seam : (match exec (.seam ⟨48000, [0, 0, 0, 0], 0, []⟩) (wAt 1000 1249) with | .next t => (t.tkp.now, t.tkp.beat) | _ => (0, 9)) = (1001, 0) := by
  decide +kernel
-- 03 R53: a plan that fails a check counts a plan fault.
theorem test_planFault : (match exec (.planSeal planC) wOn with | .next t => t.tkp.faultPlan | _ => 0) = 1 := by decide +kernel

/-! ### Beats, repairs, health -/

theorem witness_StreamDispatchAndEnds :
    (let u := settleScrubs (settleGuards (wAt 1000 1233) false)
     u.tkp.beat ≤ 1233 ∧ u.tkp.beat ∉ u.tkp.issued ∧ u.ras.state = 0) ∧
    (∀ m ∈ [none, some (1, 1, 63, 62, 7)], let s := setTile (wAt 0 101) 159 { run := some { runK with ended := true }, miss := m }
     (tileAt s 159).run = some { runK with ended := true } ∧ (tileAt s 159).opsOver = true ∧
      1250 * 0 + 1 + ((tileAt s 159).total + beatCycles s - 1) / beatCycles s ≤ launch s ∧ ((tileAt s 159).land (tileAt s 159).total).miss = m) ∧
    (∀ p ∈ [(none, true), (none, false), (some (1, 1, 63, 62, 7), true)], let s := setTile (wAt 0 101) 159 { run := some { runK with isStatic := p.2 }, miss := p.1 }
     (tileAt s 159).run = some { runK with isStatic := p.2 } ∧ 1250 * 0 + 1 + effLen s 100 ≤ launch s ∧
     ((tileAt s 159).land (beatCycles s * effLen s 100)).struck (beatCycles s * effLen s 100) = p.1) ∧
    (let s := setTile (wAt 0 101) 159 { run := some runK, wait := some (15, 24239) }
     (tileAt s 159).run = some runK ∧ (tileAt s 159).wait = some (15, 24239) ∧ 24239 < beatCycles s * (launch s - (1250 * 0 + 1) + 1) ∧
       ((tileAt s 159).land 24239).struck 24239 = none) := by
  refine ⟨by decide +kernel, by decide +kernel, by decide +kernel, by decide +kernel⟩

/-- The device at beat 1,233 with tile 159 in FAULT, a rerun owed for tile 0 and the plan of the next tick sealed. -/
def faultS : State :=
  { setTile (wAt 1000 1233) 159 { state := .fault } with
    tkp := { (wAt 1000 1233).tkp with plans := [(9, planR)] }
    ras := { wOn.ras with rerun := [(0, 1000)] } }
/-- An overlay for that plan: it borrows tiles 38 and 39. -/
def over0 : Overlay := { tick := 1001, borrow := 0xC000000000, overcastPtr := 0, words := 0, stream := [], sealW := 0 }
/-- The overlay with its SEAL. -/
def overS : Overlay := { over0 with sealW := crc64 (overlayHead over0) }
theorem overS_ok : overlayOk faultS planR overS = true := by
  have h : (overS.sealW == crc64 (overlayHead overS)) = true := by simp [overS, overlayHead]
  simp only [overlayOk, h, Bool.and_true]; decide +kernel
theorem witness_RepairCommands :
    (159 < 160 ∧ (tileAt faultS 159).state = .fault ∧ faultS.ras.state = 0 ∧ NMap.find? faultS.dies.bindAt 159 = none ∧
      (tileAt faultS 159).arriving < faultS.tkp.now) ∧
    (NMap.find? { faultS.dies with bindAt := [(159, (40, 1001))] }.bindAt 159 = some (40, 1001)) ∧
    (∃ p, NMap.find? faultS.tkp.plans (overS.tick % 16) = some p ∧ cpState faultS 0 = 1 ∧ faultS.ras.state = 0 ∧ overS.tick = faultS.tkp.now + 1 ∧
      faultS.tkp.beat < 1234 ∧ p.tick = overS.tick ∧ p.state = .sealed ∧ overlayOk faultS p overS = true) ∧
    (3 < 4 ∧ 2 < 3 ∧ 1023 < 1024 ∧ 15 < 16 ∧ ∀ w ∈ faultS.ras.wires, ¬ (w.1 = 3 ∧ w.2.1 = 2 ∧ w.2.2.1 = 1023)) ∧
    (∃ w ∈ ([(3, 2, 1023, 7)] : List (Nat × Nat × Nat × Nat)), w.1 = 3 ∧ w.2.1 = 2 ∧ w.2.2.1 = 1023) ∧
    (cpState faultS 7 = 1 ∧ 44 * 3 + 43 ∉ faultS.dies.bad) ∧ floorsEmpty faultS = true ∧
    (let s : State := { faultS with ras := { faultS.ras with stressAsk := some (8, 1000) } }; cpState s 7 = 1 ∧ floorsEmpty s = true ∧ stressDue s 3 = true) ∧
    (let s : State := { wAt 700000000 0 with ras := { wOn.ras with stressAt := [(3, 0)] } }; cpState s 7 = 1 ∧ floorsEmpty s = true ∧ stressDue s 3 = true) := by
  refine ⟨?_, ?_, ⟨planR, rfl, ?_, ?_, ?_, ?_, ?_, ?_, overS_ok⟩, ?_⟩ <;> decide +kernel

/-- A message of a class from device 9 stands first in its inbox. -/
def msgOf (cls : Nat) (s : State) : State :=
  { s with fab := { s.fab with inbox := [(9, [{ reqPacket 0x14 0 8 0 false (leBytes 2 cls ++ leBytes 6 0) with src := 9 }])] } }

/-- A device in contrail mode with device 9, at tick 100,000. -/
def conS : State := { wAt 100000 0 with ras := { wOn.ras with contrail := 1, conPartner := 9 }, fab := { wOn.fab with mask := BitVec.ofNat 256 (2 ^ 9) } }
theorem witness_HealthAndContrail :
    (wOn.pwr.pwrGood = true ∧ cpState wOn 7 = 1 ∧ 1 ≤ 15 ∧ 15 < 16 ∧ wOn.ras.stressAsk = none) ∧
    ((2 :: List.replicate 15 0 : List Byte).length = 16 ∧ fieldAt (2 :: List.replicate 15 0) 0 1 ≤ 2 ∧ fieldAt (2 :: List.replicate 15 0) 2 6 = 0) ∧
    (let s := msgOf 0x0120 conS; let u := takeMsg s 9 0x0120
     headIs s 9 0x0120 = true ∧ u.ras.contrail ≠ 0 ∧ 9 = u.ras.conPartner ∧ u.ras.digests.find? (fun x => x.reqId == 5) = none) ∧
    (let s := msgOf 0x0120 { conS with ras := { conS.ras with digests := [⟨5, 2, 7, 99000⟩] } }; let u := takeMsg s 9 0x0120
     headIs s 9 0x0120 = true ∧ u.ras.contrail ≠ 0 ∧ 9 = u.ras.conPartner ∧ u.ras.digests.find? (fun x => x.reqId == 5) = some ⟨5, 2, 7, 99000⟩) ∧
    (let s := wAt 8000 0; cpState s 7 = 1 ∧ s.ras.scoreNo < windowsEnded s ∧ s.slc.winNo < windowsEnded s) := by decide +kernel

/-! ### Host commands -/

/-- The journal record of an accepted command of queue 3 with sequence number 1, of PASID 7. -/
def cmdRec (op : Nat) (ps : List Byte) : JRec :=
  { q := 3, seq := 1, opcode := op, flags := 0, params := ps, resultPtr := 0x20000, tickArg := none, pasid := some 7, stage := 1, status := 0
    value := 0, order := 0, tick := 1000, beat := 0, doneAt := none, mirAt := 0, mirLeft := 0 }
/-- A state with that command accepted. -/
def cmdOn (b : State) (op : Nat) (ps : List Byte) : State := { b with hst := { b.hst with journal := [cmdRec op ps] } }
/-- A command that its queue has accepted, of a device that has not failed, may start. -/
theorem cmdOn_starts (b : State) (op : Nat) (ps : List Byte) (h : b.ras.state = 0) : Starts (cmdOn b op ps) 3 1 op (cmdRec op ps) := by
  refine ⟨rfl, rfl, ?_⟩
  have : (cmdOn b op ps).ras.state = 0 := h
  unfold mayStart; rw [this]; rfl
/-- That command on a system queue. -/
def sysRec (op : Nat) (ps : List Byte) : JRec := { cmdRec op ps with pasid := none }
/-- A state with it accepted. -/
def sysOn (b : State) (op : Nat) (ps : List Byte) : State := { b with hst := { b.hst with journal := [sysRec op ps] } }
theorem sysOn_starts (b : State) (op : Nat) (ps : List Byte) (h : b.ras.state = 0) : Starts (sysOn b op ps) 3 1 op (sysRec op ps) := by
  refine ⟨rfl, rfl, ?_⟩
  have : (sysOn b op ps).ras.state = 0 := h
  unfold mayStart; rw [this]; rfl
/-- The device in service with PASID 7 in slice 2, an ACTIVE serving context 5 of that slice, its quota, and pool 255. -/
def wSrv : State :=
  { wOn with
    slc := { wOn.slc with pasids := [(7, 2)], ctxs := [(5, { state := 3, slice := 2, serving := true })]
                          quotas := [(2, { contexts := 4, entries := 4, memMib := 1, buckets := some (0, 4095), given := true })] }
    srv := { wOn.srv with pools := [(255, ⟨1, 16, 3, 4096, 0x100000, 8, [8, 8, 0, 0], 0, 0x200000, [(0x1000000, 8, 1)]⟩)] }
    fab := { wOn.fab with mask := BitVec.ofNat 256 (2 ^ 9 + 1) } }

theorem witness_SeamBoundAdministration :
    let b := wOn
    (let ps := leBytes 8 0x00901 ++ leBytes 8 (9 * 2 ^ 40); Starts (cmdOn b 0x0007 ps) 3 1 0x0007 (cmdRec 0x0007 ps) ∧ mirrorFields (cmdRec 0x0007 ps) (begun (cmdOn b 0x0007 ps) 3 1) = stOk) ∧
    (let ps := leBytes 4 0xFFFFF ++ leBytes 4 0x013F; Starts (cmdOn b 0x0500 ps) 3 1 0x0500 (cmdRec 0x0500 ps) ∧ sliceAssignFields (cmdRec 0x0500 ps) (begun (cmdOn b 0x0500 ps) 3 1) = stOk) ∧
    (let ps := leBytes 32 63; Starts (cmdOn b 0x0501 ps) 3 1 0x0501 (cmdRec 0x0501 ps) ∧ sliceQuotaFields (cmdRec 0x0501 ps) (begun (cmdOn b 0x0501 ps) 3 1) = stOk ∧ firstQuotaKeys b 63 = false) ∧
    (let ps := leBytes 4 0x01003F; Starts (cmdOn b 0x0507 ps) 3 1 0x0507 (cmdRec 0x0507 ps) ∧ mbxGrantFields (cmdRec 0x0507 ps) (begun (cmdOn b 0x0507 ps) 3 1) = stOk) ∧
    (let ps := leBytes 3 0xFFFFFF; Starts (cmdOn b 0x0601 ps) 3 1 0x0601 (cmdRec 0x0601 ps) ∧ powerCapFields (cmdRec 0x0601 ps) (begun (cmdOn b 0x0601 ps) 3 1) = stOk) ∧
    (let ps := leBytes 8 0x00000000FF2B0701 ++ leBytes 8 86400 ++ leBytes 48 0; Starts (cmdOn b 0x0620 ps) 3 1 0x0620 (cmdRec 0x0620 ps) ∧ timeCfgFields (cmdRec 0x0620 ps) (begun (cmdOn b 0x0620 ps) 3 1) = stOk) ∧
    (let ps := leBytes 4 63; Starts (cmdOn b 0x0720 ps) 3 1 0x0720 (cmdRec 0x0720 ps) ∧ memEncFields (cmdRec 0x0720 ps) (begun (cmdOn b 0x0720 ps) 3 1) = stOk ∧ (cmdRec 0x0720 ps).par 1 1 = 0) ∧
    (let ps := leBytes 8 7 ++ leBytes 4 0x00090901 ++ leBytes 4 0x25806442 ++ leBytes 4 0x00000000 ++ leBytes 4 0x03E80000 ++ leBytes 8 0x012C0BB809C4 ++ leBytes 8 0x260801424 ++ leBytes 24 0
     Starts (cmdOn b 0x0320 ps) 3 1 0x0320 (cmdRec 0x0320 ps) ∧ fhCfgFields (cmdRec 0x0320 ps) (begun (cmdOn b 0x0320 ps) 3 1) = stOk) ∧
    (let ps := leBytes 1 2; Starts (cmdOn b 0x0603 ps) 3 1 0x0603 (cmdRec 0x0603 ps) ∧ clockModeFields (cmdRec 0x0603 ps) (begun (cmdOn b 0x0603 ps) 3 1) = stOk) ∧
    (let r := { cmdRec 0x0320 [] with stage := 2 }; let v : State := { cmdOn b 0x0320 [] with hst := { b.hst with journal := [r] }, tkp := { b.tkp with seamQ := [⟨3, 1, 1000, true⟩] } }
     seamRecs v (fun c => decide (c.tick ≤ v.tkp.now) && c.checked) = [r]) := by
  repeat' apply And.intro
  all_goals first | exact cmdOn_starts _ _ _ rfl | decide +kernel
theorem witness_SeamBoundServingAndFabric :
    let b := wSrv
    (let ps := leBytes 2 0xFF3F ++ leBytes 2 0 ++ leBytes 2 4096 ++ leBytes 2 0 ++ leBytes 2 16384 ++ leBytes 2 64 ++ leBytes 4 262144 ++ leBytes 2 0
     Starts (cmdOn b 0x0203 ps) 3 1 0x0203 (cmdRec 0x0203 ps) ∧ serveCfgFields (cmdRec 0x0203 ps) (begun (cmdOn b 0x0203 ps) 3 1) = stOk) ∧
    (let ps := leBytes 2 4095 ++ leBytes 17 1; Starts (cmdOn b 0x0204 ps) 3 1 0x0204 (cmdRec 0x0204 ps) ∧ budgetSetFields (cmdRec 0x0204 ps) (begun (cmdOn b 0x0204 ps) 3 1) = stOk) ∧
    (let ps := leBytes 2 0x033F ++ leBytes 70 0; Starts (cmdOn b 0x0205 ps) 3 1 0x0205 (cmdRec 0x0205 ps) ∧ roleSetFields (cmdRec 0x0205 ps) (begun (cmdOn b 0x0205 ps) 3 1) = stOk) ∧
    (let ps := leBytes 1 90; Starts (cmdOn b 0x0217 ps) 3 1 0x0217 (cmdRec 0x0217 ps) ∧ flashCfgFields (cmdRec 0x0217 ps) (begun (cmdOn b 0x0217 ps) 3 1) = stOk) ∧
    (let ps := leBytes 4 524287 ++ leBytes 4 1 ++ leBytes 16 0x0709; Starts (cmdOn b 0x0400 ps) 3 1 0x0400 (cmdRec 0x0400 ps) ∧ regionSetFields (cmdRec 0x0400 ps) (begun (cmdOn b 0x0400 ps) 3 1) = stOk) ∧
    (let ps := leBytes 2 0x01FF ++ leBytes 2 0x0707; Starts (cmdOn b 0x0401 ps) 3 1 0x0401 (cmdRec 0x0401 ps) ∧ pathSetFields (cmdRec 0x0401 ps) (begun (cmdOn b 0x0401 ps) 3 1) = stOk) ∧
    (let ps := leBytes 32 1; Starts (cmdOn b 0x0402 ps) 3 1 0x0402 (cmdRec 0x0402 ps) ∧ partitionSetFields (cmdRec 0x0402 ps) (begun (cmdOn b 0x0402 ps) 3 1) = stOk) ∧
    (let ps := leBytes 2 0x0180; Starts (cmdOn b 0x0403 ps) 3 1 0x0403 (cmdRec 0x0403 ps) ∧ portFenceFields (cmdRec 0x0403 ps) (begun (cmdOn b 0x0403 ps) 3 1) = stOk ∧ (cmdRec 0x0403 ps).par 1 1 = 1) ∧
    (let ps := leBytes 4 0xFFFE003F; Starts (cmdOn b 0x0404 ps) 3 1 0x0404 (cmdRec 0x0404 ps) ∧ jobtagSetFields (cmdRec 0x0404 ps) (begun (cmdOn b 0x0404 ps) 3 1) = stOk) ∧
    (let r := { cmdRec 0x0400 [] with stage := 2 }; let v : State := { cmdOn b 0x0400 [] with hst := { b.hst with journal := [r] }, tkp := { b.tkp with seamQ := [⟨3, 1, 1000, true⟩] } }
     seamRecs v (fun c => decide (c.tick ≤ v.tkp.now) && c.checked) = [r]) := by
  repeat' apply And.intro
  all_goals first | exact cmdOn_starts _ _ _ rfl | decide +kernel

/-- A queue of the host: system, rings of 16 entries at 0x10000 and 0x11000, one command in its ring, six completions unsignalled. -/
def qSys : Queue := { system := true, devring := false, sqBase := 0x10000, cqBase := 0x11000, sqLog := 4, cqLog := 4, vector := 2, pasid := 0
                      coN := 8, coUs := 100, tail := 1, unsig := 6 }
/-- The device with that queue as queue 511. -/
def wQ : State := setQueue wOn 511 qSys
/-- The same with a NOP in the ring whose sequence number is given. -/
def wRing (seq : Nat) : State := { wQ with mem := { wQ.mem with host := [(0x10008, BitVec.ofNat 8 seq)] } }
theorem witness_HostQueues :
    (wQ.hst.ready = true ∧ NMap.find? wQ.hst.queues 511 = some qSys ∧ outstanding { qSys with tail := 16 % 2 ^ 16 } ≤ 2 ^ qSys.sqLog ∧
      unconsumed { qSys with head := 0 % 2 ^ 16 } ≤ 2 ^ qSys.cqLog) ∧
    (let s := { wRing 1 with hst := { (wRing 1).hst with accSeq := [(511, 1)] } }
     let p := packetOf (nextEntry s qSys)
     mayConsume s 511 qSys p = true ∧ (consumeTurn s).map (·.1) = some 511 ∧ p.seq ≤ acceptedSeq s 511) ∧
    (let p := packetOf (nextEntry (wRing 1) qSys)
     mayConsume (wRing 1) 511 qSys p = true ∧ (consumeTurn (wRing 1)).map (·.1) = some 511 ∧ p.seq = acceptedSeq (wRing 1) 511 + 1 ∧ packetStatus (wRing 1) 511 qSys p true = stOk) ∧
    (let s := { wRing 1 with mem := { (wRing 1).mem with host := [(0x10000, 0x99), (0x10008, 1)] } }
     let p := packetOf (nextEntry s qSys)
     mayConsume s 511 qSys p = true ∧ (consumeTurn s).map (·.1) = some 511 ∧ p.seq = acceptedSeq s 511 + 1 ∧ packetStatus s 511 qSys p true ≠ stOk) ∧
    (let r := { cmdRec 0x0601 [] with stage := 0, tickArg := some 1001 }
     let s : State := { wQ with hst := { wQ.hst with journal := [r] } }
     s.hst.journal.find? (fun r => r.q == 3 && r.stage == 0) = some r ∧ (s.hst.mirrored = false ∨ r.mirLeft = 0) ∧
       ∀ t, r.tickArg = some t → applyTick s ≤ t) ∧
    (NMap.find? wQ.hst.queues 511 = some qSys ∧ qSys.unsig ≠ 0 ∧ qSys.unsigAt + 10 * qSys.coUs ≤ launch wQ) ∧
    (let w : W64 := 0x344
     let y := adminQueue (aqWrite wOn w)
     wOn.hst.ready = true ∧ w.getLsbD 8 = true ∧ NMap.find? wOn.hst.queues 0 = none ∧ bitsOf w.toNat 63 32 = wOn.hst.cmdsetRev ∧ 4 ≤ y.sqLog ∧ y.sqLog ≤ 12 ∧
       4 ≤ y.cqLog ∧ y.cqLog ≤ 12 ∧ (w.getLsbD 9 = true ∨ openRecs wOn 0 = [])) ∧
    (let s := setQueue wOn 0 qSys
     s.hst.ready = true ∧ (0 : W64).getLsbD 8 = false ∧ NMap.find? s.hst.queues 0 ≠ none ∧ openRecs s 0 = []) := by
  refine ⟨?_, ?_, ?_, ?_, ⟨?_, ?_, fun t ht => ?_⟩, ?_⟩
  case refine_7 => cases ht; decide +kernel
  all_goals decide +kernel
theorem witness_DuplicatePackets : let s := { wRing 1 with hst := { (wRing 1).hst with accSeq := [(511, 1)], journal := [{ cmdRec 0 [] with q := 511, stage := 3 }] } }
    NMap.find? s.hst.queues 511 = some qSys ∧ mayConsume s 511 qSys (packetOf (nextEntry s qSys)) = true ∧ (consumeTurn s).map (·.1) = some 511 ∧ (packetOf (nextEntry s qSys)).seq ≤ acceptedSeq s 511 ∧
    (∃ r, findRec s 511 (packetOf (nextEntry s qSys)).seq = some r ∧ r.stage = 3 ∧ r.status < 65536) := by
  refine ⟨by decide +kernel, by decide +kernel, by decide +kernel, by decide +kernel, ⟨{ cmdRec 0 [] with q := 511, stage := 3 }, by decide +kernel⟩⟩

/-- A mailbox page with a notice to slice 63 that is being sent since tick 900. -/
def pageS (p : Page) : State := setMbx wOn 2 p
theorem witness_Mailboxes :
    (2 ≤ 64 ∧ (mbxAt wOn 2).pending = false ∧ sendStatus wOn 2 (bitsOf (1 : W32).toNat 1 0) (bitsOf (1 : W32).toNat 7 2) = stOk) ∧
    sendStatus wOn 2 (bitsOf (3 : W32).toNat 1 0) (bitsOf (3 : W32).toNat 7 2) ≠ stOk ∧
    (let s := setMbx (pageS { pending := true, sendTo := (0, 63), sentTick := 920 }) 63 { ctrl := 0x15 }
     (mbxAt s 2).pending = true ∧ receiverTakes s (receiverOf (mbxAt s 2).sendTo) = true) ∧
    (let s := pageS { pending := true, sendTo := (0, 63), sentTick := 920 }
     (mbxAt s 2).pending = true ∧ (mbxAt s 2).sentTick + sendTicks (mbxAt s 2) ≤ s.tkp.now) ∧
    (let s := pageS { rxHead := 0xFFFF, rxTail := 2 }
     2 ≤ 64 ∧ ((2 : W32).toNat % 2 ^ 16 + 2 ^ 16 - (mbxAt s 2).rxHead) % 2 ^ 16 ≤ ringUsed (mbxAt s 2)) := by decide +kernel

theorem witness_AdminCommands :
    (let s := setQueue (cmdOn wSrv 0x0000 []) 4 qSys; Starts s 3 1 0x0000 (cmdRec 0x0000 []) ∧ (cmdRec 0x0000 []).params = []) ∧
    (let ps := leBytes 2 511 ++ leBytes 2 0x2 ++ leBytes 4 0 ++ leBytes 8 0x10000 ++ leBytes 8 0x11000 ++ leBytes 2 0x0404 ++ leBytes 2 1023 ++ leBytes 4 0 ++ leBytes 2 1 ++ leBytes 30 0
     Starts (cmdOn wSrv 0x0001 ps) 3 1 0x0001 (cmdRec 0x0001 ps) ∧ queueCreateStatus (begun (cmdOn wSrv 0x0001 ps) 3 1) (cmdRec 0x0001 ps) = stOk) ∧
    (let s := setQueue (cmdOn wSrv 0x0002 [4, 0]) 4 qSys; let u := begun s 3 1; let r := cmdRec 0x0002 [4, 0]
     Starts s 3 1 0x0002 r ∧ r.params.length = 2 ∧ r.par 0 2 ≠ 0 ∧ NMap.find? u.hst.queues (r.par 0 2) ≠ none ∧ openRecs u (r.par 0 2) = []) ∧
    (let r := cmdRec 0x0006 [0xFE]; Starts (cmdOn wSrv 0x0006 [0xFE]) 3 1 0x0006 r ∧ r.params.length = 1 ∧ r.par 0 1 % 2 = 0) ∧
    (let r := cmdRec 0x0008 [7]; Starts (cmdOn wSrv 0x0008 [7]) 3 1 0x0008 r ∧ r.params.length = 1) := by
  refine ⟨⟨⟨rfl, rfl, rfl⟩, rfl⟩, ⟨cmdOn_starts _ _ _ rfl, by decide +kernel⟩, ⟨⟨rfl, rfl, rfl⟩, ?_⟩, ⟨cmdOn_starts _ _ _ rfl, ?_⟩, ⟨cmdOn_starts _ _ _ rfl, ?_⟩⟩ <;> decide +kernel
/-- Bytes of host memory from an address on. -/
def hostAt (a : Nat) (bs : List Byte) : List Host.Cell := (List.zipWith (fun i b => (a + i, b)) (List.range bs.length) bs).filter fun e => e.2 ≠ 0
/-- The device with a context. -/
def wCtx (id : Nat) (x : Ctx) : State := { wOn with slc := { wOn.slc with ctxs := [(id, x)] } }
theorem witness_ResetCommands :
    (let r := cmdRec 0x0005 [3, 63]; Starts (cmdOn wOn 0x0005 [3, 63]) 3 1 0x0005 r ∧ r.params.length = 2 ∧ r.par 0 1 = 3 ∧ r.par 1 1 ≤ 63) ∧
    (let r := cmdRec 0x0005 [1, 0]; Starts (cmdOn wOn 0x0005 [1, 0]) 3 1 0x0005 r ∧ r.params.length = 2 ∧ (r.par 0 1 = 1 ∨ r.par 0 1 = 2) ∧
      (begun (cmdOn wOn 0x0005 [1, 0]) 3 1).start.readyOnce = true) ∧
    (wOn.pwr.pwrGood = true ∧ cpState wOn 7 = 1 ∧ 63 ≤ 63 ∧ wOn.start.readyOnce = true ∧ wOn.ras.state ≠ 2 ∧ wOn.start.reset_ < 2 ∧ wOn.tkp.beat = 0) ∧
    (let s : State := { wOn with start := { wOn.start with sliceAsk := [(63, some (3, 1))] } }
     s.start.sliceAsk.find? (fun a => a.1 == 63) = some (63, some (3, 1)) ∧ s.tkp.beat = 0 ∧ s.start.reset_ = 0) ∧
    (let s : State := { wAt 1000 20 with slc := { wOn.slc with scrubBy := [(63, (3, 1))] } }; s.tkp.beat ≥ 20 ∧ s.slc.scrubBy = [(63, (3, 1))]) ∧
    (let s : State := { wOn with start := { wOn.start with reset_ := 1, waiting := [(3, 1)] } }; s.start.sliceAsk = [] ∧ s.start.waiting = [(3, 1)]) ∧
    (let s : State := { wOn with start := { wOn.start with reset_ := 2 } }; s.start.reset_ ≠ 0) := by
  repeat' apply And.intro
  all_goals first | exact cmdOn_starts _ _ _ rfl | decide +kernel
/-- What BIST finds on a good device. -/
def bist0 : BistResult := { tiles := [], rows := [], wires := [], deckBad := false, cpSramBad := false, engines := [] }
theorem witness_ResetCommands_warm :
    (buildRepair (debugCloses { discardLines (warmFabric (breakLists (warmRadio (warmStop wOn)))) [] with
      sec := { (discardLines (warmFabric (breakLists (warmRadio (warmStop wOn)))) []).sec with nonce := none } }) bist0).2 = none := by decide +kernel

theorem witness_ContextCommands_host :
    (let ps := leBytes 64 0x0102; let r := cmdRec 0x0502 ps
     let u := begun (cmdOn { wOn with slc := { wOn.slc with quotas := [(2, { contexts := 1, memMib := 0 })] } } 0x0502 ps) 3 1
     Starts (cmdOn { wOn with slc := { wOn.slc with quotas := [(2, { contexts := 1, memMib := 0 })] } } 0x0502 ps) 3 1 0x0502 r ∧ ctxCreateOk u r = true ∧
     (r.par 1 1 = 1 → servingCtx u (r.par 0 1) = none) ∧ ctxCount u (r.par 0 1) < (quotaOf u (r.par 0 1)).contexts ∧
     memCharged u (r.par 0 1) + r.par 16 8 ≤ 2 ^ 20 * (quotaOf u (r.par 0 1)).memMib ∧ freeCtx u = some 0) ∧
    (let ps := leBytes 2 1023; let r := cmdRec 0x0503 ps; let s := cmdOn (wCtx 1023 { state := 1, slice := 2, serving := true }) 0x0503 ps; let u := begun s 3 1
     Starts s 3 1 0x0503 r ∧ r.par 0 2 = 1023 ∧ r.params.length = 2 ∧ (ctxAt u 1023).state = 1 ∧ ((ctxAt u 1023).serving = true → liveOf u (ctxAt u 1023).slice = []) ∧
     ctxOutstanding u 1023 = []) ∧
    (let ps := leBytes 3 0x103FF; let r := cmdRec 0x0504 ps; let s := cmdOn (wCtx 1023 { state := 3, slice := 2 }) 0x0504 ps
     Starts s 3 1 0x0504 r ∧ r.par 0 2 = 1023 ∧ r.params.length = 3 ∧ r.par 2 1 ≤ 1 ∧ (ctxAt (begun s 3 1) 1023).state = 3) ∧
    (let ps := leBytes 2 1023; let r := cmdRec 0x0505 ps; let s := cmdOn (wCtx 1023 { state := 4, slice := 2 }) 0x0505 ps
     Starts s 3 1 0x0505 r ∧ r.par 0 2 = 1023 ∧ r.params.length = 2 ∧ (ctxAt (begun s 3 1) 1023).state = 4 ∧ holdsOut (ctxAt (begun s 3 1) 1023) = false) ∧
    (let ps := leBytes 2 1023; let r := cmdRec 0x0506 ps; Starts (cmdOn wOn 0x0506 ps) 3 1 0x0506 r ∧ r.par 0 2 = 1023 ∧ r.params.length = 2) := by
  repeat' apply And.intro
  all_goals first | exact cmdOn_starts _ _ _ rfl | decide +kernel
theorem witness_ContextCommands_switch :
    (let x : Ctx := { state := 4, slice := 2, holdAsk := [(3, 1, true)], changed := 999 }; let s := wCtx 1023 x
     s.tkp.beat = 0 ∧ ctxAt s 1023 = x ∧ x.state = 4 ∧ holdsOut x = true ∧ x.changed < s.tkp.now) ∧
    (let x : Ctx := { state := 1, slice := 2, restoreAt := some 1000 }; let s := wCtx 1023 x
     waitsRestore s x = true ∧ resumeExam s 1023 = 1 ∧
     (∀ o ∈ rivals s 1023, waitsRestore s o.2 = true → resumeOrder s o.2 < resumeOrder s x → resumeExam s o.1 ≠ 1)) ∧
    (let x : Ctx := { state := 2, slice := 2, readyAt := some 1000 }; x.state = 2 ∧ x.left = [] ∧ x.readyAt = some 1000 ∧ 1000 ≤ (wCtx 1023 x).tkp.now) ∧
    (let s : State := { wCtx 1023 { state := 3, slice := 2 } with dies := { wOn.dies with torn := [(1023, 0x1005)] } }
     s.dies.torn.find? (fun (e : Nat × Nat) => e.1 == 1023) = some (1023, 0x1005) ∧ (ctxAt s 1023).state ≠ 0 ∧ (ctxAt s 1023).state ≠ 6) ∧
    (let s := wCtx 1023 { state := 6, slice := 2, changed := 999 }
     (ctxAt s 1023).state = 6 ∧ (ctxAt s 1023).changed < s.tkp.now ∧ ctxOutstanding s 1023 = []) := by decide +kernel
/-- A kernel image of one bundle, END. -/
def imgB : List Byte := leBytes 4 0x4E4B4D53 ++ leBytes 4 1 ++ leBytes 4 0x00010001 ++ leBytes 4 0 ++ leBytes 8 0x77 ++ leBytes 40 0 ++ leBytes 32 (9 * 2 ^ 251)
/-- Its load into the index 1,023 of every die. -/
def loadPs : List Byte := leBytes 2 15 ++ leBytes 2 1023 ++ leBytes 4 96 ++ leBytes 8 0x40000
/-- The device with the image in host memory. -/
def wImg : State := { wOn with mem := { wOn.mem with host := hostAt 0x40000 imgB } }
theorem witness_ContextCommands_load : let r := sysRec 0x0508 loadPs; let u := begun (sysOn wImg 0x0508 loadPs) 3 1
    Starts (sysOn wImg 0x0508 loadPs) 3 1 0x0508 r ∧ r.params.length = 16 ∧ r.par 0 1 < 16 ∧ r.par 1 1 = 0 ∧ r.par 2 2 ≤ 1023 ∧ 64 ≤ r.par 4 4 ∧
    r.par 4 4 ≤ 64 + 32 * 8192 ∧ r.pdev = false ∧
    (loadImage u (maskDies (r.par 0 1)) (r.par 2 2) (r.par 4 4) (hostRead u r.pasid (r.par 8 8) (r.par 4 4)) false).2 =
      some ⟨0x77, 1, [BitVec.ofNat 256 (9 * 2 ^ 251)], false, true, 5, 1001⟩ := by
  refine ⟨sysOn_starts _ _ _ rfl, ?_⟩; decide +kernel

/-- A debug token of level 2 for the device ID of 32 zero bytes and a nonce of zero bytes. -/
def tokenB : List Byte := leBytes 4 0x4B544244 ++ leBytes 4 2 ++ List.replicate 4691 0
/-- The device whose owner lets debug be unlocked, with that nonce. -/
def wTok : State := { wOn with sec := { wOn.sec with ownerFlags := 2, devId := List.replicate 32 0, nonce := some (List.replicate 32 0, 2000) }
                               evr := { wOn.evr with path := 0 } }
theorem witness_SecurityAndRecorder :
    (let r := cmdRec 0x0710 []; Starts (cmdOn wTok 0x0710 []) 3 1 0x0710 r ∧ r.params = [] ∧ (begun (cmdOn wTok 0x0710 []) 3 1).sec.noRandom = false) ∧
    (let r := cmdRec 0x0712 []; Starts (cmdOn wTok 0x0712 []) 3 1 0x0712 r ∧ r.params = []) ∧
    (wTok.pwr.pwrGood = true ∧ wTok.sec.noRandom = false) ∧ wTok.evr.path = 0 ∧ cpState wTok 7 = 1 ∧
    (let s : State := { wTok with tkp := { wTok.tkp with now := 8000 } }; s.evr.sumNo < windowsEnded s ∧ s.evr.batchNo < windowsEnded s ∧ s.evr.path = 0 ∧ cpState s 7 = 1) := by
  repeat' apply And.intro
  all_goals first | exact cmdOn_starts _ _ _ rfl | decide +kernel
-- The clause of DEBUG_UNLOCK has its state where the open verification takes the token's signature.
theorem witness_SecurityAndRecorder_unlock (h : Config.signatureOk [] (tokenB.take 72) (tokenB.drop 72) = true) :
    let r := cmdRec 0x0711 tokenB; let u := begun (cmdOn wTok 0x0711 tokenB) 3 1
    Starts (cmdOn wTok 0x0711 tokenB) 3 1 0x0711 r ∧ r.params.length = 4699 ∧ r.par 0 4 = 0x4B544244 ∧ 1 ≤ r.par 4 1 ∧ r.par 4 1 ≤ 2 ∧ r.zeros 5 3 = true ∧
    (r.par 4 1 = 2 → u.sec.keys = []) ∧ tokenOk u r.params = true := by
  have ht : tokenOk (begun (cmdOn wTok 0x0711 tokenB) 3 1) (cmdRec 0x0711 tokenB).params = true := by
    have h0 : (begun (cmdOn wTok 0x0711 tokenB) 3 1).sec.ownerKey = [] := rfl
    have h1 : (cmdRec 0x0711 tokenB).params = tokenB := rfl
    unfold tokenOk; rw [h0, h1, h, Bool.and_true]; decide +kernel
  refine ⟨cmdOn_starts _ _ _ rfl, ?_, ?_, ?_, ?_, ?_, fun _ => rfl, ht⟩ <;> decide +kernel

theorem witness_FirmwareCommands :
    (let s : State := { wOn with fw := { wOn.fw with beatTick := 200 } }
     s.hst.ready = true ∧ s.hst.orphan = false ∧ s.fw.beatTick + 800 ≤ s.tkp.now) ∧
    (let s : State := { wAt 5000000 0 with hst := { wOn.hst with orphan := true }, fw := { wOn.fw with orphanTick := 200000 } }
     s.hst.orphan = true ∧ s.fw.quiesced = false ∧ s.fw.orphanTick + 8000 * s.fw.orphanHold ≤ s.tkp.now) ∧
    (let s : State := { wOn with fw := { wOn.fw with phase := 1 }, tkp := { wOn.tkp with plans := (List.range 10).map fun i => (i, { plan0 with tick := 1001 + i, state := .sealed }) } }
     s.fw.phase = 1 ∧ s.tkp.beat = 0 ∧ 10 ≤ planDepth s) ∧
    (let s : State := { wOn with fw := { wOn.fw with phase := 2, second := some bundle0, quiesce := 993 } }
     s.fw.phase = 2 ∧ s.fw.second = some bundle0 ∧ s.tkp.now < s.fw.quiesce + 8 ∧ recsGood s bundle0 = true) ∧
    (let s : State := { wOn with fw := { wOn.fw with phase := 2, quiesce := 992 } }
     s.fw.phase = 2 ∧ s.fw.quiesce + 8 ≤ s.tkp.now) ∧
    (1 ≤ 7 ∧ 7 ≤ 7 ∧ cpState wOn 7 = 1 ∧ cpState wOn 0 = 1 ∧ stopsNow (cpStops wOn.takeFree.2 0 wOn.takeFree.1.toNat) 0 < 4) := by decide +kernel
/-- The device with a loaded bundle whose owner allows a live update. -/
def wUpd : State := { wOn with fw := { wOn.fw with bundle := some bundle0 }, sec := { wOn.sec with ownerFlags := 8 } }
-- The clause of FW_UPDATE has its state where the checks of R462 pass, whose verification of signatures is open.
theorem witness_FirmwareCommands_update (b : Bundle) (hs : sameParts bundle0 b = true) (hr : b.cmdsetRev = 0)
    (h : bundleFail (begun (cmdOn wUpd 0x0600 (leBytes 16 (2 ^ 90))) 3 1) (withRunningOwner bundle0 b) = none) :
    let r := cmdRec 0x0600 (leBytes 16 (2 ^ 90)); let u := begun (cmdOn wUpd 0x0600 (leBytes 16 (2 ^ 90))) 3 1
    Starts (cmdOn wUpd 0x0600 (leBytes 16 (2 ^ 90))) 3 1 0x0600 r ∧ u.fw.bundle = some bundle0 ∧ r.params.length = 16 ∧ r.par 0 8 % 64 = 0 ∧ r.par 8 4 ≤ 2 ^ 26 ∧
    r.zeros 12 4 = true ∧ usableRange u (r.par 0 8) (r.par 8 4) = true ∧ u.fw.phase = 0 ∧ cpDown u = false ∧ substNow u = false ∧ mayUpdate u = true ∧
    bundleFail u (withRunningOwner bundle0 b) = none ∧ u.sec.svn ≤ b.svn ∧ b.cmdsetRev = u.hst.cmdsetRev ∧ importsAll bundle0 b = true ∧ sameParts bundle0 b = true := by
  refine ⟨cmdOn_starts _ _ _ rfl, rfl, ?_, ?_, ?_, ?_, ?_, rfl, ?_, ?_, ?_, h, Nat.zero_le _, hr, rfl, hs⟩ <;> decide +kernel

/-- The parameters of a lockstep PLAN_LAUNCH of context 5 with this device as its leader. -/
def launchPs : List Byte := leBytes 8 0x00010005 ++ leBytes 8 1016 ++ leBytes 8 256 ++ leBytes 8 0x10000 ++ leBytes 8 0x3FFFE000
/-- The device with a locked clock. -/
def wLock : State := { wSrv with tim := { wSrv.tim with state := 2 } }
/-- The job that they describe. -/
def job0 : Job := jobOfParams (cmdRec 0x0510 launchPs)
/-- The device with the job in a given state. -/
def wJob (j : Job) : State := { wLock with tim := { wLock.tim with jobs := [j] }, mem := { wLock.mem with dev := [(0x10008, 0), (0x10009, 1)] } }
theorem witness_LaunchedJobs :
    (let r := cmdRec 0x0510 launchPs; let u := begun (cmdOn wLock 0x0510 launchPs) 3 1
     Starts (cmdOn wLock 0x0510 launchPs) 3 1 0x0510 r ∧ launchFieldsOk u r = true ∧ (∀ sl, sliceOfRec u r = some sl → (ctxAt u (r.par 0 2)).slice = sl) ∧
     r.tick + 16 ≤ r.par 8 8 ∧ (r.par 2 1 = 1 → u.tim.state = 2)) ∧
    (let j := { job0 with running := true, step := 1 }; findJob (wJob j) 3 1 = some j ∧ j.running = true ∧ ctxRuns (wJob j) j.context = false ∧ j.lockstep = true) ∧
    (let j := { job0 with running := true, step := 1, lockstep := false }; findJob (wJob j) 3 1 = some j ∧ j.running = true ∧ ctxRuns (wJob j) j.context = false ∧ j.lockstep = false) ∧
    (let j := { job0 with start := 1000 }; findJob (wJob j) 3 1 = some j ∧ j.running = false ∧ j.step = 0 ∧ (wJob j).tkp.now = j.start ∧ (wJob j).tkp.beat = 0) ∧
    (let j := { job0 with step := 1, reportTick := some 990 }; findJob (wJob j) 3 1 = some j ∧ j.running = false ∧ j.step ≠ 0 ∧ j.reportTick = some 990 ∧
      j.members ≤ (barrierPair (wJob j) j 0 0).2 ∧ (barrierPair (wJob j) j 0 0).1 / 256 < (wJob j).tkp.now ∧ j.count < j.members) ∧
    (let j := { job0 with step := 1, reportTick := some 0 }; let s := { wJob j with tkp := { wLock.tkp with now := (barrierPair (wJob j) j 0 0).1 / 256 } }
     findJob s 3 1 = some j ∧ j.running = false ∧ j.members ≤ (barrierPair s j 0 0).2 ∧ s.tkp.now = (barrierPair s j 0 0).1 / 256 ∧ s.tkp.beat = 0) ∧
    (let j := { job0 with step := 1, reportTick := some 990 }; let s := { wJob j with tkp := { wLock.tkp with now := 8990 } }
     findJob s 3 1 = some j ∧ j.reportTick = some 990 ∧ 990 + 8000 ≤ s.tkp.now) ∧
    (let j := { job0 with step := 1, reportTick := some 990 }; let s := { wJob j with mem := wLock.mem }
     findJob s 3 1 = some j ∧ j.running = false ∧ (barrierPair s j 0 0).2 < j.members ∧ (barrierPair s j 0 (BitVec.ofNat 64 j.count)).2 < j.members) := by
  have hs : ∀ sl, sliceOfRec (begun (cmdOn wLock 0x0510 launchPs) 3 1) (cmdRec 0x0510 launchPs) = some sl →
      (ctxAt (begun (cmdOn wLock 0x0510 launchPs) 3 1) ((cmdRec 0x0510 launchPs).par 0 2)).slice = sl := by
    have h : sliceOfRec (begun (cmdOn wLock 0x0510 launchPs) 3 1) (cmdRec 0x0510 launchPs) = some 2 := by decide +kernel
    rintro sl hs; rw [h] at hs; cases hs; decide +kernel
  refine ⟨⟨cmdOn_starts _ _ _ rfl, ?_, hs, ?_, ?_⟩, ?_⟩ <;> decide +kernel

/-! ### SPDM, sideband, time -/

/-- The device whose SP has negotiated and holds a certificate chain. -/
def wSpdm : State := { wOn with sec := { wOn.sec with spdm := 3, identity := true, state := 2 }
                                fw := { wOn.fw with bundle := some { bundle0 with devices := [([], [], [1, 2])], signerCert := [3] } } }
theorem witness_SpdmExchange : wSpdm.pwr.pwrGood = true ∧ 1 ≤ wSpdm.sec.spdm ∧ 2 ≤ wSpdm.sec.spdm ∧ 3 ≤ wSpdm.sec.spdm ∧ certChain wSpdm = some [3, 1, 2] ∧
    2 < ([3, 1, 2] : List Byte).length ∧ (0xFF ≤ 10 ∨ 0xFF = 0xFF) ∧ wSpdm.sec.noRandom = false ∧ wSpdm.sec.identity = true ∧ (List.replicate 32 (0 : Byte)).length = 32 ∧
    0xE9 ∉ spdmKnown := by decide +kernel
theorem witness_SidebandCommands :
    wOn.pwr.pwrGood = true ∧ 127 < 128 ∧ 1 ≤ 254 ∧ 254 < 255 ∧ 0xFF ∈ [0x00, 0x01, 0x05, 0x7F, 0xFF] ∧ cpState wOn 7 = 1 ∧ 1 ≤ 15 ∧ 1 ≤ 32 ∧
    (List.replicate 256 (List.replicate 16 (0 : Byte))).length ≤ 256 ∧ (∀ e ∈ List.replicate 256 (List.replicate 16 (0 : Byte)), e.length = 16) ∧
    wOn.evr.path ≠ 0 ∧ wOn.evr.early = true := by decide +kernel
theorem witness_ManagementWhileStopped : let s : State := { wOn with fw := { wOn.fw with cpState := [(7, 2)] } }
    s.pwr.pwrGood = true ∧ cpState s 7 ≠ 1 := by decide +kernel

/-- A fronthaul port in 25GbE mode whose link is up. -/
def port0 : FhPort := { mode := ⟨1, 1, 1⟩, linkUp := true }
/-- The device with that port as FH7, its PTP port, and a servo in a state. -/
def wTim (st : Nat) : State := { wOn with fh := [(7, port0)], tim := { wOn.tim with ptpPort := 7, syncePort := 7, state := st, present := true, heard := 900 } }
theorem witness_TimeEvents :
    (portWorks (wTim 2) 7 = true ∧ portWorks (wTim 2) 6 = false ∧ 7 = (wTim 2).tim.ptpPort ∧ (wTim 2).tim.source = 0 ∧ 0xB ∉ [2, 3, 0xA, 0xD] ∧
      ptpSends (wTim 2) 7 1 5 = true) ∧
    (let s := { wTim 2 with tim := { (wTim 2).tim with masters := 0x80 } }; ptpSends s 7 0 5 = true ∧ ptpSends s 7 0xB 5 = true ∧ ptpSends s 6 0 5 = false) ∧
    (let s : State := { wTim 2 with fh := [(7, { port0 with noFollow := [5], txq := List.replicate 64 (stampEntry 5 0 7 0) })] }
     portWorks s 7 = true ∧ 5 ∈ (NMap.getD s.fh 7 {} : FhPort).noFollow ∧ 64 ≤ ((NMap.getD s.fh 7 {} : FhPort).txq.drop 0).length) ∧
    (7 = (wTim 3).tim.syncePort ∧ portWorks (wTim 3) 7 = true) ∧
    (todFields (todLine 1755000000 1 37) = some (1755000000, 1, 37) ∧ 100 ≤ 900 ∧ 900 ≤ 900) ∧
    (let s := { wTim 1 with tim := { (wTim 1).tim with source := 1, todNext := some 5 } }; s.tim.source ≠ 0 ∧ s.tim.todNext = some 5) ∧
    (let s := { wTim 2 with tim := { (wTim 2).tim with raw := 5000000000, ppsOut := 4, leap := some 37 } }
     s.pwr.pwrGood = true ∧ s.tim.ppsOut < 5 ∧ timeNow s ≤ 1000000000 * 5 ∧ 1000000000 * 5 < timeNow s + 1000000000 ∧ 1000000000 * 5 < timeAt s (s.tim.raw + 100) ∧
     s.tim.ppsRaw = none) ∧
    (∀ raw ∈ [499999999, 500000000], let s := { wTim 2 with tim := { (wTim 2).tim with raw := raw, ppsOut := 4, leap := some 37, ppsRaw := some 0 } }
     s.tim.ppsRaw = some 0 ∧ s.tim.leap = some 37 ∧ (raw = 500000000 ↔ 0 + 500000000 ≤ s.tim.raw)) ∧
    (let s := { wTim 2 with tkp := { wOn.tkp with now := 3900 } }; s.tim.present = true ∧ s.tim.heard + lossTicks s ≤ s.tkp.now ∧ s.tim.state = 2) ∧
    (let s := { wTim 3 with tim := { (wTim 3).tim with holdTick := 100, holdLimit := 60 }, tkp := { wOn.tkp with now := 480100 } }
     s.tim.state = 3 ∧ s.tim.holdExceeded = false ∧ s.tim.holdTick + 8000 * s.tim.holdLimit ≤ s.tkp.now) ∧
    (let s := { wTim 1 with tkp := { wOn.tkp with step := some 1001, beat := 1234 } }
     s.tkp.step = some 1001 ∧ 1234 ≤ s.tkp.beat ∧ 1001 ≤ s.tkp.now + 1 ∧ s.tim.present = true ∧ s.tim.nostep = false ∧
       125000 * (s.tkp.now + 1) ≤ 125125001) := by decide +kernel

/-! ### Engines and memory -/

/-- An LDPC decode block of group 0, and one that runs. -/
def blk0 : Block := { job := { op := 1, bg := 1, zc := 384, rows := 4, iter := 1, length := 1, inp := 0x1000, out := 0x2000, polarN := 0, polarK := 0, crc := 0 }
                      group := 0, list_ := 5, tick := 999, beat := 1249, age := 1, index := 0, addr := 0x3000 }
theorem witness_CodeEngines :
    (let s : State := { wOn with rad := { wOn.rad with radioQ := [(1, [blk0])] } }
     1 ≤ 1 ∧ 23 ≤ 27 ∧ engineIdle s 1 23 = true ∧ enginePick s 1 23 = some (false, blk0)) ∧
    (let s : State := { wOn with rad := { wOn.rad with radioQ := [(1, [blk0])], deadEng := [32] } }
     1 ≤ 1 ∧ 1 ≤ 27 ∧ engineIdle s 1 1 = true ∧ enginePick s 1 1 = some (false, blk0) ∧
       ∀ n < 1, engineIdle s 1 n = true → ∀ p ∈ enginePick s 1 n, p.2.age ≠ blk0.age) ∧
    (let s : State := { wOn with rad := { wOn.rad with engines := [(59, blk0)] } }
     NMap.find? s.rad.engines (32 * 1 + 27) = some blk0 ∧ 1250 * blk0.tick + blk0.beat < launch s ∧ blk0.list_ ≠ 0) ∧
    (let s : State := { wOn with rad := { wOn.rad with engines := [(59, { blk0 with list_ := 0 })] } }
     NMap.find? s.rad.engines (32 * 1 + 27) = some { blk0 with list_ := 0 } ∧ ({ blk0 with list_ := 0 } : Block).list_ = 0) := by decide +kernel
-- The first clause of CODE_BLOCK_START in the form in which it stands: no lower engine could take the same block.
theorem witness_CodeEngines_lower : let s : State := { wOn with rad := { wOn.rad with radioQ := [(1, [blk0])], deadEng := [32] } }
    ∀ n < 1, engineIdle s 1 n = true → ∀ p, enginePick s 1 n = some p → p.2.age ≠ blk0.age := by
  intro s n hn h p hp
  interval_cases n
  exact absurd h (by decide +kernel)

/-- A descriptor that fills the 64 bytes at 0x2000. -/
def descB : List Byte := leBytes 2 2 ++ leBytes 2 0 ++ leBytes 4 2 ++ leBytes 8 0 ++ leBytes 8 0x2000 ++ leBytes 8 64 ++ leBytes 32 0
/-- The burst that it describes. -/
def burst0 : Burst := { desc := 0x3FFFFFC0, op := 2, flags := 0, length := 2, src := 0, dst := 0x2000, bytes := 64, next := 0, donePtr := 0, tick := 999, beat := 1248
                        slice := none, context := none, use := .plain, got := [], fail := none }
theorem witness_DmaEngines :
    (let u := devPut wOn 0x3FFFFFC0 descB; let d := burstOf u 0x3FFFFFC0 none none .plain
     15 ≤ 15 ∧ NMap.find? wOn.mem.dma 15 = none ∧ 0x3FFFFFC0 % 64 = 0 ∧ usableRange wOn 0x3FFFFFC0 64 = true ∧ (descB = [] ∨ descB.length = 64) ∧
     (NMap.find? wOn.mem.dmaNext 15 = none ∧ fitsBefore u (unitDma 15) d.length = true ∧ standsHold u (unitDma 15) = false) ∧ fitsTick u d.length = true ∧ attnSameTick u .plain (fabricPlace u d.src) = false ∧ badRange u 0x3FFFFFC0 64 = false ∧
     descOk u d = true ∧ (d.op = 1 → endpointDenied u d d.src = false) ∧ endpointDenied u d d.dst = false ∧ (usesHost d = true → u.hst.busMaster = true)) ∧
    (let s : State := { wOn with mem := { wOn.mem with dmaNext := [(15, 0x40)] } }; NMap.find? s.mem.dmaNext 15 = some 0x40) ∧
    (let s : State := { wOn with mem := { wOn.mem with dma := [(15, burst0)] } }
     NMap.find? s.mem.dma 15 = some burst0 ∧ dmaLeft s 15 = false ∧ switchRegion s burst0 = none ∧ sourceBad s burst0 = false ∧ burst0.fail = none ∧
     1250 * burst0.tick + burst0.beat + burst0.length ≤ launch s) := by decide +kernel
/-- Parameters of BIAS_SET: host bias of the 2 MiB at an address. -/
def biasPs (a : Nat) : List Byte := leBytes 9 (2 ^ 64 + a)
/-- Parameters of POOL_SET: a pool of two frames of 1 MiB with its state, frame table and extent list. -/
def poolPs (pool st tab ext : Nat) : List Byte := leBytes 1 pool ++ leBytes 1 st ++ leBytes 1 16 ++ leBytes 2 3 ++ leBytes 4 (2 ^ 20) ++ leBytes 8 tab ++ leBytes 4 2 ++
  leBytes 4 0 ++ leBytes 16 2 ++ leBytes 8 0 ++ leBytes 8 ext ++ leBytes 8 0
/-- The descriptor that POOL_SET carries. -/
def poolD (ps : List Byte) : Pool := poolOfParams (cmdRec 0x0101 ps) []
/-- A list of one extent of 2 MiB at 0x2000000; pool 253 ACTIVE, pools 251 and 252 of another geometry, a frame of 252 GRANTED. -/
def wPool : State :=
  { wSrv with mem := { wSrv.mem with dev := [(0x300003, 2), (0x300008, 1), (0x30000C, 1)] }
              srv := { wSrv.srv with pools := [(251, poolD (poolPs 251 1 0x500000 0)), (252, poolD (poolPs 252 1 0x700000 0)), (253, poolD (poolPs 253 1 0x400000 0x300000))]
                                     frames := [(frameKey 252 0, ⟨0x1000000, 0, 1, 1, 4, false, 0⟩)] } }
theorem witness_DeviceMemory :
    (31 ≤ 31 ∧ wOn.pwr.pwrGood = true ∧ 31 ∉ wOn.mem.lost ∧ 16 ∉ wOn.mem.lost ∧ 16 - 16 ∉ wOn.mem.lost) ∧
    (let s : State := { wOn with mem := { wOn.mem with lost := [16] } }; 0 ∉ s.mem.lost ∧ 16 - 0 ∈ s.mem.lost) ∧
    (let n := noteReads wOn (64 * 16777215) 64
     16777215 < usableU wOn / 64 ∧ onLost wOn (64 * 16777215) = false ∧ wOn.hst.ecc = true ∧ isPoisoned n (64 * 16777215) = false ∧ isLatent n (64 * 16777215) = false) ∧
    (let s : State := { wOn with mem := { wOn.mem with poison := [16777215] } }
     onLost s (64 * 16777215) = false ∧ isPoisoned (noteReads s (64 * 16777215) 64) (64 * 16777215) = true) ∧
    (usableRange wOn 0x3FFFFFFF 1 = true ∧ isProtected wOn 0x3FFFFFFF 1 = false) ∧
    (let s : State := { wOn with srv := { wOn.srv with reqBase := 0x10000 } }; usableRange s 0x10000 1 = true ∧ isProtected s 0x10000 1 = true) ∧
    (∀ a ∈ [(0x3FE00000, false), (0x1E00000, true)], let r := cmdRec 0x0100 (biasPs a.1); let u := begun (cmdOn wSrv 0x0100 (biasPs a.1)) 3 1
     r.params.length = 9 ∧ r.par 8 1 ≤ 1 ∧ r.par 0 8 % 2 ^ 21 = 0 ∧ r.par 0 8 < usableU u ∧
     (u.srv.pools.any fun p => p.2.state != 0 && p.2.extents.any fun e => overlaps (r.par 0 8) (2 ^ 21) (extentSpan e).1 (extentSpan e).2) = a.2 ∧
     pageInUse u (r.par 0 8) = false ∧ pageInUse { u with mem := { u.mem with dma := [(15, { burst0 with dst := r.par 0 8 })] } } (r.par 0 8) = true) := by
  decide +kernel
theorem witness_DeviceMemory_starts (a pool st tab ext : Nat) :
    Starts (cmdOn wSrv 0x0100 (biasPs a)) 3 1 0x0100 (cmdRec 0x0100 (biasPs a)) ∧
    Starts (cmdOn wPool 0x0101 (poolPs pool st tab ext)) 3 1 0x0101 (cmdRec 0x0101 (poolPs pool st tab ext)) :=
  ⟨cmdOn_starts _ _ _ rfl, cmdOn_starts _ _ _ rfl⟩
theorem witness_DeviceMemory_pools :
    let u := fun (pool st tab ext : Nat) => begun (cmdOn wPool 0x0101 (poolPs pool st tab ext)) 3 1
    let ok := fun (pool st tab ext : Nat) => poolFieldsOk (cmdRec 0x0101 (poolPs pool st tab ext)) (poolD (poolPs pool st tab ext))
    let geo := fun (pool st tab ext : Nat) => poolGeometry (u pool st tab ext) pool (poolD (poolPs pool st tab ext))
    let same := fun (pool st tab ext : Nat) => (poolAt (u pool st tab ext) pool).map fun c => sameGeometry c (poolD (poolPs pool st tab ext))
    ok 254 3 0x600000 0x300000 = false ∧
    (∀ st ∈ [0, 1, 2], ok 254 st 0x600000 0x300000 = true ∧ poolAt (u 254 st 0x600000 0x300000) 254 = none) ∧
    geo 254 1 0x600000 0x300000 = .inl [(0x2000000, 1, 1)] ∧ geo 254 1 0x600000 0x40000000 = .inr stInvalid ∧
    (∀ st ∈ [0, 1, 2], ok 252 st 0x600000 0x300000 = true ∧ same 252 st 0x600000 0x300000 = some false ∧ poolBusy (u 252 st 0x600000 0x300000) 252 = true) ∧
    (same 253 0 0x400000 0x300000 = some true ∧ poolBusy (u 253 0 0x400000 0x300000) 253 = false ∧ same 253 2 0x400000 0x300000 = some true) ∧
    (same 251 1 0x600000 0x300000 = some false ∧ poolBusy (u 251 1 0x600000 0x300000) 251 = false ∧ geo 251 1 0x600000 0x300000 = .inl [(0x2000000, 1, 1)]) := by
  decide +kernel
theorem witness_HostWriteFrame : wOn.memOk ∧ usableRange wOn 0x3FFFFFFF 1 = true ∧ isProtected wOn 0x3FFFFFFF 1 = false ∧ badRange wOn 0x3FFFFFFF 1 = false := by
  simp only [State.memOk]; decide +kernel
-- 08 R165, R166, the worked example: address 0x0A6B3D40 lives on MC21 at offset 0x52B340, data in physical line 87,416, check word in 87,423.
theorem test_placement : channelOf wOn 0x0A6B3D40 = 21 ∧ channelOffset wOn 0x0A6B3D40 = 0x52B340 ∧ indexOf wOn 0x0A6B3D40 = 84685 ∧
    dataLine 84685 = 87416 ∧ checkLine 84685 = 87423 ∧ lineAddr wOn 21 84685 = 0x0A6B3D40 := by decide +kernel
-- 08 R169: a host write lands, and writing zero again takes the entry off the list.
theorem test_hostWrite : (match exec (.hostMemWrite 0x3FFFFFFF [7]) wOn with | .next t => t.mem.dev | _ => []) = [(0x3FFFFFFF, 7)] ∧
    (match exec (.hostMemWrite 5 [0]) { wOn with mem := { wOn.mem with dev := [(5, 7)] } } with | .next t => t.mem.dev | _ => [(0, 0)]) = [] := by decide +kernel

/-! ### Serving -/

/-- A request in DECODE of slice 2 and pool 255 with a prompt of 1 token. -/
def req0 : Req := { state := 2, slice := 2, reqId := 9, pool := 255, promptLen := 1, prefillPos := 1, commitLen := 1, genLen := 1, maxNew := 8, adapter := 0xFFFF
                    grammar := 0xFFFF, pageList := 0x40000, tokenLog := 0x50000, pageCap := 8, entryGen := 3, cmdQ := 4, cmdSeq := 2 }
/-- The serving device with that request in entry 16,383, and its step configuration. -/
def wReq (r : Req) : State :=
  { wSrv with srv := { wSrv.srv with reqs := [(16383, r)], cfgs := [(256 * 2 + 255, ⟨16, 4, 64, 1000, 80⟩)] } }
/-- A running step of one row, with the descriptors of its ATTNs and the row statuses of those that have ended. -/
def step0 (ds : List (List Byte)) (es : List (List Nat)) : StepRun := ⟨[⟨16383, 3, false, 1, 1, [], 2⟩], [], ds, es, []⟩
/-- The device in which that step runs. -/
def wStep (ds : List (List Byte)) (es : List (List Nat)) : State :=
  { wReq req0 with srv := { (wReq req0).srv with steps := [(767, step0 ds es)] } }
theorem witness_ServingEvents :
    (let s := wReq req0
     NMap.find? s.srv.cfgs (256 * 2 + 255) = some ⟨16, 4, 64, 1000, 80⟩ ∧ NMap.find? s.srv.steps (256 * 2 + 255) = none ∧ servingActive s 2 = true ∧
     (roleOf s 2).role ≠ 2 ∧ s.fw.quiesced = false ∧ s.ras.state = 0) ∧
    (NMap.find? (wStep [[]] [[0]]).srv.steps (256 * 2 + 255) = some (step0 [[]] [[0]]) ∧ (step0 [[]] [[0]]).descs.length ≤ (step0 [[]] [[0]]).ended.length) ∧
    (let s := wReq { req0 with state := 5 }
     16383 < 16384 ∧ (reqAt s 16383).state = 5 ∧ (reqAt s 16383).pool = 255 ∧ poolActive s 255 = true) ∧
    (let x := { req0 with state := 6 }
     let s := { wReq x with srv := { (wReq x).srv with frames := [(frameKey 255 7, ⟨0x1007000, 0, 0, 0, 5, false, 0⟩)] } }
     (∃ p, poolAt s 255 = some p ∧ p.lowWater < freeLocal s 255) ∧
     (orderBy pickBefore (s.srv.reqs.filter fun e => e.2.pool == 255 && e.2.state == 6)).head? = some (16383, x) ∧
     (∀ e ∈ List.zip (List.range x.pages.length) x.pages, pageAway s x e = false)) ∧
    (let x := { req0 with state := 6 }; let s := wReq x
     (∃ p, poolAt s 255 = some p ∧ freeLocal s 255 ≤ p.lowWater ∧ x.coming = false) ∧
     (orderBy pickBefore (s.srv.reqs.filter fun e => e.2.pool == 255 && e.2.state == 6)).head? = some (16383, x) ∧
     (∀ e ∈ List.zip (List.range x.pages.length) x.pages, pageAway s x e = false)) ∧
    (let x := { req0 with state := 5, deadline := 1080 }; let s := wReq x
     let near := s.srv.reqs.filter fun e => e.2.pool == 255 && (e.2.state == 5 || e.2.state == 6) && e.2.deadline != 2 ^ 64 - 1 && decide (e.2.deadline ≤ s.tkp.now + guardOf s e.2)
     s.tkp.beat = 0 ∧ NMap.getD s.srv.ddl 255 0 ≠ s.tkp.now + 1 ∧
     near.any (fun w => ((victims s fun r => r.pool == 255 && decide (r.prio < w.2.prio)).filter fun e =>
       e.1 != w.1 && !(privatePages s e.2).isEmpty).isEmpty) = true ∧
     (orderBy victimBefore (s.srv.reqs.filter fun e => e.2.pool == 255 && e.2.own)).head? = some (16383, x)) ∧
    (let a : Adapter := { handle := 1, version := 1, state := 1, pool := 255, rank := 8, refs := 0, weights := 0x100000, bytes := 64, since := 999, cmdQ := 3, cmdSeq := 1, copy := [] }
     let s := { wSrv with srv := { wSrv.srv with adapters := [(255, a)] } }
     NMap.find? s.srv.adapters 255 = some a ∧ a.state = 1 ∧ s.tkp.beat = 0 ∧ a.since < s.tkp.now ∧ badRange s a.weights a.bytes = false) := by
  refine ⟨by decide +kernel, by decide +kernel, by decide +kernel, ⟨⟨_, rfl, by decide +kernel⟩, by decide +kernel, by decide +kernel⟩,
    ⟨⟨_, rfl, by decide +kernel, rfl⟩, by decide +kernel, by decide +kernel⟩, by decide +kernel, by decide +kernel⟩
/-- A parameter block of REQ_ADMIT: prompt of 1 token, greedy, no adapter and no grammar. -/
def admitPs : List Byte := leBytes 4 0 ++ leBytes 4 9 ++ leBytes 8 0 ++ leBytes 6 0 ++ leBytes 2 4095 ++ leBytes 8 0x40000 ++ leBytes 4 0 ++ leBytes 4 8 ++
  leBytes 2 0xFFFF ++ leBytes 2 0 ++ leBytes 2 0xFFFF ++ leBytes 3 0 ++ leBytes 1 255 ++ leBytes 1 15 ++ leBytes 1 0 ++ leBytes 4 8 ++ leBytes 8 0 ++ leBytes 4 0 ++
  leBytes 4 1 ++ leBytes 8 0 ++ leBytes 8 0x50000 ++ leBytes 4 2 ++ leBytes 4 0 ++ leBytes 4 0x3F800000 ++ leBytes 4 0 ++ leBytes 2 0 ++ leBytes 22 0
theorem witness_ServingCommands_admit : let r := cmdRec 0x0200 admitPs; let u := begun (cmdOn wSrv 0x0200 admitPs) 3 1; let x := reqOfParams r
    Starts (cmdOn wSrv 0x0200 admitPs) 3 1 0x0200 r ∧ sliceOfRec u r = some 2 ∧ servingCtx u 2 = some 5 ∧ stepOf u 2 (r.par 49 1) = none ∧ (roleOf u 2).role ≠ 2 ∧ admitOk u 2 r x = true ∧
    inBuckets (quotaOf u 2).buckets x.bucket = true ∧ badRange u x.pageList (8 * x.pageCap) = false ∧ badRange u x.tokenLog (4 * x.promptLen) = false ∧
    sharedOk u 2 x (sharedRun u x) = true ∧ (liveOf u 2).length < (quotaOf u 2).entries ∧ freeEntry u = some 0 ∧
    ∃ v, shareRun x.pool (sharedRun u x) u = (v, stOk) := by
  have h : sharedRun (begun (cmdOn wSrv 0x0200 admitPs) 3 1) (reqOfParams (cmdRec 0x0200 admitPs)) = [] := by decide +kernel
  refine ⟨cmdOn_starts _ _ _ rfl, ?_, ?_, ?_, ?_, ?_, ?_, ?_, ?_, ?_, ?_, ?_, _, by rw [h]; rfl⟩ <;> decide +kernel
/-- Parameters of ABORT and QUERY of entry 16,383. -/
def entryPs : List Byte := leBytes 2 16383 ++ leBytes 2 3
/-- A grammar of one state, one mask and one transition. -/
def gramPs : List Byte := leBytes 5 0x0101 ++ leBytes 4 262144 ++ leBytes 4 1 ++ leBytes 2 0 ++ leBytes 2 1 ++ leBytes 8 1 ++ leBytes 8 0x1000 ++ leBytes 8 0x100000 ++
  leBytes 8 0x2000 ++ leBytes 16 0
theorem witness_ServingCommands :
    (∀ op ∈ [0x0201, 0x0202], let r := cmdRec op entryPs; let u := begun (cmdOn (wReq req0) op entryPs) 3 1
      Starts (cmdOn (wReq req0) op entryPs) 3 1 op r ∧ r.params.length = 4 ∧ r.par 0 2 ≤ 16383 ∧ (reqAt u (r.par 0 2)).entryGen = r.par 2 2 ∧
      (reqAt u (r.par 0 2)).state ≠ 0 ∧ sliceOfRec u r = some (reqAt u (r.par 0 2)).slice ∧ (reqAt u (r.par 0 2)).state ∉ [3, 7, 8, 9] ∧ stepOf u (reqAt u (r.par 0 2)).slice (reqAt u (r.par 0 2)).pool = none) ∧
    (let ps := leBytes 2 0xFFFE ++ leBytes 2 255 ++ leBytes 4 1024 ++ leBytes 8 0x3FFFFFC0 ++ leBytes 8 64; let r := cmdRec 0x0208 ps; let u := begun (cmdOn wSrv 0x0208 ps) 3 1
     Starts (cmdOn wSrv 0x0208 ps) 3 1 0x0208 r ∧ r.params.length = 24 ∧ r.par 0 2 ≠ 0xFFFF ∧ r.zeros 3 1 = true ∧ 1 ≤ r.par 4 2 ∧ r.par 4 2 ≤ 1024 ∧
     r.zeros 6 2 = true ∧ (poolAt u (r.par 2 1)).isSome = true ∧ usableRange u (r.par 8 8) (r.par 16 8) = true ∧
     (u.srv.adapters.filter fun (e : Nat × Adapter) => e.2.handle == r.par 0 2).foldl (fun m e => max m e.2.version) 0 + 1 ≤ 65535 ∧ freeAdapter u = some 0) ∧
    (let b := { wSrv with srv := { wSrv.srv with adapters := [(0, ⟨1, 1, 2, 255, 8, 0, 0x100000, 64, 900, 3, 1, []⟩)] } }; let r := cmdRec 0x0209 [1, 0]
     Starts (cmdOn b 0x0209 [1, 0]) 3 1 0x0209 r ∧ r.params.length = 2 ∧ ∃ e ∈ (begun (cmdOn b 0x0209 [1, 0]) 3 1).srv.adapters, e.2.handle = r.par 0 2 ∧ e.2.state = 2) ∧
    (let r := cmdRec 0x020C gramPs; let u := begun (cmdOn wSrv 0x020C gramPs) 3 1; let g := grammarOfParams r
     Starts (cmdOn wSrv 0x020C gramPs) 3 1 0x020C r ∧ r.params.length = 65 ∧ r.par 1 1 = 1 ∧ r.zeros 2 3 = true ∧ r.zeros 21 4 = true ∧ r.zeros 49 16 = true ∧
     1 ≤ g.vocab ∧ g.vocab ≤ 262144 ∧ 1 ≤ g.states ∧ g.states ≤ 65536 ∧ g.start < g.states ∧
     (∀ a ∈ gRanges g, usableRange u a.1 a.2 = true ∧ badRange u a.1 a.2 = false) ∧ (∀ n < g.states, gStateOk u g n = true) ∧ (∀ n < g.trans, gTransOk u g n = true) ∧
     NMap.find? u.srv.grammars (r.par 0 1) = none) ∧
    (let b := { wSrv with srv := { wSrv.srv with grammars := [(255, ⟨1, 1, 0, 1, 1, 0, 0, 0, 0⟩)] } }; let r := cmdRec 0x020D [255]
     Starts (cmdOn b 0x020D [255]) 3 1 0x020D r ∧ r.params.length = 1 ∧
     ∃ g, NMap.find? (begun (cmdOn b 0x020D [255]) 3 1).srv.grammars (r.par 0 1) = some g ∧ g.refs = 0) := by
  have h : ∀ (b : State) (op : Nat) (ps : List Byte) (P : Prop), b.ras.state = 0 → P → Starts (cmdOn b op ps) 3 1 op (cmdRec op ps) ∧ P :=
    fun b op ps _ h hp => ⟨cmdOn_starts b op ps h, hp⟩
  refine ⟨?_, h _ _ _ _ rfl ?_, h _ _ _ _ rfl ?_, h _ _ _ _ rfl ?_, h _ _ _ _ rfl ⟨rfl, _, rfl, rfl⟩⟩
  · intro op ho; fin_cases ho <;> exact h _ _ _ _ rfl (by decide +kernel)
  all_goals decide +kernel
theorem witness_ServingCommands_step : let b := wStep [] []
    (let r := cmdRec 0x0200 admitPs; let u := begun (cmdOn b 0x0200 admitPs) 3 1
     Starts (cmdOn b 0x0200 admitPs) 3 1 0x0200 r ∧ sliceOfRec u r = some 2 ∧ (stepOf u 2 (r.par 49 1)).isSome = true) ∧
    (let r := cmdRec 0x0201 entryPs; let u := begun (cmdOn b 0x0201 entryPs) 3 1
     Starts (cmdOn b 0x0201 entryPs) 3 1 0x0201 r ∧ (reqAt u (r.par 0 2)).entryGen = r.par 2 2 ∧
     (stepOf u (reqAt u (r.par 0 2)).slice (reqAt u (r.par 0 2)).pool).isSome = true) := by
  refine ⟨⟨cmdOn_starts _ _ _ rfl, ?_⟩, cmdOn_starts _ _ _ rfl, ?_⟩ <;> decide +kernel
-- 10 R232: a REQ_ADMIT takes entry 0, raises its ENTRY_GEN and queues it.
theorem test_reqAdmit : (match exec (.reqAdmit 3 1) (cmdOn wSrv 0x0200 admitPs) with
    | .next t => ((reqAt t 0).state, (reqAt t 0).reqId, (reqAt t 0).slice, (reqAt t 0).promptLen) | _ => (0, 0, 0, 0)) = (1, 9, 2, 1) := by decide +kernel


/-! ### Attention, moves -/

/-- The serving device with frame 0 of pool 255 GRANTED and frame 7 FREE, both in the deck. -/
def wPage : State := { wSrv with srv := { wSrv.srv with frames := [(frameKey 255 0, ⟨0x1000000, 0, 1, 1, 4, false, 0⟩), (frameKey 255 7, ⟨0x1007000, 0, 0, 0, 5, false, 0⟩)]
                                                        free := [(8 * 255, [7])] } }
/-- The descriptor of an ATTN of one sequence, one head of 64, one layer of pool 255. -/
def attnPs : List Byte := leBytes 4 0x4E545441 ++ leBytes 4 1 ++ [0, 0, 255, 0] ++ leBytes 2 64 ++ [1, 1] ++ leBytes 2 1 ++ leBytes 18 0 ++ leBytes 4 64 ++ leBytes 2 1 ++ leBytes 6 0 ++
  leBytes 8 0x60000 ++ leBytes 8 0x100000 ++ leBytes 8 0x110000 ++ leBytes 56 0
/-- The device with the table entry of that sequence: QTOK 1, KV_LEN 1, page list at 0x40000. -/
def wAttn : State := { wPage with mem := { wPage.mem with dev := [(0x40004, 4), (0x60004, 1), (0x6000C, 1), (0x60012, 4)] } }
theorem witness_AttentionCommands : 3 < 2 ^ 16 ∧ let r := cmdRec 0x0210 attnPs; let u := begun (cmdOn wAttn 0x0210 attnPs) 3 1
    let p := match poolAt u (r.par 10 1) with | some x => x.p | none => 16
    let table := (List.range (r.par 40 2)).map fun i => devRead u (r.par 48 8 + 32 * i) 32
    let globals := if (r.par 6 2).testBit 2 = true then (List.range 64).map fun i => devNat u (r.par 80 8 + 4 * i) 4 else []
    let seqs := table.map fun b => readSeq u b (r.par 10 1) p
    let c : AttnCmd := { q := 3, seq := 1, slice := (ctxAt u 5).slice, desc := r.params, p := p, globals := globals.takeWhile (· != 0xFFFFFFFF)
                         seqs := seqs, chains := [], sat := false, poison := false, lowband := false, rowsDone := 0, jobs := 0, pins := [] }
    let v := (List.range (r.par 40 2)).foldl (fun y i => startSeq y 3 1 i (pageIds y (table.getD i []) p)) { u with attn := u.attn ++ [c] }
    Starts (cmdOn wAttn 0x0210 attnPs) 3 1 0x0210 r ∧ sliceOfRec u r = some 2 ∧ servingCtx u 2 = some 5 ∧ ¬ (r.params.length = 128 ∧ r.par 0 4 = 0x4E545441 ∧ r.par 4 2 ≠ 1) ∧
    attnDescOk u r = true ∧ poolActive u (r.par 10 1) = true ∧ badRange u (r.par 48 8) (32 * r.par 40 2) = false ∧ globalsOk globals = true ∧
    (∀ b ∈ table, seqEntryOk u b p = true ∧ pagesNamed u b (r.par 10 1) p = true) ∧ (∀ x ∈ seqs, segsOk x.segs = true) ∧ ∃ b, findAttn v 3 1 = some b := by
  refine ⟨by decide, cmdOn_starts _ _ _ rfl, ?_, ?_, ?_, ?_, ?_, ?_, ?_, ?_, ?_, Option.isSome_iff_exists.mp ?_⟩ <;> decide +kernel
/-- An ATTN that runs, with one chain whose block is staged in the deck. -/
def attn0 : AttnCmd := { q := 3, seq := 1, slice := 2, desc := attnPs, p := 16, globals := [], seqs := [⟨0, 1, 0, 1, [], [0x1000000], 0⟩]
                         chains := [⟨7, 0, 0, 0, 3, [0], false, [(0, 2 ^ 48, 0x200000)], 0, [], [], [], []⟩], sat := false, poison := false, lowband := false, rowsDone := 0, jobs := 0, pins := [] }
theorem witness_AttentionCommands_enqueue :
    let s := { wAttn with attn := [attn0], dies := { wAttn.dies with images := [(1024 * 3 + 1023, ⟨1, 64, [], false, true, 15, 0⟩)], attnSet := [1023] } }
    ∃ h im, findAttn s 3 1 = some attn0 ∧ attn0.chains.find? (fun h => h.num == 7) = some h ∧ imageAt s h.die 1023 = some im ∧ servingCtx s attn0.slice = some 5 ∧
      chainStaged attn0 h = true ∧ 1023 ∈ s.dies.attnSet ∧ h.running = false ∧ 64 ≤ 64 ∧ im.length = 64 ∧ (NMap.getD s.dies.queues h.die []).length < 1024 :=
  ⟨_, _, rfl, rfl, rfl, by decide +kernel⟩
theorem witness_AttentionCommands_step : let s := wStep [attnPs] []
    NMap.find? s.srv.steps 767 = some (step0 [attnPs] []) ∧ servingCtx s (767 / 256) = some 5 ∧ (step0 [attnPs] []).descs[0]? = some attnPs ∧
    (step0 [attnPs] []).ended.length = 0 ∧ findAttn s (stepQ 767) 0 = none := by decide +kernel
/-- The descriptor of an ATTN_MERGE of a row of two parts. -/
def mergePs : List Byte := leBytes 4 0x47524D41 ++ leBytes 4 1 ++ leBytes 2 2 ++ leBytes 2 64 ++ leBytes 4 0 ++ leBytes 8 1 ++ leBytes 8 0x60000 ++ leBytes 8 0x110000 ++ leBytes 24 0
/-- The device with the table of those parts: the first here at 0x70000 with keys 0 to 64, the second on device 9 at 0 with keys from 64. -/
def wMerge : State := { wPage with mem := { wPage.mem with dev := [(0x60002, 7), (0x6000C, 64), (0x60015, 9), (0x60018, 64), (0x6001C, 128)] } }
theorem witness_AttentionCommands_merge : let r := cmdRec 0x0211 mergePs; let u := begun (cmdOn wMerge 0x0211 mergePs) 3 1
    let parts := (mergeParts u r).map fun p => (partAddr u p.1, p.2)
    let total := mergeBytes r.params
    let pieces := (((List.zip (List.range parts.length) parts).filter fun e => e.2.1 / 2 ^ 40 != u.fab.device).map fun e =>
      (List.range ((total + 4095) / 4096)).map fun i => (2 ^ 32 * e.1 + 4096 * i, e.2.1 + 4096 * i, min 4096 (total - 4096 * i))).flatten
    Starts (cmdOn wMerge 0x0211 mergePs) 3 1 0x0211 r ∧ sliceOfRec u r = some 2 ∧ servingCtx u 2 = some 5 ∧
    ¬ (r.params.length = 64 ∧ r.par 0 4 = 0x47524D41 ∧ r.par 4 2 ≠ 1) ∧ mergeDescOk u r = true ∧ badRange u (r.par 24 8) (16 * r.par 8 2) = false ∧
    (List.zipWith (fun (x y : Nat × Nat × Nat) => x.2.2 == y.2.1) parts (parts.drop 1)).all id = true ∧
    (∀ p ∈ parts, p.1 < 2 ^ 48 ∧ (p.1 / 2 ^ 40 = u.fab.device → usableRange u (p.1 % 2 ^ 40) (mergeBytes r.params) = true)) ∧
    (∀ p ∈ pieces, inPartition u (p.2.1 / 2 ^ 40) = true) ∧ pieces ≠ [] := by
  refine ⟨cmdOn_starts _ _ _ rfl, ?_⟩; decide +kernel

/-- A MOVE_RESERVE of device 9 for a request of 17 tokens, and a state with its move. -/
def resv0 : MoveReserve := ⟨9, 16383, 1023, 2, 77, 3, 16, 17, 0xFFFF, 0, 0xFFFF, [], 0⟩
theorem witness_MoveCommands_reserve : let u := clearMove (takeMsg (msgOf 0x0101 wPage) resv0.srcDev 0x0101) resv0
    let held := (List.range resv0.keys.length).map fun k => pfxFind u 255 (k + 1) (resv0.keys.getD k []) (some resv0.dstSlice)
    let xs : List (Nat × Nat × Bool) := [(7, 6, false)]
    let v := (movePages resv0.dstSlice 255 held (List.range ((resv0.len - 1 + resv0.p - 1) / resv0.p)) [] u).1
    let who := some (resv0.srcDev, resv0.srcIdx, resv0.srcGen % 1024)
    let locs := xs.map fun x => match frameAt v 255 x.1 with | some f => f.loc | none => 0
    let slot := landSlot (roleOf u resv0.dstSlice) 0
    headIs (msgOf 0x0101 wPage) resv0.srcDev 0x0101 = true ∧ u.ras.state = 0 ∧ tagAccepted u resv0.dstSlice resv0.jobTag = true ∧ inPartition u resv0.srcDev = true ∧ ((roleOf u resv0.dstSlice).role = 1 ∨ (roleOf u resv0.dstSlice).role = 3) ∧
    poolOf u resv0.model resv0.p = some 255 ∧ moveBinds u resv0 255 = true ∧ (liveOf u resv0.dstSlice).length < (quotaOf u resv0.dstSlice).entries ∧
    recsFull u resv0 = false ∧ freeEntry u = some 0 ∧
    movePages resv0.dstSlice 255 held (List.range ((resv0.len - 1 + resv0.p - 1) / resv0.p)) [] u = (v, some xs) ∧
    ∃ ga, addGrants v (((List.zip xs locs).filter fun e => !e.1.2.2 && isHere v e.2).map (fun e => Grant.mk resv0.srcDev (e.2 % 2 ^ 40) (pageBytesOf u 255) who none u.tkp.now) ++
      [⟨resv0.srcDev, slot.1, (roleOf u resv0.dstSlice).landStride, who, none, u.tkp.now⟩]) = (ga, true) := by
  refine ⟨?_, ?_, ?_, ?_, ?_, ?_, ?_, ?_, ?_, ?_, Prod.ext rfl ?_, _, Prod.ext rfl ?_⟩ <;> decide +kernel
/-- A MOVING request whose source side is in a phase. -/
def wMov (ph : Nat) : State :=
  let b := wReq { req0 with state := 3, entryGen := 1023, pages := [(0, 4)], pageCount := 1 }
  { b with mov := { b.mov with src := [(16383, ⟨0x0209, 0, 900, ph, ⟨0, 0, 0, [], [], 0, 0⟩, []⟩)] } }
theorem witness_MoveCommands_source :
    (let u := takeMsg (msgOf 0x0102 (wMov 1)) (0x0209 % 256) 0x0102
     headIs (msgOf 0x0102 (wMov 1)) (0x0209 % 256) 0x0102 = true ∧ (∃ y, NMap.find? (wMov 1).mov.src 16383 = some y ∧ y.phase = 1 ∧ y.phase ≠ 2 ∧ y.sentTick + 80 ≤ (wMov 1).tkp.now) ∧ (reqAt u 16383).state = 3 ∧
     [2 ^ 40 * 9].length = (reqAt u 16383).pages.length ∧ (reqAt (wMov 1) 16383).state = 3) ∧
    (let u := takeMsg (msgOf 0x0104 (wMov 3)) (0x0209 % 256) 0x0104; headIs (msgOf 0x0104 (wMov 3)) (0x0209 % 256) 0x0104 = true ∧ (reqAt u 16383).state = 3 ∧ (reqAt u 16383).entryGen % 1024 = 1023 % 1024) ∧
    (let s := { wReq req0 with mov := { wOn.mov with roles := [(2, { role := 0, targets := [0x0209] })], failStreak := [(16383, (1, 999))] } }
     let f := NMap.getD s.mov.failStreak 16383 (0, 0); let x := reqAt s 16383
     s.tkp.beat = 0 ∧ x.state = 2 ∧ x.prefillPos = x.promptLen ∧ x.recompute = false ∧ 1 ≤ x.genLen ∧ (roleOf s x.slice).role = 0 ∧ 0 < f.1 ∧ f.2 < s.tkp.now) ∧
    (let r := cmdRec 0x0206 [9]; Starts (cmdOn wPage 0x0206 [9]) 3 1 0x0206 r ∧ r.params.length = 1) := by
  refine ⟨⟨by decide +kernel, ⟨_, rfl, by decide +kernel⟩, by decide +kernel⟩, by decide +kernel, by decide +kernel, cmdOn_starts _ _ _ rfl, rfl⟩
/-- The entry that a MOVE_COMMIT carries for a reserved entry of REQ_ID 77 and one page. -/
def commitB : List Byte := leBytes 4 3 ++ leBytes 4 77 ++ leBytes 24 0 ++ leBytes 4 1 ++ leBytes 4 8 ++ leBytes 2 0xFFFF ++ leBytes 2 0 ++ leBytes 2 0xFFFF ++ leBytes 82 0
theorem witness_MoveCommands_commit :
    let b := wReq { req0 with state := 9, reqId := 77, pageCount := 1 }
    let z : MoveRec := ⟨9, 4, 1, 16383, 0, 2, 0⟩
    let s := msgOf 0x0103 { b with mov := { b.mov with recs := [z] } }
    let u := takeMsg s 9 0x0103
    headIs s 9 0x0103 = true ∧ headIs (msgOf 0x0105 s) 9 0x0105 = true ∧ headIs (msgOf 0x0106 s) 9 0x0106 = true ∧
    headIs (msgOf 0x0107 s) 9 0x0107 = true ∧ u.ras.state = 0 ∧ findMove u 9 4 1025 = some z ∧ z.outcome = 0 ∧ entryFits (reqAt u z.dstIdx) commitB = true := by decide +kernel

/-! ### Prefixes -/

/-- The serving device with an index entry of frame 0, depth 1 and a key. -/
def wPfx (k : List Byte) : State := { wPage with mov := { wPage.mov with index := [⟨255, k, 1, 0, 1, 990, false, none⟩] } }
/-- The key of a page of 16 zero tokens of model 3. -/
def pfxKey0 : List Byte := prefixKey 3 16 (List.replicate 16 0)
/-- The parameters of a prefix command of pool 255 with a device or flag byte and a length or depth, of tokens at 0x70000. -/
def pfxPs (d n : Nat) : List Byte := [255, BitVec.ofNat 8 d] ++ leBytes 2 0 ++ leBytes 4 n ++ leBytes 8 0x70000
/-- What the clauses of the prefix commands share. -/
def pfxPre (u : State) (r : JRec) : Prop := sliceOfRec u r = some 2 ∧ servingCtx u 2 = some 5 ∧ r.params.length = 16 ∧ r.zeros 2 2 = true ∧
  poolActive u (r.par 0 1) = true ∧ r.par 8 8 % 64 = 0
/-- The range of a prefix command can be read. -/
def pfxRead (u : State) (r : JRec) (n : Nat) : Prop := 1 ≤ n ∧ n < 2 ^ 24 ∧ usableRange u (r.par 8 8) (4 * n) = true ∧ badRange u (r.par 8 8) (4 * n) = false
theorem witness_PrefixCommands :
    (let r := cmdRec 0x0214 (pfxPs 1 1); let s := cmdOn wPage 0x0214 (pfxPs 1 1); let u := begun s 3 1
     pfxPre u r ∧ Starts s 3 1 0x0214 r ∧ pfxRead u r (r.par 4 4) ∧ r.par 1 1 ≤ 1) ∧
    (let r := cmdRec 0x0215 (pfxPs 9 1); let s := cmdOn wPage 0x0215 (pfxPs 9 1); let u := begun s 3 1
     pfxPre u r ∧ Starts s 3 1 0x0215 r ∧ pfxRead u r (r.par 4 4 * poolP u (r.par 0 1)) ∧ inPartition u (r.par 1 1) = true) := by
  unfold pfxPre pfxRead
  refine ⟨⟨by decide +kernel, cmdOn_starts _ _ _ rfl, by decide +kernel⟩, ⟨by decide +kernel, cmdOn_starts _ _ _ rfl, by decide +kernel⟩⟩
theorem witness_PrefixCommands_publish : let r := cmdRec 0x0216 (pfxPs 9 1); let s := cmdOn (wPfx pfxKey0) 0x0216 (pfxPs 9 1); let u := begun s 3 1
    pfxPre u r ∧ Starts s 3 1 0x0216 r ∧ pfxRead u r (r.par 4 4 * poolP u (r.par 0 1)) ∧ inPartition u (r.par 1 1) = true ∧
    (let run := pfxRun u (r.par 0 1) (some 2) 1 (arrayKeys u (r.par 0 1) (r.par 8 8) (r.par 4 4 * poolP u (r.par 0 1)))
     r.par 4 4 ≤ run.length ∧ ∃ v, holdFrames (r.par 0 1) (run.map (·.frame)) u = (v, true)) := by
  intro r s u
  have h1 : arrayKeys u (r.par 0 1) (r.par 8 8) (r.par 4 4 * poolP u (r.par 0 1)) = [pfxKey0] := by
    have a : r.par 0 1 = 255 := by decide +kernel
    have b : r.par 8 8 = 0x70000 := by decide +kernel
    have c : r.par 4 4 = 1 := by decide +kernel
    have d : poolP u 255 = 16 := by decide +kernel
    have e : (List.range (1 * 16)).map (fun i => devNat u (0x70000 + 4 * i) 4) = List.replicate 16 0 := by decide +kernel
    have f : (poolAt u 255).map (fun p => (p.model, p.p)) = some (3, 16) := by decide +kernel
    rw [a, b, c, d, arrayKeys]
    cases g : poolAt u 255 with
    | none => rw [g] at f; cases f
    | some p =>
      rw [g] at f; simp only [Option.map_some, Option.some.injEq, Prod.mk.injEq] at f
      simp only [f.1, f.2, e]; rfl
  have h2 : pfxRun u (r.par 0 1) (some 2) 1 [pfxKey0] = [⟨255, pfxKey0, 1, 0, 1, 990, false, none⟩] := by
    have a : r.par 0 1 = 255 := by decide +kernel
    have : u.mov.index = [⟨255, pfxKey0, 1, 0, 1, 990, false, none⟩] := rfl
    have hit : pfxAbsent u ⟨255, pfxKey0, 1, 0, 1, 990, false, none⟩ = false := by
      show pfxAbsent u ⟨255, [], 1, 0, 1, 990, false, none⟩ = false
      decide +kernel
    simp [a, pfxRun, pfxFind, this, pfxHit, pfxVisible, hit]
  refine ⟨by unfold pfxPre; decide +kernel, cmdOn_starts _ _ _ rfl, by unfold pfxRead; decide +kernel, by decide +kernel, ?_⟩
  rw [h1, h2]
  exact ⟨by decide +kernel, _, Prod.ext rfl (by decide +kernel)⟩
/-- A cache device: slice 2 has the role CACHE. -/
def wCache (b : State) : State := { b with mov := { b.mov with roles := [(2, { role := 2 })] } }
/-- The index entry of wPfx. -/
def pfxE (k : List Byte) : PfxEntry := ⟨255, k, 1, 0, 1, 990, false, none⟩
theorem witness_PrefixMessages :
    (let s := msgOf 0x0110 (wCache (wPfx [1])); let u := takeMsg s 9 0x0110; headIs s 9 0x0110 = true ∧ remoteRun u 3 16 [[1]] = some (255, [pfxE [1]])) ∧
    (let s := msgOf 0x0112 (wCache (wPfx [1])); let u := takeMsg s 9 0x0112
     headIs s 9 0x0112 = true ∧ remoteRun u 3 16 ([[1], [2]].take 1) = some (255, [pfxE [1]]) ∧ 1 ≤ [pfxE [1]].length ∧ 1 ≤ 1 ∧
     ∃ v, holdFrames 255 ([pfxE [1]].map (·.frame)) (pfxUse u [pfxE [1]]) = (v, true)) ∧
    (let s := msgOf 0x0113 (wCache wPage); let u := takeMsg s 9 0x0113
     headIs s 9 0x0113 = true ∧ servesCache u = true ∧ inPartition u 9 = true ∧ poolOf u 3 16 = some 255 ∧ ∃ v, offerFrames true 255 (List.range 1) u = (v, some [7]) ∧
     let h := addLease v { dev := 9, pool := 255, frames := [7], until_ := u.tkp.now + 800, keys := [[1], [2]].take 1 }
     ∃ ga, addGrants h.1 (((locsOf v 255 [7]).filter (isHere u)).map fun a => ⟨9, a % 2 ^ 40, pageBytesOf u 255, none, some h.2, u.tkp.now⟩) = (ga, true)) ∧
    (let s := msgOf 0x0112 { wPage with mov := { wPage.mov with leases := [(4, ⟨9, 255, [0], 1000, [[1]]⟩)] } }; let u := takeMsg s 9 0x0112
     headIs s 9 0x0112 = true ∧ (∃ l, NMap.find? u.mov.leases 4 = some l ∧ l.dev = 9) ∧ ∃ l, NMap.find? s.mov.leases 4 = some l ∧ l.until_ ≤ s.tkp.now ∧ 4 ≠ 0) ∧
    (∀ op ∈ [0x0214, 0x0215, 0x0216], let o : PfxOp := ⟨3, 1, op, 255, 2, 1, [[1]], (0, []), [9], [9], [], 9, 0, [0], [], 990⟩
     let s := msgOf 0x0111 { wPage with mov := { wPage.mov with ops := [o] } }; let u := takeMsg s 9 0x0111
     headIs s 9 0x0111 = true ∧ findPfx u 3 1 = some o ∧ (op = 0x0214 → o.opcode = 0x0214) ∧ (op ≠ 0x0214 → o.opcode ≠ 0x0214 ∧ o.dev = 9 ∧ o.lease = 0 ∧ o.depth ≤ 1 ∧ [2 ^ 40 * 9].length = o.depth)) := by
  refine ⟨by decide +kernel, ⟨by decide +kernel, by decide +kernel, by decide, by decide, _, Prod.ext rfl (by decide +kernel)⟩,
    ⟨by decide +kernel, by decide +kernel, by decide +kernel, by decide +kernel, _, Prod.ext rfl (by decide +kernel), _, Prod.ext rfl (by decide +kernel)⟩,
    ⟨by decide +kernel, ⟨_, rfl, rfl⟩, _, rfl, by decide +kernel⟩, by decide +kernel⟩

/-! ### Ports, transfers, flash -/

/-- The device with port 7 in a state. -/
def wPort (w : WPort) : State := { wSrv with fab := { wSrv.fab with ports := [(7, w)], grants := [(5, ⟨9, 0x1000, 64, none, none, 200⟩)] } }
/-- A FAB_XFER of one LOAD of 64 bytes from device 9 at port 7. -/
def xferPs : List Byte := leBytes 8 7 ++ leBytes 2 1 ++ leBytes 6 0 ++ leBytes 8 0x60000 ++ leBytes 8 0x61000 ++ leBytes 8 0 ++
  leBytes 1 1 ++ leBytes 1 0 ++ leBytes 2 64 ++ leBytes 4 0 ++ leBytes 8 (9 * 2 ^ 40) ++ leBytes 8 0x70000 ++ leBytes 8 0
/-- The rest of an empty flit after its FHDR has 252 bytes, and its FCRC is that of the flit. -/
theorem flit_rest (f k ty : Nat) : let rest := (flitBytes f k ty []).drop 4
    rest.length = 252 ∧ crc32c (flitHead f k ty ++ rest.take 248) = BitVec.ofNat 32 (fieldAt rest 248 4) := by
  have hl : (flitHead f k ty).length = 4 := rfl
  have hz : ∀ z, List.replicate (248 - ([] : List Byte).length) (0 : Byte) = z → z.length = 248 := fun z h => h ▸ List.length_replicate
  have hv : ∀ c : W32, leNat (leBytes 4 c.toNat) = c.toNat := by
    intro c; have := c.isLt; simp only [leNat, leBytes, BitVec.toNat_ofNat]; omega
  have h4 : ∀ v, (leBytes 4 v).length = 4 := fun _ => rfl
  unfold flitBytes
  generalize hg : List.replicate (248 - ([] : List Byte).length) (0 : Byte) = z
  have hzl := hz z hg
  clear hg
  simp [hl, hzl, h4, fieldAt, hv, List.take_of_length_le]
theorem witness_PortsAndTransfers :
    (let s := wPort { state := 2, rxSeq := 4095, store := [(0, []), (4095, [])], resendOf := some (0, 6) }; let w := wport s 7
     w.state = 2 ∧ (3 : Nat) < 4 ∧ 4095 = w.rxSeq ∧ 0 < (0 + 4096 - w.rxSeq) % 4096 ∧ (0 + 4096 - w.rxSeq) % 4096 < 512 ∧
     nextTry w.resendOf ((4095 + 1) % 4096) < 8 ∧ (∃ z ∈ w.store, z.1 = (4095 + 1) % 4096)) ∧
    (wport (wPort { state := 1 }) 7).state = 1 ∧
    (∃ g, NMap.find? (wPort {}).fab.grants 5 = some g ∧ g.offered + 800 ≤ (wPort {}).tkp.now) ∧
    (let r := cmdRec 0x0410 xferPs; let s := cmdOn (wPort { state := 2 }) 0x0410 xferPs; let u := begun s 3 1; let n := r.par 8 2
     let ctx := (sliceOfRec u r).bind (servingCtx u)
     Starts s 3 1 0x0410 r ∧ 1 ≤ n ∧ n ≤ 1024 ∧ r.params.length = 40 + 32 * n ∧ r.par 0 1 ≤ 7 ∧ r.zeros 1 7 = true ∧ r.zeros 12 4 = true ∧
     r.zeros 32 8 = true ∧ usableRange u (r.par 16 8) (2 * n) = true ∧ usableRange u (r.par 24 8) 8 = true ∧ (r.pasid ≠ none → ctx ≠ none)) := by
  refine ⟨by decide +kernel, by decide +kernel, ⟨_, rfl, by decide +kernel⟩, cmdOn_starts _ _ _ rfl, by decide +kernel⟩
/-- The device with the flash tier ACTIVE and its superblocks. -/
def wFla (bs : NMap SuperBlk) (f : Frame) : State :=
  { wSrv with fla := { wSrv.fla with state := 0, sbs := bs }, srv := { wSrv.srv with frames := [(frameKey 255 0, f)] } }
theorem witness_FlashEvents :
    (∃ f, frameAt (wFla [] ⟨0x1000000, 1, 2, 1, 4, false, 0⟩) 255 0 = some f ∧ f.state = 2 ∧ f.tier ≤ 1 ∧ f.retired = false) ∧
    (∃ f, frameAt (wFla [] ⟨4096, 3, 1, 1, 4, false, 0⟩) 255 0 = some f ∧ f.state = 1 ∧ f.tier = 3 ∧ f.retired = false) ∧
    (let s := wFla [(9, ⟨2, List.replicate 16 3, 0, 3⟩)] ⟨0x1000000, 1, 1, 1, 4, false, 0⟩
     (∃ b, NMap.find? s.fla.sbs 9 = some b ∧ b.state = 2) ∧ liveIn s 9 = [] ∧
     s.fla.state ≠ 3 ∧ relocating s = [] ∧ ((flashFrames s).any fun e => sbOf e.2 == 9) = false ∧ (s.fla.sbs.filter fun (b : Nat × SuperBlk) => b.2.state == 0).length < 4 ∧
     ∃ n, (s.fla.sbs.filter fun (b : Nat × SuperBlk) => b.2.state == 2).foldl (fun (m : Option (Nat × Nat)) b =>
          let k := (liveIn s b.1).length
          match m with | none => some (b.1, k) | some x => if k < x.2 then some (b.1, k) else some x) none = some (9, n)) := by
  refine ⟨⟨_, rfl, by decide +kernel⟩, ⟨_, rfl, by decide +kernel⟩, ⟨_, rfl, by decide +kernel⟩, by decide +kernel, by decide +kernel, by decide +kernel, by decide +kernel, by decide +kernel, 0, by decide +kernel⟩

/-! ### Radio -/

/-- The device with a cell of numerology 3 on FH7, which a PHY of the given arrivals owns. -/
def cell0 : Cell := { bind_ := some { port := 7, catB := false, frameOffset := 0, dl := 1, ul := 1, prachThr := 0, prachPmr := 0, eaxc := [1, 2], harqBase := 0, harqMib := 0, agcPtr := 0 }
                      cfg := some { mu := 3, carriers := 1, prbs := 273, fdd := false, tdd := [(10, 2)], dlLayers := 1, ulLayers := 1, dlMod := 10, ulMod := 8
                                    channels := [.ssb, .pusch, .pucch 4], samplesPer10ms := 12288 } }
def phy0 : Phy := { entries := 256, reqRing := 0x1000, indRing := 0x2000, msgBase := 0x200000, msgBytes := 0x200000, cells := BitVec.ofNat 192 (2 ^ 191), indTail := 0, indHead := 0
                    reqTail := 1, reqHead := 0, arrivals := [1000], closing := none }
def wRad (c : Cell) : State := { wOn with fh := [(7, port0)], rad := { wOn.rad with phys := [(7, phy0)], cells := [(191, c)] } }
/-- The same device in a beat of the launch counter. -/
def wRadAt (c : Cell) (b : Nat) : State := { wRad c with tkp := { wOn.tkp with now := b / 1250, beat := b % 1250 } }
/-- The same device with a message of an ID and length in the ring of PHY 7. -/
def wMsg (c : Cell) (id len : Nat) : State := { wRad c with mem := { wOn.mem with host := hostAt 0x1000 (leBytes 8 0x200000 ++ leBytes 4 len ++ leBytes 2 id) } }
/-- A frame without errors of an EtherType. -/
def frm0 (ty : Nat) : FhFrame := ⟨some (0x8100, 0), false, ty, 0, true, 1, false, 0, false, 1, 0, 0, [], 0, 0, 0, []⟩
theorem witness_FronthaulEvents :
    (let s := wRad {}; let x := fhAt s 7
     portWorks s 7 = true ∧ ({ frm0 0xAEFE with fcsOk := false } : FhFrame).fcsOk = false ∧
     (frm0 0xAEFE).fcsOk = true ∧ vlanBad x (frm0 0xAEFE) = false ∧ (frm0 0xAEFE).etherType = 0xAEFE ∧ x.kind.applied = 0 ∧
     (frm0 0x88F7).etherType = 0x88F7 ∧ vlanBad x (frm0 0x88F7) = false ∧ vlanBad x { frm0 0xAEFE with twoTags := true } = true) ∧
    (let s := { wRad {} with fh := [(7, { port0 with kind := ⟨1, 1, 1⟩ })] }; let x := fhAt s 7
     portWorks s 7 = true ∧ vlanBad x (frm0 0xFC3D) = false ∧ (frm0 0xFC3D).etherType = 0xFC3D ∧ x.kind.applied = 1) ∧
    (let s := { wRad {} with fh := [(7, { port0 with linkUp := false, linkDowns := 1, trainAt := some 1000 })], tkp := { wOn.tkp with now := 9000 } }; let x := fhAt s 7
     x.linkUp = false ∧ x.mode.applied ≠ 0 ∧ laneMerged s 7 = false ∧ x.trainAt = some 1000 ∧ 1000 + 8000 ≤ s.tkp.now) := by decide +kernel
theorem witness_FronthaulEvents_close :
    (let s := wRadAt { cell0 with active := true, closed := [16 * 990] } 1251000; let z := cellAt s 191
     z.active = true ∧ 16 * 999 + 13 ∉ z.closed ∧ slotPhase z 999 = 0 ∧ launch s = closeBeat s z (16 * 999 + 13)) ∧
    (let v : Cell := { cell0 with active := true, closed := [16 * 960 + 1], recv := [(tdKey 960 2 0, List.replicate 256 (256, 0))] }
     let s : State := { wRad v with fh := [(7, { port0 with kind := ⟨1, 1, 1⟩ })] }
     let x := fhAt s 7
     cellOfEaxc s 7 2 = some (191, v) ∧ v.bind_.isSome = true ∧ x.kind.applied = 1 ∧ x.linkUp = true ∧ 16 * 960 + 1 ∈ v.closed ∧
     (NMap.getD s.rad.streams (256 * 7 + 2) {}).last < 16 * 960 + 1 ∧
     measured ((symSamples v x 2 (16 * 960 + 1)).map fun z => z.getD (0, 0)) (symSpan v (16 * 960 + 1)).2.2 (-85) 0 256 = true ∧
     ((symSamples v x 2 (16 * 960 + 1)).any fun z => z.isNone) = false) := by decide +kernel
theorem witness_FronthaulEvents_launch :
    (let s := wRadAt { cell0 with active := true } 1247000; let z := cellAt s 191
     cplaneSlot s z = some 1000 ∧ onPort s 7 191 = true ∧ silentCell z = false ∧ (fhAt s 7).kind.applied ≠ 1 ∧ (fhAt s 7).uAt.1 ≠ launch s + 1 ∧
     portWorks s 7 = true ∧ portWorks { s with fh := [(7, { port0 with linkUp := false })] } 7 = false) ∧
    (let s := wRadAt { cell0 with active := true } 1248665; let z := cellAt s 191
     launch s = uplaneBeat s z (launchAir s z (16 * 1000 + 13)) ∧ onPort s 7 191 = true ∧ silentCell z = false ∧ (fhAt s 7).uAt.1 ≠ launch s + 1) := by
  decide +kernel
/-- A FAPI message of the cell for the slot of a tick, with one PDSCH. -/
def fapi0 (a : Nat) : FapiMsg := { bareMsg 7 191 with sfn := a / 80, slot := a % 80, dls := [⟨.pdsch, 1, [], [], { op := 2, bg := 1, zc := 2, rows := 4, iter := 1, length := 1, inp := 0, out := 0, polarN := 0, polarK := 0, crc := 0 }, 1, [], []⟩] }
/-- The state and the cell once the entry of the ring has been taken. -/
def wTaken (s : State) : State :=
  modCell { s with rad := { s.rad with phys := NMap.insert s.rad.phys 7 { phy0 with arrivals := [], reqHead := 1 } } } 191 fun c => { c with phy := some 7 }
/-- The body of a CELL_BIND for cell 191, and of a TWILIGHT_CFG of 600 s and 4 SI. -/
def bind0 : List Byte := leBytes 2 191 ++ leBytes 1 7 ++ leBytes 1 0 ++ leBytes 4 81919 ++ leBytes 2 8 ++ leBytes 2 8 ++ leBytes 12 0 ++ leBytes 8 0x200000 ++ leBytes 4 2 ++ leBytes 12 0
def tw0 : List Byte := leBytes 2 600 ++ leBytes 1 4 ++ leBytes 1 0 ++ leBytes 4 0xFFFFFF ++ leBytes 56 0
theorem witness_FapiConfiguration :
    (∀ id ∈ [0x00, 0x02, 0x04, 0x05, 0x80, 0x81, 0x83, 0x84, 0x180, 0x181],
      entryId phy0 (ringEntry (wMsg cell0 id 56) phy0) = some id) ∧ entryId phy0 (ringEntry (wMsg cell0 0x06 56) phy0) = none ∧
    (let s := wMsg cell0 0x04 56; let u := wTaken s
     s.rad.noL2Bus = false ∧ phy0.arrivals = [1000] ∧ NMap.find? s.rad.phys 7 = some phy0 ∧ phy0.cells.getLsbD 191 = true ∧ 191 < 192 ∧
     (cellAt u 191).active = false ∧ (cellAt u 191).settled.started = false ∧ startOk u 191 = true ∧
     bindOk u 191 bind0 = true ∧ twilightOk tw0 = true) ∧
    (let s := wMsg { cell0 with active := true } 0x05 56; (cellAt (wTaken s) 191).settled.active = true) := by decide +kernel
theorem witness_FapiSlots : (∀ n ∈ [1014, 1084],
    let s := wMsg { cell0 with active := true } 0x80 56
    let u := wTaken s
    let c := cellAt u 191
    let a := slotNamed u c (fapi0 n).sfn (fapi0 n).slot 1000
    s.rad.noL2Bus = false ∧ phy0.arrivals = 1000 :: [] ∧ NMap.find? s.rad.phys 7 = some phy0 ∧ phy0.cells.getLsbD 191 = true ∧ c.started = true ∧
    (fapi0 n).sfn < 1024 ∧ (fapi0 n).slot < 80 / slotTicks c.mu ∧ a ∉ c.late ∧ c.startAt = none ∧ c.stopAt = none ∧ a ≤ 1000 + 80 + leadTicks u c ∧
    1000 + 10 + leadTicks u c ≤ a ∧ 1000 + leadTicks u c ≤ a) ∧
    (let s := wRad { cell0 with active := true, stopAt := some 1000, runStart := some 0, mode := 2 }; let x := cellAt s 191
     x.started = true ∧ 1014 ≤ s.tkp.now + 10 + leadTicks s x ∧ NMap.find? x.dl 1014 = none ∧ 1014 ∉ x.late ∧ x.stopAt = some 1000 ∧ 1000 ≤ s.tkp.now ∧
     x.runStart = some 0 ∧ x.mode = 2) ∧
    (let s := { wRad { cell0 with active := true, runStart := some 0, mode := 2 } with tkp := { wOn.tkp with now := 4800000 } }; let x := cellAt s 191
     0 + x.holdS * 8000 ≤ s.tkp.now) ∧
    (let s := wRad { cell0 with active := true, dl := [(1004, fapi0 1004)] }; let x := cellAt s 191
     NMap.find? x.dl 1004 = some (fapi0 1004) ∧ 1004 ≤ s.tkp.now + leadTicks s x ∧ x.started = true ∧ 1004 ∉ x.late ∧ 1004 ∉ x.noData) ∧
    (let s := wRad { cell0 with startAt := some 1000 }; (cellAt s 191).startAt = some 1000 ∧ 1000 ≤ s.tkp.now) := by decide +kernel
/-- The parameters of RAD_L2_OPEN for PHY 7 with cell 191 and rings of 4,096 entries. -/
def l2Ps : List Byte := leBytes 2 7 ++ leBytes 2 4096 ++ leBytes 4 0 ++ leBytes 8 0x1000000 ++ leBytes 8 0x1100000 ++ leBytes 8 0x1200000 ++ leBytes 4 0x200000 ++ leBytes 4 0 ++
  leBytes 24 (2 ^ 191)
theorem witness_FapiSlots_rings :
    (let r := cmdRec 0x0300 l2Ps; let s := cmdOn wOn 0x0300 l2Ps; let u := begun s 3 1
     Starts s 3 1 0x0300 r ∧ l2Ok u r = true ∧ NMap.find? u.rad.phys (r.par 0 1) = none ∧
     (∀ e ∈ u.rad.phys, e.2.cells &&& BitVec.ofNat 192 (r.par 40 24) = 0)) ∧
    (let r := cmdRec 0x0301 [7]; let s := cmdOn (wRad cell0) 0x0301 [7]; let u := begun s 3 1
     Starts s 3 1 0x0301 r ∧ NMap.find? u.rad.phys (r.par 0 1) = some phy0 ∧ r.params.length = 1 ∧ phy0.closing = none) :=
  ⟨⟨cmdOn_starts _ _ _ rfl, by decide +kernel⟩, cmdOn_starts _ _ _ rfl, by decide +kernel⟩

/-! ### Fabric -/

/-- A packet of device 9 for this device. -/
def pkt0 : Packet := { op := 0x10, retry := false, comb := false, prot := false, merged := false, src := 9, dst := 0, psn := 5, epoch := 2, path := 1, jobTag := 0, len := 64
                       status := 0, addr := 0x1000, stamp := 1245000, payload := [], rsvFlags := 0, rsvStamp := 0, ecrc := 0 }
/-- A packet with the ECRC of its bytes. -/
def sealed (p : Packet) : Packet := { p with ecrc := packetCrc p }
theorem sealed_crc (p : Packet) : (sealed p).ecrc = packetCrc (sealed p) := rfl
/-- A request of this device to device 9 that has no response. -/
def outR (op stamp : Nat) : OutReq := ⟨{ pkt0 with op := op, src := 0, dst := 9, stamp := stamp }, 1249800, 7, 0, none, 3, none, false⟩
/-- The device with port 7 UP, two paths to device 9, that request, and a transfer list. -/
def wFab (o : OutReq) : State :=
  { wSrv with fab := { wSrv.fab with
      ports := [(7, { state := 2, lists := [⟨1, none, 2, some 5, 0, 0, [⟨1, 0, false, 64, 9 * 2 ^ 40, 0x70000, 0⟩], 0, none, [none], some (3, 1)⟩] })]
      paths := [(9, [⟨7, 1, 0, false, true⟩, ⟨7, 2, 0, false, false⟩])], tx := [(9, { epoch := 2, outst := [o] })]
      rx := [(9, { epoch := 2, expect := 5, runs := [⟨3, 4, 1249990, 1⟩] })] } }
/-- A LOAD, a STORE, an ATOMIC and an ACC_L of that packet. -/
def memPkts : List Packet :=
  [{ pkt0 with op := 0x10 }, { pkt0 with op := 0x11, payload := leBytes 64 1 }, { pkt0 with op := 0x12, payload := leBytes 24 (2 ^ 16) },
   { pkt0 with op := 0x13, payload := leBytes 32 0 }].map sealed
/-- The device whose first region device 9 owns, with combine results at port 7. -/
def wOwn (cs : List (Nat × Nat × Nat × W64 × List Byte)) : State :=
  let s := wFab (outR 0x11 1249000)
  { s with fab := { s.fab with regions := [(0, { valid := true, owner := 9 })], ports := [(7, { state := 2, comb := cs })] } }
theorem memPkts_sealed : ∀ p ∈ memPkts, p.ecrc = packetCrc p := by
  intro p h
  obtain ⟨q, _, rfl⟩ := List.mem_map.mp h
  rfl
theorem witness_FabricRequests :
    (let s := wOwn []
     (wport s 7).state = 2 ∧ (rxAt s 9).runs = [⟨3, 4, 1249990, 1⟩] ∧ 1249990 + 10 ≤ launch s ∧ (NMap.getD s.fab.inbox 9 []).length < 64 ∧
     ∀ p ∈ memPkts, inPartition s p.src = true ∧ p.prot = s.fab.prot ∧ p.comb = false ∧ (rxAt s p.src).lost = false ∧ p.epoch = (rxAt s p.src).epoch ∧
       p.psn = (rxAt s p.src).expect ∧ p.psn < 2 ^ 32 ∧ NMap.find? (rxAt s p.src).buf p.psn = none ∧ launch s ≤ p.stamp + 10000 ∧ memCheck s p = stOk ∧
       (p.op = 0x11 → (devWrite s (p.addr % 2 ^ 40) p.payload).2 = true)) ∧
    (∀ p ∈ memPkts, memCheck (wFab (outR 0x11 1249000)) p = stDenied ∧ stDenied ≠ stOk ∧ stDenied ≠ stDeviceFault) ∧
    (let b := leBytes 8 0x0106; 8 ≤ b.length ∧ b.length ≤ 4096 ∧ fieldAt b 2 2 = 0 ∧ fieldAt b 0 2 ∈ msgClasses ∧ headOk pkt0 = true ∧ pkt0.jobTag = 0) ∧
    (∀ p ∈ memPkts, p.op ≠ 0x11 → memCheck (wOwn []) { p with comb := true } = stOk ∧
      ((wport (wOwn []) 7).comb.find? fun c => c.1 == p.src && c.2.1 == p.psn).isNone = true ∧
      ((wport (wOwn [(9, 5, stOk, 8, [8])]) 7).comb.find? fun c => c.1 == p.src && c.2.1 == p.psn).map (fun c => c.2.2.1) = some stOk) := by
  refine ⟨?_, ?_, ?_, ?_⟩ <;> decide +kernel
theorem witness_FabricResponses :
    (let s := wFab (outR 0x12 1249000)
     (wport s 7).state = 2 ∧ inPartition s pkt0.src = true ∧ pkt0.op = 0x10 ∧ (txAt s pkt0.src).epochAsk = none ∧
     (txAt s pkt0.src).outst.find? (fun o => o.pkt.op == 0x12 && o.pkt.psn == pkt0.psn) = some (outR 0x12 1249000) ∧
     (∃ z ∈ pathsOf s pkt0.src, z.index = pkt0.path ∧ z.port = 7 ∧ z.probed = true) ∧ (∀ z ∈ pathsOf s pkt0.src, z.index = 2 → z.probed = false)) ∧
    (let o := outR 0x11 1249000; let s := wFab o
     (txAt s 9).epochAsk = none ∧ (txAt s 9).outst.find? (fun o => o.pkt.psn == 5 % 2 ^ 32 && o.pkt.comb == decide (2 ^ 32 ≤ 5)) = some o ∧
     o.sentAt + 200 ≤ launch s ∧ launch s < o.pkt.stamp + 9000 ∧ o.pkt.stamp ≤ launch s ∧
     healthyTo (if o.charged then s else chargePath s 9 o.pathIx) 9 (o.pathIx + 1) = some (1, ⟨7, 2, 0, false, false⟩)) ∧
    (let s := wFab (outR 0x11 1241000); let v := endReqs s 9 (fun o => o.pkt.comb && tooLate s o) brokenStatus []; let u := endHeld v 9 fun o => o.pkt.comb && tooLate v o
     ((txAt u 9).outst ++ (txAt u 9).held).any (fun o => !o.pkt.comb && tooLate u o) = true) ∧
    (let s := wFab (outR 0x11 1249000)
     ∃ l e, issuingList s 7 = some l ∧ l.entries[l.next]? = some e ∧ listRuns s l = true ∧ entryCheck s e = stOk ∧ e.op ≠ 5 ∧
       inCredit (txAt s (entryDst e)) + waiting (txAt s (entryDst e)) < 1024 ∧ s.fab.probeAt ≤ launch s) := by
  refine ⟨by decide +kernel, by decide +kernel, by decide +kernel, _, _, rfl, rfl, by decide +kernel⟩

/-! ### The queue, invariants, encodings -/

-- A step takes the command in front; on an empty queue a beat passes.
theorem witness_StepRunsFront : State.reset.pending = [] ∧ State.reset.pwr.pwrGood = false ∧ wOn.pending = [] ∧ wOn.pwr.pwrGood = true ∧ wOn.tkp.beat < 1249 ∧
    (∀ b ∈ [1233, 1249], (wAt 1000 b).pending = [] ∧ (wAt 1000 b).pwr.pwrGood = true ∧ (wAt 1000 b).tkp.beat = b) := by decide +kernel
/-- The device in service with a command in its queue keeps the invariant of the model. -/
def wCmd : State := { wOn with pending := [.hostMemWrite 5 [7]], mem := { wOn.mem with dev := [(5, 3), (2 ^ 30 - 1, 255)], host := [(2 ^ 52, 1)] } }
theorem wCmd_inv : wCmd.Inv := by unfold State.Inv State.memOk State.beatOk; decide +kernel
theorem witness_StepKeepsInv : wCmd.Inv ∧ ∃ s', step wCmd = .next s' := by
  have h : (match step wCmd with | .next _ => true | _ => false) = true := by decide +kernel
  refine ⟨wCmd_inv, ?_⟩
  cases e : step wCmd with
  | next t => exact ⟨t, rfl⟩
  | fault f => rw [e] at h; cases h
  | refused r => rw [e] at h; cases h
theorem witness_SlotRoundTrip :
    (let i := Instr.mma 159 100 { arr0 with arr := 1, fmt := 14, sa := 31, aoff := 31, sb := 31, boff := 31, acc := 3, clr := true, ld := true } none
     i.wellFormed = true ∧ (arrEnc i).isSome = true) ∧
    (let i := Instr.fma 159 100 31 31 (.reg 31) 31; i.wellFormed = true ∧ (vecEnc i).isSome = true) ∧
    (let i := Instr.vld 159 100 { ls0 with r := 31, an := 15, pm := 2, cvt := 5, off := 0x1FFF }; i.wellFormed = true ∧ (lsEnc i).isSome = true) ∧
    (let i := Instr.skewa 159 100 { dma0 with tag := 15, src := 31, dst := 31, prm := 31, imm := 0xBE }; i.wellFormed = true ∧ (dmaEnc i).isSome = true) := by decide
theorem witness_TileNeighbours : (159 : Nat) < 160 ∧ neighbours 159 = [149, 158] ∧ (neighbours 55).length = 4 := by decide
-- 02, the power cap register: a cap of 0 W is applied as 1,200 W; a margin of 40 W is applied as it is.
theorem witness_LastWriteApplies : (0x1C00000 : Nat) = 0x1C00000 ∧ (match exec (.registerWrite true 0x1C00000 0x280000) wOn with
    | .next t => ((pwrApply (pwrStage t)).pwr.cap.applied, (pwrApply (pwrStage t)).pwr.margin.applied) | _ => (0, 0)) = (1200, 40) := by decide +kernel
end Sys2Proof.Tests
end

section
/-!
PROOFS OF 00_scope.md. Writes of registers by their access codes (R5, R6), the commands of administration, the sideband, and the
state that reset leaves.
-/
namespace Sys2Proof.Machine

/-! ### Writes of registers by firmware (R5, R6) -/

/-- What of a seam-bound field no write touches: its staging and the value in force. -/
def Rwt.inForce (r : Rwt) : Rwt := ⟨0, r.staging, r.applied⟩

/-- Two fields agree in what no write touches when their values in force and their stagings agree. -/
theorem Rwt.inForce_eq_iff (r x : Rwt) : r.inForce = x.inForce ↔ r.applied = x.applied ∧ r.staging = x.staging := by
  simp [Rwt.inForce, and_comm]

/-- Whether an offset of a port's page has seam-bound fields does not depend on the port or on what is written. -/
theorem fhPortWrite_none (x y : FhPort) (k n m : Nat) (h : fhPortWrite x k n = none) : fhPortWrite y k m = none := by
  unfold fhPortWrite at h
  split at h
  case h_7 => simp [fhPortWrite]
  all_goals cases h

/-- Of two writes at one offset of a port's page the second overwrites every field that the first has written. -/
theorem fhPortWrite_last (x y : FhPort) (k n m : Nat) (h : fhPortWrite x k n = some y) : fhPortWrite y k m = fhPortWrite x k m := by
  unfold fhPortWrite at h
  split at h <;> cases h <;> rfl

/-- A write of a port's page changes shadows only. -/
theorem fhPortWrite_inForce (x y : FhPort) (k n : Nat) (h : fhPortWrite x k n = some y) :
    fhFields Rwt.inForce y = fhFields Rwt.inForce x := by
  unfold fhPortWrite at h
  split at h <;> cases h <;> rfl

/-- A write by firmware within the page of a fronthaul port, at an offset of that page. -/
def fhWrite (s : State) (p k n : Nat) : State :=
  match fhPortWrite (NMap.getD s.fh p {}) k n with
  | some x => landed { s with fh := NMap.insert s.fh p x }
  | none => s

/-- Of two writes at one offset of one port's page only the second counts. -/
theorem fhWrite_last (s : State) (p k n m : Nat) : fhWrite (fhWrite s p k n) p k m = fhWrite s p k m := by
  cases h : fhPortWrite (NMap.getD s.fh p {}) k n with
  | none => simp [fhWrite, h]
  | some x =>
    cases h2 : fhPortWrite (NMap.getD s.fh p {}) k m with
    | none => simp [fhPortWrite_none _ (NMap.getD s.fh p {}) k m n h2] at h
    | some y =>
      have hx : fhPortWrite x k m = some y := (fhPortWrite_last _ _ _ _ _ h).trans h2
      simp [fhWrite, h, h2, hx, landed, applyTick, NMap.getD_insert, NMap.insert_insert]

/-- A write of one port's page leaves what is staged and in force in every port. -/
theorem fhWrite_inForce (s : State) (p k n i : Nat) :
    fhFields Rwt.inForce (NMap.getD (fhWrite s p k n).fh i {}) = fhFields Rwt.inForce (NMap.getD s.fh i {}) := by
  cases h : fhPortWrite (NMap.getD s.fh p {}) k n with
  | none => simp [fhWrite, h]
  | some x =>
    by_cases hi : p = i
    · subst hi
      simpa [fhWrite, h, landed, NMap.getD_insert] using fhPortWrite_inForce _ _ _ _ h
    · simp [fhWrite, h, landed, NMap.getD_insert, hi]

/-- A write of a port's page leaves power alone. -/
@[simp] theorem fhWrite_pwr (s : State) (p k n : Nat) : (fhWrite s p k n).pwr = s.pwr := by
  unfold fhWrite
  split <;> rfl

/-- A write of PWR_CAP lands in the shadows of its two fields. -/
theorem firmwareRegWrite_pwrCap (s : State) (v : W64) : firmwareRegWrite s 0x1C00000 v =
    landed { s with pwr := { s.pwr with cap := s.pwr.cap.write (bitsOf v.toNat 11 0), margin := s.pwr.margin.write (bitsOf v.toNat 23 16) } } :=
  rfl

/-- A write within the fronthaul block is one of the page of a port. -/
theorem firmwareRegWrite_fh (s : State) (o : Nat) (v : W64) (h : 0xE00000 ≤ o ∧ o < 0xE08000) :
    firmwareRegWrite s o v = fhWrite s ((o - 0xE00000) / 0x1000) (o % 0x1000) v.toNat := by
  have hne : o ≠ 0x1C00000 := by omega
  rw [firmwareRegWrite, if_neg hne, if_pos h]
  rfl

/-- A write anywhere else is ignored. -/
theorem firmwareRegWrite_elsewhere (s : State) (o : Nat) (v : W64) (h1 : o ≠ 0x1C00000) (h2 : ¬(0xE00000 ≤ o ∧ o < 0xE08000)) :
    firmwareRegWrite s o v = s := by
  rw [firmwareRegWrite, if_neg h1, if_neg h2]

/-- Of two writes of one register only the second counts (R6). -/
theorem firmwareRegWrite_last (s : State) (o : Nat) (v w : W64) :
    firmwareRegWrite (firmwareRegWrite s o v) o w = firmwareRegWrite s o w := by
  by_cases h1 : o = 0x1C00000
  · subst h1
    rfl
  by_cases h2 : 0xE00000 ≤ o ∧ o < 0xE08000
  · simp only [firmwareRegWrite_fh _ _ _ h2, fhWrite_last]
  · simp only [firmwareRegWrite_elsewhere _ _ _ h1 h2]

/-- A write leaves what is staged and in force in PWR_CAP. -/
theorem firmwareRegWrite_pwrInForce (s : State) (o : Nat) (v : W64) :
    (firmwareRegWrite s o v).pwr.cap.inForce = s.pwr.cap.inForce ∧ (firmwareRegWrite s o v).pwr.margin.inForce = s.pwr.margin.inForce := by
  by_cases h1 : o = 0x1C00000
  · subst h1
    exact ⟨rfl, rfl⟩
  by_cases h2 : 0xE00000 ≤ o ∧ o < 0xE08000
  · simp [firmwareRegWrite_fh _ _ _ h2]
  · simp [firmwareRegWrite_elsewhere _ _ _ h1 h2]

/-- A write leaves what is staged and in force in every fronthaul port. -/
theorem firmwareRegWrite_fhInForce (s : State) (o : Nat) (v : W64) (i : Nat) :
    fhFields Rwt.inForce (NMap.getD (firmwareRegWrite s o v).fh i {}) = fhFields Rwt.inForce (NMap.getD s.fh i {}) := by
  by_cases h1 : o = 0x1C00000
  · subst h1
    rfl
  by_cases h2 : 0xE00000 ≤ o ∧ o < 0xE08000
  · rw [firmwareRegWrite_fh _ _ _ h2, fhWrite_inForce]
  · rw [firmwareRegWrite_elsewhere _ _ _ h1 h2]

/-- What a seam puts in force after a write of PWR_CAP: the written fields, each brought into its range (02, PWR_CAP). -/
theorem pwrCap_staged_applied (s : State) (w : W64) :
    let t := pwrApply (pwrStage (firmwareRegWrite s 0x1C00000 w))
    t.pwr.cap.applied = clampCap (bitsOf w.toNat 11 0) ∧ t.pwr.margin.applied = clampMargin (bitsOf w.toNat 23 16) :=
  ⟨rfl, rfl⟩

/-- Settles O57: a second write overwrites the shadows of the first, and no write reaches a staging or a value in force. -/
theorem lastWriteApplies : Obligations.LastWriteApplies := by
  unfold Obligations.LastWriteApplies
  refine ⟨fun s o v w => ?_, fun r v w => ⟨rfl, rfl⟩⟩
  obtain ⟨hcap, hmargin⟩ := firmwareRegWrite_pwrInForce s o v
  obtain ⟨capApplied, capStaging⟩ := (Rwt.inForce_eq_iff _ _).mp hcap
  obtain ⟨marginApplied, marginStaging⟩ := (Rwt.inForce_eq_iff _ _).mp hmargin
  refine ⟨firmwareRegWrite s o v, firmwareRegWrite s o w, rfl, congrArg Host.Outcome.next (firmwareRegWrite_last s o v w), rfl,
    capApplied, capStaging, marginApplied, marginStaging, firmwareRegWrite_fhInForce s o v, ?_⟩
  rintro rfl
  exact pwrCap_staged_applied s w

/-! ### Commands of administration (16 R355 to R372) -/

/-- A command that takes no parameters and has none has its effect in the state in which it has started. -/
theorem withCmd_noParams (s : State) (q seq op : Nat) (r : JRec) (h : Starts s q seq op r) (hp : r.params = []) (f g : State → State) :
    withCmd s q seq op (fun r s => if r.params.isEmpty then f s else g s) = f (begun s q seq) := by
  rw [withCmd_starts _ _ _ _ _ _ h, hp]
  rfl

/-- NOP without parameters is OK. -/
theorem execNop_ok (s : State) (q seq : Nat) (r : JRec) (h : Starts s q seq 0x0000 r) (hp : r.params = []) :
    execNop q seq s = .next (finish (begun s q seq) q seq stOk 0) := by
  rw [execNop, withCmd_starts _ _ _ _ _ _ h, hp]
  rfl

/-- A queue that exists, is not the admin queue and has no open command is dropped by QUEUE_DELETE. -/
theorem execQueueDelete_ok (s : State) (q seq : Nat) (r : JRec) (h : Starts s q seq 0x0002 r) (hl : r.params.length = 2)
    (hd : r.par 0 2 ≠ 0) (hq : NMap.find? (begun s q seq).hst.queues (r.par 0 2) ≠ none) (ho : openRecs (begun s q seq) (r.par 0 2) = []) :
    execQueueDelete q seq s = .next (finish (dropQueue (begun s q seq) (r.par 0 2)) q seq stOk 0) := by
  rw [execQueueDelete, withCmd_starts _ _ _ _ _ _ h]
  simp [hl, hd, hq, ho]

/-- QUEUE_CREATE whose cases pass brings its queue into being. -/
theorem execQueueCreate_ok (s : State) (q seq : Nat) (r : JRec) (h : Starts s q seq 0x0001 r)
    (hs : queueCreateStatus (begun s q seq) r = stOk) : execQueueCreate q seq s =
      .next (finish (createQueue (begun s q seq) (r.par 0 2) (queueOfParams r) ((r.par 2 2).testBit 0)) q seq stOk 0) := by
  rw [execQueueCreate, withCmd_starts _ _ _ _ _ _ h]
  simp [hs]

/-- ATTN_ACK with a mask that leaves out class 0 clears the classes of its mask up to its acceptance. -/
theorem execAttnAck_ok (s : State) (q seq : Nat) (r : JRec) (h : Starts s q seq 0x0006 r) (hl : r.params.length = 1)
    (hm : r.par 0 1 % 2 = 0) :
    let u := begun s q seq
    execAttnAck q seq s = .next (finish { u with hst := { u.hst with
      pending := ackClasses u.hst.pending (r.par 0 1) r.order } } q seq stOk 0) := by
  rw [execAttnAck, withCmd_starts _ _ _ _ _ _ h]
  simp [hl, hm]

/-- MIRROR_REPORT with its one parameter byte writes the report of that device, with a free CAUSE (log 32). -/
theorem execMirrorReport_ok (s : State) (q seq : Nat) (r : JRec) (h : Starts s q seq 0x0008 r) (hl : r.params.length = 1) :
    let f := (begun s q seq).takeFree
    execMirrorReport q seq s = .next (finishWith f.2 q seq stOk 0 (mirrorReport f.2 (r.par 0 1) f.1.toNat)) := by
  rw [execMirrorReport, withCmd_starts _ _ _ _ _ _ h]
  simp [hl]

/-- Settles O45: each command starts by `withCmd_starts` and its checks pass; a register write is one call of its access code's meaning. -/
theorem adminCommands : Obligations.AdminCommands := by
  unfold Obligations.AdminCommands
  intro s q seq off w r u
  refine ⟨fun hp => ?noParams, execQueueCreate_ok s q seq r, execQueueDelete_ok s q seq r, execAttnAck_ok s q seq r,
    execMirrorReport_ok s q seq r, rfl, rfl, congrArg Host.Outcome.next (firmwareRegWrite_pwrCap s w), rfl, rfl⟩
  case noParams =>
    exact ⟨fun h => execNop_ok s q seq r h hp, fun h => congrArg Host.Outcome.next (withCmd_noParams s q seq _ r h hp _ _),
      fun h => congrArg Host.Outcome.next (withCmd_noParams s q seq _ r h hp _ _),
      fun h => congrArg Host.Outcome.next (withCmd_noParams s q seq _ r h hp _ _)⟩

/-! ### The sideband (22 R475 to R481, R488 to R490) -/

section
variable (s : State) (hp : s.pwr.pwrGood = true)
include hp

/-- With power good the SP answers an MCTP control request. -/
theorem mctpControl_good (f : State → State) : mctpControl s f = f s := by simp [mctpControl, hp]

/-- With power good the SP serves its vendor messages. -/
theorem vendorSp_good (f : State → State) : vendorSp s f = f s := by simp [vendorSp, hp]

/-- With CP7 running a PLDM request is answered. -/
theorem pldm_running (hc : cpState s 7 = 1) (f : State → State) : pldm s f = f s := by simp [pldm, hp, hc]

/-- With CP7 running its vendor messages are served. -/
theorem vendorCp7_running (hc : cpState s 7 = 1) (cmd : Nat) (f : State → State) : vendorCp7 s cmd f = f s := by
  simp [vendorCp7, hp, hc]

/-- ENTDAA with an address of 7 bits. -/
theorem execEntdaa_taken (n : Nat) (hn : n < 128) :
    let f := s.takeFree
    execEntdaa n s = .next (respond { f.2 with evr := { f.2.evr with i3cAddr := some n } } typeI3c 0
      (beBytes 6 (provisionalId s f.1.toNat))) := by
  simp [execEntdaa, hp, hn]

/-- SET_ENDPOINT_ID with an EID that may be assigned. -/
theorem execSetEndpointId_ok (n : Nat) (h0 : 1 ≤ n) (h1 : n < 255) :
    execSetEndpointId n s = .next (respond { s with evr := { s.evr with eid := n } } 0 0 (leBytes 1 n)) := by
  have hn : ¬(n = 0 ∨ 255 ≤ n) := by omega
  rw [execSetEndpointId, mctpControl_good s hp, if_neg hn]

/-- GET_MCTP_VERSION_SUPPORT of a type that the device answers, or of MCTP itself. -/
theorem execGetMctpVersionSupport_known (ty : Nat) (ht : ty ∈ [0x00, 0x01, 0x05, 0x7F, 0xFF]) :
    execGetMctpVersionSupport ty s = .next (respond s.takeFree.2 0 0 (leBytes 8 s.takeFree.1.toNat)) := by
  have hk : mctpTypes.contains ty = true ∨ ty = 0xFF := by simp [mctpTypes] at ht ⊢; omega
  rw [execGetMctpVersionSupport, mctpControl_good s hp, if_pos hk]

/-- GET_PDR of one of the 15 records. -/
theorem execGetPdr_known (hc : cpState s 7 = 1) (n : Nat) (h0 : 1 ≤ n) (h1 : n ≤ 15) : execGetPdr n s =
    .next (respond s 1 0 (leBytes 4 n ++ leBytes 1 (sensorUnit n) ++ ((sensorLimits s n).map limitBytes).flatten)) := by
  have hn : n ≠ 0 := by omega
  rw [execGetPdr, pldm_running s hp hc]
  simp [hn, Nat.not_lt.mpr h1]

/-- GET_SENSOR_READING of one of the 15 sensors. -/
theorem execGetSensorReading_known (hc : cpState s 7 = 1) (n : Nat) (h0 : 1 ≤ n) (h1 : n ≤ 15) : execGetSensorReading n s =
    .next (respond s 1 0 (leBytes 4 (BitVec.ofInt 32 (s.pwr.sensors.getD (n - 1) 0)).toNat)) := by
  have hn : ¬(n = 0 ∨ 15 < n) := by omega
  rw [execGetSensorReading, pldm_running s hp hc, if_neg hn]

/-- RECORDER_READ of 1 to 32 records from SRAM. -/
theorem execRecorderRead_sram (n m : Nat) (h0 : 1 ≤ m) (h1 : m ≤ 32) :
    let rs := ((recsBySeq s).filter fun r => decide (n ≤ r.seq)).take m
    execRecorderRead n m s = .next (markPersisted (mapRecs (vendorReply s 0x01 stOk (rs.map recordBytes).flatten) fun r =>
      { r with returned := r.returned || rs.any fun x => x.seq == r.seq })) := by
  have hm : m % 128 = m := Nat.mod_eq_of_lt (by omega)
  have hok : ¬(m = 0 ∨ 32 < m ∨ 255 < m) := by omega
  have hsram : ¬128 ≤ m := by omega
  rw [execRecorderRead, vendorSp_good s hp]
  simp only [hm, if_neg hok, if_neg hsram]

/-- ANCHOR_SET that no case of R490 refuses loads the anchor and its list. -/
theorem execAnchorSet_loaded (op pc : Nat) (es : List (List Byte)) (hl : es.length ≤ 256) (he : ∀ e ∈ es, e.length = 16)
    (hpath : s.evr.path ≠ 0) (hearly : s.evr.early = true) :
    let u : State := { s with evr := { s.evr with anchorDue := false, path := 1, unanchored := false } }
    let v := if s.evr.bistDone = true then mapRecs u fun r => { r with unanchored := false } else u
    execAnchorSet op pc es s = .next (vendorReply (anchorList (loadAnchor v (op % 2 ^ 40) (pc % 2 ^ 24)) es) 0x03 stOk []) := by
  have hform : ¬(256 < es.length ∨ es.any (fun e => e.length != 16) = true) := by simpa using ⟨hl, he⟩
  have hbusy : ¬(s.evr.path = 0 ∨ (!s.evr.early) = true) := by simp [hpath, hearly]
  rw [execAnchorSet, vendorSp_good s hp]
  simp only [if_neg hform, if_neg hbusy]

end

/-- Settles O50: the SP or CP7 serves the message, and its parameters pass the checks. -/
theorem sidebandCommands : Obligations.SidebandCommands := by
  unfold Obligations.SidebandCommands
  intro s n m ty op pc es hp
  refine ⟨execEntdaa_taken s hp n, execSetEndpointId_ok s hp n, congrArg Host.Outcome.next (mctpControl_good s hp _),
    execGetMctpVersionSupport_known s hp ty, congrArg Host.Outcome.next (mctpControl_good s hp _), congrArg Host.Outcome.next (mctpControl_good s hp _),
    fun hc => ?cp7, execRecorderRead_sram s hp n m, execAnchorSet_loaded s hp op pc es⟩
  case cp7 =>
    exact ⟨congrArg Host.Outcome.next (pldm_running s hp hc _), congrArg Host.Outcome.next (pldm_running s hp hc _),
      fun h0 h1 => ⟨execGetPdr_known s hp hc n h0 h1, execGetSensorReading_known s hp hc n h0 h1⟩,
      congrArg Host.Outcome.next (vendorCp7_running s hp hc _ _), congrArg Host.Outcome.next (vendorCp7_running s hp hc _ _),
      congrArg Host.Outcome.next (vendorCp7_running s hp hc _ _)⟩

/-! ### Reset (R5, R44, R45) -/

/-- At reset both memories list nothing and the beat is 0. -/
theorem reset_inv : State.reset.Inv := ⟨⟨rfl, rfl⟩, show (0 : Nat) < 1250 by decide⟩

/-- At reset no mailbox page has been written: each reads its reset values. -/
theorem mbxAt_reset (p : Nat) : mbxAt State.reset p = {} := rfl

/-- At reset no fronthaul port has been written. -/
theorem fhPort_reset (p : Nat) : NMap.getD State.reset.fh p {} = {} := rfl

/-- At reset no tile has been written. -/
theorem tileAt_reset (t : Nat) : tileAt State.reset t = {} := rfl

/-- Settles O52: the maps of the reset state are empty, so every page, port and tile reads the reset values of its record. -/
theorem resetState : Obligations.ResetState := by
  unfold Obligations.ResetState
  refine ⟨reset_inv, rfl, rfl, rfl, rfl, rfl, rfl, rfl, rfl, rfl, rfl, rfl, rfl, rfl, rfl, fun p => ?page, fun p => ?port, fun t n => ?tile⟩
  case page => rw [mbxAt_reset]; exact ⟨rfl, rfl⟩
  case port => rw [fhPort_reset]; exact ⟨rfl, rfl, rfl, rfl⟩
  case tile => rw [tileAt_reset]; exact ⟨rfl, rfl, rfl⟩

end Sys2Proof.Machine
end

section
/-!
PROOFS OF 01_device_overview.md. Writes of device memory and what they leave alone (R13, R167, R169), the commands of device memory,
the sealing of plans, and resets.
-/
namespace Sys2Proof.Machine

/-! ### What events and writes of device memory leave alone -/

/-- `t` differs from `s` in the recorder, in what firmware holds and at the host only. -/
def RecordsOnly (s t : State) : Prop := ∃ e f h, t = { s with evr := e, fw := f, hst := h }

/-- `t` differs from `s` in memory, in the recorder, in what firmware holds and at the host only. -/
def StoresOnly (s t : State) : Prop := ∃ m e f h, t = { s with mem := m, evr := e, fw := f, hst := h }

theorem RecordsOnly.storesOnly {s t : State} (h : RecordsOnly s t) : StoresOnly s t := by
  obtain ⟨e, f, h, rfl⟩ := h
  exact ⟨s.mem, e, f, h, rfl⟩

theorem StoresOnly.trans {s t u : State} (h : StoresOnly s t) (k : StoresOnly t u) : StoresOnly s u := by
  obtain ⟨m, e, f, h, rfl⟩ := h
  obtain ⟨m, e, f, h, rfl⟩ := k
  exact ⟨m, e, f, h, rfl⟩

theorem StoresOnly.tkp {s t : State} (h : StoresOnly s t) : t.tkp = s.tkp := by
  obtain ⟨m, e, f, h, rfl⟩ := h
  rfl

theorem StoresOnly.slc {s t : State} (h : StoresOnly s t) : t.slc = s.slc := by
  obtain ⟨m, e, f, h, rfl⟩ := h
  rfl

/-- A record changes the recorder, and at the host the attention class of errors (R483). -/
theorem putRecord_recordsOnly (s : State) (code source sev supp : Nat) (summary : Bool) (args : List Nat) :
    RecordsOnly s (putRecord s code source sev supp summary args) := by
  unfold putRecord
  dsimp only
  repeat' split
  all_goals exact ⟨_, _, _, rfl⟩

theorem recordNow_recordsOnly (s : State) (code source : Nat) (args : List Nat) : RecordsOnly s (recordNow s code source args) := by
  unfold recordNow
  dsimp only
  split
  case isTrue => exact putRecord_recordsOnly _ _ _ _ _ _ _
  case isFalse =>
    split
    case isTrue => exact ⟨_, _, _, rfl⟩
    case isFalse => exact putRecord_recordsOnly _ _ _ _ _ _ _

/-- An event is recorded, or staged by firmware while CP7 restarts. -/
theorem recordEvent_recordsOnly (s : State) (code source : Nat) (args : List Nat) : RecordsOnly s (recordEvent s code source args) := by
  unfold recordEvent
  split
  case isTrue =>
    repeat' split
    all_goals exact ⟨_, _, _, rfl⟩
  case isFalse => exact recordNow_recordsOnly s code source args

@[simp] theorem recordEvent_mem (s : State) (code source : Nat) (args : List Nat) : (recordEvent s code source args).mem = s.mem := by
  obtain ⟨e, f, h, eq⟩ := recordEvent_recordsOnly s code source args
  rw [eq]

theorem useCheck_storesOnly (s : State) (a : Nat) : StoresOnly s (useCheck s a) := by
  unfold useCheck
  split
  all_goals exact ⟨_, _, _, _, rfl⟩

theorem findError_storesOnly (s : State) (line : Nat) : StoresOnly s (findError s line) := by
  unfold findError
  split
  case isTrue => exact StoresOnly.trans (t := poisonLine s (64 * line)) ⟨_, _, _, _, rfl⟩ (recordEvent_recordsOnly _ _ _ _).storesOnly
  case isFalse => exact ⟨_, _, _, _, rfl⟩

/-- Memory is replaced, and then a check line used. -/
theorem useCheck_mem_storesOnly (s : State) (m : Mem) (a : Nat) : StoresOnly s (useCheck { s with mem := m } a) :=
  StoresOnly.trans (t := { s with mem := m }) ⟨_, _, _, _, rfl⟩ (useCheck_storesOnly _ _)

theorem writeChunk_storesOnly (s : State) (a : Nat) (bs : List Byte) : StoresOnly s (writeChunk s a bs).1 := by
  unfold writeChunk
  split
  case isTrue => exact ⟨_, _, _, _, rfl⟩
  split
  case isTrue => exact useCheck_mem_storesOnly _ _ _
  split
  case isTrue => exact ⟨_, _, _, _, rfl⟩
  split
  case isTrue => exact findError_storesOnly _ _
  case isFalse => exact useCheck_mem_storesOnly _ _ _

theorem writeChunks_storesOnly (cs : List (Nat × List Byte)) (s : State) : StoresOnly s (writeChunks cs s).1 := by
  induction cs generalizing s with
  | nil => exact ⟨_, _, _, _, rfl⟩
  | cons c cs ih => exact (writeChunk_storesOnly s c.1 c.2).trans (ih _)

theorem devPut_storesOnly (s : State) (a : Nat) (bs : List Byte) : StoresOnly s (devPut s a bs) := writeChunks_storesOnly _ _

/-- A trace record goes to device memory and raises firmware's write index (18 R417). -/
theorem trace_storesOnly (s : State) (point cp arg0 arg1 : Nat) : StoresOnly s (trace s point cp arg0 arg1) := by
  unfold trace
  split
  case isTrue => exact (devPut_storesOnly _ _ _).trans ⟨_, _, _, _, rfl⟩
  case isFalse => exact ⟨_, _, _, _, rfl⟩

@[simp] theorem trace_tkp (s : State) (point cp arg0 arg1 : Nat) : (trace s point cp arg0 arg1).tkp = s.tkp :=
  (trace_storesOnly s point cp arg0 arg1).tkp

@[simp] theorem trace_slc (s : State) (point cp arg0 arg1 : Nat) : (trace s point cp arg0 arg1).slc = s.slc :=
  (trace_storesOnly s point cp arg0 arg1).slc

/-! ### Lines (R165, R167) -/

/-- An address lies on the channel of its line. -/
theorem channelOf_line (s : State) (a : Nat) : channelOf s (64 * (a / 64)) = channelOf s a := by
  have hI : interI s = s.hst.interGib * 2 ^ 30 := rfl
  have h21 : 64 * (a / 64) / 2 ^ 21 = a / 2 ^ 21 := by omega
  have h8 : 64 * (a / 64) / 2 ^ 8 = a / 2 ^ 8 := by omega
  have h12 : 64 * (a / 64) / 2 ^ 12 = a / 2 ^ 12 := by omega
  have h16 : 64 * (a / 64) / 2 ^ 16 = a / 2 ^ 16 := by omega
  have hdeck : (deckBase ≤ 64 * (a / 64)) = (deckBase ≤ a) := propext (by unfold deckBase; omega)
  have hinter : (64 * (a / 64) < interI s) = (a < interI s) := propext (by omega)
  have hlocal : (64 * (a / 64) - interI s) / 2 ^ 27 = (a - interI s) / 2 ^ 27 := by omega
  simp only [channelOf, h21, h8, h12, h16, hdeck, hinter, hlocal]

/-- An address reads uncorrected exactly if its line does. -/
theorem lineBad_line (s : State) (a : Nat) : lineBad s (64 * (a / 64)) = lineBad s a := by
  have hq : 64 * (a / 64) / 64 = a / 64 := by omega
  have hdeck : (deckBase ≤ 64 * (a / 64)) = (deckBase ≤ a) := propext (by unfold deckBase; omega)
  simp only [lineBad, isPoisoned, isLatent, onLost, channelOf_line, hq, hdeck]

theorem mem_linesOf (a n l : Nat) (hlo : a / 64 ≤ l) (hhi : 64 * l < a + n) (hn : n ≠ 0) : l ∈ linesOf a n := by
  rw [linesOf, if_neg hn, List.mem_map]
  exact ⟨l - a / 64, List.mem_range.mpr (by omega), by omega⟩

/-- No address of a range without a bad line reads uncorrected. -/
theorem lineBad_of_badRange (s : State) (a n x : Nat) (h : badRange s a n = false) (hlo : a ≤ x) (hhi : x < a + n) : lineBad s x = false := by
  have hl : x / 64 ∈ linesOf a n := mem_linesOf _ _ _ (by omega) (by omega) (by omega)
  rw [← lineBad_line]
  simpa using List.any_eq_false.mp h _ hl

/-! ### The bytes of a write of device memory (R167, R169) -/

@[simp] theorem useCheck_dev (s : State) (a : Nat) : (useCheck s a).mem.dev = s.mem.dev := by
  unfold useCheck
  split <;> rfl

@[simp] theorem useCheck_host (s : State) (a : Nat) : (useCheck s a).mem.host = s.mem.host := by
  unfold useCheck
  split <;> rfl

@[simp] theorem useCheck_lineBad (s : State) (a x : Nat) : lineBad (useCheck s a) x = lineBad s x := by
  unfold useCheck
  split <;> rfl

@[simp] theorem findError_dev (s : State) (line : Nat) : (findError s line).mem.dev = s.mem.dev := by
  unfold findError
  split <;> simp [poisonLine]

@[simp] theorem findError_host (s : State) (line : Nat) : (findError s line).mem.host = s.mem.host := by
  unfold findError
  split <;> simp [poisonLine]

/-- A write within a line is performed or stores nothing. -/
theorem writeChunk_dev (s : State) (a : Nat) (bs : List Byte) :
    (writeChunk s a bs).1.mem.dev = s.mem.dev ∨ (writeChunk s a bs).1.mem.dev = Memory.writeN s.mem.dev a bs := by
  unfold writeChunk
  repeat' split
  all_goals simp

@[simp] theorem writeChunk_host (s : State) (a : Nat) (bs : List Byte) : (writeChunk s a bs).1.mem.host = s.mem.host := by
  unfold writeChunk
  repeat' split
  all_goals simp

/-- A write within a line that does not read uncorrected is performed, whether it covers the line or not. -/
theorem writeChunk_good (s : State) (a : Nat) (bs : List Byte) (h : lineBad s a = false) :
    (writeChunk s a bs).1.mem.dev = Memory.writeN s.mem.dev a bs ∧ ∀ x, lineBad s x = false → lineBad (writeChunk s a bs).1 x = false := by
  simp only [lineBad, Bool.or_eq_false_iff] at h
  obtain ⟨⟨hp, hl⟩, ho⟩ := h
  by_cases hfull : bs.length = 64
  · simp only [writeChunk, ho, hfull, if_true, useCheck_dev, useCheck_lineBad, true_and, Bool.false_eq_true, if_false]
    intro x hx
    simp only [lineBad, isPoisoned, isLatent, onLost, channelOf, interI, List.contains_eq_mem, List.mem_filter] at hx ⊢
    grind
  · simp only [writeChunk, ho, hp, hl, hfull, if_false, useCheck_dev, useCheck_lineBad, true_and, Bool.false_eq_true]
    exact fun x hx => hx

/-- A write in two pieces, the second behind the first, is the whole write. -/
theorem memory_writeN_take_drop (bs : List Byte) (m : List Host.Cell) (a k : Nat) :
    Memory.writeN (Memory.writeN m a (bs.take k)) (a + k) (bs.drop k) = Memory.writeN m a bs := by
  induction bs generalizing m a k with
  | nil => simp [Memory.writeN]
  | cons b bs ih =>
    cases k with
    | zero => simp [Memory.writeN]
    | succ k => simpa [Memory.writeN, Nat.add_comm, Nat.add_left_comm] using ih (Memory.write m a b) (a + 1) k

@[simp] theorem lineChunks_nil (n a : Nat) : lineChunks n a [] = [] := by cases n <;> rfl

/-- The pieces of a write lie in its range. -/
theorem lineChunks_within (n a : Nat) (bs : List Byte) (c : Nat × List Byte) (hc : c ∈ lineChunks n a bs) :
    a ≤ c.1 ∧ c.1 + c.2.length ≤ a + bs.length := by
  induction n generalizing a bs with
  | zero => simp [lineChunks] at hc
  | succ n ih =>
    simp only [lineChunks] at hc
    split at hc
    · simp at hc
    · rcases List.mem_cons.mp hc with rfl | hc
      · simp only [List.length_take]
        omega
      · by_cases hk : bs.length ≤ 64 - a % 64
        · simp [List.drop_eq_nil_of_le hk] at hc
        · obtain ⟨hlo, hhi⟩ := ih _ _ hc
          simp only [List.length_drop] at hhi
          omega

theorem writeChunk_wf (s : State) (a : Nat) (bs : List Byte) (h : Memory.wf s.mem.dev = true) :
    Memory.wf (writeChunk s a bs).1.mem.dev = true := by
  rcases writeChunk_dev s a bs with e | e <;> rw [e]
  · exact h
  · exact memory_writeN_wf _ _ _ h

theorem writeChunk_read_other (s : State) (a b : Nat) (bs : List Byte) (h : Memory.wf s.mem.dev = true) (hb : b < a ∨ a + bs.length ≤ b) :
    Memory.read (writeChunk s a bs).1.mem.dev b = Memory.read s.mem.dev b := by
  rcases writeChunk_dev s a bs with e | e <;> rw [e]
  exact memory_read_writeN_other _ _ _ _ h hb

/-- Pieces of lines leave every byte outside them alone, whichever of them are performed. -/
theorem writeChunks_read_other (cs : List (Nat × List Byte)) (s : State) (b : Nat) (h : Memory.wf s.mem.dev = true)
    (hb : ∀ c ∈ cs, b < c.1 ∨ c.1 + c.2.length ≤ b) : Memory.read (writeChunks cs s).1.mem.dev b = Memory.read s.mem.dev b := by
  induction cs generalizing s with
  | nil => rfl
  | cons c cs ih =>
    obtain ⟨hc, hcs⟩ := List.forall_mem_cons.mp hb
    exact (ih _ (writeChunk_wf _ _ _ h) hcs).trans (writeChunk_read_other _ _ _ _ h hc)

theorem writeChunks_host (cs : List (Nat × List Byte)) (s : State) : (writeChunks cs s).1.mem.host = s.mem.host := by
  induction cs generalizing s with
  | nil => rfl
  | cons c cs ih => exact (ih _).trans (writeChunk_host _ _ _)

@[simp] theorem devWrite_host (s : State) (a : Nat) (bs : List Byte) : (devWrite s a bs).1.mem.host = s.mem.host := writeChunks_host _ _

/-- A write of device memory leaves every byte outside its range alone. -/
theorem devWrite_read_other (s : State) (a b : Nat) (bs : List Byte) (h : Memory.wf s.mem.dev = true) (hb : b < a ∨ a + bs.length ≤ b) :
    Memory.read (devWrite s a bs).1.mem.dev b = Memory.read s.mem.dev b := by
  refine writeChunks_read_other _ _ _ h fun c hc => ?_
  obtain ⟨hlo, hhi⟩ := lineChunks_within _ _ _ _ hc
  omega

/-- Piece by piece, a write none of whose lines reads uncorrected is performed whole; the fuel covers its lines. -/
theorem writeChunks_lineChunks_dev (n : Nat) (s : State) (a : Nat) (bs : List Byte) (hn : bs.length + a % 64 ≤ 64 * n)
    (h : ∀ x, a ≤ x → x < a + bs.length → lineBad s x = false) :
    (writeChunks (lineChunks n a bs) s).1.mem.dev = Memory.writeN s.mem.dev a bs := by
  induction n generalizing s a bs with
  | zero =>
    obtain rfl : bs = [] := List.length_eq_zero_iff.mp (by omega)
    rfl
  | succ n ih =>
    by_cases he : bs = []
    · subst he
      rfl
    have hpos : 0 < bs.length := List.length_pos_iff.mpr he
    obtain ⟨hdev, hgood⟩ := writeChunk_good s a (bs.take (64 - a % 64)) (h a (by omega) (by omega))
    have hrest := ih (writeChunk s a (bs.take (64 - a % 64))).1 (a + (64 - a % 64)) (bs.drop (64 - a % 64))
      (by simp only [List.length_drop]; omega)
      (fun x hlo hhi => hgood x (h x (by omega) (by simp only [List.length_drop] at hhi; omega)))
    rw [hdev, memory_writeN_take_drop] at hrest
    simpa [lineChunks, he, writeChunks] using hrest

/-- A write of device memory none of whose lines reads uncorrected is performed. -/
theorem devWrite_dev (s : State) (a : Nat) (bs : List Byte) (h : badRange s a bs.length = false) :
    (devWrite s a bs).1.mem.dev = Memory.writeN s.mem.dev a bs :=
  writeChunks_lineChunks_dev _ _ _ _ (by omega) fun _ hlo hhi => lineBad_of_badRange _ _ _ _ h hlo hhi

/-! ### Host writes (R13, R169) -/

section
variable (s : State) (addr : Nat) (bytes : List Byte) (hu : usableRange s addr bytes.length = true)
include hu

/-- A host write that meets no protected structure is performed. -/
theorem execHostMemWrite_performed (hp : isProtected s addr bytes.length = false) :
    execHostMemWrite addr bytes s = .next (devWrite s addr bytes).1 := by
  simp [execHostMemWrite, hu, hp]

/-- A host write that meets a protected structure is dropped with its event. -/
theorem execHostMemWrite_dropped (hp : isProtected s addr bytes.length = true) :
    execHostMemWrite addr bytes s = .next (recordEvent s 0x8001 srcHw []) := by
  simp [execHostMemWrite, hu, hp]

end

/-- Settles O56: a dropped write only records its event; a performed one is a `devWrite`, whose frame and effect are those of its pieces. -/
theorem hostWriteFrame : Obligations.HostWriteFrame := by
  unfold Obligations.HostWriteFrame
  intro s addr bytes hwf hu
  obtain ⟨hdev, _⟩ := hwf
  cases hp : isProtected s addr bytes.length with
  | true =>
    refine ⟨_, execHostMemWrite_dropped s addr bytes hu hp, ?_⟩
    simp
  | false =>
    refine ⟨_, execHostMemWrite_performed s addr bytes hu hp, devWrite_host _ _ _,
      fun a ha => devWrite_read_other _ _ _ _ hdev ha, by simp, fun _ hbad i hi => ?_⟩
    rw [devWrite_dev _ _ _ hbad]
    exact memory_read_writeN_at _ _ _ _ hdev hi

/-! ### Plans (R46, R52, R53, R55) -/

section
variable (s : State) (p : Plan) (hcp : cpState s 0 = 1) (hras : s.ras.state = 0) (hready : s.hst.ready = true)
  (hopen : sealOpen s p.tick = true) (hfloor : floorAllowed s p = true)
include hcp hras hready hopen hfloor

/-- CP0 seals a plan that passes its checks and is as the planners build it; one that passes them and is not is not before it (log 96). -/
theorem execPlanSeal_ok (hok : planOk s p = true) : execPlanSeal p s = .next (if planned s p then sealPlan s p else s) := by
  simp [execPlanSeal, hcp, hras, hready, hopen, hfloor, hok]

/-- A plan that fails a check is a plan fault. -/
theorem execPlanSeal_fault (hok : planOk s p = false) : execPlanSeal p s =
    .next (recordEvent { s with tkp := { s.tkp with faultPlan := satAdd 16 s.tkp.faultPlan 1 } } 0x1004 0 []) := by
  simp [execPlanSeal, hcp, hras, hready, hopen, hfloor, hok]

end

/-- A sealed plan stands in its slot and is the last one sealed, and the order of shares moves on. -/
theorem sealPlan_stored (s : State) (p : Plan) :
    NMap.find? (sealPlan s p).tkp.plans (p.tick % 16) = some { p with state := .sealed } ∧
    (sealPlan s p).tkp.lastPlan = some { p with state := .sealed } ∧ (sealPlan s p).slc.shareOrder = (s.slc.shareOrder + 1) % 64 := by
  simp [sealPlan, NMap.find?_insert]

/-- With no plan ready for the next tick, the substitute of the last sealed plan stands in its slot and is loaded. -/
theorem substitute_stored (s : State) (l : Plan) (hn : nextReady s = false) (hl : s.tkp.lastPlan = some l) :
    (substitute s).tkp.loaded = some (s.tkp.now + 1) ∧
    NMap.find? (substitute s).tkp.plans ((s.tkp.now + 1) % 16) = some (substituteOf s l (s.tkp.now + 1)) := by
  simp [substitute, hn, hl, NMap.find?_insert]

/-- Settles O18: the checks decide between `sealPlan` and a plan fault; a plan stored before its trace record is written stays stored. -/
theorem planSealAndSubstitute : Obligations.PlanSealAndSubstitute := by
  unfold Obligations.PlanSealAndSubstitute
  intro s p l
  refine ⟨fun hcp hras hready hopen hfloor hok hpl => ?notPlanned, fun hcp hras hready hopen hfloor hok hpl => ?sealed,
    execPlanSeal_fault s p, fun hgood hdusk hn hl => ?substituted⟩
  case notPlanned => simp [execPlanSeal_ok s p hcp hras hready hopen hfloor hok, hpl]
  case sealed =>
    refine ⟨sealPlan s p, ?_, sealPlan_stored s p⟩
    simp [execPlanSeal_ok s p hcp hras hready hopen hfloor hok, hpl]
  case substituted =>
    refine ⟨substitute s, ?_, substitute_stored s l hn hl⟩
    simp [execPlanSubstitute, hgood, hdusk]

/-! ### The commands of device memory (R167 to R171, R504, R505) -/

section
variable (s : State) (ch : Nat) (hch : ch ≤ 31) (hgood : s.pwr.pwrGood = true) (hnew : ch ∉ s.mem.lost)
include hch hgood hnew

/-- The loss of a channel that stood till then is that of a journal channel or of any other (R504). -/
theorem execChannelLost_new :
    let u : State := { s with mem := { s.mem with lost := addSet s.mem.lost ch } }
    execChannelLost ch s = if ch = 0 ∨ ch = 16 then
        if 16 - ch ∈ s.mem.lost then .next (deviceFail u 0x2003 srcHw []) else .next (recordEvent (latchAttn u 1) 0x2003 srcHw [])
      else .next (deviceFail u 0x2004 srcHw []) := by
  have hch' : ¬31 < ch := by omega
  simp [execChannelLost, hch', hgood, hnew]

end

section
variable (s : State) (line : Nat) (hline : line < usableU s / 64) (hlost : onLost s (64 * line) = false) (hecc : s.hst.ecc = true)
include hline hlost hecc

/-- The patrol leaves a line that is poisoned as it is. -/
theorem execPatrolScrub_poisoned (corrected uncorrected raced : Bool) (hp : isPoisoned (noteReads s (64 * line) 64) (64 * line) = true) :
    execPatrolScrub line corrected uncorrected raced s = .next (noteReads s (64 * line) 64) := by
  simp [execPatrolScrub, Nat.not_le.mpr hline, hlost, hecc, hp]

/-- An uncorrected error that no read had found is recorded, and poisons its line unless a later write has replaced it (log 78). -/
theorem execPatrolScrub_uncorrected (raced : Bool) (hp : isPoisoned (noteReads s (64 * line) 64) (64 * line) = false) :
    let n := noteReads s (64 * line) 64
    let u : State := recordEvent { n with mem := { n.mem with latent := n.mem.latent.filter (· ≠ line) } } 0x2002 srcHw
      [channelOf n (64 * line), 64 * line]
    execPatrolScrub line false true raced s = .next (if raced then u else poisonLine u (64 * line)) := by
  simp [execPatrolScrub, Nat.not_le.mpr hline, hlost, hecc, hp]

/-- A corrected line is written back as it reads, unless a later write has come first. -/
theorem execPatrolScrub_corrected (raced : Bool) (hp : isPoisoned (noteReads s (64 * line) 64) (64 * line) = false)
    (hl : isLatent (noteReads s (64 * line) 64) (64 * line) = false) :
    let n := noteReads s (64 * line) 64
    execPatrolScrub line true false raced s = .next (if raced = true then n else devPut n (64 * line) (devRead n (64 * line) 64)) := by
  cases raced <;> simp [execPatrolScrub, Nat.not_le.mpr hline, hlost, hecc, hp, hl]

end

section
variable (s : State) (q seq : Nat) (r : JRec)

/-- BIAS_SET with a page of usable memory is DENIED for a page of a pool, waits for the accesses of the device, or flips the page (R171). -/
theorem execBiasSet_started (h : Starts s q seq 0x0100 r) (hl : r.params.length = 9) (hb : r.par 8 1 ≤ 1) (ha : r.par 0 8 % 2 ^ 21 = 0)
    (hu : r.par 0 8 < usableU (begun s q seq)) :
    let u := begun s q seq
    let a := r.par 0 8
    execBiasSet q seq s = .next (
      if u.srv.pools.any fun p => p.2.state != 0 && p.2.extents.any fun e => overlaps a (2 ^ 21) (extentSpan e).1 (extentSpan e).2 then finish u q seq stDenied 0
      else if pageInUse u a then modRec u q seq fun x => { x with stage := 1 }
      else finish { u with mem := { u.mem with
        hostBias := if r.par 8 1 = 1 then addSet u.mem.hostBias (a / 2 ^ 21) else u.mem.hostBias.filter (· ≠ a / 2 ^ 21) } } q seq stOk 0) := by
  have hform : ¬(r.params.length ≠ 9 ∨ 1 < r.par 8 1 ∨ r.par 0 8 % 2 ^ 21 ≠ 0 ∨ usableU (begun s q seq) ≤ r.par 0 8) := by omega
  rw [execBiasSet, withCmd_starts _ _ _ _ _ _ h]
  simp only [if_neg hform]

/-- POOL_SET that has started completes in the state and with the status of R505's table. -/
theorem execPoolSet_ends (h : Starts s q seq 0x0101 r) (t : State) (st : Nat) (hw : poolSet (begun s q seq) r = (t, st)) :
    execPoolSet q seq s = .next (finish t q seq st 0) := by
  rw [execPoolSet, withCmd_starts _ _ _ _ _ _ h, hw]

end

section
variable (u : State) (r : JRec) (hf : poolFieldsOk r (poolOfParams r []) = true)
include hf

/-- The cases of R505's table for a pool that is UNUSED. -/
theorem poolSet_unused (hp : poolAt u (r.par 0 1) = none) :
    let d := poolOfParams r []
    let pool := r.par 0 1
    (d.state = 2 → poolSet u r = (u, stInvalid)) ∧
    (d.state = 0 → poolSet u r = ({ u with srv := { u.srv with pools := NMap.insert u.srv.pools pool d } }, stOk)) ∧
    (∀ es, d.state = 1 → poolGeometry u pool d = .inl es → poolSet u r = (installPool u pool { d with extents := es }, stOk)) ∧
    (∀ st, d.state = 1 → poolGeometry u pool d = .inr st → poolSet u r = (extentsRead 1025 u d.extentPtr, st)) := by
  refine ⟨fun h2 => ?_, fun h0 => ?_, fun es h1 hg => ?_, fun st h1 hg => ?_⟩
  · simp [poolSet, hf, hp, h2]
  · simp [poolSet, hf, hp, h0]
  · simp [poolSet, hf, hp, h1, hg]
  · simp [poolSet, hf, hp, h1, hg]

/-- The cases of R505's table for a pool that is ACTIVE or DRAINING. -/
theorem poolSet_used (cur : Pool) (hp : poolAt u (r.par 0 1) = some cur) :
    let d := poolOfParams r []
    let pool := r.par 0 1
    let put := fun (e : Pool) => ({ u with srv := { u.srv with pools := NMap.insert u.srv.pools pool e } } : State)
    (sameGeometry cur d = false ∨ d.state = 0 → poolBusy u pool = true → poolSet u r = (u, stBusy)) ∧
    (d.state = 0 → poolBusy u pool = false → poolSet u r = (put d, stOk)) ∧
    (d.state ≠ 0 → sameGeometry cur d = true → poolSet u r = (settlePool (put { d with extents := cur.extents }) pool, stOk)) ∧
    (∀ es, d.state ≠ 0 → sameGeometry cur d = false → poolBusy u pool = false → poolGeometry u pool d = .inl es →
      poolSet u r = (settlePool (installPool u pool { d with extents := es }) pool, stOk)) := by
  refine ⟨fun h hbusy => ?_, fun h0 hbusy => ?_, fun h0 hg => ?_, fun es h0 hg hbusy hgeo => ?_⟩
  · rcases h with hg | h0
    · simp [poolSet, hf, hp, hbusy, hg]
    · simp [poolSet, hf, hp, hbusy, h0]
  · simp [poolSet, hf, hp, hbusy, h0]
  · simp [poolSet, hf, hp, h0, hg]
  · simp [poolSet, hf, hp, h0, hg, hbusy, hgeo]

end

/-- Settles O24: each command is its meaning with its checks passed; POOL_SET is R505's table case by case. -/
theorem deviceMemory : Obligations.DeviceMemory := by
  unfold Obligations.DeviceMemory
  intro s ch line addr len q seq bytes raced r
  refine ⟨fun hch hgood hnew => ?lost, fun hline hlost hecc => ?patrol, fun hu => ?read,
    fun hu => ⟨execHostMemWrite_performed s addr bytes hu, execHostMemWrite_dropped s addr bytes hu⟩, fun h hl hb ha hu => ?bias, fun h => ?pool⟩
  case lost =>
    have e := execChannelLost_new s ch hch hgood hnew
    refine ⟨fun hj ho => ?_, fun hj ho => ?_, fun h0 h16 => ?_⟩
    · simp [e, hj, ho]
    · simp [e, hj, ho]
    · simp [e, h0, h16]
  case patrol =>
    refine ⟨execPatrolScrub_poisoned s line hline hlost hecc false true raced, fun hp => ⟨?_, ?_⟩,
      execPatrolScrub_corrected s line hline hlost hecc raced⟩
    · exact execPatrolScrub_uncorrected s line hline hlost hecc false hp
    · exact execPatrolScrub_uncorrected s line hline hlost hecc true hp
  case read => simp [execHostMemRead, hu]
  case bias =>
    have e := execBiasSet_started s q seq r h hl hb ha hu
    refine ⟨fun hin => ?_, fun hin huse => ?_, fun hin huse => ?_⟩
    · rw [exec_biasSet, e, if_pos hin]
    · rw [exec_biasSet, e, if_neg (ne_true_of_eq_false hin), if_pos huse]
    · rw [exec_biasSet, e, if_neg (ne_true_of_eq_false hin), if_neg (ne_true_of_eq_false huse)]
  case pool =>
    have e := execPoolSet_ends s q seq r h
    refine ⟨fun hf => e _ _ (by simp [poolSet, hf]), fun hf => ⟨fun hp => ?_, fun cur hp => ?_⟩⟩
    · obtain ⟨draining, unused, installed, refused⟩ := poolSet_unused (begun s q seq) r hf hp
      exact ⟨fun h2 => e _ _ (draining h2), fun h0 => e _ _ (unused h0), fun es h1 hg => e _ _ (installed es h1 hg),
        fun st h1 hg => e _ _ (refused st h1 hg)⟩
    · obtain ⟨busy, unused, same, changed⟩ := poolSet_used (begun s q seq) r hf cur hp
      exact ⟨fun hg hbusy => e _ _ (busy hg hbusy), fun h0 hbusy => e _ _ (unused h0 hbusy), fun h0 hg => e _ _ (same h0 hg),
        fun es h0 hg hbusy hgeo => e _ _ (changed es h0 hg hbusy hgeo)⟩

/-! ### Resets (R14, R395, R481, R497 to R501) -/

/-- A reset that is asked for lists its command among those that wait for its end. -/
theorem askReset_waits (s : State) (kind q seq : Nat) : (q, seq) ∈ (askReset s kind [(q, seq)]).start.waiting := by
  simp [askReset]

section
variable (s : State) (q seq : Nat) (r : JRec) (h : Starts s q seq 0x0005 r) (hl : r.params.length = 2)
include h hl

/-- RESET_REQ of a slice that exists asks for its reset. -/
theorem execResetReq_slice (hk : r.par 0 1 = 3) (hs : r.par 1 1 ≤ 63) :
    execResetReq q seq s = .next (askSlice (begun s q seq) (r.par 1 1) (some (q, seq))) := by
  have hs' : ¬63 < r.par 1 1 := by omega
  rw [execResetReq, withCmd_starts _ _ _ _ _ _ h]
  simp [hl, hk, hs']

/-- RESET_REQ of a warm or function reset waits for it on a device that has been READY. -/
theorem execResetReq_device (hk : r.par 0 1 = 1 ∨ r.par 0 1 = 2) (hr : (begun s q seq).start.readyOnce = true) :
    execResetReq q seq s = .next (askReset (begun s q seq) (if r.par 0 1 = 1 then 2 else 1) [(q, seq)]) := by
  rw [execResetReq, withCmd_starts _ _ _ _ _ _ h]
  rcases hk with hk | hk <;> simp [hl, hk, hr, extentOf]

end

/-- The end of a reset for which one command waits completes it OK. -/
theorem resetEnds_one (v : State) (q seq : Nat) (hs : v.start.sliceAsk = []) (hw : v.start.waiting = [(q, seq)]) :
    resetEnds v = finish { v with start := { v.start with reset_ := 0, waiting := [], sliceAsk := [] } } q seq stOk 0 := by
  simp [resetEnds, hs, hw]

/-- Once the scrubs are over, the one slice reset that waits for them ends. -/
theorem settleScrubs_one (v : State) (slice q seq : Nat) (hb : 20 ≤ v.tkp.beat) (hs : v.slc.scrubBy = [(slice, (q, seq))]) :
    settleScrubs v = sliceResetEnds { v with tiles := v.tiles.map fun (t : Nat × Tile) =>
      if t.2.state = .scrub then (t.1, { t.2 with state := idleState v t.1 }) else t } slice q seq := by
  simp [settleScrubs, Nat.not_lt.mpr hb, hs]

/-- The sideband's request is answered as it is asked for (log 113); a cold one takes the answer with it. -/
theorem execResetRequest_running (s : State) (kind slice : Nat) (hgood : s.pwr.pwrGood = true) (hc : cpState s 7 = 1) :
    (kind = 0 → execResetRequest kind slice s = .next (coldLoss s)) ∧
    (kind = 3 → slice ≤ 63 → execResetRequest kind slice s = .next (vendorReply (askSlice s slice none) 0x05 stOk [])) ∧
    (kind = 1 ∨ kind = 2 → s.start.readyOnce = true →
      execResetRequest kind slice s = .next (vendorReply (askReset s (if kind = 1 then 2 else 1) []) 0x05 stOk [])) := by
  rw [execResetRequest, vendorCp7_running s hgood hc]
  refine ⟨fun hk => ?_, fun hk hs => ?_, fun hk hr => ?_⟩
  · simp [hk]
  · simp [hk, Nat.not_lt.mpr hs]
  · rcases hk with hk | hk <;> simp [hk, hr, extentOf]

/-- No channel fails training when all 32 have trained. -/
theorem untrained_all (s : State) : untrained s (BitVec.allOnes 32) = [] := by
  rw [untrained, List.filter_eq_nil_iff]
  intro c hc
  rw [BitVec.getLsbD_allOnes, decide_eq_true (List.mem_range.mp hc)]
  simp

/-- A warm reset at a seam whose BIST and training find nothing brings the device to READY. -/
theorem execWarmReset_good (s : State) (b : BistResult) (l : List (Nat × List Byte)) (hgood : s.pwr.pwrGood = true)
    (hready : s.start.readyOnce = true) (hras : s.ras.state ≠ 2) (hbeat : s.tkp.beat = 0) :
    let u := discardLines (warmFabric (breakLists (warmRadio (warmStop s)))) l
    let v := buildRepair (debugCloses { u with sec := { u.sec with nonce := none } }) b
    v.2 = none → execWarmReset b (BitVec.allOnes 32) l s = .next (dropDone (warmReady (warmContexts (warmServing (warmFirmware v.1))))) := by
  intro u v hv
  have hgo : ¬(!s.pwr.pwrGood ∨ !s.start.readyOnce ∨ s.ras.state = 2 ∨ s.tkp.beat ≠ 0) := by simp [hgood, hready, hras, hbeat]
  rw [execWarmReset, if_neg hgo]
  simp only [u, v] at hv ⊢
  simp only [hv, untrained_all, List.isEmpty_nil, Bool.not_true, Bool.false_eq_true, if_false]

/-- A function reset that no warm reset absorbs drops every queue and resets the admin registers. -/
theorem execFunctionReset_alone (s : State) (l : List (Nat × List Byte)) (hgood : s.pwr.pwrGood = true)
    (hready : s.start.readyOnce = true) (hras : s.ras.state ≠ 2) (hask : s.start.reset_ < 2) :
    let u := (s.hst.queues.map fun (x : Nat × Queue) => x.1).foldl dropQueue (discardLines s l)
    let v : State := { u with
      hst := { u.hst with aqSq := 0, aqCq := 0, aqCfg := 0x44, aqVersion := false, aqInvalid := false, aqBusy := false, msix := [], msixTab := [], pba := [], busMaster := false }
      mem := { u.mem with hostBias := [] }
      slc := { u.slc with pages := u.slc.pages.map fun (p : Nat × Page) => (p.1, { p.2 with ctrl := 0x14 }) }
      rad := { u.rad with noL2Bus := true } }
    execFunctionReset l s = .next (resetEnds (buildReport (debugCloses v) 3 false)) := by
  have hgo : ¬(!s.pwr.pwrGood ∨ !s.start.readyOnce ∨ s.ras.state = 2 ∨ 2 ≤ s.start.reset_) := by simp [hgood, hready, hras, hask]
  rw [execFunctionReset, if_neg hgo]

/-- While a more extensive reset is asked a slice reset does nothing. -/
theorem execSliceReset_absorbed (s : State) (slice : Nat) (h : s.start.reset_ ≠ 0) : execSliceReset slice s = .next s := by
  cases ha : s.start.sliceAsk.find? (fun a => a.1 == slice) with
  | none => simp [execSliceReset, ha]
  | some a => simp [execSliceReset, ha, h]

/-- A slice reset that has been asked for, at a seam: of its commands the first waits for the end of the scrubs. -/
theorem execSliceReset_seam (s : State) (slice : Nat) (a : Nat × Option (Nat × Nat))
    (ha : s.start.sliceAsk.find? (fun a => a.1 == slice) = some a) (hbeat : s.tkp.beat = 0) (hask : s.start.reset_ = 0) :
    let cmds := (s.start.sliceAsk.filter fun a => a.1 == slice).filterMap fun a => a.2
    let u := renewKeys (sliceTorn { s with start := { s.start with sliceAsk := s.start.sliceAsk.filter fun a => a.1 != slice } } slice) slice
    let v : State := { u with slc := { u.slc with scrubBy := NMap.insert u.slc.scrubBy slice (cmds.head?.getD (512, 0))
                                                  pages := NMap.modify u.slc.pages {} slice fun x => { x with inReset := true } } }
    execSliceReset slice s = .next ((cmds.drop 1).foldl (fun x c => finish x c.1 c.2 stOk 0) v) := by
  simp [execSliceReset, ha, hbeat, hask]

/-- Settles O46: each request and each reset is its meaning with its checks passed. -/
theorem resetCommands : Obligations.ResetCommands := by
  unfold Obligations.ResetCommands
  intro s q seq kind slice b l r a
  refine ⟨fun h hl => ⟨execResetReq_slice s q seq r h hl, execResetReq_device s q seq r h hl, fun k => askReset_waits _ k q seq⟩,
    fun v => resetEnds_one v q seq, fun v => settleScrubs_one v slice q seq, execResetRequest_running s kind slice,
    fun hgood hready hras => ⟨?warm, execFunctionReset_alone s l hgood hready hras⟩, execSliceReset_absorbed s slice, execSliceReset_seam s slice a⟩
  case warm => exact execWarmReset_good s b l hgood hready hras

end Sys2Proof.Machine
end

section
/-!
PROOFS OF 02_package_power_and_pins.md. Array operations and what a tile fault leaves running (R32, 05 R98 to R101, R119), the lid on its
input (R21 to R26), current, heat, the governor and telemetry (R26 to R36), and the start (R26, 16 R352, 21 R457 to R460).
-/
namespace Sys2Proof.Machine

/-! ### What ends of commands and the failure of the device leave alone: the tiles -/

theorem StoresOnly.tiles {s t : State} (h : StoresOnly s t) : t.tiles = s.tiles := by
  obtain ⟨m, e, f, h, rfl⟩ := h
  rfl

/-- A fold whose steps leave the tiles alone leaves them alone. -/
theorem foldl_tiles {α : Type} (f : State → α → State) (hf : ∀ x a, (f x a).tiles = x.tiles) (l : List α) (s : State) :
    (l.foldl f s).tiles = s.tiles := by
  induction l generalizing s with
  | nil => rfl
  | cons a l ih => exact (ih _).trans (hf s a)

@[simp] theorem recordEvent_tiles (s : State) (code source : Nat) (args : List Nat) : (recordEvent s code source args).tiles = s.tiles :=
  (recordEvent_recordsOnly s code source args).storesOnly.tiles

@[simp] theorem recordEvent_pwr (s : State) (code source : Nat) (args : List Nat) : (recordEvent s code source args).pwr = s.pwr := by
  obtain ⟨e, f, h, eq⟩ := recordEvent_recordsOnly s code source args
  rw [eq]

@[simp] theorem devPut_tiles (s : State) (a : Nat) (bs : List Byte) : (devPut s a bs).tiles = s.tiles := (devPut_storesOnly s a bs).tiles

@[simp] theorem ctxState_tiles (s : State) (c st : Nat) : (ctxState s c st).tiles = s.tiles := (trace_storesOnly _ _ _ _ _).tiles

@[simp] theorem putPacket_tiles (s : State) (port : Nat) (p : Packet) : (putPacket s port p).tiles = s.tiles := rfl

@[simp] theorem transmit_tiles (s : State) (d : Nat) (w : OutReq) : (transmit s d w).1.tiles = s.tiles := by
  simp only [transmit]
  split
  · rfl
  · split <;> rfl

@[simp] theorem hold_tiles (s : State) (d : Nat) (o : OutReq) : (hold s d o).tiles = s.tiles := rfl

@[simp] theorem issueReq_tiles (s : State) (d : Nat) (pkt : Packet) (origin : Option (Nat × Nat × Nat)) (key : Option Nat) :
    (issueReq s d pkt origin key).tiles = s.tiles := by
  simp only [issueReq]
  repeat' split
  all_goals simp

@[simp] theorem portLeaves_tiles (s : State) (port st : Nat) : (portLeaves s port st).tiles = s.tiles := by
  simp only [portLeaves]
  split
  · exact foldl_tiles _ (fun x _ => recordEvent_tiles x _ _ _) _ _
  · rfl

@[simp] theorem journalPut_tiles (s : State) (r : JRec) : (journalPut s r).tiles = s.tiles :=
  foldl_tiles _ (fun _ _ => by simp) _ _

@[simp] theorem coalesce_tiles (s : State) (q : Nat) (x : Queue) : (coalesce s q x).tiles = s.tiles := by
  unfold coalesce
  split <;> rfl

@[simp] theorem ringPut_tiles (s : State) (q : Nat) (x : Queue) (c : List Byte) : (ringPut s q x c).tiles = s.tiles := by
  simp only [ringPut, coalesce_tiles]
  split <;> simp

@[simp] theorem postDone_tiles (s : State) (r : JRec) (repost : Bool) : (postDone s r repost).tiles = s.tiles := by
  simp only [postDone, postCpl]
  repeat' split
  all_goals simp

@[simp] theorem unmirror_tiles (s : State) : (unmirror s).tiles = s.tiles := by
  simp only [unmirror, recordEvent_tiles, latchAttn_tiles]
  refine foldl_tiles _ (fun x w => ?_) _ _
  split <;> simp

@[simp] theorem mirrorStore_tiles (s : State) (q seq : Nat) : (mirrorStore s q seq).tiles = s.tiles := by
  simp only [mirrorStore]
  repeat' split
  · rfl
  · exact foldl_tiles _ (fun _ _ => issueReq_tiles _ _ _ _ _) _ _
  · rfl
  · simp

@[simp] theorem finish_tiles (s : State) (q seq status : Nat) (value : W64) : (finish s q seq status value).tiles = s.tiles := by
  simp only [finish, finishAt]
  repeat' split
  all_goals simp

@[simp] theorem heldCheck_tiles (s : State) (c : Nat) : (heldCheck s c).tiles = s.tiles := by
  simp only [heldCheck]
  split
  · rw [foldl_tiles _ (fun _ _ => finish_tiles _ _ _ _ _)]
    simp
  · rfl

@[simp] theorem deviceFail_tiles (s : State) (code source : Nat) (args : List Nat) : (deviceFail s code source args).tiles = s.tiles := by
  simp only [deviceFail]
  split
  · rfl
  · simp only [fenceAll, finishAll]
    rw [foldl_tiles _ (fun _ _ => portLeaves_tiles _ _ _), foldl_tiles _ (fun _ _ => finish_tiles _ _ _ _ _)]
    simp

/-! ### Tiles read and written -/

@[simp] theorem tileAt_setTile (s : State) (t i : Nat) (x : Tile) : tileAt (setTile s t x) i = if t = i then x else tileAt s i :=
  NMap.getD_insert _ _ _ _ _

/-- A faulted tile runs nothing (20 R438): the fault clears it, and what follows only records, ends commands and fences ports. -/
theorem tileFault_run (s : State) (t cause : Nat) : (tileAt (tileFault s t cause) t).run = none := by
  simp only [tileFault]
  repeat' split
  all_goals simp [tileAt, setTile, clearRun, NMap.getD_insert]

/-- After the fault of a mismatch the tile runs nothing (05 R119). -/
theorem residueFault_run (s : State) (t : Nat) (m : Nat × Nat × Nat × Nat × Nat) : (tileAt (residueFault s t m) t).run = none :=
  tileFault_run _ _ _

/-! ### Array operations (05 R98 to R101, 07 R158; R32) -/

@[simp] theorem setArr_run (x : Tile) (a : Nat) (u : ArrayUnit) : (x.setArr a u).run = x.run := by
  unfold Tile.setArr
  split <;> rfl

section
variable (s : State) (t c arr : Nat) (f : Tile → SlotRes)

/-- An operation of an array that issues and meets its rules leaves the tile as its effect says, and starts the array. -/
theorem arrayOp_done (h : Issues s t c) (y : Tile) (hy : y.run = (found s t c).run) (e : f (found s t c) = .done y) :
    arrayOp s t c arr f = arrayStart (afterOp s t c y) t arr := by
  have ⟨hrun, hwait, _⟩ := h
  have hafter : (tileAt (afterOp s t c y) t).run.isSome = true := by simpa [afterOp, hy] using hrun
  simp only [arrayOp, slotOp_done s t c f y h e]
  exact if_pos ⟨hafter, hwait⟩

/-- On a tile on which a mismatch has shown it faults and starts no array (05 R119). -/
theorem arrayOp_struck (m : Nat × Nat × Nat × Nat × Nat) (hrun : (tileAt (reached s t c) t).run.isSome = true)
    (hwait : (tileAt (reached s t c) t).wait = none) (hm : (found s t c).struck c = some m) :
    arrayOp s t c arr f = residueFault (reached s t c) t m := by
  simp [arrayOp, slotOp_struck s t c f m hrun hwait hm, residueFault_run]

end

/-- Four rules met make the condition of an issue. -/
theorem and4_true {a b c d : Bool} (ha : a = true) (hb : b = true) (hc : c = true) (hd : d = true) : (a && b && c && d) = true := by
  simp [ha, hb, hc, hd]

/-- Settles O10: each operation is `arrayOp` of its effect; where its issue rules are met the effect is done. -/
theorem arrayOps : Obligations.ArrayOps := by
  unfold Obligations.ArrayOps
  intro s t c o err x rd u w i j ret v
  refine ⟨fun m hrun hwait hm => ?struck, fun h hspaced => ⟨fun hacc hfilled hclass => ?mma, ?wld, fun hused hsettled hport => ?rout,
    fun hused hsettled hport => ?lout, fun hacc hsettled hport => ?lin⟩⟩
  case struck => exact congrArg Host.Outcome.next (arrayOp_struck s t c _ _ m hrun hwait hm)
  case mma =>
    exact congrArg Host.Outcome.next (arrayOp_done s t c _ _ h _ (setArr_run _ _ _) (if_pos (and4_true hspaced hacc hfilled (beq_iff_eq.mpr hclass))))
  case wld => exact congrArg Host.Outcome.next (arrayOp_done s t c _ _ h _ (setArr_run _ _ _) (if_pos hspaced))
  case rout =>
    exact congrArg Host.Outcome.next (arrayOp_done s t c _ _ h _ (setArr_run _ _ _) (if_pos (and4_true hspaced hused hsettled hport)))
  case lout =>
    exact congrArg Host.Outcome.next (arrayOp_done s t c _ _ h _ (setArr_run _ _ _) (if_pos (and4_true hspaced hused hsettled hport)))
  case lin =>
    exact congrArg Host.Outcome.next (arrayOp_done s t c _ _ h _ (setArr_run _ _ _) (if_pos (and4_true hspaced hacc hsettled hport)))

/-! ### The lid on its input (R21 to R26) -/

section
variable (s : State) (mv bulk regs : Nat)

/-- With the bulk at 43 V the rails come up to the step that `regs` rails in regulation reach; with all seven PWR_GOOD rises (R25). -/
theorem execPowerUp_rails (hgood : s.pwr.pwrGood = false) (htrip : s.pwr.thermtrip = false) (hbulk : 43000 ≤ bulk) :
    let up : Power := { s.pwr with pwrEn := true, bulkMv := bulk, railStep := railReached s.pwr.railStep regs }
    execPowerUp ⟨bulk, regs⟩ s = if regs < 7 then .next { s with pwr := up } else .next { s with
      pwr := { up with pwrGood := true, stageOne := true }
      tim := { s.tim with raw := 0 }, tkp := { s.tkp with now := 0, beat := 0 }, start := { s.start with step := 1 } } := by
  simp [execPowerUp, hgood, htrip, Nat.not_lt.mpr hbulk]

section
variable (hgood : s.pwr.pwrGood = true)
include hgood

/-- Below 42 V the first report begins an interruption, and a further one only tells the levels (R22, log 68). -/
theorem execBrownout_low (hmv : mv < 42000) : execBrownout ⟨mv, bulk⟩ s = .next (
    if s.pwr.inLow then { s with pwr := s.pwr.meter ⟨mv, bulk⟩ }
    else interruptIn { s with pwr := { s.pwr.meter ⟨mv, bulk⟩ with inLow := true } }) := by
  simp [execBrownout, Nat.not_le.mpr hmv, hgood]

/-- Above 42 V the input has returned (R23). -/
theorem execBrownout_returns (hlow : s.pwr.inLow = true) (hmv : 42000 < mv) :
    execBrownout ⟨mv, bulk⟩ s = .next { s with pwr := inReturns (s.pwr.meter ⟨mv, bulk⟩) } := by
  simp [execBrownout, hmv, hmv.le, hgood, hlow]

/-- An interruption shuts the device down after 2 ms, or with the bulk at 30 V, and not before (R21, R23). -/
theorem execBrownoutShutdown_interrupted (hint : s.pwr.interrupted = true) (f : Nat) (hf : s.pwr.fellAt = some f) :
    execBrownoutShutdown s = .next (if f + 2000000 ≤ s.tim.raw ∨ s.pwr.bulkMv ≤ 30000 then coldLoss s else s) := by
  simp only [execBrownoutShutdown, lasted2ms, hgood, hint, hf, lidShutdown, true_and, decide_eq_true_eq]
  split <;> rfl

/-- Above 59 V stage one stops, which is an interruption; a further report only tells the levels (R24, log 68). -/
theorem execOvervolt_high (hmv : 59000 < mv) : execOvervolt ⟨mv, bulk⟩ s = .next (
    if s.pwr.stageOne then interruptIn (recordEvent { s with pwr :=
      { s.pwr.meter ⟨mv, bulk⟩ with stageOne := false, overvoltSt := true } } 0xB004 srcHw [])
    else { s with pwr := s.pwr.meter ⟨mv, bulk⟩ }) := by
  cases hone : s.pwr.stageOne <;> simp [execOvervolt, hmv, hgood, hone]

/-- Below 57 V stage one restarts (R24). -/
theorem execOvervoltClear_restarts (hone : s.pwr.stageOne = false) (hmv : mv < 57000) : execOvervoltClear mv s =
    .next { s with pwr := { s.pwr with vinMv := mv, stageOne := true, interrupted := s.pwr.inLow
                                       fellAt := if s.pwr.inLow then s.pwr.fellAt else none } } := by
  simp [execOvervoltClear, hmv, hgood, hone]

end

/-- An interruption counts from its first fall (R23). -/
theorem interruptIn_eq : interruptIn s = holdAll (recordEvent { s with pwr := { s.pwr with
    interrupted := true, brownoutSt := true, fellAt := some (s.pwr.fellAt.getD s.tim.raw) } } 0xB001 srcHw []) := by
  cases h : s.pwr.fellAt <;> simp [interruptIn, h]

end

/-- Settles O14: each report of the lid is its case of the levels measured and of what the lid already holds. -/
theorem supplyEvents : Obligations.SupplyEvents := by
  unfold Obligations.SupplyEvents
  intro s mv bulk regs rail p
  refine ⟨fun hgood htrip hbulk => ?up, rfl, fun hgood hmv => ?low, fun hgood hlow hmv => ?returns, fun hgood hint f hf => ?shutdown,
    fun hgood hmv => ?overvolt, fun hgood hone hmv => ?clear, fun hgood => ?trip, fun x => ⟨interruptIn_eq x, rfl⟩⟩
  case up =>
    have e := execPowerUp_rails s bulk regs hgood htrip hbulk
    exact ⟨fun hr => e.trans (if_pos hr), fun hr => e.trans (if_neg (Nat.not_lt.mpr hr))⟩
  case low =>
    rw [exec_brownout, execBrownout_low s mv bulk hgood hmv]
    exact ⟨fun h => by rw [h]; rfl, fun h => by rw [h]; rfl⟩
  case returns => exact execBrownout_returns s mv bulk hgood hlow hmv
  case shutdown =>
    rw [exec_brownoutShutdown, execBrownoutShutdown_interrupted s hgood hint f hf]
    exact ⟨fun h => by rw [if_pos h], fun hraw hb => by rw [if_neg (by omega)]⟩
  case overvolt =>
    rw [exec_overvolt, execOvervolt_high s mv bulk hgood hmv]
    exact ⟨fun h => by rw [h]; rfl, fun h => by rw [h]; rfl⟩
  case clear => exact execOvervoltClear_restarts s mv hgood hone hmv
  case trip => exact if_pos hgood

/-! ### Current, heat, the governor and telemetry (R26 to R36) -/

section
variable (s : State) (cd hd : List Int) (hgood : s.pwr.pwrGood = true)
include hgood

/-- A sample at 110 °C asserts THERMTRIP_N and shuts the device down (R36). -/
theorem execThermalSample_trips (hot : ∃ t ∈ cd ++ hd, 880 ≤ t) :
    execThermalSample cd hd s = .next (coldLoss { s with pwr := { s.pwr with thermtrip := true } }) := by
  have hany : (cd ++ hd).any (fun t => decide (880 ≤ t)) = true := by simpa only [List.any_eq_true, decide_eq_true_eq] using hot
  simp only [execThermalSample, hgood, hany, Bool.not_true, Bool.false_eq_true, if_false, if_true, lidShutdown]

/-- The first cooler sample of a tick moves the duty of each die by the thermal rule (R35). -/
theorem execThermalSample_steps (hnew : s.pwr.thermAt ≠ s.tkp.now + 1) (cool : ∀ t ∈ cd ++ hd, t < 880) :
    let res := (List.range 4).map fun d =>
      thermalStep (actingTemp (cd.getD d 0) hd) (NMap.getD s.pwr.thermDuty d 1234) (NMap.find? s.pwr.throttled d).isSome
    let on : NMap Nat := (List.range 4).filterMap fun d => if (res.getD d (1234, false)).2 then some (d, 1) else none
    let t : State := { s with pwr := { s.pwr with hottest := cd ++ hd, throttled := on, thermAt := s.tkp.now + 1
                                                  thermDuty := (List.range 4).map fun d => (d, (res.getD d (1234, false)).1) } }
    execThermalSample cd hd s = .next (if s.pwr.throttled.isEmpty ∧ !on.isEmpty then latchAttn t 4 else t) := by
  have hany : (cd ++ hd).any (fun t => decide (880 ≤ t)) = false := by
    simpa only [List.any_eq_false, decide_eq_true_eq, not_le] using cool
  simp only [execThermalSample, hgood, hany, hnew, Bool.not_true, Bool.false_eq_true, if_false]

end

/-- The floor's power that the governor predicts for the next tick (R29, R33). -/
def floorNext (s : State) : Nat := match nextPlan s with | some p => floorPrediction s p | none => s.pwr.predFloor

section
variable (s : State) (inMw floorMw openMw beats : Nat)

/-- In the dusk band, or a second time in a tick, the governor does nothing (R29). -/
theorem execGovernorDuty_late (h : 1234 ≤ s.tkp.beat ∨ s.pwr.govAt = s.tkp.now + 1) :
    execGovernorDuty inMw floorMw openMw beats s = .next s := if_pos h

/-- While CP7 restarts the lowest duty of its last 64 ticks applies, under the thermal duty (18 R398, R399). -/
theorem execGovernorDuty_restarting (h : ¬(1234 ≤ s.tkp.beat ∨ s.pwr.govAt = s.tkp.now + 1)) (hcp : cpState s 7 = 2) :
    execGovernorDuty inMw floorMw openMw beats s =
      .next { s with pwr := { s.pwr with nextDuty := perDieDuty s (s.pwr.duties64.foldl min 1234), govAt := s.tkp.now + 1 } } := by
  rw [execGovernorDuty, if_neg h, if_pos hcp]

end

/-- Settles O15: each command is its case; the floor's power that the statement writes out is the model's `floorPrediction` of the next plan. -/
theorem powerControl : Obligations.PowerControl := by
  unfold Obligations.PowerControl
  intro s die amps inMw floorMw openMw beats cd hd e
  refine ⟨fun hdie hamps hgood hfree => if_pos ⟨hdie, hamps, hgood, hfree⟩, fun hgood hnew cool => ?steps,
    execThermalSample_trips s cd hd, execGovernorDuty_late s inMw floorMw openMw beats, fun hbeat hnew => ⟨?restarting, ?running⟩,
    fun hbase hnew => ?telemetry⟩
  case steps =>
    rw [exec_thermalSample, execThermalSample_steps s cd hd hgood hnew cool]
    simp
  case restarting => exact execGovernorDuty_restarting s _ _ _ _ (by omega)
  case running =>
    intro hcp floorDw opens sysMw c budget duty hist t v
    rw [exec_governorDuty, execGovernorDuty, if_neg (by omega), if_neg (by omega), if_neg (by simpa using hcp)]
    -- the statement writes the prediction out; with it under the model's name both sides compute one budget
    have hfloor : floorDw = floorNext s := by
      simp only [floorDw, floorNext]
      cases nextPlan s <;> rfl
    clear_value floorDw
    subst hfloor
    by_cases hover : budget < 0
    · rw [if_pos hover]
      exact if_pos hover
    · rw [if_neg hover]
      exact if_neg hover
  case telemetry => exact if_neg (by simp [hbase, hnew])

/-! ### The start (R26, 16 R352, 21 R457 to R462) -/

/-- With its tests passed the SP ROM derives PID from the PUF and awaits the bundle (21 R457, R458, 23 R492). -/
theorem execColdStart_passes (s : State) (reads : List (List Byte)) (key : List Byte) (hgood : s.pwr.pwrGood = true)
    (hstep : s.start.step = 1) (hras : s.ras.state = 0) :
    let t := readTrip (recordEvent s 0x0001 srcSp [])
    execColdStart true true reads key s = .next { t with
      start := { t.start with step := 2 }
      sec := { t.sec with state := 1, pufIndex := majorityOf reads, pid := (sha3_512 (majorityOf reads)).take 16, pufKey := key } } := by
  simp [execColdStart, hgood, hstep, hras]

section
variable (s : State) (b : Bundle) (e : StartEnv) (hwait : s.sec.state = 1)
include hwait

/-- A bundle that no check refuses is accepted, and the steps to READY run (21 R460, 23 R492). -/
theorem execBundleLoad_accepts (hok : bundleFail s b = none) (id : List Byte × List Byte × List Byte) (hid : identityOf s b = some id) :
    execBundleLoad b e s = .next (startSteps (mbxAnswer (acceptBundle s b id) stOk) b e) := by
  simp [execBundleLoad, hwait, hok, hid]

/-- A bundle that a check refuses is answered with the status of that check (21 R462). -/
theorem execBundleLoad_refuses (n : Nat) (hfail : bundleFail s b = some n) :
    execBundleLoad b e s = .next (mbxAnswer (refuseBundle s n) (refusalStatus b n)) := by
  simp [execBundleLoad, hwait, hfail]

end

/-- Settles O16: each command is its case in `execColdStart` and `execBundleLoad`; the latch of a tripped rail is read by `readTrip`. -/
theorem startCommands : Obligations.StartCommands := by
  unfold Obligations.StartCommands
  intro s reads key b e lanes gts id
  refine ⟨fun hgood hstep hras => ?cold, fun hwait hok => execBundleLoad_accepts s b e hwait hok id,
    fun n hwait => execBundleLoad_refuses s b e hwait n, fun hgood hlanes hgts => if_pos ⟨hgood, hlanes, hgts⟩⟩
  case cold =>
    rw [exec_coldStart, execColdStart_passes s reads key hgood hstep hras]
    cases htrip : s.pwr.tripLatch <;> simp [readTrip, htrip]

end Sys2Proof.Machine
end

section
/-!
PROOFS OF 03_ticks_beats_and_seams.md. What every step keeps (R45), what an idle beat does (R44), the dusk band and the seam (R44 to R54),
the overcast word, the dispatcher and the end of kernels (R60, R61, 04 R71 to R85), device time (15 R338 to R346), and the seam-bound
commands of administration (R48, R49, R503).
-/
namespace Sys2Proof

/-- A map with every value changed lists a key's changed value. -/
theorem NMap.find?_mapVal {α β : Type} (m : NMap α) (f : α → β) (k : Nat) :
    NMap.find? (m.map fun e => (e.1, f e.2)) k = (NMap.find? m k).map f := by
  induction m with
  | nil => rfl
  | cons e m ih =>
    simp only [List.map_cons, NMap.find?, ih]
    split <;> rfl

end Sys2Proof

namespace Sys2Proof.Machine

theorem mem_addSet_self (l : List Nat) (x : Nat) : x ∈ addSet l x := by
  induction l with
  | nil => exact List.mem_singleton_self x
  | cons y ys ih =>
    rw [addSet]
    split
    · exact List.mem_cons_self
    · split
      · next h => exact h ▸ List.mem_cons_self
      · exact List.mem_cons_of_mem _ ih

/-! ### What every step keeps (R45) -/

/-- A step that goes on loses the front command of the queue, and keeps both memories and the beat in form (R45). -/
theorem step_keepsOut (s : State) (h : s.Inv) : KeepsOut s.pending.tail (step s) := by
  obtain ⟨⟨hdev, hhost⟩, hbeat⟩ := h
  unfold step
  split
  · next hq => exact keeps_beatPasses s ⟨hdev, hhost, hbeat, by simp [hq]⟩
  · next c rest hq =>
    rw [hq]
    exact keeps_exec c _ ⟨hdev, hhost, hbeat, rfl⟩

/-- Settles O53: the command in front keeps them by `keeps_exec`, a beat that passes by `keeps_beatPasses`. -/
theorem stepKeepsInv : Obligations.StepKeepsInv := by
  unfold Obligations.StepKeepsInv
  intro s s' hinv hstep
  obtain ⟨hdev, hhost, hbeat, hq⟩ := keeps_of_next (step_keepsOut s hinv) hstep
  exact ⟨⟨⟨hdev, hhost⟩, hbeat⟩, hq⟩

/-! ### What an idle beat does (R44, 04 R91) -/

/-- A powered device at beat 0 with an empty queue, and one byte of timed data that reaches the store of tile 0 in the beat that passes (04 R91). -/
def timedByteDue : State :=
  let s := State.reset
  { s with pwr := { s.pwr with pwrGood := true }, tkp := { s.tkp with flying := [(1, 0, [(64, 7)])] } }

/-- The timed byte arrives while no command waits: the idle beat writes the store of tile 0. -/
theorem step_timedByteDue : step timedByteDue = .next (beatPasses timedByteDue) ∧
    NMap.getD (tileAt timedByteDue 0).st 64 0 = 0 ∧ NMap.getD (tileAt (beatPasses timedByteDue) 0).st 64 0 = 7 := by
  refine ⟨rfl, rfl, ?_⟩
  decide +kernel

/-- Refutes O51: a timed transfer that is due arrives in the beat that passes (04 R91), so an idle beat changes the tiles. -/
theorem not_stepRunsFront : ¬ Obligations.StepRunsFront := by
  unfold Obligations.StepRunsFront
  rintro ⟨-, idle⟩
  obtain ⟨hstep, hbefore, hafter⟩ := step_timedByteDue
  obtain ⟨t, ht, -, -, -, frame, -⟩ := (idle timedByteDue rfl).2 rfl
  obtain ⟨-, -, -, htiles⟩ := frame (by decide)
  cases hstep.symm.trans ht
  have hsame : tileAt (beatPasses timedByteDue) 0 = tileAt timedByteDue 0 := by simp only [tileAt, htiles]
  rw [hsame, hbefore] at hafter
  exact absurd hafter (by decide)

/-! ### The dusk band and the seam (R44 to R54) -/

/-- What an ended tick still owes, done when its seam comes: guards, timed transfers, state checks, scrubs, the dusk band and the substitute
of a missing plan (log 2). -/
def tickEnds (s : State) : State :=
  let a := timedLand (settleGuards s true) true
  let b := if s.tkp.beat < 1234 then checkSeam a else a
  let c := settleScrubs { b with tkp := { b.tkp with beat := max s.tkp.beat 1234 } }
  let d := substitute (if c.tkp.frozen then c else duskBegins c)
  { d with tkp := { d.tkp with beat := s.tkp.beat } }

section
variable (s : State) (hgood : s.pwr.pwrGood = true)
include hgood

/-- DUSK_BAND in its band, the first time in a tick (R47, R50, R54). -/
theorem execDuskBand_begins (hbeat : 1234 ≤ s.tkp.beat) (hfrozen : s.tkp.frozen = false) : execDuskBand s = .next (duskBegins s) := by
  simp [execDuskBand, hgood, hbeat, hfrozen]

/-- SEAM ends the tick, raises the index, takes a decided step, and then has its effects (R44, R46, R50). -/
theorem execSeam_good (e : SeamEnv) : execSeam e s = .next (seamEffects (stepSeamNow (tickOn (debtSeam (tickEnds s)) e.seamErr)) e) :=
  if_neg (by simp [hgood])

end

/-- Settles O17: SEAM is `execSeam_good`, and the fields of the new tick are those of `tickOn`. -/
theorem seamAndDuskBand : Obligations.SeamAndDuskBand := by
  unfold Obligations.SeamAndDuskBand
  intro s e hgood
  refine ⟨⟨?seam, rfl, rfl, rfl, rfl⟩, fun hbeat hfrozen => ⟨execDuskBand_begins s hgood hbeat hfrozen, rfl, rfl, rfl, rfl⟩⟩
  case seam => exact execSeam_good s hgood e

/-! ### The overcast word and the dispatcher (R60, 04 R71 to R85) -/

/-- The state in which a beat's word issues and its arrivals are placed: guards and scrubs that are over are settled (log 54). -/
def settled (s : State) : State := settleScrubs (settleGuards s false)

section
variable (s : State) (hbeat : (settled s).tkp.beat ≤ 1233)
include hbeat

/-- OVERCAST_WORD issues the word of a beat that has not issued (04 R76, log 89). -/
theorem execOvercastWord_issues (hnew : (settled s).tkp.beat ∉ (settled s).tkp.issued) :
    let u := settled s
    let v := ((wordsNow u).filter fun w => w.beat == u.tkp.beat).foldl (fun y w => w.entries.foldl issueEntry y) (timedGo (timedLand u false))
    execOvercastWord s = .next { v with tkp := { v.tkp with issued := addSet v.tkp.issued u.tkp.beat } } :=
  if_neg (by simpa [List.contains_iff_mem] using ⟨hbeat, hnew⟩)

/-- DISPATCH in normal operation visits the tiles, places the arrivals of each die, and counts the windows (04 R85, 17 R396). -/
theorem execDispatch_normal (hras : (settled s).ras.state = 0) (arr : List Arrival) :
    let u := settled s
    execDispatch arr s = .next (countWindows ((List.range 4).foldl (fun y d => arrive arr.length (arr.filter fun a => a.die == d) y d)
      ((List.range 160).foldl visitTile { u with dies := { u.dies with enqOut := [] } }))) :=
  if_neg (by simpa using ⟨hbeat, hras⟩)

end

/-! ### How a kernel ends (R60, R61, 04 R71, R72) -/

section
variable (s : State) (t : Nat) (r : Running) (hrun : (tileAt s t).run = some r)

/-- KERNEL_END may come: END has issued, every operation is over, and the beat boundary after them is reached (04 R71). -/
def Ended (s : State) (t : Nat) (r : Running) : Prop :=
  r.ended = true ∧ (tileAt s t).opsOver = true ∧ 1250 * r.tick + r.beat + beatsFor s (tileAt s t).total ≤ launch s

/-- A kernel still issues at its declared length (R60). -/
def Overruns (s : State) (r : Running) : Prop := r.ended = false ∧ 1250 * r.tick + r.beat + effLen s r.length ≤ launch s

/-- The mismatch that has shown on a tile before the kernel reaches its declared length (05 R119). -/
def lengthMismatch (s : State) (t : Nat) (r : Running) : Option (Nat × Nat × Nat × Nat × Nat) :=
  ((tileAt s t).land (beatCycles s * effLen s r.length)).struck (beatCycles s * effLen s r.length)

/-- DONE_PTR of a dynamic entry, but of no attention job, is counted (04 R81). -/
def countDone (s : State) (job : Option StealJob) : State :=
  match job with
  | some j => if j.attn.isSome = true ∨ tileRangeOk s j.donePtr 8 = false then s else bumpCounter s j.donePtr
  | none => s

/-- A block's job is folded into its attention job (09 R203). -/
def foldAttn (s : State) (job : Option StealJob) : State :=
  match job.bind (·.attn) with
  | some (q, seq, ch) => attnJobEnd s q seq ch
  | none => s

include hrun

theorem execKernelEnd_struck (radio : List RadioOut) (h : Ended s t r) (m : Nat × Nat × Nat × Nat × Nat)
    (hm : ((tileAt s t).land (tileAt s t).total).miss = some m) : execKernelEnd t radio s = .next (residueFault s t m) := by
  obtain ⟨hend, hover, hdue⟩ := h
  simp [execKernelEnd, hrun, hend, hover, hdue, hm]

theorem execKernelEnd_leaves (radio : List RadioOut) (h : Ended s t r) (hm : ((tileAt s t).land (tileAt s t).total).miss = none) :
    let a := leaveTile (setTile s t ((tileAt s t).land (tileAt s t).total)) t r (beatsFor s (tileAt s t).total)
    let e := foldAttn (countDone a r.job) r.job
    execKernelEnd t radio s = .next (if r.context = 1024 then radio.foldl radioOut e else e) := by
  obtain ⟨hend, hover, hdue⟩ := h
  rcases hjob : r.job with _ | j
  · simp [execKernelEnd, hrun, hend, hover, Nat.not_lt.mpr hdue, hm, hjob, countDone, foldAttn]
  · rcases hattn : j.attn with _ | ⟨q, seq, ch⟩ <;>
      simp [execKernelEnd, hrun, hend, hover, Nat.not_lt.mpr hdue, hm, hjob, hattn, countDone, foldAttn]

theorem execKernelOverrun_struck (h : Overruns s r) (m : Nat × Nat × Nat × Nat × Nat) (hm : lengthMismatch s t r = some m) :
    execKernelOverrun t s = .next (residueFault s t m) := by
  obtain ⟨hend, hdue⟩ := h
  simp only [lengthMismatch] at hm
  simp [execKernelOverrun, hrun, hend, hdue, hm]

theorem execKernelOverrun_verified (h : Overruns s r) (hm : lengthMismatch s t r = none) (hv : r.isStatic = true ∨ r.onFloor = true) :
    execKernelOverrun t s = .next (tileFault s t 0x1005) := by
  obtain ⟨hend, hdue⟩ := h
  simp only [lengthMismatch] at hm
  simp [execKernelOverrun, hrun, hend, hdue, hm, hv]

theorem execKernelOverrun_dynamic (h : Overruns s r) (hm : lengthMismatch s t r = none) (hs : r.isStatic = false) (hf : r.onFloor = false) :
    let a := leaveTile s t r (effLen s r.length)
    execKernelOverrun t s = .next (barContext (recordEvent { a with tkp := { a.tkp with faultOverrun := satAdd 16 a.tkp.faultOverrun 1 } }
      0x1005 srcHw [r.imageId]) r.context 0x1005) := by
  obtain ⟨hend, hdue⟩ := h
  simp only [lengthMismatch] at hm
  simp [execKernelOverrun, hrun, hend, hdue, hm, hs, hf]

theorem execWaitdTimeout_breaks (tag c : Nat) (hw : (tileAt s t).wait = some (tag, c))
    (hc : c < beatCycles s * (launch s - (1250 * r.tick + r.beat) + 1)) (hm : ((tileAt s t).land c).struck c = none) :
    execWaitdTimeout t s = .next (ruleBreak s t r c) := by
  simp [execWaitdTimeout, hrun, hw, hm, Nat.not_le.mpr hc]

end

/-- Settles O19: each command is its meaning with its conditions met. -/
theorem streamDispatchAndEnds : Obligations.StreamDispatchAndEnds := by
  unfold Obligations.StreamDispatchAndEnds
  intro s
  refine ⟨⟨execOvercastWord_issues s, fun arr hbeat hras => execDispatch_normal s hbeat hras arr⟩,
    fun t radio r hrun => ⟨?ends, ?overruns, ?waits⟩⟩
  case ends =>
    intro hend hover n hdue x a b e
    exact ⟨execKernelEnd_leaves s t r hrun radio ⟨hend, hover, hdue⟩, execKernelEnd_struck s t r hrun radio ⟨hend, hover, hdue⟩⟩
  case overruns =>
    intro hend hdue k
    exact ⟨execKernelOverrun_struck s t r hrun ⟨hend, hdue⟩, execKernelOverrun_verified s t r hrun ⟨hend, hdue⟩,
      execKernelOverrun_dynamic s t r hrun ⟨hend, hdue⟩⟩
  case waits => exact execWaitdTimeout_breaks s t r hrun

/-! ### PTP and ESMC messages (15 R343, R346, 12 R270, R271) -/

theorem pushStamp_room (x : FhPort) (taken v : Nat) (h : (x.txq.drop taken).length < 64) :
    pushStamp x taken (some v) = { x with txq := x.txq.drop taken ++ [v] } := if_pos h

theorem pushStamp_full (x : FhPort) (taken v : Nat) (h : 64 ≤ (x.txq.drop taken).length) :
    pushStamp x taken (some v) = { x with txq := x.txq.drop taken, stampOver := satAdd 16 x.stampOver 1 } := if_neg (Nat.not_lt.mpr h)

section
variable (s : State) (port mt id taken : Nat) (m : PtpMsg)

/-- An event message that leaves puts its stamp behind those that CP6 has not taken (R346). -/
theorem ptpLeft_room (h4 : mt < 4) (h : ((NMap.getD s.fh port {} : FhPort).txq.drop taken).length < 64) :
    (ptpLeft s port mt id taken m).txq =
      (NMap.getD s.fh port {} : FhPort).txq.drop taken ++ [stampEntry id mt port (timeAt s (s.tim.raw + m.ns))] := by
  simp only [ptpLeft, if_pos h4, pushStamp_room _ _ _ h]
  split <;> rfl

/-- At a full queue the stamp is dropped and counted, and a Sync gets no Follow_Up (R346, R347). -/
theorem ptpLeft_full (h4 : mt < 4) (h : 64 ≤ ((NMap.getD s.fh port {} : FhPort).txq.drop taken).length) :
    let x : FhPort := NMap.getD s.fh port {}
    let y := ptpLeft s port mt id taken m
    y.txq = x.txq.drop taken ∧ y.stampOver = satAdd 16 x.stampOver 1 ∧ (mt = 0 → id ∈ y.noFollow) := by
  simp only [ptpLeft, if_pos h4, pushStamp_full _ _ _ h, if_neg (Nat.not_lt.mpr h)]
  split
  · next h0 => exact ⟨rfl, rfl, fun h => absurd h h0⟩
  · exact ⟨rfl, rfl, fun _ => mem_addSet_self _ _⟩

/-- A general message leaves no stamp (R346). -/
theorem ptpLeft_general (h4 : 4 ≤ mt) : (ptpLeft s port mt id taken m).txq = (NMap.getD s.fh port {} : FhPort).txq.drop taken := by
  have h0 : mt ≠ 0 := by omega
  simp [ptpLeft, Nat.not_lt.mpr h4, h0, pushStamp]

end

section
variable (s : State) (port mt id taken : Nat) (sent : Bool) (m : PtpMsg)

theorem ptpForeign_iff : ptpForeign s mt m = true ↔
    mt ∈ [2, 3, 0xA, 0xD] ∨ m.domain ≠ s.tim.domain ∨ m.dest ∉ [0x011B19000000, 0x0180C200000E] := by
  simp [ptpForeign, or_assoc]

theorem execPtpMessage_ignored (h : portWorks s port = false ∨ ptpForeign s mt m = true) : execPtpMessage port mt id taken sent m s = .next s :=
  if_pos (by simpa using h)

variable (hport : portWorks s port = true) (hown : ptpForeign s mt m = false)
include hport hown

theorem execPtpMessage_sent : execPtpMessage port mt id taken true m s =
    .next (if ptpSends s port mt id then { s with fh := NMap.insert s.fh port (ptpLeft s port mt id taken m) } else s) := by
  simp [execPtpMessage, hport, hown]

theorem execPtpMessage_received (hp : port = s.tim.ptpPort) (hsrc : s.tim.source = 0) :
    let x : FhPort := NMap.getD s.fh port {}
    let u : State := { s with fh := NMap.insert s.fh port { x with txq := x.txq.drop taken } }
    let v := if mt = 0xB then announced u m else u
    execPtpMessage port mt id taken false m s =
      .next (match m.offset with | some d => if fromMaster v m = true then measure v d else v | none => v) := by
  intro x u v
  have htaken : ¬((!portWorks s port) = true ∨ ptpForeign s mt m = true) := by simp [hport, hown]
  have hsource : ¬(port ≠ s.tim.ptpPort ∨ s.tim.source ≠ 0) := by simp [← hp, hsrc]
  exact (if_neg htaken).trans (if_neg hsource)

end

/-- No Follow_Up leaves for a Sync whose stamp was dropped (R347). -/
theorem ptpSends_followUp (s : State) (port id : Nat) (h : id ∈ (NMap.getD s.fh port {} : FhPort).noFollow) : ptpSends s port 8 id = false := by
  simp [ptpSends, h]

theorem rateAgain_samePort (s u : State) (h : u.tim.syncePort = s.tim.syncePort) :
    rateAgain s u = if u.tim.state = 3 ∧ syncEGood s ≠ syncEGood u then holdRate u else u := by
  simp [rateAgain, h]

theorem execEsmcMessage_taken (s : State) (port ql : Nat) (hport : port = s.tim.syncePort) (hw : portWorks s port = true) :
    execEsmcMessage port ql s = .next (rateAgain s { s with tim := { s.tim with esmc := ql } }) := by
  simp [execEsmcMessage, ← hport, hw]

/-! ### PPS and time of day (15 R344) -/

theorem execPpsInEdge_compared (s : State) (ns : Nat) (h : s.tim.source = 0) :
    let d : Int := (timeAt s ns : Int) - s.tim.ppsDelay
    execPpsInEdge ns s = .next { s with tim := { s.tim with lastEdge := some ns, todNext := none, ppsErr := toSecond d } } := if_pos h

theorem execPpsInEdge_counted (s : State) (ns sec : Nat) (h : s.tim.source ≠ 0) (hn : s.tim.todNext = some sec) :
    let d : Int := (timeAt s ns : Int) - s.tim.ppsDelay
    execPpsInEdge ns s = .next (measure (sourceSeen { s with tim := { s.tim with lastEdge := some ns, todNext := none, ppsErr := toSecond d } })
      (d - 1000000000 * sec)) := by
  simp [execPpsInEdge, h, hn]

theorem todDue_none (s : State) (h : s.tim.ppsRaw = none) : todDue s = s := by
  simp [todDue, h]

theorem todDue_early (s : State) (r : Nat) (h : s.tim.ppsRaw = some r) (hr : s.tim.raw < r + 500000000) : todDue s = s := by
  simp [todDue, h, hr]

theorem todDue_due (s : State) (r lp : Nat) (h : s.tim.ppsRaw = some r) (hl : s.tim.leap = some lp) (hr : r + 500000000 ≤ s.tim.raw) :
    todDue s = { s with tim := { s.tim with ppsRaw := none, todSent := todLine (s.tim.ppsOut + 1) (bit1 (todValid s)) lp } } := by
  simp [todDue, h, hl, Nat.not_lt.mpr hr]

/-- An edge in the beat that holds a whole second of T. -/
theorem execPpsOut_edge (s : State) (sec : Nat) (hgood : s.pwr.pwrGood = true) (hnew : s.tim.ppsOut < sec) (hlo : timeNow s ≤ 1000000000 * sec)
    (hhi : 1000000000 * sec < timeNow s + 1000000000) (hbeat : 1000000000 * sec < timeAt s (s.tim.raw + 100)) (hnone : s.tim.ppsRaw = none) :
    execPpsOut s = .next { s with tim := { s.tim with ppsOut := sec, ppsRaw := some s.tim.raw } } := by
  have hsec : (timeNow s + 999999999) / 1000000000 = sec := by omega
  simp [execPpsOut, hsec, hgood, Nat.not_le.mpr hnew, Nat.not_le.mpr hbeat, todDue_none s hnone]

/-! ### Loss of the source, holdover and the step (R46, 15 R338, R345) -/

theorem execSourceLost_locked (s : State) (hp : s.tim.present = true) (ht : s.tim.heard + lossTicks s ≤ s.tkp.now) (hs : s.tim.state = 2) :
    execSourceLost s = .next (enterHoldover { s with tim := { s.tim with present := false, master := none }
                                                     tkp := { s.tkp with step := none, stepAt := none } }) := by
  simp [execSourceLost, sourceGone, hp, Nat.not_lt.mpr ht, hs]

theorem execHoldExceeded_reached (s : State) (hs : s.tim.state = 3) (hn : s.tim.holdExceeded = false)
    (ht : s.tim.holdTick + 8000 * s.tim.holdLimit ≤ s.tkp.now) :
    execHoldExceeded s = .next (recordEvent { s with tim := { s.tim with holdExceeded := true } } 0x7003 6 []) := by
  simp [execHoldExceeded, hs, hn, ticksPerSec, ht]

theorem execTimeStep_stands (s : State) (t ns : Nat) (hstep : s.tkp.step = some t) (hbeat : 1234 ≤ s.tkp.beat) (ht : t ≤ s.tkp.now + 1)
    (hp : s.tim.present = true) (hn : s.tim.nostep = false) (hns : 125000 * (s.tkp.now + 1) ≤ ns) :
    let n := (ns + 124999) / 125000
    execTimeStep ns true s = .next { s with tkp := { s.tkp with stepAt := some (n, 125000 * n - ns) } } := by
  simp [execTimeStep, hstep, Nat.not_lt.mpr hbeat, Nat.not_lt.mpr ht, hp, hn, Nat.not_lt.mpr hns]

/-- Settles O39: each command is its meaning with its conditions met; the step's fields are those of `stepTo`. -/
theorem timeEvents : Obligations.TimeEvents := by
  unfold Obligations.TimeEvents
  intro s port mt id taken ql ns ms sec t sent m line lp
  refine ⟨fun hw => ?down, fun _ hf => ?foreign, fun hw hmt hdom hdest => ?own, ?esmc, ?tod,
    ⟨execPpsInEdge_compared s ns, execPpsInEdge_counted s ns sec⟩, execPpsOut_edge s sec,
    fun r hr hl => ⟨todDue_early s r hr, todDue_due s r lp hr hl⟩, execSourceLost_locked s, execHoldExceeded_reached s,
    fun hstep hbeat ht hp hn => execTimeStep_stands s t ns hstep hbeat ht hp hn, fun n => ⟨rfl, rfl, rfl, rfl, rfl, rfl, rfl, rfl⟩⟩
  case down => exact execPtpMessage_ignored s port mt id taken sent m (.inl hw)
  case foreign => exact execPtpMessage_ignored s port mt id taken sent m (.inr ((ptpForeign_iff s mt m).mpr hf))
  case own =>
    have hown : ptpForeign s mt m = false := by
      rw [← Bool.not_eq_true, ptpForeign_iff]
      simp [hmt, hdom, hdest]
    have hsent := execPtpMessage_sent s port mt id taken m hw hown
    refine ⟨?left, ?followUp, ?received⟩
    case left =>
      rintro rfl hsends
      rw [if_pos hsends] at hsent
      exact ⟨_, hsent, ptpLeft_room s port mt id taken m, ptpLeft_full s port mt id taken m, ptpLeft_general s port mt id taken m⟩
    case followUp =>
      rintro rfl rfl hno
      rw [ptpSends_followUp s port id hno] at hsent
      exact hsent
    case received =>
      rintro rfl hp hsrc
      exact execPtpMessage_received s port mt id taken m hw hown hp hsrc
  case esmc =>
    intro hport hw u
    exact (execEsmcMessage_taken s port ql hport hw).trans (congrArg _ (rateAgain_samePort s u rfl))
  case tod =>
    intro hline hlo hhi
    rw [exec_todLineRx, execTodLineRx, hline]
    exact if_pos ⟨hlo, hhi⟩

/-! ### Seam-bound commands at their start and at their seam (R48, R49, 16 R369, R503) -/

/-- A cap command that names no tick lands as it starts; in either case it waits for its seam (R48, R49). -/
theorem execPowerCap_starts (s : State) (q seq : Nat) (r : JRec) (h : Starts s q seq 0x0601 r) (hf : powerCapFields r (begun s q seq) = stOk) :
    let u := begun s q seq
    execPowerCap q seq s = .next (queueSeam (if r.tickArg = none then landed (powerCapLand r u) else u) r) := by
  simp [execPowerCap, withCmd_starts s q seq _ r _ h, hf, powerCapAsk, Option.isNone_iff_eq_none]

/-- A clock mode is asked for as it starts (R63), and waits for its seam. -/
theorem execClockMode_starts (s : State) (q seq : Nat) (r : JRec) (h : Starts s q seq 0x0603 r) (hf : clockModeFields r (begun s q seq) = stOk) :
    execClockMode q seq s = .next (queueSeam (clockModeAsk r (begun s q seq)) r) := by
  simp [execClockMode, withCmd_starts s q seq _ r _ h, hf]

/-- A seam-bound command whose checks pass as it starts waits for its seam, as an outcome. -/
theorem next_withSeamCmd (s : State) (q seq op : Nat) (r : JRec) (f : JRec → State → Nat) (h : Starts s q seq op r)
    (hf : f r (begun s q seq) = stOk) : Host.Outcome.next (withSeamCmd s q seq op f) = (.next (queueSeam (begun s q seq) r) : Out) :=
  congrArg _ (withSeamCmd_ok s q seq op r f h hf)

/-- The only checked command of a seam is applied and DONE there (R503). -/
theorem applySeam_one (v : State) (r : JRec) (h : seamRecs v (fun c => decide (c.tick ≤ v.tkp.now) && c.checked) = [r]) :
    applySeam v = pruneSeam (finish (seamApply r (dropSeam v r)) r.q r.seq stOk 0) := by
  rw [applySeam, h]
  rfl

section
variable (r : JRec) (v : State)

/-- A cap command that names its tick lands as it passes its check, unless a later one has overtaken it (16 R369). -/
theorem seamLand_powerCap (h : r.opcode = 0x0601) : seamLand r v = if r.tickArg ≠ none ∧ capLater v r = false then powerCapLand r v else v := by
  simp [seamLand, capLands, h, Option.isSome_iff_ne_none]

/-- FH_CFG lands as it passes its check (R48). -/
theorem seamLand_fhCfg (h : r.opcode = 0x0320) : seamLand r v = fhCfgLand r v := by simp only [seamLand, h]

/-- What has landed in shadows has no other effect at the seam. -/
theorem seamApply_landed (h : r.opcode = 0x0320 ∨ r.opcode = 0x0601) : seamApply r v = v := by
  rcases h with h | h <;> simp only [seamApply, h]

end

/-- A port that is listed stages its shadows. -/
theorem fhStage_modFh (s : State) (p : Nat) (f : FhPort → FhPort) : fhAt (fhStage (modFh s p f)) p = fhFields Rwt.stage (f (fhAt s p)) := by
  simp [fhAt, fhStage, modFh, NMap.getD, NMap.find?_mapVal, NMap.find?_insert]

/-- `t` differs from `s` in RATE, in the base of device time and in the values taken as free only. -/
def RateOnly (s t : State) : Prop := ∃ n b w rt, t = { s with freeN := n, tim := { s.tim with baseNs := b, baseRaw := w, rate := rt } }

theorem setRate_rateOnly (s : State) (rt : Int) : RateOnly s (setRate s rt) := by
  unfold setRate
  split <;> exact ⟨_, _, _, _, rfl⟩

theorem holdRate_rateOnly (s : State) : RateOnly s (holdRate s) := by
  unfold holdRate
  split
  · obtain ⟨n, b, w, rt, eq⟩ := setRate_rateOnly s.takeFree.2 (freeRate s.takeFree.1)
    exact ⟨n, b, w, rt, eq⟩
  · exact setRate_rateOnly s _

theorem rateAgain_rateOnly (s u : State) : RateOnly u (rateAgain s u) := by
  unfold rateAgain
  split
  · exact holdRate_rateOnly u
  · exact ⟨_, _, _, _, rfl⟩

/-- TIME_CFG sets the source, its port and domain, the recovered port and the limit of holdover, whatever RATE follows (15 R342). -/
theorem timeCfgApply_source (r : JRec) (v : State) : let t := (timeCfgApply r v).tim
    t.source = r.par 0 1 ∧ t.ptpPort = r.par 1 1 ∧ t.domain = r.par 2 1 ∧ t.syncePort = r.par 3 1 ∧ t.holdLimit = r.par 8 4 := by
  intro t
  obtain ⟨n, b, w, rt, eq⟩ : RateOnly _ (timeCfgApply r v) := rateAgain_rateOnly _ _
  simp only [t, eq, and_self]

/-- Settles O40: each command waits for its seam by `withSeamCmd_ok`, and its effect there is its branch of `seamApply`. -/
theorem seamBoundAdministration : Obligations.SeamBoundAdministration := by
  unfold Obligations.SeamBoundAdministration
  intro s v q seq r u
  refine ⟨next_withSeamCmd s q seq _ r _, next_withSeamCmd s q seq _ r _, next_withSeamCmd s q seq _ r _, next_withSeamCmd s q seq _ r _,
    next_withSeamCmd s q seq _ r _, next_withSeamCmd s q seq _ r _, next_withSeamCmd s q seq _ r _, ⟨rfl, rfl⟩, applySeam_one v r,
    fun hop => ?mirror, fun hop _ => ?fhCfg, execPowerCap_starts s q seq r, execClockMode_starts s q seq r, rfl, fun hop => ?assign,
    fun hop => ?quota, fun hop => ?grant, fun hop => ⟨?capApply, fun htick hlater => ?capLands, fun hnot => ?capOvertaken⟩, ⟨rfl, rfl⟩,
    fun hop => ?clock, fun hop => ?time, fun hop => ?keys⟩
  case mirror =>
    have heff : seamApply r v = mirrorApply r v := by simp only [seamApply, hop]
    rw [heff]
    exact ⟨fun hon => if_pos hon, fun hoff => if_neg hoff⟩
  case fhCfg =>
    refine ⟨seamApply_landed r v (.inl hop), ?_⟩
    rintro x y rfl rfl
    have hport := fhStage_modFh v (r.par 0 1)
    simp only [fhAt] at hport
    rw [seamLand_fhCfg r v hop, fhCfgLand, hport]
    exact ⟨rfl, rfl, rfl, rfl, rfl, rfl⟩
  case assign => simp only [seamApply, hop, sliceAssignApply]
  case quota => simp only [seamApply, hop, sliceQuotaApply]
  case grant => simp only [seamApply, hop, mbxGrantApply]
  case capApply => exact seamApply_landed r v (.inr hop)
  case capLands => rw [seamLand_powerCap r v hop, if_pos ⟨htick, hlater⟩]
  case capOvertaken => exact (seamLand_powerCap r v hop).trans (if_neg (by rcases hnot with h | h <;> simp [h]))
  case clock => simp only [seamApply, hop, clockModeApply]
  case time =>
    have heff : seamApply r v = timeCfgApply r v := by simp only [seamApply, hop]
    rw [heff]
    exact timeCfgApply_source r v
  case keys =>
    have heff : seamApply r v = memEncApply r v := by simp only [seamApply, hop]
    rw [heff]
    exact ⟨fun hoff => if_neg hoff, fun hon => if_pos hon⟩

end Sys2Proof.Machine
end

section
/-!
PROOFS OF 04_tiles_overcast_and_kernels.md. The neighbours of a tile (R83), the sequencing slot (R65, R66, R79, R159), and contexts with
their images (R68, R363, R386 to R394).
-/
namespace Sys2Proof.Machine

/-! ### The neighbours of a tile (R83) -/

/-- One neighbour per side on which the grid of the die goes on. -/
theorem mem_neighbours (t n : Nat) : n ∈ neighbours t ↔
    (t % 40 / 10 ≠ 0 ∧ n = t - 10) ∨ (t % 40 % 10 ≠ 0 ∧ n = t - 1) ∨ (t % 40 % 10 ≠ 9 ∧ n = t + 1) ∨ (t % 40 / 10 ≠ 3 ∧ n = t + 10) := by
  simp [neighbours]

/-- The neighbours stand in rising order, so each stands once. -/
theorem neighbours_rising (t : Nat) : (neighbours t).Pairwise (· < ·) := by
  have above : t % 40 / 10 ≠ 0 → 10 ≤ t := by omega
  have left : t % 40 % 10 ≠ 0 → 1 ≤ t := by omega
  rw [neighbours]
  split_ifs <;> simp <;> omega

/-- At most one neighbour is missing above or below, and at most one to the left or right. -/
theorem neighbours_length (t : Nat) : 2 ≤ (neighbours t).length ∧ (neighbours t).length ≤ 4 := by
  have rows : (if t % 40 / 10 = 0 then [] else [t - 10]).length + (if t % 40 / 10 = 3 then [] else [t + 10]).length ∈ [1, 2] := by
    split <;> split <;> simp
    omega
  have columns : (if t % 40 % 10 = 0 then [] else [t - 1]).length + (if t % 40 % 10 = 9 then [] else [t + 1]).length ∈ [1, 2] := by
    split <;> split <;> simp
    omega
  simp only [List.mem_cons, List.not_mem_nil, or_false] at rows columns
  simp only [neighbours, List.length_append]
  omega

/-- Settles O58: the four sides of `mem_neighbours` are the steps in the grid of the die. -/
theorem tileNeighbours : Obligations.TileNeighbours := by
  unfold Obligations.TileNeighbours
  intro t ht
  obtain ⟨two, four⟩ := neighbours_length t
  refine ⟨fun n => ?_, two, four, (neighbours_rising t).imp Nat.ne_of_lt⟩
  rw [mem_neighbours]
  constructor
  · rintro (⟨h, rfl⟩ | ⟨h, rfl⟩ | ⟨h, rfl⟩ | ⟨h, rfl⟩) <;> omega
  · rintro ⟨hn, hdie, ⟨hrow, hcol⟩ | ⟨hcol, hrow⟩⟩ <;> omega

/-! ### The sequencing slot (R65, R66, R79, R159) -/

section
variable (s : State) (t c n target count tag maxw ctr slot : Nat) (h : Issues s t c)

/-- After a taken branch the kernel has reached cycle c + 2 (R66). -/
theorem afterOp_branch (x : Tile) : afterOp s t c { x with pc := target, cyc := c + 2 } =
    setTile (reached s t c) t { x with pc := target, cyc := c + 2 } := by
  simp [afterOp]

include h

/-- A slot operation that issues and breaks no rule, as an outcome. -/
theorem next_slotOp (f : Tile → SlotRes) (y : Tile) (e : f (found s t c) = .done y) :
    Host.Outcome.next (slotOp s t c f) = (.next (afterOp s t c y) : Out) :=
  congrArg _ (slotOp_done s t c f y h e)

/-- Only the NOP of the sequencing slot goes on to the next bundle. -/
theorem execSlotNop_issues : execSlotNop t c slot s =
    .next (afterOp s t c (if slot = 6 then (found s t c).nextPc else found s t c)) :=
  next_slotOp s t c h _ _ (apply_ite SlotRes.done _ _ _).symm

/-- A BR that issues is taken. -/
theorem execBr_issues : execBr t c target s = .next (setTile (reached s t c) t { found s t c with pc := target, cyc := c + 2 }) := by
  have hslot := slotOp_done s t c (fun x => .done { x with pc := target, cyc := c + 2 }) _ h rfl
  rw [execBr, hslot, afterOp_branch]

/-- A slot operation that branches, or goes on to the next bundle. -/
theorem slotOp_branchIf (p : Tile → Prop) [DecidablePred p] :
    slotOp s t c (fun x => if p x then .done { x with pc := target, cyc := c + 2 } else .done x.nextPc) =
      let x := found s t c
      if p x then setTile (reached s t c) t { x with pc := target, cyc := c + 2 } else afterOp s t c x.nextPc := by
  by_cases hp : p (found s t c)
  · rw [slotOp_done s t c _ _ h (if_pos hp), afterOp_branch]
    exact (if_pos hp).symm
  · rw [slotOp_done s t c _ _ h (if_neg hp)]
    exact (if_neg hp).symm

/-- ENDL repeats the innermost open body while runs of it are left, and otherwise leaves it (R66). -/
theorem execEndl_open (start k : Nat) (rest : List (Nat × Nat)) (hl : (found s t c).loops = (start, k) :: rest) :
    let x := found s t c
    execEndl t c s = .next (afterOp s t c
      (if 1 < k then { x with loops := (start, k - 1) :: rest, pc := start } else { x with loops := rest, pc := x.pc + 1 })) := by
  refine next_slotOp s t c h _ _ ?_
  rw [hl]
  exact (apply_ite SlotRes.done _ _ _).symm

/-- WAITD passes a tag whose operation has completed, and waits for another (R66). -/
theorem execWaitd_outstanding (g : TagOp) (hg : NMap.find? (found s t c).tags tag = some g) :
    let x := found s t c
    execWaitd t c tag maxw s = .next (afterOp s t c
      (if g.done || dueBy g.doneAt c then { x with tags := NMap.erase x.tags tag, pc := x.pc + 1 }
        else { x with wait := some (tag, c + 16 * maxw), pc := x.pc + 1 })) := by
  refine next_slotOp s t c h _ _ ?_
  rw [hg]
  exact (apply_ite SlotRes.done _ _ _).symm

/-- SYNCP that issues adds one increment, which guards see 64 cycles later (R66). -/
theorem execSyncp_issues (r : Running) (hr : (tileAt (reached s t c) t).run = some r) :
    let y := afterOp s t c (found s t c).nextPc
    execSyncp t c ctr s = .next { y with tkp := { y.tkp with scPend := y.tkp.scPend ++ [(ctr, beatCycles s * r.beat + c + 64)] } } := by
  have ⟨_, hwait, hmiss⟩ := h
  have hslot := slotOp_done s t c (fun x => .done x.nextPc) _ h rfl
  simp only [found, reached] at hr hwait hmiss
  simp only [execSyncp, hslot, hr, hwait, hmiss, Option.isSome_none, Bool.false_eq_true, if_false]

end

/-- Settles O13: each operation is one slot operation that breaks no rule, so its tile is that of its effect by `slotOp_done`. -/
theorem sequencerOps : Obligations.SequencerOps := by
  unfold Obligations.SequencerOps
  intro s t c n target count tag maxw ctr slot r h hr x
  refine ⟨fun hslot => ?_, execSlotNop_issues s t c 6 h, execBr_issues s t c target h,
    congrArg _ (slotOp_branchIf s t c target h fun x => x.getS n = 0), congrArg _ (slotOp_branchIf s t c target h fun x => x.getS n ≠ 0),
    next_slotOp s t c h _ _ rfl, execEndl_open s t c h, next_slotOp s t c h _ _ rfl, execWaitd_outstanding s t c tag maxw h,
    execSyncp_issues s t c ctr h r hr, next_slotOp s t c h _ _ rfl⟩
  rw [exec_slotNop, execSlotNop_issues s t c slot h, if_neg hslot]

/-! ### Contexts named by commands (17 R386, R389, R392) -/

section
variable (s : State) (q seq c : Nat) (r : JRec)

/-- CTX_CREATE that no condition refuses takes the lowest free id, OUT. -/
theorem execCtxCreate_created (h : Starts s q seq 0x0502 r) :
    let u := begun s q seq
    let sl := r.par 0 1
    ctxCreateOk u r = true → (r.par 1 1 = 1 → servingCtx u sl = none) → ctxCount u sl < (quotaOf u sl).contexts →
      memCharged u sl + r.par 16 8 ≤ 2 ^ 20 * (quotaOf u sl).memMib → freeCtx u = some c →
      let y : Ctx := { slice := sl, serving := r.par 1 1 == 1, extents := extentsOfParams r, landing := r.par 8 8, landBytes := r.par 16 8, fresh := true }
      execCtxCreate q seq s =
        .next (finish (ctxState { u with slc := { u.slc with ctxs := NMap.insert u.slc.ctxs c y } } c 1) q seq stOk (BitVec.ofNat 64 c)) := by
  intro u sl hfields hserving hcount hcharge hfree y
  have alone : ¬(r.par 1 1 = 1 ∧ (servingCtx u sl).isSome = true) := by
    rintro ⟨h1, hsome⟩
    simp [hserving h1] at hsome
  have withinQuota : ¬((quotaOf u sl).contexts ≤ ctxCount u sl ∨ 2 ^ 20 * (quotaOf u sl).memMib < memCharged u sl + r.par 16 8) := by omega
  have admitted : ¬(!ctxCreateOk u r) = true := by simp [hfields]
  rw [execCtxCreate, withCmd_starts s q seq _ r _ h]
  simp only [if_neg admitted, if_neg alone, if_neg withinQuota, hfree, u, sl, y]

variable (hc : r.par 0 2 = c) (hid : c ≤ 1023)
include hc hid

/-- A command that names an existing context goes on with it. -/
theorem withCtx_exists (u : State) (len : Nat) (f : Nat → Ctx → State) (hl : r.params.length = len) (hu : (ctxAt u c).state ≠ 0) :
    withCtx u r len f = f c (ctxAt u c) := by
  subst hc
  simp [withCtx, hl, hu, Nat.not_lt.mpr hid]

variable (x : Ctx) (hx : ctxAt (begun s q seq) c = x)
include hx

/-- CTX_DESTROY frees an OUT context that has no request and no transfer left. -/
theorem execCtxDestroy_out (h : Starts s q seq 0x0503 r) (hl : r.params.length = 2) (hout : x.state = 1)
    (hlive : x.serving = true → liveOf (begun s q seq) x.slice = []) (hidle : ctxOutstanding (begun s q seq) c = []) :
    execCtxDestroy q seq s = .next (finish (ctxFree (begun s q seq) c) q seq stOk 0) := by
  have hu : (ctxAt (begun s q seq) c).state ≠ 0 := by simp [hx, hout]
  have idle : ¬(x.state ≠ 1 ∨ (x.serving = true ∧ (!(liveOf (begun s q seq) x.slice).isEmpty) = true) ∨
      (!(ctxOutstanding (begun s q seq) c).isEmpty) = true) := by
    simpa [hout, hidle] using hlive
  rw [execCtxDestroy, withCmd_starts s q seq _ r _ h, withCtx_exists c r hc hid _ 2 _ hl hu, hx, if_neg idle]

/-- CTX_HOLD of an ACTIVE context waits for its kernels to end (R389). -/
theorem execCtxHold_active (h : Starts s q seq 0x0504 r) (hl : r.params.length = 3) (hm : r.par 2 1 ≤ 1) (hact : x.state = 3) :
    execCtxHold q seq s = .next (heldCheck (modCtx (begun s q seq) c fun y =>
      { y with holding := true, holdAsk := y.holdAsk ++ [(q, seq, r.par 2 1 == 1)] }) c) := by
  rw [execCtxHold, withCmd_starts s q seq _ r _ h]
  simp [hl, hc, hx, hact, Nat.not_lt.mpr hm, Nat.not_lt.mpr hid]

/-- CTX_RESUME of a HELD context that no hold with OUT waits for makes it ACTIVE (R392). -/
theorem execCtxResume_held (h : Starts s q seq 0x0505 r) (hl : r.params.length = 2) (hheld : x.state = 4) (hno : holdsOut x = false) :
    execCtxResume q seq s = .next (finish (ctxState (modCtx (begun s q seq) c fun y =>
      { y with holding := false, orphaned := false }) c 3) q seq stOk 0) := by
  have hu : (ctxAt (begun s q seq) c).state ≠ 0 := by simp [hx, hheld]
  rw [execCtxResume, withCmd_starts s q seq _ r _ h, withCtx_exists c r hc hid _ 2 _ hl hu]
  simp [hx, hheld, hno]

/-- CTX_QUERY writes the record of a context, which is all zero for a FREE one (R392). -/
theorem execCtxQuery_ok (h : Starts s q seq 0x0506 r) (hl : r.params.length = 2) : execCtxQuery q seq s =
    .next (finishWith (begun s q seq) q seq stOk 0 (if x.state = 0 then List.replicate 64 0 else ctxRecord (begun s q seq) c)) := by
  rw [execCtxQuery, withCmd_starts s q seq _ r _ h]
  by_cases hfree : x.state = 0 <;> simp [hl, hc, hx, Nat.not_lt.mpr hid, hfree]

end

/-! ### Switches, teardown and release at seams (17 R391 to R394) -/

section
variable (s : State) (id : Nat) (x : Ctx) (hseam : s.tkp.beat = 0) (hx : ctxAt s id = x)
include hseam hx

/-- A HELD context with OUT asked begins to save; with nothing to save it is OUT at once (R391). -/
theorem execCtxSaveStart_held (hheld : x.state = 4) (hout : holdsOut x = true) (hnew : x.changed < s.tkp.now) :
    let v := modCtx (ctxState s id 5) id fun y => { y with left := regionsOf y.extents (·.save) }
    execCtxSaveStart id s = .next (if (ctxAt v id).left = [] then saveDone v id else v) := by
  simp [execCtxSaveStart, hx, hheld, hout, hseam, hnew]

/-- A waiting resume whose rivals are out, and which no earlier one of them forestalls, begins to restore (R391). -/
theorem execCtxRestoreStart_begins (hw : waitsRestore s x = true) (hexam : resumeExam s id = 1)
    (hfirst : ∀ o ∈ rivals s id, waitsRestore s o.2 = true → resumeOrder s o.2 < resumeOrder s x → resumeExam s o.1 ≠ 1) :
    let v := modCtx (ctxState s id 2) id fun y => { y with left := regionsOf y.extents (fun _ => true), restoreAt := none }
    execCtxRestoreStart id s = .next (modCtx v id fun y => { y with readyAt := if y.left.isEmpty = true then some s.tkp.now else none }) := by
  have first : (rivals s id).all (fun o => !(waitsRestore s o.2 && decide (resumeOrder s o.2 < resumeOrder s x) && resumeExam s o.1 == 1)) = true := by
    rw [List.all_eq_true]
    intro o ho
    rw [Bool.not_eq_true', Bool.eq_false_iff]
    simp only [ne_eq, Bool.and_eq_true, decide_eq_true_eq, beq_iff_eq, not_and, and_imp]
    exact hfirst o ho
  simp only [execCtxRestoreStart, hx]
  rw [if_pos ⟨hw, hseam, first⟩, if_pos hexam]

/-- With its bursts done the context is ACTIVE, and the CTX_RESUME that asked for it is DONE (R391). -/
theorem execCtxActivate_ready (t : Nat) (hrestoring : x.state = 2) (hleft : x.left = []) (hready : x.readyAt = some t) (ht : t ≤ s.tkp.now) :
    let v := modCtx (ctxState s id 3) id fun y => { y with readyAt := none, resumeAsk := none, fresh := false, holding := false }
    execCtxActivate id s = .next (match x.resumeAsk with | some (q, seq) => finish v q seq stOk 0 | none => v) := by
  simp only [execCtxActivate, hx]
  rw [if_pos ⟨hrestoring, by simp [hleft], hseam, by simp [dueBy, hready, ht]⟩]
  cases x.resumeAsk <;> rfl

/-- A cause tears the context down at the seam after it (R393). -/
theorem execContextTeardown_cause (e : Nat × Nat) (he : s.dies.torn.find? (fun (e : Nat × Nat) => e.1 == id) = some e)
    (hused : x.state ≠ 0) (hnot : x.state ≠ 6) : execContextTeardown id s =
      .next (tearDown { s with dies := { s.dies with torn := s.dies.torn.filter fun x => x.1 != id } } id e.2 false) := by
  simp [execContextTeardown, he, hseam, hx, hused, hnot]

/-- A TORN context whose entries all have a status is FREE at a later seam (R394). -/
theorem execContextRelease_torn (htorn : x.state = 6) (hnew : x.changed < s.tkp.now) (hidle : ctxOutstanding s id = []) :
    execContextRelease id s = .next (ctxFree s id) := by
  simp [execContextRelease, hx, htorn, hseam, hnew, hidle]

end

/-! ### Images (04 R68, 16 R363; log 94) -/

/-- KERNEL_LOAD from host memory of an image that passes its checks joins it to the dies of its mask, with its copies. -/
theorem execKernelLoad_joins (s : State) (q seq : Nat) (r : JRec) (im : Image) (h : Starts s q seq 0x0508 r) (hl : r.params.length = 16)
    (hmask : r.par 0 1 < 16) (hzero : r.par 1 1 = 0) (hindex : r.par 2 2 ≤ 1023) (hlo : 64 ≤ r.par 4 4) (hhi : r.par 4 4 ≤ 64 + 32 * 8192)
    (hhost : r.pdev = false) :
    let u := begun s q seq
    let dies := maskDies (r.par 0 1)
    (loadImage u dies (r.par 2 2) (r.par 4 4) (hostRead u r.pasid (r.par 8 8) (r.par 4 4)) false).2 = some im →
      execKernelLoad q seq s = .next (finish (joinImage u dies (r.par 2 2) im) q seq stOk (BitVec.ofNat 64 im.bound)) := by
  intro u dies him
  rw [execKernelLoad, withCmd_starts s q seq _ r _ h]
  simp [hl, hzero, hhost, Nat.not_le.mpr hmask, Nat.not_lt.mpr hindex, Nat.not_lt.mpr hlo, Nat.not_lt.mpr hhi, him, u, dies]

/-- Settles O47: each command starts by `withCmd_starts` and no condition refuses it; at a seam each switch finds its conditions met. -/
theorem contextCommands : Obligations.ContextCommands := by
  unfold Obligations.ContextCommands
  intro s q seq c id x r im e u
  refine ⟨execCtxCreate_created s q seq c r, fun hc hid hx => ?commands, fun hseam hx => ?seams, ?load⟩
  case commands =>
    exact ⟨execCtxDestroy_out s q seq c r hc hid x hx, execCtxHold_active s q seq c r hc hid x hx, execCtxResume_held s q seq c r hc hid x hx,
      execCtxQuery_ok s q seq c r hc hid x hx⟩
  case seams =>
    exact ⟨execCtxSaveStart_held s id x hseam hx, execCtxRestoreStart_begins s id x hseam hx, execCtxActivate_ready s id x hseam hx,
      execContextTeardown_cause s id x hseam hx e, execContextRelease_torn s id x hseam hx⟩
  case load => exact execKernelLoad_joins s q seq r im

end Sys2Proof.Machine
end

section
/-!
PROOFS OF 05_matrix_arrays.md. The words of the slots of a bundle read back (R97, R98, R106, R107, 07 R145, R148, R153 to R157), the operand
builders and mask registers (R107, R110, R111), and LD and ST (R107, R110, 08 R164, R167).
-/
namespace Sys2Proof.Machine

/-! ### Words of the slots read back (R97, R98, R106, R107, 07 R145, R148, R153 to R157) -/

/-- The fields of an array slot (R97). -/
theorem arrWord_fields (op : Nat) (o : ArrOp) (hop : op < 32) (hfmt : o.fmt < 16) (hok : arrOk o = true) :
    let w := arrWord op o
    w < 2 ^ 40 ∧ w % 4 = 0 ∧ bitsOf w 39 35 = op ∧ bitsOf w 34 31 = o.fmt ∧ bitsOf w 30 26 = o.sa ∧ bitsOf w 25 21 = o.aoff ∧
      bitsOf w 20 16 = o.sb ∧ bitsOf w 15 11 = o.boff ∧ bitsOf w 10 9 = o.acc ∧ w.testBit 8 = o.clr ∧ w.testBit 7 = o.ld ∧
      bitsOf w 6 2 = o.msk := by
  have bit_lt (b : Bool) : bit1 b < 2 := by cases b <;> decide
  have bit_eq (b : Bool) (n : Nat) (hn : n = bit1 b) : decide (n = 1) = b := by subst hn; cases b <;> rfl
  have hclr := bit_lt o.clr
  have hld := bit_lt o.ld
  simp only [arrOk, reg5, Bool.and_eq_true, decide_eq_true_eq] at hok
  simp only [Nat.testBit_eq_decide_div_mod_eq, bitsOf, arrWord]
  refine ⟨?_, ?_, ?_, ?_, ?_, ?_, ?_, ?_, ?_, bit_eq _ _ ?_, bit_eq _ _ ?_, ?_⟩ <;> omega

/-- The fields of the vector/signal slot (07 R145), with B, BSEL and IMM as `n`, `sel` and `m`. -/
theorem vecWord_fields (op d a c n sel m : Nat) (hop : op < 128) (hd : d < 32) (ha : a < 32) (hc : c < 32) (hn : n < 32) (hsel : sel < 4)
    (hm : m < 2 ^ 16) :
    let w := vecWord op d a (n * 2 ^ 34 + sel * 2 ^ 27 + m * 2 ^ 11) c
    w < 2 ^ 56 ∧ bitsOf w 55 49 = op ∧ bitsOf w 48 44 = d ∧ bitsOf w 43 39 = a ∧ bitsOf w 38 34 = n ∧ bitsOf w 33 29 = c ∧
      bitsOf w 28 27 = sel ∧ bitsOf w 26 11 = m ∧ bitsOf w 10 0 = 0 := by
  simp only [bitsOf, vecWord]
  omega

/-- The fields of an X or Y slot (07 R153). -/
theorem lsWord_fields (op : Nat) (o : LsOp) (hop : op < 32) (hok : lsOk o = true) :
    let w := lsWord op o
    w < 2 ^ 32 ∧ bitsOf w 31 27 = op ∧ bitsOf w 26 22 = o.r ∧ bitsOf w 21 18 = o.an ∧ bitsOf w 17 16 = o.pm ∧ bitsOf w 15 13 = o.cvt ∧
      BitVec.ofNat 13 (bitsOf w 12 0) = o.off := by
  have hoff := o.off.isLt
  simp only [lsOk, reg5, Bool.and_eq_true, decide_eq_true_eq] at hok
  simp only [← BitVec.toNat_inj, BitVec.toNat_ofNat, bitsOf, lsWord]
  omega

/-- The fields of the DMA/skew slot (R106). -/
theorem dmaWord_fields (op : Nat) (o : DmaOp) (hop : op < 32) (hok : dmaOk o = true) :
    let w := dmaWord op o
    w < 2 ^ 32 ∧ bitsOf w 31 27 = op ∧ bitsOf w 26 23 = o.tag ∧ bitsOf w 22 18 = o.src ∧ bitsOf w 17 13 = o.dst ∧ bitsOf w 12 8 = o.prm ∧
      BitVec.ofNat 8 (bitsOf w 7 0) = o.imm := by
  have himm := o.imm.isLt
  simp only [dmaOk, reg5, Bool.and_eq_true, decide_eq_true_eq] at hok
  simp only [← BitVec.toNat_inj, BitVec.toNat_ofNat, bitsOf, dmaWord]
  omega

/-- The decoder of an X or Y slot finds the fields and the opcode of a word. -/
theorem lsDec_lsWord (t c op : Nat) (o : LsOp) (hop : op < 32) (hok : lsOk o = true) : lsDec t c o.slotY (lsWord op o) = lsOp t c o op := by
  obtain ⟨-, hopc, hr, han, hpm, hcvt, hoff⟩ := lsWord_fields op o hop hok
  simp only [lsOk, Bool.and_eq_true, decide_eq_true_eq] at hok
  simp only [lsDec, hopc, hr, han, hpm, hcvt, hoff]
  exact if_neg (by omega)

/-- The decoder of the vector/signal slot finds the fields and the opcode of a word, with B, BSEL and IMM as `n`, `sel` and `m`. -/
theorem vecDec_vecWord (t k op d a c n sel m : Nat) (hop : op < 128) (hd : d < 32) (ha : a < 32) (hc : c < 32) (hn : n < 32) (hsel : sel < 3)
    (hm : m < 2 ^ 16) :
    vecDec t k (vecWord op d a (n * 2 ^ 34 + sel * 2 ^ 27 + m * 2 ^ 11) c) = vecOp t k ⟨d, a, n, c, sel, BitVec.ofNat 16 m⟩ op := by
  obtain ⟨-, hopc, hfd, hfa, hfb, hfc, hfsel, hfm, hlow⟩ := vecWord_fields op d a c n sel m hop hd ha hc hn (by omega) hm
  simp only [vecDec, hopc, hfd, hfa, hfb, hfc, hfsel, hfm, hlow]
  exact if_neg (by omega)

/-- B, BSEL and IMM of operand b (07 R145). -/
theorem opBEnc_fields (b : OpB) (hb : opBOk b = true) : ∃ n sel m, n < 32 ∧ sel < 3 ∧ m < 2 ^ 16 ∧
    opBEnc b = n * 2 ^ 34 + sel * 2 ^ 27 + m * 2 ^ 11 ∧ ∀ d a c, VecWord.opB ⟨d, a, n, c, sel, BitVec.ofNat 16 m⟩ = b := by
  cases b with
  | reg n => exact ⟨n, 0, 0, of_decide_eq_true hb, by decide, by decide, by simp [opBEnc], fun _ _ _ => rfl⟩
  | sreg n => exact ⟨n, 1, 0, of_decide_eq_true hb, by decide, by decide, by simp [opBEnc], fun _ _ _ => rfl⟩
  | imm i => exact ⟨0, 2, i.toNat, by decide, by decide, i.isLt, by simp [opBEnc], fun _ _ _ => by simp [VecWord.opB]⟩

section
variable (t k : Nat) {op d a c n : Nat} {i : Instr} (hop : op < 128) (hd : d < 32) (ha : a < 32)
include hop hd ha

/-- A word with B, BSEL and IMM reads back as the operation that the decoder gives its opcode. -/
theorem vecFields_readsBack {b sel m : Nat} (hc : c < 32) (hn : n < 32) (hsel : sel < 3) (hm : m < 2 ^ 16)
    (hb : b = n * 2 ^ 34 + sel * 2 ^ 27 + m * 2 ^ 11) (hi : vecOp t k ⟨d, a, n, c, sel, BitVec.ofNat 16 m⟩ op = .op i) :
    vecWord op d a b c < 2 ^ 56 ∧ ∃ t k, vecDec t k (vecWord op d a b c) = .op i := by
  subst hb
  exact ⟨(vecWord_fields op d a c n sel m hop hd ha hc hn (by omega) hm).1, t, k,
    (vecDec_vecWord t k op d a c n sel m hop hd ha hc hn hsel hm).trans hi⟩

theorem vecB_readsBack (hc : c < 32) {b : OpB} (hb : opBOk b = true)
    (hi : ∀ f : VecWord, f.d = d → f.a = a → f.c = c → f.opB = b → vecOp t k f op = .op i) :
    vecWord op d a (opBEnc b) c < 2 ^ 56 ∧ ∃ t k, vecDec t k (vecWord op d a (opBEnc b) c) = .op i := by
  obtain ⟨n, sel, m, hn, hsel, hm, enc, dec⟩ := opBEnc_fields b hb
  exact vecFields_readsBack t k hop hd ha hc hn hsel hm enc (hi _ rfl rfl rfl (dec d a c))

theorem vecImm_readsBack (m : W16) (hi : vecOp t k ⟨d, a, 0, 0, 0, m⟩ op = .op i) :
    vecWord op d a (immEnc m) 0 < 2 ^ 56 ∧ ∃ t k, vecDec t k (vecWord op d a (immEnc m) 0) = .op i :=
  vecFields_readsBack t k hop hd ha (by decide) (by decide) (by decide) m.isLt (by simp [immEnc])
    ((congrArg (fun m => vecOp t k ⟨d, a, 0, 0, 0, m⟩ op) (BitVec.ofNat_toNat 16 m)).trans hi)

theorem vecReg_readsBack (hn : n < 32) (hi : vecOp t k ⟨d, a, n, 0, 0, 0⟩ op = .op i) :
    vecWord op d a (n * 2 ^ 34) 0 < 2 ^ 56 ∧ ∃ t k, vecDec t k (vecWord op d a (n * 2 ^ 34) 0) = .op i :=
  vecFields_readsBack t k hop hd ha (by decide) hn (by decide) (m := 0) (by decide) (by simp) hi

theorem vecLa_readsBack (hn : n < 4) (hi : ∀ f : VecWord, f.d = d → f.a = a → f.bsel = 0 → f.imm.toNat % 4 = n → vecOp t k f op = .op i) :
    vecWord op d a (n * 2 ^ 11) 0 < 2 ^ 56 ∧ ∃ t k, vecDec t k (vecWord op d a (n * 2 ^ 11) 0) = .op i :=
  vecFields_readsBack t k hop hd ha (by decide) (n := 0) (by decide) (sel := 0) (by decide) (m := n) (by omega) (by simp)
    (hi _ rfl rfl rfl (by simp only [BitVec.toNat_ofNat]; omega))

end

/-- The IMM of a well-formed BEXP passes the decoder (07 R150). -/
theorem bexp_guard (m : W16) (h : bexpOk m = true) :
    (decide (m.toNat < 4096) && (!m.getLsbD 11 || m.toNat / 64 % 32 == 0)) = true := by
  simp only [bexpOk, decide_eq_true_eq] at h
  simp only [BitVec.getLsbD, Nat.testBit_eq_decide_div_mod_eq, beq_iff_eq, Bool.and_eq_true, Bool.or_eq_true, Bool.not_eq_true',
    decide_eq_true_eq, decide_eq_false_iff_not]
  omega

/-- FMT and SRCK of a well-formed skew operation go together (R107). -/
theorem srckOk_of_skewOk (o : DmaOp) (h : skewOk o = true) : dmaOk o = true ∧ srckOk (dmaFmt o) (dmaSrck o) = true := by
  simp only [skewOk, Bool.and_eq_true, decide_eq_true_eq] at h
  obtain ⟨hok, hfmt, hk | ⟨hk, hlo⟩ | ⟨hk, hlo⟩⟩ := h
  · exact ⟨hok, by simp [srckOk, dmaFmt, dmaSrck, hk, Nat.ne_of_lt hfmt]⟩
  · exact ⟨hok, by simp [srckOk, dmaFmt, dmaSrck, hk, hlo, Nat.le_of_lt_succ hfmt]⟩
  · exact ⟨hok, by simp [srckOk, dmaFmt, dmaSrck, hk, hlo, Nat.le_of_lt_succ hfmt]⟩

/-- Not a LIN with a mismatch of the check of its anvil add (05 R118), for which a slot has no field. -/
def linErrorFree : Instr → Bool
  | .lin _ _ o => o.err.isNone
  | _ => true

section
variable {i : Instr} {w : Nat} (h : i.wellFormed = true)
include h

theorem arrDec_arrEnc (hfree : linErrorFree i = true) {n : Nat} (e : arrEnc i = some (n, w)) :
    w < 2 ^ 40 ∧ ∃ t c, arrDec t c n w = .op i := by
  cases i with
  | mma t c o err =>
    cases err with
    | some err => cases e
    | none =>
      cases e
      simp only [Instr.wellFormed, Bool.and_eq_true, decide_eq_true_eq] at h
      obtain ⟨⟨-, hok⟩, hfmt⟩ := h
      obtain ⟨hw, hlow, hop, fields⟩ := arrWord_fields 1 o (by decide) (by omega) hok
      refine ⟨hw, t, c, ?_⟩
      simp only [arrOk, Bool.and_eq_true, decide_eq_true_eq] at hok
      simp only [arrDec, hlow, hop, fields, ne_eq, not_true_eq_false, if_false]
      exact if_pos (by simp [hok, Nat.ne_of_lt hfmt])
  | wld t c o =>
    cases e
    simp only [Instr.wellFormed, wldOk, Bool.and_eq_true, decide_eq_true_eq] at h
    obtain ⟨-, hok, hfmt, unused⟩ := h
    obtain ⟨hw, hlow, hop, fields⟩ := arrWord_fields 2 o (by decide) (by omega) hok
    refine ⟨hw, t, c, ?_⟩
    simp only [arrDec, hlow, hop, fields, ne_eq, not_true_eq_false, if_false]
    exact if_pos (by simp [unused, Nat.ne_of_lt hfmt])
  | rout t c o =>
    cases e
    simp only [Instr.wellFormed, arrNoB, Bool.and_eq_true, decide_eq_true_eq] at h
    obtain ⟨⟨-, hok, noB⟩, hfmt, hclr⟩ := h
    obtain ⟨hw, hlow, hop, fields⟩ := arrWord_fields 3 o (by decide) (by omega) hok
    refine ⟨hw, t, c, ?_⟩
    simp only [arrOk, Bool.and_eq_true, decide_eq_true_eq] at hok
    simp only [arrDec, hlow, hop, fields, ne_eq, not_true_eq_false, if_false]
    exact if_pos (by simp [noB, hclr, hok, Nat.le_of_lt_succ hfmt])
  | lout t c o =>
    cases e
    simp only [Instr.wellFormed, arrNoB, Bool.and_eq_true, decide_eq_true_eq] at h
    obtain ⟨⟨-, hok, noB⟩, hfmt, unused⟩ := h
    obtain ⟨hw, hlow, hop, fields⟩ := arrWord_fields 4 o (by decide) (by omega) hok
    refine ⟨hw, t, c, ?_⟩
    simp only [arrDec, hlow, hop, fields, ne_eq, not_true_eq_false, if_false]
    exact if_pos (by simp [noB, hfmt, unused])
  | lin t c o =>
    obtain ⟨o, err⟩ := o
    cases Option.isNone_iff_eq_none.mp hfree
    cases e
    simp only [Instr.wellFormed, arrNoB, Bool.and_eq_true, decide_eq_true_eq] at h
    obtain ⟨⟨-, hok, noB⟩, hfmt, hmsk⟩ := h
    obtain ⟨hw, hlow, hop, fields⟩ := arrWord_fields 5 o (by decide) (by omega) hok
    refine ⟨hw, t, c, ?_⟩
    simp only [arrDec, hlow, hop, fields, ne_eq, not_true_eq_false, if_false]
    exact if_pos (by simp [noB, hfmt, hmsk])
  | _ => cases e

theorem lsDec_lsEnc {y : Bool} (e : lsEnc i = some (y, w)) : w < 2 ^ 32 ∧ ∃ t c, lsDec t c y w = .op i := by
  cases i with
  | vld t c o | vst t c o | vldb t c o | vldt t c o | vstt t c o =>
    cases e
    obtain ⟨-, hok⟩ := Bool.and_eq_true_iff.mp h
    exact ⟨(lsWord_fields _ o (by decide) hok).1, t, c, lsDec_lsWord t c _ o (by decide) hok⟩
  | sld t c o | sst t c o | lald t c o | last t c o | lamrg t c o =>
    cases e
    simp only [Instr.wellFormed, lsPlain, Bool.and_eq_true, decide_eq_true_eq] at h
    obtain ⟨-, hok, hcvt⟩ := h
    refine ⟨(lsWord_fields _ o (by decide) hok).1, t, c, (lsDec_lsWord t c _ o (by decide) hok).trans (if_pos ?_)⟩
    simp [hcvt]
  | ldpk t c o | stpk t c o =>
    cases e
    simp only [Instr.wellFormed, lsPacked, lsPlain, Bool.and_eq_true, decide_eq_true_eq] at h
    obtain ⟨-, ⟨hok, hcvt⟩, hoff, hpm⟩ := h
    refine ⟨(lsWord_fields _ o (by decide) hok).1, t, c, (lsDec_lsWord t c _ o (by decide) hok).trans (if_pos ?_)⟩
    simp [hcvt, hoff, hpm]
  | _ => cases e

theorem dmaDec_dmaEnc (e : dmaEnc i = some w) : w < 2 ^ 32 ∧ ∃ t c, dmaDec t c w = .op i := by
  cases i with
  | ld t c o | st t c o | mks t c o =>
    cases e
    simp only [Instr.wellFormed, dmaPlain, Bool.and_eq_true, decide_eq_true_eq] at h
    obtain ⟨-, hok, himm⟩ := h
    have fields (op : Nat) (hop : op < 32) := dmaWord_fields op o hop hok
    refine ⟨(fields _ (by decide)).1, t, c, ?_⟩
    simp only [dmaDec, fields, Nat.reduceLT]
    exact if_pos (by simp [himm])
  | skewa t c o =>
    cases e
    simp only [Instr.wellFormed, Bool.and_eq_true] at h
    obtain ⟨-, hskew⟩ := h
    obtain ⟨hok, hsrck⟩ := srckOk_of_skewOk o hskew
    have fields (op : Nat) (hop : op < 32) := dmaWord_fields op o hop hok
    refine ⟨(fields _ (by decide)).1, t, c, ?_⟩
    simp only [dmaDec, fields, Nat.reduceLT]
    exact if_pos (by simp [hsrck])
  | skewb t c o =>
    cases e
    simp only [Instr.wellFormed, Bool.and_eq_true, decide_eq_true_eq] at h
    obtain ⟨⟨-, hskew⟩, hmask⟩ := h
    obtain ⟨hok, hsrck⟩ := srckOk_of_skewOk o hskew
    have fields (op : Nat) (hop : op < 32) := dmaWord_fields op o hop hok
    refine ⟨(fields _ (by decide)).1, t, c, ?_⟩
    simp only [dmaDec, fields, Nat.reduceLT]
    exact if_pos (by simp [hsrck, dmaMask, hmask])
  | _ => cases e

theorem vecDec_vecEnc (e : vecEnc i = some w) : w < 2 ^ 56 ∧ ∃ t c, vecDec t c w = .op i := by
  cases i with
  | fadd t k d a b | fsub t k d a b | fmul t k d a b | fmin t k d a b | fmax t k d a b | fclt t k d a b | fcle t k d a b | fceq t k d a b
  | fscl t k d a b | iadd t k d a b | isub t k d a b | imul t k d a b | andV t k d a b | orV t k d a b | xorV t k d a b | shl t k d a b
  | shr t k d a b | sra t k d a b | imin t k d a b | imax t k d a b | iclt t k d a b | iceq t k d a b | sadd t k d a b | ssub t k d a b
  | smul t k d a b | sand t k d a b | sor t k d a b | sxor t k d a b | sshl t k d a b | sshr t k d a b | ssra t k d a b | smin t k d a b
  | smax t k d a b | sclt t k d a b | sceq t k d a b =>
    cases e
    simp only [Instr.wellFormed, reg5, Bool.and_eq_true, decide_eq_true_eq] at h
    obtain ⟨⟨⟨-, hd⟩, ha⟩, hb⟩ := h
    refine vecB_readsBack t k (by decide) hd ha (by decide) hb ?_
    rintro f rfl rfl - rfl
    rfl
  | fma t k d a b c | fnma t k d a b c | sel t k d a b c =>
    cases e
    simp only [Instr.wellFormed, reg5, Bool.and_eq_true, decide_eq_true_eq] at h
    obtain ⟨⟨⟨⟨-, hd⟩, ha⟩, hb⟩, hc⟩ := h
    refine vecB_readsBack t k (by decide) hd ha hc hb ?_
    rintro f rfl rfl rfl rfl
    rfl
  | mov t k d b | viota t k d b | smov t k d b =>
    cases e
    simp only [Instr.wellFormed, reg5, Bool.and_eq_true, decide_eq_true_eq] at h
    obtain ⟨⟨-, hd⟩, hb⟩ := h
    refine vecB_readsBack t k (by decide) hd (by decide) (by decide) hb ?_
    rintro f rfl - - rfl
    rfl
  | fabs t k d a | fneg t k d a | fcvti t k d a | icvtf t k d a | norm t k d a | expx t k d a | exp2 t k d a | log2 t k d a | rcp t k d a
  | rsqrt t k d a =>
    cases e
    simp only [Instr.wellFormed, reg5, Bool.and_eq_true, decide_eq_true_eq] at h
    obtain ⟨⟨-, hd⟩, ha⟩ := h
    exact vecImm_readsBack t k (by decide) hd ha 0 rfl
  | bexp t k d a m =>
    cases e
    simp only [Instr.wellFormed, reg5, Bool.and_eq_true, decide_eq_true_eq] at h
    obtain ⟨⟨⟨-, hd⟩, ha⟩, hm⟩ := h
    exact vecImm_readsBack t k (by decide) hd ha m (if_pos (bexp_guard m hm))
  | gred t k d a m =>
    cases e
    simp only [Instr.wellFormed, reg5, gredOk, Bool.and_eq_true] at h
    obtain ⟨⟨⟨-, hd⟩, ha⟩, hred⟩ := h
    exact vecImm_readsBack t k (by decide) (of_decide_eq_true hd) (of_decide_eq_true ha) m (if_pos hred)
  | vext t k d a m =>
    cases e
    simp only [Instr.wellFormed, reg5, Bool.and_eq_true, decide_eq_true_eq] at h
    obtain ⟨⟨-, hd⟩, ha⟩ := h
    exact vecImm_readsBack t k (by decide) hd ha m rfl
  | sshi t k d m =>
    cases e
    simp only [Instr.wellFormed, reg5, Bool.and_eq_true, decide_eq_true_eq] at h
    obtain ⟨-, hd⟩ := h
    exact vecImm_readsBack t k (by decide) hd (by decide) m rfl
  | aadd t k d m =>
    cases e
    simp only [Instr.wellFormed, Bool.and_eq_true, decide_eq_true_eq] at h
    obtain ⟨-, hd⟩ := h
    refine vecImm_readsBack t k (by decide) (by omega) (by decide) m ?_
    simp [vecOp, Nat.mod_eq_of_lt hd]
  | vperm t k d a b =>
    cases e
    simp only [Instr.wellFormed, reg5, Bool.and_eq_true, decide_eq_true_eq] at h
    obtain ⟨⟨⟨-, hd⟩, ha⟩, hb⟩ := h
    exact vecReg_readsBack t k (by decide) hd ha hb rfl
  | vsumL t k la a =>
    cases e
    simp only [Instr.wellFormed, reg5, Bool.and_eq_true, decide_eq_true_eq] at h
    obtain ⟨⟨-, hla⟩, ha⟩ := h
    refine vecLa_readsBack t k (by decide) (by decide) ha hla ?_
    rintro f - rfl hsel rfl
    simp [vecOp, hsel]
  | laclr t k la =>
    cases e
    simp only [Instr.wellFormed, Bool.and_eq_true, decide_eq_true_eq] at h
    obtain ⟨-, hla⟩ := h
    refine vecLa_readsBack t k (by decide) (by decide) (by decide) hla ?_
    rintro f - - hsel rfl
    simp [vecOp, hsel]
  | lard t k d la =>
    cases e
    simp only [Instr.wellFormed, reg5, Bool.and_eq_true, decide_eq_true_eq] at h
    obtain ⟨⟨-, hd⟩, hla⟩ := h
    refine vecLa_readsBack t k (by decide) hd (by decide) hla ?_
    rintro f rfl - hsel rfl
    simp [vecOp, hsel]
  | mova t k d a | movb t k d a | movl t k d a =>
    cases e
    simp only [Instr.wellFormed, reg5, Bool.and_eq_true, decide_eq_true_eq] at h
    obtain ⟨⟨-, hd⟩, ha⟩ := h
    exact vecImm_readsBack t k (by decide) (by omega) ha 0 (if_pos (decide_eq_true hd))
  | movsa t k d a =>
    cases e
    simp only [Instr.wellFormed, reg5, Bool.and_eq_true, decide_eq_true_eq] at h
    obtain ⟨⟨-, hd⟩, ha⟩ := h
    refine vecImm_readsBack t k (by decide) hd (by omega) 0 ?_
    simp [vecOp, Nat.mod_eq_of_lt ha]
  | _ => cases e

end

/-- What holds of the round trip: the word of every well-formed operation reads back, but for the error of a LIN. -/
theorem slot_readsBack (i : Instr) (w : Nat) (h : i.wellFormed = true) (hfree : linErrorFree i = true) :
    (∀ n, arrEnc i = some (n, w) → w < 2 ^ 40 ∧ ∃ t c, arrDec t c n w = .op i) ∧
    (vecEnc i = some w → w < 2 ^ 56 ∧ ∃ t c, vecDec t c w = .op i) ∧
    (∀ y, lsEnc i = some (y, w) → w < 2 ^ 32 ∧ ∃ t c, lsDec t c y w = .op i) ∧
    (dmaEnc i = some w → w < 2 ^ 32 ∧ ∃ t c, dmaDec t c w = .op i) :=
  ⟨fun _ => arrDec_arrEnc h hfree, vecDec_vecEnc h, fun _ => lsDec_lsEnc h, dmaDec_dmaEnc h⟩

/-- A LIN of array 0 in which the check of the anvil add finds a mismatch (05 R118). -/
def linMismatch : Instr :=
  .lin 0 0 ⟨{ arr := 0, fmt := 0, sa := 0, aoff := 0, sb := 0, boff := 0, acc := 0, clr := false, ld := false, msk := 0 },
    some { row := 0, col := 0, place := .anvil, value := 1 }⟩

/-- Its word is the opcode alone. -/
theorem arrEnc_linMismatch : arrEnc linMismatch = some (0, 5 * 2 ^ 35) := rfl

/-- The word decodes to a LIN without an error. -/
theorem arrDec_linMismatch (t c : Nat) : arrDec t c 0 (5 * 2 ^ 35) =
    .op (.lin t c ⟨{ arr := 0, fmt := 0, sa := 0, aoff := 0, sb := 0, boff := 0, acc := 0, clr := false, ld := false, msk := 0 }, none⟩) := rfl

/-- Refutes O54: the error that a LIN carries is well-formed but no field of its slot, so a LIN with a mismatch reads back without it. Every
other operation reads back (`slot_readsBack`). -/
theorem not_slotRoundTrip : ¬ Obligations.SlotRoundTrip := by
  unfold Obligations.SlotRoundTrip
  intro h
  obtain ⟨arrays, -⟩ := h linMismatch (5 * 2 ^ 35) rfl
  obtain ⟨-, t, c, back⟩ := arrays 0 arrEnc_linMismatch
  cases (arrDec_linMismatch t c).symm.trans back

/-! ### Operand builders and mask registers (R107, R110, R111) -/

section
variable (c : Nat) (o : DmaOp) (x : Tile)

/-- A SKEWA or SKEWB with a tag that it may take breaks no rule: what it puts in flight names no register (R160). -/
theorem skew_tagFree (isB : Bool) (hfree : x.tagFree o.tag = true) :
    let fmt := dmaFmt o
    let prm := x.getS o.prm
    let base := (x.getS o.src).toNat % 2 ^ 21
    let i := (x.getS o.dst).toNat / 2 ^ 12 % 512
    let out := if isBf16 fmt then 8192 else 4096
    let fin := max (c + 8 + max ((skewSize isB fmt (dmaSrck o) + 127) / 128) (out / 64)) x.lastSkew
    let block := skewBytes isB fmt i ((List.range 64).map (x.skewSrc isB fmt (dmaSrck o) base (prm.toNat % 2 ^ 16)))
    let x1 : Tile := { x with tags := NMap.insert x.tags o.tag ⟨if isB then 4 else 3, some fin, false, base, 4096 * i, out⟩ }
    let x2 := x1.flies (fin + 1) (.store block)
    x.skew c o isB = .done (if isB then x2 else x2.flies (fin + 1) (.mreg o.tag (x.skewMask (dmaMask o) prm))) := by
  intro fmt prm base i out fin block x1 x2
  have hblock : x1.push (fin + 1) (.store block) = .done x2 := push_mem _ _ _ rfl
  have hmask : x2.push (fin + 1) (.mreg o.tag (x.skewMask (dmaMask o) prm)) = .done _ := push_mem _ _ _ rfl
  calc x.skew c o isB
      = (x1.push (fin + 1) (.store block)).andThen fun y =>
          if isB then .done y else y.push (fin + 1) (.mreg o.tag (x.skewMask (dmaMask o) prm)) := if_pos hfree
    _ = if isB then .done x2 else x2.push (fin + 1) (.mreg o.tag (x.skewMask (dmaMask o) prm)) := by rw [hblock]; rfl
    _ = _ := by rw [hmask, apply_ite SlotRes.done]

/-- MKS with a tag that it may take is complete at once, and its mask is in flight. -/
theorem mks_tagFree (hfree : x.tagFree o.tag = true) :
    let x1 : Tile := { x with tags := NMap.insert x.tags o.tag ⟨5, some c, true, 0, 0, 0⟩ }
    x.mks c o = .done (x1.flies (c + 1) (.mreg o.tag (x.getS o.src))) :=
  (if_pos hfree).trans (push_mem _ _ _ rfl)

end

/-- Settles O11: each operation is a slot operation whose effect is that of `skew_tagFree` or `mks_tagFree`. -/
theorem skewOps : Obligations.SkewOps := by
  unfold Obligations.SkewOps
  intro s t c o h x fmt prm base i out fin built tagged
  exact ⟨fun hfree => next_slotOp s t c h _ _ (skew_tagFree c o x false hfree),
    fun hfree => next_slotOp s t c h _ _ (skew_tagFree c o x true hfree),
    fun hfree => next_slotOp s t c h _ _ (mks_tagFree c o x hfree)⟩

/-! ### LD and ST (R107, R110, R164, R167) -/

section
variable (s : State) (t c : Nat)

/-- An LD (op 1) or ST (op 2) with a tag that it may take and a range that exists is outstanding from its issue on. -/
theorem issueDma_outstanding (o : DmaOp) (op : Nat) (hrun : (found s t c).run.isSome = true) (hmiss : (found s t c).struck c = none)
    (hwait : (found s t c).wait = none) (hfree : (found s t c).tagFree o.tag = true) (horphan : (reached s t c).hst.orphan = false) :
    let x := found s t c
    let g := x.ldArgs o (op == 1)
    tileRangeOk (reached s t c) g.1 g.2.2 = true →
    issueDma s t c o op = afterOp s t c { x with tags := NMap.insert x.tags o.tag ⟨op, none, false, g.1, g.2.1, g.2.2⟩ } := by
  intro x g hrange
  obtain ⟨r, hr⟩ := Option.isSome_iff_exists.mp hrun
  simp only [found, reached] at hr hmiss hwait hfree horphan
  simp only [x, g, found, reached] at hrange
  simp only [issueDma, hr, hwait, hmiss, hfree, hrange, horphan, afterOp, x, g, found, reached, Option.isSome_none, Bool.not_true,
    Bool.false_and, Bool.or_self, Bool.false_eq_true, if_false]

variable (tag : Nat) (r : Running) (g : TagOp) (hrun : ((tileAt s t).land c).run = some r) (hmiss : ((tileAt s t).land c).struck c = none)
  (htag : tag < 16) (hg : NMap.find? ((tileAt s t).land c).tags tag = some g) (hopen : g.done = false)
include hrun hmiss htag hg hopen

/-- An LD whose lines are good has copied its bytes at its completion. -/
theorem execDmaSkewComplete_ld (hop : g.op = 1) (hgood : badRange s g.src g.len = false) :
    execDmaSkewComplete t c tag s = .next (setTile (noteReads s g.src g.len) t
      ((((tileAt s t).land c).stored c (loadBytes s r.slice g)).complete c tag g)) := by
  simp only [execDmaSkewComplete, Nat.not_le.mpr htag, hrun, hmiss, hg, hopen, hop, hgood, Bool.false_eq_true, if_true, if_false]

/-- An ST whose lines take the write has copied its bytes at its completion. -/
theorem execDmaSkewComplete_st (hop : g.op = 2) (hok : (devWrite s g.src (bytesAt ((tileAt s t).land c).stByte g.dst g.len)).2 = true) :
    execDmaSkewComplete t c tag s = .next (setTile (devWrite s g.src (bytesAt ((tileAt s t).land c).stByte g.dst g.len)).1 t
      (((tileAt s t).land c).complete c tag g)) := by
  simp only [execDmaSkewComplete, Nat.not_le.mpr htag, hrun, hmiss, hg, hopen, hop, hok, Bool.false_eq_true, OfNat.ofNat_ne_one, if_true, if_false]

/-- A SKEWA or SKEWB that has reached its cycle completes. -/
theorem execDmaSkewComplete_skew (hld : g.op ≠ 1) (hst : g.op ≠ 2) (n : Nat) (hat : g.doneAt = some n) (hn : n ≤ c) :
    execDmaSkewComplete t c tag s = .next (setTile s t (((tileAt s t).land c).complete c tag g)) := by
  simp only [execDmaSkewComplete, Nat.not_le.mpr htag, hrun, hmiss, hg, hopen, hld, hst, hat, hn, Bool.false_eq_true, if_true, if_false]

end

/-- Settles O12: LD and ST issue by `issueDma_outstanding`; a completion is that of its kind of operation. -/
theorem dmaSlotOps : Obligations.DmaSlotOps := by
  unfold Obligations.DmaSlotOps
  intro s t c tag o r g x y
  refine ⟨fun hrun hmiss hwait hfree horphan => ⟨fun hrange => ?ld, fun hrange => ?st⟩, fun hrun hmiss htag hg hopen => ?complete⟩
  case ld => exact congrArg Host.Outcome.next (issueDma_outstanding s t c o 1 hrun hmiss hwait hfree horphan hrange)
  case st => exact congrArg Host.Outcome.next (issueDma_outstanding s t c o 2 hrun hmiss hwait hfree horphan hrange)
  case complete =>
    exact ⟨execDmaSkewComplete_ld s t c tag r g hrun hmiss htag hg hopen, execDmaSkewComplete_st s t c tag r g hrun hmiss htag hg hopen,
      execDmaSkewComplete_skew s t c tag r g hrun hmiss htag hg hopen⟩

end Sys2Proof.Machine
end

section
/-!
PROOFS OF 06_number_formats_and_long_accumulation.md. The operations of the long vector accumulators (R141, R142, 07 R152, R156).
-/
namespace Sys2Proof.Machine

/-! ### Operations of the long vector accumulators (R141, R142, 07 R152, R156) -/

section
variable (c : Nat) (o : LsOp) (v : Option (BitVec 24)) (x : Tile) (hquiet : x.Quiet 2 o.an)
include hquiet

/-- A write of an accumulator is no write in flight, so the post-modification after it meets none. -/
theorem postMod_setLA (n note : Nat) (val : Option Int) : postMod c o v (x.setLA n note val) = .done ((x.setLA n note val).modified c o v) :=
  postMod_done c o v _ hquiet

/-- A store to X or Y memory names no register, so the post-modification of its address register meets no write in flight. -/
theorem pushXmem_postMod (vis : Nat) (y : Bool) (bytes : List (Nat × Byte)) :
    (x.push vis (.xmem y bytes)).andThen (postMod c o v) = .done ((x.flies vis (.xmem y bytes)).modified c o v) := by
  have hstore : x.push vis (.xmem y bytes) = .done (x.flies vis (.xmem y bytes)) := push_mem x vis _ rfl
  have hnext : (x.flies vis (.xmem y bytes)).Quiet 2 o.an := quiet_flies x vis 2 o.an _ (fun _ hreg => nomatch hreg) hquiet
  rw [hstore]
  exact postMod_done c o v _ hnext

end

/-- A slot operation under an issue rule that is met leaves the tile as its effect says. -/
theorem next_slotOp_ruleMet (s : State) (t c : Nat) (h : Issues s t c) (rule : Tile → Bool) (f : Tile → SlotRes) (y : Tile)
    (hrule : rule (found s t c) = true) (e : f (found s t c) = .done y) :
    Host.Outcome.next (slotOp s t c fun x => if rule x then f x else .broke) = (.next (afterOp s t c y) : Out) :=
  next_slotOp s t c h _ _ ((if_pos hrule).trans e)

/-- Settles O7: with its issue rule met each operation is its effect by `next_slotOp_ruleMet`, and that effect breaks no other rule: VSUM.L
and LACLR write the accumulator alone, LARD's register is quiet, and the loads and stores post-modify a quiet address register. -/
theorem longAccumulatorOps : Obligations.LongAccumulatorOps := by
  unfold Obligations.LongAccumulatorOps
  intro s t c d a n o h x
  refine ⟨fun hadd => ?vsumL, fun hset => ?laclr, fun hread hquiet => ?lard, fun hset hquiet => ?lald, fun hread hquiet => ?last,
    fun hadd hquiet => ?lamrg⟩
  case vsumL => exact next_slotOp_ruleMet s t c h (·.laAddOk n c) _ _ hadd rfl
  case laclr => exact next_slotOp_ruleMet s t c h (·.laSetOk n c) _ _ hset rfl
  case lard => exact next_slotOp_ruleMet s t c h (·.laReadOk n c) _ _ hread (push_quiet (x.noteRead n c) _ 0 d _ rfl hquiet)
  case lald => exact next_slotOp_ruleMet s t c h (·.laSetOk (o.r % 4) c) _ _ hset (postMod_setLA c o _ x hquiet _ _ _)
  case last =>
    exact next_slotOp_ruleMet s t c h (·.laReadOk (o.r % 4) c) _ _ hread
      (pushXmem_postMod c o _ ((x.noteRead (o.r % 4) c).ends (c + 2)) hquiet _ _ _)
  case lamrg => exact next_slotOp_ruleMet s t c h (·.laAddOk (o.r % 4) c) _ _ hadd (postMod_setLA c o _ x hquiet _ _ _)

end Sys2Proof.Machine
end

section
/-!
PROOFS OF 07_vector_and_signal_datapath.md. When a result is read (R147), the operations of the vector/signal slot (R143 to R151), and
the loads and stores of the X and Y slots (R153 to R158).
-/
namespace Sys2Proof.Machine

/-! ### What a landing write leaves of the register files (R144, R147) -/

/-- The vector, scalar and address registers of two tiles are the same. -/
def sameRegs (x y : Tile) : Prop := y.v = x.v ∧ y.s = x.s ∧ y.a = x.a

section
variable {x y : Tile} (n : Nat)

theorem getV_of_sameRegs (h : sameRegs x y) : y.getV n = x.getV n := congrArg (NMap.getD · n zeroLanes) h.1
theorem getS_of_sameRegs (h : sameRegs x y) : y.getS n = x.getS n := congrArg (NMap.getD · n 0) h.2.1
theorem getA_of_sameRegs (h : sameRegs x y) : y.getA n = x.getA n := congrArg (NMap.getD · n 0) h.2.2

end

theorem setArr_sameRegs (x : Tile) (a : Nat) (u : ArrayUnit) : sameRegs x (x.setArr a u) := by
  unfold Tile.setArr
  split <;> exact ⟨rfl, rfl, rfl⟩

theorem stored_sameRegs (x : Tile) (vis : Nat) (bytes : List (Nat × Byte)) : sameRegs x (x.stored vis bytes) := ⟨rfl, rfl, rfl⟩

theorem checkRow_sameRegs (x : Tile) (arr c : Nat) : sameRegs x (x.checkRow arr c) := by
  simp only [Tile.checkRow]
  split
  · exact ⟨rfl, rfl, rfl⟩
  · split <;> exact ⟨rfl, rfl, rfl⟩

/-- A landing write that names no register leaves the vector, scalar and address registers. -/
theorem applyWrite_sameRegs (vis : Nat) (x : Tile) (w : TWrite) (hw : w.reg = none) : sameRegs x (applyWrite vis x w) := by
  cases w with
  | vreg | sreg | areg | breg | lreg => exact nomatch hw
  | xmem y bytes => cases y <;> exact ⟨rfl, rfl, rfl⟩
  | mreg => exact ⟨rfl, rfl, rfl⟩
  | store | outRow | outLong => exact stored_sameRegs x vis _
  | check => exact checkRow_sameRegs _ _ _
  | anvilRow => exact setArr_sameRegs _ _ _
  | inLong =>
    simp only [applyWrite, Tile.setArr]
    split <;> exact ⟨rfl, rfl, rfl⟩

/-! ### When a result is read (R147) -/

/-- A reading of a tile gives one register, its file and number as in TWrite.reg: it does not see the writes in flight, and of those
that land it sees only the ones that name the register. -/
structure ReadsReg {α : Type} (read : Tile → α) (file n : Nat) : Prop where
  inFlight : ∀ (x : Tile) (l : List (Nat × TWrite)), read { x with pend := l } = read x
  other : ∀ (vis : Nat) (x : Tile) (w : TWrite), w.reg ≠ some (file, n) → read (applyWrite vis x w) = read x

theorem getV_readsReg (n : Nat) : ReadsReg (·.getV n) 0 n where
  inFlight _ _ := rfl
  other vis x w hw := by
    have hmem := applyWrite_sameRegs vis x w
    cases w with
    | vreg r lanes =>
      have hne : r ≠ n := fun h => hw (by rw [h, TWrite.reg])
      simp [applyWrite, Tile.getV, NMap.getD_insert, hne]
    | sreg | areg | breg | lreg => rfl
    | _ => exact getV_of_sameRegs n (hmem rfl)

theorem getS_readsReg (n : Nat) : ReadsReg (·.getS n) 1 n where
  inFlight _ _ := rfl
  other vis x w hw := by
    have hmem := applyWrite_sameRegs vis x w
    cases w with
    | sreg r u =>
      have hne : r ≠ n := fun h => hw (by rw [h, TWrite.reg])
      simp [applyWrite, Tile.getS, NMap.getD_insert, hne]
    | vreg | areg | breg | lreg => rfl
    | _ => exact getS_of_sameRegs n (hmem rfl)

theorem getA_readsReg (n : Nat) : ReadsReg (·.getA n) 2 n where
  inFlight _ _ := rfl
  other vis x w hw := by
    have hmem := applyWrite_sameRegs vis x w
    cases w with
    | areg r a =>
      have hne : r ≠ n := fun h => hw (by rw [h, TWrite.reg])
      simp [applyWrite, Tile.getA, NMap.getD_insert, hne]
    | vreg | sreg | breg | lreg => rfl
    | _ => exact getA_of_sameRegs n (hmem rfl)

/-- On a tile on which a register is quiet no write in flight names it. -/
theorem reg_ne_of_quiet (x : Tile) (file n : Nat) (hquiet : x.Quiet file n) : ∀ p ∈ x.pend, p.2.reg ≠ some (file, n) := by
  intro p hp hreg
  simpa [regsMeet] using hquiet p hp _ hreg

section
variable {α : Type} {read : Tile → α} {file n : Nat} (hread : ReadsReg read file n)
include hread

/-- Writes that do not name a register land without a change of it. -/
theorem landGo_read (l : List (Nat × TWrite)) (hl : ∀ p ∈ l, p.2.reg ≠ some (file, n)) (k : Nat) (x : Tile) :
    read (landGo l k x) = read x := by
  induction l generalizing x with
  | nil => exact hread.inFlight x _
  | cons p ps ih =>
    obtain ⟨hp, hps⟩ := List.forall_mem_cons.mp hl
    unfold landGo
    split
    · rw [ih hps, hread.other _ _ _ hp]
    · exact hread.inFlight x _

variable (vis k : Nat) (w : TWrite) (l : List (Nat × TWrite)) (hl : ∀ p ∈ l, p.2.reg ≠ some (file, n))
include hl

/-- The one write of a register that is in flight has landed by its cycle: what lands before it lands in time, and what lands behind it
does not name the register. -/
theorem landGo_addPend_due (val : α) (hw : ∀ x, read (applyWrite vis x w) = val) (hdue : vis ≤ k) (x : Tile) :
    read (landGo (addPend l (vis, w)) k x) = val := by
  induction l generalizing x with
  | nil => simp only [addPend, landGo, hdue, if_true, hread.inFlight, hw]
  | cons p ps ih =>
    unfold addPend
    split
    · next hle =>
      rw [landGo, if_pos (Nat.le_trans hle hdue)]
      exact ih (List.forall_mem_cons.mp hl).2 _
    · rw [landGo, if_pos hdue, landGo_read hread _ hl, hw]

/-- The one write of a register that is in flight does not land before its cycle. -/
theorem landGo_addPend_early (hearly : k < vis) (x : Tile) : read (landGo (addPend l (vis, w)) k x) = read x := by
  have hstays : ¬vis ≤ k := Nat.not_le.mpr hearly
  induction l generalizing x with
  | nil => simp only [addPend, landGo, hstays, if_false, hread.inFlight]
  | cons p ps ih =>
    obtain ⟨hp, hps⟩ := List.forall_mem_cons.mp hl
    unfold addPend
    split
    · unfold landGo
      split
      · rw [ih hps, hread.other _ _ _ hp]
      · exact hread.inFlight x _
    · rw [landGo, if_neg hstays, hread.inFlight]

end

/-- A result with its cycle of visibility, on a tile on which its register is quiet: the register reads as the result from that cycle
on, and before it as it did. -/
theorem land_flies_read {α : Type} {read : Tile → α} {file n : Nat} (hread : ReadsReg read file n) (x : Tile) (vis k : Nat) (w : TWrite)
    (val : α) (hw : ∀ y, read (applyWrite vis y w) = val) (hquiet : x.Quiet file n) :
    (vis ≤ k → read ((x.flies vis w).land k) = val) ∧ (k < vis → read ((x.flies vis w).land k) = read x) := by
  have hl := reg_ne_of_quiet x file n hquiet
  refine ⟨fun hdue => ?due, fun hearly => ?early⟩
  case due => exact landGo_addPend_due hread vis k w _ hl val hw hdue _
  case early =>
    have h := landGo_addPend_early hread vis k w _ hl hearly (x.flies vis w)
    exact h.trans (hread.inFlight x _)

/-- A write is put in flight in its order. -/
theorem addPend_sorted (l : List (Nat × TWrite)) (w : Nat × TWrite) (hl : pendSorted l) : pendSorted (addPend l w) := by
  induction l with
  | nil => exact ⟨nofun, trivial⟩
  | cons p ps ih =>
    obtain ⟨hp, hps⟩ := hl
    unfold addPend
    split
    · next hle =>
      refine ⟨fun q hq => ?_, ih hps⟩
      rcases mem_addPend _ _ _ hq with rfl | hq
      · exact hle
      · exact hp q hq
    · next hgt =>
      have hlt : w.1 ≤ p.1 := Nat.le_of_not_le hgt
      exact ⟨List.forall_mem_cons.mpr ⟨hlt, fun q hq => Nat.le_trans hlt (hp q hq)⟩, hp, hps⟩

/-- Settles O55: `land_flies_read` for the vector, scalar and address registers, and `addPend_sorted` for the order. -/
theorem resultVisible : Obligations.ResultVisible := by
  unfold Obligations.ResultVisible
  intro x c lat k n v u a hsorted
  refine ⟨?vector, ?scalar, ?address, addPend_sorted _ _ hsorted⟩
  case vector => exact land_flies_read (getV_readsReg n) x _ k _ v fun _ => by simp [applyWrite, Tile.getV, NMap.getD_insert]
  case scalar => exact land_flies_read (getS_readsReg n) x _ k _ u fun _ => by simp [applyWrite, Tile.getS, NMap.getD_insert]
  case address => exact land_flies_read (getA_readsReg n) x _ k _ a fun _ => by simp [applyWrite, Tile.getA, NMap.getD_insert]

/-! ### Operations of the vector/signal slot that issue (R143 to R151) -/

section
variable (s : State) (t c d : Nat) (h : Issues s t c)
include h

/-- A slot operation that puts one write in flight, of a register that is quiet (R160). -/
theorem next_slotOp_push (file lat : Nat) (g : Tile → TWrite) (hreg : (g (found s t c)).reg = some (file, d))
    (hquiet : (found s t c).Quiet file d) :
    Host.Outcome.next (slotOp s t c fun x => x.push (c + lat) (g x)) =
      (.next (afterOp s t c ((found s t c).flies (c + lat) (g (found s t c)))) : Out) :=
  next_slotOp s t c h _ _ (push_quiet _ _ file d _ hreg hquiet)

/-- A lane operation has its result in flight to V[d]. -/
theorem next_laneOp (hquiet : (found s t c).Quiet 0 d) (lat : Nat) (g : Tile → List W32) :
    Host.Outcome.next (laneOp s t c d lat g) =
      (.next (afterOp s t c ((found s t c).flies (c + lat) (.vreg d (g (found s t c))))) : Out) :=
  next_slotOp_push s t c d h 0 lat (fun x => .vreg d (g x)) rfl hquiet

/-- A scalar operation has its result in flight to S[d]. -/
theorem next_scalarPush (hquiet : (found s t c).Quiet 1 d) (lat : Nat) (g : Tile → W64) :
    Host.Outcome.next (slotOp s t c fun x => x.push (c + lat) (.sreg d (g x))) =
      (.next (afterOp s t c ((found s t c).flies (c + lat) (.sreg d (g (found s t c))))) : Out) :=
  next_slotOp_push s t c d h 1 lat (fun x => .sreg d (g x)) rfl hquiet

end

/-- Settles O1: each operation is a lane operation, of latency 4 for the arithmetic and 2 for minimum, maximum and comparison. -/
theorem fpLaneOps : Obligations.FpLaneOps := by
  unfold Obligations.FpLaneOps
  intro s t c d a cc b h hquiet x
  have lane := next_laneOp s t c d h hquiet
  refine ⟨?fadd, ?fsub, ?fmul, ?fma, ?fnma, ?fmin, ?fmax, ?fclt, ?fcle, ?fceq⟩
  case fadd | fsub | fmul | fma | fnma => exact lane 4 _
  case fmin | fmax | fclt | fcle | fceq => exact lane 2 _

/-- Settles O2: each operation is a lane operation, of latency 1 for the signs, 2 for conversions and exponents and 8 for the special
functions. -/
theorem unaryLaneOps : Obligations.UnaryLaneOps := by
  unfold Obligations.UnaryLaneOps
  intro s t c d a b h hquiet x
  have lane := next_laneOp s t c d h hquiet
  refine ⟨?fabs, ?fneg, ?fcvti, ?icvtf, ?fscl, ?norm, ?expx, ?exp2, ?log2, ?rcp, ?rsqrt⟩
  case fabs | fneg => exact lane 1 _
  case fcvti | icvtf | fscl | norm | expx => exact lane 2 _
  case exp2 | log2 | rcp | rsqrt => exact lane 8 _

/-- Settles O3: each operation is a lane operation, of latency 3 for IMUL and 1 for the others. -/
theorem intLaneOps : Obligations.IntLaneOps := by
  unfold Obligations.IntLaneOps
  intro s t c d a cc b h hquiet x
  have lane := next_laneOp s t c d h hquiet
  refine ⟨?iadd, ?isub, ?imul, ?andV, ?orV, ?xorV, ?shl, ?shr, ?sra, ?imin, ?imax, ?iclt, ?iceq, ?sel, ?mov, ?viota⟩
  case imul => exact lane 3 _
  case iadd | isub | andV | orV | xorV | shl | shr | sra | imin | imax | iclt | iceq | sel | mov | viota => exact lane 1 _

/-- Settles O4: BEXP, GRED and VPERM are lane operations, and VEXT puts one scalar write in flight. -/
theorem groupLaneOps : Obligations.GroupLaneOps := by
  unfold Obligations.GroupLaneOps
  intro s t c d a b imm h hvector hscalar x
  have lane := next_laneOp s t c d h hvector
  exact ⟨lane 4 _, lane 6 _, lane 2 _, next_scalarPush s t c d h hscalar 2 _⟩

/-- Settles O5: each operation puts one scalar write in flight, of latency 3 for SMUL and 1 for the others. -/
theorem scalarOps : Obligations.ScalarOps := by
  unfold Obligations.ScalarOps
  intro s t c d a b imm h hquiet x
  have scalar := next_scalarPush s t c d h hquiet
  refine ⟨?sadd, ?ssub, ?smul, ?sand, ?sor, ?sxor, ?sshl, ?sshr, ?ssra, ?smin, ?smax, ?sclt, ?sceq, ?smov, ?sshi⟩
  case smul => exact scalar 3 _
  case sadd | ssub | sand | sor | sxor | sshl | sshr | ssra | smin | smax | sclt | sceq | smov | sshi => exact scalar 1 _

/-- Settles O6: each operation puts one write in flight, of a register of the file that its premise finds quiet. -/
theorem addressRegisterOps : Obligations.AddressRegisterOps := by
  unfold Obligations.AddressRegisterOps
  intro s t c d a imm h x
  have push := next_slotOp_push s t c d h
  refine ⟨fun hquiet => ?mova, fun hquiet => ?movb, fun hquiet => ?movl, fun hquiet => ?movsa, fun hquiet => ?aadd⟩
  case mova | aadd => exact push 2 1 (fun x => .areg d _) rfl hquiet
  case movb => exact push 3 1 (fun x => .breg d _) rfl hquiet
  case movl => exact push 4 1 (fun x => .lreg d _) rfl hquiet
  case movsa => exact push 1 1 (fun x => .sreg d _) rfl hquiet

/-! ### The port of a tile-store access (R158) -/

@[simp] theorem notePort_pend (x : Tile) (y : Bool) (c : Nat) : (x.notePort y c).pend = x.pend := by
  cases y <;> rfl

/-- Noting the use of a port puts no write in flight. -/
theorem quiet_notePort (x : Tile) (y : Bool) (c file n : Nat) (hquiet : x.Quiet file n) : (x.notePort y c).Quiet file n := by
  unfold Tile.Quiet
  rwa [notePort_pend]

/-! ### Loads and stores of the X and Y slots (R153 to R158) -/

/-- A vector or scalar register meets no address register. -/
theorem regsMeet_address_data (an file r : Nat) (hfile : file < 2) : regsMeet (2, an) (file, r) = false := by
  obtain rfl | rfl : file = 0 ∨ file = 1 := by omega
  all_goals simp [regsMeet]

section
variable (x : Tile) (c : Nat) (o : LsOp) (v : Option (BitVec 24)) (haddr : x.Quiet 2 o.an)
include haddr

/-- An access whose own write breaks no rule and meets no address register is followed by the post-modification (R154). -/
theorem push_postMod (vis : Nat) (w : TWrite) (hpush : x.push vis w = .done (x.flies vis w))
    (hmeet : ∀ r, w.reg = some r → regsMeet (2, o.an) r = false) :
    (x.push vis w).andThen (postMod c o v) = .done ((x.flies vis w).modified c o v) := by
  rw [hpush]
  exact postMod_done c o v _ (quiet_flies x vis 2 o.an w hmeet haddr)

/-- A load writes a vector (file 0) or scalar (file 1) register that is quiet. -/
theorem load_postMod (vis file : Nat) (w : TWrite) (hreg : w.reg = some (file, o.r)) (hfile : file < 2) (hquiet : x.Quiet file o.r) :
    (x.push vis w).andThen (postMod c o v) = .done ((x.flies vis w).modified c o v) := by
  refine push_postMod x c o v haddr vis w (push_quiet x vis file o.r w hreg hquiet) fun r hr => ?_
  obtain rfl : (file, o.r) = r := Option.some.inj (hreg.symm.trans hr)
  exact regsMeet_address_data o.an file o.r hfile

end

/-- Settles O8: the effect of each load is that of `load_postMod`; VLDT has its port by its premise. -/
theorem loadOps : Obligations.LoadOps := by
  unfold Obligations.LoadOps
  intro s t c o h hvector hscalar haddr x e
  refine ⟨?vld, ?vldb, ?sld, ?ldpk, fun hport => ?vldt⟩
  case vld | vldb | ldpk => exact next_slotOp s t c h _ _ (load_postMod x c o _ haddr _ 0 _ rfl (by decide) hvector)
  case sld => exact next_slotOp s t c h _ _ (load_postMod x c o _ haddr _ 1 _ rfl (by decide) hscalar)
  case vldt =>
    have hnoted := quiet_notePort x o.slotY c
    exact next_slotOp_ruleMet s t c h (·.portFree o.slotY c) _ _ hport
      (load_postMod (x.notePort o.slotY c) c o _ (hnoted _ _ haddr) _ 0 _ rfl (by decide) (hnoted _ _ hvector))

/-- Settles O9: a store to X or Y memory is that of `pushXmem_postMod`; VSTT, whose port its premise frees, writes the tile store and so
names no register. -/
theorem storeOps : Obligations.StoreOps := by
  unfold Obligations.StoreOps
  intro s t c o h haddr x e
  refine ⟨?vst, ?sst, ?stpk, fun hport => ?vstt⟩
  case vst | sst | stpk => exact next_slotOp s t c h _ _ (pushXmem_postMod c o _ (x.ends (c + 2)) haddr _ _ _)
  case vstt =>
    have hnoted := quiet_notePort x o.slotY c 2 o.an haddr
    exact next_slotOp_ruleMet s t c h (·.portFree o.slotY c) _ _ hport
      (push_postMod (x.notePort o.slotY c) c o _ hnoted _ _ (push_mem _ _ _ rfl) nofun)

end Sys2Proof.Machine
end

section
/-!
PROOFS OF 08_memory_hierarchy_and_pages.md. How a DMA engine begins, completes and stops a burst (R172 to R174).
-/
namespace Sys2Proof.Machine

/-! ### DMA bursts (R172 to R174) -/

/-- A chain that goes on names this descriptor, or the engine follows none and the descriptor fits before the dusk band clear of static
work: the two ways in which the stream lets an engine begin (R57, R78, R172). -/
theorem dmaChain_open (s u : State) (eng desc n : Nat)
    (h : NMap.find? s.mem.dmaNext eng = some desc ∨
      (NMap.find? s.mem.dmaNext eng = none ∧ fitsBefore u (unitDma eng) n = true ∧ standsHold u (unitDma eng) = false)) :
    let chained := NMap.find? s.mem.dmaNext eng
    ¬(chained.isSome ∧ chained ≠ some desc) ∧ ¬(chained.isNone ∧ !fitsBefore u (unitDma eng) n) ∧
      ¬(chained.isNone ∧ standsHold u (unitDma eng)) := by
  obtain hnext | ⟨hnone, hfits, hclear⟩ := h
  · simp [hnext]
  · simp [hnone, hfits, hclear]

section
variable (s : State) (eng : Nat) (b : Burst) (hburst : NMap.find? s.mem.dma eng = some b)
include hburst

/-- A burst whose requests have all ended, and which neither serves a switch nor has failed, takes effect (R172). -/
theorem execDmaBurstComplete_writes (hleft : dmaLeft s eng = false) (hplain : switchRegion s b = none) (hgood : sourceBad s b = false)
    (hfail : b.fail = none) :
    let w := burstWrite (burstReads s b) b (burstData s b)
    execDmaBurstComplete eng s = .next (if w.2 = true then burstServed (burstOver (burstStatus w.1 b stOk true) eng b stOk) b
      else burstLost (burstOver (burstStatus w.1 b stDeviceFault true) eng b stDeviceFault) b stDeviceFault false) := by
  simp only [execDmaBurstComplete, hburst, hleft, hplain, hgood, hfail]
  exact (apply_ite Host.Outcome.next _ _ _).symm

/-- At its declared length a burst stops (R174). -/
theorem execDmaBurstTimeout_stops (moved : Nat) (hdue : 1250 * b.tick + b.beat + b.length ≤ launch s) :
    let come := if b.op = 1 ∧ spaceOf b.src = 2 then gotRun b.got 0 else b.bytes
    let n := if sourceBad s b = true then 0 else if spaceOf b.dst = 2 then sentRun s eng come / 64 * 64 else min (min moved b.bytes) come / 64 * 64
    let v := (burstWrite (dropOrigins s eng) b ((burstData s b).take n)).1
    execDmaBurstTimeout eng moved s = .next (burstLost
      (burstOver (devPut (burstStatus v b stTimeout false) (b.desc + 56) (leBytes 4 n)) eng b stTimeout) b stTimeout false) := by
  simp only [execDmaBurstTimeout, hburst, if_neg (Nat.not_lt.mpr hdue)]

end

/-- Settles O23: the descriptor passes each check of its start in turn; a completion and a timeout are those of the engine's burst. -/
theorem dmaEngines : Obligations.DmaEngines := by
  unfold Obligations.DmaEngines
  intro s eng desc moved body slice context use b
  refine ⟨?start, fun hburst => ⟨execDmaBurstComplete_writes s eng b hburst, execDmaBurstTimeout_stops s eng b hburst moved⟩⟩
  case start =>
    intro heng hidle halign husable hbody u d hopen hfits hattn hline hok hsrc hdst hmaster
    obtain ⟨hchain, hbefore, hclear⟩ := dmaChain_open s u eng desc d.length hopen
    have htaken : ¬(15 < eng ∨ (NMap.find? s.mem.dma eng).isSome ∨ desc % 64 ≠ 0 ∨ !usableRange s desc 64 ∨
        ((NMap.find? s.mem.dmaNext eng).isSome ∧ NMap.find? s.mem.dmaNext eng ≠ some desc) ∨ (body ≠ [] ∧ body.length ≠ 64)) := by
      rintro (h | h | h | h | h | ⟨hfull, hlen⟩)
      · omega
      · simp [hidle] at h
      · exact h halign
      · simp [husable] at h
      · exact hchain h
      · exact hbody.elim hfull hlen
    have hvalid : ¬(!descOk u d) := by simp [hok]
    have hallowed : ¬((d.op = 1 ∧ endpointDenied u d d.src) ∨ endpointDenied u d d.dst) := by
      rintro (⟨hcopy, h⟩ | h)
      · simp [hsrc hcopy] at h
      · simp [hdst] at h
    have hgoes : ¬(((NMap.find? s.mem.dmaNext eng).isNone ∧ !fitsBefore u (unitDma eng) d.length) ∨ !fitsTick u d.length ∨
        (usesHost d ∧ !u.hst.busMaster) ∨ ((NMap.find? s.mem.dmaNext eng).isNone ∧ standsHold u (unitDma eng))) := by
      rintro (h | h | ⟨hhost, h⟩ | h)
      · exact hbefore h
      · simp [hfits] at h
      · simp [hmaster hhost] at h
      · exact hclear h
    rw [exec_dmaDescriptorStart, execDmaDescriptorStart, if_neg htaken, if_neg (ne_true_of_eq_false hattn),
      if_neg (ne_true_of_eq_false hline), if_neg hvalid, if_neg hallowed, if_neg hgoes]

end Sys2Proof.Machine
end

section
namespace Sys2Proof.Machine

/-! ### Fused attention (R183 to R203) -/

/-- Tokens of a page of the pool that an ATTN names. -/
def attnPage (u : State) (r : JRec) : Nat := match poolAt u (r.par 10 1) with | some x => x.p | none => 16

/-- The sequence table of an ATTN (R185). -/
def attnTable (u : State) (r : JRec) : List (List Byte) := (List.range (r.par 40 2)).map fun i => devRead u (r.par 48 8 + 32 * i) 32

/-- The global offset list of an ATTN as memory holds it, whether or not its lines read uncorrected (R189). -/
def attnGlobals (u : State) (r : JRec) : List Nat :=
  if (r.par 6 2).testBit 2 = true then (List.range 64).map fun i => devNat u (r.par 80 8 + 4 * i) 4 else []

/-- The sequences of an ATTN as it reads them at its start (R194). -/
def attnSeqs (u : State) (r : JRec) : List AttnSeq := (attnTable u r).map fun b => readSeq u b (r.par 10 1) (attnPage u r)

/-- An ATTN of a serving context before its sequences have started. -/
def attnNew (u : State) (r : JRec) (ctx : Nat) : AttnCmd :=
  { q := r.q, seq := r.seq, slice := (ctxAt u ctx).slice, desc := r.params, p := attnPage u r
    globals := (attnGlobals u r).takeWhile (· != 0xFFFFFFFF), seqs := attnSeqs u r, chains := [], sat := false, poison := false, lowband := false
    rowsDone := 0, jobs := 0, pins := [] }

/-- The state in which its sequences have their statuses and their pins (R194, R204). -/
def attnPinned (u : State) (r : JRec) (ctx : Nat) : State :=
  (List.range (r.par 40 2)).foldl (fun y i => startSeq y r.q r.seq i (pageIds y ((attnTable u r).getD i []) (attnPage u r)))
    { u with attn := u.attn ++ [attnNew u r ctx] }

/-- The state in which its chains stand on their dies, and those without a block have ended (R203). -/
def attnPlaced (v : State) (q seq : Nat) (b : AttnCmd) : State :=
  attnSettle (endEmpty (modAttn v { b with chains := chainsOf v b }) q seq) q seq

section
variable (u : State) (r : JRec) (ctx : Nat)
  (hver : ¬(r.params.length = 128 ∧ r.par 0 4 = 0x4E545441 ∧ r.par 4 2 ≠ 1)) (hdesc : attnDescOk u r = true)
  (hpool : poolActive u (r.par 10 1) = true) (htab : badRange u (r.par 48 8) (32 * r.par 40 2) = false)
include hver hdesc hpool htab

/-- A global offset list that reads uncorrected refuses the command, whatever it holds (R167, log 107). -/
theorem attnStart_globalsBad (hflag : (r.par 6 2).testBit 2 = true) (hbad : badRange u (r.par 80 8) 256 = true) :
    attnStart u r ctx = attnRefuse (recordUncorrected u (r.par 80 8) 256) r.q r.seq stDeviceFault := by
  have hchecks : ¬(!attnDescOk u r ∨ !poolActive u (r.par 10 1)) := by simp [hdesc, hpool]
  simp only [attnStart, if_neg hver, if_neg hchecks, if_neg (ne_true_of_eq_false htab), if_pos (And.intro hflag hbad)]

/-- With a global offset list that can be read, an ATTN whose checks pass starts its sequences and places its chains (R186, R194, R203). -/
theorem attnStart_places (hread : (r.par 6 2).testBit 2 = true → badRange u (r.par 80 8) 256 = false) (hglob : globalsOk (attnGlobals u r) = true)
    (htable : ∀ e ∈ attnTable u r, seqEntryOk u e (attnPage u r) = true ∧ pagesNamed u e (r.par 10 1) (attnPage u r) = true)
    (hseqs : ∀ x ∈ attnSeqs u r, segsOk x.segs = true) (b : AttnCmd) (hfind : findAttn (attnPinned u r ctx) r.q r.seq = some b) :
    attnStart u r ctx = attnPlaced (attnPinned u r ctx) r.q r.seq b := by
  have hchecks : ¬(!attnDescOk u r ∨ !poolActive u (r.par 10 1)) := by simp [hdesc, hpool]
  have hlist : ¬((r.par 6 2).testBit 2 = true ∧ badRange u (r.par 80 8) 256 = true) := fun ⟨hf, hb⟩ => by simp [hread hf] at hb
  have hentries : ¬(!globalsOk (attnGlobals u r) ∨ !(attnTable u r).all (seqEntryOk u · (attnPage u r)) ∨
      !(attnTable u r).all (pagesNamed u · (r.par 10 1) (attnPage u r))) := by
    have he := List.all_eq_true.mpr fun e h => (htable e h).1
    have hn := List.all_eq_true.mpr fun e h => (htable e h).2
    simp only [hglob, he, hn, Bool.not_true, Bool.false_eq_true, or_self, not_false_eq_true]
  have hsegs : ¬(!(attnSeqs u r).all fun x => segsOk x.segs) := by simpa using hseqs
  simp only [attnStart, if_neg hver, if_neg hchecks, if_neg (ne_true_of_eq_false htab), if_neg hlist]
  refine (if_neg hentries).trans ((if_neg hsegs).trans ?_)
  show (match findAttn (attnPinned u r ctx) r.q r.seq with | none => _ | some b => attnPlaced (attnPinned u r ctx) r.q r.seq b) = _
  rw [hfind]

end

section
variable (s : State) (q seq slice ctx : Nat) (r : JRec)

/-- An ATTN of a queue starts in the serving context of its slice (R183, R203). -/
theorem execAttn_queued (hq : q < 2 ^ 16) (h : Starts s q seq 0x0210 r) (hslice : sliceOfRec (begun s q seq) r = some slice)
    (hctx : servingCtx (begun s q seq) slice = some ctx) : execAttn q seq s = .next (attnStart (begun s q seq) r ctx) := by
  have hno : ¬stepQ 0 ≤ q := Nat.not_le.mpr hq
  rw [execAttn, if_neg hno, withCmd_starts _ _ _ _ _ _ h]
  simp only [hslice, Option.bind_some, hctx]

/-- The serving engine issues the ATTN of the next layer of a step under the queue number that stands for it (log 99). -/
theorem execAttn_ofStep (key layer : Nat) (run : StepRun) (d : List Byte) (hrun : NMap.find? s.srv.steps key = some run)
    (hctx : servingCtx s (key / 256) = some ctx) (hd : run.descs[layer]? = some d) (hended : run.ended.length = layer)
    (hnew : findAttn s (stepQ key) layer = none) : execAttn (stepQ key) layer s = .next (attnStart s (stepAttn key layer d) ctx) := by
  have hstep : stepQ 0 ≤ stepQ key := Nat.add_le_add_left (Nat.zero_le key) _
  have hkey : stepQ key - stepQ 0 = key := by simp [stepQ]
  rw [execAttn, if_pos hstep, hkey]
  simp [issueStepAttn, hrun, hctx, hd, hended, hnew]

/-- A staged block of a chain that runs none joins the queue of the chain's die under the next ENQ_SEQ (R203, 04 R81). -/
theorem execAttnBlockEnqueue_joins (chain kernel length argsPtr donePtr : Nat) (a : AttnCmd) (h : Chain) (im : Image)
    (hfind : findAttn s q seq = some a) (hchain : a.chains.find? (fun h => h.num == chain) = some h) (himage : imageAt s h.die kernel = some im)
    (hctx : servingCtx s a.slice = some ctx) (hstaged : chainStaged a h = true) (hset : kernel ∈ s.dies.attnSet) (hidle : h.running = false)
    (hlen : length ≤ 64) (him : im.length = length) (hroom : (NMap.getD s.dies.queues h.die []).length < 1024) :
    let n := NMap.getD s.dies.enqSeq h.die 0
    let j : StealJob := { kernel := kernel, slice := a.slice, length := length, context := ctx, argsPtr := argsPtr, seq := n, donePtr := donePtr
                          attn := some (q, seq, chain) }
    execAttnBlockEnqueue q seq chain kernel length argsPtr donePtr s = .next (modAttn { s with dies := { s.dies with
      queues := NMap.insert s.dies.queues h.die (NMap.getD s.dies.queues h.die [] ++ [j])
      enqSeq := NMap.insert s.dies.enqSeq h.die ((n + 1) % 2 ^ 64) } }
      { a with chains := a.chains.map fun x => if x.num = chain then { x with running := true } else x }) := by
  have hjoins : s.dies.attnSet.contains kernel ∧ chainStaged a h ∧ !h.running ∧ length ≤ 64 ∧ im.length = length ∧
      (NMap.getD s.dies.queues h.die []).length < 1024 := by
    simp [hset, hstaged, hidle, hlen, him, hroom]
  simp only [execAttnBlockEnqueue, hfind, hchain, himage, hctx]
  exact if_pos hjoins

/-- ATTN_MERGE whose parts are in order and can be reached folds them at once, or loads the pieces that stand on other devices (R201). -/
theorem execAttnMerge_folds (h : Starts s q seq 0x0211 r) (hslice : sliceOfRec (begun s q seq) r = some slice)
    (hctx : servingCtx (begun s q seq) slice = some ctx) (hver : ¬(r.params.length = 64 ∧ r.par 0 4 = 0x47524D41 ∧ r.par 4 2 ≠ 1))
    (hdesc : mergeDescOk (begun s q seq) r = true) (htab : badRange (begun s q seq) (r.par 24 8) (16 * r.par 8 2) = false) :
    let u := begun s q seq
    let parts := (mergeParts u r).map fun p => (partAddr u p.1, p.2)
    let total := mergeBytes r.params
    let pieces := (((List.zip (List.range parts.length) parts).filter fun e => e.2.1 / 2 ^ 40 != u.fab.device).map fun e =>
      (List.range ((total + 4095) / 4096)).map fun i => (2 ^ 32 * e.1 + 4096 * i, e.2.1 + 4096 * i, min 4096 (total - 4096 * i))).flatten
    let m : MergeCmd := { q := q, seq := seq, desc := r.params, parts := parts, left := pieces.map (·.1), got := [], fails := [] }
    (List.zipWith (fun (x y : Nat × Nat × Nat) => x.2.2 == y.2.1) parts (parts.drop 1)).all id = true →
    (∀ p ∈ parts, p.1 < 2 ^ 48 ∧ (p.1 / 2 ^ 40 = u.fab.device → usableRange u (p.1 % 2 ^ 40) (mergeBytes r.params) = true)) →
    (∀ p ∈ pieces, inPartition u (p.2.1 / 2 ^ 40) = true) →
    execAttnMerge q seq s = .next (if pieces.isEmpty then mergeDone u m else pieces.foldl (fun y p => issueReq y (p.2.1 / 2 ^ 40)
      (reqPacket 0x10 p.2.1 p.2.2 (sliceTag u (some (ctxAt u ctx).slice)) false []) (some (mergeTag + q, p.1, seq)))
      { u with merges := u.merges ++ [m] }) := by
  intro u parts total pieces m hadj hfits hin
  have hvalid : ¬(!mergeDescOk u r) := by simp [u, hdesc]
  have hfit : (parts.all fun p => decide (p.1 < 2 ^ 48) && (p.1 / 2 ^ 40 != u.fab.device || usableRange u (p.1 % 2 ^ 40) total)) = true := by
    simp only [List.all_eq_true, Bool.and_eq_true, decide_eq_true_eq, Bool.or_eq_true, bne_iff_ne]
    exact fun p hp => ⟨(hfits p hp).1, Decidable.not_or_of_imp (hfits p hp).2⟩
  have hchecks : ¬(!(List.zipWith (fun (x y : Nat × Nat × Nat) => x.2.2 == y.2.1) parts (parts.drop 1)).all id ∨
      !parts.all fun p => decide (p.1 < 2 ^ 48) && (p.1 / 2 ^ 40 != u.fab.device || usableRange u (p.1 % 2 ^ 40) total)) := by
    rw [hadj, hfit]
    decide
  have hout : (pieces.filter fun (p : Nat × Nat × Nat) => !inPartition u (p.2.1 / 2 ^ 40)) = [] :=
    List.filter_eq_nil_iff.mpr fun p hp hno => by rw [hin p hp] at hno; cases hno
  rw [execAttnMerge, withCmd_starts _ _ _ _ _ _ h]
  simp only [hslice, Option.bind_some, hctx, if_neg hver]
  refine congrArg Host.Outcome.next ((if_neg hvalid).trans ((if_neg (ne_true_of_eq_false htab)).trans ((if_neg hchecks).trans ?_)))
  show (let out := pieces.filter fun (p : Nat × Nat × Nat) => !inPartition u (p.2.1 / 2 ^ 40)
    if pieces.isEmpty ∨ !out.isEmpty then mergeDone u { m with fails := out.foldl (fun n p => NMap.insert n (p.1 / 2 ^ 32) stDenied) [] } else _) = _
  rw [hout]
  simp only [List.isEmpty_nil, Bool.not_true, Bool.false_eq_true, or_false, List.foldl_nil, m]
  rfl

end

/-- The record of an accepted ATTN of queue 3: one sequence and one head of 64 in pool 255, with GLOBAL and its list at 0x50000. -/
def globalAttn : JRec :=
  { q := 3, seq := 1, opcode := 0x0210, flags := 0, resultPtr := 0x20000, tickArg := none, pasid := some 7, stage := 1, status := 0, value := 0
    order := 0, tick := 0, beat := 0, doneAt := none, mirAt := 0, mirLeft := 0
    params := leBytes 4 0x4E545441 ++ leBytes 2 1 ++ leBytes 2 4 ++ [0, 0, 255, 0] ++ leBytes 2 64 ++ [1, 1] ++ leBytes 2 1 ++ leBytes 18 0 ++
      leBytes 4 64 ++ leBytes 2 1 ++ leBytes 6 0 ++ leBytes 8 0x60000 ++ leBytes 8 0x100000 ++ leBytes 8 0x110000 ++ leBytes 8 0 ++
      leBytes 8 0x50000 ++ leBytes 40 0 }

/-- A device with that command accepted, an ACTIVE serving context, and frame 0 of the pool granted. The list names no global position, and its
first line is poisoned; the sequence has one query token and one key, which stands in the page of frame 0. -/
def globalsPoisoned : State :=
  let s := State.reset
  { s with
    pwr := { s.pwr with pwrGood := true }
    hst := { s.hst with ready := true, usableGib := 1, interGib := 1, ecc := true, journal := [globalAttn] }
    slc := { s.slc with pasids := [(7, 2)], ctxs := [(5, { state := 3, slice := 2, serving := true })] }
    srv := { s.srv with pools := [(255, ⟨1, 16, 3, 4096, 0x200000, 8, [8, 8, 0, 0], 0, 0x300000, [(0x1000000, 8, 1)]⟩)]
                        frames := [(frameKey 255 0, ⟨0x1000000, 1, 1, 1, 4, false, 0⟩)] }
    mem := { s.mem with
      poison := [0x50000 / 64]
      dev := [(0x40004, 4)] ++ (List.range 256).map (fun i => (0x50000 + i, 255)) ++ [(0x60004, 1), (0x6000C, 1), (0x60012, 4)] } }

/-- The command may start in a serving context, and its descriptor and its sequence table pass. -/
theorem globalsPoisoned_starts : let r := globalAttn; let u := begun globalsPoisoned 3 1
    Starts globalsPoisoned 3 1 0x0210 r ∧ sliceOfRec u r = some 2 ∧ servingCtx u 2 = some 5 ∧
    ¬(r.params.length = 128 ∧ r.par 0 4 = 0x4E545441 ∧ r.par 4 2 ≠ 1) ∧ attnDescOk u r = true ∧ poolActive u (r.par 10 1) = true ∧
    badRange u (r.par 48 8) (32 * r.par 40 2) = false := by
  refine ⟨⟨rfl, rfl, ?_⟩, ?_⟩ <;> decide +kernel

/-- What memory holds of its list, its table and its segments passes too. -/
theorem globalsPoisoned_entries : let r := globalAttn; let u := begun globalsPoisoned 3 1
    globalsOk (attnGlobals u r) = true ∧
    (∀ e ∈ attnTable u r, seqEntryOk u e (attnPage u r) = true ∧ pagesNamed u e (r.par 10 1) (attnPage u r) = true) ∧
    (∀ x ∈ attnSeqs u r, segsOk x.segs = true) := by decide +kernel

/-- But the list reads uncorrected, and the command is refused. -/
theorem globalsPoisoned_refused : ∃ t, execAttn 3 1 globalsPoisoned = .next t ∧ findAttn t 3 1 = none := by
  obtain ⟨hstarts, hslice, hctx, hver, hdesc, hpool, htab⟩ := globalsPoisoned_starts
  refine ⟨_, execAttn_queued _ 3 1 2 5 _ (by decide) hstarts hslice hctx, ?_⟩
  rw [attnStart_globalsBad _ _ 5 hver hdesc hpool htab (by decide +kernel) (by decide +kernel)]
  decide +kernel

/-- Were it started, its chain would wait for its block. -/
theorem globalsPoisoned_chainWaits : let v := attnPinned (begun globalsPoisoned 3 1) globalAttn 5
    ∃ b, findAttn v 3 1 = some b ∧ (findAttn (attnPlaced v 3 1 b) 3 1).isSome = true :=
  (Option.any_eq_true _ _).mp (by decide +kernel)

/-- Refutes O27: a global offset list that reads uncorrected ends its ATTN with DEVICE_FAULT (`attnStart_globalsBad`, log 107), and the statement
does not exclude it. With a list that can be read the ATTN starts (`attnStart_places`); the other three clauses hold (`execAttn_ofStep`,
`execAttnBlockEnqueue_joins`, `execAttnMerge_folds`). -/
theorem not_attentionCommands : ¬ Obligations.AttentionCommands := by
  unfold Obligations.AttentionCommands
  intro h
  obtain ⟨hstarts, hslice, hctx, hver, hdesc, hpool, htab⟩ := globalsPoisoned_starts
  obtain ⟨hglob, htable, hseqs⟩ := globalsPoisoned_entries
  obtain ⟨t, hdoes, hnone⟩ := globalsPoisoned_refused
  obtain ⟨b, hb, hruns⟩ := globalsPoisoned_chainWaits
  obtain ⟨starts, -⟩ := h globalsPoisoned 3 1 2 5 0 0 0 0 0 globalAttn b b ⟨0, 0, 0, 0, 0, [], false, [], 0, [], [], [], []⟩ ⟨0, 0, [], false, false, 0, 0⟩
  have hsays : execAttn 3 1 globalsPoisoned = .next (attnPlaced (attnPinned (begun globalsPoisoned 3 1) globalAttn 5) 3 1 b) :=
    starts (by decide) hstarts hslice hctx hver hdesc hpool htab hglob htable hseqs hb
  rw [← Host.Outcome.next.inj (hdoes.symm.trans hsays), hnone] at hruns
  cases hruns

end Sys2Proof.Machine
end

section
/-!
PROOFS OF 10_serving_engine.md. The seam-bound commands of serving and the fabric (R213, R215, 11 R233, R252, 14 R310, R317, R328, R331,
R332), the events of the serving engine (R211 to R218, R223), and its commands (R207, R211, R224, R225, R231, R232, R245).
-/
namespace Sys2Proof.Machine

/-! ### Seam-bound commands of serving and the fabric at their seam -/

section
variable (r : JRec) (v : State)

/-- PORT_FENCE with state 1 fences every port of its mask, whatever state the port is in (14 R332). -/
theorem portFenceApply_fences (hfence : r.par 1 1 = 1) :
    portFenceApply r v = ((List.range 8).filter fun p => bitOf (r.par 0 1) p).foldl (fun x p => portLeaves x p 3) v := by
  simp only [portFenceApply, if_pos hfence]

/-- BUDGET_SET sets RATE and CAP of its bucket, and LEVEL only where its flag asks for it (R215). -/
theorem budgetSetApply_bucket : ∃ b : Bucket, (budgetSetApply r v).srv.buckets = NMap.insert v.srv.buckets (r.par 0 2) b ∧
    b.rate = r.par 3 4 ∧ b.cap = r.par 7 4 ∧ (r.par 2 1 = 1 → b.level = (BitVec.ofNat 64 (r.par 11 8)).toInt) ∧
    (r.par 2 1 ≠ 1 → b.level = (NMap.getD v.srv.buckets (r.par 0 2) {}).level) :=
  ⟨_, rfl, rfl, rfl, fun hwrite => if_pos hwrite, fun hkeep => if_neg hkeep⟩

/-- ROLE_SET sets the role of its slice, its landing area and its notice ring (11 R233, R234). -/
theorem roleSetApply_role : ∃ ro : Role, (roleSetApply r v).mov.roles = NMap.insert v.mov.roles (r.par 0 1) ro ∧ ro.role = r.par 1 1 ∧
    ro.landStride = r.par 4 4 ∧ ro.landBase = r.par 8 8 ∧ ro.ringPtr = r.par 16 8 :=
  ⟨_, rfl, rfl, rfl, rfl, rfl⟩

end

/-- Settles O41: each command waits for its seam by `withSeamCmd_ok`, and its effect there is its branch of `seamApply`. -/
theorem seamBoundServingAndFabric : Obligations.SeamBoundServingAndFabric := by
  unfold Obligations.SeamBoundServingAndFabric
  intro s v q seq r u
  refine ⟨next_withSeamCmd s q seq _ r _, next_withSeamCmd s q seq _ r _, next_withSeamCmd s q seq _ r _, next_withSeamCmd s q seq _ r _,
    next_withSeamCmd s q seq _ r _, next_withSeamCmd s q seq _ r _, next_withSeamCmd s q seq _ r _, next_withSeamCmd s q seq _ r _,
    next_withSeamCmd s q seq _ r _, ⟨rfl, rfl⟩, applySeam_one v r, fun hop => ?serveCfg, fun hop => ?budget, fun hop => ?role,
    fun hop => ?flash, fun hop => ?region, fun hop => ?path, fun hop => ?partition, fun hop hfence => ?fence, fun hop => ?jobTag⟩
  case serveCfg => simp only [seamApply, hop, serveCfgApply]
  case budget =>
    have heff : seamApply r v = budgetSetApply r v := by simp only [seamApply, hop]
    exact heff ▸ budgetSetApply_bucket r v
  case role =>
    have heff : seamApply r v = roleSetApply r v := by simp only [seamApply, hop]
    exact heff ▸ roleSetApply_role r v
  case flash => simp only [seamApply, hop, flashCfgApply]
  case region => simp only [seamApply, hop, regionSetApply]
  case path => simp only [seamApply, hop, pathSetApply]
  case partition => simp only [seamApply, hop, partitionSetApply]
  case fence =>
    have heff : seamApply r v = portFenceApply r v := by simp only [seamApply, hop]
    rw [heff, portFenceApply_fences r v hfence]
  case jobTag => simp only [seamApply, hop, jobtagSetApply]

/-! ### Events of the serving engine (R212, R213, R217, R218, R223) -/

/-- Whether a page is back does not depend on the request table, nor on the request's mark that its return has begun. -/
@[simp] theorem pageAway_coming (s : State) (i : Nat) (x y : Req) (b : Bool) (e : Nat × Nat × Nat) :
    pageAway (setReq s i y) { x with coming := b } e = pageAway s x e := rfl

section
variable (s : State) (slice pool : Nat)

/-- STEP_COMPOSE of a pair that runs no step, on a device that takes work: rows in pick order, segments and tables (R213, R214; log 99). -/
theorem execStepCompose_open (cfg : StepCfg) (drafts : List (Nat × List Token)) (descs : List (List Byte))
    (hcfg : NMap.find? s.srv.cfgs (256 * slice + pool) = some cfg) (hidle : NMap.find? s.srv.steps (256 * slice + pool) = none)
    (hactive : servingActive s slice = true) (hrole : (roleOf s slice).role ≠ 2) (hquiet : s.fw.quiesced = false) (hras : s.ras.state = 0) :
    let c := ((candidates (wakeAll s) slice pool).map (·.1)).foldl (pickOne cfg drafts) ⟨wakeAll s, [], 0, 0, [], false⟩
    let v := descs.foldl (placeTable c.rows) c.st
    execStepCompose slice pool ⟨drafts, descs⟩ s = .next (if c.rows = [] then c.st
      else { v with srv := { v.srv with steps := NMap.insert v.srv.steps (256 * slice + pool) ⟨c.rows, segmentsOf v c.rows, descs, [], []⟩ } }) := by
  intro c v
  have hopen : ¬((NMap.find? s.srv.steps (256 * slice + pool)).isSome ∨ !servingActive s slice ∨ (roleOf s slice).role = 2 ∨ s.fw.quiesced ∨
      s.ras.state ≠ 0) := by
    simp [hidle, hactive, hrole, hquiet, hras]
  simp only [execStepCompose, hcfg, if_neg hopen, List.isEmpty_iff]
  exact (apply_ite Host.Outcome.next _ _ _).symm

/-- STEP_COMMIT of a step whose ATTNs have all ended: its rows, then what waited in the order of arrival, then the swaps (R212). -/
theorem execStepCommit_ended (step : StepRun) (rows : List RowResult) (hstep : NMap.find? s.srv.steps (256 * slice + pool) = some step)
    (hended : step.descs.length ≤ step.ended.length) :
    let u := (List.range step.rows.length).foldl (commitRow step rows) s
    let w := step.waits.foldl (applyWait admitNow) { u with srv := { u.srv with steps := NMap.erase u.srv.steps (256 * slice + pool) } }
    execStepCommit slice pool rows s =
      .next ((w.srv.reqs.filter fun e => e.2.slice == slice && e.2.pool == pool && e.2.swapAsk && [1, 2, 4, 5].contains e.2.state).foldl
        (fun y e => swapOut y e.1) w) := by
  simp only [execStepCommit, hstep, if_neg (Nat.not_lt.mpr hended)]

/-- RECLAIM for a waiter in PAGE_WAIT of an active pool takes one step for it (R217). -/
theorem execReclaim_waiter (waiter : Nat) (hreq : waiter < 16384) (hwaits : (reqAt s waiter).state = 5) (hpool : (reqAt s waiter).pool = pool)
    (hactive : poolActive s pool = true) : execReclaim pool waiter s = .next (reclaimStep s pool waiter (reqAt s waiter).prio).1 := by
  simp only [execReclaim, if_neg (Nat.not_le.mpr hreq)]
  exact if_pos ⟨hwaits, hpool, hactive⟩

/-- While the free local frames do not exceed LOW_WATER, no return of a swapped request begins (R217). -/
theorem execSwapReturn_lowWater (p : Pool) (e : Nat × Req) (hp : poolAt s pool = some p)
    (hfirst : (orderBy pickBefore (s.srv.reqs.filter fun e => e.2.pool == pool && e.2.state == 6)).head? = some e)
    (hlow : freeLocal s pool ≤ p.lowWater) (hnew : e.2.coming = false) : execSwapReturn pool s = .next s := by
  have hstays : ¬(p.lowWater < freeLocal s pool ∨ e.2.coming) := by simp [hnew, hlow]
  simp only [execSwapReturn, hp, hfirst, if_neg hstays]

/-- A swapped request whose pages are all at hand moves none, and leaves SWAPPED (R211, R217). -/
theorem execSwapReturn_atHand (p : Pool) (i : Nat) (x : Req) (hp : poolAt s pool = some p)
    (hfirst : (orderBy pickBefore (s.srv.reqs.filter fun e => e.2.pool == pool && e.2.state == 6)).head? = some (i, x))
    (hhand : ∀ e ∈ List.zip (List.range x.pages.length) x.pages, pageAway s x e = false) (hgoes : p.lowWater < freeLocal s pool ∨ x.coming = true) :
    execSwapReturn pool s = .next (leaveSwap (setReq s i { x with coming := true }) i) := by
  have hstill : (List.zip (List.range x.pages.length) x.pages).foldl (fun y e => if pageAway y (reqAt y i) e then returnPage y pool e else y)
      (setReq s i { x with coming := true }) = setReq s i { x with coming := true } := by
    refine List.foldlRecOn (motive := (· = setReq s i { x with coming := true })) _ _ rfl ?_
    rintro y rfl e he
    rw [setReq_same, pageAway_coming, hhand e he]
    rfl
  have hnone : ¬(List.zip (List.range x.pages.length) x.pages).any (pageAway (setReq s i { x with coming := true }) { x with coming := true }) := by
    simpa only [List.any_eq_true, pageAway_coming, not_exists, not_and, Bool.not_eq_true] using hhand
  simp only [execSwapReturn, hp, hfirst, if_pos hgoes, hstill, setReq_same, if_neg hnone]

/-- DEADLINE_RULE at a seam, where a waiter is near its deadline and nothing can be reclaimed for it: the victim is aborted, at the commit
boundary if its row runs; a victim whose abort waits already is left (R218). -/
theorem execDeadlineRule_stuck (i : Nat) (x : Req) :
    let near := s.srv.reqs.filter fun e => e.2.pool == pool && (e.2.state == 5 || e.2.state == 6) &&
      e.2.deadline != 2 ^ 64 - 1 && decide (e.2.deadline ≤ s.tkp.now + guardOf s e.2)
    s.tkp.beat = 0 → NMap.getD s.srv.ddl pool 0 ≠ s.tkp.now + 1 →
    near.any (fun w => ((victims s fun r => r.pool == pool && decide (r.prio < w.2.prio)).filter fun e =>
      e.1 != w.1 && !(privatePages s e.2).isEmpty).isEmpty) = true →
    (orderBy victimBefore (s.srv.reqs.filter fun e => e.2.pool == pool && e.2.own)).head? = some (i, x) →
    let u : State := { s with srv := { s.srv with aborts := satAdd 32 s.srv.aborts 1, ddl := NMap.insert s.srv.ddl pool (s.tkp.now + 1) } }
    execDeadlineRule pool s = .next (if x.abortAsk.isSome = true then s
      else if inStep u i = true then addWait (askAbort u i 6) x.slice x.pool (.deadline i x.entryGen) else endReq u i 8 6) := by
  intro near hseam hnew hstuck hvictim u
  rw [execDeadlineRule]
  refine (if_pos ⟨hseam, hstuck, hnew⟩).trans ?_
  rw [hvictim]

/-- ADAPTER_CURRENT at the first seam after the copy: the version becomes CURRENT with what was copied, its predecessor SUPERSEDED (R223, R224;
log 98). -/
theorem execAdapterCurrent_copied (slot : Nat) (a : Adapter) (ha : NMap.find? s.srv.adapters slot = some a) (hloading : a.state = 1)
    (hseam : s.tkp.beat = 0) (hsince : a.since < s.tkp.now) (hread : badRange s a.weights a.bytes = false) :
    let old := s.srv.adapters.map fun (e : Nat × Adapter) =>
      (e.1, if e.2.handle = a.handle ∧ e.2.state = 2 then { e.2 with state := 3, since := s.tkp.now } else e.2)
    execAdapterCurrent slot s = .next (finish { s with srv := { s.srv with
      adapters := NMap.insert old slot { a with state := 2, since := s.tkp.now, copy := devRead s a.weights a.bytes } } } a.cmdQ a.cmdSeq stOk 0) := by
  simp only [execAdapterCurrent, ha, if_pos (And.intro hloading (And.intro hseam hsince)), if_neg (ne_true_of_eq_false hread)]

end

/-- Settles O25: each event is its meaning with its conditions met. -/
theorem servingEvents : Obligations.ServingEvents := by
  unfold Obligations.ServingEvents
  intro s slice pool waiter slot i cfg drafts descs step rows x p a
  exact ⟨execStepCompose_open s slice pool cfg drafts descs, execStepCommit_ended s slice pool step rows, execReclaim_waiter s pool waiter,
    fun hp hfirst hhand => ⟨execSwapReturn_atHand s pool p i x hp hfirst hhand, execSwapReturn_lowWater s pool p (i, x) hp hfirst⟩,
    execDeadlineRule_stuck s pool i x, execAdapterCurrent_copied s slot a⟩

/-! ### Admission, abort and query of requests (R207, R211, R212, R232, R245) -/

section
variable (s : State) (q seq slice : Nat) (r : JRec)

/-- While a step of its pair runs, REQ_ADMIT waits for the commit boundary (R212). -/
theorem execReqAdmit_waits (h : Starts s q seq 0x0200 r) (hslice : sliceOfRec (begun s q seq) r = some slice)
    (hstep : (stepOf (begun s q seq) slice (r.par 49 1)).isSome = true) :
    execReqAdmit q seq s = .next (addWait (begun s q seq) slice (r.par 49 1) (.enter q seq)) := by
  rw [execReqAdmit, withCmd_starts s q seq _ r _ h]
  simp only [hslice, if_pos hstep]

/-- A request that passes every check of REQ_ADMIT takes the lowest FREE entry, with its shared pages referenced (R207, R232, R245). -/
theorem admitNow_takes (u v : State) (ctx i : Nat) (hslice : sliceOfRec u r = some slice) (hctx : servingCtx u slice = some ctx) :
    let x := reqOfParams r
    (roleOf u slice).role ≠ 2 → admitOk u slice r x = true → inBuckets (quotaOf u slice).buckets x.bucket = true →
    badRange u x.pageList (8 * x.pageCap) = false → badRange u x.tokenLog (4 * x.promptLen) = false → sharedOk u slice x (sharedRun u x) = true →
    (liveOf u slice).length < (quotaOf u slice).entries → freeEntry u = some i → shareRun x.pool (sharedRun u x) u = (v, stOk) →
    admitNow u r = admitReq v r.q r.seq slice i r x (sharedRun u x) := by
  intro x hrole hfields hbucket hlist hlog hshared hquota hfree hrun
  have hvalid : ¬((roleOf u slice).role = 2 ∨ !admitOk u slice r x) := by simp [hrole, hfields]
  have hallowed : ¬(!inBuckets (quotaOf u slice).buckets x.bucket) := by simp [hbucket]
  have hprefix : ¬(!sharedOk u slice x (sharedRun u x)) := by simp [hshared]
  simp only [admitNow, hslice, hctx, Option.bind_some, Option.map_some, if_neg hvalid, if_neg hallowed, if_neg (ne_true_of_eq_false hlist),
    if_neg (ne_true_of_eq_false hlog), if_neg hprefix, if_neg (Nat.not_le.mpr hquota), hfree, hrun, ne_eq, not_true_eq_false, if_false, x]

/-- REQ_ADMIT of a pair that runs no step is applied at once (R212). -/
theorem execReqAdmit_atOnce (h : Starts s q seq 0x0200 r) (hslice : sliceOfRec (begun s q seq) r = some slice)
    (hidle : stepOf (begun s q seq) slice (r.par 49 1) = none) : execReqAdmit q seq s = .next (admitNow (begun s q seq) r) := by
  rw [execReqAdmit, withCmd_starts s q seq _ r _ h]
  simp [hslice, hidle]

end

section
variable (u : State) (r : JRec) (hl : r.params.length = 4) (hid : r.par 0 2 ≤ 16383) (hgen : (reqAt u (r.par 0 2)).entryGen = r.par 2 2)
  (hused : (reqAt u (r.par 0 2)).state ≠ 0) (hown : r.pasid ≠ none → sliceOfRec u r = some (reqAt u (r.par 0 2)).slice)
include hl hid hgen hused hown

/-- A command that names a request of its slice by its current handle goes on with it (R207). -/
theorem withReq_current (f : Nat → Req → State) : withReq u r f = f (r.par 0 2) (reqAt u (r.par 0 2)) := by
  have hhandle : ¬(r.params.length ≠ 4 ∨ 16383 < r.par 0 2) := by omega
  have hslice : ¬(r.pasid.isSome ∧ sliceOfRec u r ≠ some (reqAt u (r.par 0 2)).slice) :=
    fun ⟨hsome, hother⟩ => hother (hown (Option.isSome_iff_ne_none.mp hsome))
  simp only [withReq, if_neg hhandle, if_neg (not_not.mpr hgen), if_neg hused, if_neg hslice]

/-- A request that has not ended and that no move holds ends ABORTED (R211). -/
theorem abortNow_aborts (hlive : (reqAt u (r.par 0 2)).state ∉ [3, 7, 8, 9]) :
    abortNow u r = finish (endReq u (r.par 0 2) 8 5) r.q r.seq stOk 8 := by
  simp only [List.mem_cons, List.not_mem_nil, or_false, not_or] at hlive
  obtain ⟨h3, h7, h8, h9⟩ := hlive
  rw [abortNow, withReq_current u r hl hid hgen hused hown, if_neg (not_or.mpr ⟨h7, h8⟩), if_neg (not_or.mpr ⟨h3, h9⟩)]

end

section
variable (s : State) (q seq : Nat) (r : JRec) (hl : r.params.length = 4) (hid : r.par 0 2 ≤ 16383)
  (hgen : (reqAt (begun s q seq) (r.par 0 2)).entryGen = r.par 2 2) (hused : (reqAt (begun s q seq) (r.par 0 2)).state ≠ 0)
  (hown : r.pasid ≠ none → sliceOfRec (begun s q seq) r = some (reqAt (begun s q seq) (r.par 0 2)).slice)
include hl hid hgen hused hown

/-- REQ_ABORT of a request whose pair runs no step ends it at once (R211, R212). -/
theorem execReqAbort_atOnce (h : Starts s q seq 0x0201 r) : let u := begun s q seq
    stepOf u (reqAt u (r.par 0 2)).slice (reqAt u (r.par 0 2)).pool = none → (reqAt u (r.par 0 2)).state ∉ [3, 7, 8, 9] →
    execReqAbort q seq s = .next (finish (endReq u (r.par 0 2) 8 5) q seq stOk 8) := by
  intro u hidle hlive
  obtain ⟨hq, hseq⟩ := starts_key s q seq _ r h
  have hnow := abortNow_aborts u r hl hid hgen hused hown hlive
  rw [hq, hseq] at hnow
  rw [execReqAbort, withCmd_starts s q seq _ r _ h, withReq_current _ r hl hid hgen hused hown, ← hnow]
  simp [u, hidle]

/-- While a step of the request's pair runs, REQ_ABORT waits for the commit boundary (R212). -/
theorem execReqAbort_waits (h : Starts s q seq 0x0201 r) : let u := begun s q seq
    (stepOf u (reqAt u (r.par 0 2)).slice (reqAt u (r.par 0 2)).pool).isSome = true →
    execReqAbort q seq s = .next (addWait (askAbort u (r.par 0 2) 5) (reqAt u (r.par 0 2)).slice (reqAt u (r.par 0 2)).pool (.abort q seq)) := by
  intro u hstep
  rw [execReqAbort, withCmd_starts s q seq _ r _ h, withReq_current _ r hl hid hgen hused hown, if_pos hstep]

/-- REQ_QUERY answers the entry of its request (R207). -/
theorem execReqQuery_entry (h : Starts s q seq 0x0202 r) : let u := begun s q seq
    execReqQuery q seq s = .next (finishWith u q seq stOk 0 (reqBytes (reqAt u (r.par 0 2)))) := by
  rw [execReqQuery, withCmd_starts s q seq _ r _ h, withReq_current _ r hl hid hgen hused hown]

end

/-! ### Adapters and grammars (R223 to R225, R229, R231) -/

section
variable (s : State) (q seq : Nat) (r : JRec)

/-- ADAPTER_LOAD takes the lowest EMPTY slot as LOADING, with the version after the highest of its handle (R223, R224; log 27). -/
theorem execAdapterLoad_loads (i : Nat) (h : Starts s q seq 0x0208 r) (hl : r.params.length = 24) (hhandle : r.par 0 2 ≠ 0xFFFF)
    (hzero : r.zeros 3 1 = true) (hlo : 1 ≤ r.par 4 2) (hhi : r.par 4 2 ≤ 1024) (hzero' : r.zeros 6 2 = true) :
    let u := begun s q seq
    (poolAt u (r.par 2 1)).isSome = true → usableRange u (r.par 8 8) (r.par 16 8) = true →
    let top := (u.srv.adapters.filter fun (e : Nat × Adapter) => e.2.handle == r.par 0 2).foldl (fun m e => max m e.2.version) 0
    top + 1 ≤ 65535 → freeAdapter u = some i → execAdapterLoad q seq s = .next { u with srv := { u.srv with
      adapters := NMap.insert u.srv.adapters i { handle := r.par 0 2, version := top + 1, state := 1, pool := r.par 2 1, rank := r.par 4 2, refs := 0
                                                 weights := r.par 8 8, bytes := r.par 16 8, since := u.tkp.now, cmdQ := q, cmdSeq := seq, copy := [] } } } := by
  intro u hpool hfits top htop hfree
  have hvalid : ¬(r.params.length ≠ 24 ∨ r.par 0 2 = 0xFFFF ∨ !r.zeros 3 1 ∨ r.par 4 2 = 0 ∨ 1024 < r.par 4 2 ∨ !r.zeros 6 2 ∨
      (poolAt u (r.par 2 1)).isNone ∨ !usableRange u (r.par 8 8) (r.par 16 8) ∨ 65535 < top + 1) := by
    rintro (h | h | h | h | h | h | h | h | h)
    · exact h hl
    · exact hhandle h
    · simp [hzero] at h
    · omega
    · omega
    · simp [hzero'] at h
    · rw [Option.isNone_iff_eq_none] at h; simp [h] at hpool
    · simp [hfits] at h
    · omega
  rw [execAdapterLoad, withCmd_starts s q seq _ r _ h]
  refine congrArg Host.Outcome.next ((if_neg hvalid).trans ?_)
  rw [hfree]

/-- ADAPTER_WITHDRAW withdraws the CURRENT version of its handle (R224). -/
theorem execAdapterWithdraw_current (h : Starts s q seq 0x0209 r) (hl : r.params.length = 2)
    (hcur : ∃ e ∈ (begun s q seq).srv.adapters, e.2.handle = r.par 0 2 ∧ e.2.state = 2) : let u := begun s q seq
    execAdapterWithdraw q seq s = .next (finish { u with srv := { u.srv with adapters := u.srv.adapters.map fun (e : Nat × Adapter) =>
      (e.1, if e.2.handle = r.par 0 2 ∧ e.2.state = 2 then { e.2 with state := 4, since := u.tkp.now } else e.2) } } q seq stOk 0) := by
  have hany : ((begun s q seq).srv.adapters.any fun (e : Nat × Adapter) => e.2.handle == r.par 0 2 && e.2.state == 2) = true := by
    simpa only [List.any_eq_true, Bool.and_eq_true, beq_iff_eq] using hcur
  rw [execAdapterWithdraw, withCmd_starts s q seq _ r _ h]
  refine congrArg Host.Outcome.next (if_neg ?_)
  simp only [hl, hany, ne_eq, not_true_eq_false, Bool.not_true, Bool.false_eq_true, or_self, not_false_eq_true]

/-- GRAMMAR_LOAD whose header and tables pass takes its id, which is free (R229, R231; log 27). -/
theorem execGrammarLoad_loads (h : Starts s q seq 0x020C r) (hl : r.params.length = 65) (hone : r.par 1 1 = 1) (hz2 : r.zeros 2 3 = true)
    (hz21 : r.zeros 21 4 = true) (hz49 : r.zeros 49 16 = true) : let u := begun s q seq
    let g := grammarOfParams r
    1 ≤ g.vocab → g.vocab ≤ 262144 → 1 ≤ g.states → g.states ≤ 65536 → g.start < g.states →
    (∀ a ∈ gRanges g, usableRange u a.1 a.2 = true ∧ badRange u a.1 a.2 = false) →
    (∀ n < g.states, gStateOk u g n = true) → (∀ n < g.trans, gTransOk u g n = true) → NMap.find? u.srv.grammars (r.par 0 1) = none →
    execGrammarLoad q seq s =
      .next (finish { u with srv := { u.srv with grammars := NMap.insert u.srv.grammars (r.par 0 1) g } } q seq stOk 0) := by
  intro u g hvlo hvhi hslo hshi hstart hranges hstates htrans hfree
  have husable : ((gRanges g).all fun a => usableRange u a.1 a.2) = true := List.all_eq_true.mpr fun a ha => (hranges a ha).1
  have hheader : ¬(r.params.length ≠ 65 ∨ r.par 1 1 ≠ 1 ∨ !r.zeros 2 3 ∨ !r.zeros 21 4 ∨ !r.zeros 49 16 ∨ g.vocab = 0 ∨ 262144 < g.vocab ∨
      g.states = 0 ∨ 65536 < g.states ∨ g.states ≤ g.start ∨ !(gRanges g).all fun a => usableRange u a.1 a.2) := by
    rw [hz2, hz21, hz49, husable]
    simp only [Bool.not_true, Bool.false_eq_true, false_or, or_false]
    omega
  have hread : ¬(gRanges g).any fun a => badRange u a.1 a.2 := by
    simpa only [List.any_eq_true, not_exists, not_and, Bool.not_eq_true] using fun a ha => (hranges a ha).2
  have htables : ¬(!(List.range g.states).all (gStateOk u g) ∨ !(List.range g.trans).all (gTransOk u g)) := by
    have hs : (List.range g.states).all (gStateOk u g) = true := List.all_eq_true.mpr fun n hn => hstates n (List.mem_range.mp hn)
    have ht : (List.range g.trans).all (gTransOk u g) = true := List.all_eq_true.mpr fun n hn => htrans n (List.mem_range.mp hn)
    simp only [hs, ht, Bool.not_true, Bool.false_eq_true, or_self, not_false_eq_true]
  have hnew : ¬(NMap.find? u.srv.grammars (r.par 0 1)).isSome := by simp [hfree]
  rw [execGrammarLoad, withCmd_starts s q seq _ r _ h]
  exact congrArg Host.Outcome.next ((if_neg hheader).trans ((if_neg hread).trans ((if_neg htables).trans (if_neg hnew))))

/-- GRAMMAR_UNLOAD of a grammar without references empties its id (R231). -/
theorem execGrammarUnload_unused (g : Grammar) (h : Starts s q seq 0x020D r) (hl : r.params.length = 1)
    (hg : NMap.find? (begun s q seq).srv.grammars (r.par 0 1) = some g) (hrefs : g.refs = 0) : let u := begun s q seq
    execGrammarUnload q seq s =
      .next (finish { u with srv := { u.srv with grammars := NMap.erase u.srv.grammars (r.par 0 1) } } q seq stOk 0) := by
  rw [execGrammarUnload, withCmd_starts s q seq _ r _ h]
  simp [hl, hg, hrefs]

end

/-- Settles O26: each command starts (`withCmd_starts`), and passes each of its checks in turn. -/
theorem servingCommands : Obligations.ServingCommands := by
  unfold Obligations.ServingCommands
  intro s q seq slice ctx i r v u
  refine ⟨execReqAdmit_waits s q seq slice r, ?takes, fun hl hid hgen hused hown => ⟨execReqAbort_atOnce s q seq r hl hid hgen hused hown,
    execReqAbort_waits s q seq r hl hid hgen hused hown, execReqQuery_entry s q seq r hl hid hgen hused hown⟩, execAdapterLoad_loads s q seq r i,
    execAdapterWithdraw_current s q seq r, execGrammarLoad_loads s q seq r, fun g => execGrammarUnload_unused s q seq r g⟩
  case takes =>
    intro h hslice hctx hidle x hrole hfields hbucket hlist hlog hshared hquota hfree hrun
    obtain ⟨hq, hseq⟩ := starts_key s q seq _ r h
    have hnow := admitNow_takes slice r u v ctx i hslice hctx hrole hfields hbucket hlist hlog hshared hquota hfree hrun
    rw [hq, hseq] at hnow
    rw [exec_reqAdmit, execReqAdmit_atOnce s q seq slice r h hslice hidle, hnow]

end Sys2Proof.Machine
end

section
/-!
PROOFS OF 11_serving_roles_and_flash_tier.md. The flash tier (R248 to R253), the moves of requests (R236 to R242) and the reuse of PREFIX runs between
devices (R243 to R246).
-/
namespace Sys2Proof.Machine

/-! ### The flash tier (R248, R250, R252, R253) -/

section
variable (s : State)

section
variable (pool frame : Nat) (f : Frame) (hf : frameAt s pool frame = some f)
include hf

/-- A MOVING local page is written at the write point, or is lost. -/
theorem execFlashDemote_moving (hstate : f.state = 2) (htier : f.tier ≤ 1) (hlive : f.retired = false) :
    let d := demotePage s pool frame
    execFlashDemote pool frame none s = .next (if d.2 = true then d.1 else losePage d.1 pool frame) := by
  have hgoes : f.state = 2 ∧ f.tier ≤ 1 ∧ (!f.retired) = true := ⟨hstate, htier, by simp [hlive]⟩
  rw [execFlashDemote, hf]
  exact if_pos hgoes

/-- So is one after a page has failed to program, which fails its block (R251). -/
theorem execFlashDemote_programFails (m : Nat) (hstate : f.state = 2) (htier : f.tier ≤ 1) (hlive : f.retired = false) :
    let d := demotePage (programFails s pool m) pool frame
    execFlashDemote pool frame (some m) s = .next (if d.2 = true then d.1 else losePage d.1 pool frame) := by
  have hgoes : f.state = 2 ∧ f.tier ≤ 1 ∧ (!f.retired) = true := ⟨hstate, htier, by simp [hlive]⟩
  rw [execFlashDemote, hf]
  exact if_pos hgoes

/-- A GRANTED flash page comes back to a local frame, or is a miss where the read fails or the frame is absent. -/
theorem execFlashPromote_granted (failed : Bool) (hstate : f.state = 1) (htier : f.tier = 3) (hlive : f.retired = false) :
    execFlashPromote pool frame failed s = .next (if failed = true ∨ flashAbsent s f = true then flashMiss (flashRead s pool frame) pool frame
      else (promotePage (flashRead s pool frame) pool frame 0).1) := by
  have hgoes : f.state = 1 ∧ f.tier = 3 ∧ (!f.retired) = true := ⟨hstate, htier, by simp [hlive]⟩
  simp only [execFlashPromote, hf, if_pos hgoes, apply_ite Host.Outcome.next]

end

/-- A closed superblock without live frames: its absent frames are missed first, and while one is left the erase waits; then the block is
erased, and a member that fails to erase gives way to a spare. -/
theorem execSuperblockErase_empty (sb : Nat) (b : SuperBlk) (hb : NMap.find? s.fla.sbs sb = some b) (hclosed : b.state = 2)
    (hempty : liveIn s sb = []) :
    let v := ((flashFrames s).filter fun e => sbOf e.2 == sb).foldl (fun y e => flashMiss y (e.1 / 2 ^ 24) (e.1 % 2 ^ 24)) s
    (((flashFrames v).any fun e => sbOf e.2 == sb) = true → ∀ fail, execSuperblockErase sb fail s = .next v) ∧
    (((flashFrames v).any fun e => sbOf e.2 == sb) = false → execSuperblockErase sb none s = .next (eraseSb v sb b) ∧
      ∀ m, spareFor { v with fla := { v.fla with bad := addSet v.fla.bad (blockKey m (b.members.getD m 0)) } } m (b.members.getD m 0) ≠ none →
        execSuperblockErase sb (some m) s = .next (blockFails (eraseSb v sb b) sb m)) := by
  intro v
  have hgoes : b.state = 2 ∧ (liveIn s sb).isEmpty = true := ⟨hclosed, by simp [hempty]⟩
  refine ⟨fun hleft fail => ?_, fun hnone => ⟨?_, fun m hspare => ?_⟩⟩
  · simp only [execSuperblockErase, hb, if_pos hgoes]
    exact if_pos hleft
  · simp only [execSuperblockErase, hb, if_pos hgoes]
    exact if_neg (ne_true_of_eq_false hnone)
  · simp only [execSuperblockErase, hb, if_pos hgoes]
    exact (if_neg (ne_true_of_eq_false hnone)).trans (congrArg Host.Outcome.next (if_neg fun h => hspare (Option.isNone_iff_eq_none.mp h)))

section
variable (hon : s.fla.state ≠ 3)
include hon

/-- Frames that are MOVING move to the write point (log 106). -/
theorem execSuperblockRelocate_moving (hmoving : relocating s ≠ []) :
    execSuperblockRelocate s = .next ((relocating s).foldl (fun y e => rewriteFrame y e.1) s) :=
  (if_neg hon).trans (if_pos (by simp [hmoving]))

/-- With none MOVING and fewer than 4 free superblocks, the live frames of the closed superblock with the fewest become MOVING. -/
theorem execSuperblockRelocate_fewest (hidle : relocating s = []) (hfew : (s.fla.sbs.filter fun (b : Nat × SuperBlk) => b.2.state == 0).length < 4)
    (sb n : Nat) (hfewest : (s.fla.sbs.filter fun (b : Nat × SuperBlk) => b.2.state == 2).foldl (fun (m : Option (Nat × Nat)) b =>
      let k := (liveIn s b.1).length
      match m with | none => some (b.1, k) | some x => if k < x.2 then some (b.1, k) else some x) none = some (sb, n)) :
    execSuperblockRelocate s = .next ((liveIn s sb).foldl (fun y e => setFrame y (e.1 / 2 ^ 24) (e.1 % 2 ^ 24) { e.2 with state := 2 }) s) := by
  refine (if_neg hon).trans ((if_neg (by simp [hidle])).trans ((if_neg (Nat.not_le.mpr hfew)).trans ?_))
  split
  next c k hsome => cases hsome.symm.trans hfewest; rfl
  next hnone => cases hnone.symm.trans hfewest

end

end

/-- Settles O32: a page, a superblock and the frames that relocate are each found as the event's condition says. -/
theorem flashEvents : Obligations.FlashEvents := by
  unfold Obligations.FlashEvents
  intro s pool frame sb m failed f b
  refine ⟨fun hf hstate htier hlive => ⟨execFlashDemote_moving s pool frame f hf hstate htier hlive,
      execFlashDemote_programFails s pool frame f hf m hstate htier hlive⟩, fun hf => execFlashPromote_granted s pool frame f hf failed,
    fun hb hclosed hempty => ?erase, execSuperblockRelocate_moving s, fun hon hidle hfew n => execSuperblockRelocate_fewest s hon hidle hfew sb n, rfl⟩
  case erase =>
    obtain ⟨hwaits, herases⟩ := execSuperblockErase_empty s sb b hb hclosed hempty
    exact ⟨fun hleft => hwaits hleft none, fun hnone => ⟨(herases hnone).1, (herases hnone).2 m⟩⟩

end Sys2Proof.Machine
end

section
namespace Sys2Proof.Machine

/-! ### Moves at the destination (R236, R238, R239) -/

/-- What has been granted in full is not refused. -/
theorem not_refused_of_granted {g : State × Bool} {a : State} (h : g = (a, true)) : ¬(!g.2) = true := by simp [h]

section
variable (s : State)

/-- MOVE_RESERVE that the destination can hold: pages, grants and an entry are secured, the move is PENDING, and OK is answered (R238; log 25). -/
theorem execMoveReserve_holds (m : MoveReserve) (pool i : Nat) (v : State) (xs : List (Nat × Nat × Bool)) (ga : State) :
    let u := clearMove (takeMsg s m.srcDev 0x0101) m
    let held := (List.range m.keys.length).map fun k => pfxFind u pool (k + 1) (m.keys.getD k []) (some m.dstSlice)
    headIs s m.srcDev 0x0101 = true → u.ras.state = 0 → tagAccepted u m.dstSlice m.jobTag = true → inPartition u m.srcDev = true →
    (roleOf u m.dstSlice).role = 1 ∨ (roleOf u m.dstSlice).role = 3 → poolOf u m.model m.p = some pool → moveBinds u m pool = true →
    (liveOf u m.dstSlice).length < (quotaOf u m.dstSlice).entries → recsFull u m = false → freeEntry u = some i →
    movePages m.dstSlice pool held (List.range ((m.len - 1 + m.p - 1) / m.p)) [] u = (v, some xs) →
    let who := some (m.srcDev, m.srcIdx, m.srcGen % 1024)
    let locs := xs.map fun x => match frameAt v pool x.1 with | some f => f.loc | none => 0
    let slot := landSlot (roleOf u m.dstSlice) i
    addGrants v (((List.zip xs locs).filter fun e => !e.1.2.2 && isHere v e.2).map (fun e => Grant.mk m.srcDev (e.2 % 2 ^ 40) (pageBytesOf u pool) who none u.tkp.now) ++
      [⟨m.srcDev, slot.1, (roleOf u m.dstSlice).landStride, who, none, u.tkp.now⟩]) = (ga, true) →
    let x : Req := { state := 9, slice := m.dstSlice, reqId := m.reqId, pool := pool, adapter := m.adapter, adapterVer := m.adapterVer
                     grammar := m.grammar, pages := xs.map fun x => (x.1, x.2.1), pageCount := xs.length, pageList := slot.1, tokenLog := slot.2
                     entryGen := (reqAt u i).entryGen, admitTick := u.tkp.now }
    execMoveReserve m s = .next (replyReserve (recordMove (setReq (takeRefs ga x m.adapterVer) i x) m i) m
      ⟨stOk, i, x.entryGen, locs, xs.map (·.2.2), 2 ^ 40 * u.fab.device + slot.1, 2 ^ 40 * u.fab.device + slot.2⟩) := by
  intro u held hhead hras htag hpart hrole hpool hbinds hquota hrecs hfree hpages who locs slot hgrants x
  have htaken : ¬(!headIs s m.srcDev 0x0101) = true := by simp [hhead]
  have hallowed : ¬(!tagAccepted u m.dstSlice m.jobTag ∨ !inPartition u m.srcDev) := by simp [htag, hpart]
  have hbound : ¬(!moveBinds u m pool) = true := by simp [hbinds]
  refine (if_neg htaken).trans ((if_neg (not_not.mpr hras)).trans ((if_neg hallowed).trans ?_))
  rw [if_pos hrole, hpool]
  refine (if_neg hbound).trans ((if_neg (Nat.not_le.mpr hquota)).trans ((if_neg (ne_true_of_eq_false hrecs)).trans ?_))
  rw [hfree]
  dsimp only
  rw [hpages]
  dsimp only
  exact (if_neg (not_refused_of_granted hgrants)).trans
    (congrArg (fun g : State × Bool => Host.Outcome.next (replyReserve (recordMove (setReq (takeRefs g.1 x m.adapterVer) i x) m i) m
      ⟨stOk, i, x.entryGen, locs, xs.map (·.2.2), 2 ^ 40 * u.fab.device + slot.1, 2 ^ 40 * u.fab.device + slot.2⟩)) hgrants)

/-- MOVE_COMMIT of a PENDING move that agrees with its reservation commits it. -/
theorem execMoveCommit_pending (src idx gen : Nat) (entry : List Byte) (z : MoveRec) :
    let u := takeMsg s src 0x0103
    headIs s src 0x0103 = true → u.ras.state = 0 → findMove u src idx gen = some z → z.outcome = 0 → entryFits (reqAt u z.dstIdx) entry = true →
    execMoveCommit src idx gen entry s = .next (commitMove u z entry) := by
  intro u hhead hras hfind hpending hfits
  refine (if_neg (by simp [hhead])).trans ?_
  rw [show findMove (takeMsg s src 0x0103) src idx gen = some z from hfind]
  exact (if_neg (by omega)).trans ((if_neg (by omega)).trans (if_pos ⟨hfits, hras⟩))

/-- MOVE_RELEASE drops the record. -/
theorem execMoveRelease_head (src idx gen : Nat) (hhead : headIs s src 0x0105 = true) :
    let u := takeMsg s src 0x0105
    execMoveRelease src idx gen s = .next { u with mov := { u.mov with
      recs := u.mov.recs.filter fun m => !(m.srcDev == src && m.srcIdx == idx && m.srcGen == gen % 1024) } } :=
  if_neg (by simp [hhead])

/-! ### Moves at the source (R236, R237, R240, R242) -/

section
variable (idx : Nat) (y : SrcMove) (hsrc : NMap.find? s.mov.src idx = some y)
include hsrc

/-- MOVE_RESERVED OK starts the copy. -/
theorem execMoveReserved_ok (a : MoveReserved) :
    let u := takeMsg s (y.target % 256) 0x0102
    headIs s (y.target % 256) 0x0102 = true → y.phase = 1 → (reqAt u idx).state = 3 → a.status = stOk →
    a.frames.length = (reqAt u idx).pages.length →
    execMoveReserved idx a s = .next (moveCopied (setSrc u idx { y with phase := 2, dst := a, left := moveRanges u (reqAt u idx) a }) idx) := by
  intro u hhead hphase hstate hok hframes
  have hmoving : ¬(y.phase ≠ 1 ∨ (reqAt u idx).state ≠ 3) := by omega
  rw [execMoveReserved, hsrc]
  exact (if_neg (by simp [hhead])).trans ((if_neg hmoving).trans (if_pos ⟨hok, hframes⟩))

/-- MOVE_ANSWER frees the source entry with its command DONE where the move is COMMITTED, and reverts it otherwise. -/
theorem execMoveAnswer_moving (gen : Nat) (committed : Bool) :
    let u := takeMsg s (y.target % 256) 0x0104
    let v := sendMsg u (y.target % 256) 0x0105 (ownMove u idx) [] []
    let w := dropSrc { v with mov := { v.mov with failStreak := NMap.erase v.mov.failStreak idx } } idx
    headIs s (y.target % 256) 0x0104 = true → (reqAt u idx).state = 3 → (reqAt u idx).entryGen % 1024 = gen % 1024 →
    execMoveAnswer idx gen committed s = if committed = true
      then .next (freeReq (finishWith w (reqAt u idx).cmdQ (reqAt u idx).cmdSeq stOk 0 (resultRecord w idx (reqAt u idx) stOk 0)) idx)
      else .next (revertMove u idx) := by
  intro u v w hhead hstate hgen
  have hmoving : ¬((reqAt u idx).state ≠ 3 ∨ (reqAt u idx).entryGen % 1024 ≠ gen % 1024) := by omega
  rw [execMoveAnswer, hsrc]
  exact (if_neg (by simp [hhead])).trans (if_neg hmoving)

/-- MOVE_QUERY_TIMER asks again after 80 ticks without a reply. -/
theorem execMoveQueryTimer_silent (hphase : y.phase ≠ 2) (hold : y.sentTick + 80 ≤ s.tkp.now) (hstate : (reqAt s idx).state = 3) :
    execMoveQueryTimer idx s = .next (sendQuery s idx) := by
  rw [execMoveQueryTimer, hsrc]
  exact if_pos ⟨hphase, hold, hstate⟩

end

/-- MOVE_RETRY starts a failed move again at the next seam. -/
theorem execMoveRetry_failed (idx : Nat) :
    let f := NMap.getD s.mov.failStreak idx (0, 0)
    let x := reqAt s idx
    s.tkp.beat = 0 → x.state = 2 → x.prefillPos = x.promptLen → x.recompute = false → 1 ≤ x.genLen → (roleOf s x.slice).role = 0 → 0 < f.1 →
    f.2 < s.tkp.now → execMoveRetry idx s = .next (startMove s idx) := by
  intro f x hseam hstate hprompt hvalid hgen hrole hfailed hlater
  exact if_pos ⟨hseam, hstate, hprompt, by simp [x, hvalid], hgen, hrole, hfailed, hlater⟩

/-- PEER_LOST reverts the moves bound for the device and drops the records from it, the PENDING ones abandoned (R240). -/
theorem execPeerLost_device (q seq : Nat) (r : JRec) (hstart : Starts s q seq 0x0206 r) (hlen : r.params.length = 1) :
    let u := begun s q seq
    let v := (u.mov.src.filter fun e => e.2.target % 256 == r.par 0 1).foldl (fun y e => revertMove y e.1) u
    let w := (v.mov.recs.filter fun m => m.srcDev == r.par 0 1 && m.outcome == 0).foldl abandonMove v
    execPeerLost q seq s =
      .next (finish { w with mov := { w.mov with recs := w.mov.recs.filter fun m => m.srcDev != r.par 0 1 } } q seq stOk 0) := by
  rw [execPeerLost, withCmd_starts s q seq _ r _ hstart]
  exact congrArg Host.Outcome.next (if_neg (not_not.mpr hlen))

end

/-- Settles O28, event by event. -/
theorem moveCommands : Obligations.MoveCommands := by
  unfold Obligations.MoveCommands
  intro s src idx gen q seq m a entry z y r
  refine ⟨fun pool i v xs ga => execMoveReserve_holds s m pool i v xs ga, fun hsrc => ⟨execMoveReserved_ok s idx y hsrc a, ?_, ?_⟩,
    execMoveCommit_pending s src idx gen entry z, fun hhead => congrArg Host.Outcome.next (if_pos hhead),
    fun hhead => congrArg Host.Outcome.next (if_pos hhead), execMoveRelease_head s src idx gen, execMoveRetry_failed s idx,
    execPeerLost_device s q seq r⟩
  · intro u hhead hstate hgen
    have hanswer := fun committed => execMoveAnswer_moving s idx y hsrc gen committed hhead hstate hgen
    exact ⟨(hanswer true).trans (if_pos rfl), (hanswer false).trans (if_neg Bool.false_ne_true)⟩
  · exact execMoveQueryTimer_silent s idx y hsrc

end Sys2Proof.Machine
end

section
namespace Sys2Proof.Machine

/-! ### The PREFIX commands of a slice (R243, R244, R246) -/

section
variable (s : State) (q seq : Nat) (r : JRec)

/-- The token array of a PREFIX command can be read. -/
def tokensReadable (u : State) (r : JRec) (n : Nat) : Prop :=
  1 ≤ n ∧ n < 2 ^ 24 ∧ usableRange u (r.par 8 8) (4 * n) = true ∧ badRange u (r.par 8 8) (4 * n) = false

/-- A PREFIX command whose fields and tokens pass runs its effect for its slice. -/
theorem withPfx_passes (u : State) (slice ctx n : Nat) (f : Nat → State) (hslice : sliceOfRec u r = some slice) (hctx : servingCtx u slice = some ctx)
    (hlen : r.params.length = 16) (hzero : r.zeros 2 2 = true) (hpool : poolActive u (r.par 0 1) = true) (halign : r.par 8 8 % 64 = 0)
    (hread : tokensReadable u r n) : withPfx u r n f = f slice := by
  obtain ⟨hone, hmax, husable, hgood⟩ := hread
  have hfields : ¬(r.params.length ≠ 16 ∨ (!r.zeros 2 2) = true ∨ (!poolActive u (r.par 0 1)) = true ∨ n = 0 ∨ 2 ^ 24 ≤ n ∨ r.par 8 8 % 64 ≠ 0 ∨
      (!usableRange u (r.par 8 8) (4 * n)) = true) := by
    simp only [hzero, hpool, husable, Bool.not_true, Bool.false_eq_true, or_false, false_or]
    omega
  rw [withPfx, hslice, Option.bind_some, hctx]
  exact (if_neg hfields).trans (if_neg (ne_true_of_eq_false hgood))

section
variable (slice ctx : Nat) (hslice : sliceOfRec (begun s q seq) r = some slice) (hctx : servingCtx (begun s q seq) slice = some ctx)
  (hlen : r.params.length = 16) (hzero : r.zeros 2 2 = true) (hpool : poolActive (begun s q seq) (r.par 0 1) = true) (halign : r.par 8 8 % 64 = 0)
include hslice hctx hlen hzero hpool halign

/-- PREFIX_LOOKUP uses the local run and asks the cache devices of the slice if REMOTE is set. -/
theorem execPrefixLookup_runs (hstart : Starts s q seq 0x0214 r) (hread : tokensReadable (begun s q seq) r (r.par 4 4)) (hremote : r.par 1 1 ≤ 1) :
    let u := begun s q seq
    let keys := arrayKeys u (r.par 0 1) (r.par 8 8) (r.par 4 4)
    let run := pfxRun u (r.par 0 1) (some slice) 1 keys
    let devs := if r.par 1 1 = 1 then ((roleOf u slice).caches.map (· % 256)).filter fun d => inPartition u d && d != u.fab.device else []
    let o := { newPfx u r slice 0 keys with local_ := (run.length, pfxPages u run), order := devs, waiting := devs.eraseDups }
    execPrefixLookup q seq s = .next (lookupSettle (o.waiting.foldl
      (fun y d => sendMsgFor y d 0x0110 0 [r.par 0 1] (pfxBody u (r.par 0 1) 0 keys) (q, seq)) (addPfx (pfxUse u run) o)) o) := by
  rw [execPrefixLookup, withCmd_starts s q seq _ r _ hstart]
  exact congrArg Host.Outcome.next ((withPfx_passes r _ slice ctx _ _ hslice hctx hlen hzero hpool halign hread).trans
    (if_neg (Nat.not_lt.mpr hremote)))

section
variable (hread : tokensReadable (begun s q seq) r (r.par 4 4 * poolP (begun s q seq) (r.par 0 1)))
  (hpart : inPartition (begun s q seq) (r.par 1 1) = true)
include hread hpart

/-- PREFIX_FETCH asks its cache device to pin. -/
theorem execPrefixFetch_runs (hstart : Starts s q seq 0x0215 r) :
    let u := begun s q seq
    let keys := arrayKeys u (r.par 0 1) (r.par 8 8) (r.par 4 4 * poolP u (r.par 0 1))
    execPrefixFetch q seq s = .next (sendMsgFor (addPfx u (newPfx u r slice (r.par 4 4) keys)) (r.par 1 1) 0x0112 0
      [r.par 4 4] (pfxBody u (r.par 0 1) (r.par 4 4) keys) (q, seq)) := by
  rw [execPrefixFetch, withCmd_starts s q seq _ r _ hstart]
  exact congrArg Host.Outcome.next ((withPfx_passes r _ slice ctx _ _ hslice hctx hlen hzero hpool halign hread).trans (if_neg (by simp [hpart])))

/-- PREFIX_PUBLISH of a run that the local index holds references its frames and offers them. -/
theorem execPrefixPublish_runs (v : State) (hstart : Starts s q seq 0x0216 r) :
    let u := begun s q seq
    let keys := arrayKeys u (r.par 0 1) (r.par 8 8) (r.par 4 4 * poolP u (r.par 0 1))
    let run := pfxRun u (r.par 0 1) (some slice) 1 keys
    r.par 4 4 ≤ run.length → holdFrames (r.par 0 1) (run.map (·.frame)) u = (v, true) →
    execPrefixPublish q seq s = .next (sendMsgFor (addPfx v { newPfx u r slice (r.par 4 4) keys with frames := run.map (·.frame) })
      (r.par 1 1) 0x0113 0 [r.par 4 4] (pfxBody u (r.par 0 1) (r.par 4 4) keys) (q, seq)) := by
  intro u keys run hheld hframes
  rw [execPrefixPublish, withCmd_starts s q seq _ r _ hstart]
  refine congrArg Host.Outcome.next ((withPfx_passes r _ slice ctx _ _ hslice hctx hlen hzero hpool halign hread).trans ?_)
  refine (if_neg (by simp [hpart])).trans ((if_neg (Nat.not_lt.mpr hheld)).trans ((if_neg (not_refused_of_granted hframes)).trans ?_))
  exact congrArg (fun h : State × Bool => sendMsgFor (addPfx h.1 { newPfx u r slice (r.par 4 4) keys with frames := run.map (·.frame) })
    (r.par 1 1) 0x0113 0 [r.par 4 4] (pfxBody u (r.par 0 1) (r.par 4 4) keys) (q, seq)) hframes

end
end
end

/-- Settles O29, command by command. -/
theorem prefixCommands : Obligations.PrefixCommands := by
  unfold Obligations.PrefixCommands
  intro s q seq slice ctx r v u readable hslice hctx hlen hzero hpool halign
  exact ⟨execPrefixLookup_runs s q seq r slice ctx hslice hctx hlen hzero hpool halign, fun hread hpart =>
    ⟨execPrefixFetch_runs s q seq r slice ctx hslice hctx hlen hzero hpool halign hread hpart,
      execPrefixPublish_runs s q seq r slice ctx hslice hctx hlen hzero hpool halign hread hpart v⟩⟩

/-! ### The PREFIX messages between devices, and the end of a lease (R244, R246, R330) -/

section
variable (s : State)

/-- PREFIX_ASK is answered with the greatest depth held. -/
theorem execPrefixAsk_held (src q seq model p pool : Nat) (keys : List (List Byte)) (run : List PfxEntry) :
    let u := takeMsg s src 0x0110
    headIs s src 0x0110 = true → remoteRun u model p keys = some (pool, run) →
    execPrefixAsk src q seq model p keys s = .next (replyHeld (pfxUse u run) src q seq stOk run.length 0 (pfxPages u run) []) := by
  intro u hhead hrun
  refine (if_neg (by simp [hhead])).trans ?_
  rw [show remoteRun (takeMsg s src 0x0110) model p keys = some (pool, run) from hrun]

/-- PREFIX_PIN pins the frames of the depth asked for 800 ticks. -/
theorem execPrefixPin_held (src q seq model p depth pool : Nat) (keys : List (List Byte)) (run : List PfxEntry) (v : State) :
    let u := takeMsg s src 0x0112
    headIs s src 0x0112 = true → remoteRun u model p (keys.take depth) = some (pool, run) → depth ≤ run.length → 1 ≤ depth →
    holdFrames pool (run.map (·.frame)) (pfxUse u run) = (v, true) →
    let h := addLease v { dev := src, pool := pool, frames := run.map (·.frame), until_ := u.tkp.now + 800, keys := [] }
    execPrefixPin src q seq model p depth keys s =
      .next (replyHeld h.1 src q seq stOk depth h.2 (pfxPages u run) (locsOf u pool (run.map (·.frame)))) := by
  intro u hhead hrun hdepth hone hframes h
  have hheld : ¬(run.length < depth ∨ depth = 0) := by omega
  refine (if_neg (by simp [hhead])).trans ?_
  rw [show remoteRun (takeMsg s src 0x0112) model p (keys.take depth) = some (pool, run) from hrun]
  refine (if_neg hheld).trans ((if_neg (not_refused_of_granted hframes)).trans ?_)
  rw [hframes]

/-- PREFIX_OFFER grants frames with write grants. -/
theorem execPrefixOffer_granted (src q seq model p depth pool : Nat) (keys : List (List Byte)) (fs : List Nat) (v ga : State) :
    let u := takeMsg s src 0x0113
    headIs s src 0x0113 = true → servesCache u = true → inPartition u src = true → poolOf u model p = some pool →
    offerFrames true pool (List.range depth) u = (v, some fs) →
    let h := addLease v { dev := src, pool := pool, frames := fs, until_ := u.tkp.now + 800, keys := keys.take depth }
    addGrants h.1 (((locsOf v pool fs).filter (isHere u)).map fun a => ⟨src, a % 2 ^ 40, pageBytesOf u pool, none, some h.2, u.tkp.now⟩) = (ga, true) →
    execPrefixOffer src q seq model p depth keys s = .next (replyHeld ga src q seq stOk depth h.2
      (fs.map fun f => (f, match frameAt ga pool f with | some x => x.gen | none => 0)) (locsOf v pool fs)) := by
  intro u hhead hcache hpart hpool hoffer h hgrants
  have hallowed : ¬(!servesCache u ∨ !inPartition u src) := by simp [hcache, hpart]
  refine (if_neg (by simp [hhead])).trans ((if_neg hallowed).trans ?_)
  rw [show poolOf (takeMsg s src 0x0113) model p = some pool from hpool]
  dsimp only
  rw [show offerFrames true pool (List.range depth) (takeMsg s src 0x0113) = (v, some fs) from hoffer]
  refine (if_pos (congrArg Prod.snd hgrants)).trans ?_
  exact congrArg (fun g : State × Bool => Host.Outcome.next (replyHeld g.1 src q seq stOk depth h.2
    (fs.map fun f => (f, match frameAt g.1 pool f with | some x => x.gen | none => 0)) (locsOf v pool fs))) hgrants

/-- PREFIX_UNPIN of the holder inserts the keys of a publish and ends the lease. -/
theorem execPrefixUnpin_holder (src lease : Nat) (l : PfxLease) :
    let u := takeMsg s src 0x0112
    headIs s src 0x0112 = true → NMap.find? u.mov.leases lease = some l → l.dev = src → execPrefixUnpin src lease s = .next (endLease
      ((List.zip (List.range l.frames.length) (List.zip l.keys l.frames)).foldl (fun y e => pfxInsert y l.pool (e.1 + 1) e.2.1 e.2.2 none false) u) lease l) := by
  intro u hhead hlease hholder
  refine (if_neg (by simp [hhead])).trans ?_
  rw [show NMap.find? (takeMsg s src 0x0112).mov.leases lease = some l from hlease]
  exact if_neg (not_not.mpr hholder)

section
variable (src q seq status depth lease : Nat) (pages : List (Nat × Nat)) (locs : List Nat) (o : PfxOp) (hhead : headIs s src 0x0111 = true)
  (hop : findPfx (takeMsg s src 0x0111) q seq = some o)
include hhead hop

/-- PREFIX_HELD for a lookup is one of its answers. -/
theorem execPrefixHeld_lookup (hlookup : o.opcode = 0x0214) :
    execPrefixHeld src q seq status depth lease pages locs s = .next (lookupAnswer (takeMsg s src 0x0111) q seq src depth pages) := by
  refine (if_neg (by simp [hhead])).trans ?_
  rw [hop]
  exact if_pos hlookup

/-- PREFIX_HELD OK starts the copy of a fetch or a publish. -/
theorem execPrefixHeld_copy (hcopy : o.opcode ≠ 0x0214) (hdev : o.dev = src) (hnew : o.lease = 0) (hok : status = stOk) (hdepth : o.depth ≤ depth)
    (hlocs : locs.length = o.depth) :
    let u := takeMsg s src 0x0111
    let w := { o with lease := lease, startTick := u.tkp.now }
    execPrefixHeld src q seq status depth lease pages locs s = .next (if o.opcode = 0x0215 then fetchStart (setPfx u w) w locs
      else setPfx u { w with left := List.zipWith (fun a b => (a, pageBytesOf u o.pool, b)) (locsOf u o.pool o.frames) locs }) := by
  intro u w
  have hwaits : ¬(o.dev ≠ src ∨ o.lease ≠ 0) := by omega
  have hfits : ¬(depth < o.depth ∨ locs.length ≠ o.depth) := by omega
  refine (if_neg (by simp [hhead])).trans ?_
  rw [hop]
  refine (if_neg hcopy).trans ((if_neg hwaits).trans ((if_neg (not_not.mpr hok)).trans ((if_neg hfits).trans ?_)))
  exact (apply_ite Host.Outcome.next _ _ _).symm

end

/-- An expired lease is released, and a fetch or publish that waits on it ends TIMEOUT. -/
theorem execPrefixLeaseExpiry_expired (lease : Nat) (l : PfxLease) (hlease : NMap.find? s.mov.leases lease = some l) (hend : l.until_ ≤ s.tkp.now)
    (hreal : lease ≠ 0) :
    let w := endLease s lease l
    execPrefixLeaseExpiry lease s = .next ((w.mov.ops.filter fun o => o.lease == lease && decide (o.startTick + 800 ≤ w.tkp.now)).foldl
      (fun y o => pfxFail y o stTimeout) w) := by
  have hnonzero : (lease != 0) = true := by simp [hreal]
  simp only [execPrefixLeaseExpiry, hlease, if_pos hend, hnonzero, Bool.and_true]

end

/-- Settles O30, message by message. -/
theorem prefixMessages : Obligations.PrefixMessages := by
  unfold Obligations.PrefixMessages
  intro s src q seq model p depth lease status pool keys run pages locs fs o v ga l
  exact ⟨execPrefixAsk_held s src q seq model p pool keys run, execPrefixPin_held s src q seq model p depth pool keys run v,
    execPrefixOffer_granted s src q seq model p depth pool keys fs v ga, execPrefixUnpin_holder s src lease l,
    fun hhead hop => ⟨execPrefixHeld_lookup s src q seq status depth lease pages locs o hhead hop,
      execPrefixHeld_copy s src q seq status depth lease pages locs o hhead hop⟩,
    execPrefixLeaseExpiry_expired s lease l⟩

end Sys2Proof.Machine
end

section
/-!
PROOFS OF 12_fronthaul.md. Frames received, symbols, gain, launches and links (R258 to R272).
-/
namespace Sys2Proof.Machine

/-! ### Frames received (R259) -/

section
variable (s : State) (port : Nat) (f : FhFrame) (hworks : portWorks s port = true)
include hworks

/-- A port that works counts a frame with a bad FCS. -/
theorem execFhFrameRx_badFcs (hfcs : f.fcsOk = false) :
    execFhFrameRx port f s = .next (modFh s port fun y => { y with fcs := satAdd 16 y.fcs 1 }) :=
  (if_neg (by simp [hworks])).trans (if_pos (by simp [hfcs]))

section
variable (hfcs : f.fcsOk = true)
include hfcs

/-- It counts a frame with a tag that is not its own in UNKNOWN. -/
theorem execFhFrameRx_badTag (htag : vlanBad (fhAt s port) f = true) : execFhFrameRx port f s = .next (fhUnknown s port) :=
  (if_neg (by simp [hworks])).trans ((if_neg (by simp [hfcs])).trans (if_pos htag))

/-- Any other frame it classifies by its EtherType. -/
theorem execFhFrameRx_classified (htag : vlanBad (fhAt s port) f = false) : execFhFrameRx port f s =
    if f.etherType = 0xAEFE ∧ (fhAt s port).kind.applied = 0 then .next (ecpriRx s port f)
    else if f.etherType = 0xFC3D ∧ (fhAt s port).kind.applied = 1 then .next (tdRx s port f)
    else if f.etherType = 0x88F7 ∨ (f.etherType = 0x8809 ∧ f.slowSub = 0x0A) then
      .next (modFh s port fun y => { y with cpRx := (f.etherType, f.stampNs) :: y.cpRx })
    else .next (fhUnknown s port) :=
  (if_neg (by simp [hworks])).trans ((if_neg (by simp [hfcs])).trans (if_neg (ne_true_of_eq_false htag)))

end

end

/-! ### Symbols and gain (R264, R267 to R269) -/

/-- An open symbol of an active cell closes in its beat, and the sync counter of the cell's descriptor rises. -/
theorem execSymbolClose_inBeat (s : State) (cell first y : Nat) : let z := cellAt s cell
    z.active = true → 16 * first + y ∉ z.closed → y < 14 → slotPhase z first = 0 → launch s = closeBeat s z (16 * first + y) →
    let a := modCell s cell fun w => { w with closed := addSet (w.closed.filter fun k => 16 * first + y ≤ k + 16384) (16 * first + y)
                                              rxGot := w.rxGot.filter fun k => k / 2 ^ 32 != 16 * first + y }
    execSymbolClose cell first y s = .next (match cellDesc a cell with | some d => incSync a d.rxSync | none => a) := by
  intro z hactive hopen hsym hphase hbeat a
  have hcloses : ¬(!z.active ∨ z.closed.contains (16 * first + y) = true ∨ 14 ≤ y ∨ slotPhase z first ≠ 0 ∨
      launch s ≠ closeBeat s z (16 * first + y)) := by
    simp [hactive, hopen, Nat.not_le.mpr hsym, hphase, hbeat]
  refine (if_neg hcloses).trans ?_
  show (match cellDesc a cell with | some d => _ | none => _) = _
  cases cellDesc a cell <;> rfl

/-- A measured symbol that has closed steps its stream, writes its words and, where it is whole, passes the FFT. -/
theorem execAgcUpdate_measured (s : State) (port stream sym c256 c : Nat) (pin peak : Int) (v : Cell) (b : CellBind) : let x := fhAt s port
    cellOfEaxc s port stream = some (c, v) → v.bind_ = some b → x.kind.applied = 1 → x.linkUp = true → sym ∈ v.closed →
    let st := NMap.getD s.rad.streams (256 * port + stream) {}
    let got := symSamples v x stream sym
    let zs := got.map fun z => z.getD (0, 0)
    let cp := (symSpan v sym).2.2
    st.last < sym → measured zs cp pin peak c256 = true →
    let lack := got.any fun z => z.isNone
    let n := agcStep x st sym lack pin peak c256
    let a := writeWords s v b ((b.eaxc.drop b.dl).findIdx (· == stream)) n.words
    let d : State := { a with rad := { a.rad with streams := NMap.insert a.rad.streams (256 * port + stream) n } }
    execAgcUpdate port stream sym pin peak c256 s = .next (if lack = true then d else symbolFft d c v stream sym st.gain cp zs) := by
  intro x hcell hbind hkind hlink hclosed st got zs cp hnew hmeasured lack n a d
  have hgoes : ¬(x.kind.applied ≠ 1 ∨ !x.linkUp ∨ sym ≤ st.last ∨ !v.closed.contains sym ∨ !measured zs cp pin peak c256) := by
    simp [hkind, hlink, Nat.not_le.mpr hnew, hclosed, hmeasured]
  simp only [execAgcUpdate, hcell, hbind]
  exact if_neg hgoes

/-! ### Launches (R260, R263) -/

section
variable (s : State) (port cell : Nat) (hport : onPort s port cell = true) (hsound : silentCell (cellAt s cell) = false)
include hport hsound

/-- The C-plane messages of a slot go out in their beat in ascending eAxC ID, and on a port that cannot send are dropped and counted. -/
theorem execCplaneLaunch_inBeat (msgs : List CMessage) (k : Nat) (hslot : cplaneSlot s (cellAt s cell) = some k)
    (hkind : (fhAt s port).kind.applied ≠ 1) (hfirst : (fhAt s port).uAt.1 ≠ launch s + 1) :
    let ms := (ascending (msgs.map (·.eaxc))).filterMap fun e => msgs.find? fun m => m.eaxc == e
    execCplaneLaunch port cell msgs s = .next (if portWorks s port = true
      then ms.foldl (fun y m => sentPacket y port (2 * m.eaxc + 1) (linkFree y port)
        (cFrame y port cell k (NMap.getD (fhAt y port).txSeq (2 * m.eaxc + 1) 0) m)) s
      else modFh s port fun y => { y with txLate := satAdd 16 y.txLate ms.length }) := by
  have hgoes : ¬(!onPort s port cell ∨ silentCell (cellAt s cell) = true ∨ (fhAt s port).kind.applied = 1 ∨ (fhAt s port).uAt.1 = launch s + 1) := by
    simp [hport, hsound, hkind, hfirst]
  simp only [execCplaneLaunch, hslot, if_neg hgoes, apply_ite Host.Outcome.next]

/-- The frames of a symbol go out from their beat on in ascending eAxC ID, and on a port that cannot send are dropped and counted. -/
theorem execUplaneLaunch_inBeat (sym : Nat) (ready eaxcs : List Nat) : let x := fhAt s port
    launch s = uplaneBeat s (cellAt s cell) (launchAir s (cellAt s cell) sym) →
    (x.uAt.1 = launch s + 1 → ∀ e ∈ ascending eaxcs, x.uAt.2 < e) →
    let fs := ((ascending eaxcs).map fun e => (uFrames s port cell sym e (NMap.getD x.txSeq (2 * e) 0)).map fun g => (e, ready.contains e, g)).flatten
    execUplaneLaunch port cell sym ready eaxcs s = .next (if portWorks s port = true
      then launchGo fs (modFh s port fun y => { y with uAt := (launch s + 1, (ascending eaxcs).foldl max 0) }) port cell sym
      else modFh s port fun y => { y with txLate := satAdd 16 y.txLate fs.length }) := by
  intro x hbeat horder fs
  have hgoes : ¬(!onPort s port cell ∨ silentCell (cellAt s cell) = true ∨
      launch s ≠ uplaneBeat s (cellAt s cell) (launchAir s (cellAt s cell) sym) ∨
      (x.uAt.1 = launch s + 1 ∧ (ascending eaxcs).any fun e => decide (e ≤ x.uAt.2))) := by
    rintro (h | h | h | ⟨hsame, h⟩)
    · simp [hport] at h
    · simp [hsound] at h
    · exact h hbeat
    · obtain ⟨e, he, hle⟩ := List.any_eq_true.mp h
      exact absurd (horder hsame e he) (Nat.not_lt.mpr (of_decide_eq_true hle))
  exact (if_neg hgoes).trans (apply_ite Host.Outcome.next _ _ _).symm

end

/-! ### Links (R258, R271, R272) -/

section
variable (s : State) (port : Nat)

/-- A link that is up goes down: what awaits launch is dropped, and SYNCE_CLK from it is held low. -/
theorem execFhLinkDown_up (waiting : Nat) : let x := fhAt s port
    x.linkUp = true →
    let a := modFh s port fun y => { y with linkUp := false, synceSrc := false, linkDowns := satAdd 16 y.linkDowns 1, txLate := satAdd 16 y.txLate waiting }
    let b : State := { a with tim := { a.tim with synceLow := s.tim.synceLow || x.synceSrc } }
    execFhLinkDown port waiting s = .next (portCells (recordEvent (rateAgain s b) 0x4003 srcHw []) port 4) :=
  fun hup => if_neg (by simpa using hup)

/-- A link that is down comes up on a port with a mode, whose streams start afresh. -/
theorem execFhLinkUp_down : let x := fhAt s port
    x.linkUp = false → x.mode.applied ≠ 0 → laneMerged s port = false →
    let a := modFh s port fun y => { y with linkUp := true, resumeAt := s.tkp.now + 1, trainAt := none }
    let b : State := { a with rad := { a.rad with streams := a.rad.streams.filter fun e => e.1 / 256 != port } }
    execFhLinkUp port s = .next (if 0 < x.linkDowns then portCells (rateAgain s b) port 5 else rateAgain s b) := by
  intro x hdown hmode hlane a b
  have hgoes : ¬(x.linkUp = true ∨ x.mode.applied = 0 ∨ laneMerged s port = true) := by simp [hdown, hmode, hlane]
  exact if_neg hgoes

/-- A link that has not come up 1 s after its MODE change has failed to train. -/
theorem execFhTrainTimeout_due (t : Nat) (htrain : (fhAt s port).trainAt = some t) (hdue : t + 8000 ≤ s.tkp.now)
    (hdown : (fhAt s port).linkUp = false) : execFhTrainTimeout port s =
      .next (recordEvent (modFh s port fun y => { y with trainAt := none }) 0x4001 srcHw []) := by
  have hgoes : t + ticksPerSec ≤ s.tkp.now ∧ (!(fhAt s port).linkUp) = true := ⟨hdue, by simp [hdown]⟩
  simp only [execFhTrainTimeout, htrain, if_pos hgoes]

end

/-- Settles O33: a frame is one of the cases of its classification; each other event meets its conditions. -/
theorem fronthaulEvents : Obligations.FronthaulEvents := by
  unfold Obligations.FronthaulEvents
  intro s port cell first y sym stream waiting c256 f ready eaxcs msgs pin peak x z
  refine ⟨fun hworks => ⟨execFhFrameRx_badFcs s port f hworks, execFhFrameRx_badTag s port f hworks, fun hfcs htag => ?class_⟩,
    execSymbolClose_inBeat s cell first y, fun c v b => execAgcUpdate_measured s port stream sym c256 c pin peak v b,
    fun hport hsound => ⟨fun k hslot hkind hfirst => ?cplane, fun hbeat horder => ?uplane⟩, execFhLinkDown_up s port waiting,
    execFhLinkUp_down s port, execFhTrainTimeout_due s port⟩
  case class_ =>
    have hclass := execFhFrameRx_classified s port f hworks hfcs htag
    refine ⟨fun htype hkind => hclass.trans (if_pos ⟨htype, hkind⟩), fun htype hkind => ?_, fun htype => ?_⟩
    · exact hclass.trans ((if_neg (by simp [htype])).trans (if_pos ⟨htype, hkind⟩))
    · rw [exec_fhFrameRx, hclass]
      simp [htype]
  case cplane =>
    have hgo := execCplaneLaunch_inBeat s port cell hport hsound msgs k hslot hkind hfirst
    exact ⟨fun hworks => hgo.trans (congrArg _ (if_pos hworks)), fun hdead => hgo.trans (congrArg _ (if_neg (ne_true_of_eq_false hdead)))⟩
  case uplane =>
    have hgo := execUplaneLaunch_inBeat s port cell hport hsound sym ready eaxcs hbeat horder
    exact ⟨fun hworks => hgo.trans (congrArg _ (if_pos hworks)), fun hdead => hgo.trans (congrArg _ (if_neg (ne_true_of_eq_false hdead)))⟩

end Sys2Proof.Machine
end

section
/-!
PROOFS OF 13_radio_processing_and_code_engines.md. The code engines (R287, R290, R291; 20 R442), the FAPI requests, and the
life of cells (R273 to R298).
-/
namespace Sys2Proof.Machine

/-! ### Code engines (R287, R290, R291) -/

/-- An idle engine takes the first admissible block, when no lower idle engine of its die would take the same one (R290). -/
theorem execCodeBlockStart_takes (s : State) (hd e : Nat) (b : Block) (fl : Bool) (hhd : hd ≤ 1) (he : e ≤ 27)
    (hidle : engineIdle s hd e = true) (hpick : enginePick s hd e = some (fl, b))
    (hlower : ∀ n < e, engineIdle s hd n = true → ∀ p, enginePick s hd n = some p → p.2.age ≠ b.age) :
    let take := fun (q : NMap (List Block)) => NMap.modify q [] hd fun l => l.filter fun x => x.age != b.age
    let r : Radio := if fl = true then { s.rad with flashQ := take s.rad.flashQ } else { s.rad with radioQ := take s.rad.radioQ }
    execCodeBlockStart hd e s = .next { s with rad := { r with
      engines := NMap.insert r.engines (32 * hd + e) { b with tick := s.tkp.now, beat := s.tkp.beat } } } := by
  have hengine : ¬(1 < hd ∨ 27 < e ∨ !engineIdle s hd e) := by simp [hidle, Nat.not_lt.mpr hhd, Nat.not_lt.mpr he]
  simp only [execCodeBlockStart, if_neg hengine, hpick]
  refine if_neg ?_
  simp only [List.any_eq_true, List.mem_range, Bool.and_eq_true, not_exists, not_and]
  intro n hn hi
  cases hp : enginePick s hd n with
  | none => simp
  | some p => simpa using hlower n hn hi p hp

section
variable (s : State) (hd e : Nat) (b : Block) (hb : NMap.find? s.rad.engines (32 * hd + e) = some b) (hlater : 1250 * b.tick + b.beat < launch s)
include hb hlater

/-- A block that completes in a later beat frees its engine: a fault reruns it, a FLASH block is counted, and a radio block writes its result
and takes its list one step on (R287, R291). -/
theorem execCodeBlockComplete_later (fault : Bool) :
    let u : State := { s with rad := { s.rad with engines := NMap.erase s.rad.engines (32 * hd + e) } }
    let v := blockResult u b
    execCodeBlockComplete hd e fault s = .next (
      if fault = true then engineFault (rerunBlock u hd e b) hd e
      else if b.list_ = 0 then { u with rad := { u.rad with codeFlash := satAdd 32 u.rad.codeFlash 1 } }
      else listStep { v with rad := { v.rad with codeRadio := satAdd 32 v.rad.codeRadio 1 } } b.list_) := by
  simp only [execCodeBlockComplete, hb, if_neg (Nat.not_le.mpr hlater), apply_ite Host.Outcome.next]

end

/-- Settles O22: the start meets its conditions, and a completion is one of three cases. -/
theorem codeEngines : Obligations.CodeEngines := by
  unfold Obligations.CodeEngines
  intro s hd e b
  refine ⟨fun hhd he hidle fl hpick hlower => execCodeBlockStart_takes s hd e b fl hhd he hidle hpick hlower, fun hb hlater => ?complete⟩
  case complete =>
    have hdone := execCodeBlockComplete_later s hd e b hb hlater
    exact ⟨hdone true, fun hflash => (hdone false).trans (congrArg _ (if_pos hflash)), fun hradio => (hdone false).trans (congrArg _ (if_neg hradio))⟩

end Sys2Proof.Machine
end

section
namespace Sys2Proof.Machine

/-! ### Taking a FAPI message (R276 to R278) -/

/-- The state in which a PHY's oldest request has been consumed. -/
def fapiTaken (s : State) (n : Nat) (p : Phy) (rest : List Nat) : State :=
  { s with rad := { s.rad with phys := NMap.insert s.rad.phys n { p with arrivals := rest, reqHead := (p.reqHead + 1) % 2 ^ 16 } } }

/-- The state in which a request of a cell has been consumed: the cell is one of its PHY's. -/
def cellTaken (s : State) (m : FapiMsg) (p : Phy) (rest : List Nat) : State :=
  modCell (fapiTaken s m.phy p rest) m.cell fun c => { c with phy := some m.phy }

section
variable (s : State) (p : Phy) (t : Nat) (rest : List Nat) (hbus : s.rad.noL2Bus = false) (harr : p.arrivals = t :: rest)
include hbus harr

/-- The oldest request of a ring is taken if its entry gives the ID asked for. -/
theorem takeFapi_taken (n : Nat) (id : Option Nat) (hp : NMap.find? s.rad.phys n = some p) (hid : entryId p (ringEntry s p) = id)
    (f : Nat → List Byte → State → State) : takeFapi s n id f =
      f t (if id.isSome = true then devRead s (ringEntry s p).1 (ringEntry s p).2.1 else []) (fapiTaken s n p rest) := by
  have hgoes : ¬(s.rad.noL2Bus = true ∨ entryId p (ringEntry s p) ≠ id) := by simp [hbus, hid]
  simp only [takeFapi, hp, harr, if_neg hgoes, fapiTaken]

section
variable (m : FapiMsg) (id : Nat) (hp : NMap.find? s.rad.phys m.phy = some p) (hid : entryId p (ringEntry s p) = some id)
  (hmine : p.cells.getLsbD m.cell = true) (hcell : m.cell < 192)
include hp hid hmine hcell

/-- A request for a cell of its PHY goes on with its tick of arrival and the message as copied. -/
theorem withCell_taken (f : Nat → List Byte → State → State) :
    withCell s m id f = f t (devRead s (ringEntry s p).1 (ringEntry s p).2.1) (cellTaken s m p rest) := by
  rw [withCell, takeFapi_taken s p t rest hbus harr m.phy (some id) hp hid]
  have hphy : NMap.find? (fapiTaken s m.phy p rest).rad.phys m.phy = some { p with arrivals := rest, reqHead := (p.reqHead + 1) % 2 ^ 16 } := by
    simp [fapiTaken, NMap.find?_insert]
  simp only [hphy, if_pos (And.intro hmine hcell)]
  rfl

/-- A configuration request for a cell that is not active goes on with the message's body. -/
theorem whileIdle_taken (hidle : (cellAt (cellTaken s m p rest) m.cell).active = false) (f : List Byte → State → State) :
    whileIdle s m id f = f ((devRead s (ringEntry s p).1 (ringEntry s p).2.1).drop 8) (cellTaken s m p rest) := by
  rw [whileIdle, withCell_taken s p t rest hbus harr m id hp hid hmine hcell, if_neg (ne_true_of_eq_false hidle)]

end

/-! ### Configuration, start and stop (R277 to R279, R293, R298) -/

section
variable (m : FapiMsg) (hp : NMap.find? s.rad.phys m.phy = some p) (hmine : p.cells.getLsbD m.cell = true) (hcell : m.cell < 192)
include hp hmine hcell

/-- CELL_BIND.request with a body of R279 binds the cell at its seam. -/
theorem execCellBindRequest_ok (hid : entryId p (ringEntry s p) = some 0x180) : let u := cellTaken s m p rest
    let b := (devRead s (ringEntry s p).1 (ringEntry s p).2.1).drop 8
    (cellAt u m.cell).active = false → bindOk u m.cell b = true → execCellBindRequest m.phy m.cell s =
      .next (respInd (cellSet u m.cell (.bound (bindOf u b))) (bareMsg m.phy m.cell) .cellBind .ok) := by
  intro u b hidle hok
  refine congrArg Host.Outcome.next ?_
  rw [whileIdle_taken s p t rest hbus harr (bareMsg m.phy m.cell) 0x180 hp hid hmine hcell hidle]
  exact if_pos hok

/-- TWILIGHT_CFG.request with a body of R298 configures the cell's twilight at its seam. -/
theorem execTwilightCfgRequest_ok (hid : entryId p (ringEntry s p) = some 0x181) : let u := cellTaken s m p rest
    let b := (devRead s (ringEntry s p).1 (ringEntry s p).2.1).drop 8
    (cellAt u m.cell).active = false → twilightOk b = true → execTwilightCfgRequest m.phy m.cell s =
      .next (respInd (cellSet u m.cell (.twilight (twilightOf u b))) (bareMsg m.phy m.cell) .twilightCfg .ok) := by
  intro u b hidle hok
  refine congrArg Host.Outcome.next ?_
  rw [whileIdle_taken s p t rest hbus harr (bareMsg m.phy m.cell) 0x181 hp hid hmine hcell hidle]
  exact if_pos hok

/-- START.request of a cell that is off and that no condition refuses: from the first slot whose lead tick is at least 10 ticks later. -/
theorem execStartRequest_ok (hid : entryId p (ringEntry s p) = some 0x04) : let u := cellTaken s m p rest
    let c := (cellAt u m.cell).settled
    c.started = false → startOk u m.cell = true → execStartRequest m s = .next (modCell u m.cell fun y => { y with
      startAt := some (firstSlotFrom u c (t + 10)), mode := 3, stopAt := none, bw := match c.bind_ with | some b => cellBw b | none => 0 }) := by
  intro u c hoff hok
  have hallowed : ¬(!startOk u m.cell) = true := by simp [hok]
  rw [execStartRequest, withCell_taken s p t rest hbus harr m 0x04 hp hid hmine hcell]
  exact congrArg Host.Outcome.next ((if_neg (ne_true_of_eq_false hoff)).trans (if_neg hallowed))

/-- STOP.request of a running cell names its last slot. -/
theorem execStopRequest_active (hid : entryId p (ringEntry s p) = some 0x05) : let u := cellTaken s m p rest
    let c := (cellAt u m.cell).settled
    c.active = true → execStopRequest m s = .next (modCell u m.cell fun y => { y with
      stopAt := some (slotNamed u c m.sfn m.slot t + slotTicks c.mu), stopReason := 5 }) := by
  intro u c hon
  have hstarted : ¬(!c.started) = true := by simp [Cell.started, hon]
  have hruns : ¬(!c.active) = true := by simp [hon]
  rw [execStopRequest, withCell_taken s p t rest hbus harr m 0x05 hp hid hmine hcell]
  exact congrArg Host.Outcome.next ((if_neg hstarted).trans (if_neg hruns))

end

end

/-- Settles O34: each request is the entry of its ring that is next, and its cell and body pass. -/
theorem fapiConfiguration : Obligations.FapiConfiguration := by
  unfold Obligations.FapiConfiguration
  intro s m cfg phy id t rest p taken u c e b bare hbus harr
  refine ⟨fun hp hid => congrArg Host.Outcome.next (takeFapi_taken s p t rest hbus harr phy none hp hid _),
    fun hp => ⟨fun hid => congrArg Host.Outcome.next (takeFapi_taken s p t rest hbus harr m.phy (some 0) hp hid _),
      fun hmine hcell => ⟨fun hidle => ⟨fun hid => ?config, fun hid => execCellBindRequest_ok s p t rest hbus harr m hp hmine hcell hid hidle,
        fun hid => execTwilightCfgRequest_ok s p t rest hbus harr m hp hmine hcell hid hidle⟩,
        execStartRequest_ok s p t rest hbus harr m hp hmine hcell, execStopRequest_active s p t rest hbus harr m hp hmine hcell⟩⟩⟩
  case config => exact congrArg Host.Outcome.next (whileIdle_taken s p t rest hbus harr m 0x02 hp hid hmine hcell hidle _)

/-! ### Requests of a slot (R278, R280) -/

section
variable (s : State) (p : Phy) (t : Nat) (rest : List Nat) (hbus : s.rad.noL2Bus = false) (harr : p.arrivals = t :: rest)
  (m : FapiMsg) (hp : NMap.find? s.rad.phys m.phy = some p) (hmine : p.cells.getLsbD m.cell = true) (hcell : m.cell < 192)
include hbus harr hp hmine hcell

/-- A request for a slot of a running cell is taken with the message as copied, where the slot lies in the window and its deadline has not
passed. -/
theorem slotRequest_taken (id : Nat) (put : Nat → FapiMsg → Cell → Cell) (hid : entryId p (ringEntry s p) = some id) :
    let u := cellTaken s m p rest
    let c := (cellAt u m.cell).settled
    let a := slotNamed u c m.sfn m.slot t
    c.started = true → m.sfn < 1024 → m.slot < 80 / slotTicks c.mu → a ∉ c.late → (∀ st, c.startAt = some st → st ≤ a) →
    (∀ e, c.stopAt = some e → a < e) → a ≤ t + 80 + leadTicks u c → t + 10 + leadTicks u c ≤ a → slotRequest s m id put =
      modCell u m.cell fun y => (put a { m with body := devRead s (ringEntry s p).1 (ringEntry s p).2.1 } y).tookOne a := by
  intro u c a hon hsfn hslot hlate hfirst hlast hwindow hdeadline
  have hnamed : ¬(1024 ≤ m.sfn ∨ 80 / slotTicks c.mu ≤ m.slot ∨ t + 80 + leadTicks u c < a) := by omega
  have hearly : ¬a < t + 10 + leadTicks u c := Nat.not_lt.mpr hdeadline
  have hkept : ¬c.late.contains a = true := by simpa using hlate
  rw [slotRequest, withCell_taken s p t rest hbus harr m id hp hid hmine hcell]
  refine (if_neg ?runs).trans ((if_neg hnamed).trans ((if_neg hearly).trans (if_neg hkept)))
  case runs =>
    rintro (hoff | hbefore | hafter)
    · rw [hon] at hoff
      cases hoff
    · split at hbefore
      next st hst => exact absurd (hfirst st hst) (Nat.not_le.mpr (of_decide_eq_true hbefore))
      next => cases hbefore
    · split at hafter
      next e he => exact absurd (hlast e he) (Nat.not_lt.mpr (of_decide_eq_true hafter))
      next => cases hafter

/-- TX_Data.request in the lead tick of its slot or earlier adds to the payload of the slot. -/
theorem execTxDataRequest_inTime (hid : entryId p (ringEntry s p) = some 0x84) : let u := cellTaken s m p rest
    let c := (cellAt u m.cell).settled
    let a := slotNamed u c m.sfn m.slot t
    c.started = true → m.sfn < 1024 → m.slot < 80 / slotTicks c.mu → a ∉ c.late → t + leadTicks u c ≤ a →
    execTxDataRequest m s = .next (modCell u m.cell fun y =>
      let old := match NMap.find? y.tx a with | some w => w.data | none => []
      Cell.tookOne { y with tx := NMap.insert y.tx a { m with body := devRead s (ringEntry s p).1 (ringEntry s p).2.1, data := m.data ++ old } } a) := by
  intro u c a hon hsfn hslot hlate hdeadline
  have hruns : ¬(!c.started) = true := by simp [hon]
  have hnamed : ¬(1024 ≤ m.sfn ∨ 80 / slotTicks c.mu ≤ m.slot) := by omega
  have hkept : ¬c.late.contains a = true := by simpa using hlate
  rw [execTxDataRequest, withCell_taken s p t rest hbus harr m 0x84 hp hid hmine hcell]
  exact congrArg Host.Outcome.next ((if_neg hruns).trans ((if_neg hnamed).trans ((if_neg hkept).trans (if_neg (Nat.not_lt.mpr hdeadline)))))

end

/-! ### Deadlines, activation and stop of cells (R278, R298) -/

section
variable (s : State) (cell first : Nat)

/-- At its deadline a slot without DL_TTI.request is set to run twilight. -/
theorem execSlotRequestDeadline_lacks : let x := (cellAt s cell).settled
    x.started = true → first ≤ s.tkp.now + 10 + leadTicks s x → NMap.find? x.dl first = none → first ∉ x.late →
    execSlotRequestDeadline cell first s = .next (modCell s cell fun y => { y with noReq := addSet y.noReq first }) :=
  fun hon hdue hnone hlate => if_pos ⟨hon, hdue, by simp [hnone], by simpa using hlate⟩

/-- At the deadline of payload each PDU that lacks its own is reported. -/
theorem execTxDataDeadline_reports (o : FapiMsg) : let x := cellAt s cell
    NMap.find? x.dl first = some o → first ≤ s.tkp.now + leadTicks s x → x.started = true → first ∉ x.late → first ∉ x.noData →
    let lack := (o.dls.filter fun p => p.kind == .pdsch && (dataOf x first p.index).isNone).map fun p => p.index
    let a := if lack = [] then s else modCell s cell fun y => { y with noData := addSet y.noData first }
    execTxDataDeadline cell first s = .next (lack.foldl (fun y p => cellInd y cell .error first .txErr stLate 0 [p]) a) := by
  intro x ho hdue hon hlate hnew lack a
  have hgoes : first ≤ s.tkp.now + leadTicks s x ∧ x.started = true ∧ (!x.late.contains first) = true ∧ (!x.noData.contains first) = true :=
    ⟨hdue, hon, by simpa using hlate, by simpa using hnew⟩
  simp only [execTxDataDeadline, show NMap.find? (cellAt s cell).dl first = some o from ho, List.isEmpty_iff]
  exact if_pos hgoes

/-- A started cell becomes active at the first tick of its first slot. -/
theorem execCellActivate_due (a : Nat) (hstart : (cellAt s cell).startAt = some a) (hdue : a ≤ s.tkp.now) : execCellActivate cell s =
    .next (slotBegins (modCell s cell fun y => { y with active := true, startAt := none, mode := 3 }) cell) := by
  simp only [execCellActivate, hstart, if_pos hdue]

/-- A cell goes OFF at its stop tick. -/
theorem execCellStop_due (a : Nat) : let x := cellAt s cell
    x.started = true → x.stopAt = some a → a ≤ s.tkp.now → execCellStop cell s = .next (goOff s cell x.stopReason (x.stopReason == 5)) :=
  fun hon hstop hdue => if_pos ⟨hon, by simpa [dueBy, hstop] using hdue⟩

/-- A cell whose twilight has lasted HOLD_S goes OFF. -/
theorem execTwilightHoldExpiry_due (a : Nat) : let x := cellAt s cell
    x.runStart = some a → x.mode = 2 → a + x.holdS * 8000 ≤ s.tkp.now → execTwilightHoldExpiry cell s = .next (goOff s cell 3 true) := by
  intro x hrun hmode hdue
  simp only [execTwilightHoldExpiry, show (cellAt s cell).runStart = some a from hrun]
  exact if_pos ⟨hmode, hdue⟩

end

/-! ### Ring pairs (R277, R294) -/

section
variable (s : State) (q seq : Nat) (r : JRec)

/-- RAD_L2_OPEN of a PHY that is not open, whose cells no other PHY has, answers the doorbell's offset. -/
theorem execRadL2Open_opens (h : Starts s q seq 0x0300 r) : let u := begun s q seq
    let n := r.par 0 1
    l2Ok u r = true → NMap.find? u.rad.phys n = none → (∀ e ∈ u.rad.phys, e.2.cells &&& BitVec.ofNat 192 (r.par 40 24) = 0) →
    let y : Phy := { entries := r.par 2 2, reqRing := r.par 8 8, indRing := r.par 16 8, msgBase := r.par 24 8, msgBytes := r.par 32 4
                     cells := BitVec.ofNat 192 (r.par 40 24), indTail := 0, indHead := 0, reqTail := 0, reqHead := 0, arrivals := [], closing := none }
    execRadL2Open q seq s = .next (finish { u with rad := { u.rad with phys := NMap.insert u.rad.phys n y } } q seq stOk
      (BitVec.ofNat 64 (phyDoorbell n))) := by
  intro u n hok hnone hcells y
  have hform : ¬(!l2Ok u r) = true := by simp [hok]
  have hclosed : ¬(NMap.find? u.rad.phys n).isSome = true := by simp [hnone]
  have hfree : ¬(u.rad.phys.any fun (e : Nat × Phy) => e.2.cells &&& BitVec.ofNat 192 (r.par 40 24) != 0) = true := by
    simpa only [List.any_eq_true, bne_iff_ne, ne_eq, not_exists, not_and, not_not] using hcells
  rw [execRadL2Open, withCmd_starts s q seq _ r _ h]
  exact congrArg Host.Outcome.next ((if_neg hform).trans ((if_neg hclosed).trans (if_neg hfree)))

/-- RAD_L2_CLOSE of an open PHY that is not closing stops its cells (R277; log 24). -/
theorem execRadL2Close_closes (p : Phy) (h : Starts s q seq 0x0301 r) : let u := begun s q seq
    let n := r.par 0 1
    NMap.find? u.rad.phys n = some p → r.params.length = 1 → p.closing = none →
    let v : State := { u with rad := { u.rad with phys := NMap.insert u.rad.phys n { p with closing := some (q, seq) } } }
    execRadL2Close q seq s = .next (settlePhy ((v.rad.cells.filter fun c => c.2.phy == some n && c.2.started).foldl (fun x c =>
      if c.2.active = true then modCell x c.1 fun y => { y with stopAt := some (firstSlotFrom x y (x.tkp.now + 10)), stopReason := 4 }
      else goOff x c.1 4 false) v) n) := by
  intro u n hp hl hopen v
  have hfree : ¬p.closing.isSome = true := by simp [hopen]
  rw [execRadL2Close, withCmd_starts s q seq _ r _ h]
  simp only [show NMap.find? (begun s q seq).rad.phys (r.par 0 1) = some p from hp, if_neg (not_not.mpr hl), if_neg hfree]
  rfl

end

/-- Settles O35: each request is the entry of its ring that is next, and its slot lies in the window; each event of a cell is due. -/
theorem fapiSlots : Obligations.FapiSlots := by
  unfold Obligations.FapiSlots
  intro s m cell first t q seq rest p r
  refine ⟨fun hbus harr hp hmine hcell hon hsfn hslot hlate => ⟨fun hfirst hlast hwindow hdeadline => ?slot, fun hid =>
      execTxDataRequest_inTime s p t rest hbus harr m hp hmine hcell hid hon hsfn hslot hlate⟩,
    ⟨execSlotRequestDeadline_lacks s cell first, execTxDataDeadline_reports s cell first, execCellActivate_due s cell,
      execCellStop_due s cell, execTwilightHoldExpiry_due s cell⟩, execRadL2Open_opens s q seq r, execRadL2Close_closes s q seq r p⟩
  case slot =>
    have htaken := fun id put hid => congrArg (Host.Outcome.next : State → Out)
      (slotRequest_taken s p t rest hbus harr m hp hmine hcell id put hid hon hsfn hslot hlate hfirst hlast hwindow hdeadline)
    exact ⟨htaken 0x80 _, htaken 0x81 _, htaken 0x83 _⟩

end Sys2Proof.Machine
end

section
/-!
PROOFS OF 14_watric_fabric.md. Flits, ports, write grants and FAB_XFER (R301 to R304, R310, R314, R330); requests at their target (R305 to
R331); responses, probes, retransmission and the issue of transfer-list entries at the sender (R306 to R324).
-/
namespace Sys2Proof.Machine

/-! ### Flits and ports (R301 to R304, R310) -/

section
variable (s : State) (port lane fseq fack ty errors : Nat) (rest : List Byte)

/-- FEC counts a flit that it has corrected. -/
def countCorrected (s : State) (errors : Nat) : State :=
  if 1 ≤ errors ∧ errors ≤ 6 then { s with fab := { s.fab with fecCorr := satAdd 32 s.fab.fecCorr 1 } } else s

/-- A flit passes FCRC. -/
def flitGood (fseq fack ty : Nat) (rest : List Byte) : Prop :=
  crc32c (flitHead fseq fack ty ++ rest.take 248) = BitVec.ofNat 32 (fieldAt rest 248 4)

section
variable (hup : (wport s port).state = 2) (hlane : lane < 4) (hrest : rest.length = 252)
include hup hlane hrest

/-- A flit that is uncorrectable or fails FCRC is dropped, counted and asked for again, up to the eighth try, which retrains the port. -/
theorem execFlitRx_bad (hbad : 6 < errors ∨ ¬flitGood fseq fack ty rest) :
    let w := wport s port
    let a := countCorrected s errors
    let c : State := { a with fab := { a.fab with retry := satAdd 16 a.fab.retry 1 } }
    execFlitRx port lane fseq fack ty rest errors s = .next (if 8 ≤ nextTry w.retryOf w.rxSeq then retrainPort c port
      else modPort c port fun x => askRetry { x with retryOf := some (w.rxSeq, nextTry w.retryOf w.rxSeq) }) := by
  have hcomes : ¬((wport s port).state ≠ 2 ∨ 4 ≤ lane ∨ rest.length ≠ 252) := by omega
  exact (if_neg hcomes).trans (if_pos hbad)

section
variable (herrors : errors ≤ 6) (hgood : flitGood fseq fack ty rest)
include herrors hgood

/-- A good flit advances the link or is a retry request. -/
theorem execFlitRx_good :
    let w := wport s port
    let a := countCorrected s errors
    let body := rest.take 248
    let f := (fack + 1) % 4096
    let k := (fseq + 4096 - w.rxSeq) % 4096
    execFlitRx port lane fseq fack ty rest errors s =
      if ty = 2 then .next (if 8 ≤ nextTry w.resendOf f ∨ !w.store.any (fun e => e.1 == f) then retrainPort a port
        else modPort a port fun x => resend { x with resendOf := some (f, nextTry w.resendOf f) } f)
      else if ty = 1 ∨ ty = 3 then .next (if k = 0 then modPort a port fun x => takeAhead 512 (takeFlit x body)
        else if k < 512 then modPort a port fun x => { x with ahead := NMap.insert x.ahead fseq body } else a)
      else .next a := by
  have hcomes : ¬((wport s port).state ≠ 2 ∨ 4 ≤ lane ∨ rest.length ≠ 252) := by omega
  have hpasses : ¬(6 < errors ∨ ¬flitGood fseq fack ty rest) := not_or.mpr ⟨Nat.not_lt.mpr herrors, not_not.mpr hgood⟩
  exact (if_neg hcomes).trans (if_neg hpasses)

section
variable (hty : ty = 1 ∨ ty = 3)
include hty

/-- A data or link-control flit in order is taken with those that came ahead of it. -/
theorem execFlitRx_inOrder (hseq : fseq = (wport s port).rxSeq) : execFlitRx port lane fseq fack ty rest errors s =
    .next (modPort (countCorrected s errors) port fun x => takeAhead 512 (takeFlit x (rest.take 248))) := by
  have hnext : (fseq + 4096 - (wport s port).rxSeq) % 4096 = 0 := by omega
  have hdata : ¬ty = 2 := by omega
  exact (execFlitRx_good s port lane fseq fack ty errors rest hup hlane hrest herrors hgood).trans
    ((if_neg hdata).trans ((if_pos hty).trans (congrArg Host.Outcome.next (if_pos hnext))))

/-- One that comes ahead waits. -/
theorem execFlitRx_ahead (hahead : 0 < (fseq + 4096 - (wport s port).rxSeq) % 4096) (hnear : (fseq + 4096 - (wport s port).rxSeq) % 4096 < 512) :
    execFlitRx port lane fseq fack ty rest errors s =
      .next (modPort (countCorrected s errors) port fun x => { x with ahead := NMap.insert x.ahead fseq (rest.take 248) }) := by
  have hdata : ¬ty = 2 := by omega
  exact (execFlitRx_good s port lane fseq fack ty errors rest hup hlane hrest herrors hgood).trans
    ((if_neg hdata).trans ((if_pos hty).trans (congrArg Host.Outcome.next ((if_neg (by omega)).trans (if_pos hnear)))))

end

/-- A retry request for a stored flit sends it and every later one again. -/
theorem execFlitRx_resend (hty : ty = 2) :
    let w := wport s port
    let f := (fack + 1) % 4096
    nextTry w.resendOf f < 8 → (∃ z ∈ w.store, z.1 = f) → execFlitRx port lane fseq fack ty rest errors s =
      .next (modPort (countCorrected s errors) port fun x => resend { x with resendOf := some (f, nextTry w.resendOf f) } f) := by
  intro w f htries hstored
  have hany : w.store.any (fun e => e.1 == f) = true := List.any_eq_true.mpr (hstored.imp fun z hz => ⟨hz.1, beq_iff_eq.mpr hz.2⟩)
  have hserved : ¬(8 ≤ nextTry w.resendOf f ∨ !w.store.any (fun e => e.1 == f)) := by
    rw [hany]
    simpa using htries
  exact (execFlitRx_good s port lane fseq fack ty errors rest hup hlane hrest herrors hgood).trans
    ((if_pos hty).trans (congrArg Host.Outcome.next (if_neg hserved)))

end
end
end

/-- A write grant of 800 ticks is removed. -/
theorem execWriteGrantExpiry_old (s : State) (e : Nat) (g : Grant) (hg : NMap.find? s.fab.grants e = some g) (hold : g.offered + 800 ≤ s.tkp.now) :
    execWriteGrantExpiry e s = .next { s with fab := { s.fab with grants := NMap.erase s.fab.grants e } } := by
  rw [execWriteGrantExpiry, hg]
  exact if_pos hold

/-- A FAB_XFER with a well-formed list puts it behind those of its port (R314; log 23). -/
theorem execFabXfer_wellFormed (s : State) (q seq : Nat) (r : JRec) :
    let u := begun s q seq
    let n := r.par 8 2
    let ctx := (sliceOfRec u r).bind (servingCtx u)
    Starts s q seq 0x0410 r → 1 ≤ n → n ≤ 1024 → r.params.length = 40 + 32 * n → r.par 0 1 ≤ 7 → r.zeros 1 7 = true → r.zeros 12 4 = true →
    r.zeros 32 8 = true → usableRange u (r.par 16 8) (2 * n) = true → usableRange u (r.par 24 8) 8 = true → (r.pasid ≠ none → ctx ≠ none) →
    execFabXfer q seq s = .next (pushList u (r.par 0 1)
      { num := 0, sync := none, slice := (sliceOfRec u r).getD 64, context := ctx, statusPtr := r.par 16 8, donePtr := r.par 24 8
        entries := (List.range n).map fun i => entryOfBytes ((r.params.drop (40 + 32 * i)).take 32), next := 0, fenceN := none
        status := List.replicate n none, cmd := some (q, seq) }) := by
  intro u n ctx hstart hone hmax hlen hport hzero hzero' hzero'' hstatus hdone hctx
  have hfields : ¬(r.params.length < 40 ∨ n = 0 ∨ 1024 < n ∨ r.params.length ≠ 40 + 32 * n ∨ 7 < r.par 0 1 ∨ !r.zeros 1 7 ∨ !r.zeros 12 4 ∨
      !r.zeros 32 8 ∨ !usableRange u (r.par 16 8) (2 * n) ∨ !usableRange u (r.par 24 8) 8) := by
    simp only [hzero, hzero', hzero'', hstatus, hdone, Bool.not_true, Bool.false_eq_true, or_false]
    omega
  have hcontext : ¬((r.pasid.isSome && ctx.isNone) = true) := by
    simpa [Option.isSome_iff_ne_none] using hctx
  rw [execFabXfer, withCmd_starts s q seq _ r _ hstart]
  exact congrArg Host.Outcome.next ((if_neg hfields).trans (if_neg fun h => hcontext (Bool.and_eq_true_iff.mpr h)))

/-- Settles O31, event by event. -/
theorem portsAndTransfers : Obligations.PortsAndTransfers := by
  unfold Obligations.PortsAndTransfers
  intro s port lane fseq fack ty errors e q seq rest r w
  refine ⟨?_, fun htrains => if_pos htrains, execWriteGrantExpiry_old s e, execFabXfer_wellFormed s q seq r⟩
  intro hup hlane hrest a body f
  refine ⟨fun herrors hgood => ⟨fun hty => ⟨?_, ?_⟩, ?_⟩, ?_⟩
  · exact execFlitRx_inOrder s port lane fseq fack ty errors rest hup hlane hrest herrors hgood hty
  · exact execFlitRx_ahead s port lane fseq fack ty errors rest hup hlane hrest herrors hgood hty
  · exact execFlitRx_resend s port lane fseq fack ty errors rest hup hlane hrest herrors hgood
  · exact execFlitRx_bad s port lane fseq fack ty errors rest hup hlane hrest

end Sys2Proof.Machine
end

section
namespace Sys2Proof.Machine

/-! ### Requests at their target: ingress, checks and effects (R305, R307, R318, R322, R323, R327) -/

/-- A packet of its opcode that ingress does not drop goes on. -/
theorem ingress_passes (s : State) (port : Nat) (p : Packet) (op : Nat) (k : State → State) (hup : (wport s port).state = 2)
    (hpart : inPartition s p.src = true) (hcrc : p.ecrc = packetCrc p) (hop : p.op = op) : ingress s port p op k = k s :=
  (if_neg (not_not.mpr hup)).trans ((if_neg (by simp [hpart])).trans ((if_neg (not_not.mpr hcrc.symm)).trans (if_neg (not_not.mpr hop))))

/-- So does a request whose protection mode agrees. -/
theorem reqIngress_passes (s : State) (port : Nat) (p : Packet) (op : Nat) (k : State → State) (hup : (wport s port).state = 2)
    (hpart : inPartition s p.src = true) (hcrc : p.ecrc = packetCrc p) (hprot : p.prot = s.fab.prot) (hop : p.op = op) :
    reqIngress s port p op k = k s :=
  (ingress_passes s port p op _ hup hpart hcrc hop).trans (if_neg (not_not.mpr hprot))

section
variable (s : State) (p : Packet)

/-- OK is not DENIED. -/
theorem stOk_ne_stDenied : ¬stOk = stDenied := by decide

/-- The state after the atomic that a packet asks for. -/
def atomicDone (s : State) (p : Packet) : State :=
  let a := p.addr % 2 ^ 40
  let n := pktSpan p
  (devWrite s a (leBytes n (atomicNew (8 * n) (fieldAt p.payload 0 1 % 8) (devNat s a n) (fieldAt p.payload 8 n) (fieldAt p.payload 16 n)))).1

/-- The value that stood where a packet's atomic acts. -/
def atomicPrior (s : State) (p : Packet) : Nat := devNat s (p.addr % 2 ^ 40) (pktSpan p)

/-- The state after the cells of a packet's ACC_L are added. -/
def accDone (s : State) (p : Packet) : State :=
  let a := p.addr % 2 ^ 40
  (devWrite s a ((List.range (p.payload.length / 32)).map fun i =>
    accCell (devRead s (a + 32 * i) 32) ((p.payload.drop (32 * i)).take 32)).flatten).1

/-- A message put into the inbox of its source. -/
def inboxed (s : State) (p : Packet) : State :=
  { s with fab := { s.fab with inbox := NMap.insert s.fab.inbox p.src (NMap.getD s.fab.inbox p.src [] ++ [p]) } }

section
variable (hcheck : memCheck s p = stOk)
include hcheck

/-- A request to memory that the checks pass takes effect by its opcode. -/
theorem applyMem_checked : applyMem s p =
    let a := p.addr % 2 ^ 40
    if p.op = 0x10 then (s, ⟨stOk, viewRead s a (pktSpan p), 0⟩)
    else if p.op = 0x11 then
      let w := devWrite s a p.payload
      if w.2 then (w.1, ⟨stOk, [], 0⟩) else (recordUncorrected w.1 a (pktSpan p), ⟨stDeviceFault, [], 0⟩)
    else if p.op = 0x12 then (atomicDone s p, ⟨stOk, leBytes 8 (atomicPrior s p), BitVec.ofNat 64 (atomicPrior s p)⟩)
    else (accDone s p, ⟨stOk, [], 0⟩) := by
  have hserves : ¬memCheck s p = stDeviceFault := by rw [hcheck]; decide
  exact (if_neg hserves).trans (if_neg (not_not.mpr hcheck))

/-- A LOAD reads its bytes. -/
theorem applyReq_load (hop : p.op = 0x10) : applyReq s p = (s, ⟨stOk, viewRead s (p.addr % 2 ^ 40) p.len, 0⟩) := by
  have hmem : ¬p.op = 0x14 := by omega
  have hatomic : ¬p.op = 0x12 := by omega
  have hspan : pktSpan p = p.len := (if_neg hatomic).trans (if_pos hop)
  have happly : applyMem s p = (s, ⟨stOk, viewRead s (p.addr % 2 ^ 40) p.len, 0⟩) := by
    rw [applyMem_checked s p hcheck, ← hspan]
    exact if_pos hop
  rw [applyReq, if_neg hmem, happly]
  exact if_neg stOk_ne_stDenied

/-- A STORE writes its payload. -/
theorem applyReq_store (hop : p.op = 0x11) (hwrites : (devWrite s (p.addr % 2 ^ 40) p.payload).2 = true) :
    applyReq s p = ((devWrite s (p.addr % 2 ^ 40) p.payload).1, ⟨stOk, [], 0⟩) := by
  have hmem : ¬p.op = 0x14 := by omega
  have happly : applyMem s p = ((devWrite s (p.addr % 2 ^ 40) p.payload).1, ⟨stOk, [], 0⟩) :=
    (applyMem_checked s p hcheck).trans ((if_neg (by omega)).trans ((if_pos hop).trans (if_pos hwrites)))
  rw [applyReq, if_neg hmem, happly]
  exact if_neg stOk_ne_stDenied

/-- An ATOMIC writes its new value and answers the one that stood there. -/
theorem applyReq_atomic (hop : p.op = 0x12) :
    applyReq s p = (atomicDone s p, ⟨stOk, leBytes 8 (atomicPrior s p), BitVec.ofNat 64 (atomicPrior s p)⟩) := by
  have hmem : ¬p.op = 0x14 := by omega
  have happly : applyMem s p = (atomicDone s p, ⟨stOk, leBytes 8 (atomicPrior s p), BitVec.ofNat 64 (atomicPrior s p)⟩) :=
    (applyMem_checked s p hcheck).trans ((if_neg (by omega)).trans ((if_neg (by omega)).trans (if_pos hop)))
  rw [applyReq, if_neg hmem, happly]
  exact if_neg stOk_ne_stDenied

/-- An ACC_L adds its cells. -/
theorem applyReq_acc (hop : p.op = 0x13) : applyReq s p = (accDone s p, ⟨stOk, [], 0⟩) := by
  have hmem : ¬p.op = 0x14 := by omega
  have happly : applyMem s p = (accDone s p, ⟨stOk, [], 0⟩) :=
    (applyMem_checked s p hcheck).trans ((if_neg (by omega)).trans ((if_neg (by omega)).trans (if_neg (by omega))))
  rw [applyReq, if_neg hmem, happly]
  exact if_neg stOk_ne_stDenied

end

/-- A refusal DENIED is counted. -/
def refusedFrom (s : State) (st : Nat) : State :=
  if st = stDenied then { s with fab := { s.fab with denied := satAdd 32 s.fab.denied 1 } } else s

/-- A request that the checks refuse changes no memory. -/
theorem applyReq_refused (st : Nat) (hmem : p.op ≠ 0x14) (hcheck : memCheck s p = st) (hbad : st ≠ stOk) (hserves : st ≠ stDeviceFault) :
    applyReq s p = (refusedFrom s st, ⟨st, [], 0⟩) := by
  have happly : applyMem s p = (s, ⟨st, [], 0⟩) := by
    subst hcheck
    exact (if_neg hserves).trans (if_pos hbad)
  rw [applyReq, if_neg hmem, happly, refusedFrom]
  split <;> rfl

/-- A MSG of a class that firmware has is delivered to the inbox of its source. -/
theorem applyReq_msg (hop : p.op = 0x14) (hmin : 8 ≤ p.payload.length) (hmax : p.payload.length ≤ 4096) (hzero : fieldAt p.payload 2 2 = 0)
    (hhead : headOk p = true) (htag : p.jobTag = 0) (hclass : fieldAt p.payload 0 2 ∈ msgClasses) (hroom : (NMap.getD s.fab.inbox p.src []).length < 64) :
    applyReq s p = (inboxed s p, ⟨stOk, [], 0⟩) := by
  have hshape : ¬(p.payload.length < 8 ∨ 4096 < p.payload.length ∨ fieldAt p.payload 2 2 ≠ 0 ∨ !headOk p) := by
    simp only [hhead, Bool.not_true, Bool.false_eq_true, or_false]
    omega
  have hallowed : ¬(p.jobTag ≠ 0 ∨ !msgClasses.contains (fieldAt p.payload 0 2)) := by simp [htag, hclass]
  have happly : applyMsg s p = (inboxed s p, ⟨stOk, [], 0⟩) :=
    (if_neg hshape).trans ((if_neg hallowed).trans (if_neg (Nat.not_le.mpr hroom)))
  rw [applyReq, if_pos hop, happly]
  exact if_neg stOk_ne_stDenied

end

/-! ### The answer to a request (R308, R311) -/

section
variable (s : State) (p : Packet) (r : Answer)

/-- A response of its status to a refused request. -/
theorem answerPkt_refused (hbad : r.status ≠ stOk) : answerPkt s p r = sendResp s (respPacket s p 0x21 r.status 0 []) := if_pos hbad

/-- An OK response to a LOAD. -/
theorem answerPkt_load (hok : r.status = stOk) (hop : p.op = 0x10) : answerPkt s p r = sendResp s (respPacket s p 0x22 stOk 0 r.data) :=
  (if_neg (not_not.mpr hok)).trans (if_pos hop)

/-- An OK response to an ATOMIC. -/
theorem answerPkt_atomic (hok : r.status = stOk) (hop : p.op = 0x12) : answerPkt s p r = sendResp s (respPacket s p 0x23 stOk 0 r.data) :=
  (if_neg (not_not.mpr hok)).trans ((if_neg (by omega)).trans (if_pos hop))

/-- An OK response to a combined ACC_L. -/
theorem answerPkt_acc (hok : r.status = stOk) (hop : p.op = 0x13) (hcomb : p.comb = true) :
    answerPkt s p r = sendAck s p.src p.psn p.psn p.path true p.epoch := by
  rw [← hcomb]
  exact (if_neg (not_not.mpr hok)).trans ((if_neg (by omega)).trans (if_neg (by omega)))

end

/-! ### The request that is next in its stream (R311, R313) -/

section
variable (s : State) (p : Packet)

/-- An outcome in the replay window of a packet's stream. -/
def outcomeNoted (p : Packet) (u : State) (st : Nat) (v : W64) : State :=
  setRx u p.src { rxAt u p.src with window := ((p.psn, st, v) :: (rxAt u p.src).window).take 256 }

/-- The stream of a packet moved on to the next PSN. -/
def movedOn (p : Packet) (u : State) : State := setRx u p.src { rxAt u p.src with expect := (p.psn + 1) % 2 ^ 32 }

/-- A packet answered by its own response, which ends the run of its stream. -/
def answeredBy (p : Packet) (u : State) (op st : Nat) (d : List Byte) : State :=
  let v := movedOn p u
  let y := setRx v p.src { rxAt v p.src with grows := false }
  sendResp y (respPacket y p op st 0 d)

section
variable (hfresh : launch s ≤ p.stamp + 10000)
include hfresh

/-- A request that is not too old is fresh. -/
theorem tooOld_fresh : tooOld s p = false := decide_eq_false (by omega)

/-- The next request that is not too old takes its effect, its outcome is noted, and it joins the run of its stream or ends it. -/
theorem applyNext_fresh (r : State × Answer) (w : State) (joins : Bool) (happly : applyReq s p = r) (hnote : recordOutcome r.1 p r.2 = w)
    (hjoins : decide (r.2.status = stOk ∧ p.op ≠ 0x10 ∧ p.op ≠ 0x12) = joins) :
    applyNext s p = if joins = true then runWith (movedOn p w) p joins else answerPkt (runWith (movedOn p w) p joins) p r.2 := by
  subst happly hnote hjoins
  rw [applyNext, tooOld_fresh s p hfresh]
  rfl

/-- A LOAD answered by its bytes. -/
theorem applyNext_load (u : State) (d : List Byte) (v : W64) (hop : p.op = 0x10) (happly : applyReq s p = (u, ⟨stOk, d, v⟩)) :
    applyNext s p = answeredBy p u 0x22 stOk d := by
  have hnote : recordOutcome u p ⟨stOk, d, v⟩ = u := if_neg (by simp [hop])
  have halone : decide (stOk = stOk ∧ p.op ≠ 0x10 ∧ p.op ≠ 0x12) = false := decide_eq_false (by simp [hop])
  exact (applyNext_fresh s p hfresh _ u false happly hnote halone).trans (answerPkt_load _ p ⟨stOk, d, v⟩ rfl hop)

/-- An ATOMIC answered by the value that stood there, its outcome noted. -/
theorem applyNext_atomic (u : State) (d : List Byte) (v : W64) (hop : p.op = 0x12) (happly : applyReq s p = (u, ⟨stOk, d, v⟩)) :
    applyNext s p = answeredBy p (outcomeNoted p u stOk v) 0x23 stOk d := by
  have hnote : recordOutcome u p ⟨stOk, d, v⟩ = outcomeNoted p u stOk v := if_pos (Or.inr hop)
  have halone : decide (stOk = stOk ∧ p.op ≠ 0x10 ∧ p.op ≠ 0x12) = false := decide_eq_false (by simp [hop])
  exact (applyNext_fresh s p hfresh _ _ false happly hnote halone).trans (answerPkt_atomic _ p ⟨stOk, d, v⟩ rfl hop)

/-- A refused request answered by its status, which is noted. -/
theorem applyNext_refused (u : State) (st : Nat) (hbad : st ≠ stOk) (happly : applyReq s p = (u, ⟨st, [], 0⟩)) :
    applyNext s p = answeredBy p (outcomeNoted p u st 0) 0x21 st [] := by
  have hnote : recordOutcome u p ⟨st, [], 0⟩ = outcomeNoted p u st 0 := if_pos (Or.inl hbad)
  have halone : decide (st = stOk ∧ p.op ≠ 0x10 ∧ p.op ≠ 0x12) = false := decide_eq_false fun h => hbad h.1
  exact (applyNext_fresh s p hfresh _ _ false happly hnote halone).trans (answerPkt_refused _ p _ hbad)

/-- A request without data of its own that ends OK joins the run of its stream. -/
theorem applyNext_joins (u : State) (hload : p.op ≠ 0x10) (hatomic : p.op ≠ 0x12) (happly : applyReq s p = (u, ⟨stOk, [], 0⟩)) :
    applyNext s p = runWith (movedOn p u) p true := by
  have hnote : recordOutcome u p ⟨stOk, [], 0⟩ = u := if_neg (by simp [hatomic])
  exact applyNext_fresh s p hfresh _ u true happly hnote (decide_eq_true ⟨rfl, hload, hatomic⟩)

end
end

/-! ### Requests at a port that passes them -/

section
variable (s : State) (port : Nat) (p : Packet) (op : Nat) (hup : (wport s port).state = 2) (hpart : inPartition s p.src = true)
  (hcrc : p.ecrc = packetCrc p) (hprot : p.prot = s.fab.prot) (hop : p.op = op)
include hup hpart hcrc hprot hop

/-- The uncombined request that is next in its stream is applied, and then what the buffer holds. -/
theorem targetReq_next (hcomb : p.comb = false) (hlost : (rxAt s p.src).lost = false) (hepoch : p.epoch = (rxAt s p.src).epoch)
    (hpsn : p.psn = (rxAt s p.src).expect) (hbuf : NMap.find? (rxAt s p.src).buf p.psn = none) :
    targetReq s port p op = drainBuf 1024 (applyNext s p) p.src :=
  (reqIngress_passes s port p op _ hup hpart hcrc hprot hop).trans
    ((if_neg (ne_true_of_eq_false hcomb)).trans (streamReq_next s port p hepoch hpsn hbuf hlost))

/-- A combined request is taken by the window of its port. -/
theorem targetReq_comb (hcomb : p.comb = true) : targetReq s port p op = combReq s port p :=
  (reqIngress_passes s port p op _ hup hpart hcrc hprot hop).trans (if_pos hcomb)

end

/-! ### Combined requests (R325) -/

section
variable (s : State) (port : Nat) (p : Packet)

/-- An answer kept in the window of a port. -/
def answerKept (port : Nat) (p : Packet) (u : State) (v : W64) (d : List Byte) : State :=
  modPort u port fun y => { y with comb := ((p.src, p.psn, stOk, v, d) :: y.comb).take 256 }

/-- The entry of a port's window for a combined request. -/
def combHeld (s : State) (port : Nat) (p : Packet) : Option (Nat × Nat × Nat × W64 × List Byte) :=
  (wport s port).comb.find? fun c => c.1 == p.src && c.2.1 == p.psn

section
variable (hnone : combHeld s port p = none)
include hnone

/-- A combined request that the window does not hold is applied, and its answer is kept. -/
theorem combReq_new (hfresh : launch s ≤ p.stamp + 10000) (hfirst : p.retry = false) (u : State) (d : List Byte) (v : W64)
    (happly : applyReq s p = (u, ⟨stOk, d, v⟩)) : combReq s port p = answerPkt (answerKept port p u v d) p ⟨stOk, d, v⟩ := by
  have hnew : ¬(tooOld s p ∨ p.retry) := by simp [tooOld_fresh s p hfresh, hfirst]
  simp only [combReq, show (wport s port).comb.find? (fun c => c.1 == p.src && c.2.1 == p.psn) = none from hnone, if_neg hnew, happly]
  rfl

/-- A retry that the window does not hold, and one that is too old, is STALE. -/
theorem combReq_stale (hold : p.retry = true ∨ ¬launch s ≤ p.stamp + 10000) :
    combReq s port p = sendResp (countStale s) (respPacket (countStale s) p 0x21 stStale 0 []) := by
  have hstale : tooOld s p = true ∨ p.retry = true :=
    hold.symm.imp_left fun h => decide_eq_true (by omega)
  simp only [combReq, show (wport s port).comb.find? (fun c => c.1 == p.src && c.2.1 == p.psn) = none from hnone, if_pos hstale]
  exact answerPkt_refused _ p _ (by decide)

end

/-- A combined request that the window holds is answered from it. -/
theorem combReq_held (k : Nat × Nat × Nat × W64 × List Byte) (hheld : combHeld s port p = some k) :
    combReq s port p = answerPkt s p ⟨k.2.2.1, k.2.2.2.2, k.2.2.2.1⟩ := by
  simp only [combReq, show (wport s port).comb.find? (fun c => c.1 == p.src && c.2.1 == p.psn) = some k from hheld]

end

/-! ### EPOCH and the acknowledgement of a run (R311, R313) -/

/-- EPOCH clears the stream, sets its epoch and is acknowledged for PSN 0. -/
theorem execEpoch_passes (s : State) (port : Nat) (p : Packet) (hup : (wport s port).state = 2) (hpart : inPartition s p.src = true)
    (hcrc : p.ecrc = packetCrc p) (hprot : p.prot = s.fab.prot) (hop : p.op = 0x31) :
    execEpoch port p s = .next (sendAck (setRx s p.src { epoch := fieldAt p.payload 0 1 }) p.src 0 0 p.path false (fieldAt p.payload 0 1)) :=
  congrArg Host.Outcome.next (reqIngress_passes s port p 0x31 _ hup hpart hcrc hprot hop)

/-- ACK_TIMER acknowledges a run 10 beats after its first request. -/
theorem execAckTimer_run (s : State) (src : Nat) (h : AckRun) (hruns : (rxAt s src).runs = [h]) (hold : h.at_ + 10 ≤ launch s) :
    execAckTimer src s =
      .next (sendAck (setRx s src { rxAt s src with runs := [], grows := false }) src h.first h.last h.path false (rxAt s src).epoch) := by
  simp only [execAckTimer, flushRuns, hruns, List.head?_cons, List.filter_cons, List.filter_nil, hold, decide_true, if_true, Bool.not_true,
    Bool.and_false, Bool.false_eq_true, if_false, List.reverse_cons, List.reverse_nil, List.nil_append, List.foldl_cons, List.foldl_nil]

/-- Settles O36: each request at a port that passes it, by the rule of its kind. -/
theorem fabricRequests : Obligations.FabricRequests := by
  unfold Obligations.FabricRequests
  intro s port src p k h a x n prior fresh added summed noted moved answered joined refused kept
  refine ⟨fun hup hpart hcrc hprot => ⟨fun hcomb hlost hepoch hpsn _ hbuf hfresh => ?_, fun hcomb => ?_,
    execEpoch_passes s port p hup hpart hcrc hprot⟩, execAckTimer_run s src h⟩
  · have hnext : ∀ op u, p.op = op → applyNext s p = u → targetReq s port p op = drainBuf 1024 u p.src := fun op u hop happly =>
      (targetReq_next s port p op hup hpart hcrc hprot hop hcomb hlost hepoch hpsn hbuf).trans (congrArg (drainBuf 1024 · p.src) happly)
    refine ⟨fun hcheck => ⟨fun hop => ?_, fun hop hwrites => ?_, fun hop => ?_, fun hop => ?_⟩, fun st hcheck hbad hserves => ?_, ?_⟩
    · exact congrArg Host.Outcome.next (hnext _ _ hop (applyNext_load s p hfresh _ _ _ hop (applyReq_load s p hcheck hop)))
    · exact congrArg Host.Outcome.next
        (hnext _ _ hop (applyNext_joins s p hfresh _ (by omega) (by omega) (applyReq_store s p hcheck hop hwrites)))
    · exact congrArg Host.Outcome.next (hnext _ _ hop (applyNext_atomic s p hfresh _ _ _ hop (applyReq_atomic s p hcheck hop)))
    · exact congrArg Host.Outcome.next (hnext _ _ hop (applyNext_joins s p hfresh _ (by omega) (by omega) (applyReq_acc s p hcheck hop)))
    · have hrefused := fun hmem => applyNext_refused s p hfresh _ st hbad (applyReq_refused s p st hmem hcheck hbad hserves)
      exact ⟨fun hop => congrArg Host.Outcome.next (hnext _ _ hop (hrefused (by omega))),
        fun hop => congrArg Host.Outcome.next (hnext _ _ hop (hrefused (by omega))),
        fun hop => congrArg Host.Outcome.next (hnext _ _ hop (hrefused (by omega))),
        fun hop => congrArg Host.Outcome.next (hnext _ _ hop (hrefused (by omega)))⟩
    · intro hop hmin hmax hzero hhead htag hclass hroom
      have happly := applyNext_joins s p hfresh _ (by omega) (by omega) (applyReq_msg s p hop hmin hmax hzero hhead htag hclass hroom)
      exact congrArg Host.Outcome.next ((reqIngress_passes s port p 0x14 _ hup hpart hcrc hprot hop).trans
        ((streamReq_next s port p hepoch hpsn hbuf hlost).trans (congrArg (drainBuf 1024 · p.src) happly)))
  · have htarget : ∀ op u, p.op = op → combReq s port p = u → targetReq s port p op = u := fun op u hop hreq =>
      (targetReq_comb s port p op hup hpart hcrc hprot hop hcomb).trans hreq
    refine ⟨fun hnone hfresh hfirst hcheck => ⟨fun hop => ?_, fun hop => ?_, fun hop => ?_⟩, fun hnone hold => ?_, fun hheld hok => ?_⟩
    · exact congrArg Host.Outcome.next (htarget _ _ hop ((combReq_new s port p hnone hfresh hfirst _ _ _ (applyReq_load s p hcheck hop)).trans
        (answerPkt_load _ p _ rfl hop)))
    · exact congrArg Host.Outcome.next (htarget _ _ hop ((combReq_new s port p hnone hfresh hfirst _ _ _ (applyReq_atomic s p hcheck hop)).trans
        (answerPkt_atomic _ p _ rfl hop)))
    · exact congrArg Host.Outcome.next (htarget _ _ hop ((combReq_new s port p hnone hfresh hfirst _ _ _ (applyReq_acc s p hcheck hop)).trans
        (answerPkt_acc _ p _ rfl hop hcomb)))
    · have hstale := combReq_stale s port p hnone hold
      exact ⟨fun hop => congrArg Host.Outcome.next (htarget _ _ hop hstale), fun hop => congrArg Host.Outcome.next (htarget _ _ hop hstale),
        fun hop => congrArg Host.Outcome.next (htarget _ _ hop hstale)⟩
    · have hwindow := combReq_held s port p k hheld
      exact ⟨fun hop => congrArg Host.Outcome.next (htarget _ _ hop (hwindow.trans (answerPkt_load s p _ hok hop))),
        fun hop => congrArg Host.Outcome.next (htarget _ _ hop (hwindow.trans (answerPkt_atomic s p _ hok hop))),
        fun hop => congrArg Host.Outcome.next (htarget _ _ hop (hwindow.trans (answerPkt_acc s p _ hok hop hcomb)))⟩

end Sys2Proof.Machine
end

section
namespace Sys2Proof.Machine

/-! ### Responses and probes at the sender (R306, R310, R318, R320) -/

section
variable (s : State) (port : Nat) (p : Packet)

/-- The requests of a packet's stream that a test names have ended, its path is alive, and what waited for credit has gone out. -/
def responded (s : State) (port : Nat) (p : Packet) (t : OutReq → Bool) (st : OutReq → Nat) (bs : List Byte) : State :=
  tryFences (pump (endReqs (pathAlive s p.src port p.path) p.src
    (fun o => o.pkt.comb == p.comb && (p.comb || o.pkt.epoch == p.epoch) && t o) st bs) p.src)

/-- An update of a path set is told by what it makes of the paths that stand there. -/
theorem modPaths_congr (d : Nat) (f g : List Path → List Path) (h : f (pathsOf s d) = g (pathsOf s d)) : modPaths s d f = modPaths s d g := by
  have hpaths : NMap.adjust s.fab.paths d f = NMap.adjust s.fab.paths d g := by
    unfold pathsOf NMap.getD at h
    unfold NMap.adjust
    cases hfind : NMap.find? s.fab.paths d with
    | none => rfl
    | some ps =>
      rw [hfind, Option.getD_some] at h
      exact congrArg (NMap.insert s.fab.paths d) h
  rw [modPaths, hpaths, modPaths]

/-- Where a path of the set has the index and the port, only such paths are the one on which a packet has come in. -/
theorem pathIs_of_mem (ps : List Path) (ix : Nat) (z : Path) (hz : z ∈ ps) (hix : z.index = ix) (hport : z.port = port) (q : Path) :
    pathIs ps port ix q = true ↔ q.index = ix ∧ q.port = port := by
  have hany : ps.any (fun q => q.index == ix && q.port == port) = true := List.any_eq_true.mpr ⟨z, hz, by simp [hix, hport]⟩
  simp [pathIs, hany]

section
variable (hup : (wport s port).state = 2) (hpart : inPartition s p.src = true) (hcrc : p.ecrc = packetCrc p)
include hup hpart hcrc

/-- A response that ingress passes ends the requests it names. -/
theorem response_passes (op : Nat) (t : OutReq → Bool) (st : OutReq → Nat) (bs : List Byte) (hop : p.op = op) :
    response s port p op t st bs = responded s port p t st bs :=
  ingress_passes s port p op _ hup hpart hcrc hop

/-- An ACK, with no EPOCH that awaits its own, ends the requests of its run. -/
theorem execAck_run (hop : p.op = 0x20) (hask : (txAt s p.src).epochAsk = none) :
    execAck port p s = .next (responded s port p (fun o => o.pkt.op != 0x10 && o.pkt.op != 0x12 &&
      inRun (p.addr % 2 ^ 32) (p.addr / 2 ^ 32 % 2 ^ 32) o.pkt.psn) (fun _ => stOk) []) := by
  have hno : ¬((txAt s p.src).epochAsk.isSome = true ∧ p.op = 0x20 ∧ (!p.comb) = true) := by simp [hask]
  exact (if_neg hno).trans (congrArg Host.Outcome.next (response_passes s port p hup hpart hcrc _ _ _ _ hop))

/-- ATOMIC_DATA ends its atomic with the prior value of its width. -/
theorem execAtomicData_found (o : OutReq) (hop : p.op = 0x23)
    (hfind : (txAt s p.src).outst.find? (fun o => o.pkt.op == 0x12 && o.pkt.psn == p.psn) = some o) :
    execAtomicData port p s = .next (responded s port p (fun o => o.pkt.op == 0x12 && o.pkt.psn == p.psn) (fun _ => stOk)
      (p.payload.take (pktSpan o.pkt))) := by
  simp only [execAtomicData, hfind]
  exact congrArg Host.Outcome.next (response_passes s port p hup hpart hcrc _ _ _ _ hop)

section
variable (hop : p.op = 0x30)
include hop

/-- A probe on a path that this device has probed makes the path of its port and index healthy. -/
theorem execProbe_answer (hprobed : ∃ z ∈ pathsOf s p.src, z.index = p.path ∧ z.port = port ∧ z.probed = true) :
    execProbe port p s = .next (pump (modPaths s p.src fun ps =>
      ps.map fun z => if z.index = p.path ∧ z.port = port then { z with fails := 0, down := false, probed := false } else z) p.src) := by
  obtain ⟨z, hz, hix, hport, hask⟩ := hprobed
  have hpath := pathIs_of_mem port (pathsOf s p.src) p.path z hz hix hport
  have hany : ((pathsOf s p.src).any fun q => pathIs (pathsOf s p.src) port p.path q && q.probed) = true :=
    List.any_eq_true.mpr ⟨z, hz, Bool.and_eq_true_iff.mpr ⟨(hpath z).mpr ⟨hix, hport⟩, hask⟩⟩
  refine congrArg Host.Outcome.next ((ingress_passes s port p 0x30 _ hup hpart hcrc hop).trans ((if_pos hany).trans ?_))
  refine congrArg (pump · p.src) (modPaths_congr s p.src _ _ (List.map_congr_left fun q _ => ?_))
  simp only [hpath q]

/-- Any other probe is answered by a probe on the same path. -/
theorem execProbe_other (hnone : ∀ z ∈ pathsOf s p.src, z.index = p.path → z.probed = false) :
    execProbe port p s = .next (sendResp s (respPacket s p 0x30 0 0 [])) := by
  have hany : ¬((pathsOf s p.src).any fun q => pathIs (pathsOf s p.src) port p.path q && q.probed) = true := by
    intro h
    obtain ⟨z, hz, hask⟩ := List.any_eq_true.mp h
    obtain ⟨hpath, hprobed⟩ := Bool.and_eq_true_iff.mp hask
    have hix : z.index = p.path := beq_iff_eq.mp (Bool.and_eq_true_iff.mp hpath).1
    exact Bool.false_ne_true ((hnone z hz hix).symm.trans hprobed)
  exact congrArg Host.Outcome.next ((ingress_passes s port p 0x30 _ hup hpart hcrc hop).trans (if_neg hany))

end
end
end

/-! ### Timeouts and the issue of entries (R310 to R312, R314, R324) -/

section
variable (s : State)

/-- A request without a response for 200 beats goes out again on the next healthy path with RETRY. -/
theorem execRetransmitTimeout_again (dst psn i : Nat) (o : OutReq) (q : Path) :
    (txAt s dst).epochAsk = none → (txAt s dst).outst.find? (fun o => o.pkt.psn == psn % 2 ^ 32 && o.pkt.comb == decide (2 ^ 32 ≤ psn)) = some o →
    o.sentAt + 200 ≤ launch s → launch s < o.pkt.stamp + 9000 → o.pkt.stamp ≤ launch s →
    let c := if o.charged then s else chargePath s dst o.pathIx
    healthyTo c dst (o.pathIx + 1) = some (i, q) →
    let a : OutReq := { o with pkt := { o.pkt with retry := true, path := q.index }, sentAt := launch s, port := q.port, pathIx := i, charged := false }
    let b := putPacket (setTx c dst { txAt s dst with outst := (txAt s dst).outst.map fun x =>
      if x.pkt.psn = o.pkt.psn ∧ x.pkt.comb = o.pkt.comb then a else x }) q.port a.pkt
    execRetransmitTimeout dst psn s = .next { b with fab := { b.fab with retx := satAdd 32 b.fab.retx 1 } } := by
  intro hask hfind hsilent hyoung hsent c hhealthy a b
  have hagain : o.sentAt + 200 ≤ launch s ∧ launch s - o.pkt.stamp < 9000 := by omega
  dsimp only [execRetransmitTimeout]
  split
  next hepoch => cases hepoch.symm.trans hask
  next =>
    rw [hfind]
    refine (if_pos hagain).trans ?_
    split
    next hnone => cases hnone.symm.trans hhealthy
    next hpath =>
      cases hpath.symm.trans hhealthy
      rfl

/-- A stream with a request of 9,000 beats breaks, its held requests and the old combined ones ending with it. -/
theorem execStreamBreak_old (dst : Nat) :
    let v := endReqs s dst (fun o => o.pkt.comb && tooLate s o) brokenStatus []
    let u := endHeld v dst fun o => o.pkt.comb && tooLate v o
    ((txAt u dst).outst ++ (txAt u dst).held).any (fun o => !o.pkt.comb && tooLate u o) = true →
    execStreamBreak dst s = .next (tryFences (breakStream u dst)) := by
  intro v u hold
  exact if_pos (List.any_append.symm.trans hold)

/-- An entry whose checks pass issues when credit allows. -/
theorem execXferEntryIssue_passes (port : Nat) (l : XList) (e : XferEntry) (hlist : issuingList s port = some l) (hentry : l.entries[l.next]? = some e)
    (hruns : listRuns s l = true) (hcheck : entryCheck s e = stOk) (hop : e.op ≠ 5)
    (hcredit : e.comb = true ∨ inCredit (txAt s (entryDst e)) + waiting (txAt s (entryDst e)) < 1024) :
    execXferEntryIssue port s = .next (issueReq (modList s port l.num fun x => { x with next := x.next + 1 }) (entryDst e) (entryPacket s l e)
      (some (l.num, l.next, e.local_)) (some port)) := by
  have hfull : ¬((!e.comb) = true ∧ 1024 ≤ inCredit (txAt s (entryDst e)) + waiting (txAt s (entryDst e))) := by
    rintro ⟨hcomb, hmany⟩
    exact hcredit.elim (by simpa using hcomb) (Nat.not_lt.mpr hmany)
  rw [execXferEntryIssue, hlist]
  dsimp only
  rw [hentry]
  exact (if_neg (by simp [hruns])).trans ((if_neg (not_not.mpr hcheck)).trans ((if_neg hop).trans (if_neg hfull)))

end

/-- Settles O37, event by event. -/
theorem fabricResponses : Obligations.FabricResponses := by
  unfold Obligations.FabricResponses
  intro s port dst psn i p o q l e ends
  refine ⟨fun hup hpart hcrc => ⟨execAck_run s port p hup hpart hcrc, fun hop => ?_, fun hop => ?_,
    fun hop hfind => execAtomicData_found s port p hup hpart hcrc o hop hfind, fun hop => ⟨execProbe_answer s port p hup hpart hcrc hop,
      execProbe_other s port p hup hpart hcrc hop⟩⟩,
    execRetransmitTimeout_again s dst psn i o q, fun hdue => if_neg (Nat.not_lt.mpr hdue), execStreamBreak_old s dst,
    execXferEntryIssue_passes s port l e⟩
  · exact congrArg Host.Outcome.next (response_passes s port p hup hpart hcrc 0x21 _ _ _ hop)
  · exact congrArg Host.Outcome.next (response_passes s port p hup hpart hcrc 0x22 _ _ _ hop)

end Sys2Proof.Machine
end

section
/-!
PROOFS OF 15_time_and_launch.md. Launched jobs: their start, their steps and the timeout of their barrier (R349 to R351).
-/
namespace Sys2Proof.Machine

/-! ### Launched jobs (R349 to R351) -/

/-- PLAN_LAUNCH whose fields and context pass, far enough ahead, adds its job (R349). -/
theorem execPlanLaunch_adds (s : State) (q seq : Nat) (r : JRec) (h : Starts s q seq 0x0510 r) : let u := begun s q seq
    launchFieldsOk u r = true → (∀ sl, sliceOfRec u r = some sl → (ctxAt u (r.par 0 2)).slice = sl) → r.tick + 16 ≤ r.par 8 8 →
    (r.par 2 1 = 1 → u.tim.state = 2) →
    execPlanLaunch q seq s = .next { u with tim := { u.tim with jobs := u.tim.jobs ++ [jobOfParams r] } } := by
  intro u hfields hslice hahead hlock
  have hform : ¬(!launchFieldsOk u r) = true := by simp [hfields]
  have htime : ¬(r.par 2 1 = 1 ∧ u.tim.state ≠ 2) := fun ⟨hl, hn⟩ => hn (hlock hl)
  rw [execPlanLaunch, withCmd_starts s q seq _ r _ h]
  refine congrArg Host.Outcome.next ((if_neg hform).trans ((if_neg ?_).trans ((if_neg (Nat.not_lt.mpr hahead)).trans (if_neg htime))))
  cases hs : sliceOfRec u r with
  | none => simp
  | some sl => simpa using hslice sl hs

section
variable (s : State) (q seq len : Nat) (w0 w1 : W64) (last : Bool) (j : Job) (hj : findJob s q seq = some j)
include hj

section
variable (hrunning : j.running = true) (hended : ctxRuns s j.context = false)
include hrunning hended

/-- A step that has run its course is recorded: after the last the command ends OK, a lockstep job reports it, another launches the next. -/
theorem execJobStepLaunch_ended : let u := writeLate s j
    let d := { j with running := false }
    execJobStepLaunch q seq last len w0 w1 s = .next (
      if last = true then finish { u with tim := { u.tim with jobs := u.tim.jobs.filter fun x => !(x.q == q && x.seq == seq) } } q seq stOk 0
      else if j.lockstep = true then reportStep (setJob u { d with reportTick := some s.tkp.now }) j
      else launchStep u d len false none) := by
  simp only [execJobStepLaunch, hj, if_pos hrunning, hended, Bool.false_eq_true, if_false, apply_ite Host.Outcome.next]

end

section
variable (hidle : j.running = false)
include hidle

/-- The first step launches at beat 0 of the job's start. -/
theorem execJobStepLaunch_first (hstep : j.step = 0) (hnow : s.tkp.now = j.start) (hbeat : s.tkp.beat = 0) :
    execJobStepLaunch q seq last len w0 w1 s = .next (launchStep s j len false none) := by
  simp only [execJobStepLaunch, hj, hidle, Bool.false_eq_true, if_false, if_pos hstep, if_pos (And.intro hnow hbeat)]

variable (hstep : j.step ≠ 0) (t : Nat) (hreport : j.reportTick = some t)
include hstep hreport

/-- A reported step launches when its barrier lets it, and otherwise the count read is kept (R350; log 39). -/
theorem execJobStepLaunch_reported : let w := barrierPair s j w0 w1
    execJobStepLaunch q seq last len w0 w1 s = .next (if launchNow s j w = true
      then launchStep s j len (decide (t + 24 < w.1 / 256) && 255 - w.1 % 256 != s.fab.device) (some (255 - w.1 % 256))
      else setJob s { j with count := w.2 }) := by
  simp only [execJobStepLaunch, hj, hidle, Bool.false_eq_true, if_false, if_neg hstep, hreport, Bool.not_eq_true']
  cases launchNow s j (barrierPair s j w0 w1) <;> rfl

end

/-- A count that is not complete 8,000 ticks after the report ends the command TIMEOUT (R350). -/
theorem execBarrierTimeout_due (t : Nat) (hreport : j.reportTick = some t) (hdue : t + 8000 ≤ s.tkp.now)
    (hlack : (barrierPair s j 0 (BitVec.ofNat 64 j.count)).2 < j.members) : execBarrierTimeout q seq s = .next (finish { s with tim := { s.tim with
      jobs := s.tim.jobs.filter fun x => !(x.q == q && x.seq == seq) } } q seq stTimeout 0) := by
  simp only [execBarrierTimeout, hj, hreport, if_neg (not_or.mpr ⟨Nat.not_lt.mpr hdue, Nat.not_le.mpr hlack⟩)]

end

/-- The barrier of a complete count lets its step launch at beat 0 of the tick that it names, or after it as the count becomes known complete. -/
theorem launchNow_complete (s : State) (j : Job) (w : Nat × Nat) (hall : j.members ≤ w.2)
    (hwhen : (s.tkp.now = w.1 / 256 ∧ s.tkp.beat = 0) ∨ (w.1 / 256 < s.tkp.now ∧ j.count < j.members)) : launchNow s j w = true := by
  simpa [launchNow, hall] using hwhen

/-- It lets none launch while the count is not complete. -/
theorem launchNow_incomplete (s : State) (j : Job) (w : Nat × Nat) (hlack : w.2 < j.members) : ¬launchNow s j w = true := by
  simp [launchNow, Nat.not_le.mpr hlack]

/-- Settles O38: a step that has ended, a first step and a reported step are the three cases of JOB_STEP_LAUNCH. -/
theorem launchedJobs : Obligations.LaunchedJobs := by
  unfold Obligations.LaunchedJobs
  intro s q seq len t w0 w1 last r j
  refine ⟨execPlanLaunch_adds s q seq r, fun hj => ⟨fun hrunning hended => ?ended, execJobStepLaunch_first s q seq len w0 w1 last j hj,
    fun hidle hstep hreport => ?reported, execBarrierTimeout_due s q seq j hj t⟩⟩
  case ended =>
    have hnext := execJobStepLaunch_ended s q seq len w0 w1 last j hj hrunning hended
    refine ⟨fun hlast => ?_, fun hmore hlock => ?_, fun hmore hfree => ?_⟩
    · exact hnext.trans (congrArg _ (if_pos hlast))
    · exact hnext.trans (congrArg _ ((if_neg (ne_true_of_eq_false hmore)).trans (if_pos hlock)))
    · exact hnext.trans (congrArg _ ((if_neg (ne_true_of_eq_false hmore)).trans (if_neg (ne_true_of_eq_false hfree))))
  case reported =>
    have hnext := execJobStepLaunch_reported s q seq len w0 w1 last j hj hidle hstep t hreport
    exact ⟨fun hall hwhen => hnext.trans (congrArg _ (if_pos (launchNow_complete s j _ hall hwhen))),
      fun hlack => hnext.trans (congrArg _ (if_neg (launchNow_incomplete s j _ hlack)))⟩

end Sys2Proof.Machine
end

section
/-!
PROOFS OF 16_host_interface_and_commands.md. Duplicate packets (R370), the queues of the host (R354 to R368, R397, R500), and the
mailboxes of slices (17 R374 to R377).
-/
namespace Sys2Proof.Machine

/-! ### Little-endian fields -/

@[simp] theorem length_leBytes (n v : Nat) : (leBytes n v).length = n := by
  induction n generalizing v with
  | zero => rfl
  | succ n ih => simp [leBytes, ih]

/-- Reading back the bytes of a value gives what of it the field holds. -/
theorem leNat_leBytes (n v : Nat) : leNat (leBytes n v) = v % 256 ^ n := by
  induction n generalizing v with
  | zero => simp [leBytes, leNat, Nat.mod_one]
  | succ n ih =>
    have hbyte : (BitVec.ofNat 8 v).toNat = v % 256 := BitVec.toNat_ofNat v 8
    rw [leBytes, leNat, ih, hbyte, Nat.pow_succ', Nat.mod_mul]

/-- Bytes hold a value below 256 to the power of their number. -/
theorem leNat_lt (bs : List Byte) : leNat bs < 256 ^ bs.length := by
  induction bs with
  | nil => decide
  | cons b bs ih =>
    have hb : b.toNat < 256 := b.isLt
    rw [leNat, List.length_cons, Nat.pow_succ']
    omega

/-- A field is less than its width allows. -/
theorem fieldAt_lt (bs : List Byte) (off n : Nat) : fieldAt bs off n < 256 ^ n :=
  Nat.lt_of_lt_of_le (leNat_lt _) (Nat.pow_le_pow_right (by decide) (List.length_take_le _ _))

/-- A field past the first part of the bytes is one of the rest. -/
theorem fieldAt_append_skip (a b : List Byte) (off n : Nat) (h : a.length ≤ off) : fieldAt (a ++ b) off n = fieldAt b (off - a.length) n := by
  rw [fieldAt, List.drop_append, List.drop_eq_nil_of_le h]
  rfl

/-- A field that the first bytes are is their value. -/
theorem fieldAt_leBytes_append (n v : Nat) (b : List Byte) : fieldAt (leBytes n v ++ b) 0 n = v % 256 ^ n := by
  have htake : (leBytes n v ++ b).take n = leBytes n v := List.take_left' (length_leBytes n v)
  rw [fieldAt, List.drop_zero, htake, leNat_leBytes]



/-! ### The fields of a completion (R364) -/

section
variable (seq status stage flags qid opcode : Nat) (value : W64) (tick : Nat)

theorem cplBytes_seq : fieldAt (cplBytes seq status stage flags qid opcode value tick) 0 8 = seq % 2 ^ 64 := by
  simp [cplBytes, List.append_assoc, fieldAt_leBytes_append]

theorem cplBytes_status : fieldAt (cplBytes seq status stage flags qid opcode value tick) 8 2 = status % 65536 := by
  simp [cplBytes, List.append_assoc, fieldAt_append_skip, fieldAt_leBytes_append]

theorem cplBytes_stage : fieldAt (cplBytes seq status stage flags qid opcode value tick) 10 1 = stage % 256 := by
  simp [cplBytes, List.append_assoc, fieldAt_append_skip, fieldAt_leBytes_append]

theorem cplBytes_flags : fieldAt (cplBytes seq status stage flags qid opcode value tick) 11 1 = flags % 256 := by
  simp [cplBytes, List.append_assoc, fieldAt_append_skip, fieldAt_leBytes_append]

theorem cplBytes_value : fieldAt (cplBytes seq status stage flags qid opcode value tick) 16 8 = value.toNat := by
  simpa [cplBytes, List.append_assoc, fieldAt_append_skip, fieldAt_leBytes_append] using value.isLt

end

/-! ### Duplicates (R370) -/

/-- `t` has the journal and the accepted sequence numbers of `s`. -/
def SameJournal (s t : State) : Prop := t.hst.journal = s.hst.journal ∧ t.hst.accSeq = s.hst.accSeq

theorem SameJournal.trans {s t u : State} (h : SameJournal s t) (k : SameJournal t u) : SameJournal s u := by
  obtain ⟨hj, ha⟩ := h
  obtain ⟨kj, ka⟩ := k
  exact ⟨kj.trans hj, ka.trans ha⟩

/-- A record in the recorder latches at most an attention class. -/
theorem putRecord_sameJournal (s : State) (code source sev supp : Nat) (summary : Bool) (args : List Nat) :
    SameJournal s (putRecord s code source sev supp summary args) := by
  unfold putRecord
  dsimp only
  repeat' split
  all_goals exact ⟨rfl, rfl⟩

theorem recordNow_sameJournal (s : State) (code source : Nat) (args : List Nat) : SameJournal s (recordNow s code source args) := by
  unfold recordNow
  dsimp only
  split
  case isTrue => exact putRecord_sameJournal { s with evr := _ } _ _ _ _ _ _
  case isFalse =>
    split
    case isTrue => exact ⟨rfl, rfl⟩
    case isFalse => exact putRecord_sameJournal { s with evr := _ } _ _ _ _ _ _

theorem recordEvent_sameJournal (s : State) (code source : Nat) (args : List Nat) : SameJournal s (recordEvent s code source args) := by
  unfold recordEvent
  split
  case isTrue =>
    repeat' split
    all_goals exact ⟨rfl, rfl⟩
  case isFalse => exact recordNow_sameJournal s code source args

theorem findError_sameJournal (s : State) (line : Nat) : SameJournal s (findError s line) := by
  unfold findError
  split
  case isTrue => exact recordEvent_sameJournal (poisonLine s (64 * line)) _ _ _
  case isFalse => exact ⟨rfl, rfl⟩

theorem useCheck_sameJournal (s : State) (m : Mem) (a : Nat) : SameJournal s (useCheck { s with mem := m } a) := by
  unfold useCheck
  split <;> exact ⟨rfl, rfl⟩

theorem writeChunk_sameJournal (s : State) (a : Nat) (bs : List Byte) : SameJournal s (writeChunk s a bs).1 := by
  unfold writeChunk
  split
  case isTrue => exact ⟨rfl, rfl⟩
  split
  case isTrue => exact useCheck_sameJournal s _ a
  split
  case isTrue => exact ⟨rfl, rfl⟩
  split
  case isTrue => exact findError_sameJournal s _
  case isFalse => exact useCheck_sameJournal s _ a

theorem writeChunks_sameJournal (cs : List (Nat × List Byte)) (s : State) : SameJournal s (writeChunks cs s).1 := by
  induction cs generalizing s with
  | nil => exact ⟨rfl, rfl⟩
  | cons c cs ih => exact (writeChunk_sameJournal s c.1 c.2).trans (ih _)

/-- A write of the device's own structures accepts no command. -/
theorem devPut_sameJournal (s : State) (a : Nat) (bs : List Byte) : SameJournal s (devPut s a bs) := writeChunks_sameJournal _ _

theorem trace_sameJournal (s : State) (point cp arg0 arg1 : Nat) : SameJournal s (trace s point cp arg0 arg1) := by
  unfold trace
  split
  case isTrue => exact devPut_sameJournal s _ _
  case isFalse => exact ⟨rfl, rfl⟩

theorem signalVec_sameJournal (s : State) (v : Nat) : SameJournal s (signalVec s v) := by
  unfold signalVec SameJournal
  dsimp only
  split <;> exact ⟨rfl, rfl⟩

theorem coalesce_sameJournal (s : State) (q : Nat) (x : Queue) : SameJournal s (coalesce s q x) := by
  unfold coalesce
  split
  case isTrue => exact signalVec_sameJournal (setQueue s q _) _
  case isFalse => exact ⟨rfl, rfl⟩

theorem ringPut_sameJournal (s : State) (q : Nat) (x : Queue) (c : List Byte) : SameJournal s (ringPut s q x c) := by
  unfold ringPut
  dsimp only
  split
  case isTrue => exact (devPut_sameJournal s _ _).trans (coalesce_sameJournal _ q _)
  case isFalse => exact coalesce_sameJournal (hostWrite s _ _ _) q _

/-- A completion, in its ring or held, leaves the journal and ACCEPTED_SEQ. -/
theorem postCpl_sameJournal (s : State) (q : Nat) (c : List Byte) : SameJournal s (postCpl s q c) := by
  unfold postCpl
  split
  case h_1 => exact ⟨rfl, rfl⟩
  case h_2 =>
    split
    case isTrue => exact ringPut_sameJournal s q _ c
    case isFalse => exact ⟨rfl, rfl⟩

/-- The one completion of a duplicate: of its record, where the journal holds one, and STALE where it has been freed (R370). -/
def dupCpl (s : State) (q : Nat) (p : CmdPacket) : List Byte :=
  match findRec s q p.seq with
  | some r => if r.stage = 3 then cplBytes p.seq r.status 2 2 q r.opcode r.value r.tick else cplBytes p.seq stAccepted 1 2 q r.opcode 0 r.tick
  | none => cplBytes p.seq stStale 2 2 q p.opcode 0 s.tkp.now

theorem postDup_eq (s : State) (q : Nat) (p : CmdPacket) : postDup s q p = postCpl s q (dupCpl s q p) := rfl

/-- It is one of three completions of that packet, each with the flag DUP. -/
theorem dupCpl_fields (s : State) (q : Nat) (p : CmdPacket) (hseq : p.seq < 2 ^ 64) : let c := dupCpl s q p
    fieldAt c 0 8 = p.seq ∧ fieldAt c 11 1 / 2 % 2 = 1 ∧
    (∀ r, findRec s q p.seq = some r → r.stage ≠ 3 → fieldAt c 10 1 = 1 ∧ fieldAt c 8 2 = stAccepted) ∧
    (∀ r, findRec s q p.seq = some r → r.stage = 3 → r.status < 65536 →
      fieldAt c 10 1 = 2 ∧ fieldAt c 8 2 = r.status ∧ fieldAt c 16 8 = r.value.toNat) ∧
    (findRec s q p.seq = none → fieldAt c 10 1 = 2 ∧ fieldAt c 8 2 = stStale) := by
  have hmod : p.seq % 2 ^ 64 = p.seq := Nat.mod_eq_of_lt hseq
  cases hfind : findRec s q p.seq with
  | none =>
    simp only [dupCpl, hfind, cplBytes_seq, cplBytes_status, cplBytes_stage, cplBytes_flags, hmod]
    simp [stStale]
  | some r =>
    by_cases hdone : r.stage = 3
    · simp only [dupCpl, hfind, if_pos hdone, cplBytes_seq, cplBytes_status, cplBytes_stage, cplBytes_flags, cplBytes_value, hmod]
      simp [hdone, Nat.mod_eq_of_lt]
    · simp only [dupCpl, hfind, if_neg hdone, cplBytes_seq, cplBytes_status, cplBytes_stage, cplBytes_flags, hmod]
      simp [hdone, stAccepted]

/-- A packet whose turn it is and whose number has been accepted is consumed as a duplicate. -/
theorem execCommandConsume_dup (s : State) (q : Nat) (io : Bool) (x : Queue) (hq : NMap.find? s.hst.queues q = some x) :
    let p := packetOf (nextEntry s x)
    mayConsume s q x p = true → (consumeTurn s).map (·.1) = some q → p.seq ≤ acceptedSeq s q →
    execCommandConsume q io s = .next (postDup
      (trace (setQueue (tookTurn s q (if x.system = true then 4 else 5)) q { x with consumed := x.consumed + 1 }) 0 0 q p.seq) q p) := by
  intro p hmay hturn hdup
  have hgoes : ¬(!mayConsume s q x p ∨ (consumeTurn s).map (·.1) ≠ some q) := by simp [hmay, hturn]
  simp only [execCommandConsume, hq]
  exact (if_neg hgoes).trans (if_pos hdup)

/-- Settles O59: consuming a packet and posting its completion touch neither the journal nor ACCEPTED_SEQ. -/
theorem duplicatePackets : Obligations.DuplicatePackets := by
  unfold Obligations.DuplicatePackets
  intro s q io x hq p u hmay hturn hdup
  have hu : SameJournal s u := trace_sameJournal (setQueue (tookTurn s q _) q _) 0 0 q p.seq
  have hfind : findRec u q p.seq = findRec s q p.seq := congrArg (List.find? _) hu.1
  obtain ⟨hjournal, hacc⟩ := hu.trans (postCpl_sameJournal u q (dupCpl u q p))
  have hfields := dupCpl_fields u q p (fieldAt_lt _ 8 8)
  rw [hfind] at hfields
  exact ⟨_, dupCpl u q p, execCommandConsume_dup s q io x hq hmay hturn hdup, postDup_eq u q p, hjournal, hacc, hfields⟩

end Sys2Proof.Machine
end

section
namespace Sys2Proof.Machine

/-! ### Doorbells, consumption and acceptance (R356, R357, R361, R364, R366, R368) -/

section
variable (s : State) (q : Nat) (x : Queue) (hq : NMap.find? s.hst.queues q = some x)
include hq

/-- A submission doorbell in range moves the tail of its ring. -/
theorem execSubmissionDoorbell_inRange (n : Nat) (hready : s.hst.ready = true) (hlt : q < 512)
    (hroom : outstanding { x with tail := n % 2 ^ 16 } ≤ 2 ^ x.sqLog) :
    execSubmissionDoorbell q n s = .next (setQueue s q { x with tail := n % 2 ^ 16 }) := by
  simp only [execSubmissionDoorbell, hready, hq, Bool.not_true, Bool.false_eq_true, if_false, if_neg (Nat.not_le.mpr hlt),
    if_neg (Nat.not_lt.mpr hroom)]

/-- A completion doorbell in range moves the head, frees the records that it has passed and lets held completions in. -/
theorem execCompletionDoorbell_inRange (n : Nat) (hready : s.hst.ready = true) (hlt : q < 512)
    (hroom : unconsumed { x with head := n % 2 ^ 16 } ≤ 2 ^ x.cqLog) :
    execCompletionDoorbell q n s = .next (flushHeld (freeRecs (setQueue s q { x with head := n % 2 ^ 16 }) q) q) := by
  simp only [execCompletionDoorbell, hready, hq, Bool.not_true, Bool.false_eq_true, if_false, if_neg (Nat.not_le.mpr hlt),
    if_neg (Nat.not_lt.mpr hroom)]

/-- The coalescing timer of a queue with unsignalled completions signals its vector. -/
theorem execInterruptCoalesceTimer_due (hunsig : x.unsig ≠ 0) (hdue : x.unsigAt + 10 * x.coUs ≤ launch s) :
    execInterruptCoalesceTimer q s = .next (signalVec (setQueue s q { x with unsig := 0 }) x.vector) := by
  simp [execInterruptCoalesceTimer, hq, hunsig, Nat.not_lt.mpr hdue]

/-- A packet with the next number is consumed once its queue's turn has come: where it passes its checks its record joins the journal, and
otherwise it is DONE with its status. -/
theorem execCommandConsume_next (io : Bool) : let p := packetOf (nextEntry s x)
    let u := trace (setQueue (tookTurn s q (if x.system = true then 4 else 5)) q { x with consumed := x.consumed + 1 }) 0 0 q p.seq
    let v := if p.pdev = true ∧ p.inline = false ∧ (packetParams s x.pas p io).2 = false then recordUncorrected u p.param p.len else u
    let params := (packetParams s x.pas p io).1
    let st := packetStatus s q x p io
    let y := addRec v (recOf v q x p params 0)
    mayConsume s q x p = true → (consumeTurn s).map (·.1) = some q → p.seq = acceptedSeq s q + 1 →
    execCommandConsume q io s = .next (if st = stOk then (if s.hst.mirrored = true then mirrorStore y q p.seq else y)
      else finish (takeSeq (addRec v (recOf v q x p (if st = stInvalid then [] else params) 1)) q p.seq) q p.seq st 0) := by
  intro p u v params st y hmay hturn hnext
  have hgoes : ¬(mayConsume s q x p = false ∨ (consumeTurn s).map (·.1) ≠ some q) := by simp [hmay, hturn]
  have hnew : ¬p.seq ≤ acceptedSeq s q := by omega
  have hgap : ¬acceptedSeq s q + 1 < p.seq := by omega
  simp only [execCommandConsume, hq, Bool.not_eq_true']
  exact (if_neg hgoes).trans ((if_neg hnew).trans ((if_neg hgap).trans (apply_ite Host.Outcome.next _ _ _).symm))

end

/-- COMMAND_ACCEPT of a record whose copy stands at the partner, and whose tick can still be met, accepts it. -/
theorem execCommandAccept_accepts (s : State) (q : Nat) (r : JRec) (hfind : s.hst.journal.find? (fun r => r.q == q && r.stage == 0) = some r)
    (hcopy : s.hst.mirrored = false ∨ r.mirLeft = 0) (htick : ∀ t, r.tickArg = some t → applyTick s ≤ t) : execCommandAccept q s =
      .next (postCpl (takeSeq (modRec { s with hst := { s.hst with order := s.hst.order + 1 } } q r.seq fun x =>
        { x with stage := 1, order := s.hst.order, tick := s.tkp.now, beat := s.tkp.beat }) q r.seq) q
        (cplBytes r.seq stAccepted 1 0 q r.opcode 0 s.tkp.now)) := by
  have hgoes : ¬(s.hst.mirrored = true ∧ r.mirLeft ≠ 0) := fun ⟨hm, hl⟩ => hcopy.elim (fun h => by simp [h] at hm) hl
  have htime : ¬(r.tickArg.any fun t => decide (t < applyTick s)) = true := by
    simpa [Option.any_eq_true] using htick
  simp only [execCommandAccept, hfind, if_neg hgoes, if_neg htime]

/-! ### The admin queue (R354) -/

section
variable (s : State) (w : W64) (hready : s.hst.ready = true)
include hready

/-- HST_AQ_CFG with EN, the revision and sizes in range brings the admin queue into being, where none is. -/
theorem execAdminQueueEnable_creates : let u := aqWrite s w
    let y := adminQueue u
    w.getLsbD 8 = true → NMap.find? s.hst.queues 0 = none → bitsOf w.toNat 63 32 = s.hst.cmdsetRev → 4 ≤ y.sqLog → y.sqLog ≤ 12 →
    4 ≤ y.cqLog → y.cqLog ≤ 12 → w.getLsbD 9 = true ∨ openRecs s 0 = [] →
    let z := createQueue (orphanEnds u) 0 y (w.getLsbD 9)
    execAdminQueueEnable w s = .next { z with fw := { z.fw with beatTick := s.tkp.now } } := by
  intro u y hen hnone hrev hsqLo hsqHi hcqLo hcqHi hopen z
  have hwrite : ¬(!s.hst.ready ∨ !w.getLsbD 8) := by rw [hready, hen]; decide
  have hnew : ¬(NMap.find? s.hst.queues 0).isSome = true := by simp [hnone]
  have hsizes : ¬(y.sqLog < 4 ∨ 12 < y.sqLog ∨ y.cqLog < 4 ∨ 12 < y.cqLog) := by omega
  have hbusy : ¬(!w.getLsbD 9 ∧ !(openRecs s 0).isEmpty) := fun ⟨hkeep, hheld⟩ =>
    hopen.elim (fun h => absurd hkeep (by rw [h]; decide)) fun h => by simp [h] at hheld
  exact (if_neg hwrite).trans ((if_neg hnew).trans ((if_neg (not_not.mpr hrev)).trans ((if_neg hsizes).trans (if_neg hbusy))))

/-- HST_AQ_CFG without EN drops an admin queue that has no command open. -/
theorem execAdminQueueDelete_drops (hen : w.getLsbD 8 = false) (hsome : NMap.find? s.hst.queues 0 ≠ none) (hopen : openRecs s 0 = []) :
    execAdminQueueDelete w s = .next (dropQueue (aqWrite s w) 0) := by
  have hwrite : ¬(!s.hst.ready ∨ w.getLsbD 8) := by rw [hready, hen]; decide
  have hold : ¬(NMap.find? s.hst.queues 0).isNone = true := by simpa using hsome
  have hfree : ¬(!(openRecs s 0).isEmpty) = true := by simp [hopen]
  exact (if_neg hwrite).trans ((if_neg hold).trans (if_neg hfree))

end

/-- Settles O42: the queue of a doorbell is found and its index in range; a packet is one of the three cases of R370 and R361. -/
theorem hostQueues_obligation : Obligations.HostQueues := by
  unfold Obligations.HostQueues
  intro s q n io x w r
  refine ⟨fun hready hlt hq => ⟨execSubmissionDoorbell_inRange s q x hq n hready hlt, execCompletionDoorbell_inRange s q x hq n hready hlt⟩,
    fun hq hmay hturn => ?consume, execCommandAccept_accepts s q r, execInterruptCoalesceTimer_due s q x,
    fun hready => ⟨execAdminQueueEnable_creates s w hready, execAdminQueueDelete_drops s w hready⟩, rfl⟩
  case consume =>
    have hnext := execCommandConsume_next s q x hq io hmay hturn
    exact ⟨execCommandConsume_dup s q io x hq hmay hturn, fun hseq hok => (hnext hseq).trans (congrArg _ (if_pos hok)),
      fun hseq hbad => (hnext hseq).trans (congrArg _ (if_neg hbad))⟩

end Sys2Proof.Machine
end

section
namespace Sys2Proof.Machine

/-! ### Slice mailboxes (R374, R375, R377) -/

section
variable (s : State) (page : Nat)

/-- A send that goes on becomes the page's send in progress, and one that does not shows its status. -/
theorem execNoticeSend_idle (v : W32) (hpage : page ≤ 64) (hidle : (mbxAt s page).pending = false) : let x := mbxAt s page
    let st := sendStatus s page (bitsOf v.toNat 1 0) (bitsOf v.toNat 7 2)
    execNoticeSend page v s = .next (setMbx s page (if st = stOk
      then { x with pending := true, sendTo := (bitsOf v.toNat 1 0, bitsOf v.toNat 7 2), sentTick := s.tkp.now, msgSeq := (x.msgSeq + 1) % 2 ^ 32 }
      else { x with status := withClass s st })) := by
  intro x st
  have hgoes : ¬(pfPage < page ∨ x.pending) := by simp [x, hidle, pfPage, Nat.not_lt.mpr hpage]
  refine (if_neg hgoes).trans ?_
  rw [apply_ite (setMbx s page), apply_ite Host.Outcome.next]

section
variable (hpending : (mbxAt s page).pending = true)
include hpending

/-- A notice whose receiver takes it is stamped and put into the receiver's ring, or before the processor, and shows OK. -/
theorem execNoticeDeliver_taken (htakes : receiverTakes s (receiverOf (mbxAt s page).sendTo) = true) : let x := mbxAt s page
    let n := stampNotice x.send (senderOf page) s.tkp.now x.msgSeq
    let d := receiverOf x.sendTo
    let u : State := if d ≤ 64 then ringNotice s d n else { s with slc := { s.slc with cpIn := NMap.modify s.slc.cpIn [] (d - 65) fun l => n :: l } }
    execNoticeDeliver page s = .next (setMbx u page { mbxAt u page with pending := false, status := withClass u stOk }) := by
  have hgoes : ¬(!(mbxAt s page).pending ∨ !receiverTakes s (receiverOf (mbxAt s page).sendTo)) := by simp [hpending, htakes]
  exact if_neg hgoes

/-- A notice that has waited its timeout is discarded with TIMEOUT. -/
theorem execNoticeTimeout_due (hdue : (mbxAt s page).sentTick + sendTicks (mbxAt s page) ≤ s.tkp.now) :
    execNoticeTimeout page s = .next (setMbx s page { mbxAt s page with pending := false, status := withClass s stTimeout }) := by
  have hgoes : ¬(!(mbxAt s page).pending ∨ s.tkp.now < (mbxAt s page).sentTick + sendTicks (mbxAt s page)) := by
    simp [hpending, Nat.not_lt.mpr hdue]
  exact if_neg hgoes

end

/-- A head that does not pass the tail frees entries. -/
theorem execSlcRxHeadWrite_inRange (v : W32) (hpage : page ≤ 64)
    (hroom : (v.toNat % 2 ^ 16 + 2 ^ 16 - (mbxAt s page).rxHead) % 2 ^ 16 ≤ ringUsed (mbxAt s page)) :
    execSlcRxHeadWrite page v s = .next (setMbx s page { mbxAt s page with rxHead := v.toNat % 2 ^ 16 }) :=
  if_neg (not_or.mpr ⟨Nat.not_lt.mpr hpage, Nat.not_lt.mpr hroom⟩)

end

/-- Settles O44: each event finds its page as its condition says. -/
theorem mailboxes : Obligations.Mailboxes := by
  unfold Obligations.Mailboxes
  intro s page v x
  refine ⟨fun hpage hidle => ?send, fun hpending => ⟨execNoticeDeliver_taken s page hpending, execNoticeTimeout_due s page hpending⟩,
    execSlcRxHeadWrite_inRange s page v⟩
  case send =>
    have hsend := execNoticeSend_idle s page v hpage hidle
    exact ⟨fun hok => hsend.trans (by rw [if_pos hok]), fun hbad => hsend.trans (by rw [if_neg hbad])⟩

end Sys2Proof.Machine
end

section
/-!
PROOFS OF 18_firmware.md. Heartbeats and orphan mode, live update, and the stops and restarts of the control processors (R404 to R414).
-/
namespace Sys2Proof.Machine

/-! ### Heartbeats and orphan mode (R412 to R414) -/

section
variable (s : State) (l : List (Nat × List Byte)) (hready : s.hst.ready = true) (horphan : s.hst.orphan = false)
include hready horphan

/-- 800 ticks without a heartbeat begin orphan mode. -/
theorem execOrphan_late (hlate : s.fw.beatTick + 800 ≤ s.tkp.now) : execOrphan l s = .next (enterOrphan s l) :=
  if_pos ⟨hready, by simp [horphan], hlate⟩

/-- The loss of the link begins orphan mode. -/
theorem execCxlLinkDown_ready : execCxlLinkDown l s = .next (enterOrphan { s with hst := { s.hst with linkUp := false } } l) :=
  if_pos ⟨hready, by simp [horphan]⟩

end

/-- The end of the hold of orphan mode holds every ACTIVE context. -/
theorem execOrphanHoldExpiry_due (s : State) (horphan : s.hst.orphan = true) (hopen : s.fw.quiesced = false)
    (hdue : s.fw.orphanTick + 8000 * s.fw.orphanHold ≤ s.tkp.now) : execOrphanHoldExpiry s =
      .next ((activeCtxs s).foldl (fun x c => heldCheck (modCtx x c fun y => { y with holding := true, orphaned := true }) c)
        { s with fw := { s.fw with quiesced := true } }) :=
  if_pos ⟨horphan, by simp [hopen], hdue⟩

/-! ### Live update (R408 to R411) -/

/-- FW_UPDATE that passes its cases prepares the second set (R408). -/
theorem execFwUpdate_prepares (s : State) (q seq : Nat) (b old : Bundle) (r : JRec) (h : Starts s q seq 0x0600 r) : let u := begun s q seq
    u.fw.bundle = some old → r.params.length = 16 → r.par 0 8 % 64 = 0 → r.par 8 4 ≤ 2 ^ 26 → r.zeros 12 4 = true →
    usableRange u (r.par 0 8) (r.par 8 4) = true → u.fw.phase = 0 → cpDown u = false → substNow u = false → mayUpdate u = true →
    bundleFail u (withRunningOwner old b) = none → u.sec.svn ≤ b.svn → b.cmdsetRev = u.hst.cmdsetRev → importsAll old b = true →
    sameParts old b = true → execFwUpdate q seq b s =
      .next (trace (trace { u with fw := { u.fw with phase := 1, second := some b, updCmd := (q, seq) } } 5 0 0 0) 5 0 1 0) := by
  intro u hbundle hl halign hlen hzero husable hphase hcps hsubst hmay hgood hsvn hrev himports hparts
  have hform : ¬(r.params.length ≠ 16 ∨ r.par 0 8 % 64 ≠ 0 ∨ 2 ^ 26 < r.par 8 4 ∨ !r.zeros 12 4 ∨ !usableRange u (r.par 0 8) (r.par 8 4)) := by
    rw [hzero, husable]
    simp only [Bool.not_true, Bool.false_eq_true, or_false]
    omega
  have hfree : ¬(u.fw.phase ≠ 0 ∨ cpDown u ∨ substNow u) := by simp [hphase, hcps, hsubst]
  have hallowed : ¬(!mayUpdate u) = true := by simp [hmay]
  have hversion : ¬(b.cmdsetRev ≠ u.hst.cmdsetRev ∨ !importsAll old b) := by simp [hrev, himports]
  have hsame : ¬(!sameParts old b) = true := by simp [hparts]
  rw [execFwUpdate, withCmd_starts s q seq _ r _ h]
  refine congrArg Host.Outcome.next ?_
  split
  case h_1 hnone => cases hbundle.symm.trans hnone
  case h_2 x hsome =>
    obtain rfl : x = old := Option.some.inj (hsome.symm.trans hbundle)
    refine (if_neg hform).trans ((if_neg hfree).trans ((if_neg hallowed).trans ?_))
    dsimp only
    split
    case h_1 n hbad => cases hgood.symm.trans hbad
    case h_2 => exact (if_neg (Nat.not_lt.mpr hsvn)).trans ((if_neg hversion).trans (if_neg hsame))

section
variable (s : State)

/-- The seam at which DEPTH reads 10 is the quiesce seam (R409). -/
theorem execUpdateQuiesce_seam (hphase : s.fw.phase = 1) (hbeat : s.tkp.beat = 0) (hdepth : 10 ≤ planDepth s) :
    execUpdateQuiesce s = .next ((List.range 8).foldl (fun x p => writeRecs x p (writtenRecs s.freeN p))
      (trace { s.takeFree.2 with fw := { s.fw with phase := 2, quiesce := s.tkp.now } } 5 0 2 s.tkp.now)) :=
  if_pos ⟨hphase, hbeat, hdepth⟩

section
variable (hphase : s.fw.phase = 2)
include hphase

/-- A commit before tick S + 8 of a set that imports every record makes the second set the running one (R409). -/
theorem execUpdateCommit_good (b : Bundle) (hset : s.fw.second = some b) (htime : s.tkp.now < s.fw.quiesce + 8) (hrecs : recsGood s b = true) :
    let i := (List.range 8).foldl importRecs s
    let u : State := { i with sec := { s.sec with svn := b.svn }, fw := { i.fw with
      phase := 0, second := none, bundle := some b, retained := b.cpImages, build := b.build, updates := satAdd 16 s.fw.updates 1 } }
    execUpdateCommit s = .next (finish (trace (latchAttn (recordEvent (extendM u 6 0 b.manifest) 0x9003 0 []) 2) 5 0 3 s.fw.quiesce)
      s.fw.updCmd.1 s.fw.updCmd.2 stOk 0) := by
  intro i u
  simp only [execUpdateCommit, hset]
  exact if_pos ⟨hphase, htime, hrecs⟩

/-- The deadline without a commit ends the handover TIMEOUT (R410). -/
theorem execUpdateAbort_deadline (hdue : s.fw.quiesce + 8 ≤ s.tkp.now) : execUpdateAbort none s = .next (abortUpdate s stTimeout 0) :=
  (if_neg (not_not.mpr hphase)).trans (if_pos hdue)

/-- A component that refuses a record ends it ABORTED (R410). -/
theorem execUpdateAbort_refused (c : Nat) : execUpdateAbort (some c) s = .next (abortUpdate s stAborted (BitVec.ofNat 64 c)) :=
  if_neg (not_not.mpr hphase)

end

/-! ### Stops and restarts (R404, R405) -/

/-- A running role processor that stops is held at its fourth stop in the window, and otherwise restarted by CP0. -/
theorem execCpStop_running (cp cause : Nat) (hlo : 1 ≤ cp) (hhi : cp ≤ 7) (hrun : cpState s cp = 1) : let u := cpStops s cp cause
    execCpStop cp cause s = .next (if 4 ≤ stopsNow u cp then cpHeld u cp else latchAttn (recordEvent (cpRestarts u cp) 0x9001 0 []) 2) := by
  have hgoes : ¬(cp = 0 ∨ 7 < cp ∨ cpState s cp ≠ 1) := by omega
  exact (if_neg hgoes).trans (apply_ite Host.Outcome.next _ _ _).symm

/-- The SP restarts CP0, with the recovery report of CAUSE 4. -/
theorem execCp0WatchdogExpiry_restarts (hrun : cpState s 0 = 1) : let u := cpStops s.takeFree.2 0 s.takeFree.1.toNat
    stopsNow u 0 < 4 → let v := cpRestarts u 0
    execCp0WatchdogExpiry s = .next (buildReport (latchAttn { v with fw := { v.fw with restartAt := restartsWait v (restartTick u 0) } } 2) 4 false) :=
  fun hfew => (if_neg (not_not.mpr hrun)).trans (if_neg (Nat.not_le.mpr hfew))

end

/-- Settles O43: each event and FW_UPDATE meets its conditions. -/
theorem firmwareCommands : Obligations.FirmwareCommands := by
  unfold Obligations.FirmwareCommands
  intro s q seq cp cause c w l b old r
  exact ⟨rfl, fun hready horphan => ⟨execOrphan_late s l hready horphan, execCxlLinkDown_ready s l hready horphan⟩, execOrphanHoldExpiry_due s,
    execFwUpdate_prepares s q seq b old r, execUpdateQuiesce_seam s, fun hphase => ⟨execUpdateCommit_good s hphase b,
      execUpdateAbort_deadline s hphase, execUpdateAbort_refused s hphase c⟩, execCpStop_running s cp cause, execCp0WatchdogExpiry_restarts s⟩

end Sys2Proof.Machine
end

section
/-!
PROOFS OF 20_reliability_and_fault_handling.md. Repair (R438 to R448), stress requests, the health score, contrail mode and the slowdown
window (R396, R448 to R453).
-/
namespace Sys2Proof.Machine

/-! ### Repair (R438, R440, R441, R443) -/

section
variable (s : State)

/-- TILE_REMAP of a faulted tile on a device that serves: a tick after the fault the physical tile is retired and the tile bound anew from
the next seam; with a binding that waits, it is a fault of the incoming physical tile. -/
theorem execTileRemap_faulted (t : Nat) (ht : t < 160) (hfault : (tileAt s t).state = .fault) (hras : s.ras.state = 0) :
    (NMap.find? s.dies.bindAt t = none → (tileAt s t).arriving < s.tkp.now →
      execTileRemap t s = .next (bindNext (retireTile s (dieOf t) (physOf s t) 0x1002) t (s.tkp.now + 1))) ∧
    (∀ b, NMap.find? s.dies.bindAt t = some b →
      let a := recordEvent { s with dies := { s.dies with bindAt := NMap.erase s.dies.bindAt t } } 0x1002 srcHw [t, b.1, 0x1002]
      execTileRemap t s = .next (bindNext
        (retireTile { a with ras := { a.ras with cntTile := satAdd 16 a.ras.cntTile 1 } } (dieOf t) b.1 0x1002) t (s.tkp.now + 2))) := by
  have hgoes : ¬(160 ≤ t ∨ (tileAt s t).state ≠ .fault ∨ s.ras.state ≠ 0) := by simp [Nat.not_le.mpr ht, hfault, hras]
  refine ⟨fun hnone hafter => ?_, fun b hb => ?_⟩
  · simp only [execTileRemap, if_neg hgoes, hnone, if_neg (Nat.not_le.mpr hafter)]
  · simp only [execTileRemap, if_neg hgoes, hb]

/-- An overlay for the next tick that passes its checks before beat 1,234 is sealed (R440). -/
theorem execRerunOverlaySeal_sealed (o : Overlay) (p : Plan) (hp : NMap.find? s.tkp.plans (o.tick % 16) = some p) (hc : cpState s 0 = 1)
    (hras : s.ras.state = 0) (htick : o.tick = s.tkp.now + 1) (hbeat : s.tkp.beat < 1234) (hplan : p.tick = o.tick) (hsealed : p.state = .sealed)
    (hok : overlayOk s p o = true) :
    execRerunOverlaySeal o s = .next { s with tkp := { s.tkp with overlays := NMap.insert s.tkp.overlays (o.tick % 16) o } } := by
  simp only [execRerunOverlaySeal, hp]
  exact if_pos ⟨hc, hras, htick, hbeat, hplan, hsealed, hok⟩

section
variable (die link grp wire : Nat) (hdie : die < 4) (hlink : link < 3) (hgrp : grp < 1024) (hwire : wire < 16)
include hdie hlink hgrp hwire

/-- The first failing wire of a lane group takes the group's spare at the next seam (R443). -/
theorem execLinkWireFailing_first (hfirst : ∀ w ∈ s.ras.wires, ¬(w.1 = die ∧ w.2.1 = link ∧ w.2.2.1 = grp)) : let f := s.takeFree
    execLinkWireFailing die link grp wire s = .next (retireElement { f.2 with ras := { f.2.ras with
      wires := f.2.ras.wires ++ [(die, link, grp, s.tkp.now + 1)], cntWire := satAdd 16 f.2.ras.cntWire 1 } }
      2 die (link + 4 * grp + 4096 * wire) (f.1.toNat % 65536)) := by
  have hrange : ¬(4 ≤ die ∨ 3 ≤ link ∨ 1024 ≤ grp ∨ 16 ≤ wire) := by omega
  have hspare : ¬s.ras.wires.any (fun w => w.1 == die && w.2.1 == link && w.2.2.1 == grp) = true := by
    simpa only [List.any_eq_true, Bool.and_eq_true, beq_iff_eq, not_exists, not_and, and_assoc] using hfirst
  exact (if_neg hrange).trans (if_neg hspare)

/-- A second failing wire of a group fails the device (R443). -/
theorem execLinkWireFailing_second (hsecond : ∃ w ∈ s.ras.wires, w.1 = die ∧ w.2.1 = link ∧ w.2.2.1 = grp) :
    execLinkWireFailing die link grp wire s = .next (deviceFail s 0x1007 srcHw []) := by
  have hrange : ¬(4 ≤ die ∨ 3 ≤ link ∨ 1024 ≤ grp ∨ 16 ≤ wire) := by omega
  have hspare : s.ras.wires.any (fun w => w.1 == die && w.2.1 == link && w.2.2.1 == grp) = true := by
    simpa only [List.any_eq_true, Bool.and_eq_true, beq_iff_eq, and_assoc] using hsecond
  exact (if_neg hrange).trans (if_pos hspare)

end

/-! ### Sentinels (R445, R447, R448) -/

/-- A sentinel run on a good tile is recorded and counted, and a mismatch is one of its tile. -/
theorem execSentinelRun_good (e : SentEnv) (hc : cpState s 7 = 1) (hdie : e.die < 4) (htile : e.ptile < 44)
    (hgood : 44 * e.die + e.ptile ∉ s.dies.bad) :
    let a := if s.ras.sentBase = 0 then s else devPut s (s.ras.sentBase + 32 * (s.ras.sentRuns % 4096)) (sentRecord s e)
    let b : State := { a with ras := { a.ras with sentRuns := a.ras.sentRuns + 1 } }
    execSentinelRun e s = .next (if e.match_ = true then b else sentinelMiss b e.die e.ptile) := by
  have hgoes : ¬(cpState s 7 ≠ 1 ∨ 4 ≤ e.die ∨ 44 ≤ e.ptile ∨ s.dies.bad.contains (44 * e.die + e.ptile) = true) := by
    simp [hc, hgood, Nat.not_le.mpr hdie, Nat.not_le.mpr htile]
  exact if_neg hgoes

/-- The stress variant on a die on which it is due counts a run and the mismatches of its tiles. -/
theorem execStressVariant_due (die : Nat) (bad : List Nat) (hc : cpState s 7 = 1) (hdie : die < 4) (hfloor : floorsEmpty s = true)
    (hdue : stressDue s die = true) : execStressVariant die bad s = .next (stressServed ((bad.filter fun t => dieOf t == die).foldl
      (fun x t => sentinelMiss x die (physOf x t)) { s with ras := { s.ras with
        stress := satAdd 16 s.ras.stress 1, stressAt := NMap.insert s.ras.stressAt die s.tkp.now } }) die) := by
  have hgoes : ¬(cpState s 7 ≠ 1 ∨ 4 ≤ die ∨ !floorsEmpty s ∨ !stressDue s die) := by simp [hc, hfloor, hdue, Nat.not_le.mpr hdie]
  exact if_neg hgoes

end

/-- Settles O20: each command passes its checks in turn. -/
theorem repairCommands : Obligations.RepairCommands := by
  unfold Obligations.RepairCommands
  intro s t die link grp wire o p e bad
  exact ⟨execTileRemap_faulted s t, execRerunOverlaySeal_sealed s o p,
    fun hdie hlink hgrp hwire => ⟨execLinkWireFailing_first s die link grp wire hdie hlink hgrp hwire,
      execLinkWireFailing_second s die link grp wire hdie hlink hgrp hwire⟩, execSentinelRun_good s e, execStressVariant_due s die bad⟩

/-! ### Stress requests and the health score (R448, R449) -/

section
variable (s : State)

/-- A STRESS_RUN over dies of the mask waits for its runs, where none waits. -/
theorem execStressRun_waits (dies : Nat) (hp : s.pwr.pwrGood = true) (hc : cpState s 7 = 1) (hlo : 1 ≤ dies) (hhi : dies < 16)
    (hfree : s.ras.stressAsk = none) : execStressRun dies s = .next { s with ras := { s.ras with stressAsk := some (dies, s.tkp.now) } } := by
  have hmask : ¬(dies = 0 ∨ 16 ≤ dies) := by omega
  rw [execStressRun, vendorCp7_running s hp hc, if_neg hmask]
  simp [hfree]

/-- The run on the last die of the mask answers the STRESS_RUN. -/
theorem stressServed_last (d n : Nat) (hask : s.ras.stressAsk = some (2 ^ d, n)) :
    stressServed s d = vendorReply { s with ras := { s.ras with stressAsk := none } } 0x06 stOk [] := by
  simp [stressServed, hask, Nat.testBit_two_pow_self]

/-- Once in each window CP7 computes the score: 1,000 less the five penalties (R449). -/
theorem execHealthScore_window (corr retries residue : Nat) (hot : Int) (hc : cpState s 7 = 1) (hnew : s.ras.scoreNo < windowsEnded s) :
    let mem := min 250 (corr / 10)
    let link := min 200 ((retries - 100) / 100)
    let res := min 300 (100 * residue)
    let spares := min 160 (10 * retiredBeyond s)
    let heat := min 100 (10 * (10 - (800 - hot) / 8).toNat)
    execHealthScore corr retries residue hot s = .next { s with ras := { s.ras with
      score := 1000 - (mem + link + res + spares + heat), penMem := mem, penLink := link, penResidue := res, penSpares := spares
      penThermal := heat, scoreNo := windowsEnded s } } :=
  if_neg (not_or.mpr ⟨not_not.mpr hc, Nat.not_le.mpr hnew⟩)

/-! ### Contrail mode and the slowdown window (R396, R451 to R453) -/

/-- CONTRAIL_SET of a body in form is answered OK and waits for the seam. -/
theorem execContrailSet_ok (body : List Byte) (hp : s.pwr.pwrGood = true) (hc : cpState s 7 = 1) (hl : body.length = 16)
    (hmode : fieldAt body 0 1 ≤ 2) (hzero : fieldAt body 2 6 = 0) :
    execContrailSet body s = .next (vendorReply { s with ras := { s.ras with conNext := some body } } 0x07 stOk []) := by
  have hform : ¬(body.length ≠ 16 ∨ 2 < fieldAt body 0 1 ∨ fieldAt body 2 6 ≠ 0) := by omega
  rw [execContrailSet, vendorCp7_running s hp hc, if_neg hform]

/-- At the seam the mode that waits is set, and what was counted and held starts again. -/
theorem contrailSeam_sets (b : List Byte) (hb : s.ras.conNext = some b) : contrailSeam s = { s with ras := { s.ras with
    conNext := none, contrail := fieldAt b 0 1, conPartner := fieldAt b 1 1, conSlices := BitVec.ofNat 64 (fieldAt b 8 8), ready := false
    conSince := s.tkp.now, matched := 0, conMiss := 0, digests := [], theirs := [] } } := by
  simp only [contrailSeam, hb]

section
variable (src reqId len : Nat) (crc : W64) (hhead : headIs s src 0x0120 = true)
include hhead

/-- A digest of the partner leaves its inbox and waits, or meets this device's record of its REQ_ID (R453; log 48). -/
theorem execContrailDigest_partner : let u := takeMsg s src 0x0120
    let d : Digest := ⟨reqId, len, crc, u.tkp.now⟩
    u.ras.contrail ≠ 0 → src = u.ras.conPartner →
    (u.ras.digests.find? (fun x => x.reqId == reqId) = none →
      execContrailDigest src reqId len crc s = .next { u with ras := { u.ras with theirs := u.ras.theirs ++ [d] } }) ∧
    (∀ own, u.ras.digests.find? (fun x => x.reqId == reqId) = some own → execContrailDigest src reqId len crc s = .next (readyCheck (digestCompare
      { u with ras := { u.ras with digests := u.ras.digests.filter fun x => x.reqId != reqId } } own d))) := by
  intro u d hmode hpartner
  have htaken : ¬(!headIs s src 0x0120) = true := by simp [hhead]
  have hours : ¬(u.ras.contrail = 0 ∨ src ≠ u.ras.conPartner) := not_or.mpr ⟨hmode, not_not.mpr hpartner⟩
  refine ⟨fun hnone => (if_neg htaken).trans ((if_neg hours).trans ?_), fun own hown => (if_neg htaken).trans ((if_neg hours).trans ?_)⟩
  · rw [hnone]
  · rw [hown]

end

/-- At the end of a window the measures of every slice are computed and the counts start again (R396). -/
theorem execSlowdownWindow_ended (h : s.slc.winNo < windowsEnded s) : execSlowdownWindow s =
    .next { s with slc := { s.slc with slow := (List.range 64).map fun x => (x, worstDie s x), win := [], winNo := windowsEnded s } } :=
  if_neg (Nat.not_le.mpr h)

end

/-- Settles O21: each request and each event passes its conditions. -/
theorem healthAndContrail : Obligations.HealthAndContrail := by
  unfold Obligations.HealthAndContrail
  intro s dies corr retries residue src reqId len hot body crc
  exact ⟨fun hp hc => ⟨execStressRun_waits s dies hp hc, stressServed_last, contrailSeam_sets, execContrailSet_ok s body hp hc⟩,
    execHealthScore_window s corr retries residue hot, fun hhead => execContrailDigest_partner s src reqId len crc hhead, rfl,
    execSlowdownWindow_ended s⟩

end Sys2Proof.Machine
end

section
/-!
PROOFS OF 21_security.md AND OF 22_management_and_event_recorder.md. Debug access, the entropy source, the windows of the recorder (R457, R470, R471, R485,
R487, R489), and the SPDM responder (R459, R468, R469).
-/
namespace Sys2Proof.Machine

/-! ### Debug access (R470, R471) -/

section
variable (s : State) (q seq : Nat) (r : JRec)

/-- DEBUG_NONCE with a good entropy source draws a nonce that holds for 80,000 ticks. -/
theorem execDebugNonce_draws (h : Starts s q seq 0x0710 r) (hp : r.params = []) (hgood : (begun s q seq).sec.noRandom = false) :
    let u := begun s q seq
    let f := freeWords 4 u
    execDebugNonce q seq s = .next (finishWith { f.2 with sec := { f.2.sec with nonce := some (f.1, u.tkp.now + 80000) } } q seq stOk 0 f.1) := by
  rw [execDebugNonce, withCmd_starts s q seq _ r _ h]
  simp [hp, hgood]

/-- DEBUG_UNLOCK with a token that passes opens debug access at its level. -/
theorem execDebugUnlock_opens (h : Starts s q seq 0x0711 r) (hl : r.params.length = 4699) (hmagic : r.par 0 4 = 0x4B544244)
    (hlo : 1 ≤ r.par 4 1) (hhi : r.par 4 1 ≤ 2) (hzero : r.zeros 5 3 = true) : let u := begun s q seq
    (r.par 4 1 = 2 → u.sec.keys = []) → tokenOk u r.params = true →
    let v := latchAttn (recordEvent (extendM { u with sec := { u.sec with nonce := none } } 7 0 r.params) 0xA005 srcSp []) 5
    execDebugUnlock q seq s = .next (finish { v with sec := { v.sec with debug := r.par 4 1, tapOpen := true } } q seq stOk 0) := by
  intro u hkeys htoken v
  have hform : ¬(r.params.length ≠ 4699 ∨ r.par 0 4 ≠ 0x4B544244 ∨ r.par 4 1 = 0 ∨ 2 < r.par 4 1 ∨ !r.zeros 5 3) := by
    rw [hzero]
    simp only [Bool.not_true, Bool.false_eq_true, or_false]
    omega
  have hfree : ¬(r.par 4 1 = 2 ∧ !u.sec.keys.isEmpty) := fun ⟨hfull, hheld⟩ => by simp [hkeys hfull] at hheld
  have hallowed : ¬(!tokenOk u r.params) := by simp [htoken]
  rw [execDebugUnlock, withCmd_starts s q seq _ r _ h]
  exact congrArg Host.Outcome.next ((if_neg hform).trans ((if_neg hfree).trans (if_neg hallowed)))

/-- DEBUG_LOCK without parameters closes debug access. -/
theorem execDebugLock_closes (h : Starts s q seq 0x0712 r) (hp : r.params = []) :
    execDebugLock q seq s = .next (finish (debugCloses (begun s q seq)) q seq stOk 0) := by
  rw [execDebugLock, withCmd_starts s q seq _ r _ h, hp]
  rfl

end

/-! ### The entropy source and the recorder (R457, R485, R487, R489) -/

/-- The first failure of the entropy source is recorded and latches class 5. -/
theorem execEntropyFail_first (s : State) (hp : s.pwr.pwrGood = true) (hgood : s.sec.noRandom = false) :
    execEntropyFail s = .next (latchAttn (recordEvent { s with sec := { s.sec with noRandom := true } } 0xA006 srcSp []) 5) :=
  if_pos (by simp [hp, hgood])

/-- A window that has ended and has no summaries yet gets them. -/
theorem execSummaryWindow_ended (s : State) (h : s.evr.sumNo < windowsEnded s) : execSummaryWindow s =
    .next ((s.evr.buckets.map fun (e : Nat × RateB) => e.1).foldl summaryOf { s with evr := { s.evr with sumNo := windowsEnded s } }) :=
  if_neg (Nat.not_le.mpr h)

/-- On the flash path CP7 persists what is due. -/
theorem execPersistBatch_due (s : State) (all : Bool) (hpath : s.evr.path = 0) (hc : cpState s 7 = 1)
    (hdue : all = true → s.evr.batchNo < windowsEnded s) : let v := persistRecs s fun r => all || decide (2 ≤ r.sev)
    execPersistBatch all s = .next (if all = true then persistOps { v with evr := { v.evr with batchNo := windowsEnded s } } else v) := by
  have hgoes : ¬(s.evr.path ≠ 0 ∨ cpState s 7 ≠ 1 ∨ (all ∧ windowsEnded s ≤ s.evr.batchNo)) := by
    rintro (h | h | ⟨hall, hdone⟩)
    · exact h hpath
    · exact h hc
    · exact Nat.not_le.mpr (hdue hall) hdone
  exact if_neg hgoes

/-- The flash path is given up. -/
theorem execPersistPathChange_flash (s : State) (hpath : s.evr.path = 0) : let v := loseCopy s.takeFree.2 (s.takeFree.1.toNat % 2)
    execPersistPathChange s = .next (recordEvent { v with evr := { v.evr with path := 1, anchorDue := true } } 0xD003 srcHw []) :=
  if_neg (not_not.mpr hpath)

/-- Settles O48: each command starts and passes its checks; each event finds what it waits for. -/
theorem securityAndRecorder : Obligations.SecurityAndRecorder := by
  unfold Obligations.SecurityAndRecorder
  intro s q seq all r u
  exact ⟨execDebugNonce_draws s q seq r, execDebugUnlock_opens s q seq r, execDebugLock_closes s q seq r, execEntropyFail_first s,
    execSummaryWindow_ended s, fun hpath => ⟨execPersistBatch_due s all hpath, execPersistPathChange_flash s hpath⟩⟩

/-! ### The SPDM responder (R468, R469) -/

section
variable (s : State) (m : Bool) (hp : s.pwr.pwrGood = true)
include hp

/-- A requester that has read its last response is served. -/
theorem spdmTake_read (f : State → State) : spdmTake s m false f = f s := by simp [spdmTake, hp]

/-- A request that comes in its order is served. -/
theorem spdmIn_reached (need : Nat) (h : need ≤ s.sec.spdm) (f : State → State) : spdmIn s m false need f = f s := by
  rw [spdmIn, spdmTake_read s m hp, if_neg (Nat.not_lt.mpr h)]

/-- Any other request is answered UnsupportedRequest. -/
theorem execUnsupportedRequest_unknown (code : Nat) (h : code ∉ spdmKnown) :
    execUnsupportedRequest m false code s = .next (spdmSend s m 0x7F stOk (leBytes 1 7)) := by
  have hunknown : ¬(spdmKnown.contains code = true) := by simpa using h
  rw [execUnsupportedRequest, if_neg hunknown, spdmTake_read s m hp]
  rfl

section
variable (hstate : 3 ≤ s.sec.spdm)
include hstate

/-- GET_DIGESTS of a device with a chain. -/
theorem execGetDigests_chain (chain : List Byte) (hchain : certChain s = some chain) :
    execGetDigests m false s = .next (spdmAnswer s m 0x81 [] 0x01 (sha3_512 chain)) := by
  rw [execGetDigests, spdmIn_reached s m hp 3 hstate]
  simp only [hchain]

/-- GET_CERTIFICATE of a portion of the chain of slot 0. -/
theorem execGetCertificate_portion (off len : Nat) (chain : List Byte) (hchain : certChain s = some chain) (hoff : off < chain.length) :
    let part := (chain.drop off).take len
    execGetCertificate m false 0 off len s = .next (spdmAnswer s m 0x82 (leBytes 1 0 ++ leBytes 2 off ++ leBytes 2 len) 0x02
      (leBytes 2 part.length ++ leBytes 2 (chain.length - off - part.length) ++ part)) := by
  rw [execGetCertificate, spdmIn_reached s m hp 3 hstate]
  simp [hchain, hoff]

/-- GET_MEASUREMENTS of a block that exists, without a signature. -/
theorem execGetMeasurements_plain (i : Nat) (n : List Byte) (hi : i ≤ 10 ∨ i = 0xFF) :
    execGetMeasurements m false i false n s = .next (spdmAnswer s m 0xE0 (leBytes 1 i) 0x60 (measContent s i)) := by
  have hform : ¬((10 < i ∧ i ≠ 0xFF) ∨ (false = true ∧ n.length ≠ 32)) := by
    simp only [Bool.false_eq_true, false_and, or_false]
    omega
  rw [execGetMeasurements, spdmIn_reached s m hp 3 hstate, if_neg hform]
  rfl

section
variable (hrandom : s.sec.noRandom = false) (hid : s.sec.identity = true) (n : List Byte) (hn : n.length = 32)
include hrandom hid

omit hp hstate in
/-- With fresh randomness and an identity an answer is signed over the transcript that ends with it. -/
theorem spdmSigned_fresh (req resp : Nat) (body : List Byte) (content : List Byte → List Byte) : let f := freeWords 4 s
    let v := spdmLog f.2 req body resp (content f.1)
    spdmSigned s m req body resp content = spdmSend v m resp stOk (content f.1 ++ Config.sign v.sec.sk v.sec.transcript) := by
  simp [spdmSigned, hrandom, hid]

include hn

/-- CHALLENGE with a nonce of 32 bytes. -/
theorem execChallenge_signed : let f := freeWords 4 s
    let c := sha3_512 ((certChain s).getD []) ++ f.1
    let v := spdmLog f.2 0x83 n 0x03 c
    execChallenge m false n s = .next (spdmSend v m 0x03 stOk (c ++ Config.sign v.sec.sk v.sec.transcript)) := by
  rw [execChallenge, spdmIn_reached s m hp 3 hstate, if_neg (not_not.mpr hn), spdmSigned_fresh s m hrandom hid]

/-- GET_MEASUREMENTS of a block that exists, with a signature. -/
theorem execGetMeasurements_signed (i : Nat) (hi : i ≤ 10 ∨ i = 0xFF) : let f := freeWords 4 s
    let c := measContent s i ++ f.1
    let v := spdmLog f.2 0xE0 (leBytes 1 i ++ n) 0x60 c
    execGetMeasurements m false i true n s = .next (spdmSend v m 0x60 stOk (c ++ Config.sign v.sec.sk v.sec.transcript)) := by
  have hform : ¬((10 < i ∧ i ≠ 0xFF) ∨ (true = true ∧ n.length ≠ 32)) := by
    simp only [hn, ne_eq, not_true_eq_false, and_false, or_false]
    omega
  rw [execGetMeasurements, spdmIn_reached s m hp 3 hstate, if_neg hform, if_pos rfl, spdmSigned_fresh s m hrandom hid]

end

end

end

/-- Settles O49: each request finds the responder in the state that it needs. -/
theorem spdmExchange : Obligations.SpdmExchange := by
  unfold Obligations.SpdmExchange
  intro s m slot off len i code n chain hp
  refine ⟨congrArg Host.Outcome.next (spdmTake_read s m hp _), fun h => congrArg Host.Outcome.next (spdmIn_reached s m hp 1 h _),
    fun h => congrArg Host.Outcome.next (spdmIn_reached s m hp 2 h _), fun h => ⟨fun hchain => ⟨execGetDigests_chain s m hp h chain hchain, ?portion⟩,
      execGetMeasurements_plain s m hp h i n, fun hrandom hid hn => ⟨execChallenge_signed s m hp h hrandom hid n hn,
        execGetMeasurements_signed s m hp h hrandom hid n hn i⟩⟩, execUnsupportedRequest_unknown s m hp code⟩
  case portion =>
    rintro rfl hoff
    exact execGetCertificate_portion s m hp h off len chain hchain hoff

end Sys2Proof.Machine
end

section
/-!
PROOFS OF 22_management_and_event_recorder.md. Management while a control processor is stopped (R477).
-/
namespace Sys2Proof.Machine

/-! ### Management while a control processor is stopped (R477) -/

section
variable (s : State) (hp : s.pwr.pwrGood = true) (hc : cpState s 7 ≠ 1)
include hp hc

/-- While CP7 does not run, a PLDM request is answered ERROR_NOT_READY. -/
theorem pldm_stopped (f : State → State) : pldm s f = respond s 1 0x04 [] := by simp [pldm, hp, hc]

/-- While CP7 does not run, a vendor message that CP7 serves is answered BUSY. -/
theorem vendorCp7_stopped (cmd : Nat) (f : State → State) : vendorCp7 s cmd f = vendorReply s cmd stBusy [] := by simp [vendorCp7, hp, hc]

end

/-- A state with other states of the control processors and another orphan mode. -/
def State.withCps (s : State) (cps : NMap Nat) (o : Bool) : State :=
  { s with fw := { s.fw with cpState := cps }, hst := { s.hst with orphan := o } }

/-- What an update does does not depend on the states of the control processors and on orphan mode, nor does it change them. -/
def CpBlind (f : State → State) : Prop := ∀ (s : State) (cps : NMap Nat) (o : Bool), f (s.withCps cps o) = (f s).withCps cps o

/-- Of two blind updates the state chooses one by what the processors do not change. -/
theorem CpBlind.ite (p : State → Prop) [∀ s, Decidable (p s)] {f g : State → State} (hp : ∀ s cps o, p (State.withCps s cps o) ↔ p s)
    (hf : CpBlind f) (hg : CpBlind g) : CpBlind fun s => if p s then f s else g s := fun s cps o => by
  simp only [hp s cps o, apply_ite (fun t : State => t.withCps cps o), hf s cps o, hg s cps o]

/-- One blind update after another is blind. -/
theorem CpBlind.comp {f g : State → State} (hf : CpBlind f) (hg : CpBlind g) : CpBlind fun s => f (g s) :=
  fun s cps o => (congrArg f (hg s cps o)).trans (hf (g s) cps o)

/-! #### Messages that the SP answers -/

theorem cpBlind_id : CpBlind fun s => s := fun _ _ _ => rfl

theorem cpBlind_respond (type status : Nat) (body : List Byte) : CpBlind fun s => respond s type status body := fun _ _ _ => rfl

theorem cpBlind_vendorReply (cmd status : Nat) (data : List Byte) : CpBlind fun s => vendorReply s cmd status data := fun _ _ _ => rfl

theorem cpBlind_mapRecs (f : Rec → Rec) : CpBlind fun s => mapRecs s f := fun _ _ _ => rfl

theorem cpBlind_markPersisted : CpBlind markPersisted :=
  CpBlind.ite (fun s => s.evr.path = 1) (fun _ _ _ => Iff.rfl) (fun _ _ _ => rfl) cpBlind_id

/-- With power good or without, an MCTP control message goes on blindly. -/
theorem cpBlind_mctpControl {f : State → State} (hf : CpBlind f) : CpBlind fun s => mctpControl s f :=
  CpBlind.ite (fun s => s.pwr.pwrGood = true) (fun _ _ _ => Iff.rfl) hf cpBlind_id

theorem cpBlind_vendorSp {f : State → State} (hf : CpBlind f) : CpBlind fun s => vendorSp s f :=
  CpBlind.ite (fun s => s.pwr.pwrGood = true) (fun _ _ _ => Iff.rfl) hf cpBlind_id

/-! #### SPDM -/

theorem cpBlind_spdmSend (m : Bool) (code status : Nat) (content : List Byte) : CpBlind fun s => spdmSend s m code status content := by
  cases m <;> exact fun _ _ _ => rfl

theorem cpBlind_spdmError (m : Bool) (e status : Nat) : CpBlind fun s => spdmError s m e status := cpBlind_spdmSend m _ status _

theorem cpBlind_spdmLog (req resp : Nat) (body content : List Byte) : CpBlind fun s => spdmLog s req body resp content := fun _ _ _ => rfl

theorem cpBlind_spdmAnswer (m : Bool) (req resp : Nat) (body content : List Byte) : CpBlind fun s => spdmAnswer s m req body resp content :=
  (cpBlind_spdmSend m resp stOk content).comp (cpBlind_spdmLog req resp body content)

theorem cpBlind_spdmTake (m unread : Bool) {f : State → State} (hf : CpBlind f) : CpBlind fun s => spdmTake s m unread f :=
  CpBlind.ite (fun s => (!s.pwr.pwrGood) = true) (fun _ _ _ => Iff.rfl) cpBlind_id
    (CpBlind.ite (fun _ => unread = true) (fun _ _ _ => Iff.rfl) (cpBlind_spdmError m _ _) hf)

theorem cpBlind_spdmIn (m unread : Bool) (need : Nat) {f : State → State} (hf : CpBlind f) : CpBlind fun s => spdmIn s m unread need f :=
  cpBlind_spdmTake m unread (CpBlind.ite (fun s => s.sec.spdm < need) (fun _ _ _ => Iff.rfl) (cpBlind_spdmError m _ _) hf)

/-- Fresh words are drawn blindly. -/
theorem freeWords_withCps (n : Nat) (s : State) (cps : NMap Nat) (o : Bool) :
    freeWords n (s.withCps cps o) = ((freeWords n s).1, (freeWords n s).2.withCps cps o) := by
  induction n generalizing s with
  | zero => rfl
  | succ n ih =>
    have hnext : (s.withCps cps o).takeFree.2 = s.takeFree.2.withCps cps o := rfl
    simp only [freeWords, hnext, ih]
    rfl

/-- A signed answer draws its nonce, logs the exchange and signs the transcript. -/
theorem cpBlind_spdmSigned (m : Bool) (req resp : Nat) (body : List Byte) (content : State → List Byte → List Byte)
    (hc : ∀ s cps o, content (State.withCps s cps o) = content s) : CpBlind fun s => spdmSigned s m req body resp (content s) := by
  refine CpBlind.ite (fun s => s.sec.noRandom = true) (fun _ _ _ => Iff.rfl) (cpBlind_spdmError m _ _)
    (CpBlind.ite (fun s => (!s.sec.identity) = true) (fun _ _ _ => Iff.rfl) (cpBlind_spdmError m _ _) fun s cps o => ?_)
  simp only [freeWords_withCps, hc, cpBlind_spdmLog req resp body _ _ cps o]
  exact cpBlind_spdmSend m resp stOk _ _ cps o

/-- A command has the same effect whatever the states of the control processors and orphan mode. -/
def CpBlindOut (g : State → Out) : Prop :=
  ∀ (s : State) (cps : NMap Nat) (o : Bool), ∃ t, g s = .next t ∧ g (s.withCps cps o) = .next (t.withCps cps o)

/-- A command whose meaning is a blind update is such a command. -/
theorem CpBlind.next {f : State → State} (hf : CpBlind f) : CpBlindOut fun s => .next (f s) :=
  fun s cps o => ⟨f s, rfl, congrArg Host.Outcome.next (hf s cps o)⟩

theorem execEntdaa_blind (n : Nat) : CpBlindOut (execEntdaa n) := by
  intro s cps o
  by_cases h : !s.pwr.pwrGood ∨ 128 ≤ n
  · exact ⟨s, if_pos h, if_pos h⟩
  · exact ⟨_, if_neg h, if_neg h⟩

theorem execSetEndpointId_blind (n : Nat) : CpBlindOut (execSetEndpointId n) :=
  CpBlind.next (cpBlind_mctpControl (CpBlind.ite (fun _ => n = 0 ∨ 255 ≤ n) (fun _ _ _ => Iff.rfl) (fun _ _ _ => rfl) fun _ _ _ => rfl))

theorem execGetMctpVersionSupport_blind (ty : Nat) : CpBlindOut (execGetMctpVersionSupport ty) :=
  CpBlind.next (cpBlind_mctpControl (CpBlind.ite (fun _ => mctpTypes.contains ty = true ∨ ty = 0xFF) (fun _ _ _ => Iff.rfl) (fun _ _ _ => rfl) fun _ _ _ => rfl))

theorem execGetVendorDefinedMessageSupport_blind (i : Nat) : CpBlindOut (execGetVendorDefinedMessageSupport i) :=
  CpBlind.next (cpBlind_mctpControl (CpBlind.ite (fun _ => i = 0) (fun _ _ _ => Iff.rfl) (fun _ _ _ => rfl) fun _ _ _ => rfl))

theorem execRecorderRead_blind (n m : Nat) : CpBlindOut (execRecorderRead n m) := by
  refine CpBlind.next (cpBlind_vendorSp (CpBlind.ite (fun _ => m % 128 = 0 ∨ 32 < m % 128 ∨ 255 < m) (fun _ _ _ => Iff.rfl)
    (cpBlind_vendorReply _ _ _) (CpBlind.ite (fun _ => 128 ≤ m) (fun _ _ _ => Iff.rfl) (fun _ _ _ => rfl)
      (cpBlind_markPersisted.comp fun _ _ _ => rfl))))

theorem execAnchorSet_blind (op pc : Nat) (es : List (List Byte)) : CpBlindOut (execAnchorSet op pc es) := by
  refine CpBlind.next (cpBlind_vendorSp (CpBlind.ite (fun _ => 256 < es.length ∨ es.any (fun e => e.length != 16) = true) (fun _ _ _ => Iff.rfl)
    (cpBlind_vendorReply _ _ _) (CpBlind.ite (fun s => s.evr.path = 0 ∨ (!s.evr.early) = true) (fun _ _ _ => Iff.rfl) (fun _ _ _ => rfl) ?_)))
  intro s cps o
  cases h : s.evr.bistDone <;> simp only [State.withCps, h] <;> rfl

theorem execGetVersion_blind (m : Bool) : CpBlindOut (execGetVersion m false) :=
  CpBlind.next (cpBlind_spdmTake m false ((cpBlind_spdmAnswer m _ _ _ _).comp
    (g := fun s => { s with sec := { s.sec with spdm := 1, transcript := [] } }) fun _ _ _ => rfl))

theorem execGetCapabilities_blind (m : Bool) : CpBlindOut (execGetCapabilities m false) :=
  CpBlind.next (cpBlind_spdmIn m false 1 ((cpBlind_spdmAnswer m _ _ _ _).comp
    (g := fun s => { s with sec := { s.sec with spdm := max 2 s.sec.spdm } }) fun _ _ _ => rfl))

theorem execNegotiateAlgorithms_blind (m : Bool) : CpBlindOut (execNegotiateAlgorithms m false) :=
  CpBlind.next (cpBlind_spdmIn m false 2 ((cpBlind_spdmAnswer m _ _ _ _).comp
    (g := fun s => { s with sec := { s.sec with spdm := 3 } }) fun _ _ _ => rfl))

theorem certChain_withCps (s : State) (cps : NMap Nat) (o : Bool) : certChain (s.withCps cps o) = certChain s := rfl

theorem execGetDigests_blind (m : Bool) : CpBlindOut (execGetDigests m false) := by
  refine CpBlind.next (cpBlind_spdmIn m false 3 fun s cps o => ?_)
  simp only [certChain_withCps]
  cases certChain s with
  | none => exact cpBlind_spdmError m 5 stOk s cps o
  | some c => exact cpBlind_spdmAnswer m 0x81 0x01 [] (sha3_512 c) s cps o

theorem execGetCertificate_blind (m : Bool) (slot off len : Nat) : CpBlindOut (execGetCertificate m false slot off len) := by
  refine CpBlind.next (cpBlind_spdmIn m false 3 fun s cps o => ?_)
  simp only [certChain_withCps]
  cases certChain s with
  | none => exact cpBlind_spdmError m 5 stOk s cps o
  | some c =>
    exact CpBlind.ite (fun _ => slot ≠ 0 ∨ c.length ≤ off) (fun _ _ _ => Iff.rfl) (cpBlind_spdmError m 1 stOk) (cpBlind_spdmAnswer m _ _ _ _) s cps o

theorem execChallenge_blind (m : Bool) (nonce : List Byte) : CpBlindOut (execChallenge m false nonce) :=
  CpBlind.next (cpBlind_spdmIn m false 3 (CpBlind.ite (fun _ => nonce.length ≠ 32) (fun _ _ _ => Iff.rfl) (cpBlind_spdmError m _ _)
    (cpBlind_spdmSigned m _ _ _ _ fun _ _ _ => rfl)))

theorem execGetMeasurements_blind (m : Bool) (i : Nat) (sign : Bool) (nonce : List Byte) :
    CpBlindOut (execGetMeasurements m false i sign nonce) :=
  CpBlind.next (cpBlind_spdmIn m false 3 (CpBlind.ite (fun _ => (10 < i ∧ i ≠ 0xFF) ∨ (sign = true ∧ nonce.length ≠ 32)) (fun _ _ _ => Iff.rfl)
    (cpBlind_spdmError m _ _) (CpBlind.ite (fun _ => sign = true) (fun _ _ _ => Iff.rfl) (cpBlind_spdmSigned m _ _ _ _ fun _ _ _ => rfl)
      fun s cps o => cpBlind_spdmAnswer m 0xE0 0x60 (leBytes 1 i) (measContent s i) s cps o)))

theorem execUnsupportedRequest_blind (m : Bool) (code : Nat) : CpBlindOut (execUnsupportedRequest m false code) := by
  unfold execUnsupportedRequest
  split
  · exact CpBlind.next cpBlind_id
  · exact CpBlind.next (cpBlind_spdmTake m false (cpBlind_spdmError m 7 stOk))

/-- Settles O60: what CP7 serves it answers only while it runs; what the SP serves is a blind update. -/
theorem managementWhileStopped : Obligations.ManagementWhileStopped := by
  unfold Obligations.ManagementWhileStopped
  intro s hp
  refine ⟨fun hc n m b => ?cp7, fun m cps o slot off len i code eid type sign nonce entries c hmem => ?sp⟩
  case cp7 =>
    have hpldm := fun f => congrArg (Host.Outcome.next : State → Out) (pldm_stopped s hp hc f)
    have hvendor := fun cmd f => congrArg (Host.Outcome.next : State → Out) (vendorCp7_stopped s hp hc cmd f)
    exact ⟨hpldm _, hpldm _, hpldm _, hpldm _, hvendor _ _, hvendor _ _, hvendor _ _, hvendor _ _, hvendor _ _, hvendor _ _⟩
  case sp =>
    simp only [List.mem_cons, List.not_mem_nil, or_false] at hmem
    rcases hmem with rfl | rfl | rfl | rfl | rfl | rfl | rfl | rfl | rfl | rfl | rfl | rfl | rfl | rfl | rfl | rfl
    · exact execGetVersion_blind m s cps o
    · exact execGetCapabilities_blind m s cps o
    · exact execNegotiateAlgorithms_blind m s cps o
    · exact execGetDigests_blind m s cps o
    · exact execGetCertificate_blind m slot off len s cps o
    · exact execChallenge_blind m nonce s cps o
    · exact execGetMeasurements_blind m i sign nonce s cps o
    · exact execUnsupportedRequest_blind m code s cps o
    · exact execSetEndpointId_blind eid s cps o
    · exact CpBlind.next (cpBlind_mctpControl fun _ _ _ => rfl) s cps o
    · exact execGetMctpVersionSupport_blind type s cps o
    · exact CpBlind.next (cpBlind_mctpControl fun _ _ _ => rfl) s cps o
    · exact execGetVendorDefinedMessageSupport_blind i s cps o
    · exact execEntdaa_blind eid s cps o
    · exact execRecorderRead_blind off len s cps o
    · exact execAnchorSet_blind off len entries s cps o

end Sys2Proof.Machine
end
